-- ==== Sys2Proof/Word.lean ====
section
/-!
DEFINITION. Machine words and their plainest arithmetic (R1, R2): what the manual treats as bits.
-/

namespace Sys2Proof

/-- A double-word (R2). -/
abbrev W64 := BitVec 64

/-- A word (R2). -/
abbrev W32 := BitVec 32

/-- A byte (R2). -/
abbrev Byte := BitVec 8

/-- A field that names a scalar register `s0`–`s31` (R50). -/
abbrev SReg := BitVec 5

/-- A vector register `v0`–`v15` (R50). -/
abbrev VReg := BitVec 4

/-- A mask register `m0`–`m7` (R50). -/
abbrev MReg := BitVec 3

/-- An accumulator tile `t0`–`t15` (R50). -/
abbrev TReg := BitVec 4

/-- The image of a vector register: lane `j` is bits `[32j+31:32j]` (R205). -/
abbrev VImage := BitVec 2048

/-- Bits `[hi:lo]` of `x` (R7, `Bits`). -/
abbrev bits {w : Nat} (x : BitVec w) (hi lo : Nat) : BitVec (hi - lo + 1) := x.extractLsb' lo (hi - lo + 1)

end Sys2Proof
end

