-- ==== Sys2Proof/Config.lean ====
section
/-!
DEFINITION. What the manual leaves open: free values, with no body, that nothing can evaluate.
-/

namespace Sys2Proof.Config

/-- Ticks that pass beyond the first before the `n`-th step (log 4). -/
opaque elapsed : Nat → Nat

/-- Which of several things that may happen next happens at the `n`-th step (log 5). -/
opaque choice : Nat → Nat

/-- The SHA-384 digest of a list of bytes: another standard's function, named by R343 (log 7). -/
opaque sha384 : List Byte → BitVec 384

/-- ECDSA verification on brainpoolP384r1 (R343): key, signed bytes, signature r and s (log 7). -/
opaque ecdsaVerify : List Byte → List Byte → BitVec 384 → BitVec 384 → Bool

/-- The identity key's ECDSA signature over report bytes (R345), r and s (log 7). -/
opaque ecdsaSign : List Byte → BitVec 384 × BitVec 384

/-- Which of the boundaries that are left is the `n`-th one of the layout: the manual does not say which two dies a boundary number joins
(log 9). -/
opaque boundaryPlace : Nat → Nat

/-- Whether packets from one die to another that is not next to it cross a boundary: the manual does not state their ways (log 9). -/
opaque crosses : Nat → Nat → Nat → Bool

/-- The Zhevlink port through which packets of a die to a home on another device leave, by number among those that they can take (R316): the
manual gives no choice of port (log 9). -/
opaque exitPort : Nat → Nat → Nat

/-- A word that the manual does not state; each use has a number of its own (log 17). -/
opaque freeWord : Nat → W64

/-- What the stage 2 payloads set up at boot (R341): the spec gives their bodies no layout. By the images and a number for each
word that they configure (log 11). -/
opaque payloadWord : List (List Byte × List Byte) → Nat → W64

/-- The walk routines that the stage 2 payloads load into every TSC (R168, R341; log 11). -/
opaque payloadRoutines : List (List Byte × List Byte) → List Byte

/-- A byte of a save area of which the manual states no content or no form (R78): of queued commands, stream and gang state, a function of
what it holds (log 31). -/
opaque areaByte {α : Type} (saved : α) (a : Nat) : Byte

/-- This module's number in its Zhevlink domain, DESIGN CHOICE (log 10): management assigns it (R316). -/
def device : Nat := 0

end Sys2Proof.Config
end

