-- ==== Sys2Proof/Syntax.lean ====
section
/-!
DEFINITION. The syntax of the machine: one constructor for every row of the opcode table. The rows that have an
encoding come first (R53, R54, R56; the literal forms are R45), then the events of the machine, which have none:
each names what it happens to (95_what_each_step_holds.md).
-/

namespace Sys2Proof

/-- Element types (R51). -/
inductive Ty where
  | f32 | bf16 | f16 | e4m3 | e5m2 | i32 | u32 | i16 | i8 | u8 | nq4 | bq8s | bq8u
  deriving DecidableEq, Repr

/-- Rounding selection, the RM field (R49). -/
inductive Rm where
  | dyn | rne | rtz | rdn | rup
  deriving DecidableEq, Repr

/-- Scopes of the SYNC group and SSTP (R50). -/
inductive Scope where
  | cl | die | dev | sys
  deriving DecidableEq, Repr

/-- Barrier levels (R50, R99). -/
inductive Level where
  | gang | blk | spr
  deriving DecidableEq, Repr

/-- The CSRs 0–18 of R52. -/
inductive Csr where
  | xpc | xcause | xval | xstat | ctxid | coord | cyc | ptime | phcyc | vshare
  | mshare | mtiles | accmode | frm | fflags | logcap | logstat | sigctl | snapctl
  deriving DecidableEq, Repr

/-- Where an error of an array or of memory was found (R329, R330). `local_` is a byte of the on-chip map
(OPM address); `mem` is a line of home memory behind a G-die, read on behalf of a core. -/
inductive ErrSite where
  | local_ (core : Nat) (opm : BitVec 44)
  | mem (pa : Nat) (core : Nat) (tag : Bool)
  deriving DecidableEq, Repr

/-- What the scrubber finds in a line (R332). -/
inductive ScrubResult where
  | good | corrected | uncorrectable | tagFail
  deriving DecidableEq, Repr

/-- What boot finds at one source (R341–R344): its number (1 copy A, 2 copy B, 3 Ethernet) and the images as read. -/
structure BootImage where
  source : Nat
  keyBlock : List Byte
  header1 : List Byte
  body1 : List Byte
  stage2 : List (List Byte × List Byte)
  deriving DecidableEq, Repr

/-- One step of the machine: an instruction form, or an event. -/
inductive Instr where
  /-- R82. Writes the 64-bit sum of two scalar registers to RD. -/
  | add (rd ra rb : SReg)
  /-- R82. ADD with the second operand taken from a 64-bit literal. -/
  | addLit (rd ra : SReg) (lit : W64)
  /-- R82. Writes a minus b to RD, wrapping modulo 2^64. -/
  | sub (rd ra rb : SReg)
  /-- R82. SUB with the second operand taken from a 64-bit literal. -/
  | subLit (rd ra : SReg) (lit : W64)
  /-- R82. Writes the bitwise AND of two operands to RD. -/
  | and (rd ra rb : SReg)
  /-- R82. AND with a 64-bit literal operand. -/
  | andLit (rd ra : SReg) (lit : W64)
  /-- R82. Writes the bitwise OR of two operands to RD. -/
  | or (rd ra rb : SReg)
  /-- R82. OR with a 64-bit literal operand. -/
  | orLit (rd ra : SReg) (lit : W64)
  /-- R82. Writes the bitwise XOR of two operands to RD. -/
  | xor (rd ra rb : SReg)
  /-- R82. XOR with a 64-bit literal operand. -/
  | xorLit (rd ra : SReg) (lit : W64)
  /-- R82. Writes a AND NOT b to RD. -/
  | andn (rd ra rb : SReg)
  /-- R82. ANDN with a 64-bit literal operand. -/
  | andnLit (rd ra : SReg) (lit : W64)
  /-- R82. Shifts a left by b[5:0]. -/
  | shl (rd ra rb : SReg)
  /-- R82. SHL with a 64-bit literal shift operand. -/
  | shlLit (rd ra : SReg) (lit : W64)
  /-- R82. Shifts a right logically by b[5:0]. -/
  | shr (rd ra rb : SReg)
  /-- R82. SHR with a 64-bit literal shift operand. -/
  | shrLit (rd ra : SReg) (lit : W64)
  /-- R82. Shifts a right arithmetically by b[5:0]. -/
  | sra (rd ra rb : SReg)
  /-- R82. SRA with a 64-bit literal shift operand. -/
  | sraLit (rd ra : SReg) (lit : W64)
  /-- R82. Writes 1 if a < b signed, else 0. -/
  | slt (rd ra rb : SReg)
  /-- R82. SLT with a 64-bit literal operand. -/
  | sltLit (rd ra : SReg) (lit : W64)
  /-- R82. Writes 1 if a < b unsigned, else 0. -/
  | sltu (rd ra rb : SReg)
  /-- R82. SLTU with a 64-bit literal operand. -/
  | sltuLit (rd ra : SReg) (lit : W64)
  /-- R82. Writes the signed minimum of a and b. -/
  | min (rd ra rb : SReg)
  /-- R82. MIN with a 64-bit literal operand. -/
  | minLit (rd ra : SReg) (lit : W64)
  /-- R82. Writes the signed maximum of a and b. -/
  | max (rd ra rb : SReg)
  /-- R82. MAX with a 64-bit literal operand. -/
  | maxLit (rd ra : SReg) (lit : W64)
  /-- R82. Writes the unsigned minimum of a and b. -/
  | minu (rd ra rb : SReg)
  /-- R82. MINU with a 64-bit literal operand. -/
  | minuLit (rd ra : SReg) (lit : W64)
  /-- R82. Writes the unsigned maximum of a and b. -/
  | maxu (rd ra rb : SReg)
  /-- R82. MAXU with a 64-bit literal operand. -/
  | maxuLit (rd ra : SReg) (lit : W64)
  /-- R82. Writes the sign-extended low 32 bits of a + b. -/
  | addw (rd ra rb : SReg)
  /-- R82. ADDW with a 64-bit literal operand. -/
  | addwLit (rd ra : SReg) (lit : W64)
  /-- R82. Writes the sign-extended low 32 bits of a − b. -/
  | subw (rd ra rb : SReg)
  /-- R82. SUBW with a 64-bit literal operand. -/
  | subwLit (rd ra : SReg) (lit : W64)
  /-- R82. Writes a + (b shifted left by 1). -/
  | addx1 (rd ra rb : SReg)
  /-- R82. ADDX1 with a 64-bit literal operand. -/
  | addx1Lit (rd ra : SReg) (lit : W64)
  /-- R82. Writes a + (b shifted left by 2). -/
  | addx2 (rd ra rb : SReg)
  /-- R82. ADDX2 with a 64-bit literal operand. -/
  | addx2Lit (rd ra : SReg) (lit : W64)
  /-- R82. Writes a + (b shifted left by 3). -/
  | addx3 (rd ra rb : SReg)
  /-- R82. ADDX3 with a 64-bit literal operand. -/
  | addx3Lit (rd ra : SReg) (lit : W64)
  /-- R83. Writes a plus the sign-extended immediate to RD. -/
  | addi (rd ra : SReg) (imm : BitVec 14)
  /-- R83. ADDI with a 64-bit literal immediate. -/
  | addiLit (rd ra : SReg) (lit : W64)
  /-- R83. Writes a AND the sign-extended immediate. -/
  | andi (rd ra : SReg) (imm : BitVec 14)
  /-- R83. ANDI with a 64-bit literal immediate. -/
  | andiLit (rd ra : SReg) (lit : W64)
  /-- R83. Writes a OR the sign-extended immediate. -/
  | ori (rd ra : SReg) (imm : BitVec 14)
  /-- R83. ORI with a 64-bit literal immediate. -/
  | oriLit (rd ra : SReg) (lit : W64)
  /-- R83. Writes a XOR the sign-extended immediate. -/
  | xori (rd ra : SReg) (imm : BitVec 14)
  /-- R83. XORI with a 64-bit literal immediate. -/
  | xoriLit (rd ra : SReg) (lit : W64)
  /-- R83. Writes 1 if a < immediate signed. -/
  | slti (rd ra : SReg) (imm : BitVec 14)
  /-- R83. SLTI with a 64-bit literal immediate. -/
  | sltiLit (rd ra : SReg) (lit : W64)
  /-- R83. Writes 1 if a < sign-extended immediate unsigned. -/
  | sltiu (rd ra : SReg) (imm : BitVec 14)
  /-- R83. SLTIU with a 64-bit literal immediate. -/
  | sltiuLit (rd ra : SReg) (lit : W64)
  /-- R83. Shifts a left by an immediate count 0–63. -/
  | shli (rd ra : SReg) (sh : BitVec 6)
  /-- R83. Shifts a right logically by an immediate count. -/
  | shri (rd ra : SReg) (sh : BitVec 6)
  /-- R83. Shifts a right arithmetically by an immediate count. -/
  | srai (rd ra : SReg) (sh : BitVec 6)
  /-- R84. Writes the low 64 bits of the product. -/
  | mul (rd ra rb : SReg)
  /-- R84. MUL with a 64-bit literal operand. -/
  | mulLit (rd ra : SReg) (lit : W64)
  /-- R84. Writes the high half of the signed 128-bit product. -/
  | mulh (rd ra rb : SReg)
  /-- R84. MULH with a 64-bit literal operand. -/
  | mulhLit (rd ra : SReg) (lit : W64)
  /-- R84. Writes the high half of the unsigned 128-bit product. -/
  | mulhu (rd ra rb : SReg)
  /-- R84. MULHU with a 64-bit literal operand. -/
  | mulhuLit (rd ra : SReg) (lit : W64)
  /-- R84. Writes the sign-extended 32-bit product of the low words. -/
  | mulw (rd ra rb : SReg)
  /-- R84. MULW with a 64-bit literal operand. -/
  | mulwLit (rd ra : SReg) (lit : W64)
  /-- R84. Signed division truncating toward zero, setting xstat.DIVZ on a zero divisor. -/
  | div (rd ra rb : SReg)
  /-- R84. DIV with a 64-bit literal divisor. -/
  | divLit (rd ra : SReg) (lit : W64)
  /-- R84. Unsigned division, setting xstat.DIVZ on a zero divisor. -/
  | divu (rd ra rb : SReg)
  /-- R84. DIVU with a 64-bit literal divisor. -/
  | divuLit (rd ra : SReg) (lit : W64)
  /-- R84. Signed remainder with the sign of the dividend. -/
  | rem (rd ra rb : SReg)
  /-- R84. REM with a 64-bit literal divisor. -/
  | remLit (rd ra : SReg) (lit : W64)
  /-- R84. Unsigned remainder. -/
  | remu (rd ra rb : SReg)
  /-- R84. REMU with a 64-bit literal divisor. -/
  | remuLit (rd ra : SReg) (lit : W64)
  /-- R85. Counts leading zero bits of a. -/
  | clz (rd ra : SReg)
  /-- R85. Counts trailing zero bits of a. -/
  | ctz (rd ra : SReg)
  /-- R85. Counts one bits of a. -/
  | popc (rd ra : SReg)
  /-- R85. Extracts an n-bit field of a at position p given by b. -/
  | bext (rd ra rb : SReg)
  /-- R85. BEXT with a 64-bit literal position and length. -/
  | bextLit (rd ra : SReg) (lit : W64)
  /-- R85. Inserts low bits of a into RD at the position and length given by b. -/
  | bins (rd ra rb : SReg)
  /-- R85. BINS with a 64-bit literal position and length. -/
  | binsLit (rd ra : SReg) (lit : W64)
  /-- R85. Reverses the bit order of a. -/
  | brev (rd ra : SReg)
  /-- R85. Reverses the byte order of a. -/
  | bswap (rd ra : SReg)
  /-- R86. Branches by the word offset if a equals b. -/
  | beq (ra rs : SReg) (imm : BitVec 14)
  /-- R86. Branches if a differs from b. -/
  | bne (ra rs : SReg) (imm : BitVec 14)
  /-- R86. Branches if a < b signed. -/
  | blt (ra rs : SReg) (imm : BitVec 14)
  /-- R86. Branches if a >= b signed. -/
  | bge (ra rs : SReg) (imm : BitVec 14)
  /-- R86. Branches if a < b unsigned. -/
  | bltu (ra rs : SReg) (imm : BitVec 14)
  /-- R86. Branches if a >= b unsigned. -/
  | bgeu (ra rs : SReg) (imm : BitVec 14)
  /-- R87. Jumps by a signed 24-bit word offset. -/
  | j (off : BitVec 24)
  /-- R87. Jumps by a word offset and writes the return address to s1. -/
  | jal (off : BitVec 24)
  /-- R87. Jumps to a plus the immediate with bits [1:0] cleared, linking in s1. -/
  | jalr (ra : SReg) (imm : BitVec 14)
  /-- R87. JALR with a 64-bit literal offset. -/
  | jalrLit (ra : SReg) (lit : W64)
  /-- R113. Loads a sign-extended byte from a local window. -/
  | ldb (rd ra : SReg) (imm : BitVec 14)
  /-- R113. LDB with a 64-bit literal offset. -/
  | ldbLit (rd ra : SReg) (lit : W64)
  /-- R113. Loads a zero-extended byte from a local window. -/
  | ldbu (rd ra : SReg) (imm : BitVec 14)
  /-- R113. LDBU with a 64-bit literal offset. -/
  | ldbuLit (rd ra : SReg) (lit : W64)
  /-- R113. Loads a sign-extended half-word from a local window. -/
  | ldh (rd ra : SReg) (imm : BitVec 14)
  /-- R113. LDH with a 64-bit literal offset. -/
  | ldhLit (rd ra : SReg) (lit : W64)
  /-- R113. Loads a zero-extended half-word from a local window. -/
  | ldhu (rd ra : SReg) (imm : BitVec 14)
  /-- R113. LDHU with a 64-bit literal offset. -/
  | ldhuLit (rd ra : SReg) (lit : W64)
  /-- R113. Loads a sign-extended word from a local window. -/
  | ldw (rd ra : SReg) (imm : BitVec 14)
  /-- R113. LDW with a 64-bit literal offset. -/
  | ldwLit (rd ra : SReg) (lit : W64)
  /-- R113. Loads a zero-extended word from a local window. -/
  | ldwu (rd ra : SReg) (imm : BitVec 14)
  /-- R113. LDWU with a 64-bit literal offset. -/
  | ldwuLit (rd ra : SReg) (lit : W64)
  /-- R113. Loads a double-word from a local window. -/
  | ldd (rd ra : SReg) (imm : BitVec 14)
  /-- R113. LDD with a 64-bit literal offset. -/
  | lddLit (rd ra : SReg) (lit : W64)
  /-- R113. Stores a byte into a local window. -/
  | stb (rs ra : SReg) (imm : BitVec 14)
  /-- R113. STB with a 64-bit literal offset. -/
  | stbLit (rs ra : SReg) (lit : W64)
  /-- R113. Stores a half-word into a local window. -/
  | sth (rs ra : SReg) (imm : BitVec 14)
  /-- R113. STH with a 64-bit literal offset. -/
  | sthLit (rs ra : SReg) (lit : W64)
  /-- R113. Stores a word into a local window. -/
  | stw (rs ra : SReg) (imm : BitVec 14)
  /-- R113. STW with a 64-bit literal offset. -/
  | stwLit (rs ra : SReg) (lit : W64)
  /-- R113. Stores a double-word into a local window. -/
  | std (rs ra : SReg) (imm : BitVec 14)
  /-- R113. STD with a 64-bit literal offset. -/
  | stdLit (rs ra : SReg) (lit : W64)
  /-- R116. Waits until the ULM granule is full, then loads 8 bytes leaving it full. -/
  | ldfe (rd ra : SReg)
  /-- R116. LDFE with a 64-bit literal offset. -/
  | ldfeLit (rd ra : SReg) (lit : W64)
  /-- R116. Waits until the granule is full, then loads 8 bytes and empties it. -/
  | ldfec (rd ra : SReg)
  /-- R116. LDFEC with a 64-bit literal offset. -/
  | ldfecLit (rd ra : SReg) (lit : W64)
  /-- R116. Waits until the granule is empty, then stores 8 bytes and fills it. -/
  | stfe (rd ra : SReg)
  /-- R116. STFE with a 64-bit literal offset. -/
  | stfeLit (rd ra : SReg) (lit : W64)
  /-- R116. As STFE, storing 4 bytes. -/
  | stfew (rd ra : SReg)
  /-- R116. STFEW with a 64-bit literal offset. -/
  | stfewLit (rd ra : SReg) (lit : W64)
  /-- R116. Marks the granule full without changing data. -/
  | feset (ra : SReg)
  /-- R116. FESET with a 64-bit literal offset. -/
  | fesetLit (ra : SReg) (lit : W64)
  /-- R116. Marks the granule empty without changing data. -/
  | feclr (ra : SReg)
  /-- R116. FECLR with a 64-bit literal offset. -/
  | feclrLit (ra : SReg) (lit : W64)
  /-- R116. Writes 1 if the granule is full, else 0, without waiting. -/
  | fetst (rd ra : SReg)
  /-- R116. FETST with a 64-bit literal offset. -/
  | fetstLit (rd ra : SReg) (lit : W64)
  /-- R118. Releases any held lock, waits for and takes the scratchpad word's lock bit, and loads the word. -/
  | ldl (rd ra : SReg)
  /-- R118. LDL with a 64-bit literal offset. -/
  | ldlLit (rd ra : SReg) (lit : W64)
  /-- R118. Stores and releases if the thread holds the lock, writing 0, else writes 1 and stores nothing. -/
  | stu (rd ra rb : SReg)
  /-- R118. Releases the lock on the word if this thread holds it. -/
  | ulk (ra : SReg)
  /-- R118. ULK with a 64-bit literal offset. -/
  | ulkLit (ra : SReg) (lit : W64)
  /-- R128. Loads 8 bytes of shared memory through the cluster view with own-record forwarding. -/
  | sld (rd ra : SReg) (imm : BitVec 14)
  /-- R128. SLD with a 64-bit literal offset. -/
  | sldLit (rd ra : SReg) (lit : W64)
  /-- R128. Loads 4 zero-extended bytes of shared memory through the view. -/
  | sldw (rd ra : SReg) (imm : BitVec 14)
  /-- R128. SLDW with a 64-bit literal offset. -/
  | sldwLit (rd ra : SReg) (lit : W64)
  /-- R128. Loads 8 bytes from home memory as applied. -/
  | sldh (rd ra : SReg) (imm : BitVec 14)
  /-- R128. SLDH with a 64-bit literal offset. -/
  | sldhLit (rd ra : SReg) (lit : W64)
  /-- R127. Appends or merges an 8-byte write record in the store log. -/
  | sst (rs ra : SReg) (imm : BitVec 14)
  /-- R127. SST with a 64-bit literal offset. -/
  | sstLit (rs ra : SReg) (lit : W64)
  /-- R127. Appends or merges a 4-byte write record. -/
  | sstw (rs ra : SReg) (imm : BitVec 14)
  /-- R127. SSTW with a 64-bit literal offset. -/
  | sstwLit (rs ra : SReg) (lit : W64)
  /-- R127. Appends or merges a 1-byte write record. -/
  | sstb (rs ra : SReg) (imm : BitVec 14)
  /-- R127. SSTB with a 64-bit literal offset. -/
  | sstbLit (rs ra : SReg) (lit : W64)
  /-- R143. Appends one 8-byte record and publishes it alone at the given scope. -/
  | sstp (sc : Scope) (rs ra : SReg)
  /-- R137. Reads a sync object's pseq and replays its publications of the bound region into the cluster view. -/
  | acq (sc : Scope) (ra : SReg)
  /-- R133. Publishes the context's unpublished log tail under a sync object and stalls until it holds a call-window slot. -/
  | rel (sc : Scope) (ra : SReg)
  /-- R145. Waits until earlier records are accepted or refused, then writes and clears the fence status. -/
  | fence (sc : Scope) (rd : SReg)
  /-- R146. Orders the thread's later shared loads after its earlier shared loads. -/
  | fencel (sc : Scope)
  /-- R132. Binds a shared region to a sync object at its home. -/
  | sobind (rd ra rb : SReg)
  /-- R132. Unbinds a sync object's region. -/
  | sounb (ra : SReg)
  /-- R132. Atomically adds to a sync object user word, returning the old value. -/
  | syadd (rd ra rb : SReg)
  /-- R132. SYADD with a 64-bit literal addend. -/
  | syaddLit (rd ra : SReg) (lit : W64)
  /-- R132. Atomically compares and swaps a sync object user word. -/
  | sycas (rd ra rb : SReg)
  /-- R132. SYCAS with a 64-bit literal new value. -/
  | sycasLit (rd ra : SReg) (lit : W64)
  /-- R132. Atomically swaps a sync object user word. -/
  | syswp (rd ra rb : SReg)
  /-- R132. SYSWP with a 64-bit literal new value. -/
  | syswpLit (rd ra : SReg) (lit : W64)
  /-- R132. Reads a word of a sync object at its home. -/
  | syld (rd ra : SReg)
  /-- R144. Appends a kind-1 64-bit integer add record. -/
  | logadd (ra rb : SReg)
  /-- R144. LOGADD with a 64-bit literal addend. -/
  | logaddLit (ra : SReg) (lit : W64)
  /-- R144. Appends a kind-2 FP32 add record. -/
  | logfadd (ra rb : SReg)
  /-- R144. LOGFADD with a 64-bit literal addend. -/
  | logfaddLit (ra : SReg) (lit : W64)
  /-- R92. Starts the lowest free helper thread at entry a with argument b, returning its number or 0. -/
  | hstart (rd ra rb : SReg)
  /-- R92. HSTART with a 64-bit literal argument. -/
  | hstartLit (rd ra : SReg) (lit : W64)
  /-- R93. Waits until the named helper is not live. -/
  | hjoin (ra : SReg)
  /-- R93. Ends the issuing helper thread after its local accesses complete. -/
  | hexit
  /-- R93. Writes the context's live-thread mask. -/
  | hstat (rd : SReg)
  /-- R93. Makes the thread not ready for 10 cycles. -/
  | yield
  /-- R94. Asks to form, leave or dissolve a gang over a rectangle of cores. -/
  | gang (ra : SReg)
  /-- R97. Detaches a gang follower from the forward lane. -/
  | detach
  /-- R98. Increments the member's REJOIN count and may re-attach a detached follower. -/
  | rejoin
  /-- R99. Arrives at the next instance of a gang, block or spread barrier and waits for its release. -/
  | bar (lv : Level)
  /-- R101. Arrives at the next barrier instance of a level without waiting. -/
  | signal (ra : SReg)
  /-- R104. Sets the context to compute phase and zeroes phcyc. -/
  | phasec
  /-- R104. Sets the context to exchange phase and zeroes phcyc. -/
  | phasex
  /-- R104. Keeps the thread not ready while phcyc is below b. -/
  | waitc (rb : SReg)
  /-- R104. WAITC with a 64-bit literal cycle count. -/
  | waitcLit (lit : W64)
  /-- R103. A gang barrier that returns 1 if any member voted nonzero. -/
  | bany (rd ra : SReg)
  /-- R103. A gang barrier that returns 1 if every member voted nonzero. -/
  | ball (rd ra : SReg)
  /-- R120. Sends a remote write of b into a register of a thread on another core and stalls until accepted. -/
  | rset (idx : BitVec 5) (ra rb : SReg)
  /-- R120. RSET with a 64-bit literal value. -/
  | rsetLit (idx : BitVec 5) (ra : SReg) (lit : W64)
  /-- R121. Clears a register's presence bit and applies its oldest inbox entry if any. -/
  | pclr (idx : BitVec 5)
  /-- R121. Sets a register's presence bit keeping its value. -/
  | pset (idx : BitVec 5)
  /-- R121. Writes the presence bit of a named register without waiting. -/
  | ptst (rd : SReg) (idx : BitVec 5)
  /-- R122. Waits for and reserves a target core's stream port and route. -/
  | sopen (ra : SReg)
  /-- R122. Sends a 64-bit value into the open stream. -/
  | sput (rb : SReg)
  /-- R122. SPUT with a 64-bit literal value. -/
  | sputLit (lit : W64)
  /-- R122. Takes the stream FIFO head, freeing the port at the closing marker. -/
  | sget (rd : SReg)
  /-- R122. Sends the closing marker and ends the thread's stream. -/
  | sclose
  /-- R123. Sends a 64-bit message to a context's message queue on any core. -/
  | msg (ra rb : SReg)
  /-- R123. MSG with a 64-bit literal payload. -/
  | msgLit (ra : SReg) (lit : W64)
  /-- R123. Takes the oldest message, waiting while the queue is empty. -/
  | msgrd (rd : SReg)
  /-- R105. Reads a CSR into RD, waiting for fflags or xstat sources where stated. -/
  | csrr (rd : SReg) (csr : Csr)
  /-- R105. Writes a to a CSR's RW fields and 1 bits to its W1C fields. -/
  | csrw (csr : Csr) (ra : SReg)
  /-- R105. Sets bits of a CSR's RW fields. -/
  | csrs (csr : Csr) (ra : SReg)
  /-- R105. Clears bits of a CSR's RW and W1C fields. -/
  | csrc (csr : Csr) (ra : SReg)
  /-- R107. Raises trap cause 9 with xval from RA. -/
  | trap (ra : SReg)
  /-- R71. Returns from the trap handler, restoring mode and releasing paused threads. -/
  | rte
  /-- R107. Makes the thread not ready until a wake event occurs. -/
  | wfi
  /-- R91. Discards the thread's instruction buffer and refetches. -/
  | ifence
  /-- R107. Invalidates core and cluster TLB entries mapping the page of a. -/
  | tlbi (ra : SReg)
  /-- R337. Fires the common snapshot trigger and sets snapctl.fired. -/
  | snap
  /-- R107. Waits for the context's end conditions and ends the context. -/
  | halt
  /-- R216. Element-wise vector add. -/
  | vadd (ty : Ty) (rm : Rm) (sat : Bool) (vd va vb : VReg) (mk : MReg)
  /-- R216. Element-wise vector subtract. -/
  | vsub (ty : Ty) (rm : Rm) (sat : Bool) (vd va vb : VReg) (mk : MReg)
  /-- R216. Element-wise vector multiply. -/
  | vmul (ty : Ty) (rm : Rm) (sat : Bool) (vd va vb : VReg) (mk : MReg)
  /-- R216. Element-wise fused multiply-add with one rounding. -/
  | vfma (ty : Ty) (rm : Rm) (sat : Bool) (vd va vb vc : VReg) (mk : MReg)
  /-- R216. Element-wise fused multiply-subtract with one rounding. -/
  | vfms (ty : Ty) (rm : Rm) (sat : Bool) (vd va vb vc : VReg) (mk : MReg)
  /-- R216. Element-wise minimum. -/
  | vmin (ty : Ty) (vd va vb : VReg) (mk : MReg)
  /-- R216. Element-wise maximum. -/
  | vmax (ty : Ty) (vd va vb : VReg) (mk : MReg)
  /-- R216. Element-wise absolute value. -/
  | vabs (ty : Ty) (sat : Bool) (vd va : VReg) (mk : MReg)
  /-- R216. Element-wise negation. -/
  | vneg (ty : Ty) (sat : Bool) (vd va : VReg) (mk : MReg)
  /-- R216. Correctly rounded FP32 reciprocal. -/
  | vrcp (rm : Rm) (vd va : VReg) (mk : MReg)
  /-- R216. Correctly rounded FP32 reciprocal square root. -/
  | vrsq (rm : Rm) (vd va : VReg) (mk : MReg)
  /-- R216. Correctly rounded FP32 square root. -/
  | vsqrt (rm : Rm) (vd va : VReg) (mk : MReg)
  /-- R216. Correctly rounded FP32 power of two. -/
  | vexp2 (rm : Rm) (vd va : VReg) (mk : MReg)
  /-- R216. Correctly rounded FP32 base-2 logarithm. -/
  | vlog2 (rm : Rm) (vd va : VReg) (mk : MReg)
  /-- R217. Sets mask bits where lanes compare equal. -/
  | vcmpeq (ty : Ty) (md : MReg) (va vb : VReg) (mk : MReg)
  /-- R217. Sets mask bits where lane a < lane b. -/
  | vcmplt (ty : Ty) (md : MReg) (va vb : VReg) (mk : MReg)
  /-- R217. Sets mask bits where lane a <= lane b. -/
  | vcmple (ty : Ty) (md : MReg) (va vb : VReg) (mk : MReg)
  /-- R217. Selects each lane from va or vb by a mask. -/
  | vsel (vd va vb : VReg) (mk : MReg)
  /-- R217. Bitwise AND of active lanes. -/
  | vand (vd va vb : VReg) (mk : MReg)
  /-- R217. Bitwise OR of active lanes. -/
  | vor (vd va vb : VReg) (mk : MReg)
  /-- R217. Bitwise XOR of active lanes. -/
  | vxor (vd va vb : VReg) (mk : MReg)
  /-- R217. Element-wise shift left by a per-element count. -/
  | vshl (ty : Ty) (vd va vb : VReg) (mk : MReg)
  /-- R217. Element-wise logical shift right. -/
  | vshr (ty : Ty) (vd va vb : VReg) (mk : MReg)
  /-- R217. Element-wise arithmetic shift right. -/
  | vsra (ty : Ty) (vd va vb : VReg) (mk : MReg)
  /-- R217. Converts elements between types with a part selector. -/
  | vcvt (dst src : Ty) (rm : Rm) (p : BitVec 2) (vd va : VReg) (mk : MReg)
  /-- R217. Copies active lanes. -/
  | vmov (vd va : VReg) (mk : MReg)
  /-- R218. Broadcasts a scalar plus IMM32 to every active element. -/
  | vbcst (ty : Ty) (vd : VReg) (ra : SReg) (imm : BitVec 32) (mk : MReg)
  /-- R218. VBCST with a 64-bit literal in place of IMM32. -/
  | vbcstLit (ty : Ty) (vd : VReg) (ra : SReg) (lit : W64) (mk : MReg)
  /-- R218. Extracts one element to a scalar register. -/
  | vext (ty : Ty) (rd : SReg) (va : VReg) (rb : SReg)
  /-- R218. Inserts a scalar into one element. -/
  | vins (ty : Ty) (vd : VReg) (ra rb : SReg)
  /-- R218. Writes each lane the count of mask bits below it. -/
  | viota (ty : Ty) (vd : VReg) (mk : MReg)
  /-- R218. Permutes elements of va by indices in vb. -/
  | vperm (ty : Ty) (vd va vb : VReg) (mk : MReg)
  /-- R219. Reduces active elements by a fixed pairwise add tree into lane 0. -/
  | vredadd (ty : Ty) (rm : Rm) (vd va : VReg) (mk : MReg)
  /-- R219. Reduces active elements to their maximum. -/
  | vredmax (ty : Ty) (vd va : VReg) (mk : MReg)
  /-- R219. Reduces active elements to their minimum. -/
  | vredmin (ty : Ty) (vd va : VReg) (mk : MReg)
  /-- R219. Writes the sequential prefix sum of active elements. -/
  | vscan (ty : Ty) (rm : Rm) (vd va : VReg) (mk : MReg)
  /-- R220. Loads consecutive 4-byte lanes from a local window or, with .sh, shared memory. -/
  | vld (sh : Bool) (vd : VReg) (ra : SReg) (imm : BitVec 32) (mk : MReg)
  /-- R220. VLD with a 64-bit literal offset. -/
  | vldLit (sh : Bool) (vd : VReg) (ra : SReg) (lit : W64) (mk : MReg)
  /-- R220. Stores consecutive 4-byte lanes, or appends SSTW records with .sh. -/
  | vst (sh : Bool) (vs : VReg) (ra : SReg) (imm : BitVec 32) (mk : MReg)
  /-- R220. VST with a 64-bit literal offset. -/
  | vstLit (sh : Bool) (vs : VReg) (ra : SReg) (lit : W64) (mk : MReg)
  /-- R220. Loads lanes at a scalar stride. -/
  | vlds (sh : Bool) (vd : VReg) (ra rb : SReg) (imm : BitVec 32) (mk : MReg)
  /-- R220. VLDS with a 64-bit literal offset. -/
  | vldsLit (sh : Bool) (vd : VReg) (ra rb : SReg) (lit : W64) (mk : MReg)
  /-- R220. Stores lanes at a scalar stride. -/
  | vsts (sh : Bool) (vs : VReg) (ra rb : SReg) (imm : BitVec 32) (mk : MReg)
  /-- R220. VSTS with a 64-bit literal offset. -/
  | vstsLit (sh : Bool) (vs : VReg) (ra rb : SReg) (lit : W64) (mk : MReg)
  /-- R220. Gathers lanes from per-lane offsets. -/
  | vgth (sh : Bool) (vd : VReg) (ra : SReg) (vb : VReg) (imm : BitVec 32) (mk : MReg)
  /-- R220. VGTH with a 64-bit literal offset. -/
  | vgthLit (sh : Bool) (vd : VReg) (ra : SReg) (vb : VReg) (lit : W64) (mk : MReg)
  /-- R220. Scatters lanes to per-lane offsets. -/
  | vsct (sh : Bool) (vs : VReg) (ra : SReg) (vb : VReg) (imm : BitVec 32) (mk : MReg)
  /-- R220. VSCT with a 64-bit literal offset. -/
  | vsctLit (sh : Bool) (vs : VReg) (ra : SReg) (vb : VReg) (lit : W64) (mk : MReg)
  /-- R223. Decodes one BQ8 or NQ4 block to FP32 lanes. -/
  | vdq (ty : Ty) (p : BitVec 3) (vd va : VReg) (rb : SReg) (mk : MReg)
  /-- R223. Quantises FP32 lanes into one BQ8 or NQ4 block. -/
  | vqnt (ty : Ty) (rm : Rm) (p : BitVec 3) (vd va : VReg) (rb : SReg) (mk : MReg)
  /-- R224. Adds an exponent histogram of va into vd. -/
  | vhist (vd va : VReg) (mk : MReg)
  /-- R224. Derives a block scale from a histogram at a percentile. -/
  | vscale (ty : Ty) (rd : SReg) (va : VReg) (rb : SReg)
  /-- R225. ANDs two mask registers. -/
  | kand (md ma mb : MReg)
  /-- R225. ORs two mask registers. -/
  | kor (md ma mb : MReg)
  /-- R225. Complements a mask register. -/
  | knot (md ma : MReg)
  /-- R225. Counts set bits of a mask register. -/
  | kpop (rd : SReg) (ma : MReg)
  /-- R238. Sets the context's weight descriptor and loads a weight tile into the matrix array. -/
  | mwld (ty : Ty) (ra : SReg) (kr : BitVec 8) (n1 : BitVec 7) (sup : BitVec 32)
  /-- R239. Streams float activation rows through the latched weights into a tile. -/
  | mma (v : Bool) (ty : Ty) (td : TReg) (ra : SReg) (rows : BitVec 8) (trow : BitVec 32)
  /-- R239. Streams integer activation rows into a tile with zero-point correction and optional row sums. -/
  | mmai (v asg wsg rsm : Bool) (td : TReg) (ra rb rc : SReg) (rows : BitVec 8) (trow : BitVec 32)
  /-- R241. Sets every word of a tile to zero. -/
  | mzero (td : TReg)
  /-- R241. Writes raw words into tile rows, or broadcasts a bias row. -/
  | mldacc (b : Bool) (td : TReg) (ra : SReg) (rows : BitVec 8) (trow : BitVec 32)
  /-- R243. Hands a tile to a copy channel as a transfer with conversion or requantisation. -/
  | mdrain (mode : BitVec 3) (sh z : Bool) (ch : BitVec 3) (td : TReg) (ra rb : SReg) (ring : BitVec 8) (tag : BitVec 32)
  /-- R242. Loads 128 requantisation parameter entries. -/
  | mrqp (ra : SReg)
  /-- R244. Multiplies rank lists against weight slices into a tile through an attenuation table. -/
  | mrank (ty : Ty) (td : TReg) (ra rb rc : SReg) (rows : BitVec 8) (n1 : BitVec 7) (scale : BitVec 32)
  /-- R245. Waits until every earlier matrix command of the context has completed. -/
  | mwait
  /-- R245. Waits like MWAIT and returns the status word or a column sum. -/
  | mstat (rd ra : SReg)
  /-- R257. Sorts n keys and writes the top K rank words. -/
  | rank (v mag : Bool) (ty : Ty) (rd ra rb rc : SReg)
  /-- R258. Ranks each column of a matrix and writes K words per column. -/
  | rankc (mag : Bool) (ty : Ty) (rd ra rb rc : SReg) (pitch : BitVec 32)
  /-- R259. Loads an attenuation table and sets its length. -/
  | rktab (rd ra rb : SReg)
  /-- R261. Reconstructs a dense vector from a rank list through a table. -/
  | rkval (ty : Ty) (rd ra rb rc : SReg) (scale : BitVec 32)
  /-- R281. Configures or releases an assignment-engine problem slot from a record. -/
  | aecfg (rd ra rb : SReg)
  /-- R276. Forms a slot's int16 scores from FP32 logits and biases. -/
  | aesc (rd ra rb rc : SReg)
  /-- R281. Loads a slot's capacity vector or restores the default. -/
  | aecap (dflt : Bool) (rd ra rb : SReg)
  /-- R279. Starts a slot's auction run with an optional deadline. -/
  | aerun (ra rb : SReg)
  /-- R280. Waits for earlier runs on the slot to end and returns its run word. -/
  | aewait (rd ra : SReg)
  /-- R281. Writes a slot's assignment results to memory. -/
  | aerd (rd ra rb : SReg)
  /-- R281. Writes a price bank's 512 words to memory. -/
  | aepr (rd ra rb : SReg)
  /-- R281. Loads a price bank from memory. -/
  | aepw (rd ra rb : SReg)
  /-- R280. Returns a slot's run word as it stands on arrival. -/
  | aestat (rd ra : SReg)
  /-- R180. Appends a shaped transfer to a copy channel, returning its sequence number. -/
  | cpy (ssh dsh dstr defer code : Bool) (ch : BitVec 3) (rd ra rb rc : SReg) (ring : BitVec 8) (tag : BitVec 32)
  /-- R192. Multicasts a copy into every core of a rectangle once the buffer-free flags allow. -/
  | cpym (ssh dstr : Bool) (flag : BitVec 2) (ch : BitVec 3) (rd ra rb rc : SReg) (ring : BitVec 8) (off : BitVec 32)
  /-- R191. Sets a channel's memory-resident chain head. -/
  | cpych (sh : Bool) (ch : BitVec 3) (ra : SReg) (ring : BitVec 8)
  /-- R189. Configures or resets a completion ring once no transfer names it. -/
  | cring (ra rb : SReg)
  /-- R189. Waits for an unread ring slot and returns a word of it. -/
  | cawait (seq : Bool) (rd ra : SReg)
  /-- R189. Waits for an unread ring slot and releases it. -/
  | crel (ra : SReg)
  /-- R187. Returns a channel's completed sequence number. -/
  | cseq (rd ra : SReg)
  /-- R192. Sets one of the context's buffer-free flags. -/
  | bfree (ra : SReg)
  /-- R190. Publishes a ring's deferred shadows in one publication and waits for its application. -/
  | publish (rd ra : SReg)
  /-- R323. Hands a collective descriptor to the communication processors and returns a handle. -/
  | coll (rd ra : SReg)
  /-- R323. Waits for a collective instance to complete or be refused and returns its status. -/
  | collw (rd ra : SReg)
  -- the events of the machine
  /-- R328. A block's CRC differs from its table entry, raising cause 8 and a SIG RAS entry. -/
  | signatureMismatch
  /-- R142. A store stalled for logcap.n cycles raises cause 7. -/
  | logFull
  /-- R302. A launch passes a budget component and every context receives notice 12. -/
  | budgetOverrun (launch : Nat)
  /-- R74. At the switch tick each core of a spread stops the outgoing context and resumes the shadow within 100 cycles. -/
  | switchTick (core : Nat)
  /-- R73. The streaming slot finishes moving a context image and region data to or from its save area. -/
  | contextStream (core launch : Nat)
  /-- R303. A dispatcher places a spread, assigns save areas, names the switch tick and loads the image. -/
  | dispatch (launch : Nat) (dies : List Nat) (cr cc : Nat)
  /-- R303. The loader-channel image copy ends, starting contexts on OK or completing the launch BADREC. -/
  | imageLoadComplete (launch : Nat)
  /-- R65. HALT's conditions hold and the context ends, discarding unpublished records. -/
  | contextEnd (core : Nat)
  /-- R304. The counter tree reports the launch's end and the completion record is published. -/
  | completionRecord (launch : Nat)
  /-- R120. A remote register write arrives and is applied, queued in the inbox or refused. -/
  | remoteWriteArrival (core : Nat)
  /-- R120. The target's acceptance or refusal reaches the sending RSET. -/
  | rsetAcceptance (core thr : Nat)
  /-- R120. A refused remote write is retried after 8 cycles. -/
  | rsetRetry (core thr : Nat)
  /-- R109. A window access to a core with no resident context of the launch is retried every 8 cycles. -/
  | remoteAccessRetry (core thr : Nat)
  /-- R111. Data of a local load from another window or core arrives and its register becomes present. -/
  | localLoadReturn (pos : Nat)
  /-- R123. A message arrives and enters the target context's message queue or is refused. -/
  | messageArrival (core : Nat)
  /-- R122. A free stream port is granted to a waiting SOPEN and its route is set up. -/
  | streamPortGrant (core : Nat)
  /-- R122. A stream data entry or closing marker enters the target's FIFO. -/
  | streamEntryArrival (core : Nat)
  /-- R118. A waiting LDL is granted its lock bit and its word is read. -/
  | lockGrant (cluster bank k : Nat)
  /-- R117. A lock bit is released 64 cycles after it was granted. -/
  | lockTimeout (cluster : Nat)
  /-- R116. A granule's bit changes and a waiting LDFE, LDFEC, STFE or STFEW completes. -/
  | feWaitComplete (core granule : Nat)
  /-- R95. Every member has issued GANG and the gang forms within 32 cycles. -/
  | gangFormed (core : Nat)
  /-- R96. A leader's forwarded instruction or REJOIN count reaches a follower. -/
  | forwardArrival (core : Nat)
  /-- R99. All participants have arrived at a barrier instance and are released. -/
  | barrierRelease (launch : Nat) (lv : Level) (leader : Nat)
  /-- R104. phcyc reaches a WAITC's count and the thread becomes ready. -/
  | waitcExpiry (core thr : Nat)
  /-- R93. The 10 cycles after YIELD elapse and the thread becomes ready. -/
  | yieldExpiry (core thr : Nat)
  /-- R126. A log record reaches its home and is accepted after translation. -/
  | recordDrift (core : Nat)
  /-- R134. A device or system call window begins and waiting publications take slots. -/
  | callWindow (sys : Bool)
  /-- R135. At the application tick homes apply the window's publications in publish order and advance pseq and ptick. -/
  | publicationApply (lag : BitVec 4)
  /-- R136. A die's replica of a REPL page applies a publication within 256 ticks. -/
  | replicaApply (die : Nat)
  /-- R128. Data of a shared load arrives and its destination becomes present. -/
  | sharedLoadReturn (pos : Nat)
  /-- R133. A REL's tail is at home and holds a slot, so the REL completes. -/
  | relComplete (core thr : Nat)
  /-- R137. An ACQ's replay ends with V equal to P and the ACQ completes. -/
  | acqComplete (core thr : Nat)
  /-- R132. A sync-object binding or atomic completes at the home and returns its result. -/
  | syncOpComplete (core thr : Nat)
  /-- R145. All earlier records are accepted or refused and FENCE writes its status. -/
  | fenceComplete (core thr : Nat)
  /-- R141. The log merger reclaims the oldest applied segments when storage is full. -/
  | segmentReclaim
  /-- R167. The TSC takes the next queued miss and runs its walk routine. -/
  | tscWalk (cluster : Nat)
  /-- R169. A walk returns and the TSC fills the TLBs or reports ABSENT or DENY. -/
  | tlbFill (cluster : Nat)
  /-- R170. After an ABSENT, the TSC walks again on the asid signal or 50 µs later. -/
  | absentRewalk (cluster : Nat)
  /-- R170. After a first DENY the TSC walks again no earlier than 64 ticks later. -/
  | denyRewalk (cluster : Nat)
  /-- R169. The TSC periodically removes expired mode-L entries. -/
  | tlbSweep (cluster : Nat)
  /-- R172. An INVCTL go with scope 0 broadcasts invalidation of entries mapping one VA. -/
  | invalVa (vpn : BitVec 32) (asid : BitVec 12)
  /-- R172. An INVCTL go with scope 1 broadcasts invalidation of every entry of an asid. -/
  | invalAsid (asid : BitVec 12)
  /-- R172. An INVCTL go with scope 2 broadcasts invalidation of every entry. -/
  | invalAll
  /-- R173. A TSC has removed matching entries and finished older walks and acknowledges. -/
  | tscAcknowledge (cluster : Nat)
  /-- R173. All TSC acknowledgements are counted and INVCTL.done is set. -/
  | invalDone
  /-- R182. A transfer reaches its channel head and its checks and translation begin. -/
  | transferStart (cluster ch : Nat)
  /-- R188. A transfer finishes, publishes or sets full bits, and writes its ring slot. -/
  | transferComplete (cluster ch : Nat)
  /-- R191. An idle channel reads the next chain record and runs or ends the chain. -/
  | chainRecordFetch (cluster ch : Nat)
  /-- R192. The buffer-free AND-tree turns true, clears the flags and queues the CPYM transfer. -/
  | multicastGrant (core thr : Nat)
  /-- R210. A vector entry writes its results P cycles after its last slice. -/
  | xvComplete (core : Nat)
  /-- R231. The matrix arbiter grants an eligible queue head by credit and pointer. -/
  | matrixGrant (cluster : Nat)
  /-- R232. A matrix command completes at its stated time. -/
  | matrixComplete (cluster : Nat)
  /-- R252. The ranking unit grants the next core's oldest command. -/
  | rankGrant (cluster : Nat)
  /-- R255. A rank command completes, writing outputs, full bits and its status word. -/
  | rankComplete (cluster : Nat)
  /-- R274. An assignment-engine command starts at the engine and makes its start checks. -/
  | aeCommandStart (die pos : Nat)
  /-- R275. An assignment-engine command completes and writes its status word. -/
  | aeCommandComplete (die pos : Nat)
  /-- R278. The engine serves one Jacobi auction round of a running slot. -/
  | aeRound (die slot : Nat)
  /-- R279. A run converges or hits its limit or deadline, is filled, and writes back prices and results. -/
  | aeRunEnd (die slot : Nat)
  /-- R293. The scheduler reads a submitted launch record at its home and publishes head. -/
  | schedulerConsume (queue : Nat)
  /-- R297. Firmware binds a non-empty queue to a hardware slot. -/
  | queueBind (queue slot : Nat)
  /-- R297. Every 50 µs firmware rotates best-effort bindings when queues wait. -/
  | queueRotate
  /-- R298. The arbiter grants the best-effort head of highest effective priority. -/
  | arbiterGrant
  /-- R298. A best-effort launch's slice ends, making it pre-emptible at priority 7. -/
  | sliceEnd (launch : Nat)
  /-- R300. The admission unit admits or refuses a deadline record. -/
  | admissionDecision
  /-- R299. A reservation's admitted work uses its quota and is switched out for the period. -/
  | reservationQuotaEnd (rsv : Nat)
  /-- R299. A new reservation period begins with a fresh quota. -/
  | reservationPeriod (rsv : Nat)
  /-- R309. At a step tick a boundary moves its link rate and opens a retraining window. -/
  | stepTick (busy idle : BitVec 18)
  /-- R309. A boundary's retraining window closes and waiting flits cross. -/
  | retrainEnd (boundary : Nat)
  /-- R312. A crossing port without acknowledgement for 1 µs is declared dead and its packets are negatively acknowledged. -/
  | portDead (boundary : Nat)
  /-- R312. Management installs escape routes around a dead boundary. -/
  | escapeRouteInstall (boundary : Nat)
  /-- R312. A source resends a negatively acknowledged packet on a live port in the escape class. -/
  | nackResend (boundary : Nat)
  /-- R315. A packet in the fabric longer than 64,000 ticks is dropped and counted. -/
  | packetAgeDrop (die : Nat)
  /-- R315. A die is reset, incrementing its incarnation number and clearing its state. -/
  | dieReset (die : Nat)
  /-- R311. A device that loses step with package time leaves the domain. -/
  | domainTimeLoss
  /-- R324. A collective chunk arrives at a communication processor and is buffered or applied. -/
  | chunkArrival (grp inst : BitVec 16) (sender : Nat) (data : List W32)
  /-- R326. A spilled chunk is refetched from the pool in spill order. -/
  | spillRefetch
  /-- R325. A collective instance publishes its output and ends. -/
  | collInstanceComplete (grp inst : BitVec 16)
  /-- R329. A correctable error is corrected and logged. -/
  | correctedError (err : ErrSite)
  /-- R329. An uncorrectable error that is not consumed is logged and a line marked poisoned. -/
  | latentError (err : ErrSite)
  /-- R334. An error is consumed, fencing and resetting its containment rectangle. -/
  | consumedError (err : ErrSite)
  /-- R334. Launches resident in a reset rectangle end with FAULT. -/
  | containmentLaunchFault (launch : Nat)
  /-- R334. The rectangle returns to service with its fence lifted. -/
  | containmentEnd (die rect : Nat)
  /-- R332. The scrubber reads a memory line, correcting or poisoning it. -/
  | scrubLine (pa : Nat) (res : ScrubResult)
  /-- R336. A rising edge on SNAPIN fires the common snapshot trigger. -/
  | snapinEdge
  /-- R336. 64 ticks after the trigger, all snapshot registers latch and snapctl.fired is set. -/
  | snapshotLatch
  /-- R338. Writing 1 to SNAPSTAT.held releases the held snapshot. -/
  | snapshotRelease
  /-- R333. Writing the map commit register commits or refuses a die's containment map. -/
  | mapCommit (die : Nat)
  /-- R4. A write to a register with no behaviour of its own updates its writable fields. -/
  | registerWrite (off : Nat) (val : W64)
  /-- R340. Above 95 °C management writes a RESET-kind RAS entry without a reset. -/
  | thermalWarning
  /-- R340. At 105 °C the module powers off. -/
  | thermalPoweroff
  /-- R341. Reset starts stage 0, which verifies and runs the boot stages from the sources in order. -/
  | boot (imgs : List BootImage)
  /-- R348. Management request that runs an invalidation through the port and replies with INVCTL. -/
  | inval
  /-- R348. Management request that configures a reservation. -/
  | resv
  /-- R348. Management request that writes and commits a die's containment map. -/
  | cmap
  /-- R348. Management request that allocates a collective group entry. -/
  | grpalloc
  /-- R348. Management request that frees a group entry and bumps its generation. -/
  | grpfree
  /-- R348. Management request that enlarges the requesting context's spill region. -/
  | spill
  /-- R348. Management request that writes a boundary's BNDCTL. -/
  | bnd
  /-- R348. Management request that copies out and optionally releases the snapshot. -/
  | snapRequest
  /-- R345. Management request that writes a signed attestation report. -/
  | attest
  /-- R348. Management request that replies with BOOTSTAT. -/
  | status
  /-- R348. Management request that copies RAS log entries out. -/
  | ras
  /-- R348. A request with an unassigned op is answered BADARG. -/
  | requestBadarg
  /-- R57. A thread issues a word that fails the decode checks and raises the illegal-instruction trap with its reason. -/
  | illegalInstruction (reason : BitVec 8) (w0 : BitVec 32)
  /-- R88. A thread would next issue from a PC at or beyond its region size and raises cause 5. -/
  | fetchBound
  /-- R293. Firmware resets a queue that a bad tail stopped, so the scheduler reads and completes records again. -/
  | queueReset (queue : Nat)
  /-- R294. An Ultra Ethernet RDMA write received on a port is applied at its home as a publication of that port's communication processor, and unsupported packets are dropped and counted. -/
  | rdmaWrite (port ctxid : Nat) (va : W64) (data : List Byte)
  /-- R294. A host's CXL write is applied at its home as a publication of the receiving CXL port, in issue order. -/
  | cxlWrite (port ctxid : Nat) (va : W64) (data : List Byte)
  /-- R123. A message refused by a full message queue is retried after 8 cycles. -/
  | msgRetry (core thr : Nat)
  deriving DecidableEq, Repr

end Sys2Proof
end

