-- ==== Sys2Proof/WellFormed.lean ====
section
/-!
DEFINITION. Which instructions are well formed: the checks on operand codes that the types of the syntax do not make
(R49, R56, R57, R214, R217, R237, R253). Events are well formed whatever they name.
-/

namespace Sys2Proof

/-- Floating-point element types (R194). -/
def Ty.isFloat : Ty → Bool
  | .f32 | .bf16 | .f16 | .e4m3 | .e5m2 => true
  | _ => false

/-- Integer element types (R199). -/
def Ty.isInt : Ty → Bool
  | .i32 | .u32 | .i16 | .i8 | .u8 => true
  | _ => false

/-- Signed integer element types. -/
def Ty.isSigned : Ty → Bool
  | .i32 | .i16 | .i8 => true
  | _ => false

/-- Block formats (R200, R204). -/
def Ty.isBlock : Ty → Bool
  | .nq4 | .bq8s | .bq8u => true
  | _ => false

/-- Bits per element (R51). -/
def Ty.width : Ty → Nat
  | .f32 | .i32 | .u32 => 32
  | .bf16 | .f16 | .i16 => 16
  | .e4m3 | .e5m2 | .i8 | .u8 | .bq8s | .bq8u => 8
  | .nq4 => 4

/-- Elements per vector register (R51). -/
def Ty.elems (t : Ty) : Nat := 2048 / t.width

/-- A conversion that rounds nothing: integer to integer, or float to a float of equal or greater width (R217). -/
def cvtExact (dst src : Ty) : Bool :=
  (dst.isInt && src.isInt) || (dst.isFloat && src.isFloat && src.width ≤ dst.width)

/-- The FL bits that VCVT's p occupies: none, one or two by the ratio of the widths (R217). -/
def cvtPMask (dst src : Ty) : BitVec 9 :=
  let hi := max dst.width src.width
  let lo := min dst.width src.width
  if hi = lo then 0 else if hi = 2 * lo then 1 else 3

/-- TY 0–9, the types of most XV instructions (R214). -/
def Ty.isPlain (t : Ty) : Bool := !t.isBlock

/-- `.f32`, `.i32` or `.u32` (R214, compares and VSCAN). -/
def Ty.isWord : Ty → Bool
  | .f32 | .i32 | .u32 => true
  | _ => false

/-- RM "F": a float type may select any mode, another must leave RM 000 (R214). -/
def rmOk (t : Ty) (r : Rm) : Bool := t.isFloat || r == .dyn

/-- `.sat` only with an integer type (R214). -/
def satOk (t : Ty) (s : Bool) : Bool := t.isInt || !s

/-- With `.v` the register field names a vector register, whose bit 4 is 0 (R50, R234). -/
def vecOk (v : Bool) (r : SReg) : Bool := !v || r.extractLsb' 4 1 == 0

/-- The block position p fits its bits: three for NQ4, two for BQ8 (R214). -/
def blockOk (t : Ty) (p : BitVec 3) : Bool := t == .nq4 || p.extractLsb' 2 1 == 0

/-- The weight formats of MWLD (R228, R237). -/
def Ty.isWeight : Ty → Bool
  | .bf16 | .f16 | .e4m3 | .e5m2 | .i8 | .u8 | .nq4 => true
  | _ => false

/-- The activation formats of MMA (R237). -/
def Ty.isActivation : Ty → Bool
  | .bf16 | .f16 | .e4m3 | .e5m2 | .i8 | .u8 => true
  | _ => false

/-- Float formats of 16 or 8 bits, the slices of MRANK (R237). -/
def Ty.isNarrowFloat : Ty → Bool
  | .bf16 | .f16 | .e4m3 | .e5m2 => true
  | _ => false

/-- The key types of RANK and RANKC (R253). -/
def Ty.isKey : Ty → Bool
  | .f32 | .bf16 | .i32 => true
  | _ => false

/-- The well-formed instructions: those that have an encoding which passes R57. -/
def Instr.wf : Instr → Bool
  | .vadd ty rm sat _ _ _ _ | .vsub ty rm sat _ _ _ _ | .vmul ty rm sat _ _ _ _ =>
    ty.isPlain && rmOk ty rm && satOk ty sat
  | .vfma ty rm sat _ _ _ _ _ | .vfms ty rm sat _ _ _ _ _ => ty.isPlain && rmOk ty rm && satOk ty sat
  | .vmin ty _ _ _ _ | .vmax ty _ _ _ _ | .vperm ty _ _ _ _ => ty.isPlain
  | .vabs ty sat _ _ _ | .vneg ty sat _ _ _ => (ty.isFloat || ty.isSigned) && satOk ty sat
  | .vcmpeq ty _ _ _ _ | .vcmplt ty _ _ _ _ | .vcmple ty _ _ _ _ => ty.isWord
  | .vshl ty _ _ _ _ | .vshr ty _ _ _ _ => ty.isInt
  | .vsra ty _ _ _ _ => ty.isSigned
  | .vcvt dst src rm p _ _ _ =>
    dst.isPlain && src.isPlain && (!cvtExact dst src || rm == .dyn) && (p.setWidth 9 &&& ~~~(cvtPMask dst src) == 0)
  | .vbcst ty _ _ _ _ | .vbcstLit ty _ _ _ _ => ty.isPlain
  | .vext ty _ _ _ | .vins ty _ _ _ => ty.isPlain
  | .viota ty _ _ => ty == .i32 || ty == .u32
  | .vredadd ty rm _ _ _ => ty.isPlain && rmOk ty rm
  | .vredmax ty _ _ _ | .vredmin ty _ _ _ => ty.isPlain
  | .vscan ty rm _ _ _ => ty.isWord && rmOk ty rm
  | .vdq ty p _ _ _ _ => ty.isBlock && blockOk ty p
  | .vqnt ty rm p _ _ _ _ => ty.isBlock && blockOk ty p && (ty != .nq4 || rm == .dyn)
  | .vscale ty _ _ _ => ty.isBlock
  | .mwld ty _ _ _ sup => ty.isWeight && (ty == .nq4 || sup == 0)
  | .mma v ty _ ra _ _ => ty.isActivation && vecOk v ra
  | .mmai v _ _ rsm _ ra _ rc _ _ => vecOk v ra && (rsm || rc == 0)
  | .mrank ty _ _ _ _ _ _ _ => ty.isNarrowFloat
  | .rank v _ ty _ ra _ _ => ty.isKey && vecOk v ra
  | .rankc _ ty _ _ _ _ _ => ty.isKey
  | .rkval ty _ _ _ _ _ => ty == .f32 || ty == .bf16
  | .aecap dflt _ _ rb => !dflt || rb == 0
  | .mdrain .. | _ => true

end Sys2Proof
end

