-- ==== Sys2Proof/Decode.lean ====
section
/-!
DEFINITION. The decoder: total on every list of words, with the checks of R57 in their order, and the encoder written
from the same tables (R47, R53, R54, R56, R214, R237, R253, R273, R179, R323).
A word list holds the words from the PC up to the region's end, so a missing word is reason 5 (TRUNC).
What builds an `Instr` is marked noncomputable because Lean's compiler (not its kernel) takes at most 244 constructor
tags, and the opcode table has 401 rows; the kernel evaluates it on numerals.
-/

namespace Sys2Proof

/-! ## Codes (R50, R51, R52, R49) -/

/-- The TY code (R51). -/
def Ty.toBits : Ty → BitVec 4
  | .f32 => 0 | .bf16 => 1 | .f16 => 2 | .e4m3 => 3 | .e5m2 => 4 | .i32 => 5 | .u32 => 6 | .i16 => 7 | .i8 => 8
  | .u8 => 9 | .nq4 => 10 | .bq8s => 11 | .bq8u => 12

/-- The element type of a TY code; 13–15 are reserved (R51). -/
def Ty.ofBits (c : BitVec 4) : Option Ty :=
  match c.toNat with
  | 0 => some .f32 | 1 => some .bf16 | 2 => some .f16 | 3 => some .e4m3 | 4 => some .e5m2 | 5 => some .i32
  | 6 => some .u32 | 7 => some .i16 | 8 => some .i8 | 9 => some .u8 | 10 => some .nq4 | 11 => some .bq8s
  | 12 => some .bq8u | _ => none

/-- The RM code (R49). -/
def Rm.toBits : Rm → BitVec 3
  | .dyn => 0 | .rne => 1 | .rtz => 2 | .rdn => 3 | .rup => 4

/-- The rounding selection of an RM code; 101–111 are reserved (R49). -/
def Rm.ofBits (c : BitVec 3) : Option Rm :=
  match c.toNat with
  | 0 => some .dyn | 1 => some .rne | 2 => some .rtz | 3 => some .rdn | 4 => some .rup | _ => none

/-- The scope code (R50). -/
def Scope.toBits : Scope → BitVec 2
  | .cl => 0 | .die => 1 | .dev => 2 | .sys => 3

/-- The scope of a code (R50). -/
def Scope.ofBits (c : BitVec 2) : Scope :=
  match c.toNat with
  | 0 => .cl | 1 => .die | 2 => .dev | _ => .sys

/-- The barrier-level code (R50). -/
def Level.toBits : Level → BitVec 2
  | .gang => 0 | .blk => 1 | .spr => 2

/-- The barrier level of a code; 3 is reserved (R50). -/
def Level.ofBits (c : BitVec 2) : Option Level :=
  match c.toNat with
  | 0 => some .gang | 1 => some .blk | 2 => some .spr | _ => none

/-- The CSR number (R52). -/
def Csr.toBits : Csr → BitVec 5
  | .xpc => 0 | .xcause => 1 | .xval => 2 | .xstat => 3 | .ctxid => 4 | .coord => 5 | .cyc => 6 | .ptime => 7
  | .phcyc => 8 | .vshare => 9 | .mshare => 10 | .mtiles => 11 | .accmode => 12 | .frm => 13 | .fflags => 14
  | .logcap => 15 | .logstat => 16 | .sigctl => 17 | .snapctl => 18

/-- The CSR of a number; 19–31 are reserved (R52). -/
def Csr.ofBits (c : BitVec 5) : Option Csr :=
  match c.toNat with
  | 0 => some .xpc | 1 => some .xcause | 2 => some .xval | 3 => some .xstat | 4 => some .ctxid | 5 => some .coord
  | 6 => some .cyc | 7 => some .ptime | 8 => some .phcyc | 9 => some .vshare | 10 => some .mshare | 11 => some .mtiles
  | 12 => some .accmode | 13 => some .frm | 14 => some .fflags | 15 => some .logcap | 16 => some .logstat
  | 17 => some .sigctl | 18 => some .snapctl | _ => none

/-! ## The fields of the words (R47) -/

/-- The fields of the first word (R47, forms A and X; form B and S read `fn ++ rb` as IMM14). -/
structure W0 where
  fn : BitVec 9
  rb : BitVec 5
  ra : BitVec 5
  rd : BitVec 5
  maj : BitVec 6
  len : BitVec 2
  deriving DecidableEq, Repr

/-- The word that holds the fields. -/
def W0.pack (f : W0) : W32 := f.fn ++ f.rb ++ f.ra ++ f.rd ++ f.maj ++ f.len

/-- The fields of a word. -/
def W0.unpack (w : W32) : W0 where
  fn := w.extractLsb' 23 9
  rb := w.extractLsb' 18 5
  ra := w.extractLsb' 13 5
  rd := w.extractLsb' 8 5
  maj := w.extractLsb' 2 6
  len := w.extractLsb' 0 2

/-- IMM14 of forms B and S (R47). -/
def W0.imm14 (f : W0) : BitVec 14 := f.fn ++ f.rb

/-- OFF24 of form J (R47). -/
def W0.off24 (f : W0) : BitVec 24 := f.fn ++ f.rb ++ f.ra ++ f.rd

/-- A coded operand in RB: RB[4:2] must be zero (R50). -/
def W0.code4 (f : W0) : Bool := f.rb.extractLsb' 2 3 == 0

/-- The scope that RB codes (R50). -/
def W0.scope (f : W0) : Scope := Scope.ofBits (f.rb.extractLsb' 0 2)

/-- The level that RB codes (R50). -/
def W0.level (f : W0) : Option Level := Level.ofBits (f.rb.extractLsb' 0 2)

/-- The CSR that RB names (R52). -/
def W0.csr (f : W0) : Option Csr := Csr.ofBits f.rb

/-- Checks 7 and 8 of R57 on an instruction: `z` says every must-be-zero field is zero, `i` is the instruction unless
a code is reserved. -/
def checked (z : Bool) (i : Option Instr) : Except Nat Instr :=
  if z then (match i with | some i => .ok i | none => .error 8) else .error 7

/-- An instruction of form A without a literal form: a literal is reason 6 (R57). -/
def W0.plain (_ : W0) (l : Option W64) (z : Bool) (i : Option Instr) : Option (Except Nat Instr) :=
  some (match l with | none => checked z i | some _ => .error 6)

/-- An instruction of form A with a literal form, whose replaced field must be zero (R45). -/
def W0.both (_ : W0) (l : Option W64) (z : Bool) (i : Instr) (zl : Bool) (il : W64 → Instr) :
    Option (Except Nat Instr) :=
  some (match l with | none => checked z (some i) | some lit => checked zl (some (il lit)))

/-- An instruction of form B, S or J without a literal form. -/
def W0.plainI (_ : W0) (l : Option W64) (z : Bool) (i : Option Instr) : Except Nat Instr :=
  match l with | none => checked z i | some _ => .error 6

/-- An instruction of form B or S with a literal form, whose IMM14 must be zero then (R45). -/
def W0.bothI (f : W0) (l : Option W64) (z : Bool) (i : Instr) (il : W64 → Instr) : Except Nat Instr :=
  match l with | none => checked z (some i) | some lit => checked (z && f.imm14 == 0) (some (il lit))

/-- The group of major 0x01 by FN (R54); `none`: FN is unassigned. -/
def decodeAlu (f : W0) (l : Option W64) : Option (Except Nat Instr) :=
  match f.fn.toNat with
  | 0 => f.both l (true) (.add f.rd f.ra f.rb) (f.rb == 0) (fun lit => .addLit f.rd f.ra lit)
  | 1 => f.both l (true) (.sub f.rd f.ra f.rb) (f.rb == 0) (fun lit => .subLit f.rd f.ra lit)
  | 2 => f.both l (true) (.and f.rd f.ra f.rb) (f.rb == 0) (fun lit => .andLit f.rd f.ra lit)
  | 3 => f.both l (true) (.or f.rd f.ra f.rb) (f.rb == 0) (fun lit => .orLit f.rd f.ra lit)
  | 4 => f.both l (true) (.xor f.rd f.ra f.rb) (f.rb == 0) (fun lit => .xorLit f.rd f.ra lit)
  | 5 => f.both l (true) (.andn f.rd f.ra f.rb) (f.rb == 0) (fun lit => .andnLit f.rd f.ra lit)
  | 6 => f.both l (true) (.shl f.rd f.ra f.rb) (f.rb == 0) (fun lit => .shlLit f.rd f.ra lit)
  | 7 => f.both l (true) (.shr f.rd f.ra f.rb) (f.rb == 0) (fun lit => .shrLit f.rd f.ra lit)
  | 8 => f.both l (true) (.sra f.rd f.ra f.rb) (f.rb == 0) (fun lit => .sraLit f.rd f.ra lit)
  | 9 => f.both l (true) (.slt f.rd f.ra f.rb) (f.rb == 0) (fun lit => .sltLit f.rd f.ra lit)
  | 10 => f.both l (true) (.sltu f.rd f.ra f.rb) (f.rb == 0) (fun lit => .sltuLit f.rd f.ra lit)
  | 11 => f.both l (true) (.min f.rd f.ra f.rb) (f.rb == 0) (fun lit => .minLit f.rd f.ra lit)
  | 12 => f.both l (true) (.max f.rd f.ra f.rb) (f.rb == 0) (fun lit => .maxLit f.rd f.ra lit)
  | 13 => f.both l (true) (.minu f.rd f.ra f.rb) (f.rb == 0) (fun lit => .minuLit f.rd f.ra lit)
  | 14 => f.both l (true) (.maxu f.rd f.ra f.rb) (f.rb == 0) (fun lit => .maxuLit f.rd f.ra lit)
  | 15 => f.both l (true) (.addw f.rd f.ra f.rb) (f.rb == 0) (fun lit => .addwLit f.rd f.ra lit)
  | 16 => f.both l (true) (.subw f.rd f.ra f.rb) (f.rb == 0) (fun lit => .subwLit f.rd f.ra lit)
  | 17 => f.both l (true) (.addx1 f.rd f.ra f.rb) (f.rb == 0) (fun lit => .addx1Lit f.rd f.ra lit)
  | 18 => f.both l (true) (.addx2 f.rd f.ra f.rb) (f.rb == 0) (fun lit => .addx2Lit f.rd f.ra lit)
  | 19 => f.both l (true) (.addx3 f.rd f.ra f.rb) (f.rb == 0) (fun lit => .addx3Lit f.rd f.ra lit)
  | _ => none

/-- The group of major 0x0B by FN (R54); `none`: FN is unassigned. -/
def decodeMulDiv (f : W0) (l : Option W64) : Option (Except Nat Instr) :=
  match f.fn.toNat with
  | 0 => f.both l (true) (.mul f.rd f.ra f.rb) (f.rb == 0) (fun lit => .mulLit f.rd f.ra lit)
  | 1 => f.both l (true) (.mulh f.rd f.ra f.rb) (f.rb == 0) (fun lit => .mulhLit f.rd f.ra lit)
  | 2 => f.both l (true) (.mulhu f.rd f.ra f.rb) (f.rb == 0) (fun lit => .mulhuLit f.rd f.ra lit)
  | 3 => f.both l (true) (.mulw f.rd f.ra f.rb) (f.rb == 0) (fun lit => .mulwLit f.rd f.ra lit)
  | 4 => f.both l (true) (.div f.rd f.ra f.rb) (f.rb == 0) (fun lit => .divLit f.rd f.ra lit)
  | 5 => f.both l (true) (.divu f.rd f.ra f.rb) (f.rb == 0) (fun lit => .divuLit f.rd f.ra lit)
  | 6 => f.both l (true) (.rem f.rd f.ra f.rb) (f.rb == 0) (fun lit => .remLit f.rd f.ra lit)
  | 7 => f.both l (true) (.remu f.rd f.ra f.rb) (f.rb == 0) (fun lit => .remuLit f.rd f.ra lit)
  | _ => none

/-- The group of major 0x0C by FN (R54); `none`: FN is unassigned. -/
def decodeBitop (f : W0) (l : Option W64) : Option (Except Nat Instr) :=
  match f.fn.toNat with
  | 0 => f.plain l (f.rb == 0) (some (.clz f.rd f.ra))
  | 1 => f.plain l (f.rb == 0) (some (.ctz f.rd f.ra))
  | 2 => f.plain l (f.rb == 0) (some (.popc f.rd f.ra))
  | 3 => f.both l (true) (.bext f.rd f.ra f.rb) (f.rb == 0) (fun lit => .bextLit f.rd f.ra lit)
  | 4 => f.both l (true) (.bins f.rd f.ra f.rb) (f.rb == 0) (fun lit => .binsLit f.rd f.ra lit)
  | 5 => f.plain l (f.rb == 0) (some (.brev f.rd f.ra))
  | 6 => f.plain l (f.rb == 0) (some (.bswap f.rd f.ra))
  | _ => none

/-- The group of major 0x18 by FN (R54); `none`: FN is unassigned. -/
def decodeFe (f : W0) (l : Option W64) : Option (Except Nat Instr) :=
  match f.fn.toNat with
  | 0 => f.both l (f.rb == 0) (.ldfe f.rd f.ra) (f.rb == 0) (fun lit => .ldfeLit f.rd f.ra lit)
  | 1 => f.both l (f.rb == 0) (.ldfec f.rd f.ra) (f.rb == 0) (fun lit => .ldfecLit f.rd f.ra lit)
  | 2 => f.both l (f.rb == 0) (.stfe f.rd f.ra) (f.rb == 0) (fun lit => .stfeLit f.rd f.ra lit)
  | 3 => f.both l (f.rb == 0) (.stfew f.rd f.ra) (f.rb == 0) (fun lit => .stfewLit f.rd f.ra lit)
  | 4 => f.both l (f.rd == 0 && f.rb == 0) (.feset f.ra) (f.rd == 0 && f.rb == 0) (fun lit => .fesetLit f.ra lit)
  | 5 => f.both l (f.rd == 0 && f.rb == 0) (.feclr f.ra) (f.rd == 0 && f.rb == 0) (fun lit => .feclrLit f.ra lit)
  | 6 => f.both l (f.rb == 0) (.fetst f.rd f.ra) (f.rb == 0) (fun lit => .fetstLit f.rd f.ra lit)
  | _ => none

/-- The group of major 0x19 by FN (R54); `none`: FN is unassigned. -/
def decodeLock (f : W0) (l : Option W64) : Option (Except Nat Instr) :=
  match f.fn.toNat with
  | 0 => f.both l (f.rb == 0) (.ldl f.rd f.ra) (f.rb == 0) (fun lit => .ldlLit f.rd f.ra lit)
  | 1 => f.plain l (true) (some (.stu f.rd f.ra f.rb))
  | 2 => f.both l (f.rd == 0 && f.rb == 0) (.ulk f.ra) (f.rd == 0 && f.rb == 0) (fun lit => .ulkLit f.ra lit)
  | _ => none

/-- The group of major 0x20 by FN (R54); `none`: FN is unassigned. -/
def decodeSync (f : W0) (l : Option W64) : Option (Except Nat Instr) :=
  match f.fn.toNat with
  | 0 => f.plain l (f.rd == 0 && f.code4) (some (.acq f.scope f.ra))
  | 1 => f.plain l (f.rd == 0 && f.code4) (some (.rel f.scope f.ra))
  | 2 => f.plain l (f.ra == 0 && f.code4) (some (.fence f.scope f.rd))
  | 3 => f.plain l (f.rd == 0 && f.ra == 0 && f.code4) (some (.fencel f.scope))
  | 4 => f.plain l (true) (some (.sobind f.rd f.ra f.rb))
  | 5 => f.plain l (f.rd == 0 && f.rb == 0) (some (.sounb f.ra))
  | 6 => f.both l (true) (.syadd f.rd f.ra f.rb) (f.rb == 0) (fun lit => .syaddLit f.rd f.ra lit)
  | 7 => f.both l (true) (.sycas f.rd f.ra f.rb) (f.rb == 0) (fun lit => .sycasLit f.rd f.ra lit)
  | 8 => f.both l (true) (.syswp f.rd f.ra f.rb) (f.rb == 0) (fun lit => .syswpLit f.rd f.ra lit)
  | 9 => f.plain l (f.rb == 0) (some (.syld f.rd f.ra))
  | 10 => f.both l (f.rd == 0) (.logadd f.ra f.rb) (f.rd == 0 && f.rb == 0) (fun lit => .logaddLit f.ra lit)
  | 11 => f.both l (f.rd == 0) (.logfadd f.ra f.rb) (f.rd == 0 && f.rb == 0) (fun lit => .logfaddLit f.ra lit)
  | _ => none

/-- The group of major 0x2B by FN (R54); `none`: FN is unassigned. -/
def decodeCtx (f : W0) (l : Option W64) : Option (Except Nat Instr) :=
  match f.fn.toNat with
  | 0 => f.both l (true) (.hstart f.rd f.ra f.rb) (f.rb == 0) (fun lit => .hstartLit f.rd f.ra lit)
  | 1 => f.plain l (f.rd == 0 && f.rb == 0) (some (.hjoin f.ra))
  | 2 => f.plain l (f.rd == 0 && f.ra == 0 && f.rb == 0) (some (.hexit))
  | 3 => f.plain l (f.ra == 0 && f.rb == 0) (some (.hstat f.rd))
  | 4 => f.plain l (f.rd == 0 && f.ra == 0 && f.rb == 0) (some (.yield))
  | 5 => f.plain l (f.rd == 0 && f.rb == 0) (some (.gang f.ra))
  | 6 => f.plain l (f.rd == 0 && f.ra == 0 && f.rb == 0) (some (.detach))
  | 7 => f.plain l (f.rd == 0 && f.ra == 0 && f.rb == 0) (some (.rejoin))
  | 8 => f.plain l (f.rd == 0 && f.ra == 0 && f.code4) (f.level.map fun lv => .bar lv)
  | 9 => f.plain l (f.rd == 0 && f.rb == 0) (some (.signal f.ra))
  | 10 => f.plain l (f.rd == 0 && f.ra == 0 && f.rb == 0) (some (.phasec))
  | 11 => f.plain l (f.rd == 0 && f.ra == 0 && f.rb == 0) (some (.phasex))
  | 12 => f.both l (f.rd == 0 && f.ra == 0) (.waitc f.rb) (f.rd == 0 && f.ra == 0 && f.rb == 0) (fun lit => .waitcLit lit)
  | 13 => f.plain l (f.rb == 0) (some (.bany f.rd f.ra))
  | 14 => f.plain l (f.rb == 0) (some (.ball f.rd f.ra))
  | _ => none

/-- The group of major 0x2C by FN (R54); `none`: FN is unassigned. -/
def decodeComm (f : W0) (l : Option W64) : Option (Except Nat Instr) :=
  match f.fn.toNat with
  | 0 => f.both l (true) (.rset f.rd f.ra f.rb) (f.rb == 0) (fun lit => .rsetLit f.rd f.ra lit)
  | 1 => f.plain l (f.ra == 0 && f.rb == 0) (some (.pclr f.rd))
  | 2 => f.plain l (f.ra == 0 && f.rb == 0) (some (.pset f.rd))
  | 3 => f.plain l (f.rb == 0) (some (.ptst f.rd f.ra))
  | 4 => f.plain l (f.rd == 0 && f.rb == 0) (some (.sopen f.ra))
  | 5 => f.both l (f.rd == 0 && f.ra == 0) (.sput f.rb) (f.rd == 0 && f.ra == 0 && f.rb == 0) (fun lit => .sputLit lit)
  | 6 => f.plain l (f.ra == 0 && f.rb == 0) (some (.sget f.rd))
  | 7 => f.plain l (f.rd == 0 && f.ra == 0 && f.rb == 0) (some (.sclose))
  | 8 => f.both l (f.rd == 0) (.msg f.ra f.rb) (f.rd == 0 && f.rb == 0) (fun lit => .msgLit f.ra lit)
  | 9 => f.plain l (f.ra == 0 && f.rb == 0) (some (.msgrd f.rd))
  | _ => none

/-- The group of major 0x2D by FN (R54); `none`: FN is unassigned. -/
def decodeSys (f : W0) (l : Option W64) : Option (Except Nat Instr) :=
  match f.fn.toNat with
  | 0 => f.plain l (f.ra == 0) (f.csr.map fun c => .csrr f.rd c)
  | 1 => f.plain l (f.rd == 0) (f.csr.map fun c => .csrw c f.ra)
  | 2 => f.plain l (f.rd == 0) (f.csr.map fun c => .csrs c f.ra)
  | 3 => f.plain l (f.rd == 0) (f.csr.map fun c => .csrc c f.ra)
  | 4 => f.plain l (f.rd == 0 && f.rb == 0) (some (.trap f.ra))
  | 5 => f.plain l (f.rd == 0 && f.ra == 0 && f.rb == 0) (some (.rte))
  | 6 => f.plain l (f.rd == 0 && f.ra == 0 && f.rb == 0) (some (.wfi))
  | 7 => f.plain l (f.rd == 0 && f.ra == 0 && f.rb == 0) (some (.ifence))
  | 8 => f.plain l (f.rd == 0 && f.rb == 0) (some (.tlbi f.ra))
  | 9 => f.plain l (f.rd == 0 && f.ra == 0 && f.rb == 0) (some (.snap))
  | 10 => f.plain l (f.rd == 0 && f.ra == 0 && f.rb == 0) (some (.halt))
  | _ => none

/-- The instructions of forms B, S and J by major (R53); `none`: a reserved major. -/
def decodeImm (f : W0) (l : Option W64) : Option (Except Nat Instr) :=
  match f.maj.toNat with
  | 0x02 => some (f.bothI l true (.addi f.rd f.ra f.imm14) (fun lit => .addiLit f.rd f.ra lit))
  | 0x03 => some (f.bothI l true (.andi f.rd f.ra f.imm14) (fun lit => .andiLit f.rd f.ra lit))
  | 0x04 => some (f.bothI l true (.ori f.rd f.ra f.imm14) (fun lit => .oriLit f.rd f.ra lit))
  | 0x05 => some (f.bothI l true (.xori f.rd f.ra f.imm14) (fun lit => .xoriLit f.rd f.ra lit))
  | 0x06 => some (f.bothI l true (.slti f.rd f.ra f.imm14) (fun lit => .sltiLit f.rd f.ra lit))
  | 0x07 => some (f.bothI l true (.sltiu f.rd f.ra f.imm14) (fun lit => .sltiuLit f.rd f.ra lit))
  | 0x08 => some (f.plainI l (f.imm14.extractLsb' 6 8 == 0) (some (.shli f.rd f.ra (f.imm14.extractLsb' 0 6))))
  | 0x09 => some (f.plainI l (f.imm14.extractLsb' 6 8 == 0) (some (.shri f.rd f.ra (f.imm14.extractLsb' 0 6))))
  | 0x0A => some (f.plainI l (f.imm14.extractLsb' 6 8 == 0) (some (.srai f.rd f.ra (f.imm14.extractLsb' 0 6))))
  | 0x0D => some (f.bothI l true (.ldb f.rd f.ra f.imm14) (fun lit => .ldbLit f.rd f.ra lit))
  | 0x0E => some (f.bothI l true (.ldbu f.rd f.ra f.imm14) (fun lit => .ldbuLit f.rd f.ra lit))
  | 0x0F => some (f.bothI l true (.ldh f.rd f.ra f.imm14) (fun lit => .ldhLit f.rd f.ra lit))
  | 0x10 => some (f.bothI l true (.ldhu f.rd f.ra f.imm14) (fun lit => .ldhuLit f.rd f.ra lit))
  | 0x11 => some (f.bothI l true (.ldw f.rd f.ra f.imm14) (fun lit => .ldwLit f.rd f.ra lit))
  | 0x12 => some (f.bothI l true (.ldwu f.rd f.ra f.imm14) (fun lit => .ldwuLit f.rd f.ra lit))
  | 0x13 => some (f.bothI l true (.ldd f.rd f.ra f.imm14) (fun lit => .lddLit f.rd f.ra lit))
  | 0x14 => some (f.bothI l true (.stb f.rd f.ra f.imm14) (fun lit => .stbLit f.rd f.ra lit))
  | 0x15 => some (f.bothI l true (.sth f.rd f.ra f.imm14) (fun lit => .sthLit f.rd f.ra lit))
  | 0x16 => some (f.bothI l true (.stw f.rd f.ra f.imm14) (fun lit => .stwLit f.rd f.ra lit))
  | 0x17 => some (f.bothI l true (.std f.rd f.ra f.imm14) (fun lit => .stdLit f.rd f.ra lit))
  | 0x1A => some (f.bothI l true (.sld f.rd f.ra f.imm14) (fun lit => .sldLit f.rd f.ra lit))
  | 0x1B => some (f.bothI l true (.sldw f.rd f.ra f.imm14) (fun lit => .sldwLit f.rd f.ra lit))
  | 0x1C => some (f.bothI l true (.sldh f.rd f.ra f.imm14) (fun lit => .sldhLit f.rd f.ra lit))
  | 0x1D => some (f.bothI l true (.sst f.rd f.ra f.imm14) (fun lit => .sstLit f.rd f.ra lit))
  | 0x1E => some (f.bothI l true (.sstw f.rd f.ra f.imm14) (fun lit => .sstwLit f.rd f.ra lit))
  | 0x1F => some (f.bothI l true (.sstb f.rd f.ra f.imm14) (fun lit => .sstbLit f.rd f.ra lit))
  | 0x21 => some (f.plainI l (f.imm14.extractLsb' 2 12 == 0) (some (.sstp (Scope.ofBits (f.imm14.extractLsb' 0 2)) f.rd f.ra)))
  | 0x22 => some (f.plainI l true (some (.beq f.ra f.rd f.imm14)))
  | 0x23 => some (f.plainI l true (some (.bne f.ra f.rd f.imm14)))
  | 0x24 => some (f.plainI l true (some (.blt f.ra f.rd f.imm14)))
  | 0x25 => some (f.plainI l true (some (.bge f.ra f.rd f.imm14)))
  | 0x26 => some (f.plainI l true (some (.bltu f.ra f.rd f.imm14)))
  | 0x27 => some (f.plainI l true (some (.bgeu f.ra f.rd f.imm14)))
  | 0x28 => some (f.plainI l true (some (.j f.off24)))
  | 0x29 => some (f.plainI l true (some (.jal f.off24)))
  | 0x2A => some (f.bothI l (f.rd == 0) (.jalr f.ra f.imm14) (fun lit => .jalrLit f.ra lit))
  | _ => none

/-! ## Form X -/

/-- The fields of the second word of form X (R47). -/
structure W1 where
  imm8 : BitVec 8
  fl : BitVec 9
  rm : BitVec 3
  ty : BitVec 4
  msk : BitVec 3
  rc : BitVec 5
  deriving DecidableEq, Repr

/-- The word that holds the fields. -/
def W1.pack (f : W1) : W32 := f.imm8 ++ f.fl ++ f.rm ++ f.ty ++ f.msk ++ f.rc

/-- The fields of a word. -/
def W1.unpack (w : W32) : W1 where
  imm8 := w.extractLsb' 24 8
  fl := w.extractLsb' 15 9
  rm := w.extractLsb' 12 3
  ty := w.extractLsb' 8 4
  msk := w.extractLsb' 5 3
  rc := w.extractLsb' 0 5

/-- All the fields of a form X instruction (R47). -/
structure X where
  rb : BitVec 5
  ra : BitVec 5
  rd : BitVec 5
  imm8 : BitVec 8
  fl : BitVec 9
  rmc : BitVec 3
  tyc : BitVec 4
  msk : BitVec 3
  rc : BitVec 5
  imm32 : W32
  deriving DecidableEq, Repr

/-- The fields of three words. -/
def X.unpack (f : W0) (w1 w2 : W32) : X :=
  let g := W1.unpack w1
  { rb := f.rb, ra := f.ra, rd := f.rd, imm8 := g.imm8, fl := g.fl, rmc := g.rm, tyc := g.ty, msk := g.msk,
    rc := g.rc, imm32 := w2 }

/-- A field that names a vector register or a tile has bit 4 clear (R50). -/
def vOk (r : BitVec 5) : Bool := r.extractLsb' 4 1 == 0

/-- A field that names a mask register has bits [4:3] clear (R50). -/
def mOk (r : BitVec 5) : Bool := r.extractLsb' 3 2 == 0

/-- The element type; a placeholder where the code is refused by check 8. -/
def X.ty (x : X) : Ty := (Ty.ofBits x.tyc).getD .f32

/-- VCVT's source type (R217). -/
def X.src (x : X) : Ty := (Ty.ofBits (x.imm8.extractLsb' 0 4)).getD .f32

/-- The rounding selection; a placeholder where the code is refused by check 8. -/
def X.rm (x : X) : Rm := (Rm.ofBits x.rmc).getD .dyn

def X.vd (x : X) : VReg := x.rd.extractLsb' 0 4
def X.va (x : X) : VReg := x.ra.extractLsb' 0 4
def X.vb (x : X) : VReg := x.rb.extractLsb' 0 4
def X.vc (x : X) : VReg := x.rc.extractLsb' 0 4
def X.td (x : X) : TReg := x.rd.extractLsb' 0 4
def X.md (x : X) : MReg := x.rd.extractLsb' 0 3
def X.ma (x : X) : MReg := x.ra.extractLsb' 0 3
def X.mb (x : X) : MReg := x.rb.extractLsb' 0 3
def X.msel (x : X) : MReg := x.msk
def X.p2 (x : X) : BitVec 2 := x.fl.extractLsb' 0 2
def X.p3 (x : X) : BitVec 3 := x.fl.extractLsb' 0 3

/-- Bit `n` of FL. -/
def X.fb (x : X) (n : Nat) : Bool := x.fl.getLsbD n

/-- Every FL bit outside the assigned ones is zero (R49). -/
def X.flIn (x : X) (assigned : BitVec 9) : Bool := x.fl &&& ~~~assigned == 0

/-- TY is one of the accepted codes (R214, R237, R253). -/
def X.tyIn (x : X) (l : List Nat) : Bool := l.contains x.tyc.toNat

/-- RM holds an assigned code (R49). -/
def X.rmKnown (x : X) : Bool := x.rmc.toNat ≤ 4

/-- RM "F" (R214): it must be zero for an integer TY, and may be a rounding mode for a float TY. Of a TY that is neither R214 says
nothing: RM passes this check there, and the TY fails check 8 (DESIGN CHOICE, log 70). -/
def X.rmF (x : X) : Bool := !(5 ≤ x.tyc.toNat && x.tyc.toNat ≤ 9) || x.rmc == 0

/-- RM of VQNT (R214): zero for NQ4. -/
def X.rmQ (x : X) : Bool := !(x.tyc == 10) || x.rmc == 0

/-- `.sat` is assigned for an integer TY only (R214). -/
def X.satOk (x : X) : Bool := x.flIn (if 5 ≤ x.tyc.toNat && x.tyc.toNat ≤ 9 then 1 else 0)

/-- VCVT's source code is one it accepts (R217). -/
def X.srcKnown (x : X) : Bool := (x.imm8.extractLsb' 0 4).toNat ≤ 9

/-- Both types of a VCVT are ones it accepts. -/
def X.cvtKnown (x : X) : Bool := x.tyc.toNat ≤ 9 && x.srcKnown

/-- VCVT's RM must be zero where nothing rounds (R217). -/
def X.rmCvt (x : X) : Bool := !(x.cvtKnown && cvtExact x.ty x.src) || x.rmc == 0

/-- The FL bits of VCVT's p (R217, R214). -/
def X.cvtMask (x : X) : BitVec 9 := if x.cvtKnown then cvtPMask x.ty x.src else 3

/-- The FL bits of VDQ's and VQNT's p (R214). -/
def X.pMask (x : X) : BitVec 9 := if x.tyc == 11 || x.tyc == 12 then 3 else 7

/-- An instruction of form X without a literal form. -/
def X.plain (_ : X) (l : Option W64) (z c : Bool) (i : Instr) : Except Nat Instr :=
  match l with | none => checked z (if c then some i else none) | some _ => .error 6

/-- An instruction of form X with a literal form, whose IMM32 must be zero then (R45, R56). -/
def X.both (x : X) (l : Option W64) (z c : Bool) (i : Instr) (il : W64 → Instr) : Except Nat Instr :=
  match l with
  | none => checked z (if c then some i else none)
  | some lit => checked (z && x.imm32 == 0) (if c then some (il lit) else none)

/-- The XV group by XOP (R56, R214); `none`: unassigned. -/
noncomputable def decodeXv (xop : Nat) (x : X) (l : Option W64) : Option (Except Nat Instr) :=
  match xop with
  | 0 => some (x.plain l (vOk x.rd && vOk x.ra && vOk x.rb && x.rc == 0 && x.imm8 == 0 && x.imm32 == 0 && x.rmF && x.satOk) (x.tyIn [0, 1, 2, 3, 4, 5, 6, 7, 8, 9] && x.rmKnown) (.vadd x.ty x.rm (x.fb 0) x.vd x.va x.vb x.msel))
  | 1 => some (x.plain l (vOk x.rd && vOk x.ra && vOk x.rb && x.rc == 0 && x.imm8 == 0 && x.imm32 == 0 && x.rmF && x.satOk) (x.tyIn [0, 1, 2, 3, 4, 5, 6, 7, 8, 9] && x.rmKnown) (.vsub x.ty x.rm (x.fb 0) x.vd x.va x.vb x.msel))
  | 2 => some (x.plain l (vOk x.rd && vOk x.ra && vOk x.rb && x.rc == 0 && x.imm8 == 0 && x.imm32 == 0 && x.rmF && x.satOk) (x.tyIn [0, 1, 2, 3, 4, 5, 6, 7, 8, 9] && x.rmKnown) (.vmul x.ty x.rm (x.fb 0) x.vd x.va x.vb x.msel))
  | 3 => some (x.plain l (vOk x.rd && vOk x.ra && vOk x.rb && vOk x.rc && x.imm8 == 0 && x.imm32 == 0 && x.rmF && x.satOk) (x.tyIn [0, 1, 2, 3, 4, 5, 6, 7, 8, 9] && x.rmKnown) (.vfma x.ty x.rm (x.fb 0) x.vd x.va x.vb x.vc x.msel))
  | 4 => some (x.plain l (vOk x.rd && vOk x.ra && vOk x.rb && vOk x.rc && x.imm8 == 0 && x.imm32 == 0 && x.rmF && x.satOk) (x.tyIn [0, 1, 2, 3, 4, 5, 6, 7, 8, 9] && x.rmKnown) (.vfms x.ty x.rm (x.fb 0) x.vd x.va x.vb x.vc x.msel))
  | 5 => some (x.plain l (vOk x.rd && vOk x.ra && vOk x.rb && x.rc == 0 && x.imm8 == 0 && x.imm32 == 0 && x.rmc == 0 && x.flIn 0) (x.tyIn [0, 1, 2, 3, 4, 5, 6, 7, 8, 9]) (.vmin x.ty x.vd x.va x.vb x.msel))
  | 6 => some (x.plain l (vOk x.rd && vOk x.ra && vOk x.rb && x.rc == 0 && x.imm8 == 0 && x.imm32 == 0 && x.rmc == 0 && x.flIn 0) (x.tyIn [0, 1, 2, 3, 4, 5, 6, 7, 8, 9]) (.vmax x.ty x.vd x.va x.vb x.msel))
  | 7 => some (x.plain l (vOk x.rd && vOk x.ra && x.rb == 0 && x.rc == 0 && x.imm8 == 0 && x.imm32 == 0 && x.rmc == 0 && x.satOk) (x.tyIn [0, 1, 2, 3, 4, 5, 7, 8]) (.vabs x.ty (x.fb 0) x.vd x.va x.msel))
  | 8 => some (x.plain l (vOk x.rd && vOk x.ra && x.rb == 0 && x.rc == 0 && x.imm8 == 0 && x.imm32 == 0 && x.rmc == 0 && x.satOk) (x.tyIn [0, 1, 2, 3, 4, 5, 7, 8]) (.vneg x.ty (x.fb 0) x.vd x.va x.msel))
  | 9 => some (x.plain l (vOk x.rd && vOk x.ra && x.rb == 0 && x.rc == 0 && x.imm8 == 0 && x.imm32 == 0 && x.rmF && x.flIn 0) (x.tyIn [0] && x.rmKnown) (.vrcp x.rm x.vd x.va x.msel))
  | 10 => some (x.plain l (vOk x.rd && vOk x.ra && x.rb == 0 && x.rc == 0 && x.imm8 == 0 && x.imm32 == 0 && x.rmF && x.flIn 0) (x.tyIn [0] && x.rmKnown) (.vrsq x.rm x.vd x.va x.msel))
  | 11 => some (x.plain l (vOk x.rd && vOk x.ra && x.rb == 0 && x.rc == 0 && x.imm8 == 0 && x.imm32 == 0 && x.rmF && x.flIn 0) (x.tyIn [0] && x.rmKnown) (.vsqrt x.rm x.vd x.va x.msel))
  | 12 => some (x.plain l (vOk x.rd && vOk x.ra && x.rb == 0 && x.rc == 0 && x.imm8 == 0 && x.imm32 == 0 && x.rmF && x.flIn 0) (x.tyIn [0] && x.rmKnown) (.vexp2 x.rm x.vd x.va x.msel))
  | 13 => some (x.plain l (vOk x.rd && vOk x.ra && x.rb == 0 && x.rc == 0 && x.imm8 == 0 && x.imm32 == 0 && x.rmF && x.flIn 0) (x.tyIn [0] && x.rmKnown) (.vlog2 x.rm x.vd x.va x.msel))
  | 14 => some (x.plain l (mOk x.rd && vOk x.ra && vOk x.rb && x.rc == 0 && x.imm8 == 0 && x.imm32 == 0 && x.rmc == 0 && x.flIn 0) (x.tyIn [0, 5, 6]) (.vcmpeq x.ty x.md x.va x.vb x.msel))
  | 15 => some (x.plain l (mOk x.rd && vOk x.ra && vOk x.rb && x.rc == 0 && x.imm8 == 0 && x.imm32 == 0 && x.rmc == 0 && x.flIn 0) (x.tyIn [0, 5, 6]) (.vcmplt x.ty x.md x.va x.vb x.msel))
  | 16 => some (x.plain l (mOk x.rd && vOk x.ra && vOk x.rb && x.rc == 0 && x.imm8 == 0 && x.imm32 == 0 && x.rmc == 0 && x.flIn 0) (x.tyIn [0, 5, 6]) (.vcmple x.ty x.md x.va x.vb x.msel))
  | 17 => some (x.plain l (vOk x.rd && vOk x.ra && vOk x.rb && x.rc == 0 && x.imm8 == 0 && x.imm32 == 0 && x.tyc == 0 && x.rmc == 0 && x.flIn 0) (true) (.vsel x.vd x.va x.vb x.msel))
  | 18 => some (x.plain l (vOk x.rd && vOk x.ra && vOk x.rb && x.rc == 0 && x.imm8 == 0 && x.imm32 == 0 && x.tyc == 0 && x.rmc == 0 && x.flIn 0) (true) (.vand x.vd x.va x.vb x.msel))
  | 19 => some (x.plain l (vOk x.rd && vOk x.ra && vOk x.rb && x.rc == 0 && x.imm8 == 0 && x.imm32 == 0 && x.tyc == 0 && x.rmc == 0 && x.flIn 0) (true) (.vor x.vd x.va x.vb x.msel))
  | 20 => some (x.plain l (vOk x.rd && vOk x.ra && vOk x.rb && x.rc == 0 && x.imm8 == 0 && x.imm32 == 0 && x.tyc == 0 && x.rmc == 0 && x.flIn 0) (true) (.vxor x.vd x.va x.vb x.msel))
  | 21 => some (x.plain l (vOk x.rd && vOk x.ra && vOk x.rb && x.rc == 0 && x.imm8 == 0 && x.imm32 == 0 && x.rmc == 0 && x.flIn 0) (x.tyIn [5, 6, 7, 8, 9]) (.vshl x.ty x.vd x.va x.vb x.msel))
  | 22 => some (x.plain l (vOk x.rd && vOk x.ra && vOk x.rb && x.rc == 0 && x.imm8 == 0 && x.imm32 == 0 && x.rmc == 0 && x.flIn 0) (x.tyIn [5, 6, 7, 8, 9]) (.vshr x.ty x.vd x.va x.vb x.msel))
  | 23 => some (x.plain l (vOk x.rd && vOk x.ra && vOk x.rb && x.rc == 0 && x.imm8 == 0 && x.imm32 == 0 && x.rmc == 0 && x.flIn 0) (x.tyIn [5, 7, 8]) (.vsra x.ty x.vd x.va x.vb x.msel))
  | 24 => some (x.plain l (vOk x.rd && vOk x.ra && x.rb == 0 && x.rc == 0 && x.imm8.extractLsb' 4 4 == 0 && x.imm32 == 0 && x.rmCvt && x.flIn x.cvtMask) (x.tyIn [0, 1, 2, 3, 4, 5, 6, 7, 8, 9] && x.rmKnown && x.srcKnown) (.vcvt x.ty x.src x.rm x.p2 x.vd x.va x.msel))
  | 25 => some (x.plain l (vOk x.rd && vOk x.ra && x.rb == 0 && x.rc == 0 && x.imm8 == 0 && x.imm32 == 0 && x.tyc == 0 && x.rmc == 0 && x.flIn 0) (true) (.vmov x.vd x.va x.msel))
  | 26 => some (x.both l (vOk x.rd && x.rb == 0 && x.rc == 0 && x.imm8 == 0 && x.rmc == 0 && x.flIn 0) (x.tyIn [0, 1, 2, 3, 4, 5, 6, 7, 8, 9]) (.vbcst x.ty x.vd x.ra x.imm32 x.msel) (fun lit => .vbcstLit x.ty x.vd x.ra lit x.msel))
  | 27 => some (x.plain l (vOk x.ra && x.rc == 0 && x.msk == 0 && x.imm8 == 0 && x.imm32 == 0 && x.rmc == 0 && x.flIn 0) (x.tyIn [0, 1, 2, 3, 4, 5, 6, 7, 8, 9]) (.vext x.ty x.rd x.va x.rb))
  | 28 => some (x.plain l (vOk x.rd && x.rc == 0 && x.msk == 0 && x.imm8 == 0 && x.imm32 == 0 && x.rmc == 0 && x.flIn 0) (x.tyIn [0, 1, 2, 3, 4, 5, 6, 7, 8, 9]) (.vins x.ty x.vd x.ra x.rb))
  | 29 => some (x.plain l (vOk x.rd && x.ra == 0 && x.rb == 0 && x.rc == 0 && x.imm8 == 0 && x.imm32 == 0 && x.rmc == 0 && x.flIn 0) (x.tyIn [5, 6]) (.viota x.ty x.vd x.msel))
  | 30 => some (x.plain l (vOk x.rd && vOk x.ra && vOk x.rb && x.rc == 0 && x.imm8 == 0 && x.imm32 == 0 && x.rmc == 0 && x.flIn 0) (x.tyIn [0, 1, 2, 3, 4, 5, 6, 7, 8, 9]) (.vperm x.ty x.vd x.va x.vb x.msel))
  | 31 => some (x.plain l (vOk x.rd && vOk x.ra && x.rb == 0 && x.rc == 0 && x.imm8 == 0 && x.imm32 == 0 && x.rmF && x.flIn 0) (x.tyIn [0, 1, 2, 3, 4, 5, 6, 7, 8, 9] && x.rmKnown) (.vredadd x.ty x.rm x.vd x.va x.msel))
  | 32 => some (x.plain l (vOk x.rd && vOk x.ra && x.rb == 0 && x.rc == 0 && x.imm8 == 0 && x.imm32 == 0 && x.rmc == 0 && x.flIn 0) (x.tyIn [0, 1, 2, 3, 4, 5, 6, 7, 8, 9]) (.vredmax x.ty x.vd x.va x.msel))
  | 33 => some (x.plain l (vOk x.rd && vOk x.ra && x.rb == 0 && x.rc == 0 && x.imm8 == 0 && x.imm32 == 0 && x.rmc == 0 && x.flIn 0) (x.tyIn [0, 1, 2, 3, 4, 5, 6, 7, 8, 9]) (.vredmin x.ty x.vd x.va x.msel))
  | 34 => some (x.plain l (vOk x.rd && vOk x.ra && x.rb == 0 && x.rc == 0 && x.imm8 == 0 && x.imm32 == 0 && x.rmF && x.flIn 0) (x.tyIn [0, 5, 6] && x.rmKnown) (.vscan x.ty x.rm x.vd x.va x.msel))
  | 35 => some (x.both l (vOk x.rd && x.rb == 0 && x.rc == 0 && x.imm8 == 0 && x.tyc == 0 && x.rmc == 0 && x.flIn 1) (true) (.vld (x.fb 0) x.vd x.ra x.imm32 x.msel) (fun lit => .vldLit (x.fb 0) x.vd x.ra lit x.msel))
  | 36 => some (x.both l (vOk x.rd && x.rb == 0 && x.rc == 0 && x.imm8 == 0 && x.tyc == 0 && x.rmc == 0 && x.flIn 1) (true) (.vst (x.fb 0) x.vd x.ra x.imm32 x.msel) (fun lit => .vstLit (x.fb 0) x.vd x.ra lit x.msel))
  | 37 => some (x.both l (vOk x.rd && x.rc == 0 && x.imm8 == 0 && x.tyc == 0 && x.rmc == 0 && x.flIn 1) (true) (.vlds (x.fb 0) x.vd x.ra x.rb x.imm32 x.msel) (fun lit => .vldsLit (x.fb 0) x.vd x.ra x.rb lit x.msel))
  | 38 => some (x.both l (vOk x.rd && x.rc == 0 && x.imm8 == 0 && x.tyc == 0 && x.rmc == 0 && x.flIn 1) (true) (.vsts (x.fb 0) x.vd x.ra x.rb x.imm32 x.msel) (fun lit => .vstsLit (x.fb 0) x.vd x.ra x.rb lit x.msel))
  | 39 => some (x.both l (vOk x.rd && vOk x.rb && x.rc == 0 && x.imm8 == 0 && x.tyc == 0 && x.rmc == 0 && x.flIn 1) (true) (.vgth (x.fb 0) x.vd x.ra x.vb x.imm32 x.msel) (fun lit => .vgthLit (x.fb 0) x.vd x.ra x.vb lit x.msel))
  | 40 => some (x.both l (vOk x.rd && vOk x.rb && x.rc == 0 && x.imm8 == 0 && x.tyc == 0 && x.rmc == 0 && x.flIn 1) (true) (.vsct (x.fb 0) x.vd x.ra x.vb x.imm32 x.msel) (fun lit => .vsctLit (x.fb 0) x.vd x.ra x.vb lit x.msel))
  | 41 => some (x.plain l (vOk x.rd && vOk x.ra && x.rc == 0 && x.imm8 == 0 && x.imm32 == 0 && x.rmc == 0 && x.flIn x.pMask) (x.tyIn [10, 11, 12]) (.vdq x.ty x.p3 x.vd x.va x.rb x.msel))
  | 42 => some (x.plain l (vOk x.rd && vOk x.ra && x.rc == 0 && x.imm8 == 0 && x.imm32 == 0 && x.rmQ && x.flIn x.pMask) (x.tyIn [10, 11, 12] && x.rmKnown) (.vqnt x.ty x.rm x.p3 x.vd x.va x.rb x.msel))
  | 43 => some (x.plain l (vOk x.rd && vOk x.ra && x.rb == 0 && x.rc == 0 && x.imm8 == 0 && x.imm32 == 0 && x.tyc == 0 && x.rmc == 0 && x.flIn 0) (true) (.vhist x.vd x.va x.msel))
  | 44 => some (x.plain l (vOk x.ra && x.rc == 0 && x.msk == 0 && x.imm8 == 0 && x.imm32 == 0 && x.rmc == 0 && x.flIn 0) (x.tyIn [10, 11, 12]) (.vscale x.ty x.rd x.va x.rb))
  | 45 => some (x.plain l (mOk x.rd && mOk x.ra && mOk x.rb && x.rc == 0 && x.msk == 0 && x.imm8 == 0 && x.imm32 == 0 && x.tyc == 0 && x.rmc == 0 && x.flIn 0) (true) (.kand x.md x.ma x.mb))
  | 46 => some (x.plain l (mOk x.rd && mOk x.ra && mOk x.rb && x.rc == 0 && x.msk == 0 && x.imm8 == 0 && x.imm32 == 0 && x.tyc == 0 && x.rmc == 0 && x.flIn 0) (true) (.kor x.md x.ma x.mb))
  | 47 => some (x.plain l (mOk x.rd && mOk x.ra && x.rb == 0 && x.rc == 0 && x.msk == 0 && x.imm8 == 0 && x.imm32 == 0 && x.tyc == 0 && x.rmc == 0 && x.flIn 0) (true) (.knot x.md x.ma))
  | 48 => some (x.plain l (mOk x.ra && x.rb == 0 && x.rc == 0 && x.msk == 0 && x.imm8 == 0 && x.imm32 == 0 && x.tyc == 0 && x.rmc == 0 && x.flIn 0) (true) (.kpop x.rd x.ma))
  | _ => none

/-- The XE group by XOP (R56, R179, R237, R253, R273, R323); `none`: unassigned. -/
noncomputable def decodeXe (xop : Nat) (x : X) (l : Option W64) : Option (Except Nat Instr) :=
  match xop with
  | 0 => some (x.plain l (x.rd == 0 && x.rb == 0 && x.rc == 0 && x.msk == 0 && x.rmc == 0 && (x.tyc == 10 || x.imm32 == 0) && x.flIn 127) (x.tyIn [1, 2, 3, 4, 8, 9, 10]) (.mwld x.ty x.ra x.imm8 (x.fl.extractLsb' 0 7) x.imm32))
  | 1 => some (x.plain l (vOk x.rd && (!x.fb 0 || vOk x.ra) && x.rb == 0 && x.rc == 0 && x.msk == 0 && x.rmc == 0 && x.flIn 1) (x.tyIn [1, 2, 3, 4, 8, 9]) (.mma (x.fb 0) x.ty x.td x.ra x.imm8 x.imm32))
  | 2 => some (x.plain l (vOk x.rd && (!x.fb 0 || vOk x.ra) && (x.fb 3 || x.rc == 0) && x.msk == 0 && x.rmc == 0 && x.tyc == 0 && x.flIn 15) (true) (.mmai (x.fb 0) (x.fb 1) (x.fb 2) (x.fb 3) x.td x.ra x.rb x.rc x.imm8 x.imm32))
  | 3 => some (x.plain l (vOk x.rd && x.ra == 0 && x.rb == 0 && x.rc == 0 && x.msk == 0 && x.rmc == 0 && x.imm8 == 0 && x.imm32 == 0 && x.tyc == 0 && x.flIn 0) (true) (.mzero x.td))
  | 4 => some (x.plain l (vOk x.rd && x.rb == 0 && x.rc == 0 && x.msk == 0 && x.rmc == 0 && x.tyc == 0 && x.flIn 1) (true) (.mldacc (x.fb 0) x.td x.ra x.imm8 x.imm32))
  | 5 => some (x.plain l (vOk x.rd && x.rc == 0 && x.msk == 0 && x.rmc == 0 && x.tyc == 0 && x.flIn 255) (true) (.mdrain (x.fl.extractLsb' 0 3) (x.fb 3) (x.fb 4) (x.fl.extractLsb' 5 3) x.td x.ra x.rb x.imm8 x.imm32))
  | 6 => some (x.plain l (x.rd == 0 && x.rb == 0 && x.rc == 0 && x.msk == 0 && x.rmc == 0 && x.imm8 == 0 && x.imm32 == 0 && x.tyc == 0 && x.flIn 0) (true) (.mrqp x.ra))
  | 7 => some (x.plain l (vOk x.rd && x.msk == 0 && x.rmc == 0 && x.flIn 127) (x.tyIn [1, 2, 3, 4]) (.mrank x.ty x.td x.ra x.rb x.rc x.imm8 (x.fl.extractLsb' 0 7) x.imm32))
  | 8 => some (x.plain l (x.rd == 0 && x.ra == 0 && x.rb == 0 && x.rc == 0 && x.msk == 0 && x.rmc == 0 && x.imm8 == 0 && x.imm32 == 0 && x.tyc == 0 && x.flIn 0) (true) (.mwait))
  | 9 => some (x.plain l (x.rb == 0 && x.rc == 0 && x.msk == 0 && x.rmc == 0 && x.imm8 == 0 && x.imm32 == 0 && x.tyc == 0 && x.flIn 0) (true) (.mstat x.rd x.ra))
  | 10 => some (x.plain l ((!x.fb 0 || vOk x.ra) && x.msk == 0 && x.rmc == 0 && x.imm8 == 0 && x.imm32 == 0 && x.flIn 3) (x.tyIn [0, 1, 5]) (.rank (x.fb 0) (x.fb 1) x.ty x.rd x.ra x.rb x.rc))
  | 11 => some (x.plain l (x.msk == 0 && x.rmc == 0 && x.imm8 == 0 && x.flIn 2) (x.tyIn [0, 1, 5]) (.rankc (x.fb 1) x.ty x.rd x.ra x.rb x.rc x.imm32))
  | 12 => some (x.plain l (x.rc == 0 && x.msk == 0 && x.rmc == 0 && x.imm8 == 0 && x.imm32 == 0 && x.tyc == 0 && x.flIn 0) (true) (.rktab x.rd x.ra x.rb))
  | 13 => some (x.plain l (x.msk == 0 && x.rmc == 0 && x.imm8 == 0 && x.flIn 0) (x.tyIn [0, 1]) (.rkval x.ty x.rd x.ra x.rb x.rc x.imm32))
  | 14 => some (x.plain l (x.rc == 0 && x.msk == 0 && x.rmc == 0 && x.imm8 == 0 && x.imm32 == 0 && x.tyc == 0 && x.flIn 0) (true) (.aecfg x.rd x.ra x.rb))
  | 15 => some (x.plain l (x.msk == 0 && x.rmc == 0 && x.imm8 == 0 && x.imm32 == 0 && x.tyc == 0 && x.flIn 0) (true) (.aesc x.rd x.ra x.rb x.rc))
  | 16 => some (x.plain l ((!x.fb 0 || x.rb == 0) && x.rc == 0 && x.msk == 0 && x.rmc == 0 && x.imm8 == 0 && x.imm32 == 0 && x.tyc == 0 && x.flIn 1) (true) (.aecap (x.fb 0) x.rd x.ra x.rb))
  | 17 => some (x.plain l (x.rd == 0 && x.rc == 0 && x.msk == 0 && x.rmc == 0 && x.imm8 == 0 && x.imm32 == 0 && x.tyc == 0 && x.flIn 0) (true) (.aerun x.ra x.rb))
  | 18 => some (x.plain l (x.rb == 0 && x.rc == 0 && x.msk == 0 && x.rmc == 0 && x.imm8 == 0 && x.imm32 == 0 && x.tyc == 0 && x.flIn 0) (true) (.aewait x.rd x.ra))
  | 19 => some (x.plain l (x.rc == 0 && x.msk == 0 && x.rmc == 0 && x.imm8 == 0 && x.imm32 == 0 && x.tyc == 0 && x.flIn 0) (true) (.aerd x.rd x.ra x.rb))
  | 20 => some (x.plain l (x.rc == 0 && x.msk == 0 && x.rmc == 0 && x.imm8 == 0 && x.imm32 == 0 && x.tyc == 0 && x.flIn 0) (true) (.aepr x.rd x.ra x.rb))
  | 21 => some (x.plain l (x.rc == 0 && x.msk == 0 && x.rmc == 0 && x.imm8 == 0 && x.imm32 == 0 && x.tyc == 0 && x.flIn 0) (true) (.aepw x.rd x.ra x.rb))
  | 22 => some (x.plain l (x.rb == 0 && x.rc == 0 && x.msk == 0 && x.rmc == 0 && x.imm8 == 0 && x.imm32 == 0 && x.tyc == 0 && x.flIn 0) (true) (.aestat x.rd x.ra))
  | 23 => some (x.plain l (x.msk == 0 && x.rmc == 0 && x.tyc == 0 && x.flIn 255) (true) (.cpy (x.fb 0) (x.fb 1) (x.fb 2) (x.fb 3) (x.fb 4) (x.fl.extractLsb' 5 3) x.rd x.ra x.rb x.rc x.imm8 x.imm32))
  | 24 => some (x.plain l (x.msk == 0 && x.rmc == 0 && x.tyc == 0 && x.flIn 253) (true) (.cpym (x.fb 0) (x.fb 2) (x.fl.extractLsb' 3 2) (x.fl.extractLsb' 5 3) x.rd x.ra x.rb x.rc x.imm8 x.imm32))
  | 25 => some (x.plain l (x.rd == 0 && x.rb == 0 && x.rc == 0 && x.msk == 0 && x.rmc == 0 && x.imm32 == 0 && x.tyc == 0 && x.flIn 225) (true) (.cpych (x.fb 0) (x.fl.extractLsb' 5 3) x.ra x.imm8))
  | 26 => some (x.plain l (x.rd == 0 && x.rc == 0 && x.msk == 0 && x.rmc == 0 && x.imm8 == 0 && x.imm32 == 0 && x.tyc == 0 && x.flIn 0) (true) (.cring x.ra x.rb))
  | 27 => some (x.plain l (x.rb == 0 && x.rc == 0 && x.msk == 0 && x.rmc == 0 && x.imm8 == 0 && x.imm32 == 0 && x.tyc == 0 && x.flIn 1) (true) (.cawait (x.fb 0) x.rd x.ra))
  | 28 => some (x.plain l (x.rd == 0 && x.rb == 0 && x.rc == 0 && x.msk == 0 && x.rmc == 0 && x.imm8 == 0 && x.imm32 == 0 && x.tyc == 0 && x.flIn 0) (true) (.crel x.ra))
  | 29 => some (x.plain l (x.rb == 0 && x.rc == 0 && x.msk == 0 && x.rmc == 0 && x.imm8 == 0 && x.imm32 == 0 && x.tyc == 0 && x.flIn 0) (true) (.cseq x.rd x.ra))
  | 30 => some (x.plain l (x.rd == 0 && x.rb == 0 && x.rc == 0 && x.msk == 0 && x.rmc == 0 && x.imm8 == 0 && x.imm32 == 0 && x.tyc == 0 && x.flIn 0) (true) (.bfree x.ra))
  | 31 => some (x.plain l (x.rb == 0 && x.rc == 0 && x.msk == 0 && x.rmc == 0 && x.imm8 == 0 && x.imm32 == 0 && x.tyc == 0 && x.flIn 0) (true) (.publish x.rd x.ra))
  | 32 => some (x.plain l (x.rb == 0 && x.rc == 0 && x.msk == 0 && x.rmc == 0 && x.imm8 == 0 && x.imm32 == 0 && x.tyc == 0 && x.flIn 0) (true) (.coll x.rd x.ra))
  | 33 => some (x.plain l (x.rb == 0 && x.rc == 0 && x.msk == 0 && x.rmc == 0 && x.imm8 == 0 && x.imm32 == 0 && x.tyc == 0 && x.flIn 0) (true) (.collw x.rd x.ra))
  | _ => none

/-! ## The checks of R57 in order -/

/-- Reserved majors (R53). -/
def reservedMajor (maj : BitVec 6) : Bool := maj == 0 || (0x2E ≤ maj.toNat && maj.toNat ≤ 0x3D)

/-- The number of words of an instruction (R44). -/
def wordsOf (len : BitVec 2) : Nat :=
  match len.toNat with
  | 0 => 1 | 1 => 3 | 2 => 3 | _ => 5

/-- The 64-bit literal of two words, the low word first (R44). -/
def litOf (lo hi : W32) : W64 := hi ++ lo

/-- The groups of form A by major. -/
def decodeGroup (f : W0) (l : Option W64) : Option (Except Nat Instr) :=
  match f.maj.toNat with
  | 0x01 => decodeAlu f l
  | 0x0B => decodeMulDiv f l
  | 0x0C => decodeBitop f l
  | 0x18 => decodeFe f l
  | 0x19 => decodeLock f l
  | 0x20 => decodeSync f l
  | 0x2B => decodeCtx f l
  | 0x2C => decodeComm f l
  | 0x2D => decodeSys f l
  | _ => decodeImm f l

/-- The decoding that the tables give once every word is there; `none`: FN or XOP is unassigned. -/
noncomputable def decodeWith (f : W0) (rest : List W32) : Option (Except Nat Instr) :=
  let w (n : Nat) : W32 := rest.getD n 0
  match f.maj.toNat with
  | 0x3E => decodeXv f.fn.toNat (X.unpack f (w 0) (w 1)) (if f.len == 3 then some (litOf (w 2) (w 3)) else none)
  | 0x3F => decodeXe f.fn.toNat (X.unpack f (w 0) (w 1)) (if f.len == 3 then some (litOf (w 2) (w 3)) else none)
  | _ => decodeGroup f (if f.len == 1 then some (litOf (w 0) (w 1)) else none)

/-- What the decoder answers: an instruction with its length in bytes, or the reason of R57 with w0. -/
inductive Decoded where
  | ok (i : Instr) (bytes : Nat)
  | illegal (reason : Nat) (w0 : W32)
  deriving DecidableEq, Repr

/-- R57: the checks in their order on the words from the PC to the region's end. An empty list has no w0: that is the
fetch-bound case (R88), which the step decides before it decodes; it answers reason 5 here. -/
noncomputable def decode (ws : List W32) : Decoded :=
  match ws with
  | [] => .illegal 5 0
  | w0 :: rest =>
    let f := W0.unpack w0
    if w0 == 0 then .illegal 1 w0
    else if (2 ≤ f.len.toNat) != (0x3E ≤ f.maj.toNat) then .illegal 2 w0
    else if reservedMajor f.maj then .illegal 3 w0
    else match decodeWith f rest with
      | none => .illegal 4 w0
      | some r =>
        if ws.length < wordsOf f.len then .illegal 5 w0
        else match r with
          | .ok i => .ok i (4 * wordsOf f.len)
          | .error k => .illegal k w0

/-! ## The encoder -/

/-- Form A (R47). -/
def encA (maj : BitVec 6) (fn : BitVec 9) (rb ra rd : BitVec 5) : List W32 :=
  [W0.pack ⟨fn, rb, ra, rd, maj, 0⟩]

/-- Form A with a literal (R45). -/
def encALit (maj : BitVec 6) (fn : BitVec 9) (rb ra rd : BitVec 5) (lit : W64) : List W32 :=
  [W0.pack ⟨fn, rb, ra, rd, maj, 1⟩, lit.extractLsb' 0 32, lit.extractLsb' 32 32]

/-- Forms B and S (R47). -/
def encB (maj : BitVec 6) (imm : BitVec 14) (ra rd : BitVec 5) : List W32 :=
  [W0.pack ⟨imm.extractLsb' 5 9, imm.extractLsb' 0 5, ra, rd, maj, 0⟩]

/-- Forms B and S with a literal (R45). -/
def encBLit (maj : BitVec 6) (ra rd : BitVec 5) (lit : W64) : List W32 :=
  [W0.pack ⟨0, 0, ra, rd, maj, 1⟩, lit.extractLsb' 0 32, lit.extractLsb' 32 32]

/-- Form J (R47). -/
def encJ (maj : BitVec 6) (off : BitVec 24) : List W32 :=
  [W0.pack ⟨off.extractLsb' 15 9, off.extractLsb' 10 5, off.extractLsb' 5 5, off.extractLsb' 0 5, maj, 0⟩]

/-- Form X (R47). -/
def encX (maj : BitVec 6) (xop : BitVec 9) (rb ra rd : BitVec 5) (imm8 : BitVec 8) (fl : BitVec 9) (rm : BitVec 3)
    (ty : BitVec 4) (msk : BitVec 3) (rc : BitVec 5) (imm32 : W32) : List W32 :=
  [W0.pack ⟨xop, rb, ra, rd, maj, 2⟩, W1.pack ⟨imm8, fl, rm, ty, msk, rc⟩, imm32]

/-- Form X with a literal (R45). -/
def encXLit (maj : BitVec 6) (xop : BitVec 9) (rb ra rd : BitVec 5) (imm8 : BitVec 8) (fl : BitVec 9) (rm : BitVec 3)
    (ty : BitVec 4) (msk : BitVec 3) (rc : BitVec 5) (imm32 : W32) (lit : W64) : List W32 :=
  [W0.pack ⟨xop, rb, ra, rd, maj, 3⟩, W1.pack ⟨imm8, fl, rm, ty, msk, rc⟩, imm32, lit.extractLsb' 0 32,
    lit.extractLsb' 32 32]

/-- A vector register or tile in a register field. -/
def vField (v : BitVec 4) : BitVec 5 := (0 : BitVec 1) ++ v

/-- A mask register in a register field. -/
def mField (m : BitVec 3) : BitVec 5 := (0 : BitVec 2) ++ m

/-- FL with bit `n` set when `b`. -/
def flag (b : Bool) (n : Nat) : BitVec 9 := if b then BitVec.twoPow 9 n else 0

/-- FL with a value at bit `n` and up. -/
def field {w : Nat} (b : BitVec w) (n : Nat) : BitVec 9 := b.setWidth 9 <<< n

/-- The words of a well-formed instruction (R47, R53, R54, R56); an event has none. -/
def encode : Instr → List W32
  | .add rd ra rb => encA 0x01 0 rb ra rd
  | .addLit rd ra lit => encALit 0x01 0 0 ra rd lit
  | .sub rd ra rb => encA 0x01 1 rb ra rd
  | .subLit rd ra lit => encALit 0x01 1 0 ra rd lit
  | .and rd ra rb => encA 0x01 2 rb ra rd
  | .andLit rd ra lit => encALit 0x01 2 0 ra rd lit
  | .or rd ra rb => encA 0x01 3 rb ra rd
  | .orLit rd ra lit => encALit 0x01 3 0 ra rd lit
  | .xor rd ra rb => encA 0x01 4 rb ra rd
  | .xorLit rd ra lit => encALit 0x01 4 0 ra rd lit
  | .andn rd ra rb => encA 0x01 5 rb ra rd
  | .andnLit rd ra lit => encALit 0x01 5 0 ra rd lit
  | .shl rd ra rb => encA 0x01 6 rb ra rd
  | .shlLit rd ra lit => encALit 0x01 6 0 ra rd lit
  | .shr rd ra rb => encA 0x01 7 rb ra rd
  | .shrLit rd ra lit => encALit 0x01 7 0 ra rd lit
  | .sra rd ra rb => encA 0x01 8 rb ra rd
  | .sraLit rd ra lit => encALit 0x01 8 0 ra rd lit
  | .slt rd ra rb => encA 0x01 9 rb ra rd
  | .sltLit rd ra lit => encALit 0x01 9 0 ra rd lit
  | .sltu rd ra rb => encA 0x01 10 rb ra rd
  | .sltuLit rd ra lit => encALit 0x01 10 0 ra rd lit
  | .min rd ra rb => encA 0x01 11 rb ra rd
  | .minLit rd ra lit => encALit 0x01 11 0 ra rd lit
  | .max rd ra rb => encA 0x01 12 rb ra rd
  | .maxLit rd ra lit => encALit 0x01 12 0 ra rd lit
  | .minu rd ra rb => encA 0x01 13 rb ra rd
  | .minuLit rd ra lit => encALit 0x01 13 0 ra rd lit
  | .maxu rd ra rb => encA 0x01 14 rb ra rd
  | .maxuLit rd ra lit => encALit 0x01 14 0 ra rd lit
  | .addw rd ra rb => encA 0x01 15 rb ra rd
  | .addwLit rd ra lit => encALit 0x01 15 0 ra rd lit
  | .subw rd ra rb => encA 0x01 16 rb ra rd
  | .subwLit rd ra lit => encALit 0x01 16 0 ra rd lit
  | .addx1 rd ra rb => encA 0x01 17 rb ra rd
  | .addx1Lit rd ra lit => encALit 0x01 17 0 ra rd lit
  | .addx2 rd ra rb => encA 0x01 18 rb ra rd
  | .addx2Lit rd ra lit => encALit 0x01 18 0 ra rd lit
  | .addx3 rd ra rb => encA 0x01 19 rb ra rd
  | .addx3Lit rd ra lit => encALit 0x01 19 0 ra rd lit
  | .addi rd ra imm => encB 0x02 imm ra rd
  | .addiLit rd ra lit => encBLit 0x02 ra rd lit
  | .andi rd ra imm => encB 0x03 imm ra rd
  | .andiLit rd ra lit => encBLit 0x03 ra rd lit
  | .ori rd ra imm => encB 0x04 imm ra rd
  | .oriLit rd ra lit => encBLit 0x04 ra rd lit
  | .xori rd ra imm => encB 0x05 imm ra rd
  | .xoriLit rd ra lit => encBLit 0x05 ra rd lit
  | .slti rd ra imm => encB 0x06 imm ra rd
  | .sltiLit rd ra lit => encBLit 0x06 ra rd lit
  | .sltiu rd ra imm => encB 0x07 imm ra rd
  | .sltiuLit rd ra lit => encBLit 0x07 ra rd lit
  | .shli rd ra sh => encB 0x08 (sh.setWidth 14) ra rd
  | .shri rd ra sh => encB 0x09 (sh.setWidth 14) ra rd
  | .srai rd ra sh => encB 0x0A (sh.setWidth 14) ra rd
  | .mul rd ra rb => encA 0x0B 0 rb ra rd
  | .mulLit rd ra lit => encALit 0x0B 0 0 ra rd lit
  | .mulh rd ra rb => encA 0x0B 1 rb ra rd
  | .mulhLit rd ra lit => encALit 0x0B 1 0 ra rd lit
  | .mulhu rd ra rb => encA 0x0B 2 rb ra rd
  | .mulhuLit rd ra lit => encALit 0x0B 2 0 ra rd lit
  | .mulw rd ra rb => encA 0x0B 3 rb ra rd
  | .mulwLit rd ra lit => encALit 0x0B 3 0 ra rd lit
  | .div rd ra rb => encA 0x0B 4 rb ra rd
  | .divLit rd ra lit => encALit 0x0B 4 0 ra rd lit
  | .divu rd ra rb => encA 0x0B 5 rb ra rd
  | .divuLit rd ra lit => encALit 0x0B 5 0 ra rd lit
  | .rem rd ra rb => encA 0x0B 6 rb ra rd
  | .remLit rd ra lit => encALit 0x0B 6 0 ra rd lit
  | .remu rd ra rb => encA 0x0B 7 rb ra rd
  | .remuLit rd ra lit => encALit 0x0B 7 0 ra rd lit
  | .clz rd ra => encA 0x0C 0 0 ra rd
  | .ctz rd ra => encA 0x0C 1 0 ra rd
  | .popc rd ra => encA 0x0C 2 0 ra rd
  | .bext rd ra rb => encA 0x0C 3 rb ra rd
  | .bextLit rd ra lit => encALit 0x0C 3 0 ra rd lit
  | .bins rd ra rb => encA 0x0C 4 rb ra rd
  | .binsLit rd ra lit => encALit 0x0C 4 0 ra rd lit
  | .brev rd ra => encA 0x0C 5 0 ra rd
  | .bswap rd ra => encA 0x0C 6 0 ra rd
  | .beq ra rs imm => encB 0x22 imm ra rs
  | .bne ra rs imm => encB 0x23 imm ra rs
  | .blt ra rs imm => encB 0x24 imm ra rs
  | .bge ra rs imm => encB 0x25 imm ra rs
  | .bltu ra rs imm => encB 0x26 imm ra rs
  | .bgeu ra rs imm => encB 0x27 imm ra rs
  | .j off => encJ 0x28 off
  | .jal off => encJ 0x29 off
  | .jalr ra imm => encB 0x2A imm ra 0
  | .jalrLit ra lit => encBLit 0x2A ra 0 lit
  | .ldb rd ra imm => encB 0x0D imm ra rd
  | .ldbLit rd ra lit => encBLit 0x0D ra rd lit
  | .ldbu rd ra imm => encB 0x0E imm ra rd
  | .ldbuLit rd ra lit => encBLit 0x0E ra rd lit
  | .ldh rd ra imm => encB 0x0F imm ra rd
  | .ldhLit rd ra lit => encBLit 0x0F ra rd lit
  | .ldhu rd ra imm => encB 0x10 imm ra rd
  | .ldhuLit rd ra lit => encBLit 0x10 ra rd lit
  | .ldw rd ra imm => encB 0x11 imm ra rd
  | .ldwLit rd ra lit => encBLit 0x11 ra rd lit
  | .ldwu rd ra imm => encB 0x12 imm ra rd
  | .ldwuLit rd ra lit => encBLit 0x12 ra rd lit
  | .ldd rd ra imm => encB 0x13 imm ra rd
  | .lddLit rd ra lit => encBLit 0x13 ra rd lit
  | .stb rs ra imm => encB 0x14 imm ra rs
  | .stbLit rs ra lit => encBLit 0x14 ra rs lit
  | .sth rs ra imm => encB 0x15 imm ra rs
  | .sthLit rs ra lit => encBLit 0x15 ra rs lit
  | .stw rs ra imm => encB 0x16 imm ra rs
  | .stwLit rs ra lit => encBLit 0x16 ra rs lit
  | .std rs ra imm => encB 0x17 imm ra rs
  | .stdLit rs ra lit => encBLit 0x17 ra rs lit
  | .ldfe rd ra => encA 0x18 0 0 ra rd
  | .ldfeLit rd ra lit => encALit 0x18 0 0 ra rd lit
  | .ldfec rd ra => encA 0x18 1 0 ra rd
  | .ldfecLit rd ra lit => encALit 0x18 1 0 ra rd lit
  | .stfe rd ra => encA 0x18 2 0 ra rd
  | .stfeLit rd ra lit => encALit 0x18 2 0 ra rd lit
  | .stfew rd ra => encA 0x18 3 0 ra rd
  | .stfewLit rd ra lit => encALit 0x18 3 0 ra rd lit
  | .feset ra => encA 0x18 4 0 ra 0
  | .fesetLit ra lit => encALit 0x18 4 0 ra 0 lit
  | .feclr ra => encA 0x18 5 0 ra 0
  | .feclrLit ra lit => encALit 0x18 5 0 ra 0 lit
  | .fetst rd ra => encA 0x18 6 0 ra rd
  | .fetstLit rd ra lit => encALit 0x18 6 0 ra rd lit
  | .ldl rd ra => encA 0x19 0 0 ra rd
  | .ldlLit rd ra lit => encALit 0x19 0 0 ra rd lit
  | .stu rd ra rb => encA 0x19 1 rb ra rd
  | .ulk ra => encA 0x19 2 0 ra 0
  | .ulkLit ra lit => encALit 0x19 2 0 ra 0 lit
  | .sld rd ra imm => encB 0x1A imm ra rd
  | .sldLit rd ra lit => encBLit 0x1A ra rd lit
  | .sldw rd ra imm => encB 0x1B imm ra rd
  | .sldwLit rd ra lit => encBLit 0x1B ra rd lit
  | .sldh rd ra imm => encB 0x1C imm ra rd
  | .sldhLit rd ra lit => encBLit 0x1C ra rd lit
  | .sst rs ra imm => encB 0x1D imm ra rs
  | .sstLit rs ra lit => encBLit 0x1D ra rs lit
  | .sstw rs ra imm => encB 0x1E imm ra rs
  | .sstwLit rs ra lit => encBLit 0x1E ra rs lit
  | .sstb rs ra imm => encB 0x1F imm ra rs
  | .sstbLit rs ra lit => encBLit 0x1F ra rs lit
  | .sstp sc rs ra => encB 0x21 (sc.toBits.setWidth 14) ra rs
  | .acq sc ra => encA 0x20 0 (sc.toBits.setWidth 5) ra 0
  | .rel sc ra => encA 0x20 1 (sc.toBits.setWidth 5) ra 0
  | .fence sc rd => encA 0x20 2 (sc.toBits.setWidth 5) 0 rd
  | .fencel sc => encA 0x20 3 (sc.toBits.setWidth 5) 0 0
  | .sobind rd ra rb => encA 0x20 4 rb ra rd
  | .sounb ra => encA 0x20 5 0 ra 0
  | .syadd rd ra rb => encA 0x20 6 rb ra rd
  | .syaddLit rd ra lit => encALit 0x20 6 0 ra rd lit
  | .sycas rd ra rb => encA 0x20 7 rb ra rd
  | .sycasLit rd ra lit => encALit 0x20 7 0 ra rd lit
  | .syswp rd ra rb => encA 0x20 8 rb ra rd
  | .syswpLit rd ra lit => encALit 0x20 8 0 ra rd lit
  | .syld rd ra => encA 0x20 9 0 ra rd
  | .logadd ra rb => encA 0x20 10 rb ra 0
  | .logaddLit ra lit => encALit 0x20 10 0 ra 0 lit
  | .logfadd ra rb => encA 0x20 11 rb ra 0
  | .logfaddLit ra lit => encALit 0x20 11 0 ra 0 lit
  | .hstart rd ra rb => encA 0x2B 0 rb ra rd
  | .hstartLit rd ra lit => encALit 0x2B 0 0 ra rd lit
  | .hjoin ra => encA 0x2B 1 0 ra 0
  | .hexit => encA 0x2B 2 0 0 0
  | .hstat rd => encA 0x2B 3 0 0 rd
  | .yield => encA 0x2B 4 0 0 0
  | .gang ra => encA 0x2B 5 0 ra 0
  | .detach => encA 0x2B 6 0 0 0
  | .rejoin => encA 0x2B 7 0 0 0
  | .bar lv => encA 0x2B 8 (lv.toBits.setWidth 5) 0 0
  | .signal ra => encA 0x2B 9 0 ra 0
  | .phasec => encA 0x2B 10 0 0 0
  | .phasex => encA 0x2B 11 0 0 0
  | .waitc rb => encA 0x2B 12 rb 0 0
  | .waitcLit lit => encALit 0x2B 12 0 0 0 lit
  | .bany rd ra => encA 0x2B 13 0 ra rd
  | .ball rd ra => encA 0x2B 14 0 ra rd
  | .rset idx ra rb => encA 0x2C 0 rb ra idx
  | .rsetLit idx ra lit => encALit 0x2C 0 0 ra idx lit
  | .pclr idx => encA 0x2C 1 0 0 idx
  | .pset idx => encA 0x2C 2 0 0 idx
  | .ptst rd idx => encA 0x2C 3 0 idx rd
  | .sopen ra => encA 0x2C 4 0 ra 0
  | .sput rb => encA 0x2C 5 rb 0 0
  | .sputLit lit => encALit 0x2C 5 0 0 0 lit
  | .sget rd => encA 0x2C 6 0 0 rd
  | .sclose => encA 0x2C 7 0 0 0
  | .msg ra rb => encA 0x2C 8 rb ra 0
  | .msgLit ra lit => encALit 0x2C 8 0 ra 0 lit
  | .msgrd rd => encA 0x2C 9 0 0 rd
  | .csrr rd csr => encA 0x2D 0 csr.toBits 0 rd
  | .csrw csr ra => encA 0x2D 1 csr.toBits ra 0
  | .csrs csr ra => encA 0x2D 2 csr.toBits ra 0
  | .csrc csr ra => encA 0x2D 3 csr.toBits ra 0
  | .trap ra => encA 0x2D 4 0 ra 0
  | .rte => encA 0x2D 5 0 0 0
  | .wfi => encA 0x2D 6 0 0 0
  | .ifence => encA 0x2D 7 0 0 0
  | .tlbi ra => encA 0x2D 8 0 ra 0
  | .snap => encA 0x2D 9 0 0 0
  | .halt => encA 0x2D 10 0 0 0
  | .vadd ty rm sat vd va vb mk => encX 0x3E 0 (vField vb) (vField va) (vField vd) 0 (flag sat 0) rm.toBits ty.toBits mk 0 0
  | .vsub ty rm sat vd va vb mk => encX 0x3E 1 (vField vb) (vField va) (vField vd) 0 (flag sat 0) rm.toBits ty.toBits mk 0 0
  | .vmul ty rm sat vd va vb mk => encX 0x3E 2 (vField vb) (vField va) (vField vd) 0 (flag sat 0) rm.toBits ty.toBits mk 0 0
  | .vfma ty rm sat vd va vb vc mk => encX 0x3E 3 (vField vb) (vField va) (vField vd) 0 (flag sat 0) rm.toBits ty.toBits mk (vField vc) 0
  | .vfms ty rm sat vd va vb vc mk => encX 0x3E 4 (vField vb) (vField va) (vField vd) 0 (flag sat 0) rm.toBits ty.toBits mk (vField vc) 0
  | .vmin ty vd va vb mk => encX 0x3E 5 (vField vb) (vField va) (vField vd) 0 0 0 ty.toBits mk 0 0
  | .vmax ty vd va vb mk => encX 0x3E 6 (vField vb) (vField va) (vField vd) 0 0 0 ty.toBits mk 0 0
  | .vabs ty sat vd va mk => encX 0x3E 7 0 (vField va) (vField vd) 0 (flag sat 0) 0 ty.toBits mk 0 0
  | .vneg ty sat vd va mk => encX 0x3E 8 0 (vField va) (vField vd) 0 (flag sat 0) 0 ty.toBits mk 0 0
  | .vrcp rm vd va mk => encX 0x3E 9 0 (vField va) (vField vd) 0 0 rm.toBits 0 mk 0 0
  | .vrsq rm vd va mk => encX 0x3E 10 0 (vField va) (vField vd) 0 0 rm.toBits 0 mk 0 0
  | .vsqrt rm vd va mk => encX 0x3E 11 0 (vField va) (vField vd) 0 0 rm.toBits 0 mk 0 0
  | .vexp2 rm vd va mk => encX 0x3E 12 0 (vField va) (vField vd) 0 0 rm.toBits 0 mk 0 0
  | .vlog2 rm vd va mk => encX 0x3E 13 0 (vField va) (vField vd) 0 0 rm.toBits 0 mk 0 0
  | .vcmpeq ty md va vb mk => encX 0x3E 14 (vField vb) (vField va) (mField md) 0 0 0 ty.toBits mk 0 0
  | .vcmplt ty md va vb mk => encX 0x3E 15 (vField vb) (vField va) (mField md) 0 0 0 ty.toBits mk 0 0
  | .vcmple ty md va vb mk => encX 0x3E 16 (vField vb) (vField va) (mField md) 0 0 0 ty.toBits mk 0 0
  | .vsel vd va vb mk => encX 0x3E 17 (vField vb) (vField va) (vField vd) 0 0 0 0 mk 0 0
  | .vand vd va vb mk => encX 0x3E 18 (vField vb) (vField va) (vField vd) 0 0 0 0 mk 0 0
  | .vor vd va vb mk => encX 0x3E 19 (vField vb) (vField va) (vField vd) 0 0 0 0 mk 0 0
  | .vxor vd va vb mk => encX 0x3E 20 (vField vb) (vField va) (vField vd) 0 0 0 0 mk 0 0
  | .vshl ty vd va vb mk => encX 0x3E 21 (vField vb) (vField va) (vField vd) 0 0 0 ty.toBits mk 0 0
  | .vshr ty vd va vb mk => encX 0x3E 22 (vField vb) (vField va) (vField vd) 0 0 0 ty.toBits mk 0 0
  | .vsra ty vd va vb mk => encX 0x3E 23 (vField vb) (vField va) (vField vd) 0 0 0 ty.toBits mk 0 0
  | .vcvt dst src rm p vd va mk => encX 0x3E 24 0 (vField va) (vField vd) (src.toBits.setWidth 8) (field p 0) rm.toBits dst.toBits mk 0 0
  | .vmov vd va mk => encX 0x3E 25 0 (vField va) (vField vd) 0 0 0 0 mk 0 0
  | .vbcst ty vd ra imm mk => encX 0x3E 26 0 ra (vField vd) 0 0 0 ty.toBits mk 0 imm
  | .vbcstLit ty vd ra lit mk => encXLit 0x3E 26 0 ra (vField vd) 0 0 0 ty.toBits mk 0 0 lit
  | .vext ty rd va rb => encX 0x3E 27 rb (vField va) rd 0 0 0 ty.toBits 0 0 0
  | .vins ty vd ra rb => encX 0x3E 28 rb ra (vField vd) 0 0 0 ty.toBits 0 0 0
  | .viota ty vd mk => encX 0x3E 29 0 0 (vField vd) 0 0 0 ty.toBits mk 0 0
  | .vperm ty vd va vb mk => encX 0x3E 30 (vField vb) (vField va) (vField vd) 0 0 0 ty.toBits mk 0 0
  | .vredadd ty rm vd va mk => encX 0x3E 31 0 (vField va) (vField vd) 0 0 rm.toBits ty.toBits mk 0 0
  | .vredmax ty vd va mk => encX 0x3E 32 0 (vField va) (vField vd) 0 0 0 ty.toBits mk 0 0
  | .vredmin ty vd va mk => encX 0x3E 33 0 (vField va) (vField vd) 0 0 0 ty.toBits mk 0 0
  | .vscan ty rm vd va mk => encX 0x3E 34 0 (vField va) (vField vd) 0 0 rm.toBits ty.toBits mk 0 0
  | .vld sh vd ra imm mk => encX 0x3E 35 0 ra (vField vd) 0 (flag sh 0) 0 0 mk 0 imm
  | .vldLit sh vd ra lit mk => encXLit 0x3E 35 0 ra (vField vd) 0 (flag sh 0) 0 0 mk 0 0 lit
  | .vst sh vs ra imm mk => encX 0x3E 36 0 ra (vField vs) 0 (flag sh 0) 0 0 mk 0 imm
  | .vstLit sh vs ra lit mk => encXLit 0x3E 36 0 ra (vField vs) 0 (flag sh 0) 0 0 mk 0 0 lit
  | .vlds sh vd ra rb imm mk => encX 0x3E 37 rb ra (vField vd) 0 (flag sh 0) 0 0 mk 0 imm
  | .vldsLit sh vd ra rb lit mk => encXLit 0x3E 37 rb ra (vField vd) 0 (flag sh 0) 0 0 mk 0 0 lit
  | .vsts sh vs ra rb imm mk => encX 0x3E 38 rb ra (vField vs) 0 (flag sh 0) 0 0 mk 0 imm
  | .vstsLit sh vs ra rb lit mk => encXLit 0x3E 38 rb ra (vField vs) 0 (flag sh 0) 0 0 mk 0 0 lit
  | .vgth sh vd ra vb imm mk => encX 0x3E 39 (vField vb) ra (vField vd) 0 (flag sh 0) 0 0 mk 0 imm
  | .vgthLit sh vd ra vb lit mk => encXLit 0x3E 39 (vField vb) ra (vField vd) 0 (flag sh 0) 0 0 mk 0 0 lit
  | .vsct sh vs ra vb imm mk => encX 0x3E 40 (vField vb) ra (vField vs) 0 (flag sh 0) 0 0 mk 0 imm
  | .vsctLit sh vs ra vb lit mk => encXLit 0x3E 40 (vField vb) ra (vField vs) 0 (flag sh 0) 0 0 mk 0 0 lit
  | .vdq ty p vd va rb mk => encX 0x3E 41 rb (vField va) (vField vd) 0 (field p 0) 0 ty.toBits mk 0 0
  | .vqnt ty rm p vd va rb mk => encX 0x3E 42 rb (vField va) (vField vd) 0 (field p 0) rm.toBits ty.toBits mk 0 0
  | .vhist vd va mk => encX 0x3E 43 0 (vField va) (vField vd) 0 0 0 0 mk 0 0
  | .vscale ty rd va rb => encX 0x3E 44 rb (vField va) rd 0 0 0 ty.toBits 0 0 0
  | .kand md ma mb => encX 0x3E 45 (mField mb) (mField ma) (mField md) 0 0 0 0 0 0 0
  | .kor md ma mb => encX 0x3E 46 (mField mb) (mField ma) (mField md) 0 0 0 0 0 0 0
  | .knot md ma => encX 0x3E 47 0 (mField ma) (mField md) 0 0 0 0 0 0 0
  | .kpop rd ma => encX 0x3E 48 0 (mField ma) rd 0 0 0 0 0 0 0
  | .mwld ty ra kr n1 sup => encX 0x3F 0 0 ra 0 kr (field n1 0) 0 ty.toBits 0 0 sup
  | .mma v ty td ra rows trow => encX 0x3F 1 0 ra (vField td) rows (flag v 0) 0 ty.toBits 0 0 trow
  | .mmai v asg wsg rsm td ra rb rc rows trow => encX 0x3F 2 rb ra (vField td) rows (flag v 0 ||| flag asg 1 ||| flag wsg 2 ||| flag rsm 3) 0 0 0 rc trow
  | .mzero td => encX 0x3F 3 0 0 (vField td) 0 0 0 0 0 0 0
  | .mldacc b td ra rows trow => encX 0x3F 4 0 ra (vField td) rows (flag b 0) 0 0 0 0 trow
  | .mdrain mode sh z ch td ra rb ring tag => encX 0x3F 5 rb ra (vField td) ring (field mode 0 ||| flag sh 3 ||| flag z 4 ||| field ch 5) 0 0 0 0 tag
  | .mrqp ra => encX 0x3F 6 0 ra 0 0 0 0 0 0 0 0
  | .mrank ty td ra rb rc rows n1 scale => encX 0x3F 7 rb ra (vField td) rows (field n1 0) 0 ty.toBits 0 rc scale
  | .mwait => encX 0x3F 8 0 0 0 0 0 0 0 0 0 0
  | .mstat rd ra => encX 0x3F 9 0 ra rd 0 0 0 0 0 0 0
  | .rank v mag ty rd ra rb rc => encX 0x3F 10 rb ra rd 0 (flag v 0 ||| flag mag 1) 0 ty.toBits 0 rc 0
  | .rankc mag ty rd ra rb rc pitch => encX 0x3F 11 rb ra rd 0 (flag mag 1) 0 ty.toBits 0 rc pitch
  | .rktab rd ra rb => encX 0x3F 12 rb ra rd 0 0 0 0 0 0 0
  | .rkval ty rd ra rb rc scale => encX 0x3F 13 rb ra rd 0 0 0 ty.toBits 0 rc scale
  | .aecfg rd ra rb => encX 0x3F 14 rb ra rd 0 0 0 0 0 0 0
  | .aesc rd ra rb rc => encX 0x3F 15 rb ra rd 0 0 0 0 0 rc 0
  | .aecap dflt rd ra rb => encX 0x3F 16 rb ra rd 0 (flag dflt 0) 0 0 0 0 0
  | .aerun ra rb => encX 0x3F 17 rb ra 0 0 0 0 0 0 0 0
  | .aewait rd ra => encX 0x3F 18 0 ra rd 0 0 0 0 0 0 0
  | .aerd rd ra rb => encX 0x3F 19 rb ra rd 0 0 0 0 0 0 0
  | .aepr rd ra rb => encX 0x3F 20 rb ra rd 0 0 0 0 0 0 0
  | .aepw rd ra rb => encX 0x3F 21 rb ra rd 0 0 0 0 0 0 0
  | .aestat rd ra => encX 0x3F 22 0 ra rd 0 0 0 0 0 0 0
  | .cpy ssh dsh dstr defer code ch rd ra rb rc ring tag => encX 0x3F 23 rb ra rd ring (flag ssh 0 ||| flag dsh 1 ||| flag dstr 2 ||| flag defer 3 ||| flag code 4 ||| field ch 5) 0 0 0 rc tag
  | .cpym ssh dstr fg ch rd ra rb rc ring off => encX 0x3F 24 rb ra rd ring (flag ssh 0 ||| flag dstr 2 ||| field fg 3 ||| field ch 5) 0 0 0 rc off
  | .cpych sh ch ra ring => encX 0x3F 25 0 ra 0 ring (flag sh 0 ||| field ch 5) 0 0 0 0 0
  | .cring ra rb => encX 0x3F 26 rb ra 0 0 0 0 0 0 0 0
  | .cawait seq rd ra => encX 0x3F 27 0 ra rd 0 (flag seq 0) 0 0 0 0 0
  | .crel ra => encX 0x3F 28 0 ra 0 0 0 0 0 0 0 0
  | .cseq rd ra => encX 0x3F 29 0 ra rd 0 0 0 0 0 0 0
  | .bfree ra => encX 0x3F 30 0 ra 0 0 0 0 0 0 0 0
  | .publish rd ra => encX 0x3F 31 0 ra rd 0 0 0 0 0 0 0
  | .coll rd ra => encX 0x3F 32 0 ra rd 0 0 0 0 0 0 0
  | .collw rd ra => encX 0x3F 33 0 ra rd 0 0 0 0 0 0 0
  | .signatureMismatch => []
  | .logFull => []
  | .budgetOverrun _ => []
  | .switchTick _ => []
  | .contextStream _ _ => []
  | .dispatch _ _ _ _ => []
  | .imageLoadComplete _ => []
  | .contextEnd _ => []
  | .completionRecord _ => []
  | .remoteWriteArrival _ => []
  | .rsetAcceptance _ _ => []
  | .rsetRetry _ _ => []
  | .remoteAccessRetry _ _ => []
  | .localLoadReturn _ => []
  | .messageArrival _ => []
  | .streamPortGrant _ => []
  | .streamEntryArrival _ => []
  | .lockGrant _ _ _ => []
  | .lockTimeout _ => []
  | .feWaitComplete _ _ => []
  | .gangFormed _ => []
  | .forwardArrival _ => []
  | .barrierRelease _ _ _ => []
  | .waitcExpiry _ _ => []
  | .yieldExpiry _ _ => []
  | .recordDrift _ => []
  | .callWindow _ => []
  | .publicationApply _ => []
  | .replicaApply _ => []
  | .sharedLoadReturn _ => []
  | .relComplete _ _ => []
  | .acqComplete _ _ => []
  | .syncOpComplete _ _ => []
  | .fenceComplete _ _ => []
  | .segmentReclaim => []
  | .tscWalk _ => []
  | .tlbFill _ => []
  | .absentRewalk _ => []
  | .denyRewalk _ => []
  | .tlbSweep _ => []
  | .invalVa _ _ => []
  | .invalAsid _ => []
  | .invalAll => []
  | .tscAcknowledge _ => []
  | .invalDone => []
  | .transferStart _ _ => []
  | .transferComplete _ _ => []
  | .chainRecordFetch _ _ => []
  | .multicastGrant _ _ => []
  | .xvComplete _ => []
  | .matrixGrant _ => []
  | .matrixComplete _ => []
  | .rankGrant _ => []
  | .rankComplete _ => []
  | .aeCommandStart _ _ => []
  | .aeCommandComplete _ _ => []
  | .aeRound _ _ => []
  | .aeRunEnd _ _ => []
  | .schedulerConsume _ => []
  | .queueBind _ _ => []
  | .queueRotate => []
  | .arbiterGrant => []
  | .sliceEnd _ => []
  | .admissionDecision => []
  | .reservationQuotaEnd _ => []
  | .reservationPeriod _ => []
  | .stepTick _ _ => []
  | .retrainEnd _ => []
  | .portDead _ => []
  | .escapeRouteInstall _ => []
  | .nackResend _ => []
  | .packetAgeDrop _ => []
  | .dieReset _ => []
  | .domainTimeLoss => []
  | .chunkArrival _ _ _ _ => []
  | .spillRefetch => []
  | .collInstanceComplete _ _ => []
  | .correctedError _ => []
  | .latentError _ => []
  | .consumedError _ => []
  | .containmentLaunchFault _ => []
  | .containmentEnd _ _ => []
  | .scrubLine _ _ => []
  | .snapinEdge => []
  | .snapshotLatch => []
  | .snapshotRelease => []
  | .mapCommit _ => []
  | .registerWrite _ _ => []
  | .thermalWarning => []
  | .thermalPoweroff => []
  | .boot _ => []
  | .inval => []
  | .resv => []
  | .cmap => []
  | .grpalloc => []
  | .grpfree => []
  | .spill => []
  | .bnd => []
  | .snapRequest => []
  | .attest => []
  | .status => []
  | .ras => []
  | .requestBadarg => []
  | .illegalInstruction _ _ => []
  | .fetchBound => []
  | .queueReset _ => []
  | .rdmaWrite _ _ _ _ => []
  | .cxlWrite _ _ _ _ => []
  | .msgRetry _ _ => []

/-- The bytes of words as the hardware stores them: each word little-endian, the first lowest (R2, R44). -/
def wordBytes : List W32 → List Byte
  | [] => []
  | w :: ws => w.extractLsb' 0 8 :: w.extractLsb' 8 8 :: w.extractLsb' 16 8 :: w.extractLsb' 24 8 :: wordBytes ws

/-- A little-endian word of four bytes (R2). -/
def wordOfBytes (b0 b1 b2 b3 : Byte) : W32 := b3 ++ b2 ++ b1 ++ b0

/-- The words in a list of bytes; bytes that do not fill a word are dropped. -/
def bytesWords : List Byte → List W32
  | b0 :: b1 :: b2 :: b3 :: bs => wordOfBytes b0 b1 b2 b3 :: bytesWords bs
  | _ => []

/-- The words of an instruction that the opcode table numbers as `w` (bit 0 the least significant bit of the first
word); every bit above `nbits`, up to the longest instruction of five words, is 0. -/
def tableWords (nbits w : Nat) : List W32 :=
  let v := w % 2 ^ nbits
  (List.range 5).map fun k => BitVec.ofNat 32 (v >>> (32 * k))

/-- The instruction the decoder reads from the bits of an opcode-table row. -/
noncomputable def decodeTableWord (nbits w : Nat) : Option Instr :=
  match decode (bytesWords (wordBytes (tableWords nbits w))) with
  | .ok i _ => some i
  | .illegal _ _ => none

end Sys2Proof
end

