-- ==== Sys2Proof/Machine/State.lean ====
section
/-!
DEFINITION. The state of the machine as plain data: every core, cluster, die and the device, and the state after reset.
Numbers of cores, launches, ticks and list positions are natural numbers; what software sees as a word is a bit vector.
-/

namespace Sys2Proof.Machine

open Sys2Proof

/-- A sparse table: keys strictly rising, one entry a key. An absent key reads as the table's default. -/
abbrev PMap (α : Type) := List (Nat × α)

/-- A byte memory in canonical form: addresses strictly rising, no entry equal to what an unlisted byte reads as
(`Mem.unlisted`). -/
abbrev Mem := List Host.Cell

/-- What a byte that nothing has written reads as: 0, DESIGN CHOICE (log 2), except where R131 and R174 state it. -/
def Mem.unlisted : Byte := 0

/-! ## Threads (R61) -/

/-- A CPYM that waits for the multicast tree (R192): the tick it arrived there and what it took at issue. -/
structure Multicast where
  at_ : Nat
  flag : BitVec 2
  rect : W64
  shape : BitVec 768
  ssh : Bool
  dstr : Bool
  ch : BitVec 3
  src : W64
  ring : BitVec 8
  off : W32
  deriving DecidableEq, Repr

/-- Why an issued instruction waits (R62); the instruction stays named by the PC until it completes. -/
inductive Wait where
  /-- A condition that the unit tests again at each retry. -/
  | retry
  /-- YIELD (R93): until this tick. -/
  | yield (until_ : Nat)
  /-- WAITC (R104). -/
  | waitc (b : W64)
  /-- HJOIN (R93): the incarnation of the helper that held the number. -/
  | hjoin (inc : Nat)
  /-- WFI (R107): the count of wake events at issue. -/
  | wfi (since : Nat)
  /-- BAR, BANY and BALL (R99, R103): wait for the release of instance `n`. -/
  | bar (lv : Level) (n : Nat)
  /-- SIGNAL (R101) that waits for the release of the instance it has arrived at already. -/
  | signal (lv : Level) (n : Nat)
  /-- GANG (R95): waits for the other members with this word. -/
  | gang (word : W64)
  /-- REJOIN (R98): waits for the leader's REJOIN number `f`. -/
  | rejoin (f : Nat)
  /-- CSRR of fflags or xstat, MWAIT, MSTAT, HALT: waits for the entries with a sequence number below `n`. -/
  | seq (n : Nat)
  /-- AEWAIT (R280): waits for the commands on this slot with a sequence number below `n`. -/
  | ae (slot n : Nat)
  /-- RSET (R120) and MSG (R123): a packet is on its way or was refused. -/
  | packet
  /-- SOPEN (R122): in line at the target's port. -/
  | port
  /-- An access to a core that holds no context of the launch (R109). -/
  | remote
  /-- An FE instruction in line at its granule (R116). -/
  | fe
  /-- LDL in line at its lock bit (R118). -/
  | lock
  /-- A store to this address without log space, since this tick (R142); of a vector store, the addresses and values of its lanes (R221). -/
  | log (since : Nat) (ea : W64) (lanes : List (W64 × W32))
  /-- REL (R133): its publication. -/
  | rel (pub : Nat)
  /-- ACQ (R137): its replay. -/
  | acq
  /-- A SYNC-group operation on its way to the home (R132): the object's address, RB's value or the literal, and RD's value. -/
  | sync (a b d : W64)
  /-- FENCE (R145): the sequence number below which every record must be settled. -/
  | fence (n : Nat)
  /-- CPY (R180): the shape record has been read and the channel's queue is full. -/
  | copy (shape : BitVec 768)
  /-- CPYM (R192): in line for the multicast tree. -/
  | mcast (m : Multicast)
  /-- PUBLISH (R190): its publication and the number of transfers in it. -/
  | publish (pub n : Nat)
  /-- HALT (R65): waits for its conditions. -/
  | halt
  deriving DecidableEq, Repr

/-- A stalled instruction: its length in bytes, its destination and what it waits for. -/
structure Stall where
  len : Nat
  rd : SReg
  why : Wait
  deriving DecidableEq, Repr

/-- A result on its way to a scalar register: it is written when package time reaches `due` (R80, R81). `load`: it is a local
load's, which a barrier arrival waits for (R100). -/
structure Result where
  rd : SReg
  val : W64
  due : Nat
  load : Bool
  deriving DecidableEq, Repr

/-- A thread's open stream (R122): the target core and the data entries sent. -/
structure OpenStream where
  target : Nat
  count : Nat
  deriving DecidableEq, Repr

/-- A block that the signature checker has entered (R327). -/
structure SigBlock where
  start : W32
  issued : Nat
  nwords : Nat
  crc : BitVec 16
  expected : BitVec 16
  /-- The registers written in the block, each with the number of instructions back to its last writer (R42). -/
  writers : List (SReg × Nat)
  deriving DecidableEq, Repr

/-- One half of a thread's instruction buffer (R89): the words fetched from `start` on. -/
structure IbHalf where
  start : W64
  words : List W32
  deriving DecidableEq, Repr

/-- The word access that an 8-byte load or store of ULM or scratchpad has still to make (R114): in the ULM of core `unit` or the scratchpad
of cluster `unit`, at `off`; `high`: it is the upper word; `store`: the word that a store writes there. A load puts the word that it
reads into its result. -/
structure HalfAccess where
  scratch : Bool
  unit : Nat
  off : Nat
  high : Bool
  store : Option W32
  deriving DecidableEq, Repr

/-- A thread (R61). -/
structure Thread where
  live : Bool
  pc : W64
  regs : Vector W64 32
  present : BitVec 32
  /-- Registers for which a result of the thread's own instruction is on its way (R119). -/
  pending : BitVec 32
  /-- Results of fixed latency on their way (R80). -/
  results : List Result
  stall : Option Stall
  /-- The tick before which the thread's next instruction does not issue (R80). -/
  readyAt : Nat
  /-- Its last FENCEL (R146): a later shared load waits for its shared loads with a sequence number below this. -/
  fenceL : Nat
  /-- The two halves of the instruction buffer (R89). -/
  ibSeq : IbHalf
  ibTgt : IbHalf
  stream : Option OpenStream
  sig : Option SigBlock
  /-- A mismatch found at the end of a block: the CRC observed and the block's start (R328). -/
  sigBad : Option (BitVec 16 × W32)
  /-- How often the number has been given to a helper: the model's own count, so that HJOIN can name one helper. -/
  inc : Nat
  /-- The second access of its latest local access, while it is still to be made (R114). -/
  half : Option HalfAccess
  /-- Of a helper: the control thread's local loads with a sequence number below this come before its first instruction (R92). -/
  startL : Nat
  /-- Of a follower that has detached while its forwarded instruction stalls: where it goes on after it (R96). -/
  after : Option W64
  deriving DecidableEq, Repr

/-- A thread that is not live. Values: log 1. -/
def Thread.reset : Thread where
  live := false
  pc := 0
  regs := Vector.replicate 32 0
  present := BitVec.allOnes 32
  pending := 0
  results := []
  stall := none
  readyAt := 0
  fenceL := 0
  ibSeq := ⟨0, []⟩
  ibTgt := ⟨0, []⟩
  stream := none
  sig := none
  sigBad := none
  inc := 0
  half := none
  startL := 0
  after := none

/-! ## Contexts (R61, R78, R106) -/

/-- The phase of a context (R66). -/
inductive Phase where
  | compute | exchange
  deriving DecidableEq, Repr

/-- The privilege mode of a context (R58). -/
inductive Mode where
  | user | supervisor
  deriving DecidableEq, Repr

/-- A barrier level of a context (R102): the instances released so far; the instance that the context has arrived at
by BAR, a vote or SIGNAL without having passed it (`owed`); and the vote of that arrival, or after the release the
vote's result: any or all, and its value (R103). -/
structure Barrier where
  inst : Nat
  owed : Option Nat
  vote : Option (Bool × Bool)
  deriving DecidableEq, Repr

/-- An instruction on the forward lane (R96): its words, the leader's PC and next PC, whether the leader took it if it is a
conditional branch (R97), and the tick it is available. `rejoins` is the leader's REJOIN count after it. -/
structure Fwd where
  words : List W32
  pc : W64
  next : W64
  taken : Option Bool
  due : Nat
  rejoins : Nat
  deriving DecidableEq, Repr

/-- Gang membership (R94–R98). -/
structure Gang where
  /-- The rectangle word of the gang. -/
  word : W64
  leader : Bool
  attached : Bool
  /-- The member's own REJOIN count. -/
  rejoins : Nat
  /-- The leader's count, as most recently received (R98). -/
  seen : Nat
  /-- Forwarded instructions on their way, oldest first. -/
  lane : List Fwd
  /-- The forward buffer of 16. -/
  buffer : List Fwd
  /-- The forwarded instruction that has issued and stalls: a switch abandons it to the buffer's front (R75, R102). Of a detached follower,
  its own instruction that a switch has abandoned and that has not re-executed: it comes first when a release attaches the follower. -/
  held : Option Fwd
  /-- Of a leader: the PC of a stalled instruction that a switch has abandoned. The followers have it: it is not sent again when it
  re-executes (R75, R77, R102). -/
  sent : Option W64
  /-- The leader has ended and the gang is dissolved; this follower is attached until it executes the HALT forwarded to it (R107). -/
  dissolved : Bool
  deriving DecidableEq, Repr

/-- The fence status gathered (R145). -/
structure FenceStatus where
  va : BitVec 48
  nfail : Nat
  lost : Bool
  deny : Bool
  link : Bool
  deriving DecidableEq, Repr

/-- An entry of the inbox (R119, R78). -/
structure InboxEntry where
  thr : Nat
  idx : SReg
  val : W64
  deriving DecidableEq, Repr

/-- The matrix block of a context (R246). -/
structure MxBlock where
  wpair0 : W64
  wpair1 : W64
  wfmt : W64
  /-- Column sums of the weights read as signed and as unsigned (R238). -/
  css : Vector W32 128
  csu : Vector W32 128
  status : W64
  /-- Requantisation parameters (R242). -/
  rq : Vector W64 128
  deriving DecidableEq, Repr

/-- An entry of a stream port's FIFO (R122). -/
inductive StreamEntry where
  | data (v : W64)
  | close
  deriving DecidableEq, Repr

/-- A core's stream port (R122). -/
structure Port where
  /-- The sending core, thread and launch. -/
  owner : Option (Nat × Nat × Nat)
  /-- Entries on their way, each with its place in the order in which packets are sent (R306), then those in the FIFO. -/
  flying : List (Nat × StreamEntry)
  fifo : List StreamEntry
  /-- Data entries taken so far. -/
  taken : Nat
  /-- SOPENs in line: core, thread, launch. -/
  line : List (Nat × Nat × Nat)
  /-- Threads of the port's core whose SGETs wait, in the order of their issue. -/
  takers : List Nat
  deriving DecidableEq, Repr

/-- A context (R61, R78). -/
structure Ctx where
  resident : Bool
  ended : Bool
  launch : Nat
  threads : Vector Thread 11
  vregs : Vector VImage 16
  /-- `m0` is stored but reads all ones (R50). -/
  masks : Vector W64 8
  tvec : W32
  size : BitVec 3
  base : BitVec 2
  tthr : BitVec 4
  phase : Phase
  inh : Bool
  pmode : Mode
  mode : Mode
  xpc : W64
  xcause : W64
  xval : W64
  lag : Bool
  divz : Bool
  accerr : Bool
  ctxid : BitVec 16
  vshare : BitVec 4
  mshare : BitVec 4
  mtiles : BitVec 16
  accsat : Bool
  ftz : Bool
  frm : BitVec 2
  /-- While the context runs, phcyc is package time less this; while it does not, phcyc itself (R66). -/
  phcyc : W64
  fflags : BitVec 5
  logcap : W32
  sigBase : W32
  sigCount : BitVec 16
  sigEn : Bool
  snapEvent : BitVec 8
  snapFired : Bool
  snapArm : Bool
  inbox : List InboxEntry
  msgq : List W64
  gang : Option Gang
  barGang : Barrier
  barBlk : Barrier
  barSpr : Barrier
  /-- Mask of a held budget-overrun notice (R69, R72); 0: none. -/
  notice : BitVec 5
  mx : MxBlock
  /-- Buffer-free flags 0–3 (R192). -/
  bufFree : BitVec 4
  lsn : W32
  fence : FenceStatus
  spillBase : BitVec 48
  spillSize : BitVec 16
  /-- The core's stream port while the context does not run (R75). -/
  port : Port
  /-- Wake events so far (R107): the model's own count. -/
  wakes : Nat
  deriving DecidableEq, Repr

/-! ## Shared memory (R124–R147) -/

/-- Where a record stands on its way (R126): its home's device and physical address, the page's attributes and the
tick at which it was accepted. -/
structure Homed where
  pa : Nat
  size : Nat
  mca : Bool
  repl : Bool
  tick : Nat
  deriving DecidableEq, Repr

/-- A log record (R124). `seq` is the model's count over the core; `launch` the context it belongs to. -/
structure LogRec where
  kind : BitVec 4
  gran : BitVec 44
  mask : BitVec 16
  data : BitVec 128
  ctx : BitVec 16
  lsn : W32
  launch : Nat
  seq : Nat
  /-- The record's place in its context's spill region, if it is there (R142). -/
  spilled : Option Nat
  /-- An SSTP record, which never merges (R143). -/
  sstp : Bool
  homed : Option Homed
  pub : Option Nat
  deriving DecidableEq, Repr

/-- A publication (R133–R135, R157). `obj` is the physical address of its sync object. -/
structure Publication where
  id : Nat
  source : Nat
  sys : Bool
  scope : Scope
  obj : Option Nat
  core : Nat
  launch : Nat
  /-- An engine publication or an SSTP: view lines drop at its application tick (R129, R157). -/
  drops : Bool
  /-- An engine publication, applied everywhere at its tick (R157). -/
  engine : Bool
  records : List LogRec
  /-- The tick at which its last record reached its home. -/
  ready : Option Nat
  /-- The application tick, once it holds a slot (R134). -/
  app : Option Nat
  applied : Bool
  /-- Its place in publish order (R135), once applied. -/
  ord : Nat
  /-- Index under its object (pseq) once applied. -/
  index : Nat
  /-- While its ordinary pages lag, their G-dies, and C-dies whose replicas lag (R135). -/
  lagG : BitVec 4
  lagD : BitVec 8
  deriving DecidableEq, Repr

/-- A byte of a view line (R130). `ord` stands for its application tick: the place in publish order of the first
publication that it does not hold yet. `key` is the byte of home memory that it is a copy of, `size` its page's size. -/
structure ViewByte where
  val : Byte
  ord : Nat
  key : Nat
  size : Nat
  deriving DecidableEq, Repr

/-- An entry of the acquire table (R139), the most recently acquired first, with the bound region as the ACQ found it
(log 14). -/
structure AcqEntry where
  obj : Nat
  v : Nat
  region : W64 × W64
  deriving DecidableEq, Repr

/-- The three shared loads (R128). -/
inductive LoadKind where
  | sld | sldw | sldh
  deriving DecidableEq, Repr

/-- An outstanding load whose data has not arrived: a shared load (R128) or a local load of another window (R111). -/
structure SharedLoad where
  seq : Nat
  core : Nat
  launch : Nat
  thr : Nat
  inc : Nat
  rd : SReg
  kind : LoadKind
  ea : W64
  ctxid : BitVec 16
  /-- The incarnation of the core's die when the request was sent (R315). -/
  inc8 : BitVec 8
  /-- For each byte, the own records that cover it at issue and the byte in them, the youngest first (R129). -/
  fwd : List (List (Nat × Byte))
  /-- The thread's last FENCEL: earlier shared loads come first (R146). -/
  after : Nat
  /-- Once it has been performed: what it has read, when, and the die from which the data is on its way (R151, R315). -/
  got : Option (W64 × Nat × Nat)
  deriving DecidableEq, Repr

/-- An outstanding local load: its value has been read and is on its way (R111) from the core `from_` whose window it is. -/
structure LocalLoad where
  seq : Nat
  from_ : Nat
  core : Nat
  launch : Nat
  thr : Nat
  inc : Nat
  rd : SReg
  val : W64
  /-- The tick of its issue (R315). -/
  sent : Nat
  deriving DecidableEq, Repr

/-! ## Translation (R162–R175) -/

/-- A TLB entry (R163): the 128-bit word as the TSC writes it, and whether its address space is in mode L (R166). -/
structure TlbEntry where
  word : BitVec 128
  modeL : Bool
  deriving DecidableEq, Repr

/-- Access kinds of a walk (R167). -/
inductive Access where
  | load | record | sync | copyRead | copyWrite | codeLoad
  deriving DecidableEq, Repr

/-- Who missed: a core's TLB or the copy engine's (R162). -/
inductive TlbUser where
  | core (c : Nat)
  | copy
  deriving DecidableEq, Repr

/-- A walk routine's machine: registers, program counter, scratch data and table reads so far. -/
structure Rv where
  regs : List W64
  pc : W64
  scratch : Mem
  reads : Nat
  deriving DecidableEq, Repr

/-- How a walk ends (R167, R168, R329). -/
inductive WalkEnd where
  | fill (word : BitVec 128)
  | deny
  | absent
  | error
  /-- It reads a poisoned line of home memory. -/
  | consumed (key : Nat)
  deriving DecidableEq, Repr

/-- Where a queued miss stands (R169, R170). -/
inductive MissState where
  | queued
  /-- The walk is under way: its machine, and the instructions that it may still run (R167). -/
  | walking (m : Rv) (left : Nat)
  /-- The walk has run and is to return. -/
  | walked (r : WalkEnd)
  /-- Denied by a first walk that began at this tick. -/
  | denied (at_ : Nat)
  /-- Absent: walks again when the address space is signalled or from this tick. -/
  | absent (until_ : Nat)
  /-- Finally denied: kept until the access completes. -/
  | final
  deriving DecidableEq, Repr

/-- A miss at the TSC (R169). `priority`: its class, that of its launch now. `acc` tells the accesses of one user apart: the sequence number of a record or a shared load, the thread
of a SYNC-group instruction, the number of a transfer and its channel. -/
structure Miss where
  user : TlbUser
  acc : Nat
  va : BitVec 48
  ctxid : BitVec 16
  asid : BitVec 12
  kind : Access
  launch : Nat
  priority : Bool
  second : Bool
  start : Nat
  state : MissState
  deriving DecidableEq, Repr

/-- A TLB: its entries (0 where none) and its round-robin victim pointer (R162). -/
structure Tlb where
  entries : PMap TlbEntry
  ptr : Nat
  deriving DecidableEq, Repr

/-! ## The copy engine (R176–R193) -/

/-- A dimension of a shape record (R177). -/
structure Dim where
  stride : BitVec 40
  size : Nat
  lo : Nat
  hi : Nat
  deriving DecidableEq, Repr

/-- A tensor shape record as it was read (R177). -/
structure Shape where
  ndim : Nat
  ty : Nat
  clip : Bool
  dims : List Dim
  deriving DecidableEq, Repr

/-- What a transfer moves: plain bytes, a multicast (R192), an image load (R303) or a tile (R243). -/
inductive TransferKind where
  | plain
  | multicast (rect : W64) (off : W32)
  | image
  | drain (mode : BitVec 3) (z : Bool) (td : TReg) (seq : Nat)
  deriving DecidableEq, Repr

/-- Where a transfer stands. -/
inductive TransferState where
  | queued
  /-- Checked: its data moves. -/
  | running
  /-- Finished with a status code of R188, waiting for its slot. -/
  | done (status : Nat)
  deriving DecidableEq, Repr

/-- A translation that a command of an engine has obtained: the kind of access, the 64 KiB page and the entry (R162, R183). -/
structure Trans where
  kind : Access
  page : Nat
  entry : TlbEntry
  deriving DecidableEq, Repr

/-- A transfer of a channel (R176, R180). -/
structure Transfer where
  no : Nat
  core : Nat
  launch : Nat
  ctxid : BitVec 16
  mtiles : BitVec 16
  ssh : Bool
  dsh : Bool
  dstr : Bool
  defer : Bool
  code : Bool
  src : W64
  dst : W64
  shape : Shape
  ch : Nat
  ring : Nat
  tag : W32
  kind : TransferKind
  state : TransferState
  /-- The publications of the context whose REL had completed at issue: the latest application tick (R157). -/
  after : Nat
  /-- The issuing context's ULM region: its first byte and its size (R64). -/
  origin : Nat
  region : Nat
  /-- A drain's requantisation parameters (R243). -/
  rq : List W64
  /-- The elements at the front of its walk that have moved, those beyond them that have, and the bytes written to the destination (R13,
  R184, R193). -/
  next : Nat
  early : List Nat
  moved : Nat
  /-- The translations of its pages (R182, R183). -/
  trans : List Trans
  /-- What has been read for a shared destination, and the granules of a shared source read so far, by home key / 16 (R186). -/
  got : List (W64 × List Byte)
  seen : PMap (BitVec 128)
  /-- The shadow of a shared destination (R185), and the homes of its granules as their elements moved (R173). -/
  shadow : List LogRec
  homes : PMap Homed
  /-- The record of a chain that it came from (R191): its address and whether the chain is shared. -/
  chainRec : Option (W64 × Bool)
  /-- Its publication (R188). -/
  pub : Option Nat
  deriving DecidableEq, Repr

/-- A chain that a channel runs (R191). -/
structure Chain where
  /-- The record to read next; none: the last one has been taken. -/
  head : Option W64
  sh : Bool
  ring : Nat
  core : Nat
  launch : Nat
  ctxid : BitVec 16
  mtiles : BitVec 16
  origin : Nat
  region : Nat
  /-- The publications of the context whose REL had completed at the CPYCH's issue: the latest application tick (R157). -/
  after : Nat
  /-- It runs: transfers of the queue wait until it ends. -/
  started : Bool
  /-- The record that could not be read or written has ended it; its DENY slot is to be written. -/
  failed : Bool
  deriving DecidableEq, Repr

/-- A channel of a copy engine (R176, R187). -/
structure Channel where
  queue : List Transfer
  lastNo : Nat
  doneNo : Nat
  chain : Option Chain
  deriving DecidableEq, Repr

/-- A completion ring (R188, R189). -/
structure Ring where
  size : Nat
  wp : BitVec 16
  rp : BitVec 16
  slots : PMap (W64 × W64)
  /-- The configuring context: core and launch. -/
  owner : Option (Nat × Nat)
  deriving DecidableEq, Repr

/-- A deferred shadow (R185, R190). -/
structure Deferred where
  ring : Nat
  core : Nat
  launch : Nat
  records : List LogRec
  deriving DecidableEq, Repr

/-! ## The vector, matrix and ranking units (R209–R263) -/

/-- Element-wise operations of two vector sources (R216, R217). -/
inductive XvBin where
  | add | sub | mul | min | max | shl | shr | sra
  deriving DecidableEq, Repr

/-- The functions of R216. -/
inductive XvFun where
  | rcp | rsq | sqrt | exp2 | log2
  deriving DecidableEq, Repr

/-- Comparisons (R217). -/
inductive XvCmp where
  | eq | lt | le
  deriving DecidableEq, Repr

/-- Bitwise operations (R217, R225). -/
inductive XvLogic where
  | and | or | xor
  deriving DecidableEq, Repr

/-- Reductions (R219). -/
inductive XvRed where
  | add | max | min
  deriving DecidableEq, Repr

/-- Address forms of the vector memory instructions (R220). -/
inductive XvAddr where
  | unit
  | stride
  | index (vb : VReg)
  deriving DecidableEq, Repr

/-- What an entry of a vector queue does: its registers, and its scalar operands in `XvEntry`. -/
inductive XvOp where
  | bin (f : XvBin) (ty : Ty) (sat : Bool) (vd va vb : VReg) (mk : MReg)
  | fma (neg : Bool) (ty : Ty) (sat : Bool) (vd va vb vc : VReg) (mk : MReg)
  | un (abs : Bool) (ty : Ty) (sat : Bool) (vd va : VReg) (mk : MReg)
  | fn (f : XvFun) (vd va : VReg) (mk : MReg)
  | cmp (f : XvCmp) (ty : Ty) (md : MReg) (va vb : VReg) (mk : MReg)
  | sel (vd va vb : VReg) (mk : MReg)
  | logic (f : XvLogic) (vd va vb : VReg) (mk : MReg)
  | cvt (dst src : Ty) (p : Nat) (vd va : VReg) (mk : MReg)
  | mov (vd va : VReg) (mk : MReg)
  | bcst (ty : Ty) (vd : VReg) (mk : MReg)
  | ext (ty : Ty) (rd : SReg) (va : VReg)
  | ins (ty : Ty) (vd : VReg)
  | iota (ty : Ty) (vd : VReg) (mk : MReg)
  | perm (ty : Ty) (vd va vb : VReg) (mk : MReg)
  | red (f : XvRed) (ty : Ty) (vd va : VReg) (mk : MReg)
  | scan (ty : Ty) (vd va : VReg) (mk : MReg)
  | load (sh : Bool) (k : XvAddr) (vd : VReg) (mk : MReg)
  | store (sh : Bool) (k : XvAddr) (vs : VReg) (mk : MReg)
  | dq (ty : Ty) (p : Nat) (vd va : VReg) (mk : MReg)
  | qnt (ty : Ty) (p : Nat) (vd va : VReg) (mk : MReg)
  | hist (vd va : VReg) (mk : MReg)
  | scale (ty : Ty) (rd : SReg) (va : VReg)
  | kop (or : Bool) (md ma mb : MReg)
  | knot (md ma : MReg)
  | kpop (rd : SReg) (ma : MReg)
  deriving DecidableEq, Repr

/-- An entry of a vector queue (R209): its scalar sources and rounding mode, taken at issue, and the slices that it has
left to run (R210). -/
structure XvEntry where
  seq : Nat
  launch : Nat
  thr : Nat
  inc : Nat
  op : XvOp
  a : W64
  b : W64
  rm : BitVec 2
  ftz : Bool
  left : Nat
  /-- The thread's last FENCEL at issue (R146). -/
  after : Nat
  /-- The vector and mask registers as its first slice found them (R210). -/
  src : Option (Vector VImage 16 × Vector W64 8)
  /-- The context number at issue, in whose address space shared lanes are read (R105, R221). -/
  ctxid : BitVec 16
  /-- Of a shared load, the context's records at issue, which may forward to it (R129, R221). -/
  own : List LogRec
  /-- The active lanes that a memory instruction has performed, from the first on, and what a load has read in them (R222). -/
  next : Nat
  got : List (Nat × W32)
  deriving DecidableEq, Repr

/-- A weight descriptor (R228). -/
structure WDesc where
  p0 : W64
  p1 : W64
  ty : Ty
  kr : Nat
  n : Nat
  s : W32
  deriving DecidableEq, Repr

/-- A matrix command with the operands it took at issue (R230). -/
inductive MxCmd where
  | mwld (d : WDesc)
  | mma (ty : Ty) (td : TReg) (p0 p1 : W64) (imgs : Option (List VImage)) (rows trow : Nat) (d : WDesc)
  | mmai (asg wsg : Bool) (rowSums : Option W64) (zp : W64) (td : TReg) (p0 p1 : W64) (imgs : Option (List VImage))
      (rows trow : Nat) (d : WDesc)
  | mzero (td : TReg)
  | mldacc (b : Bool) (td : TReg) (p0 p1 : W64) (rows trow : Nat)
  | mdrain (td : TReg) (t : Transfer)
  | mrqp (a : W64)
  | mrank (ty : Ty) (td : TReg) (l0 l1 w0 w1 c : W64) (rows n : Nat) (scale : W32)
  deriving DecidableEq, Repr

/-- What the weight array holds: the context whose weights they are, the descriptor they were loaded under, and the bytes of the weight
rows and of the scale codes as the reload found them (R228, R229). -/
structure MxHeld where
  launch : Nat
  core : Nat
  desc : WDesc
  rows : List (List Byte)
  codes : List Byte
  deriving DecidableEq, Repr

/-- An entry of a matrix queue (R230). -/
structure MxEntry where
  seq : Nat
  launch : Nat
  cmd : MxCmd
  deriving DecidableEq, Repr

/-- A granted matrix command that has not completed (R231). -/
structure MxGranted where
  core : Nat
  entry : MxEntry
  /-- Row sums that an MMAI has still to write, each with its scratchpad offset (R240, R350). -/
  sums : List (Nat × W32) := []
  deriving DecidableEq, Repr

/-- Where an engine operand lies: the issuing core's own ULM (absolute offset) or its cluster's scratchpad. -/
inductive EngineLoc where
  | ulm (off : Nat)
  | scratch (off : Nat)
  deriving DecidableEq, Repr

/-- Commands of the ranking unit (R257–R261) with the places of their operands; `keys`: registers copied at issue. -/
inductive RkCmd where
  | rank (mag : Bool) (ty : Ty) (keys : Option (List VImage)) (a b : EngineLoc) (n k : Nat)
  | rankc (mag : Bool) (ty : Ty) (a b : EngineLoc) (t k c pitch : Nat)
  | rktab (a : EngineLoc) (len tab : Nat)
  | rkval (ty : Ty) (a b : EngineLoc) (n k tab : Nat) (scale : W32)
  deriving DecidableEq, Repr

/-- An entry of a ranking queue (R252). -/
structure RkEntry where
  launch : Nat
  thr : Nat
  inc : Nat
  rd : SReg
  cmd : RkCmd
  deriving DecidableEq, Repr

/-- A granted ranking command that has not completed (R252, R256): the input words it has read so far, by their number from the first;
the words read of its attenuation table; once it has read all, its output bytes and its status word; and the output words written. -/
structure RkRun where
  core : Nat
  entry : RkEntry
  got : PMap (List Byte)
  tab : PMap (List Byte)
  out : Option (List Byte × W64)
  put : List Nat
  deriving DecidableEq, Repr

/-! ## The assignment engine (R269–R284) -/

/-- A configured slot (R271, R272). -/
structure AeSlot where
  /-- The configuration record's bits; 0: not configured. -/
  record : BitVec 512
  caps : List Nat
  results : List Nat
  hasScores : Bool
  clamps : Nat
  reason : Nat
  state : Nat
  rounds : Nat
  filled : Nat
  /-- Of a run in progress: its prices, the holders (expert, token, bid), its deadline (0: none) and its issuer. -/
  prices : List Nat
  holders : List (Nat × Nat × Nat)
  deadline : Nat
  core : Nat
  launch : Nat
  deriving DecidableEq, Repr

/-- A place that a command names, with the bytes from it to the end of its window (R274). -/
structure AeLoc where
  loc : EngineLoc
  room : Nat
  deriving DecidableEq, Repr

/-- Commands of the engine (R273). -/
inductive AeCmd where
  | cfg (slot : Nat) (rec : AeLoc)
  | sc (slot : Nat) (logits biases : AeLoc)
  | cap (slot : Nat) (vec : Option AeLoc)
  | run (slot : Nat) (deadline : Nat)
  | rd (slot : Nat) (out : AeLoc)
  | pr (bank : Nat) (out : AeLoc)
  | pw (bank : Nat) (inp : AeLoc)
  | stat (slot : Nat)
  deriving DecidableEq, Repr

/-- A command in the die queue (R275): the words of its input that it has read since its start, by their number from the first (an AESC's
biases from 2^24 on), and the output words that it has written. -/
structure AeEntry where
  seq : Nat
  core : Nat
  launch : Nat
  thr : Nat
  inc : Nat
  rd : SReg
  cmd : AeCmd
  started : Bool
  got : PMap (List Byte)
  put : List Nat
  deriving DecidableEq, Repr

/-- An owner word of a slot or bank (R270). -/
structure Owner where
  any : Bool
  ctx : BitVec 16
  deriving DecidableEq, Repr

/-- An assignment engine. -/
structure Ae where
  scores : Mem
  prices : PMap (BitVec 24)
  slots : PMap AeSlot
  slotOwner : PMap Owner
  bankOwner : PMap Owner
  queue : List AeEntry
  /-- The ordinary slot served last, and the slots that the current turn has still to serve (R282). -/
  served : Nat
  turn : List Nat
  deriving DecidableEq, Repr

/-! ## Cores, clusters and dies -/

/-- A held lock bit (R117): the owner, whose context is its launch's, the locked word's offset and the tick of its grant. -/
structure Lock where
  core : Nat
  launch : Nat
  thr : Nat
  word : Nat
  granted : Nat
  deriving DecidableEq, Repr

/-- An LDL in line at a lock bit (R118). -/
structure LockWait where
  key : Nat
  core : Nat
  launch : Nat
  thr : Nat
  word : Nat
  /-- The tick of its arrival. -/
  at_ : Nat
  /-- It is the first in line at a free bit, with every request of the cycle in line: it takes the bit when it retries. -/
  due : Bool
  deriving DecidableEq, Repr

/-- An FE instruction in line at a granule (R116): loaders wait for it to be full, storers for it to be empty. `all`: an LDFE, which
every filling serves. -/
structure FeWait where
  gran : Nat
  full : Bool
  all : Bool
  core : Nat
  thr : Nat
  deriving DecidableEq, Repr

/-- A named switch tick (R74): the launch that it brings in on the core, if any, and the launch whose images must have been
loaded first. -/
structure Switch where
  at_ : Nat
  incoming : Option Nat
  waits : Option Nat
  deriving DecidableEq, Repr

/-- A core (R12, R73). -/
structure Core where
  run : Ctx
  shadow : Ctx
  ulm : Mem
  /-- Full/empty bits: bit `g` is granule `g` (R115). -/
  fe : BitVec 16384
  /-- FE instructions in line, in order of arrival (R116). -/
  feLine : List FeWait
  /-- The thread that issued last, and the tick at which it did (R62). -/
  ptr : Nat
  last : Option Nat
  /-- cyc is package time less this (R106). -/
  cyc : W64
  log : List LogRec
  vq : List XvEntry
  mq : List MxEntry
  rq : List RkEntry
  port : Port
  tlb : Tlb
  switch : Option Switch
  deriving DecidableEq, Repr

/-- A cluster (R12). -/
structure Cluster where
  scratch : Mem
  /-- Held lock bits: key 16·bank + k (R117). -/
  locks : PMap Lock
  lockLine : List LockWait
  /-- Accumulator tiles: byte addresses as in window 5 (R109). -/
  tiles : Mem
  /-- Attenuation tables: byte addresses as in window 6 (R109), and the lengths (R259). -/
  tables : Mem
  tableLen : PMap Nat
  rkPtr : Nat
  /-- Ranking commands granted and not completed, in the order of their grants (R252). -/
  rkRunning : List RkRun
  vcr : PMap Nat
  vptr : PMap Nat
  mcr : PMap Nat
  mptr : Nat
  mxGranted : List MxGranted
  /-- The weight array (R228). -/
  mxHeld : Option MxHeld
  view : PMap ViewByte
  acq : List AcqEntry
  channels : Vector Channel 8
  loader : List Transfer
  rings : PMap Ring
  deferred : List Deferred
  copyTlb : Tlb
  sharedTlb : PMap Tlb
  misses : List Miss
  /-- The tick of the TSC's last sweep (R169). -/
  sweepAt : Nat
  deriving DecidableEq, Repr

/-- A C-die's own state (R12, R315, R333); G-dies 8–11 use the incarnation part only. -/
structure Die where
  ae : Ae
  inc : BitVec 8
  stale : BitVec 24
  aged : BitVec 24
  /-- The committed containment map (R333): 32 rectangle words. -/
  cmap : List W64
  /-- Rectangles being reset: map index and the tick of the first error (R334). -/
  resetting : List (Nat × Nat)
  /-- The tick until which the die is under reset: since then it has been out of reset (R315, R106). -/
  resetEnd : Nat
  deriving DecidableEq, Repr

/-! ## Packets between cores (R120, R123, R305–R315) -/

/-- What has become of a packet (R120). -/
inductive PacketState where
  | flying | refused | accepted | error
  /-- A message of management that is sent once its reply, a publication, has been applied (R348). -/
  | held (pub : Nat)
  deriving DecidableEq, Repr

/-- A remote register write or a message on its way, kept until its sender has had the answer. -/
structure Packet where
  msg : Bool
  core : Nat
  thr : Nat
  launch : Nat
  /-- The sender's address space, in which management reads a request (R348). -/
  ctxid : BitVec 16
  target : Nat
  tthr : Nat
  idx : SReg
  val : W64
  w0 : W32
  sent : Nat
  /-- Its place in the order in which packets are sent, and once it is answered that of the answer (R306). -/
  seq : Nat
  state : PacketState
  /-- Negatively acknowledged at a dead port of this boundary (R312). -/
  nacked : Option Nat
  /-- The incarnation number of its sender's die, which its answer echoes (R315). -/
  inc8 : BitVec 8
  /-- A containment reset has covered its sender since: its answer is dropped (R334). -/
  lost : Bool
  deriving DecidableEq, Repr

/-! ## Scheduling (R293–R304) -/

/-- Where a launch stands. -/
inductive LaunchState where
  /-- Read from its ring: best effort waits for the arbiter, deadline for the admission decision. -/
  | queued
  /-- Granted or admitted: waits for a dispatcher (R298, R300). -/
  | granted
  /-- Placed; its images load (R303). -/
  | loading
  /-- Its contexts have started. -/
  | running
  /-- Pre-empted best effort that waits to resume (R298). -/
  | preempted
  /-- Ended with this status; the completion record is not written yet (R304). -/
  | ended
  | finished
  deriving DecidableEq, Repr

/-- A launch (R59, R296–R304). -/
structure Launch where
  id : Nat
  queue : Nat
  index : Nat
  record : BitVec 512
  state : LaunchState
  /-- The C-dies of its spread, in increasing order, and the clusters' top left corner on each. -/
  dies : List Nat
  cr : Nat
  cc : Nat
  arrival : Nat
  /-- Its place in the order of grants (R298). -/
  order : Nat
  /-- The priority that it competes with, and the one that it was dispatched with (R298). -/
  prio : Nat
  start : Nat
  sliceStart : Nat
  sliceOver : Bool
  admitted : Bool
  demoted : Bool
  demand : Nat
  /-- Ticks for which it has run (R300). -/
  served : Nat
  /-- Charges of R302. -/
  cycles : Nat
  bytes : Nat
  rounds : Nat
  records : Nat
  pages : Nat
  /-- PIN pages filled for the launch: address space, size and page (R302). -/
  pinPages : List (Nat × Nat × Nat)
  notice : BitVec 5
  /-- Image loads that have completed: cores. -/
  loaded : List Nat
  status : Nat
  lost : Nat
  /-- A packet of it was negatively acknowledged by a dead port (R314). -/
  hit : Bool
  /-- A containment reset covers one of its cores: it ends with FAULT (R334). -/
  doomed : Bool
  ptimeEnd : Nat
  deriving DecidableEq, Repr

/-- What the scheduler keeps of a queue (R293, R297). -/
structure QueueState where
  slot : Option Nat
  head : Nat
  tail : Nat
  err : Nat
  /-- When the next record became the queue's head (R298). -/
  since : Nat
  /-- When the queue was bound to its slot (R297). -/
  bound : Nat
  /-- Tail values applied at home, with the ticks, the newest first (R298). -/
  tails : List (Nat × Nat)
  /-- The descriptor as its last binding took it (R295); `none`: the queue has not been bound yet. -/
  desc : Option (BitVec 512)
  /-- Its slot is one of the 64 of deadline queues (R297). -/
  dlSlot : Bool
  deriving DecidableEq, Repr

/-- A reservation (R299) with the ticks used in the period and its start. -/
structure Reservation where
  p : W32
  q : W32
  dmask : BitVec 8
  rect : BitVec 20
  used : Nat
  period : Nat
  deriving DecidableEq, Repr

/-! ## Boundaries, collectives, reliability, management -/

/-- A boundary (R308–R312). -/
structure Boundary where
  nack : BitVec 8
  live : BitVec 8
  dead : Bool
  step : BitVec 3
  ceil : BitVec 3
  floor : BitVec 3
  /-- The retraining window's end while it is open (R309). -/
  retrain : Option Nat
  /-- Escape routes are installed (R312), and the tick at which the boundary was declared dead. -/
  escape : Bool
  deadAt : Nat
  deriving DecidableEq, Repr

/-- A group-table entry (R319). -/
structure Group where
  members : W64
  f : BitVec 16
  s : BitVec 16
  rank : W32
  count : W32
  v : Bool
  gen : BitVec 4
  /-- The member array that GRPALLOC has copied into management memory (R348); empty: it is read at `members`. -/
  array : List W64
  deriving DecidableEq, Repr

/-- An instance handed over on this device (R323–R325). -/
structure Instance where
  grp : BitVec 16
  inst : BitVec 16
  core : Nat
  launch : Nat
  ctxid : BitVec 16
  desc : BitVec 512
  after : Nat
  /-- The status code once it has completed or been refused. -/
  status : Option Nat
  pub : Option Nat
  /-- Elements of this device's input shard that it has read, from the first one on (R325). -/
  got : List W32
  /-- It has passed the checks at hand-over and has been started (R323, R324). -/
  started : Bool
  /-- It belongs to the group's present generation (R318, R324). -/
  current : Bool
  /-- The translations of its pages. -/
  trans : List Trans
  /-- What it has taken of the chunks of the other members, by rank, in their order. -/
  taken : PMap (List W32)
  /-- The group's entry as the instance found it when it was started: its members, count and rank (R321). -/
  group : Group
  deriving DecidableEq, Repr

/-- Where a chunk is (R326): in a slot of a communication processor, spilled to the pool, or held by its sender. -/
inductive ChunkPlace where
  | slot | pool | sender
  deriving DecidableEq, Repr

/-- A chunk of a member's input shard (R324, R326): the next of the elements that the member sends, and the communication processor that
receives it. -/
structure Chunk where
  grp : BitVec 16
  inst : BitVec 16
  sender : Nat
  data : List W32
  proc : Nat
  place : ChunkPlace
  deriving DecidableEq, Repr

/-- The registers that a snapshot latches (R336, R339): copies of the blocks as they stood. -/
structure SnapImage where
  tick : Nat
  /-- Ready masks of the cores (R62, R339). -/
  ready : PMap W64
  cores : PMap Core
  clusters : PMap Cluster
  dies : PMap Die
  boundaries : PMap Boundary
  spillCount : W32
  staleChunks : BitVec 16
  rasOverflow : Nat
  deriving DecidableEq, Repr

/-- A request that management has taken (R348). A host request comes from the queue and holds every right. -/
structure Request where
  host : Bool
  core : Nat
  launch : Nat
  ctxid : BitVec 16
  va : W64
  /-- The record, once it has been read at its home. -/
  record : Option (BitVec 512)
  /-- An INVAL that waits for done. -/
  going : Bool
  /-- The record's number in the management request queue. -/
  index : Nat
  deriving DecidableEq, Repr

/-- One of the ways the machine moves next (log 5). -/
inductive Action where
  /-- The core issues, or its unit retries, the next instruction of a thread. -/
  | issue (core thr : Nat)
  /-- A step of the table without an encoding. -/
  | event (i : Instr)
  /-- A half of a thread's instruction buffer fills: sequential, or from a branch target (R89). -/
  | prefetch (core thr : Nat) (target : Option W64)
  /-- Management reports another device of the domain as unreachable (R311, R313). -/
  | deviceGone (device : Nat)
  /-- A member of a group that is reached over Ultra Ethernet, an entry of the endpoint table, can not be reached any longer (R319, R323). -/
  | endpointGone (n : Nat)
  /-- Another member of a group reports that a reset has ended an instance there (R325). -/
  | peerLost (grp inst : BitVec 16)
  /-- A line of home memory goes bad (R329): its code is uncorrectable, or with `tag` its integrity tag fails (R331). -/
  | memFault (pa : Nat) (tag : Bool)
  /-- A read of a poisoned line for a core is consumed (R329, R333). -/
  | consume (core line : Nat)
  /-- Management sets the scrub interval, in ticks (R332). -/
  | scrubEvery (n : Nat)
  /-- Management registers a memory region for RDMA writes (R317). -/
  | region (ctxid : BitVec 16) (va len : Nat)
  /-- A client outside reads (R317, R346): by RMA through a scale-out or front-end port, or with `host` by a load of the host. -/
  | outsideRead (host : Bool) (ctxid : BitVec 16) (va : W64) (n : Nat)
  /-- A packet of unreliable unordered delivery arrives at a scale-out port (R317). -/
  | unreliable
  /-- A Zhevlink port of the device dies (R316). -/
  | zhevDead (port : Fin 16)
  /-- The pin BOOTSEL is driven (R341). -/
  | bootSel (high : Bool)
  deriving DecidableEq, Repr

/-- A memory region that management has registered for RDMA writes (R317). -/
structure Region where
  ctxid : BitVec 16
  va : Nat
  len : Nat
  deriving DecidableEq, Repr

/-- A write of a client outside to a page that is absent, held until it is filled (R317, R346). -/
structure HeldWrite where
  source : Nat
  host : Bool
  ctxid : BitVec 16
  va : W64
  data : List Byte
  deriving DecidableEq, Repr

/-- A context streamed out to its save area (R73): its core, its image, and its region's bytes with their full/empty bits
where another region displaced them; `none`: the region is still in ULM. -/
structure Saved where
  core : Nat
  ctx : Ctx
  region : Option (Mem × BitVec 16384)
  /-- The tick of the save. -/
  tick : Nat
  deriving DecidableEq, Repr

/-- The machine. -/
structure State where
  now : Nat
  off : Bool
  cores : PMap Core
  saved : List Saved
  clusters : PMap Cluster
  dies : PMap Die
  /-- Home memory: key device·2^41 + PA (R164, R168). -/
  home : Mem
  ids : Nat
  /-- Publications applied so far: the next place in publish order. -/
  applied : Nat
  pubs : List Publication
  /-- The starts of the last device and system windows whose slots have been given out (R134). -/
  winDev : Nat
  winSys : Nat
  seq : Nat
  loads : List SharedLoad
  locals : List LocalLoad
  packets : List Packet
  /-- INVADDR and INVCTL.asid (R172). -/
  invAddr : W64
  invAsid : BitVec 12
  /-- The same as the last request found them. -/
  invReq : W64 × BitVec 12
  invPend : BitVec 16
  invDone : Bool
  invAcks : List Nat
  ctxTable : Nat
  walkStore : Mem
  shadowPool : PMap Nat
  repOff : Vector (BitVec 11) 8
  qdesc : PMap (BitVec 512)
  queues : PMap QueueState
  launches : PMap Launch
  reservations : Vector Reservation 16
  /-- The last call window at which the arbiter granted, and whether cores have freed up at this tick (R298). -/
  arbAt : Nat
  freed : Bool
  /-- The last rotation of the slots (R297). -/
  rotateAt : Nat
  /-- Save areas left in the pool (R303). -/
  saveAreas : Nat
  boundaries : PMap Boundary
  /-- The last step tick at which the boundaries moved (R309). -/
  stepAt : Nat
  domainLost : Bool
  /-- Other devices that have left the domain (R311). -/
  goneDevices : List Nat
  /-- Entries of the communication processors' endpoint table whose peers cannot be reached (R319, R323). -/
  goneEndpoints : List Nat
  /-- The device's dead Zhevlink ports (R316). -/
  zhevDead : BitVec 16
  /-- Regions registered for RDMA writes, writes from outside that wait for their page, and packets of unreliable unordered delivery
  dropped (R317). -/
  regions : List Region
  heldWrites : List HeldWrite
  unreliable : Nat
  groups : PMap Group
  instances : List Instance
  chunks : List Chunk
  poolChunks : Nat
  spillCount : W32
  staleChunks : BitVec 16
  ras : List (BitVec 128)
  rasOverflow : Nat
  poison : List Nat
  /-- Those of the poisoned lines whose tag has failed (R331), and those that went bad at a tick and the scrubber has not read since. -/
  tagged : List Nat
  latent : List (Nat × Nat)
  /-- The scrub interval in ticks (R332). -/
  scrubEvery : Nat
  /-- Home lines covered by writes in the current window, for poison marks (R329): line, window, mask of bytes. -/
  cover : List (Nat × Nat × BitVec 64)
  snapHeld : Bool
  snapSrc : BitVec 4
  snapMissed : BitVec 16
  snapPending : Option (Nat × BitVec 4)
  snapImage : Option SnapImage
  /-- The ready masks of the cores (R62) as the step finds them that latches a snapshot (R339). -/
  readyNow : PMap W64
  cmapStage : PMap (List W64)
  bootStage : BitVec 8
  /-- The pin BOOTSEL (R341). -/
  bootSel : Bool
  /-- A BOOT has succeeded and the C-dies have left reset (R4, R341). -/
  released : Bool
  bootSrc : BitVec 8
  bootFail : BitVec 3
  bootHalted : Bool
  fuseCount : W32
  keyDigest : BitVec 384
  serial : W64
  digest1 : BitVec 384
  svn1 : W32
  digest2 : BitVec 384
  svn2 : W32
  /-- The management request queue as boot registers it, in the form of R295 (its control block is the register of R347). -/
  mreq : BitVec 512
  mreqQueue : QueueState
  rights : PMap (BitVec 16)
  requests : List Request
  focus : Nat
  thr : Fin 11
  agenda : List Action
  waiting : Bool
  fresh : Nat
  deriving DecidableEq, Repr

/-! ## Why a step stops -/

/-- The faults of the machine. -/
inductive Fault where
  /-- Raised by `step` of a module that has powered off (R340); safe: nothing runs there. -/
  | poweredOff
  deriving DecidableEq, Repr

/-- The refusals of the machine. -/
inductive Refusal where
  /-- Raised by `exec` for an instruction without a meaning; safe. -/
  | notModelled (mnemonic : String)
  deriving DecidableEq, Repr

/-! ## After reset -/

/-- A barrier level at instance 0 (R102). -/
def Barrier.reset : Barrier := ⟨0, none, none⟩

/-- A matrix block with no MWLD issued (R246: resets 0). -/
def MxBlock.reset : MxBlock where
  wpair0 := 0
  wpair1 := 0
  wfmt := 0
  css := Vector.replicate 128 0
  csu := Vector.replicate 128 0
  status := 0
  rq := Vector.replicate 128 0

/-- A stream port without a stream (R122). -/
def Port.reset : Port := ⟨none, [], [], 0, [], []⟩

/-- An empty slot. Stated resets: R78, R106, R246; the rest log 1. -/
def Ctx.reset : Ctx where
  resident := false
  ended := false
  launch := 0
  threads := Vector.replicate 11 Thread.reset
  vregs := Vector.replicate 16 0
  masks := Vector.replicate 8 0
  tvec := 0
  size := 1
  base := 0
  tthr := 0
  phase := .exchange
  inh := false
  pmode := .user
  mode := .user
  xpc := 0
  xcause := 0
  xval := 0
  lag := false
  divz := false
  accerr := false
  ctxid := 0
  vshare := 0
  mshare := 0
  mtiles := 0
  accsat := false
  ftz := false
  frm := 0
  phcyc := 0
  fflags := 0
  logcap := 0
  sigBase := 0
  sigCount := 0
  sigEn := false
  snapEvent := 0
  snapFired := false
  snapArm := false
  inbox := []
  msgq := []
  gang := none
  barGang := Barrier.reset
  barBlk := Barrier.reset
  barSpr := Barrier.reset
  notice := 0
  mx := MxBlock.reset
  bufFree := 0
  lsn := 0
  fence := ⟨0, 0, false, false, false⟩
  spillBase := 0
  spillSize := 64
  port := Port.reset
  wakes := 0

/-- An empty TLB (R163). -/
def Tlb.reset : Tlb := ⟨[], 0⟩

/-- A core out of reset (R115, R122, R124). -/
def Core.reset : Core where
  run := Ctx.reset
  shadow := Ctx.reset
  ulm := []
  fe := 0
  feLine := []
  ptr := 0
  last := none
  cyc := 0
  log := []
  vq := []
  mq := []
  rq := []
  port := Port.reset
  tlb := Tlb.reset
  switch := none

/-- A channel with nothing queued (R187). -/
def Channel.reset : Channel := ⟨[], 0, 0, none⟩

/-- A ring of size 0 (R189). -/
def Ring.reset : Ring := ⟨0, 0, 0, [], none⟩

/-- A cluster out of reset (R139, R189, R212, R231, R252, R259). -/
def Cluster.reset : Cluster where
  scratch := []
  locks := []
  lockLine := []
  tiles := []
  tables := []
  tableLen := []
  rkPtr := 7
  rkRunning := []
  vcr := []
  vptr := []
  mcr := []
  mptr := 0
  mxGranted := []
  mxHeld := none
  view := []
  acq := []
  channels := Vector.replicate 8 Channel.reset
  loader := []
  rings := []
  deferred := []
  copyTlb := Tlb.reset
  sharedTlb := []
  misses := []
  sweepAt := 0

/-- An owner word out of reset (R270). -/
def Owner.reset : Owner := ⟨true, 0⟩

/-- An assignment engine out of reset (R284). -/
def Ae.reset : Ae := ⟨[], [], [], [], [], [], 15, []⟩

/-- A die out of reset (R315, R333). An empty map list stands for the reset map: each cluster its own rectangle. -/
def Die.reset : Die := ⟨Ae.reset, 0, 0, 0, [], [], 0⟩

/-- A queue that the scheduler has not seen. -/
def QueueState.reset : QueueState := ⟨none, 0, 0, 0, 0, 0, [], none, false⟩

/-- A queue descriptor's reset: spsize 64, the rest 0 (R295). -/
def Qdesc.reset : BitVec 512 := 64 <<< 48

/-- A reservation's reset (R299). -/
def Reservation.reset : Reservation := ⟨0, 0, 0, 0, 0, 0⟩

/-- Boundary `b` out of reset (R310): 32 ports for C–C boundaries 0–9, 16 for C–G boundaries. -/
def Boundary.reset (b : Nat) : Boundary := ⟨0, if b < 10 then 32 else 16, false, 0, 5, 0, none, false, 0⟩

/-- A group entry's reset (R319). -/
def Group.reset : Group := ⟨0, 0xFFFF, 0xFFFF, 0, 0, false, 0, []⟩

/-- The machine right after reset: no context, no launch, nothing in flight. -/
def State.reset : State where
  now := 0
  off := false
  cores := []
  saved := []
  clusters := []
  dies := []
  home := []
  ids := 0
  applied := 0
  pubs := []
  winDev := 0
  winSys := 0
  seq := 0
  loads := []
  locals := []
  packets := []
  invAddr := 0
  invAsid := 0
  invReq := (0, 0)
  invPend := 0
  invDone := true
  invAcks := []
  ctxTable := 0
  walkStore := []
  shadowPool := []
  repOff := Vector.replicate 8 0
  qdesc := []
  queues := []
  launches := []
  reservations := Vector.replicate 16 Reservation.reset
  arbAt := 0
  freed := false
  rotateAt := 0
  saveAreas := 0
  boundaries := []
  stepAt := 0
  domainLost := false
  goneDevices := []
  goneEndpoints := []
  zhevDead := 0
  regions := []
  heldWrites := []
  unreliable := 0
  groups := []
  instances := []
  chunks := []
  poolChunks := 0
  spillCount := 0
  staleChunks := 0
  ras := []
  rasOverflow := 0
  poison := []
  tagged := []
  latent := []
  scrubEvery := 24 * 3600 * 1600000000
  cover := []
  snapHeld := false
  snapSrc := 0
  snapMissed := 0
  snapPending := none
  snapImage := none
  readyNow := []
  cmapStage := []
  bootStage := 0
  bootSel := false
  released := false
  bootSrc := 0
  bootFail := 0
  bootHalted := false
  fuseCount := 0
  keyDigest := 0
  serial := 0
  digest1 := 0
  svn1 := 0
  digest2 := 0
  svn2 := 0
  mreq := 0
  mreqQueue := QueueState.reset
  rights := []
  requests := []
  focus := 0
  thr := 0
  agenda := []
  waiting := false
  fresh := 0

end Sys2Proof.Machine
end

