-- ==== Sys2Proof/Machine/Ops.lean ====
section
/-!
DEFINITION. The named operations over sparse tables, memory, registers, threads, contexts and launches; taking a trap
(R70) and returning from one (R71).
-/

namespace Sys2Proof.Machine

open Sys2Proof

/-- The outcome of a step of this machine. -/
abbrev Out := Host.Outcome State Fault Refusal

/-! ## Sparse tables -/

/-- The entry at a key. -/
def PMap.find? {α : Type} : PMap α → Nat → Option α
  | [], _ => none
  | (k, v) :: m, a => if k = a then some v else PMap.find? m a

/-- The entry at a key, or the table's default. -/
def PMap.get {α : Type} (m : PMap α) (a : Nat) (d : α) : α := (m.find? a).getD d

/-- The table with the entry at a key set. -/
def PMap.put {α : Type} : PMap α → Nat → α → PMap α
  | [], a, x => [(a, x)]
  | (k, v) :: m, a, x => if a < k then (a, x) :: (k, v) :: m else if k = a then (a, x) :: m else (k, v) :: PMap.put m a x

/-- The table without the entry at a key. -/
def PMap.del {α : Type} (m : PMap α) (a : Nat) : PMap α := m.filter fun (k, _) => k != a

/-- The table with a function applied to every entry. -/
def PMap.mapVal {α : Type} (f : Nat → α → α) (m : PMap α) : PMap α := m.map fun (k, v) => (k, f k v)

/-- The entries in key order. -/
def PMap.vals {α : Type} (m : PMap α) : List α := m.map fun (_, v) => v

/-- The entries that a condition keeps. -/
def PMap.keep {α : Type} (p : α → Bool) (m : PMap α) : PMap α := m.filter fun (_, v) => p v

/-! ## Byte memories -/

/-- The byte at an address. -/
def Mem.read : Mem → Nat → Byte
  | [], _ => Mem.unlisted
  | (k, b) :: m, a => if k = a then b else if a < k then Mem.unlisted else Mem.read m a

/-- A byte put in front of the rest of a memory, unless it is what an unlisted byte reads as. -/
def Mem.cons (a : Nat) (b : Byte) (m : Mem) : Mem := if b = Mem.unlisted then m else (a, b) :: m

/-- The memory with one byte written; it keeps the canonical form. -/
def Mem.write : Mem → Nat → Byte → Mem
  | [], a, b => Mem.cons a b []
  | (k, c) :: m, a, b =>
    if a < k then Mem.cons a b ((k, c) :: m) else if k = a then Mem.cons a b m else (k, c) :: Mem.write m a b

/-- The canonical form: addresses strictly rising, no entry equal to what an unlisted byte reads as. -/
def Mem.wf : Mem → Bool
  | [] => true
  | [(_, b)] => b != Mem.unlisted
  | (k, b) :: (k', b') :: m => b != Mem.unlisted && decide (k < k') && Mem.wf ((k', b') :: m)

/-- `n` bytes from an address up. -/
def Mem.bytes (m : Mem) (a : Nat) : Nat → List Byte
  | 0 => []
  | n + 1 => m.read a :: Mem.bytes m (a + 1) n

/-- The memory with bytes written from an address up. -/
def Mem.writeBytes (m : Mem) (a : Nat) : List Byte → Mem
  | [] => m
  | b :: bs => Mem.writeBytes (m.write a b) (a + 1) bs

/-- The number that bytes hold, the lowest first (R2). -/
def leNat : List Byte → Nat
  | [] => 0
  | b :: bs => b.toNat + 256 * leNat bs

/-- The lowest `n` bytes of a word, the lowest first (R2). -/
def leBytes {w : Nat} (v : BitVec w) : Nat → List Byte
  | 0 => []
  | n + 1 => v.setWidth 8 :: leBytes (v >>> 8) n

/-- `n` bytes read as a little-endian word of `w` bits. -/
def Mem.readLE (m : Mem) (a n : Nat) (w : Nat) : BitVec w := BitVec.ofNat w (leNat (m.bytes a n))

/-- The low `n` bytes of a word written. -/
def Mem.writeLE {w : Nat} (m : Mem) (a n : Nat) (v : BitVec w) : Mem := m.writeBytes a (leBytes v n)

/-! ## Where things are (R14) -/

/-- The die of a core. -/
def dieOf (c : Nat) : Nat := c / 256

/-- The row of a core. -/
def rowOf (c : Nat) : Nat := c / 16 % 16

/-- The column of a core. -/
def colOf (c : Nat) : Nat := c % 16

/-- The core at a die, row and column. -/
def coreAt (die row col : Nat) : Nat := die * 256 + row * 16 + col

/-- The cluster of a core, numbered die·32 + cr·4 + cc. -/
def clusterOf (c : Nat) : Nat := dieOf c * 32 + rowOf c / 2 * 4 + colOf c / 4

/-- The base core of a cluster. -/
def baseCore (k : Nat) : Nat := coreAt (k / 32) (k % 32 / 4 * 2) (k % 4 * 4)

/-- A core's position in its cluster, 0–7 in core-number order. -/
def posInCluster (c : Nat) : Nat := rowOf c % 2 * 4 + colOf c % 4

/-- The cores of a cluster in core-number order. -/
def coresOfCluster (k : Nat) : List Nat :=
  (List.range 8).map fun p => baseCore k + p / 4 * 16 + p % 4

/-- The Manhattan distance between two cores of one die. -/
def distance (a b : Nat) : Nat :=
  (max (rowOf a) (rowOf b) - min (rowOf a) (rowOf b)) + (max (colOf a) (colOf b) - min (colOf a) (colOf b))

/-! ## Free values -/

/-- The `j`-th free word of a step: each use has a number of its own (log 17). -/
def State.freeWord (s : State) (j : Nat) : W64 := Config.freeWord (s.fresh * 2 ^ 48 + j)

/-- The `j`-th free choice of a step (log 5). -/
def State.freeNat (s : State) (j : Nat) : Nat := Config.choice (s.fresh * 2 ^ 48 + j)

/-- Of the numbers below `n`, those that a free choice of a step takes; `j` is the first of its words. -/
def State.freeSome (s : State) (j n : Nat) : List Nat := (List.range n).filter fun i => (s.freeWord (j + i / 64)).getLsbD (i % 64)

/-! ## Cores, clusters, dies -/

/-- A core. -/
def State.core (s : State) (c : Nat) : Core := s.cores.get c Core.reset

/-- The threads in the order of the issue pointer (R62). -/
def pointerOrder (ptr : Nat) : List Nat := (List.range 11).map fun j => (ptr + 1 + j) % 11

/-- The state with a core replaced. -/
def State.setCore (s : State) (c : Nat) (k : Core) : State := { s with cores := s.cores.put c k }

/-- A cluster. -/
def State.cluster (s : State) (k : Nat) : Cluster := s.clusters.get k Cluster.reset

/-- The state with a cluster replaced. -/
def State.setCluster (s : State) (k : Nat) (x : Cluster) : State := { s with clusters := s.clusters.put k x }

/-- A die. -/
def State.die (s : State) (d : Nat) : Die := s.dies.get d Die.reset

/-- The state with a die replaced. -/
def State.setDie (s : State) (d : Nat) (x : Die) : State := { s with dies := s.dies.put d x }

/-- A boundary. -/
def State.boundary (s : State) (b : Nat) : Boundary := s.boundaries.get b (Boundary.reset b)

/-- The state with a boundary replaced. -/
def State.setBoundary (s : State) (b : Nat) (x : Boundary) : State := { s with boundaries := s.boundaries.put b x }

/-! ## The issuing core, its running context and the issuing thread -/

/-- The core that issues. -/
def State.cur (s : State) : Core := s.core s.focus

/-- The running context of the issuing core. -/
def State.ctx (s : State) : Ctx := s.cur.run

/-- The state with the running context of the issuing core replaced. -/
def State.setCtx (s : State) (x : Ctx) : State := s.setCore s.focus { s.cur with run := x }

/-- A thread of a context. -/
def Ctx.thread (x : Ctx) (t : Fin 11) : Thread := x.threads[t]

/-- The context with a thread replaced. -/
def Ctx.setThread (x : Ctx) (t : Fin 11) (h : Thread) : Ctx := { x with threads := x.threads.set t h }

/-- The issuing thread. -/
def State.th (s : State) : Thread := s.ctx.thread s.thr

/-- The state with the issuing thread replaced. -/
def State.setTh (s : State) (h : Thread) : State := s.setCtx (s.ctx.setThread s.thr h)

/-- The issuing core's cluster number. -/
def State.clu (s : State) : Nat := clusterOf s.focus

/-! ## Scalar registers and presence (R50, R55, R81) -/

/-- A scalar register; `s0` reads 0 (R50). -/
def Thread.reg (t : Thread) (r : SReg) : W64 := if r = 0 then 0 else t.regs[r.toNat]'r.isLt

/-- The thread with a scalar register written and present; a write to `s0` is discarded (R50, R55). -/
def Thread.setReg (t : Thread) (r : SReg) (v : W64) : Thread :=
  if r = 0 then t
  else { t with regs := t.regs.set r.toNat v r.isLt, present := t.present ||| BitVec.twoPow 32 r.toNat }

/-- Whether a register is present; `s0` always is (R55). -/
def Thread.has (t : Thread) (r : SReg) : Bool := r == 0 || t.present.getLsbD r.toNat

/-- The thread with a register absent and a result of its own on its way to it (R81). -/
def Thread.expect (t : Thread) (r : SReg) : Thread :=
  if r = 0 then t
  else { t with present := t.present &&& ~~~BitVec.twoPow 32 r.toNat, pending := t.pending ||| BitVec.twoPow 32 r.toNat }

/-- The thread with a result of its own arrived (R81). -/
def Thread.arrive (t : Thread) (r : SReg) (v : W64) : Thread :=
  if r = 0 then t
  else { t.setReg r v with pending := t.pending &&& ~~~BitVec.twoPow 32 r.toNat }

/-- The thread with a result on its way, present at tick `due` (R80, R81); `load`: of a local load. -/
def Thread.later (t : Thread) (r : SReg) (v : W64) (due : Nat) (load : Bool := false) : Thread :=
  if r = 0 then t else { t.expect r with results := t.results ++ [⟨r, v, due, load⟩] }

/-- Every thread of a context changed alike. -/
def Ctx.mapThreads (x : Ctx) (f : Thread → Thread) : Ctx :=
  { x with threads := ⟨(x.threads.toList.map f).toArray, by simp⟩ }

/-- The thread with every result that is due by a tick written (R80, R81). -/
def Thread.deliver (t : Thread) (now : Nat) : Thread :=
  let go := t.results.filter fun x => x.due ≤ now
  { go.foldl (fun u x => u.arrive x.rd x.val) t with results := t.results.filter fun x => now < x.due }

/-- A register of the issuing thread. -/
def State.reg (s : State) (r : SReg) : W64 := s.th.reg r

/-- Whether the instruction's scalar sources and destination are present (R81). -/
def State.has (s : State) (l : List SReg) : Bool := l.all s.th.has

/-! ## The second word of an 8-byte access (R114) -/

/-- A word with its lower or its upper half replaced. -/
def withHalf (v : W64) (high : Bool) (w : W32) : W64 := if high then w ++ v.setWidth 32 else v.extractLsb' 32 32 ++ w

/-- A list with its last element that meets a condition changed. -/
def updLast {α : Type} (p : α → Bool) (f : α → α) : List α → List α
  | [] => []
  | a :: l => if p a && !l.any p then f a :: l else a :: updLast p f l

/-- The second word access of the latest local access of a thread of a core's running context is made (R114). -/
def State.makeHalf (s : State) (c : Nat) (n : Fin 11) : State :=
  let t := (s.core c).run.thread n
  match t.half with
  | none => s
  | some a =>
    let m := if a.scratch then (s.cluster a.unit).scratch else (s.core a.unit).ulm
    let put (s : State) (t : Thread) : State :=
      s.setCore c { s.core c with run := (s.core c).run.setThread n { t with half := none } }
    match a.store with
    | some v =>
      put (if a.scratch then s.setCluster a.unit { s.cluster a.unit with scratch := m.writeLE a.off 4 v }
        else s.setCore a.unit { s.core a.unit with ulm := m.writeLE a.off 4 v }) t
    | none =>
      let w : W32 := m.readLE a.off 4 32
      if !a.scratch && a.unit == c then
        put s { t with results := updLast (·.load) (fun r => { r with val := withHalf r.val a.high w }) t.results }
      else
        let its (l : LocalLoad) : Bool := l.core == c && l.thr == n.val && l.launch == (s.core c).run.launch
        put { s with locals := updLast its (fun l => { l with val := withHalf l.val a.high w }) s.locals } t

/-- Whether a load's second word access must be made now: its result is due (R80, R114). -/
def Thread.halfDue (t : Thread) (now : Nat) : Bool :=
  t.half.any fun a => a.store.isNone && t.results.any fun r => r.load && decide (r.due ≤ now)

/-- Second word accesses of the threads that a condition names are made. -/
def State.makeHalves (s : State) (p : Nat → Fin 11 → Thread → Bool) : State :=
  s.cores.foldl (fun s (c, k) =>
    (List.finRange 11).foldl (fun s n => if (k.run.thread n).half.isSome && p c n (k.run.thread n) then s.makeHalf c n else s) s) s

/-! ## Completing and waiting -/

/-- The attempt does not proceed: the thread is not ready, or its stalled instruction goes on waiting (R62). -/
def wait (s : State) : Out := .next { s with waiting := true }

/-- The thread past an instruction of `len` bytes. -/
def Thread.past (t : Thread) (len : Nat) : Thread := { t with pc := t.pc + BitVec.ofNat 64 len, stall := none }

/-- The issuing thread moves past an instruction of `len` bytes. -/
def State.past (s : State) (len : Nat) : State := s.setTh (s.th.past len)

/-- The instruction completes with a scalar result that is present at the next cycle (R80). -/
def result (len : Nat) (rd : SReg) (v : W64) (s : State) : Out := .next (s.setTh ((s.th.setReg rd v).past len))

/-- The instruction completes with a scalar result present `lat` cycles later (R80). -/
def resultAt (len : Nat) (rd : SReg) (v : W64) (lat : Nat) (s : State) : Out :=
  .next (s.setTh ((s.th.later rd v (s.now + lat)).past len))

/-- A local load completes with its value present 4 cycles later (R80, R111). -/
def resultLoad (len : Nat) (rd : SReg) (v : W64) (s : State) : Out :=
  .next (s.setTh ((s.th.later rd v (s.now + 4) true).past len))

/-- The issuing thread stalls on its instruction (R62). -/
def State.stall (s : State) (len : Nat) (rd : SReg) (w : Wait) : State := s.setTh { s.th with stall := some ⟨len, rd, w⟩ }

/-- The instruction stalls, or goes on waiting where it stalls already (R62). -/
def stallOn (len : Nat) (rd : SReg) (w : Wait) (s : State) : Out :=
  if s.th.stall.isSome then wait s else .next (s.stall len rd w)

/-- The instruction goes on only when its scalar sources and destination are present (R62, R81). -/
def ready (l : List SReg) (s : State) (k : State → Out) : Out := if s.has l then k s else wait s

/-! ## The first word, and records of errors and triggers -/

/-- The first word of an instruction. -/
def w0Of (i : Instr) : W32 := (encode i).headD 0

/-- The first word, zero-extended (R69). -/
def w0x (i : Instr) : W64 := (w0Of i).setWidth 64

/-- The RAS log with an entry added (R330): a full ring overwrites the oldest. -/
def State.rasAdd (s : State) (kind : BitVec 8) (unit : BitVec 12) (loc : BitVec 44) : State :=
  let e : BitVec 128 := BitVec.ofNat 64 s.now ++ kind ++ unit ++ loc
  if s.ras.length < 4096 then { s with ras := s.ras ++ [e] }
  else { s with ras := s.ras.drop 1 ++ [e], rasOverflow := s.rasOverflow + 1 }

/-- A snapshot trigger fires (R336): ignored and counted while a snapshot is held or about to be. -/
def State.trigger (s : State) (src : BitVec 4) : State :=
  if s.snapHeld || s.snapPending.isSome then
    { s with snapMissed := if s.snapMissed = 0xFFFF then 0xFFFF else s.snapMissed + 1 }
  else { s with snapPending := some (s.now, src) }

/-- An event that a context may have armed (R336). -/
def State.snapEvent (s : State) (armed : Bool) : State := if armed then s.trigger 3 else s

/-! ## Launch records (R296) and spreads (R59, R63) -/

/-- The control word of a launch record. -/
def Launch.ctl (l : Launch) : W64 := l.record.extractLsb' 64 64

/-- Core rows of a block. -/
def Launch.rows (l : Launch) : Nat := 2 * ((l.ctl.extractLsb' 21 3).toNat + 1)

/-- Core columns of a block. -/
def Launch.cols (l : Launch) : Nat := 4 * ((l.ctl.extractLsb' 19 2).toNat + 1)

/-- The number of C-dies of a spread. -/
def Launch.nd (l : Launch) : Nat := (l.ctl.extractLsb' 24 3).toNat + 1

/-- The number of cores of a spread. -/
def Launch.count (l : Launch) : Nat := l.nd * l.rows * l.cols

/-- Whether a core lies in the block that the spread has on its die. -/
def Launch.inBlock (l : Launch) (c : Nat) : Bool :=
  decide (2 * l.cr ≤ rowOf c) && decide (rowOf c < 2 * l.cr + l.rows) && decide (4 * l.cc ≤ colOf c) &&
    decide (colOf c < 4 * l.cc + l.cols)

/-- Whether a core lies in the spread. -/
def Launch.inSpread (l : Launch) (c : Nat) : Bool := l.dies.contains (dieOf c) && l.inBlock c

/-- The cores of a spread in the order of their indices: die, row, column (R63). -/
def Launch.cores (l : Launch) : List Nat :=
  l.dies.flatMap fun d => (List.range l.rows).flatMap fun r => (List.range l.cols).map fun k =>
    coreAt d (2 * l.cr + r) (4 * l.cc + k)

/-- A launch by number. -/
def State.launch? (s : State) (n : Nat) : Option Launch := s.launches.find? n

/-- The state with a launch changed. -/
def State.updLaunch (s : State) (n : Nat) (f : Launch → Launch) : State :=
  match s.launch? n with
  | some l => { s with launches := s.launches.put n (f l) }
  | none => s

/-- Whether a core lies in the issuing context's spread. A context of no known launch has its own core alone. -/
def State.inSpread (s : State) (launch c : Nat) : Bool :=
  match s.launch? launch with
  | some l => l.inSpread c
  | none => c == s.focus

/-- Whether a launch is admitted and not demoted (R300, R302). -/
def State.isAdmitted (s : State) (launch : Nat) : Bool :=
  match s.launch? launch with
  | some l => l.admitted && !l.demoted
  | none => false

/-! ## Contexts by launch -/

/-- Whether a context is the resident context of a launch. -/
def Ctx.of (x : Ctx) (launch : Nat) : Bool := x.resident && x.launch == launch

/-- The resident context of a launch on a core, running or shadow (R76). -/
def State.ctxOf (s : State) (c launch : Nat) : Option Ctx :=
  let k := s.core c
  if k.run.of launch then some k.run else if k.shadow.of launch then some k.shadow else none

/-- The state with the resident context of a launch on a core changed. -/
def State.updCtx (s : State) (c launch : Nat) (f : Ctx → Ctx) : State :=
  let k := s.core c
  if k.run.of launch then s.setCore c { k with run := f k.run }
  else if k.shadow.of launch then s.setCore c { k with shadow := f k.shadow }
  else s

/-- The state with the context of a launch on a core changed, wherever its image is (R75). -/
def State.updImage (s : State) (c launch : Nat) (f : Ctx → Ctx) : State :=
  match s.ctxOf c launch with
  | some _ => s.updCtx c launch f
  | none => { s with saved := s.saved.map fun a => if a.core == c && a.ctx.of launch then { a with ctx := f a.ctx } else a }

/-- The context of a launch on a core, wherever its image is. -/
def State.image (s : State) (c launch : Nat) : Option Ctx :=
  match s.ctxOf c launch with
  | some x => some x
  | none => (s.saved.find? fun a => a.core == c && a.ctx.of launch).map (·.ctx)

/-- A named switch whose tick has come: the core issues no more from the outgoing context (R74). -/
def State.switchDue (s : State) (c : Nat) : Bool :=
  match (s.core c).switch with
  | none => false
  | some w => decide (w.at_ ≤ s.now) &&
    match w.waits with
    | none => true
    | some n => match s.launch? n with | some l => l.state != .loading | none => true

/-- A thread number. -/
def thrOf (n : Nat) : Fin 11 := if h : n < 11 then ⟨n, h⟩ else 0

/-- A scalar result of an asynchronous unit arrives in its thread, if the helper that asked for it still holds the
number (R93, R75). -/
def State.deliverTo (s : State) (c launch thr inc : Nat) (rd : SReg) (v : W64) : State :=
  s.updImage c launch fun x =>
    let t := x.thread (thrOf thr)
    if t.live && t.inc == inc then x.setThread (thrOf thr) (t.arrive rd v) else x

/-! ## Counting failures and lost routes -/

/-- The pairs of neighbouring C-dies, and of a G-die and a C-die in its columns (R11). -/
def cEdges : List (Nat × Nat) := [(0, 1), (1, 2), (2, 3), (4, 5), (5, 6), (6, 7), (0, 4), (1, 5), (2, 6), (3, 7)]
/-- The C–G boundaries of the layout. -/
def gEdges : List (Nat × Nat) := [(8, 0), (8, 1), (9, 2), (9, 3), (10, 4), (10, 5), (11, 6), (11, 7)]

/-- The first `n` elements of a list in an order that a function chooses. -/
def arranged {α : Type} (f : Nat → Nat) : Nat → List α → List α
  | 0, _ => []
  | n + 1, l => match l[f n % l.length]? with
    | some a => a :: arranged f n (l.eraseIdx (f n % l.length))
    | none => []

/-- The boundaries in the order of their numbers, each with the dies that it joins: 0–9 are C–C and 10–17 C–G (R347); which is which is not
stated (log 9). -/
def boundaryEnds : List (Nat × Nat) :=
  arranged Config.boundaryPlace 10 cEdges ++ arranged (fun n => Config.boundaryPlace (10 + n)) 8 gEdges

/-- An edge joins two dies. -/
def joins (e : Nat × Nat) (a b : Nat) : Bool := e == (a, b) || e == (b, a)

/-- The dies that `n` crossings reach from some dies. -/
def reached (es : List (Nat × Nat)) : Nat → List Nat → List Nat
  | 0, l => l
  | n + 1, l => reached es n ((List.range 12).filter fun d => l.contains d || l.any fun a => es.any fun e => joins e a d)

/-- Whether no route to another die remains (R313): routes lead over boundaries that are not dead, through any dies (R11, R312; log 9). -/
def State.cutOff (s : State) (a b : Nat) : Bool :=
  let dead := (s.boundaries.filter fun (_, x) => x.dead).map (·.1)
  a != b && !dead.isEmpty &&
    !(reached ((boundaryEnds.zipIdx.filter fun (_, n) => !dead.contains n).map (·.1)) 12 [a]).contains b

/-- Whether packets from one die to another cross a boundary: between neighbours the one that joins them, else a way that is not stated
(log 9). -/
def routeCrosses (n a b : Nat) : Bool :=
  if (cEdges ++ gEdges).any fun e => joins e a b then boundaryEnds[n]?.any fun e => joins e a b else a != b && Config.crosses n a b

/-- Whether packets from one die to another wait now: a boundary on their way retrains (R309), or is dead and not avoided yet (R312). -/
def State.routeHeld (s : State) (a b : Nat) : Bool :=
  a != b && s.boundaries.any fun (n, x) => (x.retrain.isSome || (x.dead && !x.escape)) && routeCrosses n a b

/-- Whether a die is under reset: a request that reaches it is negatively acknowledged and sent again (R315). -/
def State.dieInReset (s : State) (d : Nat) : Bool := decide (s.now < (s.die d).resetEnd)

/-- Saturating count of 16 bits. -/
def sat16 (n : Nat) : BitVec 16 := BitVec.ofNat 16 (min n 65535)

/-- One failed record in a fence status (R145). -/
def FenceStatus.fail (f : FenceStatus) (ea : W64) (deny link : Bool) (n : Nat) : FenceStatus where
  va := if f.nfail = 0 then ea.extractLsb' 16 48 else f.va
  nfail := min 4095 (f.nfail + n)
  lost := f.lost
  deny := f.deny || deny
  link := f.link || link

/-- The status word of FENCE (R145). -/
def FenceStatus.word (f : FenceStatus) : W64 :=
  f.va ++ BitVec.ofNat 12 f.nfail ++ BitVec.ofBool f.lost ++ BitVec.ofBool f.deny ++ BitVec.ofBool f.link ++
    BitVec.ofBool (f.nfail == 0)

/-! ## The end of a context (R65, R70, R349) -/

/-- The unpublished records of a launch in a core's log. -/
def Core.unpublished (k : Core) (launch : Nat) : List LogRec := k.log.filter fun r => r.launch == launch && r.pub.isNone

/-- The locks of a thread of a launch's context on a core released, wherever they are (R117); all of the context's when no thread is
named. A lock that a switch has taken from its thread is left to the 64-cycle rule (R75). -/
def State.unlock (s : State) (c launch : Nat) (thr : Option Nat) : State :=
  { s with clusters := s.clusters.mapVal fun _ x =>
      { x with locks := x.locks.filter fun (_, l) =>
          !(l.core == c && l.launch == launch && decide (l.thr < 11) && (thr.isNone || thr == some l.thr)) } }

/-- The waiting FE, LDL, SOPEN and SGET instructions of a core's running context leave their lines (R75). -/
def State.leaveLines (s : State) (c : Nat) : State :=
  { s with
    cores := s.cores.mapVal fun d k =>
      { k with
        feLine := k.feLine.filter fun w => w.core != c
        port := { k.port with line := k.port.line.filter fun (q, _, l) => !(q == c && (s.core c).run.of l),
                              takers := if d = c then [] else k.port.takers } }
    clusters := s.clusters.mapVal fun _ x => { x with lockLine := x.lockLine.filter fun w => w.core != c } }

/-- The closing marker goes out on a thread's open stream (R122). -/
def State.closeStream (s : State) (t : Thread) : State :=
  match t.stream with
  | none => s
  | some o =>
    let k := s.core o.target
    ({ s with seq := s.seq + 1 } : State).setCore o.target { k with port := { k.port with flying := k.port.flying ++ [(s.seq, .close)] } }

/-- Whether a launch has a context on some core that has not ended. -/
def State.liveCores (s : State) (launch : Nat) : List Nat :=
  match s.launch? launch with
  | none => []
  | some l => l.cores.filter fun c => match s.image c launch with | some x => !x.ended | none => false

/-- A stream port that carries a stream of a launch is free again once the launch has ended. -/
def Port.drop (p : Port) (launch : Nat) : Port :=
  let line := p.line.filter fun (_, _, l) => l != launch
  match p.owner with
  | some (_, _, l) => if l = launch then { Port.reset with line := line, takers := p.takers } else { p with line := line }
  | none => { p with line := line }

/-- The contexts of a launch leave their slots (R349) and its save areas return to the pool (R303). Accesses that have issued are complete
(R70, R114). -/
def State.release (s : State) (launch : Nat) : State :=
  let s := s.makeHalves fun c _ _ => (s.core c).run.of launch
  let gone (x : Ctx) : Ctx := if x.of launch then Ctx.reset else x
  { s with
    cores := s.cores.mapVal fun _ k =>
      { k with run := gone k.run, shadow := gone k.shadow, port := k.port.drop launch }
    saved := s.saved.filter fun a => !a.ctx.of launch
    packets := s.packets.filter fun p => p.launch != launch
    freed := true
    saveAreas := s.saveAreas + (match s.launch? launch with | some l => l.count | none => 0)
    launches := match s.launch? launch with
      | some l => s.launches.put launch { l with state := .ended, ptimeEnd := s.now }
      | none => s.launches }

/-- The word of HALT. -/
def haltWord : W32 := (encode .halt).headD 0

/-- A context that ends leaves its gang; a leader's end dissolves it (R107). An attached follower to which the leader has forwarded its
HALT ends with that instruction, once it has executed what came before it; if it detaches first, it is in no gang. -/
def State.leaveGang (s : State) (c launch : Nat) (x : Ctx) : State :=
  match x.gang with
  | none => s
  | some g =>
    if g.leader then
      let f (y : Ctx) : Ctx := match y.gang with
        | some h =>
          if y.of launch && h.word == g.word then
            { y with gang :=
              if h.attached && (h.held.toList ++ h.buffer ++ h.lane).any (·.words == [haltWord]) then some { h with dissolved := true }
              else none }
          else y
        | none => y
      { s with
        cores := s.cores.mapVal fun _ k => { k with run := f k.run, shadow := f k.shadow }
        saved := s.saved.map fun a => { a with ctx := f a.ctx } }
    else s.updImage c launch fun y => { y with gang := none }

/-- The misses of a context's SYNC-group instructions, which will not complete, are dropped (R170). -/
def State.dropSyncMisses (s : State) (c launch : Nat) : State :=
  { s with clusters := s.clusters.mapVal fun _ x =>
      { x with misses := x.misses.filter fun m => !(m.user == .core c && m.kind == .sync && m.launch == launch) } }

/-- A context ends with a status (R65, R70): its accesses that have issued complete (R114), its unpublished records are discarded and counted, its locks are
released, its streams are closed; with the launch's last context, all of them leave their slots (R349). -/
def State.endContext (s : State) (c launch : Nat) (status : Nat) : State :=
  match s.image c launch with
  | none => s
  | some x =>
    let lost := ((s.core c).unpublished launch).length
    let s := s.makeHalves fun d _ _ => d == c && (s.core c).run.of launch
    let s := x.threads.toList.foldl State.closeStream s
    let s := s.leaveGang c launch x
    let s := s.unlock c launch none
    let s := if (s.core c).run.of launch then s.leaveLines c else s
    let s := s.setCore c { s.core c with log := (s.core c).log.filter fun r => !(r.launch == launch && r.pub.isNone) }
    let s := s.dropSyncMisses c launch
    let s := s.updImage c launch fun y =>
      { y.mapThreads fun t => { t with live := false, stall := none, stream := none } with ended := true }
    let s := s.updLaunch launch fun l => { l with status := max l.status status, lost := l.lost + lost }
    if (s.liveCores launch).isEmpty then s.release launch else s

/-! ## Traps (R68–R72) -/

/-- The membership of a follower that detaches (R97): none, where its gang has been dissolved (R107). -/
def Gang.detach (g : Gang) : Option Gang :=
  if g.leader then some g else if g.dissolved then none else some { g with attached := false, buffer := [], held := none }

/-- Whether a context is in a gang that its leader's end has not dissolved (R94, R107). -/
def Ctx.inGang (x : Ctx) : Bool := x.gang.any fun g => !g.dissolved

/-- The context as it stands at the handler's first instruction (R70). Signature checking stops in every thread until a block is
entered after RTE (R72). -/
def Ctx.trapped (x : Ctx) (cause : BitVec 8) (val : W64) (thr : Fin 11) : Ctx :=
  let x := x.mapThreads fun t => { t with sig := none }
  let t := x.thread thr
  { x.setThread thr { t with pc := x.tvec.setWidth 64, stall := none, sigBad := none, after := none } with
    xpc := t.pc
    xcause := (BitVec.ofNat 4 thr.val ++ cause).setWidth 64
    xval := val
    pmode := x.mode
    mode := .supervisor
    inh := true
    tthr := BitVec.ofNat 4 thr.val
    gang := x.gang.bind Gang.detach }

/-- TrapEntry (R70) on the issuing thread; a trap while `inh` = 1 halts the context with status DOUBLE (R72). A cause
that `snapctl.event` names in an armed context fires the snapshot trigger (R336). -/
def trapEntry (cause : BitVec 8) (val : W64) (s : State) : State :=
  let x := s.ctx
  let s := s.snapEvent (x.snapArm && x.snapEvent == cause)
  if x.inh then s.endContext s.focus x.launch 3 else s.setCtx (x.trapped cause val s.thr)

/-- The instruction traps (R68): it has no effect but the entry. -/
def trap (cause : BitVec 8) (val : W64) (s : State) : Out := .next (trapEntry cause val s)

/-- The context after RTE (R71). -/
def Ctx.returned (x : Ctx) : Ctx :=
  let thr := thrOf x.tthr.toNat
  let t := x.thread thr
  { x.setThread thr { t with pc := x.xpc, stall := none } with mode := x.pmode, inh := false }

/-! ## Checks before an instruction's own effect (R68)

An instruction that stalls has issued: it has passed these checks, and its unit's retries do not make them again (R62). -/

/-- Privilege (R58): in user mode a privileged instruction raises cause 2. -/
def privileged (i : Instr) (s : State) (k : State → Out) : Out :=
  if s.ctx.mode = .user ∧ s.th.stall = none then trap 2 (w0x i) s else k s

/-- Thread rule (R61): a helper raises cause 11. -/
def controlOnly (i : Instr) (s : State) (k : State → Out) : Out :=
  if s.thr = 0 then k s else trap 11 (w0x i) s

/-- Phase (R67): in a compute phase the instruction raises cause 6. -/
def exchangeOnly (i : Instr) (s : State) (k : State → Out) : Out :=
  if s.ctx.phase = .compute ∧ s.th.stall = none then trap 6 (w0x i) s else k s

end Sys2Proof.Machine
end

