-- ==== Sys2Proof/Machine/Flags.lean ====
section
/-!
DEFINITION. Status bits that instructions set: `xstat` (R106) and the sticky vector flags `fflags` (R106, R197).
-/

namespace Sys2Proof.Machine

open Sys2Proof

/-- `xstat.ACCERR` set in the running context. -/
def State.setAccerr (s : State) : State := s.setCtx { s.ctx with accerr := true }

/-- `xstat.DIVZ` set in the running context when the condition holds (R84). -/
def State.setDivz (s : State) (b : Bool) : State := if b then s.setCtx { s.ctx with divz := true } else s

/-- `xstat.LAG` set in a context (R96). -/
def Ctx.setLag (x : Ctx) : Ctx := { x with lag := true }

/-- Exception flags of an arithmetic operation, in the order of `fflags`: NV, DZ, OF, UF, NX (R106, R197). -/
structure FFlags where
  nv : Bool
  dz : Bool
  of : Bool
  uf : Bool
  nx : Bool
  deriving DecidableEq, Repr

/-- No flag. -/
def FFlags.none : FFlags := ⟨false, false, false, false, false⟩

/-- The flags of two operations together. -/
def FFlags.or (a b : FFlags) : FFlags :=
  ⟨a.nv || b.nv, a.dz || b.dz, a.of || b.of, a.uf || b.uf, a.nx || b.nx⟩

/-- The five bits of `fflags`. -/
def FFlags.bits (f : FFlags) : BitVec 5 :=
  BitVec.ofBool f.nv ++ BitVec.ofBool f.dz ++ BitVec.ofBool f.of ++ BitVec.ofBool f.uf ++ BitVec.ofBool f.nx

/-- Flags added to the sticky flags of a context. -/
def Ctx.raise (x : Ctx) (f : FFlags) : Ctx := { x with fflags := x.fflags ||| f.bits }

/-- The value of `xstat` (R106). -/
def Ctx.xstat (x : Ctx) : W64 :=
  (BitVec.ofBool x.lag ++ BitVec.ofBool x.divz ++ BitVec.ofBool x.accerr).setWidth 64

end Sys2Proof.Machine
end

