-- ==== Sys2Proof/Machine/Operands.lean ====
section
/-!
DEFINITION. Operand forms: immediates (R34, R46), effective addresses (R110), the fields of OPM addresses (R17), the
rectangle word (R39) and the addresses that engines take from instructions (R64).
-/

namespace Sys2Proof.Machine

open Sys2Proof

/-- A field read as a signed value and extended to 64 bits. -/
def sx {w : Nat} (i : BitVec w) : W64 := i.signExtend 64

/-- The poison value of a failed 8-byte access (R18). -/
def poison64 : W64 := 0xDEADDEADDEADDEAD

/-- The poison value of a failed 4-byte access (R18). -/
def poison32 : W64 := 0x00000000DEADDEAD

/-! ## OPM addresses (R17) -/

/-- The die field. -/
def opmDie (a : W64) : Nat := (a.extractLsb' 40 4).toNat

/-- The core that the die, row and column fields name. -/
def opmCore (a : W64) : Nat := (a.extractLsb' 32 12).toNat

/-- The window type. -/
def opmType (a : W64) : Nat := (a.extractLsb' 28 4).toNat

/-- The byte offset within the window. -/
def opmOff (a : W64) : Nat := (a.extractLsb' 0 28).toNat

/-- The address names shared memory, not a window: bits [63:44] are not zero. -/
def notOpm (a : W64) : Bool := a.extractLsb' 44 20 != 0

/-- OwnCluster of R110: the coordinate fields name a core of the issuing core's cluster, or the own die's
assignment engine. -/
def ownCluster (c : Nat) (a : W64) : Bool :=
  opmDie a == dieOf c && (clusterOf (opmCore a) == clusterOf c || opmType a == 7)

/-- R67's test on an address that an instruction forms: outside the own cluster, or shared memory. -/
def leavesCluster (c : Nat) (a : W64) : Bool := notOpm a || !ownCluster c a

/-- The row and column constraint of a window type (R17). -/
def rowColOk (a : W64) : Bool :=
  let t := opmType a
  if t < 4 then true
  else if t < 7 then rowOf (opmCore a) % 2 == 0 && colOf (opmCore a) % 4 == 0
  else if t = 7 then rowOf (opmCore a) == 0 && colOf (opmCore a) == 0
  else false

/-- The size of the assignment engine's window (R269). -/
def aeWindowSize : Nat := 0x810580

/-- The size of a window (R109); for the accessing core's own ULM, its context's region. -/
def windowSize (own : Bool) (region : Nat) (t : Nat) : Nat :=
  match t with
  | 0 => if own then region else 0x40000
  | 1 => 2816
  | 2 => 4096
  | 3 => 152
  | 4 => 0x800000
  | 5 => 0x100000
  | 6 => 0x8000
  | 7 => aeWindowSize
  | _ => 0

/-- The access widths of a window (R109); 16 bytes for FESET, FECLR and FETST in window 0 (R116). -/
def widthOk (fe : Bool) (t n : Nat) : Bool :=
  match t with
  | 0 => n == 1 || n == 2 || n == 4 || n == 8 || (fe && n == 16)
  | 1 => n == 8
  | 2 => n == 1 || n == 2 || n == 4 || n == 8
  | 3 => n == 8
  | 4 => n == 1 || n == 2 || n == 4 || n == 8
  | 5 => n == 4 || n == 8
  | 6 => n == 2 || n == 4 || n == 8
  | 7 => n == 4 || n == 8
  | _ => false

/-- The size of a context's ULM region in bytes (R64). -/
def Ctx.region (x : Ctx) : Nat := x.size.toNat * 0x10000

/-- The first ULM byte of a context's region (R64). -/
def Ctx.origin (x : Ctx) : Nat := x.base.toNat * 0x10000

/-- The tile that a window-5 address names. -/
def opmTile (a : W64) : Nat := opmOff a / 65536

/-! ## Addresses that an instruction hands to an engine of its cluster or die (R64, R254, R271, R322) -/

/-- The location of a 16-aligned operand of `n` bytes in the own ULM or the own cluster's scratchpad, with the whole
extent inside the window (R254). -/
def engineLoc (c : Nat) (x : Ctx) (a : W64) (n : Nat) : Option EngineLoc :=
  if notOpm a then none
  else if opmOff a % 16 ≠ 0 then none
  else if opmType a = 0 ∧ opmCore a = c then
    if opmOff a + n ≤ x.region then some (.ulm (x.origin + opmOff a)) else none
  else if opmType a = 4 ∧ opmCore a = baseCore (clusterOf c) then
    if opmOff a + n ≤ 0x800000 then some (.scratch (opmOff a)) else none
  else none

/-- The location of a 16-aligned operand whose extent is checked later (R274). -/
def enginePlace (c : Nat) (x : Ctx) (a : W64) : Option EngineLoc :=
  if notOpm a then none
  else if opmOff a % 16 ≠ 0 then none
  else if opmType a = 0 ∧ opmCore a = c then some (.ulm (x.origin + opmOff a))
  else if opmType a = 4 ∧ opmCore a = baseCore (clusterOf c) then some (.scratch (opmOff a))
  else none

/-- `n` bytes at an operand as an instruction of core `c` finds it at issue. -/
def State.engineBytes (s : State) (c : Nat) (l : EngineLoc) (n : Nat) : List Byte :=
  match l with
  | .ulm o => (s.core c).ulm.bytes o n
  | .scratch o => (s.cluster (clusterOf c)).scratch.bytes o n

/-- Full/empty bits set for every granule that `n` bytes at a ULM offset touch (R115). -/
def feFill (fe : BitVec 16384) (off n : Nat) : BitVec 16384 :=
  if n = 0 then fe else
  let g := off / 16
  let m := (off + n - 1) / 16 - g + 1
  fe ||| (((1#16384 <<< m) - 1#16384) <<< g)

/-- The LDFEs that wait at a granule complete when it becomes full (R116): their units retry before anything else happens. -/
def State.wakeLoaders (s : State) (c g : Nat) : State :=
  { s with agenda := ((s.core c).feLine.filter fun w => w.gran == g && w.all).map (fun w => .issue w.core w.thr) ++ s.agenda }

/-! ## ULM as a command of a launch finds it: in its save area, where another region has displaced its own (R73, R75) -/

/-- The context of a launch on a core whose region is out of ULM. -/
def State.outRegion (s : State) (c launch : Nat) : Option Saved :=
  s.saved.find? fun a => a.core == c && a.ctx.of launch && a.region.isSome

/-- The state with the region of a launch on a core changed where it is out of ULM. -/
def State.updRegion (s : State) (c launch : Nat) (f : Ctx → Mem × BitVec 16384 → Mem × BitVec 16384) : State :=
  { s with saved := s.saved.map fun a =>
      if a.core == c && a.ctx.of launch then { a with region := a.region.map (f a.ctx) } else a }

/-- `n` bytes at a ULM offset of a core, for a command of a launch. -/
def State.ulmBytes (s : State) (c launch o n : Nat) : List Byte :=
  match s.outRegion c launch with
  | some a => match a.region with | some (m, _) => m.bytes (o - a.ctx.origin) n | none => []
  | none => (s.core c).ulm.bytes o n

/-- Bytes written at a ULM offset of a core, for a command of a launch. -/
def State.ulmWrite (s : State) (c launch o : Nat) (bs : List Byte) : State :=
  if (s.outRegion c launch).isSome then s.updRegion c launch fun x (m, fe) => (m.writeBytes (o - x.origin) bs, fe)
  else s.setCore c { s.core c with ulm := (s.core c).ulm.writeBytes o bs }

/-- The granules that `n` bytes at a ULM offset touch become full, for a command of a launch (R115); LDFEs that wait there complete. -/
def State.ulmFill (s : State) (c launch o n : Nat) : State :=
  if (s.outRegion c launch).isSome then s.updRegion c launch fun x (m, fe) => (m, feFill fe (o - x.origin) n)
  else
    let s := s.setCore c { s.core c with fe := feFill (s.core c).fe o n }
    if n = 0 || (s.core c).feLine.isEmpty then s
    else (List.range ((o + n - 1) / 16 - o / 16 + 1)).foldl (fun s g => s.wakeLoaders c (o / 16 + g)) s

/-- `n` bytes at an operand of a command. -/
def State.cmdBytes (s : State) (c launch : Nat) (l : EngineLoc) (n : Nat) : List Byte :=
  match l with
  | .ulm o => s.ulmBytes c launch o n
  | .scratch _ => s.engineBytes c l n

/-- Bytes written at an operand of a command. -/
def State.cmdPut (s : State) (c launch : Nat) (l : EngineLoc) (bs : List Byte) : State :=
  match l with
  | .ulm o => s.ulmWrite c launch o bs
  | .scratch o =>
    let k := s.cluster (clusterOf c)
    s.setCluster (clusterOf c) { k with scratch := k.scratch.writeBytes o bs }

/-- The full/empty bits of `n` bytes that a command has written at an operand. -/
def State.cmdFill (s : State) (c launch : Nat) (l : EngineLoc) (n : Nat) : State :=
  match l with
  | .ulm o => s.ulmFill c launch o n
  | .scratch _ => s

/-- A command's output, with the full/empty bits of the granules that it touches (R115). -/
def State.cmdWrite (s : State) (c launch : Nat) (l : EngineLoc) (bs : List Byte) : State :=
  (s.cmdPut c launch l bs).cmdFill c launch l bs.length

/-- An operand `n` bytes further on. -/
def EngineLoc.plus : EngineLoc → Nat → EngineLoc
  | .ulm o, n => .ulm (o + n)
  | .scratch o, n => .scratch (o + n)

/-! ## Rectangle words (R39) -/

/-- The fields of a rectangle word. -/
structure Rect where
  die : Nat
  row : Nat
  col : Nat
  h : Nat
  w : Nat
  deriving DecidableEq, Repr

/-- The rectangle that a word names. -/
def rectOf (v : W64) : Rect where
  die := (v.extractLsb' 8 4).toNat
  row := (v.extractLsb' 4 4).toNat
  col := (v.extractLsb' 0 4).toNat
  h := (v.extractLsb' 12 4).toNat + 1
  w := (v.extractLsb' 16 4).toNat + 1

/-- The cores of a rectangle in core-number order. -/
def Rect.cores (r : Rect) : List Nat :=
  (List.range r.h).flatMap fun i => (List.range r.w).map fun j => coreAt r.die (r.row + i) (r.col + j)

/-- The rectangle lies inside one C-die. -/
def Rect.inside (r : Rect) : Bool := decide (r.die < 8) && decide (r.row + r.h ≤ 16) && decide (r.col + r.w ≤ 16)

/-- Whether a core of the die lies in the rectangle, whatever its die field (R333); of a rectangle that runs past the die's edge the part
inside counts (DESIGN CHOICE, log 89). -/
def Rect.covers (r : Rect) (c : Nat) : Bool :=
  decide (r.row ≤ rowOf c) && decide (rowOf c < r.row + r.h) && decide (r.col ≤ colOf c) && decide (colOf c < r.col + r.w)

/-- The corner core. -/
def Rect.corner (r : Rect) : Nat := coreAt r.die r.row r.col

/-! ## The containment map (R333, R334) -/

/-- The rectangles of a die in force; the reset map gives each cluster its own. -/
def Die.rects (x : Die) : List Rect :=
  if x.cmap.isEmpty then (List.range 32).map fun k => ⟨0, k / 4 * 2, k % 4 * 4, 2, 4⟩ else x.cmap.map rectOf

/-- The rectangle that holds a core, with its place in the map. -/
def State.rectAt (s : State) (c : Nat) : Nat × Rect :=
  let l := (s.die (dieOf c)).rects.zipIdx
  match l.find? fun (r, _) => r.covers c with
  | some (r, n) => (n, r)
  | none => (0, ⟨0, 0, 0, 16, 16⟩)

/-- Whether a core's rectangle is being reset (R334). -/
def State.fenced (s : State) (c : Nat) : Bool :=
  (s.die (dieOf c)).resetting.any fun (n, _) => n == (s.rectAt c).1

/-- Whether packets from one core to another wait on their way, at their target's die or at its fence now: what is negatively acknowledged there
is sent again (R309, R312, R315, R334). -/
def State.pathHeld (s : State) (a b : Nat) : Bool := s.routeHeld (dieOf a) (dieOf b) || s.dieInReset (dieOf b) || s.fenced b

end Sys2Proof.Machine
end

