-- ==== Sys2Proof/Machine/Alu.lean ====
section
/-!
DEFINITION. The ALU group (R82) and the immediate arithmetic instructions (R83).
-/

namespace Sys2Proof.Machine

open Sys2Proof

/-- A shift amount: bits [5:0] (R82). -/
def shAmt (b : W64) : Nat := (b.extractLsb' 0 6).toNat

/-! ## Results (R82) -/

/-- ADD (R82). -/
def aluAdd (a b : W64) : W64 := a + b

/-- SUB (R82). -/
def aluSub (a b : W64) : W64 := a - b

/-- AND (R82). -/
def aluAnd (a b : W64) : W64 := a &&& b

/-- OR (R82). -/
def aluOr (a b : W64) : W64 := a ||| b

/-- XOR (R82). -/
def aluXor (a b : W64) : W64 := a ^^^ b

/-- ANDN (R82). -/
def aluAndn (a b : W64) : W64 := a &&& ~~~b

/-- SHL (R82). -/
def aluShl (a b : W64) : W64 := a <<< shAmt b

/-- SHR (R82). -/
def aluShr (a b : W64) : W64 := a >>> shAmt b

/-- SRA (R82). -/
def aluSra (a b : W64) : W64 := a.sshiftRight (shAmt b)

/-- SLT (R82). -/
def aluSlt (a b : W64) : W64 := if a.slt b then 1 else 0

/-- SLTU (R82). -/
def aluSltu (a b : W64) : W64 := if a.ult b then 1 else 0

/-- MIN (R82). -/
def aluMin (a b : W64) : W64 := if a.slt b then a else b

/-- MAX (R82). -/
def aluMax (a b : W64) : W64 := if a.slt b then b else a

/-- MINU (R82). -/
def aluMinu (a b : W64) : W64 := if a.ult b then a else b

/-- MAXU (R82). -/
def aluMaxu (a b : W64) : W64 := if a.ult b then b else a

/-- ADDW (R82). -/
def aluAddw (a b : W64) : W64 := sx ((a + b).setWidth 32)

/-- SUBW (R82). -/
def aluSubw (a b : W64) : W64 := sx ((a - b).setWidth 32)

/-- ADDX1 (R82). -/
def aluAddx1 (a b : W64) : W64 := a + (b <<< 1)

/-- ADDX2 (R82). -/
def aluAddx2 (a b : W64) : W64 := a + (b <<< 2)

/-- ADDX3 (R82). -/
def aluAddx3 (a b : W64) : W64 := a + (b <<< 3)

/-! ## The two forms: two registers, and a register with an immediate or a literal -/

/-- A one-cycle instruction with two register sources. -/
def opRR (len : Nat) (f : W64 → W64 → W64) (rd ra rb : SReg) (s : State) : Out :=
  ready [ra, rb, rd] s fun s => result len rd (f (s.reg ra) (s.reg rb)) s

/-- A one-cycle instruction with a register source and a constant. -/
def opRI (len : Nat) (f : W64 → W64 → W64) (rd ra : SReg) (i : W64) (s : State) : Out :=
  ready [ra, rd] s fun s => result len rd (f (s.reg ra) i) s

/-! ## The meanings -/

/-- ADD (R82). -/
def execAdd (rd ra rb : SReg) (s : State) : Out := opRR 4 aluAdd rd ra rb s

/-- ADD with a literal (R82, R45). -/
def execAddLit (rd ra : SReg) (lit : W64) (s : State) : Out := opRI 12 aluAdd rd ra lit s

/-- SUB (R82). -/
def execSub (rd ra rb : SReg) (s : State) : Out := opRR 4 aluSub rd ra rb s

/-- SUB with a literal (R82, R45). -/
def execSubLit (rd ra : SReg) (lit : W64) (s : State) : Out := opRI 12 aluSub rd ra lit s

/-- AND (R82). -/
def execAnd (rd ra rb : SReg) (s : State) : Out := opRR 4 aluAnd rd ra rb s

/-- AND with a literal (R82, R45). -/
def execAndLit (rd ra : SReg) (lit : W64) (s : State) : Out := opRI 12 aluAnd rd ra lit s

/-- OR (R82). -/
def execOr (rd ra rb : SReg) (s : State) : Out := opRR 4 aluOr rd ra rb s

/-- OR with a literal (R82, R45). -/
def execOrLit (rd ra : SReg) (lit : W64) (s : State) : Out := opRI 12 aluOr rd ra lit s

/-- XOR (R82). -/
def execXor (rd ra rb : SReg) (s : State) : Out := opRR 4 aluXor rd ra rb s

/-- XOR with a literal (R82, R45). -/
def execXorLit (rd ra : SReg) (lit : W64) (s : State) : Out := opRI 12 aluXor rd ra lit s

/-- ANDN (R82). -/
def execAndn (rd ra rb : SReg) (s : State) : Out := opRR 4 aluAndn rd ra rb s

/-- ANDN with a literal (R82, R45). -/
def execAndnLit (rd ra : SReg) (lit : W64) (s : State) : Out := opRI 12 aluAndn rd ra lit s

/-- SHL (R82). -/
def execShl (rd ra rb : SReg) (s : State) : Out := opRR 4 aluShl rd ra rb s

/-- SHL with a literal (R82, R45). -/
def execShlLit (rd ra : SReg) (lit : W64) (s : State) : Out := opRI 12 aluShl rd ra lit s

/-- SHR (R82). -/
def execShr (rd ra rb : SReg) (s : State) : Out := opRR 4 aluShr rd ra rb s

/-- SHR with a literal (R82, R45). -/
def execShrLit (rd ra : SReg) (lit : W64) (s : State) : Out := opRI 12 aluShr rd ra lit s

/-- SRA (R82). -/
def execSra (rd ra rb : SReg) (s : State) : Out := opRR 4 aluSra rd ra rb s

/-- SRA with a literal (R82, R45). -/
def execSraLit (rd ra : SReg) (lit : W64) (s : State) : Out := opRI 12 aluSra rd ra lit s

/-- SLT (R82). -/
def execSlt (rd ra rb : SReg) (s : State) : Out := opRR 4 aluSlt rd ra rb s

/-- SLT with a literal (R82, R45). -/
def execSltLit (rd ra : SReg) (lit : W64) (s : State) : Out := opRI 12 aluSlt rd ra lit s

/-- SLTU (R82). -/
def execSltu (rd ra rb : SReg) (s : State) : Out := opRR 4 aluSltu rd ra rb s

/-- SLTU with a literal (R82, R45). -/
def execSltuLit (rd ra : SReg) (lit : W64) (s : State) : Out := opRI 12 aluSltu rd ra lit s

/-- MIN (R82). -/
def execMin (rd ra rb : SReg) (s : State) : Out := opRR 4 aluMin rd ra rb s

/-- MIN with a literal (R82, R45). -/
def execMinLit (rd ra : SReg) (lit : W64) (s : State) : Out := opRI 12 aluMin rd ra lit s

/-- MAX (R82). -/
def execMax (rd ra rb : SReg) (s : State) : Out := opRR 4 aluMax rd ra rb s

/-- MAX with a literal (R82, R45). -/
def execMaxLit (rd ra : SReg) (lit : W64) (s : State) : Out := opRI 12 aluMax rd ra lit s

/-- MINU (R82). -/
def execMinu (rd ra rb : SReg) (s : State) : Out := opRR 4 aluMinu rd ra rb s

/-- MINU with a literal (R82, R45). -/
def execMinuLit (rd ra : SReg) (lit : W64) (s : State) : Out := opRI 12 aluMinu rd ra lit s

/-- MAXU (R82). -/
def execMaxu (rd ra rb : SReg) (s : State) : Out := opRR 4 aluMaxu rd ra rb s

/-- MAXU with a literal (R82, R45). -/
def execMaxuLit (rd ra : SReg) (lit : W64) (s : State) : Out := opRI 12 aluMaxu rd ra lit s

/-- ADDW (R82). -/
def execAddw (rd ra rb : SReg) (s : State) : Out := opRR 4 aluAddw rd ra rb s

/-- ADDW with a literal (R82, R45). -/
def execAddwLit (rd ra : SReg) (lit : W64) (s : State) : Out := opRI 12 aluAddw rd ra lit s

/-- SUBW (R82). -/
def execSubw (rd ra rb : SReg) (s : State) : Out := opRR 4 aluSubw rd ra rb s

/-- SUBW with a literal (R82, R45). -/
def execSubwLit (rd ra : SReg) (lit : W64) (s : State) : Out := opRI 12 aluSubw rd ra lit s

/-- ADDX1 (R82). -/
def execAddx1 (rd ra rb : SReg) (s : State) : Out := opRR 4 aluAddx1 rd ra rb s

/-- ADDX1 with a literal (R82, R45). -/
def execAddx1Lit (rd ra : SReg) (lit : W64) (s : State) : Out := opRI 12 aluAddx1 rd ra lit s

/-- ADDX2 (R82). -/
def execAddx2 (rd ra rb : SReg) (s : State) : Out := opRR 4 aluAddx2 rd ra rb s

/-- ADDX2 with a literal (R82, R45). -/
def execAddx2Lit (rd ra : SReg) (lit : W64) (s : State) : Out := opRI 12 aluAddx2 rd ra lit s

/-- ADDX3 (R82). -/
def execAddx3 (rd ra rb : SReg) (s : State) : Out := opRR 4 aluAddx3 rd ra rb s

/-- ADDX3 with a literal (R82, R45). -/
def execAddx3Lit (rd ra : SReg) (lit : W64) (s : State) : Out := opRI 12 aluAddx3 rd ra lit s

/-- ADDI (R83): the immediate is sign-extended. -/
def execAddi (rd ra : SReg) (imm : BitVec 14) (s : State) : Out := opRI 4 aluAdd rd ra (sx imm) s

/-- ADDI with a literal (R83, R45). -/
def execAddiLit (rd ra : SReg) (lit : W64) (s : State) : Out := opRI 12 aluAdd rd ra lit s

/-- ANDI (R83): the immediate is sign-extended. -/
def execAndi (rd ra : SReg) (imm : BitVec 14) (s : State) : Out := opRI 4 aluAnd rd ra (sx imm) s

/-- ANDI with a literal (R83, R45). -/
def execAndiLit (rd ra : SReg) (lit : W64) (s : State) : Out := opRI 12 aluAnd rd ra lit s

/-- ORI (R83): the immediate is sign-extended. -/
def execOri (rd ra : SReg) (imm : BitVec 14) (s : State) : Out := opRI 4 aluOr rd ra (sx imm) s

/-- ORI with a literal (R83, R45). -/
def execOriLit (rd ra : SReg) (lit : W64) (s : State) : Out := opRI 12 aluOr rd ra lit s

/-- XORI (R83): the immediate is sign-extended. -/
def execXori (rd ra : SReg) (imm : BitVec 14) (s : State) : Out := opRI 4 aluXor rd ra (sx imm) s

/-- XORI with a literal (R83, R45). -/
def execXoriLit (rd ra : SReg) (lit : W64) (s : State) : Out := opRI 12 aluXor rd ra lit s

/-- SLTI (R83): the immediate is sign-extended. -/
def execSlti (rd ra : SReg) (imm : BitVec 14) (s : State) : Out := opRI 4 aluSlt rd ra (sx imm) s

/-- SLTI with a literal (R83, R45). -/
def execSltiLit (rd ra : SReg) (lit : W64) (s : State) : Out := opRI 12 aluSlt rd ra lit s

/-- SLTIU (R83): the immediate is sign-extended. -/
def execSltiu (rd ra : SReg) (imm : BitVec 14) (s : State) : Out := opRI 4 aluSltu rd ra (sx imm) s

/-- SLTIU with a literal (R83, R45). -/
def execSltiuLit (rd ra : SReg) (lit : W64) (s : State) : Out := opRI 12 aluSltu rd ra lit s

/-- SHLI (R83): the shift amount is IMM14[5:0]. -/
def execShli (rd ra : SReg) (sh : BitVec 6) (s : State) : Out := opRI 4 aluShl rd ra (sh.setWidth 64) s

/-- SHRI (R83): the shift amount is IMM14[5:0]. -/
def execShri (rd ra : SReg) (sh : BitVec 6) (s : State) : Out := opRI 4 aluShr rd ra (sh.setWidth 64) s

/-- SRAI (R83): the shift amount is IMM14[5:0]. -/
def execSrai (rd ra : SReg) (sh : BitVec 6) (s : State) : Out := opRI 4 aluSra rd ra (sh.setWidth 64) s

end Sys2Proof.Machine
end

