-- ==== Sys2Proof/Machine/AeWindow.lean ====
section
/-!
DEFINITION. The assignment engine's window, type 7 (R269, R270): what a local access reads and writes there.
-/

namespace Sys2Proof.Machine

open Sys2Proof

/-- A slot that is not configured (R269). -/
def AeSlot.empty : AeSlot := ⟨0, [], [], false, 0, 0, 0, 0, 0, [], [], 0, 0, 0⟩

/-- A slot of an engine. -/
def Ae.slot (e : Ae) (n : Nat) : AeSlot := e.slots.get n AeSlot.empty

/-- Fields of a configuration record (R271). -/
def AeSlot.configured (x : AeSlot) : Bool := x.record.getLsbD 0
/-- Tokens (R271). -/
def AeSlot.t (x : AeSlot) : Nat := (x.record.extractLsb' 76 14).toNat
/-- Experts (R271). -/
def AeSlot.e (x : AeSlot) : Nat := (x.record.extractLsb' 66 10).toNat
/-- Groups (R271). -/
def AeSlot.g (x : AeSlot) : Nat := (x.record.extractLsb' 62 4).toNat
/-- The price bank (R271). -/
def AeSlot.bank (x : AeSlot) : Nat := (x.record.extractLsb' 58 4).toNat
/-- The scores' byte offset (R271). -/
def AeSlot.sbase (x : AeSlot) : Nat := (x.record.extractLsb' 104 24).toNat

/-- The run word of a slot (R280). -/
def AeSlot.runWord (x : AeSlot) : W64 :=
  BitVec.ofNat 8 x.reason ++ BitVec.ofNat 2 x.state ++ BitVec.ofNat 8 x.rounds ++ BitVec.ofNat 17 x.filled ++
    (0 : BitVec 6) ++ BitVec.ofNat 23 x.clamps

/-- An owner word (R270). -/
def Owner.word (o : Owner) : W64 := (BitVec.ofBool o.any ++ o.ctx).setWidth 64

/-- A price of a bank: price j of bank b at key 512b + j. -/
def Ae.price (e : Ae) (b j : Nat) : BitVec 24 := e.prices.get (512 * b + j) 0

/-- The 64-bit word at an 8-aligned offset of the window (R269). -/
def Ae.window (e : Ae) (off : Nat) : W64 :=
  if off < 0x800000 then e.scores.readLE off 8 64
  else if off < 0x808000 then
    let j := (off - 0x800000) / 4
    ((e.prices.get (j + 1) 0).setWidth 32 ++ (e.prices.get j 0).setWidth 32 : BitVec 64)
  else if off < 0x810000 then 0
  else if off < 0x810400 then
    let x := e.slot ((off - 0x810000) / 64)
    if x.configured then x.record.extractLsb' (8 * ((off - 0x810000) % 64)) 64 else 0
  else if off < 0x810480 then (e.slot ((off - 0x810400) / 8)).runWord
  else if off < 0x810500 then (e.slotOwner.get ((off - 0x810480) / 8) Owner.reset).word
  else (e.bankOwner.get ((off - 0x810500) / 8) Owner.reset).word

/-- The slots whose run is in progress. -/
def Ae.running (e : Ae) : List (Nat × AeSlot) := e.slots.filter fun (_, x) => x.state == 1

/-- Whether an offset lies in the score region or the bank of a slot whose run is in progress (R270). -/
def Ae.frozen (e : Ae) (off : Nat) : Bool :=
  e.running.any fun (_, x) =>
    (decide (x.sbase ≤ off) && decide (off < x.sbase + 2 * x.t * x.e) && decide (off < 0x800000)) ||
    (decide (0x800000 + 2048 * x.bank ≤ off) && decide (off < 0x800000 + 2048 * x.bank + 2048))

/-- A supervisor write of the 4-byte word at a 4-aligned offset (R269, R270). -/
def Ae.putWord (e : Ae) (off : Nat) (v : W32) : Ae :=
  if e.frozen off then e
  else if off < 0x800000 then { e with scores := e.scores.writeLE off 4 v }
  else if off < 0x808000 then { e with prices := e.prices.put ((off - 0x800000) / 4) (v.setWidth 24) }
  else if off < 0x810480 then e
  else if off % 8 ≠ 0 then e
  else
    let o : Owner := ⟨v.getLsbD 16, v.setWidth 16⟩
    if off < 0x810500 then { e with slotOwner := e.slotOwner.put ((off - 0x810480) / 8) o }
    else { e with bankOwner := e.bankOwner.put ((off - 0x810500) / 8) o }

/-- A read of `n` bytes, 4 or 8, at an aligned offset. -/
def Ae.read (e : Ae) (off n : Nat) : W64 :=
  let w := e.window (off / 8 * 8)
  if n = 8 then w else (w >>> (8 * (off % 8))).setWidth 32 |>.setWidth 64

/-- A supervisor write of `n` bytes, 4 or 8, at an aligned offset. -/
def Ae.write (e : Ae) (off n : Nat) (v : W64) : Ae :=
  let e := e.putWord off (v.setWidth 32)
  if n = 8 then e.putWord (off + 4) (v.extractLsb' 32 32) else e

end Sys2Proof.Machine
end

