-- ==== Sys2Proof/Machine/Float.lean ====
section
/-!
DEFINITION. Number formats and exact arithmetic (R194–R199): values of the floating-point formats as exact numbers, one
rounding with its flags, and the operations of IEEE 754 over them.
-/

namespace Sys2Proof.Machine

open Sys2Proof

/-! ## Formats (R194, R195) -/

/-- A floating-point format: fraction bits, exponent bits, bias, and whether it has infinities. -/
structure Fmt where
  f : Nat
  eb : Nat
  bias : Nat
  inf : Bool
  deriving DecidableEq, Repr

/-- FP32. -/
def fp32 : Fmt := ⟨23, 8, 127, true⟩
/-- BF16. -/
def bf16 : Fmt := ⟨7, 8, 127, true⟩
/-- FP16. -/
def fp16 : Fmt := ⟨10, 5, 15, true⟩
/-- E4M3. -/
def e4m3 : Fmt := ⟨3, 4, 7, false⟩
/-- E5M2. -/
def e5m2 : Fmt := ⟨2, 5, 15, true⟩

/-- The exponent of the smallest normal. -/
def Fmt.emin (k : Fmt) : Int := 1 - (k.bias : Int)

/-- The exponent of the largest finite value: without infinities the top exponent field is ordinary. -/
def Fmt.emax (k : Fmt) : Int := (2 ^ k.eb - 1 : Nat) - (k.bias : Int) - (if k.inf then 1 else 0)

/-- The significand of the largest finite value. -/
def Fmt.top (k : Fmt) : Nat := 2 ^ (k.f + 1) - (if k.inf then 1 else 2)

/-- A field value with a sign. -/
def Fmt.signed (k : Fmt) (neg : Bool) (v : Nat) : W32 := BitVec.ofNat 32 (v + if neg then 2 ^ (k.f + k.eb) else 0)

/-- A zero. -/
def Fmt.zero (k : Fmt) (neg : Bool) : W32 := k.signed neg 0

/-- The largest finite value. -/
def Fmt.largest (k : Fmt) (neg : Bool) : W32 := k.signed neg ((2 ^ k.eb - 1) * 2 ^ k.f - 1 + if k.inf then 0 else 2 ^ k.f - 1)

/-- An infinity; E4M3 has none and saturates (R196). -/
def Fmt.infinity (k : Fmt) (neg : Bool) : W32 :=
  if k.inf then k.signed neg ((2 ^ k.eb - 1) * 2 ^ k.f) else k.largest neg

/-- The canonical NaN (R195). -/
def Fmt.nan (k : Fmt) : W32 :=
  if k.inf then k.signed false ((2 ^ k.eb - 1) * 2 ^ k.f + 2 ^ (k.f - 1)) else k.signed false (2 ^ (k.f + k.eb) - 1)

/-- The value of an encoding: a finite value is (−1)^neg · m · 2^e exactly. -/
inductive Num where
  | nan
  | inf (neg : Bool)
  | fin (neg : Bool) (m : Nat) (e : Int)
  deriving DecidableEq, Repr

/-- The exponent field of an encoding. -/
def Fmt.expOf (k : Fmt) (x : W32) : Nat := x.toNat / 2 ^ k.f % 2 ^ k.eb

/-- The fraction field. -/
def Fmt.fracOf (k : Fmt) (x : W32) : Nat := x.toNat % 2 ^ k.f

/-- The sign bit. -/
def Fmt.negOf (k : Fmt) (x : W32) : Bool := x.getLsbD (k.f + k.eb)

/-- The value of an encoding (R194, R195). -/
def Fmt.decode (k : Fmt) (x : W32) : Num :=
  let e := k.expOf x
  let m := k.fracOf x
  if k.inf && e == 2 ^ k.eb - 1 then (if m = 0 then .inf (k.negOf x) else .nan)
  else if !k.inf && e == 2 ^ k.eb - 1 && m == 2 ^ k.f - 1 then .nan
  else if e = 0 then .fin (k.negOf x) m (k.emin - k.f)
  else .fin (k.negOf x) (m + 2 ^ k.f) ((e : Int) - k.bias - k.f)

/-- A nonzero subnormal encoding. -/
def Fmt.subnormal (k : Fmt) (x : W32) : Bool := k.expOf x == 0 && k.fracOf x != 0

/-- The value of an input, a subnormal replaced by a zero of its sign when `ftz` says so (R198). -/
def Fmt.input (k : Fmt) (ftz : Bool) (x : W32) : Num :=
  if ftz && k.subnormal x then .fin (k.negOf x) 0 0 else k.decode x

/-- Whether a value is a zero. -/
def Num.isZero : Num → Bool
  | .fin _ 0 _ => true
  | _ => false

/-- The sign of a value. -/
def Num.neg : Num → Bool
  | .nan => false
  | .inf s => s
  | .fin s _ _ => s

/-- The value with its sign changed. -/
def Num.flip : Num → Num
  | .nan => .nan
  | .inf s => .inf (!s)
  | .fin s m e => .fin (!s) m e

/-! ## Rounding (R196, R197) -/

/-- Where a cut-off part stands against half a unit: 0 none, 1 below half, 2 half, 3 above half. -/
def cutClass (m sh : Nat) (sticky : Bool) : Nat :=
  if sh = 0 then (if sticky then 1 else 0)
  else
    let r := m % 2 ^ sh
    let half := 2 ^ (sh - 1)
    if r = 0 ∧ !sticky then 0 else if r < half then 1 else if r = half ∧ !sticky then 2 else 3

/-- Whether a magnitude rounds up in a mode: 0 RNE, 1 RTZ, 2 RDN, 3 RUP. -/
def roundsUp (mode : BitVec 2) (neg odd : Bool) (c : Nat) : Bool :=
  match mode.toNat with
  | 0 => c == 3 || (c == 2 && odd)
  | 1 => false
  | 2 => neg && c != 0
  | _ => !neg && c != 0

/-- The flag NV alone. -/
def FFlags.invalid (b : Bool) : FFlags := ⟨b, false, false, false, false⟩

/-- RoundFmt of a finite number (R196) with the flags of R197. The exact number is m·2^e, or lies strictly between it and
(m + 1)·2^e when `sticky` holds and m has at least two bits more than the format. -/
def Fmt.round (k : Fmt) (mode : BitVec 2) (neg : Bool) (m : Nat) (e : Int) (sticky : Bool) : W32 × FFlags :=
  if m = 0 ∧ !sticky then (k.zero neg, .none)
  else
    let q : Int := max (e + Nat.log2 m) k.emin - k.f
    let sh := (q - e).toNat
    let n := if q ≤ e then m * 2 ^ (e - q).toNat else m / 2 ^ sh
    let c := cutClass m sh sticky
    let r := if roundsUp mode neg (n % 2 == 1) c then n + 1 else n
    let nx := c != 0
    let (r, q) := if r = 2 ^ (k.f + 1) then (2 ^ k.f, q + 1) else (r, q)
    if r < 2 ^ k.f then (k.signed neg r, ⟨false, false, false, nx, nx⟩)
    else if k.emax < q + k.f ∨ (q + k.f = k.emax ∧ k.top < r) then
      let big := !k.inf || (match mode.toNat with | 0 => false | 1 => true | 2 => !neg | _ => neg)
      (if big then k.largest neg else k.infinity neg, ⟨false, false, true, false, true⟩)
    else (k.signed neg ((q + k.f + k.bias).toNat * 2 ^ k.f + (r - 2 ^ k.f)), ⟨false, false, false, false, nx⟩)

/-- RoundFmt of an exact number, an infinity or a NaN. -/
def Fmt.roundNum (k : Fmt) (mode : BitVec 2) (x : Num) : W32 × FFlags :=
  match x with
  | .nan => (k.nan, .none)
  | .inf s => (k.infinity s, ⟨false, false, !k.inf, false, false⟩)
  | .fin s m e => k.round mode s m e false

/-- FTZ on a result (R198). -/
def Fmt.output (k : Fmt) (ftz : Bool) (r : W32 × FFlags) : W32 × FFlags :=
  if ftz && k.subnormal r.1 then (k.zero (k.negOf r.1), r.2.or ⟨false, false, false, true, true⟩) else r

/-- The low `w` bits of a number kept, a flag added. -/
def addFlags (r : W32 × FFlags) (f : FFlags) : W32 × FFlags := (r.1, r.2.or f)

/-! ## Exact sums, products and comparisons -/

/-- A signed integer at an exponent. -/
def scaled (neg : Bool) (m : Nat) (e lo : Int) : Int :=
  let v : Int := m * 2 ^ (e - lo).toNat
  if neg then -v else v

/-- The exact sum of two values, whether it is invalid (∞ − ∞), and an exact zero's sign as IEEE 754 gives it. -/
def addNum (mode : BitVec 2) (a b : Num) : Num × Bool :=
  match a, b with
  | .nan, _ | _, .nan => (.nan, false)
  | .inf s, .inf t => if s = t then (.inf s, false) else (.nan, true)
  | .inf s, .fin _ _ _ => (.inf s, false)
  | .fin _ _ _, .inf t => (.inf t, false)
  | .fin s m e, .fin t n d =>
    let lo := min e d
    let v := scaled s m e lo + scaled t n d lo
    if v = 0 then (.fin (if m = 0 ∧ n = 0 ∧ s = t then s else mode == 2) 0 0, false)
    else (.fin (decide (v < 0)) v.natAbs lo, false)

/-- The exact product of two values, and whether it is invalid (0 × ∞). -/
def mulNum (a b : Num) : Num × Bool :=
  match a, b with
  | .nan, _ | _, .nan => (.nan, false)
  | .inf s, .inf t => (.inf (s != t), false)
  | .inf s, .fin t n _ => if n = 0 then (.nan, true) else (.inf (s != t), false)
  | .fin s m _, .inf t => if m = 0 then (.nan, true) else (.inf (s != t), false)
  | .fin s m e, .fin t n d => (.fin (s != t) (m * n) (e + d), false)

/-- x < y of two values that are no NaN. -/
def ltNum (a b : Num) : Bool :=
  match a, b with
  | .nan, _ | _, .nan => false
  | .inf s, .inf t => s && !t
  | .inf s, .fin _ _ _ => s
  | .fin _ _ _, .inf t => !t
  | .fin s m e, .fin t n d => let lo := min e d; decide (scaled s m e lo < scaled t n d lo)

/-- x = y of two values that are no NaN; +0 = −0. -/
def eqNum (a b : Num) : Bool := a != .nan && b != .nan && !ltNum a b && !ltNum b a

/-! ## Quotients, roots, exponentials and logarithms -/

/-- m/n to `bits` more bits than n has, with whether anything is cut off. -/
def quotient (m n : Nat) (bits : Nat) : Nat × Int × Bool :=
  let sh := Nat.log2 n + bits
  (m * 2 ^ sh / n, -(sh : Int), m * 2 ^ sh % n != 0)

/-- ⌊√n⌋ by `k` binary digits from the top; `r` is the root so far. -/
def isqrtFrom (n : Nat) : Nat → Nat → Nat
  | 0, r => r
  | k + 1, r => isqrtFrom n k (if (r + 2 ^ k) * (r + 2 ^ k) ≤ n then r + 2 ^ k else r)

/-- ⌊√n⌋. -/
def isqrt (n : Nat) : Nat := isqrtFrom n (Nat.log2 n / 2 + 1) 0

/-- √(m·2^e): at least 40 bits, their exponent, and whether anything is cut off. -/
def rootOf (m : Nat) (e : Int) : Nat × Int × Bool :=
  let sh : Nat := 80 + (e % 2).toNat
  let n := m * 2 ^ sh
  let r := isqrt n
  (r, (e - sh) / 2, r * r != n)

/-- The bits of fixed-point numbers below: 192. -/
def fixBits : Nat := 192

/-- 2^f of a fraction with `j` bits left to read from position `k` down; `c` is 2^(2^−k) in fixed point. -/
def exp2Frac (f : Nat) (bits : Nat) : Nat → Nat → Nat → Nat → Nat
  | 0, _, _, acc => acc
  | j + 1, k, c, acc =>
    let acc := if f / 2 ^ (bits - k) % 2 = 1 then acc * c / 2 ^ fixBits else acc
    exp2Frac f bits j (k + 1) (isqrt (c * 2 ^ fixBits)) acc

/-- 2^x for x = (−1)^neg·m·2^e, m ≠ 0: digits, exponent and whether anything is cut off; a fraction has at most 60 bits
unless |x| < 2^−30. The digits are near enough to round as 2^x does (PRESUMED, log 115). -/
def exp2Of (neg : Bool) (m : Nat) (e : Int) : Nat × Int × Bool :=
  if e + Nat.log2 m < -30 then
    (if neg then 2 ^ 64 - 1 else 2 ^ 64, -64, true)
  else if 20 < e + Nat.log2 m then (1, if neg then -2000 else 2000, false)
  else
    let fb := (-e).toNat
    let v : Int := scaled neg m (e + fb) 0
    let n := v / 2 ^ fb
    let f := (v % 2 ^ fb).toNat
    if f = 0 then (1, n, false)
    else (exp2Frac f fb fb 1 (isqrt (2 * 2 ^ (2 * fixBits))) (2 ^ fixBits), n - fixBits, true)

/-- `n` binary digits of log2 of a fixed-point number in [1, 2). -/
def log2Digits : Nat → Nat → Nat → Nat
  | 0, _, acc => acc
  | n + 1, y, acc =>
    let z := y * y / 2 ^ 320
    if 2 ^ 321 ≤ z then log2Digits n (z / 2) (2 * acc + 1) else log2Digits n z (2 * acc)

/-- log2 of m·2^e, m ≠ 0: sign, digits, exponent and whether anything is cut off; near enough to round as log2 does (PRESUMED, log 115). -/
def log2Of (m : Nat) (e : Int) : Bool × Nat × Int × Bool :=
  let l := Nat.log2 m
  let n : Int := e + l
  if m = 2 ^ l then (decide (n < 0), n.natAbs, 0, false)
  else
    let d := log2Digits 110 (m * 2 ^ (320 - l)) 0
    let v : Int := n * 2 ^ 110 + d
    if 0 ≤ v then (false, v.natAbs, -110, true) else (true, v.natAbs - 1, -110, true)

/-! ## Rounding to an integer (R199) -/

/-- A number rounded to an integer in a mode, and whether it was inexact; sticky as in `Fmt.round`. -/
def roundInt (mode : BitVec 2) (neg : Bool) (m : Nat) (e : Int) (sticky : Bool) : Int × Bool :=
  let sh := (-e).toNat
  let n := if 0 ≤ e then m * 2 ^ e.toNat else m / 2 ^ sh
  let c := cutClass m sh sticky
  let r := if roundsUp mode neg (n % 2 == 1) c then n + 1 else n
  (if neg then -(r : Int) else r, c != 0)

/-! ## Named helpers -/

/-- RNE32(x + y) of R135 (AddF32). -/
def addF32 (x y : W32) : W32 := (fp32.roundNum 0 (addNum 0 (fp32.decode x) (fp32.decode y)).1).1

/-- RNE32 of a product. -/
def mulF32 (x y : Num) : W32 := (fp32.roundNum 0 (mulNum x y).1).1

/-- A natural number as a value. -/
def natNum (n : Nat) : Num := .fin false n 0

/-- An integer as a value. -/
def intNum (v : Int) : Num := .fin (decide (v < 0)) v.natAbs 0

end Sys2Proof.Machine
end

