-- ==== Sys2Proof/Machine/Tlb.lean ====
section
/-!
DEFINITION. Translation (R162–R166, R170): context-table records, TLB entries, lookups, fills and misses.
-/

namespace Sys2Proof.Machine

open Sys2Proof

/-! ## The context table (R166) -/

/-- The place of a ctxid's context-table record in home memory. -/
def State.ctxKey (s : State) (ctxid : BitVec 16) : Nat := Config.device * 2 ^ 41 + s.ctxTable + 16 * ctxid.toNat

/-- The context-table record of a ctxid, read from pinned memory. -/
def State.ctxRecord (s : State) (ctxid : BitVec 16) : BitVec 128 := s.home.readLE (s.ctxKey ctxid) 16 128

/-- Whether any byte of a range of home memory lies in a poisoned line. -/
def State.poisonedIn (s : State) (key n : Nat) : Bool :=
  s.poison.any fun l => decide (l < key + n) && decide (key < l + 64)

/-- The poisoned line that a ctxid's record lies in, if it does: the walk that reads it consumes the error (R329). -/
def State.ctxLine (s : State) (ctxid : BitVec 16) : Option Nat :=
  if s.poisonedIn (s.ctxKey ctxid) 16 then some (s.ctxKey ctxid / 64 * 64) else none

/-- The address space of a record. -/
def recAsid (r : BitVec 128) : BitVec 12 := r.extractLsb' 36 12

/-- The lease length of a record; 0 selects mode B. -/
def recLease (r : BitVec 128) : Nat := (r.extractLsb' 48 16).toNat

/-- The address space of a ctxid. -/
def State.asidOf (s : State) (ctxid : BitVec 16) : BitVec 12 := recAsid (s.ctxRecord ctxid)

/-! ## Entries (R163, R165) -/

/-- Fields of an entry. -/
def TlbEntry.v (e : TlbEntry) : Bool := e.word.getLsbD 0
/-- The page size code. -/
def TlbEntry.size (e : TlbEntry) : Nat := (e.word.extractLsb' 1 2).toNat
/-- Readable. -/
def TlbEntry.r (e : TlbEntry) : Bool := e.word.getLsbD 3
/-- Writable. -/
def TlbEntry.w (e : TlbEntry) : Bool := e.word.getLsbD 4
/-- A source of code. -/
def TlbEntry.x (e : TlbEntry) : Bool := e.word.getLsbD 5
/-- Holds sync objects. -/
def TlbEntry.sync (e : TlbEntry) : Bool := e.word.getLsbD 6
/-- Multi-copy atomic. -/
def TlbEntry.mca (e : TlbEntry) : Bool := e.word.getLsbD 7
/-- Replicated. -/
def TlbEntry.repl (e : TlbEntry) : Bool := e.word.getLsbD 8
/-- Pinned. -/
def TlbEntry.pin (e : TlbEntry) : Bool := e.word.getLsbD 9
/-- The frame number. -/
def TlbEntry.pfn (e : TlbEntry) : Nat := (e.word.extractLsb' 11 25).toNat
/-- The address space. -/
def TlbEntry.asid (e : TlbEntry) : BitVec 12 := e.word.extractLsb' 39 12
/-- The home device. -/
def TlbEntry.dev (e : TlbEntry) : Nat := (e.word.extractLsb' 51 13).toNat
/-- VA[47:16]. -/
def TlbEntry.vpn (e : TlbEntry) : Nat := (e.word.extractLsb' 64 32).toNat
/-- The lease's expiry tick bits. -/
def TlbEntry.lease (e : TlbEntry) : BitVec 32 := e.word.extractLsb' 96 32

/-- Bits of the page number below a page's own: 0, 5 or 14 (R163). -/
def pageShift (size : Nat) : Nat := match size with | 0 => 0 | 1 => 5 | _ => 14

/-- The range of an entry covers a virtual address. -/
def TlbEntry.covers (e : TlbEntry) (va : Nat) : Bool :=
  e.vpn >>> pageShift e.size == (va >>> 16) >>> pageShift e.size

/-- The lease has expired at a tick (R165). -/
def TlbEntry.expired (e : TlbEntry) (now : Nat) : Bool :=
  e.modeL && decide ((BitVec.ofNat 32 (now >>> 10) - e.lease).toNat < 2 ^ 31)

/-- An entry matches an access (R165). -/
def TlbEntry.hits (e : TlbEntry) (asid : BitVec 12) (va now : Nat) : Bool :=
  e.v && e.asid == asid && e.covers va && !e.expired now

/-- An entry has the permission that an access needs (R165). A code load's source needs X and, as every copy source, R and no SYNC
(DESIGN CHOICE, log 76: R165 names X alone, R182 R for a source and X for a code load). -/
def TlbEntry.permits (e : TlbEntry) : Access → Bool
  | .load | .copyRead => e.r && !e.sync
  | .record | .copyWrite => e.w && !e.sync
  | .sync => e.sync
  | .codeLoad => e.x && e.r && !e.sync

/-- The key of home memory for a virtual address that an entry covers (R164). -/
def TlbEntry.key (e : TlbEntry) (va : Nat) : Nat :=
  e.dev * 2 ^ 41 + e.pfn * 2 ^ 16 + va % 2 ^ (16 + pageShift e.size)

/-- Two entries of one address space overlap (R165). -/
def TlbEntry.overlaps (a b : TlbEntry) : Bool :=
  a.asid == b.asid &&
    (a.vpn >>> pageShift (max a.size b.size) == b.vpn >>> pageShift (max a.size b.size))

/-! ## TLBs (R162) -/

/-- The entry of a TLB that an access matches. -/
def Tlb.lookup (t : Tlb) (asid : BitVec 12) (va now : Nat) : Option TlbEntry :=
  t.entries.vals.find? fun e => e.hits asid va now

/-- A TLB of `n` entries with one written at its pointer, overlapping entries removed first (R165). -/
def Tlb.fill (t : Tlb) (n : Nat) (e : TlbEntry) : Tlb :=
  { entries := PMap.put (t.entries.keep fun f => !f.overlaps e) t.ptr e, ptr := (t.ptr + 1) % n }

/-- A TLB without the entries that a condition names. -/
def Tlb.drop (t : Tlb) (p : TlbEntry → Bool) : Tlb := { t with entries := t.entries.keep fun e => !p e }

/-- The set of the cluster shared TLB for a page size (R162). -/
def sharedSet (asid : BitVec 12) (va size : Nat) : Nat :=
  ((va >>> (16 + pageShift size)) % 256) ^^^ (asid.toNat % 256)

/-- A lookup of the shared TLB in the three sets that the address selects (R162). -/
def Cluster.sharedLookup (x : Cluster) (asid : BitVec 12) (va now : Nat) : Option TlbEntry :=
  ([0, 1, 2].filterMap fun z =>
    (x.sharedTlb.get (sharedSet asid va z) Tlb.reset).entries.vals.find? fun e =>
      e.size == z && e.hits asid va now).head?

/-- The cluster with an entry written into the shared TLB, overlapping entries removed first (R165). -/
def Cluster.sharedFill (x : Cluster) (e : TlbEntry) : Cluster :=
  let set := sharedSet e.asid (e.vpn <<< 16) e.size
  let t : PMap Tlb := x.sharedTlb.mapVal fun _ t => t.drop fun f => f.overlaps e
  { x with sharedTlb := PMap.put t set ((PMap.get t set Tlb.reset).fill 8 e) }

/-- The state with an entry written into the TLB of a user. -/
def State.userFill (s : State) (k : Nat) (u : TlbUser) (e : TlbEntry) : State :=
  match u with
  | .core c => s.setCore c { s.core c with tlb := (s.core c).tlb.fill 64 e }
  | .copy => s.setCluster k { s.cluster k with copyTlb := (s.cluster k).copyTlb.fill 256 e }

/-! ## Translating an access (R162, R165, R166, R170) -/

/-- The outcome of a translation attempt. -/
inductive Translated where
  | hit (e : TlbEntry)
  /-- Finally denied (R170), or bits [63:48] are not zero (R18). -/
  | denied
  /-- Not yet: a miss is queued. -/
  | waiting
  deriving DecidableEq, Repr

/-- The miss of an access: of its user, access number, context, kind and 64 KiB page. -/
def Miss.same (m : Miss) (u : TlbUser) (acc : Nat) (ctxid : BitVec 16) (kind : Access) (va : Nat) : Bool :=
  m.user == u && m.acc == acc && m.ctxid == ctxid && m.kind == kind && m.va.toNat >>> 16 == va >>> 16

/-- The TLB of a user. -/
def State.userTlb (s : State) (k : Nat) : TlbUser → Tlb
  | .core c => (s.core c).tlb
  | .copy => (s.cluster k).copyTlb

/-- Misses that a TSC's queue holds (R169). -/
def queueLength (l : List Miss) : Nat := (l.filter fun m => m.state == .queued).length

/-- What an access comes to that misses; a final denial stays until the access completes (`State.forget`). A miss that finds the TSC's
queue of 64 full is held by its requester, which tries again (R169). -/
def State.translateMiss (s : State) (k : Nat) (u : TlbUser) (acc : Nat) (ctxid : BitVec 16) (launch : Nat) (kind : Access) (a : Nat)
    (r : BitVec 128) : Translated × State :=
  if !r.getLsbD 0 && (s.ctxLine ctxid).isNone then (.denied, s)
  else
    let x := s.cluster k
    match x.misses.find? fun m => m.same u acc ctxid kind a with
    | some m => (if m.state = .final then .denied else .waiting, s)
    | none =>
      if 64 ≤ queueLength x.misses then (.waiting, s)
      else
        let m : Miss := ⟨u, acc, BitVec.ofNat 48 a, ctxid, recAsid r, kind, launch, s.isAdmitted launch, false, 0, .queued⟩
        (.waiting, s.setCluster k { x with misses := x.misses ++ [m] })

/-- An access of an admitted launch meets a page that is not pinned (R171): BUDGET_OVERRUN follows. -/
def State.unpinned (s : State) (launch : Nat) : State :=
  if s.isAdmitted launch then s.updLaunch launch fun l => { l with notice := l.notice ||| 16 } else s

/-- An access that translates through an entry. -/
def State.translated (s : State) (launch : Nat) (e : TlbEntry) : Translated × State :=
  (.hit e, if e.pin then s else s.unpinned launch)

/-- The entry through which an access may go: that of its user's TLB, else the shared TLB's, which is copied; an entry without a
permission that it needs counts as a miss (R162, R165). -/
def State.usable (s : State) (k : Nat) (u : TlbUser) (kind : Access) (asid : BitVec 12) (a : Nat) : Option (TlbEntry × State) :=
  match ((s.userTlb k u).lookup asid a s.now).filter (·.permits kind) with
  | some e => some (e, s)
  | none => (((s.cluster k).sharedLookup asid a s.now).filter (·.permits kind)).map fun e => (e, s.userFill k u e)

/-- An access has found its page: its miss there, if it has one, is done with (R170; log 92). -/
def State.served (s : State) (k : Nat) (u : TlbUser) (acc : Nat) (ctxid : BitVec 16) (kind : Access) (a : Nat) : State :=
  let x := s.cluster k
  if x.misses.any (·.same u acc ctxid kind a) then
    s.setCluster k { x with misses := x.misses.filter fun m => !m.same u acc ctxid kind a }
  else s

/-- A translation attempt of an access in cluster `k`, which its user tells from its others by `acc`: a hit in the user's TLB or the
shared TLB; a context without a valid record is denied without a walk; otherwise the miss is queued. -/
def State.translate (s : State) (k : Nat) (u : TlbUser) (acc : Nat) (ctxid : BitVec 16) (launch : Nat) (kind : Access) (va : W64) :
    Translated × State :=
  let a := va.toNat
  if va.extractLsb' 48 16 ≠ 0 then (.denied, s)
  else
    let r := s.ctxRecord ctxid
    match s.usable k u kind (recAsid r) a with
    | some (e, s) => (s.served k u acc ctxid kind a).translated launch e
    | none => s.translateMiss k u acc ctxid launch kind a r

/-- The access completes: none of its misses outlives it (R170). -/
def State.forget (s : State) (k : Nat) (u : TlbUser) (acc : Nat) (kind : Access) : State :=
  let x := s.cluster k
  s.setCluster k { x with misses := x.misses.filter fun m => !(m.user == u && m.acc == acc && m.kind == kind) }

/-- The home G-die of a physical address, 8–11; reserved addresses name none (R164). -/
def homeDie (pa : Nat) : Option Nat :=
  if pa < 0x3000000000 then some (8 + pa / 0xC00000000)
  else if 0x10000000000 ≤ pa ∧ pa < 0x18000000000 then some (8 + (pa - 0x10000000000) / 0x2000000000)
  else none

end Sys2Proof.Machine
end

