-- ==== Sys2Proof/Machine/Homes.lean ====
section
/-!
DEFINITION. Home memory, its replicas and the cluster views (R128–R130, R135, R136, R153, R158): publish order, the application of a
publication's records, what lags and in which order it catches up, and the bytes that a view holds.
-/

namespace Sys2Proof.Machine

open Sys2Proof

/-! ## Where memory is (R164, R136, R313, R330) -/

/-- The G-die of a home key, 0–3 for G-dies 8–11. -/
def gdie (key : Nat) : Nat := (homeDie (key % 2 ^ 41)).getD 8 - 8

/-- The Zhevlink ports through which packets of a die can leave the device: alive, and on a G-die that a route leads to; each G-die has four
(R316). -/
def State.exits (s : State) (d : Nat) : List Nat := (List.range 16).filter fun p => !s.zhevDead.getLsbD p && !s.cutOff d (8 + p / 4)

/-- The G-die through which packets between a die and a home pass: the home's own, or, to another device, that of one of those ports (log 9). -/
def State.homePort (s : State) (d key : Nat) : Nat :=
  if key / 2 ^ 41 = Config.device then 8 + gdie key
  else
    let l := s.exits d
    8 + (l[Config.exitPort d key % l.length]?).getD 0 / 4

/-- No route is left from a die to a home (R313): on this device none to its G-die; to another device none once that device has left the
domain or cannot be reached (R311), or no Zhevlink port of this one can be (R316). -/
def State.linkDown (s : State) (d key : Nat) : Bool :=
  if key / 2 ^ 41 = Config.device then s.cutOff d (8 + gdie key)
  else s.domainLost || s.goneDevices.contains (key / 2 ^ 41) || (s.exits d).isEmpty

/-- Whether packets between a die and a home wait now: on their way (R309, R312), or at a G-die under reset (R315). -/
def State.homeHeld (s : State) (d key : Nat) : Bool := s.routeHeld d (s.homePort d key) || s.dieInReset (s.homePort d key)

/-- The replica of a die at the same place of a device (R136). -/
def State.replicaKey (s : State) (d key : Nat) : Nat :=
  let off := match s.repOff[d]? with | some o => o.toNat * 2 ^ 30 | none => 0
  key / 2 ^ 41 * 2 ^ 41 + (key % 2 ^ 41 + off) % 2 ^ 41

/-- Whether a die's replicas are the home copies themselves. -/
def State.replicaIsHome (s : State) (d : Nat) : Bool := match s.repOff[d]? with | some o => o == 0 | none => true

/-- A place in a cluster view: key asid·2^48 + va. -/
def viewKey (asid : BitVec 12) (va : Nat) : Nat := asid.toNat * 2 ^ 48 + va

/-- The RAS place of a memory line at a physical address (R330). -/
def memPlace (pa : Nat) : BitVec 44 :=
  BitVec.ofNat 44 (((homeDie pa).getD 8 - 8) * 2 ^ 41 + pa % 2 ^ 41 / 64 * 64)

/-- The RAS unit of a physical address (R330). -/
def memUnit (pa : Nat) : BitVec 12 := BitVec.ofNat 12 (0xF00 + (homeDie pa).getD 8)

/-! ## Records and publications -/

/-- The first byte of a record's granule. -/
def LogRec.va (r : LogRec) : Nat := r.gran.toNat * 16

/-- Byte `j` of a record's granule. -/
def LogRec.byte (r : LogRec) (j : Nat) : Byte := r.data.extractLsb' (8 * j) 8

/-- The bytes that a record masks. -/
def LogRec.masked (r : LogRec) : List Nat := (List.range 16).filter fun j => r.mask.getLsbD j

/-- Bytes of `m` taken from `d`, the others from `o`. -/
def maskMerge (o d : BitVec 128) (m : BitVec 16) : BitVec 128 :=
  (List.range 16).foldl (fun v j =>
    if m.getLsbD j then (v &&& ~~~((0xFF : BitVec 128) <<< (8 * j))) ||| (d &&& ((0xFF : BitVec 128) <<< (8 * j))) else v) o

/-- A record on an ordinary page, which may be applied later than its tick (R135). -/
def LogRec.mayLag (r : LogRec) : Bool := match r.homed with | some h => !h.mca && !h.repl | none => false

/-- A record on a page with replicas. -/
def LogRec.onRepl (r : LogRec) : Bool := match r.homed with | some h => h.repl | none => false

/-- The G-die of a record. -/
def LogRec.gdie (r : LogRec) : Nat := match r.homed with | some h => Machine.gdie h.pa | none => 0

/-- A byte of home memory that a record covers. -/
def LogRec.covers (r : LogRec) (key : Nat) : Bool :=
  match r.homed with | some h => h.pa == key / 16 * 16 && r.mask.getLsbD (key % 16) | none => false

/-- A byte of home memory that a publication covers. -/
def Publication.covers (p : Publication) (key : Nat) : Bool := p.records.any (·.covers key)

/-- The pages with replicas that records are on. -/
def replPages (rs : List LogRec) : List Nat :=
  rs.filterMap fun r => match r.homed with
    | some h => if h.repl then some (h.pa >>> (16 + pageShift h.size)) else none
    | none => none

/-- The G-dies of records on ordinary pages. -/
def lagMask (rs : List LogRec) : BitVec 4 :=
  rs.foldl (fun m r => if r.mayLag then m ||| BitVec.twoPow 4 r.gdie else m) 0

/-- The state with a publication changed. -/
def State.updPub (s : State) (id : Nat) (f : Publication → Publication) : State :=
  { s with pubs := s.pubs.map fun p => if p.id = id then f p else p }

/-- Publish order (R135): application tick, system class first, source, then the order in which the source made them. -/
def Publication.before (p q : Publication) : Bool :=
  let a := p.app.getD 0
  let b := q.app.getD 0
  decide (a < b) || (a == b && ((p.sys && !q.sys) || (p.sys == q.sys &&
    (decide (p.source < q.source) || (p.source == q.source && decide (p.id < q.id))))))

/-- A publication put into publish order. -/
def insertPub (p : Publication) : List Publication → List Publication
  | [] => [p]
  | q :: qs => if p.before q then p :: q :: qs else q :: insertPub p qs

/-- Publications in publish order. -/
def sortPubs : List Publication → List Publication
  | [] => []
  | p :: ps => insertPub p (sortPubs ps)

/-! ## Bytes of a view (R130) -/

/-- The first place in publish order that home memory at a key does not hold yet: an ordinary page may lag (R135). -/
def State.homeOrd (s : State) (key : Nat) (exact_ : Bool) : Nat :=
  if exact_ then s.applied
  else (s.pubs.filter fun p => p.applied && p.lagG.getLsbD (gdie key)).foldl (fun n p => min n p.ord) s.applied

/-- The byte that a view holds at a place, if it is a copy of that byte of home memory (R174). -/
def Cluster.viewByte (x : Cluster) (v key : Nat) : Option ViewByte := (PMap.find? x.view v).filter fun b => b.key == key

/-- The newest of some copies of a byte. -/
def newest (l : List ViewByte) (b : ViewByte) : ViewByte := l.foldl (fun b c => if b.ord < c.ord then c else b) b

/-- The copies that a view holds of a byte of home memory, at whichever address and in whichever address space. -/
def Cluster.copies (x : Cluster) (key : Nat) : List ViewByte := x.view.vals.filter fun b => b.key == key

/-- A view with the line of an address filled from home memory (R130): `key` is the line's first byte at home. A byte that the view holds
newer, at another address, stays as new (R130, R154). -/
def State.refill (s : State) (k : Nat) (v key size : Nat) (exact_ : Bool) : State :=
  let ord := s.homeOrd key exact_
  let x := s.cluster k
  let line := v / 64 * 64
  s.setCluster k { x with view := (List.range 64).foldl (fun m j =>
    PMap.put m (line + j)
      { newest (x.copies (key + j)) ⟨s.home.read (key + j), ord, key + j, size⟩ with size := size }) x.view }

/-- What a view holds of a line of home memory and is older than a publication leaves it. -/
def Cluster.dropOlder (x : Cluster) (key ord : Nat) : Cluster :=
  { x with view := x.view.filter fun (_, b) => !(b.key / 64 == key / 64 && decide (b.ord ≤ ord)) }

/-! ## Application at homes and replicas (R135, R136, R329) -/

/-- Poison marks after a write record of a window covers bytes of a line: the mark goes once all 64 are covered (R329). -/
def State.coverPoison (s : State) (key : Nat) (mask : BitVec 16) (window : Nat) : State :=
  let line := key / 64 * 64
  if !s.poison.contains line then s
  else
    let old := match s.cover.find? fun (l, w, _) => l == line && w == window with | some (_, _, m) => m | none => 0
    let m : BitVec 64 := old ||| (mask.setWidth 64 <<< (key % 64))
    let rest := s.cover.filter fun (l, _, _) => l != line
    if m = BitVec.allOnes 64 then
      { s with poison := s.poison.filter fun l => l != line, tagged := s.tagged.filter fun l => l != line,
               latent := s.latent.filter fun (l, _) => l != line, cover := rest }
    else { s with cover := (line, window, m) :: rest }

/-- A record applied to the bytes at a key (R135; kind 3 is the INT32 add of a drain, R243); an accumulate on a poisoned line is discarded
and logged (R329). -/
def State.applyAt (s : State) (key window : Nat) (r : LogRec) : State :=
  if r.kind = 0 then
    ({ s with home := r.masked.foldl (fun m j => m.write (key + j) (r.byte j)) s.home } : State).coverPoison key r.mask window
  else if s.poison.contains (key / 64 * 64) then s.rasAdd 9 (memUnit (key % 2 ^ 41)) (memPlace (key % 2 ^ 41))
  else
    let o := r.masked.headD 0
    if r.kind = 1 then
      { s with home := s.home.writeLE (key + o) 8 (s.home.readLE (key + o) 8 64 + r.data.extractLsb' (8 * o) 64) }
    else if r.kind = 3 then
      { s with home := s.home.writeLE (key + o) 4 (s.home.readLE (key + o) 4 32 + r.data.extractLsb' (8 * o) 32) }
    else
      { s with home := s.home.writeLE (key + o) 4 (addF32 (s.home.readLE (key + o) 4 32) (r.data.extractLsb' (8 * o) 32)) }

/-- Publications whose ordinary pages lag, in publish order. -/
def State.laggingHome (s : State) : List Publication := sortPubs (s.pubs.filter fun p => p.applied && p.lagG != 0)

/-- Home memory as it is once it has caught up with everything in publish order up to a place (R135). -/
def State.homeAfter (s : State) (ord : Nat) : Mem :=
  let lag := s.laggingHome.filter fun p => decide (p.ord ≤ ord)
  (lag.foldl (fun s p => p.records.foldl (fun s r => match r.homed with
    | some h => if r.mayLag then s.applyAt h.pa (p.app.getD 0) r else s
    | none => s) s) s).home

/-- A record replayed into a view (R130, R137): into every copy of its masked bytes that does not hold the publication yet, at whichever
address. A write stores its byte; an accumulate sets its word to what home memory holds once it has the publication (log 13), and a word in
a poisoned line leaves. A byte that the view lacks is brought in, at the writer's address, while home memory lags; else the next load
refills it (log 77). -/
def State.replayRec (s : State) (k ord : Nat) (r : LogRec) : State :=
  match r.homed with
  | none => s
  | some h =>
    let v := viewKey (s.asidOf r.ctx) r.va
    let x := s.cluster k
    let now := s.homeOrd h.pa (h.mca || h.repl)
    let behind := decide (now ≤ ord)
    let home := if r.kind != 0 && behind then s.homeAfter ord else s.home
    let new (j size : Nat) : ViewByte :=
      if r.kind = 0 then ⟨r.byte j, ord + 1, h.pa + j, size⟩ else ⟨home.read (h.pa + j), if behind then ord + 1 else now, h.pa + j, size⟩
    let hits (b : ViewByte) : Bool :=
      decide (h.pa ≤ b.key) && decide (b.key < h.pa + 16) && r.mask.getLsbD (b.key - h.pa) && decide (b.ord ≤ ord + 1)
    let bad := r.kind != 0 && s.poison.contains (h.pa / 64 * 64)
    let put (m : PMap ViewByte) (j : Nat) : PMap ViewByte :=
      if (x.copies (h.pa + j)).isEmpty && behind && !bad then PMap.put m (v + j) (new j h.size) else m
    let old := if bad then PMap.keep (fun b => !hits b) x.view
      else PMap.mapVal (fun _ b => if hits b then new (b.key - h.pa) b.size else b) x.view
    s.setCluster k { x with view := r.masked.foldl put old }

/-- A record applied at its home copy; of an SSTP's line the issuing cluster's view keeps nothing older (R129). -/
def State.applyHome (s : State) (p : Publication) (r : LogRec) : State :=
  match r.homed with
  | none => s
  | some h =>
    let s := s.applyAt h.pa (p.app.getD 0) r
    let k := clusterOf p.core
    if !p.engine && p.drops && decide (p.core < 2048) then s.setCluster k ((s.cluster k).dropOlder h.pa p.ord) else s

/-- A record of a REL taken into the issuing cluster's view (R133). -/
def State.takeIn (s : State) (p : Publication) (r : LogRec) : State :=
  if p.engine || p.drops || decide (2048 ≤ p.core) then s else s.replayRec (clusterOf p.core) p.ord r

/-- A record applied to the replica of a die (R136). -/
def State.applyReplica (s : State) (d window : Nat) (r : LogRec) : State :=
  match r.homed with
  | some h => if h.repl then s.applyAt (s.replicaKey d h.pa) window r else s
  | none => s

/-! ## What lags, and catching up (R135, R153, R158)

The ordinary pages of one publication lag together, and its pages with replicas lag together at each die: a load never finds one part
of it there and misses another (R158). A home, and the replica of a page, take publications in publish order. -/

/-- A publication's ordinary pages catch up. -/
def State.catchUp (s : State) (p : Publication) : State :=
  p.records.foldl (fun s r => if r.mayLag then s.applyHome p r else s) (s.updPub p.id fun q => { q with lagG := 0 })

/-- A publication's replicas at a die catch up. -/
def State.catchUpAt (s : State) (d : Nat) (p : Publication) : State :=
  (p.records.foldl (fun s r => s.applyReplica d (p.app.getD 0) r) s).updPub p.id fun q =>
    { q with lagD := q.lagD &&& ~~~BitVec.twoPow 8 d }

/-- Publications whose replicas at a die lag, in publish order. -/
def State.laggingAt (s : State) (d : Nat) : List Publication := sortPubs (s.pubs.filter fun p => p.applied && p.lagD.getLsbD d)

/-- Two publications meet at a home of ordinary pages. -/
def meetHome (p q : Publication) : Bool := lagMask p.records &&& lagMask q.records != 0

/-- Two publications meet at a page with replicas. -/
def meetPage (p q : Publication) : Bool := (replPages p.records).any (replPages q.records).contains

/-- Of publications in publish order, those that a condition names and what must come before them. -/
def withEarlier (meet : Publication → Publication → Bool) (want : Publication → Bool) (l : List Publication) : List Publication :=
  l.foldr (fun p acc => if want p || acc.any (meet p) then p :: acc else acc) []

/-- Of publications in publish order, those that a condition names as far as none stays behind that must come before them. -/
def withoutLater (meet : Publication → Publication → Bool) (may : Publication → Bool) (l : List Publication) : List Publication :=
  (l.foldl (fun (go, stay) p => if may p && !stay.any (meet p) then (go ++ [p], stay) else (go, stay ++ [p])) ([], [])).1

/-- The homes catch up with the publications that a condition names. -/
def State.settleHomes (s : State) (want : Publication → Bool) : State :=
  (withEarlier meetHome want s.laggingHome).foldl State.catchUp s

/-- A die's replicas catch up with the publications that a condition names. -/
def State.settleReplicas (s : State) (d : Nat) (want : Publication → Bool) : State :=
  (withEarlier meetPage want (s.laggingAt d)).foldl (State.catchUpAt · d) s

/-- Homes and replicas catch up with the publications that a condition names. -/
def State.settlePubs (s : State) (want : Publication → Bool) : State :=
  (List.range 8).foldl (fun s d => s.settleReplicas d want) (s.settleHomes want)

/-- A load has read bytes of publications of several records, which a condition names: no part of them may be missed any longer (R158). -/
def State.shown (s : State) (saw : Publication → Bool) : State := s.settlePubs fun p => decide (2 ≤ p.records.length) && saw p

/-- View bytes that a condition names leave a cluster's view. Homes first catch up with what those bytes hold already: a refill does not go
back (R130, R154, R155). -/
def State.dropView (s : State) (k : Nat) (gone : Nat → ViewByte → Bool) : State :=
  let held := (s.cluster k).view.filter fun (a, b) => gone a b
  let s := s.settleHomes fun p => held.any fun (_, b) => decide (p.ord < b.ord) && p.covers b.key
  let x := s.cluster k
  s.setCluster k { x with view := x.view.filter fun (a, b) => !gone a b }

/-- The lines of a view. -/
def Cluster.viewLines (x : Cluster) : List Nat := (x.view.map fun (a, _) => a / 64).dedup

/-- Lines of a cluster's view cache: 2 MiB (R12). -/
def viewCapacity : Nat := 32768

/-- A line leaves a view: which one is a free choice (log 78). -/
def State.evict (s : State) (k n : Nat) : State :=
  let l := (s.cluster k).viewLines
  let line := (l[s.freeNat (16 + n) % l.length]?).getD 0
  s.dropView k fun a _ => a / 64 == line

/-- A view with no more lines than its cache has room for (R12). -/
def State.trimView (s : State) (k : Nat) : State :=
  (List.range ((s.cluster k).viewLines.length - viewCapacity)).foldl (fun s n => s.evict k n) s

/-- A line leaves a cluster's view as time passes, or none does: a free choice (R159; log 78). -/
def State.viewsMove (s : State) : State :=
  s.clusters.foldl (fun s (k, x) =>
    if x.view.isEmpty || !(s.freeWord (2 ^ 41 + k)).getLsbD 0 then s else s.evict k (2 ^ 41 + k)) s

/-- The dies whose replicas are still to be applied. -/
def State.replicaMask (s : State) (rs : List LogRec) : BitVec 8 :=
  if rs.any LogRec.onRepl then
    (List.range 8).foldl (fun m d => if s.replicaIsHome d then m else m ||| BitVec.twoPow 8 d) 0
  else 0

/-- An engine publication (R157): every home and replica applies it, after what it meets there, and every view drops its lines of the
pages, at whichever address. -/
def State.applyEngine (s : State) (p : Publication) : State :=
  let s := s.settleHomes (meetHome p)
  let s := (List.range 8).foldl (fun s d => s.settleReplicas d (meetPage p)) s
  let onPage (_ : Nat) (b : ViewByte) : Bool := p.records.any fun r => match r.homed with
    | some h => b.key >>> (16 + pageShift h.size) == h.pa >>> (16 + pageShift h.size)
    | none => false
  let s := s.clusters.foldl (fun t (k, _) => t.dropView k onPage) s
  p.records.foldl (fun s r =>
    let s := s.applyHome p r
    (List.range 8).foldl (fun s d => if s.replicaIsHome d then s else s.applyReplica d (p.app.getD 0) r) s) s

/-- The object of a publication at its application (R134): pseq and ptick advance. -/
def State.advanceObj (s : State) (p : Publication) (a : Nat) : State × Nat :=
  let n := s.home.readLE (a + 16) 8 64 + 1
  ({ s with home := (s.home.writeLE (a + 16) 8 n).writeLE (a + 24) 8 (BitVec.ofNat 64 (p.app.getD 0)) }, n.toNat)

/-- A publication applied at its tick (R134, R135): its object's pseq and ptick advance. Its ordinary pages lag if the mask names one of
their G-dies, or an earlier publication lags there. The view of the cluster of a REL takes its records in at the tick, those for a home that
lags too (R133; log 57). -/
def State.applyPub (s : State) (lag : BitVec 4) (p : Publication) : State :=
  let p := { p with applied := true, ord := s.applied }
  let s : State := { s with applied := s.applied + 1 }
  let (s, n) : State × Nat := match p.obj with
    | some a => s.advanceObj p a
    | none => (s, 0)
  if p.engine then (s.applyEngine p).updPub p.id fun q => { q with applied := true, ord := p.ord, index := n }
  else
    let lagG := if lag &&& lagMask p.records != 0 || s.laggingHome.any (meetHome p) then lagMask p.records else 0
    let s := s.updPub p.id fun q =>
      { q with applied := true, ord := p.ord, index := n, lagG := lagG, lagD := s.replicaMask p.records }
    let s := if p.drops && decide (p.core < 2048) then
        p.records.foldl (fun s r => s.dropView (clusterOf p.core) fun _ b => r.homed.any fun h => b.key / 64 == h.pa / 64) s
      else s
    p.records.foldl (fun s r => (if r.mayLag && lagG != 0 then s else s.applyHome p r).takeIn p r) s

end Sys2Proof.Machine
end

