-- ==== Sys2Proof/Machine/Contain.lean ====
section
/-!
DEFINITION. Containment (R333–R335): the map of a die, and what a consumed error resets, with what R147, R193, R263, R284
and R325 let survive.
-/

namespace Sys2Proof.Machine

open Sys2Proof

/-! ## The map (R333) -/

/-- A map covers each of the die's 256 cores exactly once (R333). A rectangle that runs past the die's edge covers what of it lies inside
(DESIGN CHOICE, log 89: R39 says that no rectangle does, and nothing says what becomes of one). -/
def mapOk (l : List W64) : Bool :=
  (List.range 256).all fun c => (l.filter fun w => (rectOf w).covers c).length == 1

/-! ## Snapshot events anywhere on the device (R336) -/

/-- An event code that some resident context has armed fires the trigger. -/
def State.deviceEvent (s : State) (code : BitVec 8) : State :=
  s.snapEvent (s.cores.any fun (_, k) => [k.run, k.shadow].any fun x => x.resident && x.snapArm && x.snapEvent == code)

/-! ## What a reset does (R334) -/

/-- Copies of a cluster whose base core stays in service (R193): queued transfers of the rectangle's cores are discarded. Those that still
move, or whose shadow has no publication with a slot (R158), complete with LOST; deferred shadows are discarded. -/
def Cluster.loseCopies (x : Cluster) (inside : Nat → Bool) (held : Nat → Bool) : Cluster :=
  let lost (t : Transfer) : Bool := inside t.core && match t.state with
    | .queued => false
    | .running => true
    | .done n => t.dsh && decide (n ≤ 1) && !(match t.pub with | some id => held id | none => false)
  let lose (l : List Transfer) : List Transfer :=
    (l.filter fun t => !(inside t.core && t.state == .queued)).map fun t =>
      if lost t then
        { t with state := .done 6, pub := none, shadow := [], got := [], seen := [], moved := if t.dsh then 0 else t.moved }
      else t
  { x with
    channels := x.channels.map fun c =>
      { c with
        queue := lose c.queue
        chain := match c.chain with | some h => if inside h.core then none else some h | none => none }
    loader := x.loader.map fun t => if lost t || (inside t.core && t.state == .queued) then { t with state := .done 6 } else t
    deferred := x.deferred.filter fun d => !inside d.core
    lockLine := x.lockLine.filter fun w => !inside w.core
    mxGranted := x.mxGranted.filter fun g => !inside g.core
    rkRunning := x.rkRunning.filter fun r => !inside r.core
    misses := x.misses.filter fun m => match m.user with | .core c => !inside c | .copy => true }

/-- Ranking commands discarded with their unit write reason 3 and count 0 for a core outside the rectangle (R263). -/
def State.loseRank (s : State) (k : Nat) (inside : Nat → Bool) : State :=
  let lost (s : State) (c : Nat) (e : RkEntry) : State :=
    if inside c then s else s.deliverTo c e.launch e.thr e.inc e.rd (3 <<< 56)
  let s := (s.cluster k).rkRunning.foldl (fun s r => lost s r.core r.entry) s
  (coresOfCluster k).foldl (fun s c =>
    let s := (s.core c).rq.foldl (fun s e => lost s c e) s
    s.setCore c { s.core c with rq := [] }) s

/-- Runs of the rectangle's cores end with LOST, their queued commands are discarded (R284). -/
def Ae.lose (e : Ae) (inside : Nat → Bool) : Ae :=
  { e with
    queue := e.queue.filter fun q => !inside q.core
    slots := e.slots.mapVal fun _ x =>
      if x.state == 1 && inside x.core then { x with state := 0, reason := 7, results := [], prices := [], holders := [] }
      else x }

/-- The commands that an engine discards write reason 7 and count 0 (R274, R284), and an AESTAT its slot's run word, into contexts that
outlive the reset because they are streamed out (R334). -/
def State.loseAe (s : State) (d : Nat) (inside : Nat → Bool) : State :=
  let e := (s.die d).ae.lose inside
  let s := (s.die d).ae.queue.foldl (fun s q =>
    if inside q.core then s.deliverTo q.core q.launch q.thr q.inc q.rd (match q.cmd with | .stat n => (e.slot n).runWord | _ => 7 <<< 56)
    else s) s
  s.setDie d { s.die d with ae := e }

/-- A fence status that finds records lost (R147). -/
def FenceStatus.lose (f : FenceStatus) (rs : List LogRec) : FenceStatus :=
  { rs.foldl (fun f r => f.fail (BitVec.ofNat 64 (r.gran.toNat * 16)) false false 1) f with lost := true }

/-- The contexts of a core that are streamed out: their next FENCE finds the records lost whose publication holds no slot
(R147). -/
def State.countLost (s : State) (c : Nat) : State :=
  let gone (launch : Nat) : List LogRec := (s.core c).log.filter fun r =>
    r.launch == launch && match r.pub with
      | none => true
      | some id => s.pubs.any fun p => p.id == id && p.app.isNone
  { s with saved := s.saved.map fun a =>
      if a.core == c then { a with ctx := { a.ctx with fence := a.ctx.fence.lose (gone a.ctx.launch) } } else a }

/-- Whether a launch ends with FAULT (R334): it has a context resident on a core of the rectangle, or region data held in
the ULM of one. -/
def State.dooms (s : State) (inside : Nat → Bool) (launch : Nat) : Bool :=
  (s.cores.any fun (c, k) => inside c && (k.run.of launch || k.shadow.of launch)) ||
    s.saved.any fun a => inside a.core && a.ctx.of launch && a.region.isNone

/-- Responses on their way to cores, to loads, to operations of the SYNC group, and to remote writes and messages that have arrived. -/
def State.responsesTo (s : State) (inside : Nat → Bool) : Nat :=
  let syncs (x : Ctx) : Nat := ((List.finRange 11).filter fun n => match (x.thread n).stall with
    | some ⟨_, _, .sync _ _ _⟩ => true
    | _ => false).length
  (s.loads.filter fun l => inside l.core).length + (s.locals.filter fun l => inside l.core).length +
    (s.packets.filter fun p => inside p.core && p.state != .flying).length +
    (s.cores.map fun (c, k) => if inside c then syncs k.run + syncs k.shadow else 0).sum

/-- A thread of a context that is streamed out, whose remote write or message will get no answer: it executes the instruction again when its
context resumes (R75, R334; log 35). -/
def Thread.dropPacket (t : Thread) : Thread :=
  match t.stall with
  | some ⟨_, _, .packet⟩ => { t with stall := none }
  | _ => t

/-- The reset of a rectangle of a die (R334): the cores inside reset together; with its base core a cluster's units. Responses on their
way to its cores are dropped and counted in stale; what its cores have sent goes on, and its answer is dropped when it comes. -/
def State.resetRect (s : State) (d : Nat) (r : Rect) : State :=
  let inside (c : Nat) : Bool := dieOf c == d && r.covers c
  let cores := (List.range 256).map (fun n => d * 256 + n) |>.filter inside
  let s := cores.foldl State.countLost s
  let s : State := { s with launches := s.launches.mapVal fun n l => if s.dooms inside n then { l with doomed := true } else l }
  let held (id : Nat) : Bool := !(s.pubs.any fun p => p.id == id && p.app.isNone)
  let gone := s.responsesTo inside
  let ends (i : Instance) : Bool := inside i.core && i.status.isNone && !i.pub.any held
  let s : State := { s with
    loads := s.loads.filter fun l => !inside l.core
    locals := s.locals.filter fun l => !inside l.core
    packets := (s.packets.filter fun p => !inside p.core || p.state == .flying).map fun p => if inside p.core then { p with lost := true } else p
    saved := s.saved.map fun a => if inside a.core then { a with ctx := a.ctx.mapThreads Thread.dropPacket } else a
    pubs := s.pubs.filter fun p =>
      let copy := decide (2048 ≤ p.source) && decide (p.source < 2304)
      let comm := decide (2320 ≤ p.source) && decide (p.source < 2346)
      !(p.app.isNone && ((inside p.core && (!p.engine || copy || comm)) || (copy && inside (baseCore (p.source - 2048)))))
    instances := s.instances.map fun i => if ends i then { i with status := some 8 } else i
    chunks := s.chunks.filter fun c => !(s.instances.any fun i => ends i && i.grp == c.grp && i.inst == c.inst) }
  let s := (s.loseAe d inside).setDie d { (s.loseAe d inside).die d with
    stale := BitVec.ofNat 24 (min (2 ^ 24 - 1) ((s.die d).stale.toNat + gone)) }
  let s := ((List.range 32).map fun n => d * 32 + n).foldl (fun s k =>
    if inside (baseCore k) then
      let s := s.dropView k fun _ _ => true
      ((s.cluster k).loader.foldl (fun s t => s.updLaunch t.launch fun l => { l with status := max l.status 5 })
        (s.loseRank k inside)).setCluster k Cluster.reset
    else s.setCluster k ((s.cluster k).loseCopies inside held)) s
  let start := (s.die d).resetEnd
  cores.foldl (fun s c =>
    if start = 0 then { s with cores := s.cores.del c } else s.setCore c { Core.reset with cyc := BitVec.ofNat 64 start }) s

/-- The RAS place of a local error: an OPM address (R330). -/
def opmPlace (c t off : Nat) : BitVec 44 := BitVec.ofNat 12 c ++ BitVec.ofNat 4 t ++ BitVec.ofNat 28 off

/-- An error is consumed on behalf of a core (R329, R334): its rectangle is reset and a kind-8 entry follows; further errors
in a rectangle that is being reset join that reset. The entry's unit is the rectangle's corner core, and its place that core's first byte of ULM
(DESIGN CHOICE, log 99). -/
def State.consume (s : State) (c : Nat) : State :=
  let d := dieOf c
  let (n, r) := s.rectAt c
  let s := s.deviceEvent 0x20
  if (s.die d).resetting.any fun (m, _) => m == n then s
  else
    let s := s.deviceEvent 0x21
    let corner := coreAt d r.row r.col
    let s := s.rasAdd 8 (BitVec.ofNat 12 corner) (opmPlace corner 0 0)
    let s := s.resetRect d r
    s.setDie d { s.die d with resetting := (s.die d).resetting ++ [(n, s.now)] }

/-- A read meets a poisoned line of home memory: logged with kind 5, or 6 where the line's tag has failed (R331). -/
def State.logLine (s : State) (pa : Nat) : State :=
  s.rasAdd (if s.tagged.contains (pa / 64 * 64) then 6 else 5) (memUnit pa) (memPlace pa)

/-- A read of home memory by or for a core meets a poisoned line (R329): it is logged, and the error is consumed. -/
def State.consumeLine (s : State) (c pa : Nat) : State := (s.logLine pa).consume c

end Sys2Proof.Machine
end

