-- ==== Sys2Proof/Machine/Rv64.lean ====
section
/-!
DEFINITION. The machine that runs walk routines (R168): RV64I with M, C, Zba and Zbb, PRESUMED from the RISC-V unprivileged
ISA that R168 names (log 8), over the address map of R168.
-/

namespace Sys2Proof.Machine

open Sys2Proof

/-- A register; x0 reads 0. -/
def Rv.x (m : Rv) (r : Nat) : W64 := if r = 0 then 0 else (m.regs[r]?).getD 0

/-- The machine with a register written. -/
def Rv.setX (m : Rv) (r : Nat) (v : W64) : Rv := if r = 0 then m else { m with regs := m.regs.set r v }

/-- A register written, and the program counter moved on. -/
def Rv.put (m : Rv) (r : Nat) (v next : W64) : Rv := { m.setX r v with pc := next }

/-- What an instruction of a routine comes to. -/
inductive RvStep where
  | next (m : Rv)
  | ended (m : Rv)
  | error
  | consumed (key : Nat)

/-! ## Memory (R168) -/

/-- A load of `n` bytes. -/
inductive RvLoad where
  | val (v : W64) (table : Bool)
  | error
  | consumed (key : Nat)

/-- A load of `n` bytes from the map of R168. Home memory at a reserved physical address (R164) reads like any other (DESIGN CHOICE, log 91:
R168 does not say that such a load is a walk error). -/
def rvLoad (s : State) (m : Rv) (a n : Nat) : RvLoad :=
  if a % n ≠ 0 then .error
  else if a + n ≤ 0x10000 then .val (s.walkStore.readLE a n 64) false
  else if 0x10000 ≤ a ∧ a + n ≤ 0x11000 then .val (m.scratch.readLE (a - 0x10000) n 64) false
  else if n = 8 ∧ 2 ^ 44 ≤ a ∧ a < 2 ^ 44 + 4608 * 2 ^ 41 then
    let key := a - 2 ^ 44
    if s.poisonedIn key 8 then .consumed (key / 64 * 64) else .val (s.home.readLE key 8 64) true
  else .error

/-- A store of `n` bytes. -/
def rvStore (m : Rv) (a n : Nat) (v : W64) : Option Rv :=
  if a % n ≠ 0 ∨ a < 0x10000 ∨ 0x11000 < a + n then none
  else some { m with scratch := m.scratch.writeLE (a - 0x10000) n v }

/-! ## Instruction fields -/

/-- Bits `[hi:lo]` as a number. -/
def fld (w : W32) (lo n : Nat) : Nat := (w.extractLsb' lo n).toNat

/-- The I immediate. -/
def immI (w : W32) : W64 := sx (w.extractLsb' 20 12)
/-- The S immediate. -/
def immS (w : W32) : W64 := sx (w.extractLsb' 25 7 ++ w.extractLsb' 7 5)
/-- The B immediate. -/
def immB (w : W32) : W64 :=
  sx (w.extractLsb' 31 1 ++ w.extractLsb' 7 1 ++ w.extractLsb' 25 6 ++ w.extractLsb' 8 4 ++ (0 : BitVec 1))
/-- The U immediate. -/
def immU (w : W32) : W64 := sx (w.extractLsb' 12 20 ++ (0 : BitVec 12))
/-- The J immediate. -/
def immJ (w : W32) : W64 :=
  sx (w.extractLsb' 31 1 ++ w.extractLsb' 12 8 ++ w.extractLsb' 20 1 ++ w.extractLsb' 21 10 ++ (0 : BitVec 1))

/-! ## Arithmetic -/

/-- A 32-bit result sign-extended. -/
def rvW (v : W32) : W64 := sx v

/-- Division of RISC-V: by 0 gives all ones, and the overflow gives the dividend. -/
def rvDiv {w : Nat} (a b : BitVec w) : BitVec w := if b = 0 then BitVec.allOnes w else BitVec.ofInt w (a.toInt.tdiv b.toInt)
/-- Unsigned division. -/
def rvDivu {w : Nat} (a b : BitVec w) : BitVec w := if b = 0 then BitVec.allOnes w else BitVec.ofNat w (a.toNat / b.toNat)
/-- Remainder. -/
def rvRem {w : Nat} (a b : BitVec w) : BitVec w := if b = 0 then a else BitVec.ofInt w (a.toInt.tmod b.toInt)
/-- Unsigned remainder. -/
def rvRemu {w : Nat} (a b : BitVec w) : BitVec w := if b = 0 then a else BitVec.ofNat w (a.toNat % b.toNat)

/-- Leading zeros. -/
def rvClz {w : Nat} (a : BitVec w) : Nat := if a = 0 then w else w - 1 - Nat.log2 a.toNat
/-- Trailing zeros. -/
def rvCtz {w : Nat} (a : BitVec w) : Nat := ((List.range w).find? fun j => a.getLsbD j).getD w
/-- Bits set. -/
def rvPop {w : Nat} (a : BitVec w) : Nat := ((List.range w).filter fun j => a.getLsbD j).length

/-- orc.b: each byte that is not 0 becomes all ones. -/
def rvOrcb (a : W64) : W64 :=
  (List.range 8).foldl (fun v j => if a.extractLsb' (8 * j) 8 = 0 then v else v ||| ((0xFF : W64) <<< (8 * j))) 0
/-- rev8: the bytes reversed. -/
def rvRev8 (a : W64) : W64 :=
  (List.range 8).foldl (fun v j => v ||| ((a.extractLsb' (8 * j) 8).setWidth 64 <<< (56 - 8 * j))) 0

/-- OP: register-register operations of 64 bits. -/
def rvOp (f7 f3 : Nat) (a b : W64) : Option W64 :=
  let sh := b.toNat % 64
  match f7, f3 with
  | 0x00, 0 => some (a + b)
  | 0x20, 0 => some (a - b)
  | 0x00, 1 => some (a <<< sh)
  | 0x00, 2 => some (if a.toInt < b.toInt then 1 else 0)
  | 0x00, 3 => some (if a.toNat < b.toNat then 1 else 0)
  | 0x00, 4 => some (a ^^^ b)
  | 0x00, 5 => some (a >>> sh)
  | 0x20, 5 => some (a.sshiftRight sh)
  | 0x00, 6 => some (a ||| b)
  | 0x00, 7 => some (a &&& b)
  | 0x01, 0 => some (a * b)
  | 0x01, 1 => some (BitVec.ofInt 64 (a.toInt * b.toInt / 2 ^ 64))
  | 0x01, 2 => some (BitVec.ofInt 64 (a.toInt * b.toNat / 2 ^ 64))
  | 0x01, 3 => some (BitVec.ofNat 64 (a.toNat * b.toNat / 2 ^ 64))
  | 0x01, 4 => some (rvDiv a b)
  | 0x01, 5 => some (rvDivu a b)
  | 0x01, 6 => some (rvRem a b)
  | 0x01, 7 => some (rvRemu a b)
  | 0x10, 2 => some (b + (a <<< 1))
  | 0x10, 4 => some (b + (a <<< 2))
  | 0x10, 6 => some (b + (a <<< 3))
  | 0x20, 4 => some (~~~(a ^^^ b))
  | 0x20, 6 => some (a ||| ~~~b)
  | 0x20, 7 => some (a &&& ~~~b)
  | 0x05, 4 => some (if a.toInt < b.toInt then a else b)
  | 0x05, 5 => some (if a.toNat < b.toNat then a else b)
  | 0x05, 6 => some (if a.toInt < b.toInt then b else a)
  | 0x05, 7 => some (if a.toNat < b.toNat then b else a)
  | 0x30, 1 => some (a.rotateLeft sh)
  | 0x30, 5 => some (a.rotateRight sh)
  | _, _ => none

/-- OP-32: operations on words; `rs2` is the register field, for zext.h. -/
def rvOp32 (f7 f3 rs2 : Nat) (a b : W64) : Option W64 :=
  let (x, y) := ((a.setWidth 32 : W32), (b.setWidth 32 : W32))
  let sh := b.toNat % 32
  match f7, f3 with
  | 0x00, 0 => some (rvW (x + y))
  | 0x20, 0 => some (rvW (x - y))
  | 0x00, 1 => some (rvW (x <<< sh))
  | 0x00, 5 => some (rvW (x >>> sh))
  | 0x20, 5 => some (rvW (x.sshiftRight sh))
  | 0x01, 0 => some (rvW (x * y))
  | 0x01, 4 => some (rvW (rvDiv x y))
  | 0x01, 5 => some (rvW (rvDivu x y))
  | 0x01, 6 => some (rvW (rvRem x y))
  | 0x01, 7 => some (rvW (rvRemu x y))
  | 0x04, 0 => some (b + x.setWidth 64)
  | 0x10, 2 => some (b + (x.setWidth 64 <<< 1))
  | 0x10, 4 => some (b + (x.setWidth 64 <<< 2))
  | 0x10, 6 => some (b + (x.setWidth 64 <<< 3))
  | 0x04, 4 => if rs2 = 0 then some ((a.setWidth 16 : BitVec 16).setWidth 64) else none
  | 0x30, 1 => some (rvW (x.rotateLeft sh))
  | 0x30, 5 => some (rvW (x.rotateRight sh))
  | _, _ => none

/-- OP-IMM. -/
def rvImm (w : W32) (a : W64) : Option W64 :=
  let i := immI w
  let sh := fld w 20 6
  match fld w 12 3 with
  | 0 => some (a + i)
  | 2 => some (if a.toInt < i.toInt then 1 else 0)
  | 3 => some (if a.toNat < i.toNat then 1 else 0)
  | 4 => some (a ^^^ i)
  | 6 => some (a ||| i)
  | 7 => some (a &&& i)
  | 1 =>
    if fld w 26 6 = 0 then some (a <<< sh)
    else match fld w 20 12 with
      | 0x600 => some (BitVec.ofNat 64 (rvClz a))
      | 0x601 => some (BitVec.ofNat 64 (rvCtz a))
      | 0x602 => some (BitVec.ofNat 64 (rvPop a))
      | 0x604 => some (sx (a.setWidth 8 : Byte))
      | 0x605 => some (sx (a.setWidth 16 : BitVec 16))
      | _ => none
  | _ =>
    match fld w 26 6 with
    | 0x00 => some (a >>> sh)
    | 0x10 => some (a.sshiftRight sh)
    | 0x18 => some (a.rotateRight sh)
    | _ => match fld w 20 12 with
      | 0x287 => some (rvOrcb a)
      | 0x6B8 => some (rvRev8 a)
      | _ => none

/-- OP-IMM-32. -/
def rvImm32 (w : W32) (a : W64) : Option W64 :=
  let x : W32 := a.setWidth 32
  let sh := fld w 20 5
  match fld w 12 3, fld w 25 7 with
  | 0, _ => some (rvW (x + (immI w).setWidth 32))
  | 1, 0x00 => some (rvW (x <<< sh))
  | 1, 0x30 => match sh with
    | 0 => some (BitVec.ofNat 64 (rvClz x))
    | 1 => some (BitVec.ofNat 64 (rvCtz x))
    | 2 => some (BitVec.ofNat 64 (rvPop x))
    | _ => none
  | 1, 0x04 | 1, 0x05 => some (x.setWidth 64 <<< fld w 20 6)
  | 5, 0x00 => some (rvW (x >>> sh))
  | 5, 0x20 => some (rvW (x.sshiftRight sh))
  | 5, 0x30 => some (rvW (x.rotateRight sh))
  | _, _ => none

/-- A branch's condition. -/
def rvTaken (f3 : Nat) (a b : W64) : Option Bool :=
  match f3 with
  | 0 => some (a == b)
  | 1 => some (a != b)
  | 4 => some (decide (a.toInt < b.toInt))
  | 5 => some (!decide (a.toInt < b.toInt))
  | 6 => some (decide (a.toNat < b.toNat))
  | 7 => some (!decide (a.toNat < b.toNat))
  | _ => none

/-- A loaded value extended as the instruction says: width and signedness. -/
def rvExtend (f3 : Nat) (v : W64) : W64 :=
  match f3 with
  | 0 => sx (v.setWidth 8 : Byte)
  | 1 => sx (v.setWidth 16 : BitVec 16)
  | 2 => sx (v.setWidth 32 : W32)
  | _ => v

/-! ## Compressed instructions -/

/-- An I-type word. -/
def encI (op f3 rd rs : Nat) (imm : BitVec 12) : W32 :=
  imm ++ BitVec.ofNat 5 rs ++ BitVec.ofNat 3 f3 ++ BitVec.ofNat 5 rd ++ BitVec.ofNat 7 op
/-- An R-type word. -/
def encR (op f3 f7 rd rs1 rs2 : Nat) : W32 :=
  BitVec.ofNat 7 f7 ++ BitVec.ofNat 5 rs2 ++ BitVec.ofNat 5 rs1 ++ BitVec.ofNat 3 f3 ++ BitVec.ofNat 5 rd ++ BitVec.ofNat 7 op
/-- An S-type word. -/
def encS (f3 rs1 rs2 : Nat) (imm : BitVec 12) : W32 :=
  imm.extractLsb' 5 7 ++ BitVec.ofNat 5 rs2 ++ BitVec.ofNat 5 rs1 ++ BitVec.ofNat 3 f3 ++ imm.extractLsb' 0 5 ++ BitVec.ofNat 7 0x23
/-- A branch word. -/
def encB (f3 rs1 : Nat) (imm : BitVec 13) : W32 :=
  imm.extractLsb' 12 1 ++ imm.extractLsb' 5 6 ++ (0 : BitVec 5) ++ BitVec.ofNat 5 rs1 ++ BitVec.ofNat 3 f3 ++ imm.extractLsb' 1 4 ++
    imm.extractLsb' 11 1 ++ BitVec.ofNat 7 0x63
/-- A jump word with link register 0. -/
def encJ (imm : BitVec 21) : W32 :=
  imm.extractLsb' 20 1 ++ imm.extractLsb' 1 10 ++ imm.extractLsb' 11 1 ++ imm.extractLsb' 12 8 ++ (0 : BitVec 5) ++ BitVec.ofNat 7 0x6F

/-- Bits of a half-word. -/
def cbits (h : BitVec 16) (lo n : Nat) : BitVec n := h.extractLsb' lo n

/-- The 6-bit immediate of CI instructions. -/
def cImm6 (h : BitVec 16) : BitVec 6 := cbits h 12 1 ++ cbits h 2 5

/-- Quadrant 0. -/
def expand0 (h : BitVec 16) : Option W32 :=
  let rd := 8 + (cbits h 2 3).toNat
  let rs := 8 + (cbits h 7 3).toNat
  let w : BitVec 7 := cbits h 5 1 ++ cbits h 10 3 ++ cbits h 6 1 ++ (0 : BitVec 2)
  let d : BitVec 8 := cbits h 5 2 ++ cbits h 10 3 ++ (0 : BitVec 3)
  match (cbits h 13 3).toNat with
  | 0 =>
    let i : BitVec 10 := cbits h 7 4 ++ cbits h 11 2 ++ cbits h 5 1 ++ cbits h 6 1 ++ (0 : BitVec 2)
    if i = 0 then none else some (encI 0x13 0 rd 2 (i.setWidth 12))
  | 2 => some (encI 0x03 2 rd rs (w.setWidth 12))
  | 3 => some (encI 0x03 3 rd rs (d.setWidth 12))
  | 6 => some (encS 2 rs rd (w.setWidth 12))
  | 7 => some (encS 3 rs rd (d.setWidth 12))
  | _ => none

/-- Quadrant 1. -/
def expand1 (h : BitVec 16) : Option W32 :=
  let rd := (cbits h 7 5).toNat
  let rc := 8 + (cbits h 7 3).toNat
  let r2 := 8 + (cbits h 2 3).toNat
  let i := cImm6 h
  match (cbits h 13 3).toNat with
  | 0 => some (encI 0x13 0 rd rd (i.signExtend 12))
  | 1 => if rd = 0 then none else some (encI 0x1B 0 rd rd (i.signExtend 12))
  | 2 => some (encI 0x13 0 rd 0 (i.signExtend 12))
  | 3 =>
    if rd = 2 then
      let j : BitVec 10 := cbits h 12 1 ++ cbits h 3 2 ++ cbits h 5 1 ++ cbits h 2 1 ++ cbits h 6 1 ++ (0 : BitVec 4)
      if j = 0 then none else some (encI 0x13 0 2 2 (j.signExtend 12))
    else if i = 0 then none
    else some ((i.signExtend 20 : BitVec 20) ++ BitVec.ofNat 5 rd ++ BitVec.ofNat 7 0x37)
  | 4 =>
    match (cbits h 10 2).toNat with
    | 0 => some (encI 0x13 5 rc rc (i.setWidth 12))
    | 1 => some (encI 0x13 5 rc rc (i.setWidth 12 ||| 0x400))
    | 2 => some (encI 0x13 7 rc rc (i.signExtend 12))
    | _ =>
      match (cbits h 12 1).toNat, (cbits h 5 2).toNat with
      | 0, 0 => some (encR 0x33 0 0x20 rc rc r2)
      | 0, 1 => some (encR 0x33 4 0 rc rc r2)
      | 0, 2 => some (encR 0x33 6 0 rc rc r2)
      | 0, _ => some (encR 0x33 7 0 rc rc r2)
      | _, 0 => some (encR 0x3B 0 0x20 rc rc r2)
      | _, 1 => some (encR 0x3B 0 0 rc rc r2)
      | _, _ => none
  | 5 =>
    let j : BitVec 12 := cbits h 12 1 ++ cbits h 8 1 ++ cbits h 9 2 ++ cbits h 6 1 ++ cbits h 7 1 ++ cbits h 2 1 ++ cbits h 11 1 ++
      cbits h 3 3 ++ (0 : BitVec 1)
    some (encJ (j.signExtend 21))
  | n =>
    let b : BitVec 9 := cbits h 12 1 ++ cbits h 5 2 ++ cbits h 2 1 ++ cbits h 10 2 ++ cbits h 3 2 ++ (0 : BitVec 1)
    some (encB (n - 6) rc (b.signExtend 13))

/-- Quadrant 2. -/
def expand2 (h : BitVec 16) : Option W32 :=
  let rd := (cbits h 7 5).toNat
  let r2 := (cbits h 2 5).toNat
  match (cbits h 13 3).toNat with
  | 0 => some (encI 0x13 1 rd rd ((cImm6 h).setWidth 12))
  | 2 =>
    let w : BitVec 8 := cbits h 2 2 ++ cbits h 12 1 ++ cbits h 4 3 ++ (0 : BitVec 2)
    if rd = 0 then none else some (encI 0x03 2 rd 2 (w.setWidth 12))
  | 3 =>
    let d : BitVec 9 := cbits h 2 3 ++ cbits h 12 1 ++ cbits h 5 2 ++ (0 : BitVec 3)
    if rd = 0 then none else some (encI 0x03 3 rd 2 (d.setWidth 12))
  | 4 =>
    if cbits h 12 1 = 0 then
      if r2 = 0 then (if rd = 0 then none else some (encI 0x67 0 0 rd 0)) else some (encR 0x33 0 0 rd 0 r2)
    else if r2 = 0 then (if rd = 0 then some 0x00100073 else some (encI 0x67 0 1 rd 0))
    else some (encR 0x33 0 0 rd rd r2)
  | 6 =>
    let w : BitVec 8 := cbits h 7 2 ++ cbits h 9 4 ++ (0 : BitVec 2)
    some (encS 2 2 r2 (w.setWidth 12))
  | 7 =>
    let d : BitVec 9 := cbits h 7 3 ++ cbits h 10 3 ++ (0 : BitVec 3)
    some (encS 3 2 r2 (d.setWidth 12))
  | _ => none

/-- The 32-bit instruction that a compressed one stands for. -/
def expandC (h : BitVec 16) : Option W32 :=
  match (cbits h 0 2).toNat with
  | 0 => expand0 h
  | 1 => expand1 h
  | 2 => expand2 h
  | _ => none

/-! ## Running a routine (R167, R168) -/

/-- One instruction word at `pc`, `next` the address after it. -/
def rvExec (s : State) (m : Rv) (w : W32) (next : W64) : RvStep :=
  let rd := fld w 7 5
  let a := m.x (fld w 15 5)
  let b := m.x (fld w 20 5)
  let f3 := fld w 12 3
  let put (o : Option W64) : RvStep := match o with | some v => .next (m.put rd v next) | none => .error
  match fld w 0 7 with
  | 0x37 => put (some (immU w))
  | 0x17 => put (some (m.pc + immU w))
  | 0x6F => .next (m.put rd next (m.pc + immJ w))
  | 0x67 => if f3 = 0 then .next (m.put rd next ((a + immI w) &&& ~~~1)) else .error
  | 0x63 => match rvTaken f3 a b with
    | some t => .next { m with pc := if t then m.pc + immB w else next }
    | none => .error
  | 0x03 =>
    if f3 = 7 then .error
    else match rvLoad s m (a + immI w).toNat (2 ^ (f3 % 4)) with
      | .val v table => .next { m.put rd (rvExtend f3 v) next with reads := m.reads + if table then 1 else 0 }
      | .error => .error
      | .consumed key => .consumed key
  | 0x23 =>
    if 3 < f3 then .error
    else match rvStore m (a + immS w).toNat (2 ^ f3) b with
      | some m => .next { m with pc := next }
      | none => .error
  | 0x13 => put (rvImm w a)
  | 0x1B => put (rvImm32 w a)
  | 0x33 => put (rvOp (fld w 25 7) f3 a b)
  | 0x3B => put (rvOp32 (fld w 25 7) f3 (fld w 20 5) a b)
  | 0x0F => if f3 = 0 then .next { m with pc := next } else .error
  | 0x73 => if w = 0x73 then .ended m else .error
  | _ => .error

/-- One instruction: a fetch outside the store is an error. -/
def rvStep (s : State) (m : Rv) : RvStep :=
  let a := m.pc.toNat
  if 0x10000 < a + 2 then .error
  else
    let h : BitVec 16 := s.walkStore.readLE a 2 16
    if h.extractLsb' 0 2 ≠ 3 then
      match expandC h with
      | some w => rvExec s m w (m.pc + 2)
      | none => .error
    else if 0x10000 < a + 4 then .error
    else rvExec s m (s.walkStore.readLE a 4 32) (m.pc + 4)

/-- A routine run until it has made `stop` table reads, for at most `fuel` instructions and 16 table reads (R167): what it has come to, and
the instructions that it has left. -/
def rvRun (s : State) (stop : Nat) : Nat → Rv → RvStep × Nat
  | 0, _ => (.error, 0)
  | fuel + 1, m =>
    if stop ≤ m.reads then (.next m, fuel + 1)
    else match rvStep s m with
      | .next n => if 16 < n.reads then (.error, fuel) else rvRun s stop fuel n
      | r => (r, fuel)

/-! ## A walk (R167) -/

/-- The number of an access kind in a2. -/
def Access.code : Access → W64
  | .load => 0
  | .record => 1
  | .sync => 2
  | .copyRead => 3
  | .copyWrite => 4
  | .codeLoad => 5

/-- A device is in the domain as this one sees it: one that has been reported as gone is not, and none but this one once it has left (R311;
log 33). -/
def State.inDomain (s : State) (dev : Nat) : Bool :=
  dev == Config.device || (decide (dev < 4608) && !s.domainLost && !s.goneDevices.contains dev)

/-- Whether the TSC takes an entry that a routine returns for a VA (R167). -/
def State.fillOk (s : State) (w : BitVec 128) (va : Nat) : Bool :=
  let e : TlbEntry := ⟨w, false⟩
  let sh := 2 ^ pageShift e.size
  e.v && e.size != 3 && e.vpn % sh == 0 && e.pfn % sh == 0 && (homeDie (e.pfn * 2 ^ 16)).isSome && !(e.mca && e.repl) &&
    s.inDomain e.dev && e.covers va

/-- The machine at the start of a walk (R168). A record's entry offset is taken as it is: one that is no multiple of 4, or odd, is where the
first instruction is fetched from (DESIGN CHOICE, log 107). -/
def rvStart (va asid kind root entry : W64) : Rv where
  regs := (List.range 32).map fun r => if r = 10 then va else if r = 11 then asid else if r = 12 then kind else if r = 13 then root else 0
  pc := entry
  scratch := []
  reads := 0

/-- The machine with which a walk for an access begins (R166, R167). -/
def State.walkStart (s : State) (ctxid : BitVec 16) (kind : Access) (va : BitVec 48) : Rv :=
  let r := s.ctxRecord ctxid
  rvStart (va.setWidth 64) ((recAsid r).setWidth 64) kind.code (r.extractLsb' 64 64) ((r.extractLsb' 16 16).setWidth 64)

/-- What a routine's end means for its walk (R167). A routine that ends with an a0 that R167 does not list is a walk error (DESIGN CHOICE,
log 90). -/
def State.walkEnd (s : State) (va : BitVec 48) : RvStep → WalkEnd
  | .ended m =>
    if m.x 10 = 0 then
      let w : BitVec 128 := m.x 12 ++ m.x 11
      if s.fillOk w va.toNat then .fill w else .error
    else if m.x 10 = 1 then .deny
    else if m.x 10 = 2 then .absent
    else .error
  | .consumed key => .consumed key
  | .next _ | .error => .error

/-- Instructions that a routine may run (R167). -/
def walkFuel : Nat := 4096

/-- Beyond the table reads of any walk (R167). -/
def allReads : Nat := 17

/-- A walk of a context's routine for an access (R166, R167), whose record it reads first, with all its table reads at this tick. -/
def State.walk (s : State) (ctxid : BitVec 16) (kind : Access) (va : BitVec 48) : WalkEnd :=
  match s.ctxLine ctxid with
  | some key => .consumed key
  | none => s.walkEnd va (rvRun s allReads walkFuel (s.walkStart ctxid kind va)).1

end Sys2Proof.Machine
end

