-- ==== Sys2Proof/Machine/Publish.lean ====
section
/-!
DEFINITION. Log records and publications (R124–R126, R133–R136, R141, R142, R157): appending, the spill region, drifting to the homes,
taking a slot in a call window, application, leaving the log, and reclamation.
-/

namespace Sys2Proof.Machine

open Sys2Proof

/-! ## Appending (R125, R127, R141, R142) -/

/-- Records of a core's log in its buffer. -/
def Core.buffered (k : Core) : Nat := (k.log.filter fun r => r.spilled.isNone).length

/-- Records of a launch in its spill region. -/
def Core.spilledOf (k : Core) (launch : Nat) : Nat := (k.log.filter fun r => r.spilled.isSome && r.launch == launch).length

/-- Records that the running context may still append: free places of the buffer and of its spill region (R142). -/
def State.logRoom (s : State) : Nat :=
  (2048 - s.cur.buffered) + (s.ctx.spillSize.toNat * 2048 - s.cur.spilledOf s.ctx.launch)

/-- The bytes of a mask that `n` bytes at offset `o` of a granule cover. -/
def granMask (o n : Nat) : BitVec 16 := ((1#16 <<< n) - 1#16) <<< o

/-- A record that a store merges into (R125): the context's youngest, that with its last lsn, if it is of kind 0, of the same granule,
unpublished and in the buffer; an SSTP record never merges (R143). -/
def State.mergeSeq (s : State) (gran : BitVec 44) : Option Nat :=
  match (s.cur.log.filter fun r => r.launch == s.ctx.launch).getLast? with
  | some r =>
    if r.lsn == s.ctx.lsn && r.kind == 0 && r.gran == gran && r.pub.isNone && r.spilled.isNone && !r.sstp then some r.seq else none
  | none => none

/-- The 32 bytes of a record (R124). -/
def LogRec.word (r : LogRec) : BitVec 256 :=
  r.data ++ r.ctx ++ r.kind ++ (0 : BitVec 12) ++ r.mask ++ (0 : BitVec 4) ++ r.gran ++ r.lsn

/-- The first place of a launch's spill region that no record of a core's log is in (R142). -/
def Core.spillSlot (k : Core) (launch : Nat) : Nat :=
  let used := k.log.filterMap fun r => if r.launch = launch then r.spilled else none
  ((List.range (used.length + 1)).find? fun n => !used.contains n).getD 0

/-- The walk to the place of a spilled record in its context's spill region, 32 bytes a place (R142; log 79), and that place. -/
def State.spillWalk (s : State) (x : Ctx) (r : LogRec) (n : Nat) : Nat × WalkEnd :=
  let va := x.spillBase.toNat + 32 * n
  (va, s.walk r.ctx .record (BitVec.ofNat 48 va))

/-- A record written to its place of the running context's spill region. A walk that reads a poisoned line consumes the error right after
(R329, R333). -/
def State.spillWrite (s : State) (r : LogRec) : State :=
  match r.spilled with
  | none => s
  | some n => match s.spillWalk s.ctx r n with
    | (va, .fill w) => { s with home := s.home.writeLE ((⟨w, false⟩ : TlbEntry).key va) 32 r.word }
    | (_, .consumed key) =>
      { s with agenda := .consume (baseCore (clusterOf s.focus)) key :: s.agenda }
    | (_, .deny) | (_, .absent) | (_, .error) => s

/-- The poisoned line of its spill region that a spilled record is read back from (R142, R329). -/
def State.spillLine (s : State) (c : Nat) (r : LogRec) : Option Nat :=
  match r.spilled, s.image c r.launch with
  | some n, some x => match s.spillWalk x r n with
    | (va, .fill w) =>
      let key := (⟨w, false⟩ : TlbEntry).key va
      if s.poisonedIn key 32 then some (key / 64 * 64) else none
    | (_, .consumed _) | (_, .deny) | (_, .absent) | (_, .error) => none
  | _, _ => none

/-- A launch is charged one record (R302). -/
def State.chargeRecord (s : State) (launch : Nat) : State :=
  if s.isAdmitted launch then s.updLaunch launch fun l => { l with records := l.records + 1 } else s

/-- A record appended to the running context's log, with its lsn (R124, R125): to the buffer while it has room. -/
def State.append (s : State) (kind : BitVec 4) (gran : BitVec 44) (mask : BitVec 16) (data : BitVec 128) (sstp : Bool)
    (pub : Option Nat) : State :=
  let x := s.ctx
  let r : LogRec := ⟨kind, gran, mask, data, x.ctxid, x.lsn + 1, x.launch, s.seq,
    if 2048 ≤ s.cur.buffered then some (s.cur.spillSlot x.launch) else none, sstp, none, pub⟩
  let s := s.setCore s.focus { s.cur with run := { x with lsn := x.lsn + 1 }, log := s.cur.log ++ [r] }
  (({ s with seq := s.seq + 1 } : State).spillWrite r).chargeRecord x.launch

/-- AppendWrite (R127): merges by R125, or appends. A store that merges into a record that has drifted changes it where it is pending; its
acceptance stands (DESIGN CHOICE, log 80). The record's bytes outside its mask, of which R124 says nothing, are those of the register that the
store names, moved to their place (DESIGN CHOICE, log 113). -/
def State.appendWrite (s : State) (ea : W64) (n : Nat) (v : W64) : State :=
  let gran : BitVec 44 := ea.extractLsb' 4 44
  let o := (ea.extractLsb' 0 4).toNat
  let mask := granMask o n
  let data : BitVec 128 := v.setWidth 128 <<< (8 * o)
  match s.mergeSeq gran with
  | some q =>
    s.setCore s.focus { s.cur with log := s.cur.log.map fun r =>
      if r.seq = q then { r with mask := r.mask ||| mask, data := maskMerge r.data data mask } else r }
  | none => s.append 0 gran mask data false none

/-- RefuseRecord (R127): one failure with DENY in the running context's fence status. -/
def State.refuseRecord (s : State) (ea : W64) : State := s.setCtx { s.ctx with fence := s.ctx.fence.fail ea true false 1 }

/-- An address that a store refuses (R127): bits [63:48] not zero, or misaligned. -/
def badShared (ea : W64) (n : Nat) : Bool := ea.extractLsb' 48 16 != 0 || ea.toNat % n != 0

/-! ## Making a publication (R133, R135, R143, R157) -/

/-- A publication made now by a source, without records yet. -/
def State.publish (s : State) (source : Nat) (sys : Bool) (scope : Scope) (obj : Option Nat) (core launch : Nat)
    (drops engine : Bool) (records : List LogRec) (ready : Option Nat) : State :=
  let p : Publication :=
    ⟨s.ids, source, sys, scope, obj, core, launch, drops, engine, records, ready, none, false, 0, 0, 0, 0⟩
  { s with ids := s.ids + 1, pubs := s.pubs ++ [p] }

/-- The class of a scope (R134). -/
def scopeSys : Scope → Bool
  | .sys => true
  | .cl | .die | .dev => false

/-- A core's publication whose records have all reached their homes is ready at the tick of the last; `atLeast` is the tick
of a tail without records (R134). -/
def State.settlePub (s : State) (c id atLeast : Nat) : State :=
  let rs := (s.core c).log.filter fun r => r.pub == some id
  if rs.any fun r => r.homed.isNone then s
  else
    let t := rs.foldl (fun t r => max t (match r.homed with | some h => h.tick | none => 0)) (if rs.isEmpty then atLeast else 0)
    s.updPub id fun p => if p.ready.isNone then { p with ready := some t, records := rs } else p

/-! ## Drift (R126) -/

/-- A record refused (R126): it leaves the log and counts as a failure of its context. The publication of an SSTP whose record is refused
stays, without a record (DESIGN CHOICE, log 81). -/
def State.refuseDrifted (s : State) (c : Nat) (r : LogRec) (deny link : Bool) : State :=
  let s := s.setCore c { s.core c with log := (s.core c).log.filter fun q => q.seq != r.seq }
  let s := s.updImage c r.launch fun x => { x with fence := x.fence.fail (BitVec.ofNat 64 r.va) deny link 1 }
  match r.pub with
  | some id => s.settlePub c id s.now
  | none => s

/-- One attempt to bring a record to its home; `none` while its translation waits. -/
def State.driftOne (s : State) (c : Nat) (r : LogRec) : Option State × State :=
  let k := clusterOf c
  let va := BitVec.ofNat 64 r.va
  let (t, s) := s.translate k (.core c) r.seq r.ctx r.launch .record va
  match t with
  | .waiting => (none, s)
  | .denied => (some ((s.forget k (.core c) r.seq .record).refuseDrifted c r true false), s)
  | .hit e =>
    let key := e.key r.va
    if s.linkDown (dieOf c) key then (some (s.refuseDrifted c r false true), s)
    else if s.homeHeld (dieOf c) key then (none, s)
    else if let some line := s.spillLine c r then (some (s.consumeLine c line), s)
    else
      let h : Homed := ⟨key, e.size, e.mca, e.repl, s.now⟩
      let s' := s.setCore c { s.core c with log := (s.core c).log.map fun q => if q.seq = r.seq then { q with homed := some h } else q }
      (some (match r.pub with | some id => s'.settlePub c id s'.now | none => s'), s)

/-- The first record of a list whose translation is decided drifts. -/
def State.driftFirst (s : State) (c : Nat) : List LogRec → State
  | [] => s
  | r :: rs =>
    match s.driftOne c r with
    | (some t, _) => t
    | (none, t) => t.driftFirst c rs

/-- RECORD_DRIFT (R126): a core's oldest record on its way that can be decided is accepted at its home, or refused. -/
def execRecordDrift (core : Nat) (s : State) : Out :=
  .next (s.driftFirst core ((s.core core).log.filter fun r => r.homed.isNone))

/-! ## Slots (R134, R152) -/

/-- Whether a publication takes a slot in the window that begins at `start`: it is ready, of the class, and no earlier one of
its source and class still waits for its records (R152). -/
def State.slotReady (s : State) (sys : Bool) (start : Nat) (p : Publication) : Bool :=
  p.app.isNone && p.sys == sys && (match p.ready with | some t => decide (t < start) | none => false) &&
    !(s.pubs.any fun q => q.source == p.source && q.sys == sys && decide (q.id < p.id) && q.app.isNone &&
      (match q.ready with | some t => !decide (t < start) | none => true))

/-- Publications given slots: at most four of each source (R134). `n` counts those of a source so far. -/
def giveSlots (app : Nat) (ready : Publication → Bool) : List Publication → List Nat → List Publication
  | [], _ => []
  | p :: ps, used =>
    if ready p && decide (used.count p.source < 4) then
      { p with app := some app } :: giveSlots app ready ps (p.source :: used)
    else p :: giveSlots app ready ps used

/-- CALL_WINDOW (R134): at the first tick of a window its waiting publications take slots. A publication that is made in a window, and whose
records had all reached their homes before, takes its slot in the next (DESIGN CHOICE, log 98: R134 counts from the last record's tick). -/
def execCallWindow (sys : Bool) (s : State) : Out :=
  let w := if sys then 1600 else 32
  if s.now % w ≠ 0 ∨ (if sys then s.winSys else s.winDev) ≥ s.now then .next s
  else
    let s : State := { s with pubs := giveSlots (s.now + 2 * w) (s.slotReady sys s.now) s.pubs [] }
    .next (if sys then { s with winSys := s.now } else { s with winDev := s.now })

/-! ## Application at the ticks -/

/-- Publications whose application tick has come. -/
def State.duePubs (s : State) : List Publication :=
  sortPubs (s.pubs.filter fun p => !p.applied && match p.app with | some t => decide (t ≤ s.now) | none => false)

/-! ## Leaving the log (R129, R141) -/

/-- The publication of a record. -/
def State.pubOf (s : State) (r : LogRec) : Option Publication := r.pub.bind fun id => s.pubs.find? fun p => p.id == id

/-- Whether a record still forwards to a load of its context (R129): its publication has not been applied at its home and, there, taken
into the view; for an SLDH of a page with replicas, also not at its own die's. -/
def State.forwards (s : State) (c : Nat) (kind : LoadKind) (r : LogRec) : Bool :=
  match r.pub with
  | none => true
  | some _ => match s.pubOf r with
    | none => false
    | some p => !p.applied || (r.mayLag && p.lagG != 0) || (kind == .sldh && r.onRepl && p.lagD.getLsbD (dieOf c))

/-- A published record has ended all its forwarding (R129, R141). -/
def State.settled (s : State) (c : Nat) (r : LogRec) : Bool := !s.forwards c .sldh r

/-- Messages of management whose replies have been applied are sent (R348). -/
def State.sendReplies (s : State) : State :=
  s.packets.zipIdx.foldl (fun s (p, n) => match p.state with
    | .held id =>
      if s.pubs.any fun q => q.id == id && !q.applied then s
      else { s with seq := s.seq + 1, packets := s.packets.set n { p with state := .flying, sent := s.now, seq := s.seq } }
    | .flying | .refused | .accepted | .error => s) s

/-- Settled records leave the logs (R141), and publications without an object that nothing waits for leave the list. -/
def State.retire (s : State) : State :=
  let s : State := { s with cores := s.cores.mapVal fun c k => { k with log := k.log.filter fun r => !s.settled c r } }
  { s with pubs := s.pubs.filter fun p => !(p.applied && p.obj.isNone && p.lagG == 0 && p.lagD == 0) }

/-- Whether a publication must be applied everywhere within `n` ticks of its application tick, and that time is over. -/
def State.overdue (s : State) (n : Nat) (p : Publication) : Bool := decide (p.app.getD 0 + n ≤ s.now)

/-- PUBLICATION_APPLY (R135): homes that lag catch up, at the latest 64 ticks after the tick; then the publications that are due are
applied in publish order. `lag` names the G-dies whose ordinary pages lag. -/
def execPublicationApply (lag : BitVec 4) (s : State) : Out :=
  let go := withoutLater meetHome (fun p => s.overdue 64 p || p.lagG &&& lag == 0) s.laggingHome
  let s := go.foldl State.catchUp s
  .next (s.duePubs.foldl (fun s p => s.applyPub lag p) s).sendReplies.retire

/-- REPLICA_APPLY (R136): a die's replicas take in publications that they lack, for each page in publish order (R153): those that are
256 ticks old, and of the others a free choice, or all where that names none. -/
def execReplicaApply (die : Nat) (s : State) : Out :=
  let f := s.freeWord 4
  let l := s.laggingAt die
  let go := withoutLater meetPage (fun p => s.overdue 256 p || f.getLsbD (p.id % 64)) l
  .next ((if go.isEmpty then l else go).foldl (State.catchUpAt · die) s).retire

/-- SEGMENT_RECLAIM (R141): segment storage is full, and the oldest publication that is applied everywhere is reclaimed. How much the
storage holds is not stated: it is a free choice when this happens (log 82). -/
def execSegmentReclaim (s : State) : Out :=
  match sortPubs (s.pubs.filter fun p => p.applied && p.lagG == 0 && p.lagD == 0) with
  | [] => .next s
  | p :: _ => .next { s with pubs := s.pubs.filter fun q => q.id != p.id }

end Sys2Proof.Machine
end

