-- ==== Sys2Proof/Machine/Csr.lean ====
section
/-!
DEFINITION. The CSRs (R52, R105, R106): their values, and what a write does to each.
-/

namespace Sys2Proof.Machine

open Sys2Proof

/-- The value of a CSR (R106). `running` says whether the context runs, for `phcyc` (R66). -/
def csrValue (now c : Nat) (k : Core) (running : Bool) (x : Ctx) (r : Csr) : W64 :=
  match r with
  | .xpc => x.xpc
  | .xcause => x.xcause
  | .xval => x.xval
  | .xstat => x.xstat
  | .ctxid => x.ctxid.setWidth 64
  | .coord => BitVec.ofNat 64 c
  | .cyc => BitVec.ofNat 64 now - k.cyc
  | .ptime => BitVec.ofNat 64 now
  | .phcyc => if running then BitVec.ofNat 64 now - x.phcyc else x.phcyc
  | .vshare => x.vshare.setWidth 64
  | .mshare => x.mshare.setWidth 64
  | .mtiles => x.mtiles.setWidth 64
  | .accmode => (BitVec.ofBool x.accsat).setWidth 64
  | .frm => (BitVec.ofBool x.ftz ++ (0 : BitVec 1) ++ x.frm).setWidth 64
  | .fflags => x.fflags.setWidth 64
  | .logcap => x.logcap.setWidth 64
  | .logstat =>
    (BitVec.ofNat 32 ((k.log.filter fun r => r.launch == x.launch && r.spilled.isSome).length) ++
      BitVec.ofNat 12 ((k.log.filter fun r => r.spilled.isNone).length)).setWidth 64
  | .sigctl => x.sigBase ++ x.sigCount ++ (0 : BitVec 15) ++ BitVec.ofBool x.sigEn
  | .snapctl =>
    (x.snapEvent ++ (0 : BitVec 6) ++ BitVec.ofBool x.snapFired ++ BitVec.ofBool x.snapArm).setWidth 64

/-- A context after a CSR write: `v` goes to the RW fields and a 1 of `clear` clears a W1C bit (R105, R106). Reserved
and RO fields ignore it (R4); a value 4–7 leaves `frm.mode` unchanged. -/
def Ctx.csrPut (x : Ctx) (now : Nat) (running : Bool) (r : Csr) (v clear : W64) : Ctx :=
  match r with
  | .xpc => { x with xpc := v }
  | .xcause => { x with xcause := v &&& 0xFFF }
  | .xval => { x with xval := v }
  | .xstat =>
    { x with lag := x.lag && !clear.getLsbD 2, divz := x.divz && !clear.getLsbD 1, accerr := x.accerr && !clear.getLsbD 0 }
  | .ctxid => { x with ctxid := v.setWidth 16 }
  | .coord | .cyc | .ptime | .logstat => x
  | .phcyc => { x with phcyc := if running then BitVec.ofNat 64 now - v else v }
  | .vshare => { x with vshare := v.setWidth 4 }
  | .mshare => { x with mshare := v.setWidth 4 }
  | .mtiles => { x with mtiles := v.setWidth 16 }
  | .accmode => { x with accsat := v.getLsbD 0 }
  | .frm => { x with ftz := v.getLsbD 3, frm := if v.getLsbD 2 then x.frm else v.setWidth 2 }
  | .fflags => { x with fflags := v.setWidth 5 }
  | .logcap => { x with logcap := v.setWidth 32 }
  | .sigctl => { x with sigBase := v.extractLsb' 32 32, sigCount := v.extractLsb' 16 16, sigEn := v.getLsbD 0 }
  | .snapctl =>
    { x with snapEvent := v.extractLsb' 8 8, snapFired := x.snapFired && !clear.getLsbD 1, snapArm := v.getLsbD 0 }

/-- The issuing context's value of a CSR. -/
def State.csr (s : State) (r : Csr) : W64 := csrValue s.now s.focus s.cur true s.ctx r

/-- The state after a CSR write by the issuing context. `cyc` belongs to the core (R106). -/
def State.csrPut (s : State) (r : Csr) (v clear : W64) : State :=
  if r = .cyc then s.setCore s.focus { s.cur with cyc := BitVec.ofNat 64 s.now - v }
  else s.setCtx (s.ctx.csrPut s.now true r v clear)

/-- The CSRs that user mode may not read (R52). -/
def csrReadS : Csr → Bool
  | .xpc | .xcause | .xval | .vshare | .mshare | .logcap | .sigctl | .snapctl => true
  | .xstat | .ctxid | .coord | .cyc | .ptime | .phcyc | .mtiles | .accmode | .frm | .fflags | .logstat => false

/-- The CSRs that user mode may not write (R52); a write of `coord` or `ptime` is ignored at any privilege. -/
def csrWriteS : Csr → Bool
  | .coord | .ptime | .xstat | .accmode | .frm | .fflags => false
  | .xpc | .xcause | .xval | .ctxid | .cyc | .phcyc | .vshare | .mshare | .mtiles | .logcap | .logstat | .sigctl
  | .snapctl => true

/-! ## Waiting for units (R105, R245) -/

/-- An instruction that waits until nothing that was issued before it is left (`left s n`: some entry with a sequence
number below `n` is), and then goes on. -/
def seqWait (len : Nat) (left : State → Nat → Bool) (s : State) (go : State → Out) : Out :=
  match s.th.stall with
  | some ⟨_, _, .seq n⟩ => if left s n then wait s else go s
  | _ => if left s s.seq then .next (s.stall len 0 (.seq s.seq)) else go s

/-- XV entries of the running context with a sequence number below `n` (R105). -/
def State.xvLeft (s : State) (n : Nat) : Bool := s.cur.vq.any fun e => e.launch == s.ctx.launch && decide (e.seq < n)

/-- An instruction that is not ready until every earlier XV instruction of its context has completed (R221, R230, R252). -/
def xvWait (s : State) (go : State → Out) : Out := if s.xvLeft s.seq then wait s else go s

/-- Shared loads of the running context with a sequence number below `n`, its vector loads among them (R105). -/
def State.loadsLeft (s : State) (n : Nat) : Bool :=
  (s.loads.any fun l => l.core == s.focus && l.launch == s.ctx.launch && decide (l.seq < n)) ||
  s.cur.vq.any fun e => e.launch == s.ctx.launch && decide (e.seq < n) &&
    match e.op with | .load sh _ _ _ => sh | _ => false

/-! ## The meanings (R105) -/

/-- CSRR (R105): of `fflags` it waits for earlier XV instructions, of `xstat` for earlier shared loads. -/
def execCsrr (rd : SReg) (csr : Csr) (s : State) : Out :=
  ready [rd] s fun s =>
    if s.ctx.mode = .user ∧ csrReadS csr then trap 2 (w0x (.csrr rd csr)) s
    else
      let go (s : State) : Out := result 4 rd (s.csr csr) s
      match csr with
      | .fflags => seqWait 4 State.xvLeft s go
      | .xstat => seqWait 4 State.loadsLeft s go
      | _ => go s

/-- A CSR write with its new RW value and the W1C bits it clears (R105). -/
def csrWrite (i : Instr) (csr : Csr) (ra : SReg) (v clear : W64 → W64 → W64) (s : State) : Out :=
  ready [ra] s fun s =>
    if s.ctx.mode = .user ∧ csrWriteS csr then trap 2 (w0x i) s
    else .next ((s.csrPut csr (v (s.csr csr) (s.reg ra)) (clear (s.csr csr) (s.reg ra))).past 4)

/-- CSRW (R105). -/
def execCsrw (csr : Csr) (ra : SReg) (s : State) : Out :=
  csrWrite (.csrw csr ra) csr ra (fun _ a => a) (fun _ a => a) s

/-- CSRS (R105): W1C fields are unchanged. -/
def execCsrs (csr : Csr) (ra : SReg) (s : State) : Out :=
  csrWrite (.csrs csr ra) csr ra (fun o a => o ||| a) (fun _ _ => 0) s

/-- CSRC (R105): a 1 bit clears the bit in a W1C field. -/
def execCsrc (csr : Csr) (ra : SReg) (s : State) : Out :=
  csrWrite (.csrc csr ra) csr ra (fun o a => o &&& ~~~a) (fun _ a => a) s

end Sys2Proof.Machine
end

