-- ==== Sys2Proof/Machine/Threads.lean ====
section
/-!
DEFINITION. The CTX group: helpers (R92, R93), gangs (R94–R98), barriers and votes (R99–R103), phases (R104), with the
events that complete them.
-/

namespace Sys2Proof.Machine

open Sys2Proof

/-! ## Helpers (R92, R93) -/

/-- The lowest free helper number. -/
def Ctx.freeHelper (x : Ctx) : Option (Fin 11) := (List.finRange 11).find? fun n => n != 0 && !(x.thread n).live

/-- A helper as HSTART makes it (R92): `old` is what held the number before. Its first instruction comes no earlier than tick `at_`, and
after the control thread's local loads with a sequence number below `seq`. -/
def Thread.helper (old : Thread) (n : Fin 11) (a b : W64) (at_ seq : Nat) : Thread :=
  { ((({ Thread.reset with live := true, pc := a &&& ~~~3, inc := old.inc + 1, readyAt := at_, startL := seq } : Thread).setReg 2 b).setReg 3
      (BitVec.ofNat 64 n.val)) with pending := 0 }

/-- The tick by which a thread's local loads of the own ULM have completed (R92). -/
def Thread.loadsDone (t : Thread) : Nat := ((t.results.filter (·.load)).map (·.due)).foldl max 0

/-- Whether every local load of the control thread that a helper's first instruction comes after has completed (R92). -/
def State.started (s : State) : Bool :=
  s.locals.all fun l => !(l.core == s.focus && l.launch == s.ctx.launch && l.thr == 0 && decide (l.seq < s.th.startL))

/-- HSTART with its argument (R92). -/
def hstart (i : Instr) (len : Nat) (need : List SReg) (rd ra : SReg) (arg : State → W64) (s : State) : Out :=
  ready need s fun s => controlOnly i s fun s =>
    match s.ctx.freeHelper with
    | none => result len rd 0 s
    | some n =>
      let a := s.reg ra
      let b := arg s
      result len rd (BitVec.ofNat 64 n.val)
        (s.setCtx (s.ctx.setThread n ((s.ctx.thread n).helper n a b s.th.loadsDone s.seq)))

/-- HSTART (R92). -/
def execHstart (rd ra rb : SReg) (s : State) : Out :=
  hstart (.hstart rd ra rb) 4 [ra, rb, rd] rd ra (fun s => s.reg rb) s

/-- HSTART with a literal argument (R92, R45). -/
def execHstartLit (rd ra : SReg) (lit : W64) (s : State) : Out :=
  hstart (.hstartLit rd ra lit) 12 [ra, rd] rd ra (fun _ => lit) s

/-- HJOIN (R93): waits for the helper that held the number when it issued. -/
def execHjoin (ra : SReg) (s : State) : Out :=
  ready [ra] s fun s =>
    let a := s.reg ra
    if a = 0 ∨ 10 < a.toNat then trap 11 (w0x (.hjoin ra)) s
    else
      let h := s.ctx.thread (thrOf a.toNat)
      match s.th.stall with
      | some ⟨_, _, .hjoin inc⟩ => if h.live && h.inc == inc then wait s else .next (s.past 4)
      | _ => if h.live then .next (s.stall 4 0 (.hjoin h.inc)) else .next (s.past 4)

/-- Entries that a port holds or expects (R122): 16 fill it. -/
def Port.full (p : Port) : Bool := decide (16 ≤ p.flying.length + p.fifo.length)

/-- Whether the closing marker of a thread's stream can go out: it has none open, or the port's FIFO has room (R122). -/
def State.mayClose (s : State) (t : Thread) : Bool :=
  match t.stream with
  | some o => !(s.core o.target).port.full
  | none => true

/-- HEXIT (R93): its local loads complete, a stream of the helper closes (R122), its lock is released (R117), and its number becomes
free. -/
def execHexit (s : State) : Out :=
  if s.thr = 0 then trap 11 (w0x .hexit) s
  else if !s.mayClose s.th then stallOn 4 0 .retry s
  else
    let inc := s.th.inc
    let s := (s.closeStream s.th).unlock s.focus s.ctx.launch (some s.thr.val)
    let s := s.setTh { Thread.reset with inc := inc }
    .next (s.setCtx { s.ctx with wakes := s.ctx.wakes + 1 })

/-- The live mask (R93); bit 0 is always 1. -/
def Ctx.liveMask (x : Ctx) : W64 :=
  BitVec.ofNat 64 ((List.finRange 11).foldl (fun m n => if n = 0 ∨ (x.thread n).live then m + 2 ^ n.val else m) 0)

/-- HSTAT (R93). -/
def execHstat (rd : SReg) (s : State) : Out := ready [rd] s fun s => result 4 rd s.ctx.liveMask s

/-- YIELD (R93): the thread is not ready for the 10 cycles after issue. -/
def execYield (s : State) : Out :=
  match s.th.stall with
  | some ⟨_, _, .yield n⟩ => if n < s.now then .next (s.past 4) else wait s
  | _ => .next (s.stall 4 0 (.yield (s.now + 10)))

/-- The thread of a core's running context. -/
def State.threadOn (s : State) (core thr : Nat) : Thread := (s.core core).run.thread (thrOf thr)

/-- A unit's completion or retry of a stalled instruction is the next thing to happen. -/
def State.retry (s : State) (core thr : Nat) : State := { s with agenda := .issue core thr :: s.agenda }

/-- The running context's thread past its stalled instruction. -/
def State.finish (s : State) (core thr : Nat) : State :=
  let k := s.core core
  let n := thrOf thr
  let t := k.run.thread n
  match t.stall with
  | some st => s.setCore core { k with run := k.run.setThread n (t.past st.len) }
  | none => s

/-- YIELD_EXPIRY (R93): the thread is ready again in the eleventh cycle after issue. -/
def execYieldExpiry (core thr : Nat) (s : State) : Out :=
  match (s.threadOn core thr).stall with
  | some ⟨_, _, .yield n⟩ => if n < s.now then .next (s.finish core thr) else .next s
  | _ => .next s

/-! ## Gangs (R94–R98) -/

/-- The checks of R94 on a word that asks to form a gang. -/
def gangWordOk (s : State) (a : W64) : Bool :=
  let r := rectOf a
  a.extractLsb' 20 44 == 0 && decide (r.w ≤ 8) && decide (r.h ≤ 8) && r.inside && r.cores.contains s.focus &&
    r.cores.all fun c => s.inSpread s.ctx.launch c

/-- A leave word at a core (R94). -/
def isLeaveWord (c : Nat) (a : W64) : Bool := a == BitVec.ofNat 64 c

/-- A follower leaves its gang, a leader dissolves it (R94): its followers go on alone. -/
def State.quitGang (s : State) : State :=
  let x := s.ctx
  match x.gang with
  | none => s
  | some g =>
    if g.leader then
      (rectOf g.word).cores.foldl (fun s c => s.updCtx c x.launch fun y =>
        { y with gang := y.gang.filter fun h => h.word != g.word }) s
    else s.setCtx { x with gang := none }

/-- GANG (R94, R95): a member waits until every core of the rectangle has issued the same word. -/
def execGang (ra : SReg) (s : State) : Out :=
  ready [ra] s fun s => controlOnly (.gang ra) s fun s =>
    let a := s.reg ra
    if isLeaveWord s.focus a then
      .next (s.quitGang.past 4)
    else if !gangWordOk s a || s.ctx.inGang then trap 11 (w0x (.gang ra)) s
    else match s.th.stall with
      | some _ => wait s
      | none => .next (s.stall 4 ra (.gang a))

/-- The word with which a core's control thread waits in GANG. -/
def State.gangWord (s : State) (c launch : Nat) : Option (W64 × SReg) :=
  match s.ctxOf c launch with
  | some x => match (x.thread 0).stall with
    | some ⟨_, ra, .gang w⟩ => some (w, ra)
    | _ => none
  | none => none

/-- A member of a gang that forms (R95). -/
def Ctx.joinGang (x : Ctx) (w : W64) (leader : Bool) : Ctx :=
  { x.setThread 0 ((x.thread 0).past 4) with gang := some ⟨w, leader, !leader, 0, 0, [], [], none, none, false⟩ }

/-- A trap taken on another core's control thread, the issuing core kept. -/
def trapOn (c thr : Nat) (cause : BitVec 8) (val : W64) (s : State) : State :=
  { trapEntry cause val { s with focus := c, thr := thrOf thr } with focus := s.focus, thr := s.thr }

/-- GANG_FORMED (R95): `core` is the corner. Members with another word raise cause 11 when the leader's word reaches them;
once every member waits with the leader's word, all of them complete. -/
def execGangFormed (core : Nat) (s : State) : Out :=
  let launch := (s.core core).run.launch
  match s.gangWord core launch with
  | none => .next s
  | some (w, _) =>
    let cs := (rectOf w).cores
    if (rectOf w).corner ≠ core then .next s
    else
      let wrong := cs.filterMap fun c => match s.gangWord c launch with
        | some (v, ra) => if v ≠ w then some (c, ra) else none
        | none => none
      if !wrong.isEmpty then .next (wrong.foldl (fun s (c, ra) => trapOn c 0 11 (w0x (.gang ra)) s) s)
      else if cs.all fun c => (s.gangWord c launch).isSome then
        .next (cs.foldl (fun s c => s.updCtx c launch fun x => x.joinGang w (c == core)) s)
      else .next s

/-- DETACH (R97): an attached follower goes on from its own next PC; it keeps its membership. -/
def execDetach (s : State) : Out :=
  controlOnly .detach s fun s => .next ((s.setCtx { s.ctx with gang := s.ctx.gang.bind Gang.detach }).past 4)

/-- The forwarded instruction that a context's control thread issues next, where it is an attached follower's (R96). -/
def Ctx.nextFwd (x : Ctx) (n : Fin 11) : Option Fwd :=
  match x.gang with
  | some g => if n = 0 ∧ g.attached ∧ !g.leader then g.buffer.head? else none
  | none => none

/-- Whether a context's thread takes its instructions from the forward buffer (R96). -/
def Ctx.follows (x : Ctx) (n : Fin 11) : Bool := n == 0 && x.gang.any fun g => g.attached && !g.leader

/-- A thread at the PC from which it issues next: an attached follower's tracks the leader's, and one that has detached while its
instruction stalled goes on at its oldest unissued forwarded instruction (R96). -/
def Thread.tracking (t : Thread) (f : Option Fwd) : Thread :=
  match f with
  | some f => { t with pc := f.pc, after := none }
  | none => { t with pc := t.after.getD t.pc, after := none }

/-- The own instruction at which a detached follower's control thread stalls, in the form of a forwarded one: where a release attaches the
follower, it executes that to the end first (R98, R102). -/
def Thread.ownStalled (t : Thread) (count : Nat) : Option Fwd :=
  match t.stall with
  | some ⟨len, _, _⟩ =>
    let words := (t.ibSeq.words.drop ((t.pc.toNat - t.ibSeq.start.toNat) / 4)).take (len / 4)
    if words.isEmpty then none else some ⟨words, t.pc, t.pc + BitVec.ofNat 64 len, none, 0, count⟩
  | none => none

/-- The words that a leader's control thread issues go out on the forward lane to every follower (R96): `next` is the
leader's next PC, `taken` whether it took a conditional branch (R97). Followers also learn the leader's REJOIN count. A stalled
instruction that a switch has abandoned was sent when it first issued (R77, R102). -/
def State.forward (s : State) (words : List W32) (pc next : W64) (taken : Option Bool) : State :=
  let x := s.ctx
  match x.gang with
  | none => s
  | some g =>
    if g.leader && !x.inh then
      let s := s.setCtx { x with gang := some { g with sent := none } }
      if g.sent = some pc then s
      else
        (rectOf g.word).cores.foldl (fun s c =>
          if c = s.focus then s
          else s.updCtx c x.launch fun y => { y with gang := y.gang.map fun h =>
            if h.word == g.word then
              { h with lane := h.lane ++ [⟨words, pc, next, taken, s.now + distance s.focus c, g.rejoins⟩] }
            else h }) s
    else s

/-- Whether the leader of a gang is at a gang barrier or vote (R98). One that has arrived by SIGNAL.gang, and goes on, is so too until the release:
R98 does not say whether that is to have reached the barrier (DESIGN CHOICE, log 114). -/
def State.leaderAtBarrier (s : State) (g : Gang) (launch : Nat) : Bool :=
  match s.ctxOf (rectOf g.word).corner launch with
  | some y => y.barGang.owed == some y.barGang.inst
  | none => false

/-- REJOIN (R98). -/
def execRejoin (s : State) : Out :=
  controlOnly .rejoin s fun s =>
    let x := s.ctx
    match s.th.stall with
    | some ⟨_, _, .rejoin f⟩ =>
      match x.gang with
      | none => .next (s.past 4)
      | some g =>
        if g.attached || f ≤ g.seen || s.leaderAtBarrier g x.launch then .next (s.past 4) else wait s
    | _ =>
      match x.gang with
      | none => .next (s.past 4)
      | some g =>
        let f := g.rejoins + 1
        let s := s.setCtx { x with gang := some { g with rejoins := f } }
        if g.leader || g.attached || f ≤ g.seen then .next (s.past 4) else .next (s.stall 4 0 (.rejoin f))

/-- FORWARD_ARRIVAL (R96, R98): the first instruction on a follower's lane arrives once its tick has come. An attached
follower buffers it, and detaches with `xstat.LAG` when its buffer is full; a detached one takes the leader's REJOIN
count, and attaches when the REJOIN that it waits for arrives. -/
def execForwardArrival (core : Nat) (s : State) : Out :=
  let k := s.core core
  let x := k.run
  match x.gang with
  | none => .next s
  | some g =>
    match g.lane with
    | [] => .next s
    | e :: rest =>
      if s.now < e.due then .next s
      else
        let g := { g with lane := rest, seen := e.rejoins }
        let t := x.thread 0
        let y : Ctx :=
          if g.attached then
            if g.buffer.length < 16 then { x with gang := some { g with buffer := g.buffer ++ [e] } }
            else
              let pc := match g.buffer with | b :: _ => b.pc | [] => e.pc
              (({ x with gang := g.detach } : Ctx).setThread 0
                (if t.stall.isSome then { t with after := some pc } else { t with pc := pc })).setLag
          else match t.stall with
            | some ⟨_, _, .rejoin f⟩ =>
              if e.rejoins = f then
                ({ x with gang := some { g with attached := true } } : Ctx).setThread 0 { t with pc := e.next, stall := none }
              else { x with gang := some g }
            | _ => { x with gang := some g }
        .next (s.setCore core { k with run := y })

/-! ## Barriers and votes (R99–R103) -/

/-- A barrier level of a context. -/
def Ctx.bar (x : Ctx) : Level → Barrier
  | .gang => x.barGang
  | .blk => x.barBlk
  | .spr => x.barSpr

/-- The context with a barrier level replaced. -/
def Ctx.setBar (x : Ctx) (lv : Level) (b : Barrier) : Ctx :=
  match lv with
  | .gang => { x with barGang := b }
  | .blk => { x with barBlk := b }
  | .spr => { x with barSpr := b }

/-- The arrival condition of R100: the thread's local loads have completed, and what it has sent on streams has arrived, a stream that it
has closed among them. Its stores are performed and its remote register writes accepted before its next instruction issues. -/
def State.mayArrive (s : State) : Bool :=
  !(s.locals.any fun l => l.core == s.focus && l.launch == s.ctx.launch && l.thr == s.thr.val) &&
    !(s.th.results.any (·.load)) &&
    !(s.cores.any fun (_, k) => k.port.owner == some (s.focus, s.thr.val, s.ctx.launch) && !k.port.flying.isEmpty)

/-- The context with its arrival at the current instance of a level made (R99, R101). -/
def Ctx.arriveAt (x : Ctx) (lv : Level) (vote : Option (Bool × Bool)) : Ctx :=
  x.setBar lv { x.bar lv with owed := some (x.bar lv).inst, vote := vote }

/-- BAR and the votes from arrival to release (R99, R102, R103): `pass` says what completes the instruction once the
instance it owes has been released. -/
def barrier (lv : Level) (vote : Option (Bool × Bool)) (rd : SReg) (s : State) (pass : Barrier → State → Out) : Out :=
  let b := s.ctx.bar lv
  match b.owed with
  | some n =>
    if n < b.inst then pass b (s.setCtx (s.ctx.setBar lv { b with owed := none, vote := none }))
    else stallOn 4 rd (.bar lv n) s
  | none =>
    if s.mayArrive then .next ((s.setCtx (s.ctx.arriveAt lv vote)).stall 4 rd (.bar lv b.inst))
    else stallOn 4 rd .retry s

/-- BAR (R99). In no gang, `bar.gang` completes at once, one that waits when its gang is dissolved too: its arrival stays made (DESIGN
CHOICE, log 71). A member that issued another instruction than the leader raises cause 11 at the release (R103). -/
def execBar (lv : Level) (s : State) : Out :=
  controlOnly (.bar lv) s fun s =>
    if lv = .gang ∧ !s.ctx.inGang then .next (s.past 4)
    else barrier lv none 0 s fun b s =>
      if lv = .gang ∧ b.vote.isSome then trap 11 (w0x (.bar lv)) s else .next (s.past 4)

/-- A vote (R103): in a helper, or outside a gang, its own vote. A vote for an instance at which SIGNAL has arrived already counts as
voting 0 and receives the result (DESIGN CHOICE, log 72). -/
def vote (i : Instr) (any : Bool) (rd ra : SReg) (s : State) : Out :=
  ready [ra, rd] s fun s =>
    let v := s.reg ra != 0
    if s.thr ≠ 0 ∨ !s.ctx.inGang then result 4 rd (if v then 1 else 0) s
    else barrier .gang (some (any, v)) rd s fun b s =>
      match b.vote with
      | some (k, r) => if k = any then result 4 rd (if r then 1 else 0) s else trap 11 (w0x i) s
      | none => trap 11 (w0x i) s

/-- BANY (R103). -/
def execBany (rd ra : SReg) (s : State) : Out := vote (.bany rd ra) true rd ra s

/-- BALL (R103). -/
def execBall (rd ra : SReg) (s : State) : Out := vote (.ball rd ra) false rd ra s

/-- SIGNAL (R101): arrives without waiting; a second SIGNAL waits for the release first. -/
def execSignal (ra : SReg) (s : State) : Out :=
  ready [ra] s fun s =>
    let a := s.reg ra
    match Level.ofBits (a.extractLsb' 0 2) with
    | none => trap 11 (w0x (.signal ra)) s
    | some lv =>
      if s.thr ≠ 0 ∨ a.extractLsb' 2 62 ≠ 0 then trap 11 (w0x (.signal ra)) s
      else if lv = .gang ∧ !s.ctx.inGang then .next (s.past 4)
      else if (s.ctx.bar lv).owed = some (s.ctx.bar lv).inst then
        stallOn 4 0 (.signal lv (s.ctx.bar lv).inst) s
      else if s.mayArrive then .next ((s.setCtx (s.ctx.arriveAt lv none)).past 4)
      else stallOn 4 0 .retry s

/-- The participants of a level (R99): the gang led by `leader`, the block on the die `leader`, or the spread. -/
def State.participants (s : State) (launch : Nat) (lv : Level) (leader : Nat) : List Nat :=
  match s.launch? launch with
  | none => []
  | some l =>
    match lv with
    | .spr => l.cores
    | .blk => l.cores.filter fun c => dieOf c == leader
    | .gang => l.cores.filter fun c =>
      match s.image c launch, s.image leader launch with
      | some x, some y => match x.gang, y.gang with
        | some g, some h => g.word == h.word && !g.dissolved
        | _, _ => false
      | _, _ => false

/-- Whether a participant has arrived at its current instance; one that has ended always has (R99). -/
def Ctx.atBarrier (x : Ctx) (lv : Level) : Bool := x.ended || (x.bar lv).owed == some (x.bar lv).inst

/-- The result of a vote over the members that issued the leader's instruction; the others count as voting 0 (R103). -/
def voteResult (any : Bool) (l : List (Option (Bool × Bool))) : Bool :=
  let v := l.map fun o => match o with | some (k, b) => k == any && b | none => false
  if any then v.any id else v.all id

/-- A participant after a release (R99, R103). A follower that was attached keeps what has been forwarded to it, whose REJOINs it has
still to count; one that was detached has discarded it (R97), and goes on with its own instruction where it stalls, or, where a switch has abandoned that,
executes it first of all (R98, R102). -/
def Ctx.released (x : Ctx) (lv : Level) (vote : Option (Bool × Bool)) (count : Nat) : Ctx :=
  let b := x.bar lv
  let y := x.setBar lv { b with inst := b.inst + 1, vote := if lv = .gang then vote else none }
  if lv = .gang then
    { y with gang := y.gang.map fun g =>
        if g.leader then g
        else if g.attached then
          if g.buffer.isEmpty && g.lane.isEmpty then { g with rejoins := count, seen := count } else g
        else
          { g with attached := true, rejoins := count, seen := count, lane := [],
                   buffer := if (x.thread 0).stall.isNone then g.held.toList else [],
                   held := (x.thread 0).ownStalled count } }
  else y

/-- BARRIER_RELEASE (R99, R100): once every participant has arrived, the instance is released. -/
def execBarrierRelease (launch : Nat) (lv : Level) (leader : Nat) (s : State) : Out :=
  let cs := s.participants launch lv leader
  let xs := cs.filterMap fun c => s.image c launch
  if cs.isEmpty || !(xs.all fun x => x.atBarrier lv) then .next s
  else
    let lead := s.image leader launch
    let res := match lead with
      | some y => match y.barGang.vote with
        | some (any, _) => some (any, voteResult any (xs.map fun x => x.barGang.vote))
        | none => none
      | none => none
    let count := match lead with
      | some y => match y.gang with | some g => g.rejoins | none => 0
      | none => 0
    .next (cs.foldl (fun s c => s.updImage c launch fun x => x.released lv res count) s)

/-! ## Phases (R66, R104) -/

/-- The context in a phase, with phcyc 0 (R66). -/
def Ctx.setPhase (x : Ctx) (now : Nat) (p : Phase) : Ctx := { x with phase := p, phcyc := BitVec.ofNat 64 now }

/-- PHASEC (R104). -/
def execPhasec (s : State) : Out := .next ((s.setCtx (s.ctx.setPhase s.now .compute)).past 4)

/-- PHASEX (R104). -/
def execPhasex (s : State) : Out := .next ((s.setCtx (s.ctx.setPhase s.now .exchange)).past 4)

/-- WAITC (R104): not ready while phcyc is below the operand. -/
def waitc (len : Nat) (b : State → W64) (s : State) : Out :=
  match s.th.stall with
  | some ⟨_, _, .waitc v⟩ => if (s.csr .phcyc).ult v then wait s else .next (s.past len)
  | _ => if (s.csr .phcyc).ult (b s) then .next (s.stall len 0 (.waitc (b s))) else .next (s.past len)

/-- WAITC (R104). -/
def execWaitc (rb : SReg) (s : State) : Out := ready [rb] s fun s => waitc 4 (fun s => s.reg rb) s

/-- WAITC with a literal (R104, R45). -/
def execWaitcLit (lit : W64) (s : State) : Out := waitc 12 (fun _ => lit) s

/-- WAITC_EXPIRY (R104): the thread is ready in the cycle in which phcyc reaches the operand. -/
def execWaitcExpiry (core thr : Nat) (s : State) : Out :=
  match (s.threadOn core thr).stall with
  | some ⟨_, _, .waitc v⟩ =>
    if (csrValue s.now core (s.core core) true (s.core core).run .phcyc).ult v then .next s
    else .next (s.finish core thr)
  | _ => .next s

end Sys2Proof.Machine
end

