-- ==== Sys2Proof/Machine/CopyOps.lean ====
section
/-!
DEFINITION. What a copy engine does with a transfer: its walk (R177, R178), its checks (R182), reading and writing elements
(R184–R186), drains of a tile (R243), and the slots of completion rings (R188).
-/

namespace Sys2Proof.Machine

open Sys2Proof

/-! ## Shape records (R177) -/

/-- Dimension `d` of a record. -/
def dimOf (r : BitVec 768) (d : Nat) : Dim where
  stride := r.extractLsb' (128 + 128 * d) 40
  size := (r.extractLsb' (168 + 128 * d) 24).toNat
  lo := (r.extractLsb' (192 + 128 * d) 24).toNat
  hi := (r.extractLsb' (216 + 128 * d) 24).toNat

/-- The shape that a record's bits give; dimensions at or above ndim are ignored. -/
def shapeOf (r : BitVec 768) : Shape :=
  let n := (r.extractLsb' 0 3).toNat
  ⟨n, (r.extractLsb' 4 4).toNat, r.getLsbD 8, (List.range (min n 5)).map (dimOf r)⟩

/-- Bytes of an element. -/
def Shape.es (h : Shape) : Nat := match h.ty with | 0 | 5 | 6 => 4 | 1 | 2 | 7 => 2 | _ => 1

/-- The part of check SHAPE that needs no address (R182). -/
def Shape.ok (h : Shape) : Bool :=
  decide (1 ≤ h.ndim) && decide (h.ndim ≤ 5) && decide (h.ty ≤ 12) && h.dims.all (fun d => d.size != 0) &&
    (!h.clip || h.dims.all fun d => decide (d.lo ≤ d.hi) && decide (d.hi ≤ d.size)) &&
    decide (h.dims.foldl (fun n d => n * d.size) 1 ≤ 2 ^ 32)

/-! ## The walk (R178) -/

/-- Index vectors in walk order, dimension 0 fastest. -/
def indices : List Dim → List (List Nat)
  | [] => [[]]
  | d :: ds => (indices ds).flatMap fun t => (List.range d.size).map fun i => i :: t

/-- The strided offset of an index vector. -/
def Shape.soff (h : Shape) (i : List Nat) : W64 :=
  (h.dims.zip i).foldl (fun a (d, n) => a + BitVec.ofNat 64 n * sx d.stride) 0

/-- Whether an index vector lies in the box. -/
def Shape.inbox (h : Shape) (i : List Nat) : Bool :=
  !h.clip || (h.dims.zip i).all fun (d, n) => decide (d.lo ≤ n) && decide (n < d.hi)

/-- One element that a transfer writes: its source, none for zero bytes or a tile's element, its destination, and its
index vector. -/
structure Move where
  src : Option W64
  dst : W64
  idx : List Nat
  deriving DecidableEq, Repr

/-- Whether a transfer is a drain. -/
def Transfer.isDrain (t : Transfer) : Bool := match t.kind with | .drain _ _ _ _ => true | _ => false

/-- The elements that a transfer writes, in walk order. -/
def Transfer.moves (t : Transfer) : List Move :=
  let h := t.shape
  (indices h.dims).zipIdx.filterMap fun (i, k) =>
    let dense := BitVec.ofNat 64 (k * h.es)
    if t.isDrain then if h.inbox i then some ⟨none, t.dst + h.soff i, i⟩ else none
    else if t.dstr then if h.inbox i then some ⟨some (t.src + dense), t.dst + h.soff i, i⟩ else none
    else some ⟨if h.inbox i then some (t.src + h.soff i) else none, t.dst + dense, i⟩

/-! ## Local elements (R64, R109, R182) -/

/-- Check BOUNDS on `n` bytes at an OPM address, for a command of core `c`. Every context of a launch has the same region (R64, R296). -/
def State.opmOk (s : State) (c launch origin region : Nat) (mtiles : BitVec 16) (a : W64) (n : Nat) : Bool :=
  let off := opmOff a
  !notOpm a && decide (opmDie a ≤ 7) && rowColOk a &&
    match opmType a with
    | 0 =>
      if opmCore a = c then decide (off + n ≤ region)
      else s.inSpread launch (opmCore a) && decide (origin ≤ off) && decide (off + n ≤ origin + region)
    | 4 => decide (off + n ≤ 0x800000)
    | 5 => decide (off + n ≤ 0x100000) && n == 4 && mtiles.getLsbD (opmTile a)
    | 6 => decide (off + n ≤ 0x8000) && n == 2
    | _ => false

/-- The ULM byte that a window-0 address of core `c` names (R64). -/
def ulmByte (c origin : Nat) (a : W64) : Nat := if opmCore a = c then origin + opmOff a else opmOff a

/-- `n` bytes at a checked OPM address, for a command of core `c`. -/
def State.opmRead (s : State) (c launch origin : Nat) (a : W64) (n : Nat) : List Byte :=
  let k := opmCore a
  match opmType a with
  | 0 => s.ulmBytes k launch (ulmByte c origin a) n
  | 4 => (s.cluster (clusterOf k)).scratch.bytes (opmOff a) n
  | 5 => (s.cluster (clusterOf k)).tiles.bytes (opmOff a) n
  | _ => (s.cluster (clusterOf k)).tables.bytes (opmOff a) n

/-- Bytes written at a checked OPM address. -/
def State.opmWrite (s : State) (c launch origin : Nat) (a : W64) (bs : List Byte) : State :=
  let k := opmCore a
  let x := s.cluster (clusterOf k)
  match opmType a with
  | 0 => s.ulmWrite k launch (ulmByte c origin a) bs
  | 4 => s.setCluster (clusterOf k) { x with scratch := x.scratch.writeBytes (opmOff a) bs }
  | 5 => s.setCluster (clusterOf k) { x with tiles := x.tiles.writeBytes (opmOff a) bs }
  | _ => s.setCluster (clusterOf k) { x with tables := x.tables.writeBytes (opmOff a) bs }

/-- The full/empty bits of the ULM granules that `n` bytes at an OPM address touch are set (R184). -/
def State.opmFull (s : State) (c launch origin : Nat) (a : W64) (n : Nat) : State :=
  if opmType a = 0 then s.ulmFill (opmCore a) launch (ulmByte c origin a) n else s

/-! ## Checks (R182) -/

/-- Whether a drain's shape fits its mode (R243). -/
def drainShapeOk (mode : BitVec 3) (h : Shape) : Bool :=
  decide (h.ndim ≤ 2) && h.dims.all (fun d => decide (d.size ≤ 128)) &&
    match mode.toNat with
    | 0 => h.ty == 0 || h.ty == 5 || h.ty == 6
    | 1 => h.ty == 1
    | 2 => h.ty == 0
    | 3 => h.ty == 5 || h.ty == 6
    | 4 => h.ty == 8
    | _ => h.ty == 9

/-- Check SHAPE. -/
def Transfer.shapeOk (t : Transfer) (ms : List Move) : Bool :=
  let aligned (a : W64) : Bool := a.toNat % t.shape.es == 0
  t.shape.ok && (match t.kind with | .drain mode _ _ _ => drainShapeOk mode t.shape | _ => true) &&
    ms.all fun m => aligned m.dst && (match m.src with | some a => aligned a | none => true)

/-- Check BOUNDS. -/
def State.boundsGood (s : State) (t : Transfer) (ms : List Move) : Bool :=
  let ok (a : W64) : Bool := s.opmOk t.core t.launch t.origin t.region t.mtiles a t.shape.es
  ms.all fun m =>
    (t.ssh || (match m.src with | some a => ok a | none => true)) &&
      (t.dsh ||
        match t.kind with
        | .multicast _ _ => decide (m.dst.toNat + t.shape.es ≤ t.region)
        | _ => ok m.dst)

/-- The 64 KiB pages of shared addresses, each by an address in it. -/
def pagesOf (l : List W64) : List W64 :=
  l.foldl (fun (ps : List W64) (a : W64) => if ps.any fun p => p >>> 16 == a >>> 16 then ps else ps ++ [a]) []

/-- The outcome of translating every page that a transfer touches. -/
inductive Pages where
  | ok
  | denied
  | waiting
  deriving DecidableEq, Repr

/-- The number under which a transfer's accesses miss: of the transfers in flight each has its own. -/
def Transfer.acc (t : Transfer) : Nat := 32 * t.no + t.ch

/-- The translation that a transfer has obtained for an access to a page, if it has not expired (R165). -/
def Transfer.entry (t : Transfer) (now : Nat) (kind : Access) (a : W64) : Option TlbEntry :=
  (t.trans.find? fun x => x.kind == kind && x.page == a.toNat >>> 16 && !x.entry.expired now).map (·.entry)

/-- The misses of the accesses of a transfer are dropped: it completes without them (R170). -/
def State.forgetTransfer (s : State) (k acc : Nat) : State :=
  [Access.copyRead, .copyWrite, .codeLoad].foldl (fun s kind => s.forget k .copy acc kind) s

/-- Translation of a list of accesses of a transfer, which keeps what it obtains: a denial decides, otherwise any page may still be waited
for. -/
def State.pages (s : State) (k : Nat) (t : Transfer) : List (Access × W64) → Pages × Transfer × State
  | [] => (.ok, t, s)
  | (kind, a) :: l =>
    if (t.entry s.now kind a).isSome then s.pages k t l
    else match s.translate k .copy t.acc t.ctxid t.launch kind a with
      | (.denied, s) => (.denied, t, s.forgetTransfer k t.acc)
      | (.waiting, s) => match s.pages k t l with
        | (.denied, t, s) => (.denied, t, s)
        | (_, t, s) => (.waiting, t, s)
      | (.hit e, s) => s.pages k { t with trans := t.trans ++ [⟨kind, a.toNat >>> 16, e⟩] } l

/-- The accesses of a transfer to shared pages (R165, R182). -/
def Transfer.accesses (t : Transfer) (ms : List Move) : List (Access × W64) :=
  (if t.ssh then (pagesOf (ms.filterMap (·.src))).map fun a => (if t.code then .codeLoad else .copyRead, a) else []) ++
    (if t.dsh then (pagesOf (ms.map (·.dst))).map fun a => (.copyWrite, a) else [])

/-- Granules that records write, each once. -/
def granules (rs : List LogRec) : List (BitVec 44) := (rs.map (·.gran)).dedup

/-- Granules homed at a G-die of this device among records (R164): another device's pools are that device's own (log 106). -/
def granulesAt (rs : List LogRec) (g : Nat) : Nat :=
  (granules (rs.filter fun r => r.gdie == g && r.homed.any fun h => h.pa / 2 ^ 41 == Config.device)).length

/-- The size of a G-die's shadow pool in granules; 2^26 unless management has set it (R185). -/
def State.poolSize (s : State) (g : Nat) : Nat := s.shadowPool.get g (2 ^ 26)

/-- Pool space in use at a G-die: shadows that are not published, deferred shadows, and engine publications not yet applied (R185). -/
def State.poolUsed (s : State) (g : Nat) : Nat :=
  let held (t : Transfer) : Bool := t.pub.isNone || t.state == .done 1
  let inCluster (x : Cluster) : Nat :=
    (x.channels.toList.map fun c => (c.queue.map fun t => if held t then granulesAt t.shadow g else 0).sum).sum +
      (x.deferred.map fun d => granulesAt d.records g).sum
  (s.clusters.map fun (_, x) => inCluster x).sum +
    (s.pubs.map fun p => if p.engine && !p.applied then granulesAt p.records g else 0).sum

/-! ## What a drain makes of a tile element (R243) -/

/-- A value saturated to a range, and whether it was outside. -/
def satTo (lo hi v : Int) : Int × Bool := if v < lo then (lo, true) else if hi < v then (hi, true) else (v, false)

/-- Requantisation with an entry of R242. -/
def requant (signed : Bool) (q : W64) (x : W32) : W32 × Bool :=
  let m : Int := (q.extractLsb' 0 32).toInt
  let sh : Int := (q.extractLsb' 32 8).toInt
  let zo : Int := (q.extractLsb' 48 16).toInt
  let v := x.toInt * m
  let r := (roundInt 0 (decide (v < 0)) v.natAbs (-31 - sh) false).1 + zo
  let (y, sat) := if signed then satTo (-128) 127 r else satTo 0 255 r
  (BitVec.ofInt 32 y, sat)

/-- BF16 of an FP32 word (R243, mode 1). -/
def toBf16 (x : W32) : W32 :=
  let r := (bf16.roundNum 0 (fp32.decode x)).1
  if bf16.subnormal r then bf16.zero (bf16.negOf r) else r

/-- The output of a tile element in column `col`, and whether it saturated. -/
def drainOut (mode : BitVec 3) (rq : List W64) (col : Nat) (x : W32) : W32 × Bool :=
  match mode.toNat with
  | 1 => (toBf16 x, false)
  | 4 => requant true ((rq[col]?).getD 0) x
  | 5 => requant false ((rq[col]?).getD 0) x
  | _ => (x, false)

/-- Kind of the records that a drain's shadow holds: writes, FP32 adds (2) or INT32 adds (3). -/
def drainKind (mode : BitVec 3) : BitVec 4 := match mode.toNat with | 2 => 2 | 3 => 3 | _ => 0

/-! ## Moving data (R178, R184–R186) -/

/-- Elements in walk order with what their destinations receive. -/
abbrev Vals := List (W64 × List Byte)

/-- The value of a drain's element, read from the tile at (i1, i0) and there set to 0 under `z`; a saturated output is counted. -/
def State.drainElem (s : State) (k : Nat) (t : Transfer) (mode : BitVec 3) (z : Bool) (td : TReg) (m : Move) :
    List Byte × Nat × State :=
  let col := m.idx.headD 0
  let a := td.toNat * 65536 + (m.idx.tail.headD 0) * 512 + col * 4
  let x := s.cluster k
  let (v, sat) := drainOut mode t.rq col (x.tiles.readLE a 4 32)
  let s := if z then s.setCluster k { x with tiles := x.tiles.writeLE a 4 (0 : W32) } else s
  (leBytes v t.shape.es, if sat then 1 else 0, s)

/-- Elements of a drain one at a time in walk order (R178, R243): each is read, and `put` says where it goes. -/
def State.drainEach (s : State) (k : Nat) (t : Transfer) (mode : BitVec 3) (z : Bool) (td : TReg) (put : State → W64 → List Byte → State)
    (ms : List Move) : Vals × Nat × State :=
  ms.foldl (fun (vs, n, s) m =>
    let (bs, sat, s) := s.drainElem k t mode z td m
    (vs ++ [(m.dst, bs)], n + sat, put s m.dst bs)) ([], 0, s)

/-- The bytes of a source element with the granules of a shared source read so far: each is read once, at its home (R186). -/
def State.srcBytes (s : State) (t : Transfer) (src : Option W64) (seen : PMap (BitVec 128)) :
    List Byte × PMap (BitVec 128) :=
  let n := t.shape.es
  match src with
  | none => (List.replicate n 0, seen)
  | some a =>
    if t.ssh then match t.entry s.now (if t.code then .codeLoad else .copyRead) a with
      | some e =>
        let key := e.key a.toNat
        let g := PMap.get seen (key / 16) (s.home.readLE (key / 16 * 16) 16 128)
        (leBytes (g >>> (8 * (key % 16))) n, PMap.put seen (key / 16) g)
      | none => (List.replicate n 0, seen)
    else (s.opmRead t.core t.launch t.origin a n, seen)

/-- Local destinations of an element: of a multicast, each receiver's region (R192). -/
def State.localPut (s : State) (t : Transfer) (a : W64) (bs : List Byte) : State :=
  match t.kind with
  | .multicast rect _ => (rectOf rect).cores.foldl (fun s c => s.ulmWrite c t.launch (t.origin + a.toNat) bs) s
  | _ => s.opmWrite t.core t.launch t.origin a bs

/-- Full/empty bits of the granules of an element's destinations. -/
def State.localFull (s : State) (t : Transfer) (a : W64) : State :=
  match t.kind with
  | .multicast rect _ => (rectOf rect).cores.foldl (fun s c => s.ulmFill c t.launch (t.origin + a.toNat) t.shape.es) s
  | _ => s.opmFull t.core t.launch t.origin a t.shape.es

/-- Elements moved to a local destination one at a time in walk order. -/
def State.moveLocal (s : State) (t : Transfer) (ms : List Move) : State × PMap (BitVec 128) :=
  ms.foldl (fun (s, seen) m =>
    let (bs, seen) := s.srcBytes t m.src seen
    (s.localPut t m.dst bs, seen)) (s, t.seen)

/-- Elements read for a shared destination. -/
def State.readList (s : State) (t : Transfer) (ms : List Move) : Vals × PMap (BitVec 128) :=
  ms.foldl (fun (vs, seen) m =>
    let (bs, seen) := s.srcBytes t m.src seen
    (vs ++ [(m.dst, bs)], seen)) ([], t.seen)

/-- A byte put into a list of granules with their masks and data; a new granule goes to the end. -/
def putShadow (a : Nat) (b : Byte) : List (BitVec 44 × BitVec 16 × BitVec 128) → List (BitVec 44 × BitVec 16 × BitVec 128)
  | [] => [(BitVec.ofNat 44 (a / 16), BitVec.twoPow 16 (a % 16), b.setWidth 128 <<< (8 * (a % 16)))]
  | (g, m, d) :: l =>
    if g.toNat = a / 16 then
      (g, m ||| BitVec.twoPow 16 (a % 16), maskMerge d (b.setWidth 128 <<< (8 * (a % 16))) (BitVec.twoPow 16 (a % 16))) :: l
    else (g, m, d) :: putShadow a b l

/-- The home of a granule by its page's translation. -/
def State.homeOf (s : State) (t : Transfer) (va : Nat) : Option Homed :=
  (t.entry s.now .copyWrite (BitVec.ofNat 64 va)).map fun e => ⟨e.key va, e.size, e.mca, e.repl, s.now⟩

/-- A shadow record of a transfer at a granule, at the home that it had when an element of it last moved, or has now. -/
def State.shadowRec (s : State) (t : Transfer) (kind : BitVec 4) (g : BitVec 44) (m : BitVec 16) (d : BitVec 128) : LogRec :=
  let homed := match PMap.find? t.homes g.toNat with
    | some h => some h
    | none => s.homeOf t (g.toNat * 16)
  ⟨kind, g, m, d, t.ctxid, 0, t.launch, 0, none, false, homed, none⟩

/-- The homes of the granules of elements that move now (R173, R183). -/
def State.homesOf (s : State) (t : Transfer) (vs : Vals) : PMap Homed :=
  vs.foldl (fun m (a, _) => match s.homeOf t (a.toNat / 16 * 16) with
    | some h => PMap.put m (a.toNat / 16) h
    | none => m) t.homes

/-- The word at an address in a list of words set, a later one replacing an earlier one. -/
def putWord (a : W64) (v : W32) : List (W64 × W32) → List (W64 × W32)
  | [] => [(a, v)]
  | (b, w) :: l => if a = b then (a, v) :: l else (b, w) :: putWord a v l

/-- The shadow of a transfer with a shared destination (R185): granules with the bytes written, the later in the walk
winning; for the add modes one record for each word (R243). -/
def State.shadowOf (s : State) (t : Transfer) (vs : Vals) : List LogRec :=
  let kind := match t.kind with | .drain mode _ _ _ => drainKind mode | _ => 0
  if kind = 0 then
    (vs.foldl (fun l (a, bs) => bs.zipIdx.foldl (fun l (b, j) => putShadow (a.toNat + j) b l) l) []).map fun (g, m, d) =>
      s.shadowRec t 0 g m d
  else (vs.foldl (fun l (a, bs) => putWord a (BitVec.ofNat 32 (leNat bs)) l) []).map fun (a, v) =>
    s.shadowRec t kind (a.extractLsb' 4 44) (granMask (a.toNat % 16) 4) (v.setWidth 128 <<< (8 * (a.toNat % 16)))

/-! ## Rings (R188, R189) -/

/-- Slots of a ring that are taken. -/
def Ring.used (r : Ring) : Nat := (r.wp - r.rp).toNat

/-- A ring of a cluster. -/
def Cluster.ring (x : Cluster) (n : Nat) : Ring := x.rings.get n Ring.reset

/-- Every transfer of a cluster's program channels. -/
def Cluster.transfers (x : Cluster) : List Transfer := x.channels.toList.flatMap (·.queue)

/-- Transfers of a ring whose publication is made and whose slot is not written. -/
def Cluster.pendingSlots (x : Cluster) (ring : Nat) : List Transfer :=
  x.transfers.filter fun t => t.ring == ring && t.pub.isSome

/-- Whether a transfer may take a slot of its ring beside those that wait for their publications. -/
def Cluster.slotFree (x : Cluster) (ring : Nat) : Bool :=
  decide ((x.ring ring).used + (x.pendingSlots ring).length < (x.ring ring).size)

/-- A slot written, and the configuring context woken (R107, R188). -/
def State.putSlot (s : State) (k ring : Nat) (w0 w1 : W64) : State :=
  let x := s.cluster k
  let r := x.ring ring
  if r.size = 0 then s
  else
    let r' : Ring := { r with slots := PMap.put r.slots (r.wp.toNat % r.size) (w0, w1), wp := r.wp + 1 }
    let s := s.setCluster k { x with rings := PMap.put x.rings ring r' }
    match r.owner with
    | some (c, l) => s.updImage c l fun y => { y with wakes := y.wakes + 1 }
    | none => s

/-- Word 0 of a slot. -/
def slotWord (tag : W32) (ch status : Nat) : W64 :=
  tag ++ (0 : BitVec 5) ++ BitVec.ofNat 3 ch ++ (0 : BitVec 16) ++ BitVec.ofNat 8 status

end Sys2Proof.Machine
end

