-- ==== Sys2Proof/Machine/Copy.lean ====
section
/-!
DEFINITION. The copy engine (R176–R193): CPY, CPYM, CPYCH and the ring instructions, with the events of its channels.
-/

namespace Sys2Proof.Machine

open Sys2Proof

/-- The first word of an engine instruction (R179). -/
def xeWord (xop : BitVec 9) (rb ra rd : BitVec 5) : W64 := (W0.pack ⟨xop, rb, ra, rd, 0x3F, 2⟩).setWidth 64

/-- R67's check with the instruction's first word given; one that has issued has passed it. -/
def phaseCheck (bad : Bool) (w0 : W64) (s : State) (k : State → Out) : Out :=
  if s.ctx.phase = .compute ∧ bad ∧ s.th.stall = none then trap 6 w0 s else k s

/-- The instruction completes with `xstat.ACCERR` set and a result. -/
def copyFail (rd : SReg) (v : W64) (s : State) : Out := result 12 rd v s.setAccerr

/-- A retried condition: the instruction goes on when it holds, and stalls until then. -/
def waitFor (len : Nat) (b : Bool) (s : State) (go : State → Out) : Out :=
  if b then go s
  else match s.th.stall with
    | some _ => wait s
    | none => .next (s.stall len 0 .retry)

/-! ## Queueing transfers (R180, R187) -/

/-- A channel of a cluster. -/
def Cluster.channel (x : Cluster) (ch : Nat) : Channel := if h : ch < 8 then x.channels[ch] else Channel.reset

/-- The cluster with a channel replaced. -/
def Cluster.setChannel (x : Cluster) (ch : Nat) (c : Channel) : Cluster :=
  if h : ch < 8 then { x with channels := x.channels.set ch c h } else x

/-- The latest application tick of the publications of a context whose REL holds a slot (R157). -/
def State.relAfter (s : State) (core launch : Nat) : Nat :=
  (s.pubs.filter fun p => p.core == core && p.launch == launch && !p.engine && p.obj.isSome).foldl
    (fun t p => max t (p.app.getD 0)) 0

/-- A transfer of a context as it is queued: its number is given by the channel. -/
def State.transfer (s : State) (x : Ctx) (core : Nat) (ssh dsh dstr defer code : Bool) (src dst : W64) (shape : BitVec 768)
    (ch ring : Nat) (tag : W32) (kind : TransferKind) : Transfer where
  no := 0
  core := core
  launch := x.launch
  ctxid := x.ctxid
  mtiles := x.mtiles
  ssh := ssh
  dsh := dsh
  dstr := dstr
  defer := defer
  code := code
  src := src
  dst := dst
  shape := shapeOf shape
  ch := ch
  ring := ring
  tag := tag
  kind := kind
  state := .queued
  after := s.relAfter core x.launch
  origin := x.origin
  region := x.region
  rq := []
  next := 0
  early := []
  moved := 0
  trans := []
  got := []
  seen := []
  shadow := []
  homes := []
  chainRec := none
  pub := none

/-- A channel whose queue has a free place (R176). -/
def State.roomOn (s : State) (k ch : Nat) : Bool := decide (((s.cluster k).channel ch).queue.length < 16)

/-- A transfer queued on its channel, with the next number (R187); `front` puts it before those that wait. -/
def State.enqueueCopy (s : State) (k : Nat) (t : Transfer) (front : Bool) : Nat × State :=
  let x := s.cluster k
  let c := x.channel t.ch
  let n := c.lastNo + 1
  let t := { t with no := n }
  (n, s.setCluster k (x.setChannel t.ch { c with lastNo := n, queue := if front then t :: c.queue else c.queue ++ [t] }))

/-- The ring that a command names exists and has a size (R180, R189). -/
def State.ringOk (s : State) (k ring : Nat) : Bool := decide (ring ≤ 63) && ((s.cluster k).ring ring).size != 0

/-- CPY (R180, R181). -/
def execCpy (ssh dsh dstr defer code : Bool) (ch : BitVec 3) (rd ra rb rc : SReg) (ring : BitVec 8) (tag : W32) (s : State) :
    Out :=
  ready [ra, rb, rc, rd] s fun s =>
    let (a, b, c) := (s.reg ra, s.reg rb, s.reg rc)
    let out (v : W64) : Bool := leavesCluster s.focus v
    phaseCheck (ssh || dsh || out a || out b || out c) (xeWord 23 rb ra rd) s fun s =>
      let queue (h : BitVec 768) (s : State) : Out :=
        if s.roomOn s.clu ch.toNat then
          let t := s.transfer s.ctx s.focus ssh dsh dstr defer code a b h ch.toNat ring.toNat tag .plain
          let (n, s) := s.enqueueCopy s.clu t false
          result 12 rd (BitVec.ofNat 64 n) s
        else match s.th.stall with
          | some _ => wait s
          | none => .next (s.stall 12 rd (.copy h))
      match s.th.stall with
      | some ⟨_, _, .copy h⟩ => queue h s
      | _ =>
        match engineLoc s.focus s.ctx c 96 with
        | none => copyFail rd 0 s
        | some l =>
          if !s.ringOk s.clu ring.toNat || (defer && !dsh) || (code && (!ssh || dsh || notOpm b || opmType b != 0)) then
            copyFail rd 0 s
          else queue (BitVec.ofNat 768 (leNat (s.engineBytes s.focus l 96))) s

/-- The rules of R94 that a multicast's rectangle word obeys (R192). -/
def mcastOk (s : State) (w : W64) : Bool :=
  let r := rectOf w
  w.extractLsb' 20 44 == 0 && decide (r.w ≤ 8) && decide (r.h ≤ 8) && r.inside &&
    r.cores.all fun c => s.inSpread s.ctx.launch c

/-- CPYM (R192): it waits for the tree, which queues the transfer. -/
def execCpym (ssh dstr : Bool) (flag : BitVec 2) (ch : BitVec 3) (rd ra rb rc : SReg) (ring : BitVec 8) (off : W32)
    (s : State) : Out :=
  ready [ra, rb, rc, rd] s fun s => phaseCheck true (xeWord 24 rb ra rd) s fun s =>
    match s.th.stall with
    | some ⟨_, _, .mcast _⟩ => wait s
    | _ =>
      match engineLoc s.focus s.ctx (s.reg rc) 96 with
      | none => copyFail rd 0 s
      | some l =>
        if !s.ringOk s.clu ring.toNat || !mcastOk s (s.reg rb) || decide (0x40000 ≤ off.toNat) then copyFail rd 0 s
        else
          let h := BitVec.ofNat 768 (leNat (s.engineBytes s.focus l 96))
          .next (s.stall 12 rd (.mcast ⟨s.now, flag, s.reg rb, h, ssh, dstr, ch, s.reg ra, ring, off⟩))

/-- The number under which the accesses of a channel's chain to its records miss. -/
def chainAcc (ch : Nat) : Nat := 9 + ch

/-- CPYCH (R191): waits until the channel's previous chain has ended. -/
def execCpych (sh : Bool) (ch : BitVec 3) (ra : SReg) (ring : BitVec 8) (s : State) : Out :=
  ready [ra] s fun s => phaseCheck true (xeWord 25 0 ra 0) s fun s =>
    let x := s.cluster s.clu
    let c := x.channel ch.toNat
    waitFor 12 c.chain.isNone s fun s =>
      let y := s.ctx
      let h : Chain := ⟨some (s.reg ra), sh, ring.toNat, s.focus, y.launch, y.ctxid, y.mtiles, y.origin, y.region,
        s.relAfter s.focus y.launch, false, false⟩
      .next (((s.setCluster s.clu (x.setChannel ch.toNat { c with chain := some h })).forgetTransfer s.clu (chainAcc ch.toNat)).past 12)

/-! ## Rings (R187, R189, R190) -/

/-- CRING (R189): waits until no transfer names the ring. -/
def execCring (ra rb : SReg) (s : State) : Out :=
  ready [ra, rb] s fun s =>
    let a := s.reg ra
    let b := s.reg rb
    if 63 < a.toNat ∨ 256 < b.toNat then .next (s.setAccerr.past 12)
    else
      let x := s.cluster s.clu
      waitFor 12 (!(x.transfers.any fun t => t.ring == a.toNat)) s fun s =>
        let r : Ring := ⟨b.toNat, 0, 0, [], some (s.focus, s.ctx.launch)⟩
        .next ((s.setCluster s.clu { x with
          rings := PMap.put x.rings a.toNat r
          deferred := x.deferred.filter fun d => d.ring != a.toNat }).past 12)

/-- CAWAIT (R189): word 0 or word 1 of the slot at rp, once there is one. -/
def execCawait (seq : Bool) (rd ra : SReg) (s : State) : Out :=
  ready [ra, rd] s fun s =>
    let a := (s.reg ra).toNat
    if !s.ringOk s.clu a then copyFail rd poison64 s
    else
      let r := (s.cluster s.clu).ring a
      waitFor 12 (r.wp != r.rp) s fun s =>
        let w := PMap.get r.slots (r.rp.toNat % r.size) (0, 0)
        result 12 rd (if seq then w.2 else w.1) s

/-- CREL (R189). -/
def execCrel (ra : SReg) (s : State) : Out :=
  ready [ra] s fun s =>
    let a := (s.reg ra).toNat
    if !s.ringOk s.clu a then .next (s.setAccerr.past 12)
    else
      let x := s.cluster s.clu
      let r := x.ring a
      waitFor 12 (r.wp != r.rp) s fun s =>
        .next ((s.setCluster s.clu { x with rings := PMap.put x.rings a { r with rp := r.rp + 1 } }).past 12)

/-- CSEQ (R187): a channel's completed number. -/
def execCseq (rd ra : SReg) (s : State) : Out :=
  ready [ra, rd] s fun s =>
    let a := (s.reg ra).toNat
    if 7 < a then copyFail rd poison64 s else result 12 rd (BitVec.ofNat 64 ((s.cluster s.clu).channel a).doneNo) s

/-- BFREE (R192). -/
def execBfree (ra : SReg) (s : State) : Out :=
  ready [ra] s fun s =>
    let a := s.reg ra
    if a.extractLsb' 2 62 ≠ 0 then .next (s.setAccerr.past 12)
    else .next ((s.setCtx { s.ctx with bufFree := s.ctx.bufFree ||| BitVec.twoPow 4 a.toNat }).past 12)

/-- The source number of a cluster's copy engine (R135). -/
def copySource (k : Nat) : Nat := 2048 + k

/-- PUBLISH (R190): one publication of a ring's deferred shadows; it waits for the application tick. -/
def execPublish (rd ra : SReg) (s : State) : Out :=
  ready [ra, rd] s fun s => phaseCheck true (xeWord 31 0 ra rd) s fun s =>
    let a := (s.reg ra).toNat
    if !s.ringOk s.clu a then copyFail rd 0 s
    else match s.th.stall with
      | some ⟨_, _, .publish id n⟩ =>
        if s.pubs.any fun p => p.id == id && !p.applied then wait s else result 12 rd (BitVec.ofNat 64 n) s
      | _ =>
        let x := s.cluster s.clu
        let ds := x.deferred.filter fun d => d.ring == a
        if ds.isEmpty then result 12 rd 0 s
        else
          let id := s.ids
          let s := s.setCluster s.clu { x with deferred := x.deferred.filter fun d => d.ring != a }
          let s := s.publish (copySource s.clu) false .dev none s.focus s.ctx.launch true true (ds.flatMap (·.records)) (some s.now)
          .next (s.stall 12 rd (.publish id ds.length))

/-- Whether a CPYM that waits at the tree is before another: arrival tick, core, thread (R192). -/
def mcastBefore (t c h t' c' h' : Nat) : Bool :=
  decide (t < t') || (t == t' && (decide (c < c') || (c == c' && decide (h < h'))))

/-- Whether another CPYM of the launch waits before this one on the same flag of an overlapping rectangle (R192). -/
def State.mcastAhead (s : State) (core thr launch : Nat) (m : Multicast) : Bool :=
  s.cores.any fun (c, k) => k.run.of launch && (List.finRange 11).any fun h =>
    match (k.run.thread h).stall with
    | some ⟨_, _, .mcast n⟩ =>
      n.flag == m.flag && mcastBefore n.at_ c h.val m.at_ core thr &&
        (rectOf n.rect).cores.any fun d => (rectOf m.rect).cores.contains d
    | _ => false

/-- Every context of a rectangle is resident with a buffer-free flag set. -/
def State.allFree (s : State) (launch : Nat) (flag : BitVec 2) (rect : W64) : Bool :=
  (rectOf rect).cores.all fun c => match s.ctxOf c launch with | some x => x.bufFree.getLsbD flag.toNat | none => false

/-- MULTICAST_GRANT (R192): the tree has turned true for a waiting CPYM: in one step it clears the flag in every context of
the rectangle and queues the transfer. -/
def execMulticastGrant (core thr : Nat) (s : State) : Out :=
  let x := (s.core core).run
  let k := clusterOf core
  match (x.thread (thrOf thr)).stall with
  | some ⟨len, rd, .mcast m⟩ =>
    if s.mcastAhead core thr x.launch m || !s.allFree x.launch m.flag m.rect || !s.roomOn k m.ch.toNat then .next s
    else
      let s := (rectOf m.rect).cores.foldl (fun s c => s.updCtx c x.launch fun y =>
        { y with bufFree := y.bufFree &&& ~~~BitVec.twoPow 4 m.flag.toNat }) s
      let t := s.transfer x core m.ssh false m.dstr false false m.src (m.off.setWidth 64) m.shape m.ch.toNat m.ring.toNat m.off
        (.multicast m.rect m.off)
      let (n, s) := s.enqueueCopy k t false
      .next (s.updCtx core x.launch fun y =>
        y.setThread (thrOf thr) (((y.thread (thrOf thr)).setReg rd (BitVec.ofNat 64 n)).past len))
  | _ => .next s

/-! ## A transfer at the head of its channel (R176, R182) -/

/-- The transfer at the head of a channel (8: the loader) that may run: while a chain runs, only its own (R176). -/
def Cluster.headOf (x : Cluster) (ch : Nat) : Option Transfer :=
  if ch = 8 then x.loader.head?
  else
    let c := x.channel ch
    match c.queue.head?, c.chain with
    | some t, some h => if h.started && t.chainRec.isNone then none else some t
    | o, none => o
    | none, some _ => none

/-- The transfer at the head of a channel replaced. -/
def State.setHead (s : State) (k ch : Nat) (t : Transfer) : State :=
  let x := s.cluster k
  if ch = 8 then s.setCluster k { x with loader := t :: x.loader.drop 1 }
  else
    let c := x.channel ch
    s.setCluster k (x.setChannel ch { c with queue := t :: c.queue.drop 1 })

/-- Saturating addition to a field of the matrix status word (R236). -/
def addField (w : W64) (lo n : Nat) : W64 :=
  let v := sat16 ((w.extractLsb' lo 16).toNat + n)
  (w &&& ~~~((0xFFFF : W64) <<< lo)) ||| (v.setWidth 64 <<< lo)

/-- Counts added to a matrix status word: sat, nan, drop. -/
def addCounts (w : W64) (sat nan drop : Nat) : W64 := addField (addField (addField w 32 sat) 16 nan) 0 drop

/-- Counts added to the status word of a context (R236). -/
def State.countMatrix (s : State) (c launch sat nan drop : Nat) : State :=
  s.updImage c launch fun y => { y with mx := { y.mx with status := addCounts y.mx.status sat nan drop } }

/-- A drain is complete for its matrix unit: it has read its tile, or failed (R243). -/
def State.drainDone (s : State) (k : Nat) (t : Transfer) : State :=
  match t.kind with
  | .drain _ _ _ q => s.setCluster k { s.cluster k with mxGranted := (s.cluster k).mxGranted.filter fun g => g.entry.seq != q }
  | _ => s

/-- The head of a channel finishes with a status and writes nothing (R182, R183). -/
def State.failHead (s : State) (k ch : Nat) (t : Transfer) (status : Nat) : State :=
  (s.drainDone k t).setHead k ch { t with state := .done status }

/-- TRANSFER_START (R182): the checks of the transfer at the head, in order; translation may have to wait. -/
def execTransferStart (cluster ch : Nat) (s : State) : Out :=
  match (s.cluster cluster).headOf ch with
  | none => .next s
  | some t =>
    if t.state ≠ .queued then .next s
    else
      let fail (n : Nat) (s : State) : Out := .next (s.failHead cluster ch t n)
      if !t.shape.ok then fail 3 s
      else
        let ms := t.moves
        if !t.shapeOk ms then fail 3 s
        else if !s.boundsGood t ms then fail 4 s
        else match s.pages cluster t (t.accesses ms) with
          | (.denied, _, s) => fail 2 s
          | (.waiting, t, s) => .next (s.setHead cluster ch t)
          | (.ok, t, s) =>
            let rs := if t.dsh then s.shadowOf t (ms.map fun m => (m.dst, List.replicate t.shape.es 0)) else []
            if [0, 1, 2, 3].any fun g => decide (s.poolSize g < granulesAt rs g) then fail 7 s
            else .next (s.setHead cluster ch { t with state := .running })

/-! ## A transfer moves its data and completes (R183–R188, R191, R193) -/

/-- The local sides of elements: the dies of their addresses (R17). -/
def Transfer.localDies (t : Transfer) (ms : List Move) : List Nat :=
  ((if t.ssh then [] else ms.filterMap fun m => m.src.map opmDie) ++
    match t.kind with
    | .multicast rect _ => [(rectOf rect).die]
    | .plain | .image | .drain _ _ _ _ => if t.dsh then [] else ms.map fun m => opmDie m.dst).eraseDups

/-- The cores in whose windows a transfer's local sides lie. -/
def Transfer.localCores (t : Transfer) (ms : List Move) : List Nat :=
  ((if t.ssh then [] else ms.filterMap fun m => m.src.map opmCore) ++
    match t.kind with
    | .multicast rect _ => (rectOf rect).cores
    | .plain | .image | .drain _ _ _ _ => if t.dsh then [] else ms.map fun m => opmCore m.dst).eraseDups

/-- The homes of the pages that a transfer's accesses go to. -/
def Transfer.keys (t : Transfer) (now : Nat) (l : List (Access × W64)) : List Nat :=
  l.filterMap fun (kind, a) => (t.entry now kind a).map fun e => e.key a.toNat

/-- A page or a local side of elements of a transfer cannot be reached (R183, R313). -/
def State.sideLost (s : State) (k : Nat) (t : Transfer) (l : List (Access × W64)) (ms : List Move) : Bool :=
  ((t.keys s.now l).any fun key => s.linkDown (k / 32) key) || (t.localDies ms).any fun d => s.cutOff (k / 32) d

/-- A page or a local side of elements of a transfer waits for a boundary, a die under reset (R309, R312, R315), or a fence around another
cluster (R334). -/
def State.sideHeld (s : State) (k : Nat) (t : Transfer) (l : List (Access × W64)) (ms : List Move) : Bool :=
  ((t.keys s.now l).any fun key => s.homeHeld (k / 32) key) ||
    ((t.localDies ms).any fun d => s.routeHeld (k / 32) d || s.dieInReset d) ||
    (t.localCores ms).any fun c => clusterOf c != k && s.fenced c

/-- A poisoned line of home memory that elements of a transfer would read (R329). -/
def State.poisonedSource (s : State) (t : Transfer) (ms : List Move) : Option Nat :=
  if !t.ssh || s.poison.isEmpty then none
  else (ms.filterMap fun m => match m.src with
    | some a => match t.entry s.now (if t.code then .codeLoad else .copyRead) a with
      | some e => if s.poisonedIn (e.key a.toNat) t.shape.es then some (e.key a.toNat / 64 * 64) else none
      | none => none
    | none => none).head?

/-- Elements of a transfer moved, one after the other: into place, or read for its shadow. -/
def State.moveSome (s : State) (k : Nat) (t : Transfer) (ms : List Move) : Transfer × State :=
  let n := match t.kind with | .multicast rect _ => (rectOf rect).cores.length | _ => 1
  let t' : Transfer := { t with moved := t.moved + n * (ms.length * t.shape.es) }
  let shadowed (vs : Vals) : Transfer := { t' with got := t.got ++ vs, homes := s.homesOf t vs }
  match t.kind with
  | .drain mode z td _ =>
    let (vs, sat, u) := s.drainEach k t mode z td (fun s a bs => if t.dsh then s else s.localPut t a bs) ms
    (if t.dsh then shadowed vs else t', u.countMatrix t.core t.launch sat 0 0)
  | .plain | .multicast _ _ | .image =>
    if t.dsh then
      let (vs, seen) := s.readList t ms
      ({ shadowed vs with seen := seen }, s)
    else
      let (u, seen) := s.moveLocal t ms
      ({ t' with seen := seen }, u)

/-- A transfer that has moved every element: full/empty bits, or its shadow. -/
def State.moveEnds (s : State) (k ch : Nat) (t : Transfer) : State :=
  let s := s.drainDone k t
  if t.dsh then
    s.setHead k ch { t with
      state := .done (if t.defer then 1 else 0), shadow := s.shadowOf t t.got, got := [], seen := [], homes := [], trans := [] }
  else (t.moves.foldl (fun s m => s.localFull t m.dst) s).setHead k ch { t with state := .done 0, seen := [], trans := [] }

/-- The elements that a transfer has still to move, each with its number in the walk. -/
def Transfer.left (t : Transfer) : List (Move × Nat) :=
  t.moves.zipIdx.filter fun (_, n) => decide (t.next ≤ n) && !t.early.contains n

/-- How many elements move when at least `n` do: a destination's 32-bit word is written in one step (R13, R184). -/
def wholeWords (ms : List (Move × Nat)) (n : Nat) : Nat :=
  match n, ms[n - 1]? with
  | 0, _ => 0
  | _, some (l, _) => n + ((ms.drop n).takeWhile fun (m, _) => m.dst.toNat / 4 == l.dst.toNat / 4).length
  | _, none => ms.length

/-- The place that a local address of a transfer's elements names, with its 32-bit word. -/
def Transfer.wordAt (t : Transfer) (a : W64) : Nat × Nat × Nat :=
  match opmType a with
  | 0 => (0, opmCore a, ulmByte t.core t.origin a / 4)
  | n => (n, clusterOf (opmCore a), opmOff a / 4)

/-- Whether the order in which a transfer moves elements cannot show in what it leaves: none writes a byte that another writes or reads
(R178). Of a drain, which may write a tile, that is the tile that it reads (R243). -/
def Transfer.unordered (t : Transfer) (ms : List Move) : Bool :=
  (ms.map (·.dst)).Nodup && (t.dsh ||
    match t.kind with
    | .plain | .image => t.ssh || !((ms.filterMap fun m => m.src.map t.wordAt).any (ms.map fun m => t.wordAt m.dst).contains)
    | .multicast _ _ => t.ssh || ms.all fun m => m.src.all fun a => opmType a != 0
    | .drain _ _ td _ => ms.all fun m =>
        !(opmType m.dst == 5 && clusterOf (opmCore m.dst) == clusterOf t.core && opmTile m.dst == td.toNat))

/-- What of a running transfer moves now. -/
inductive Piece where
  /-- All that is left, and the transfer ends. -/
  | all
  /-- At least so many elements, in walk order. -/
  | front (n : Nat)
  /-- The elements in the destination words that the bits of a free number name (R13). -/
  | some_ (n : Nat)
  deriving DecidableEq, Repr

/-- The elements of a piece. -/
def Transfer.piece (t : Transfer) : Piece → List (Move × Nat)
  | .all => t.left
  | .front n => t.left.take (wholeWords t.left n)
  | .some_ n => if t.unordered t.moves then t.left.filter fun (m, _) => n.testBit (m.dst.toNat / 4) else []

/-- A transfer with elements marked as moved. -/
def Transfer.advance (t : Transfer) (ns : List Nat) : Transfer :=
  let early := t.early ++ ns
  let next := t.next + ((List.range' t.next early.length).takeWhile early.contains).length
  { t with next := next, early := early.filter fun n => decide (next ≤ n) }

/-- The running transfer at the head of a channel, if its reads may begin (R157), its pages still translate (R183), its way is free and its
pool has space (R185), moves a piece of what is left. Before it reads a shared source, the homes catch up with the publications of its
context that R157 names. The copy engine is a unit of the cluster: an error that it consumes resets the base core's rectangle (R333). -/
def State.runHead (s : State) (k ch : Nat) (t : Transfer) (p : Piece) : State :=
  let rest := t.left.map (·.1)
  if t.ssh && decide (s.now < t.after) then s
  else
    let acc := t.accesses rest
    match s.pages k t acc with
    | (.denied, t, s) => s.failHead k ch { t with moved := if t.dsh then 0 else t.moved, shadow := [], got := [] } 2
    | (.waiting, t, s) => s.setHead k ch t
    | (.ok, t, s) =>
      let ms := t.piece p
      if s.sideLost k t acc rest then s.failHead k ch { t with moved := if t.dsh then 0 else t.moved, shadow := [], got := [] } 5
      else if s.sideHeld k t acc rest then s.setHead k ch t
      else match s.poisonedSource t (ms.map (·.1)) with
        | some key => s.consumeLine (baseCore k) key
        | none =>
          let rs := if t.dsh && t.shadow.isEmpty then s.shadowOf t (t.moves.map fun m => (m.dst, List.replicate t.shape.es 0)) else []
          if [0, 1, 2, 3].any fun g => decide (s.poolSize g < s.poolUsed g + granulesAt rs g) && !rs.isEmpty then s.setHead k ch t
          else
            let s := if t.ssh then
                s.settleHomes fun p => !p.engine && p.core == t.core && p.launch == t.launch && decide (p.app.getD 0 ≤ t.after)
              else s
            let (t, s) := s.moveSome k { t with shadow := t.shadow ++ rs } (ms.map (·.1))
            let t := t.advance (ms.map (·.2))
            match p with
            | .all => s.moveEnds k ch t
            | .front _ | .some_ _ => s.setHead k ch t

/-- A chain's record with `own` cleared, as a record of a shared chain's publication (R191); none where the page refuses,
`waiting` while its translation waits. -/
def State.ownRec (s : State) (k : Nat) (t : Transfer) (a : W64) : Pages × Option LogRec × State :=
  match s.pages k t [(.copyWrite, a)] with
  | (.ok, t, s) =>
    match t.entry s.now .copyWrite a with
    | some e =>
      let w : W32 := s.home.readLE (e.key (a.toNat + 16)) 4 32 &&& 0x7FFFFFFF
      (.ok, some (s.shadowRec t 0 ((a + 16).extractLsb' 4 44) 0xF (w.setWidth 128)), s)
    | none => (.denied, none, s)
  | (p, _, s) => (p, none, s)

/-- A finished transfer's slot (R188): its number becomes the channel's completed number, its bytes are charged (R193), a
deferred shadow is kept for PUBLISH (R190). -/
def State.finishSlot (s : State) (k ch : Nat) (t : Transfer) (status : Nat) : State :=
  let x := s.cluster k
  let c := x.channel ch
  let x := x.setChannel ch { c with queue := c.queue.drop 1, doneNo := max c.doneNo t.no }
  let x := if status = 1 then { x with deferred := x.deferred ++ [⟨t.ring, t.core, t.launch, t.shadow⟩] } else x
  let s := (s.setCluster k x).putSlot k t.ring (slotWord t.tag ch status) (BitVec.ofNat 64 t.no)
  if s.isAdmitted t.launch then s.updLaunch t.launch fun l => { l with bytes := l.bytes + t.moved } else s

/-- Whether an earlier publication of the ring is still to write its slot (R188). -/
def Cluster.slotAhead (x : Cluster) (t : Transfer) : Bool :=
  match t.pub with
  | some id => (x.pendingSlots t.ring).any fun u => match u.pub with | some i => decide (i < id) | none => false
  | none => false

/-- A chain that cannot go on: its DENY slot is to be written (R191). -/
def State.chainFails (s : State) (k ch : Nat) : State :=
  let x := s.cluster k
  let c := x.channel ch
  s.setCluster k (x.setChannel ch { c with chain := c.chain.map fun h => { h with failed := true } })

/-- A finished transfer whose publication has not been made: `own` is cleared, the publication is made, or the slot is
written. -/
def State.finishHead (s : State) (k ch : Nat) (t : Transfer) (status : Nat) : State :=
  let pubs (rs : List LogRec) (s : State) : State :=
    if rs.isEmpty then s.finishSlot k ch t status
    else
      let id := s.ids
      (s.publish (copySource k) false .dev none t.core t.launch true true rs (some s.now)).setHead k ch { t with pub := some id }
  let data := if status = 0 then t.shadow else []
  match t.chainRec with
  | none => pubs data s
  | some (a, false) =>
    let w : W32 := BitVec.ofNat 32 (leNat (s.opmRead t.core t.launch t.origin (a + 16) 4)) &&& 0x7FFFFFFF
    pubs data ((s.opmWrite t.core t.launch t.origin (a + 16) (leBytes w 4)).opmFull t.core t.launch t.origin (a + 16) 4)
  | some (a, true) =>
    match s.ownRec k t a with
    | (.waiting, _, s) => s
    | (_, some r, s) => pubs (data ++ [r]) s
    | (_, none, s) => (s.chainFails k ch).setHead k ch { t with chainRec := none }

/-- An image load that has finished reports to the dispatcher (R176, R303). -/
def State.finishImage (s : State) (k : Nat) (t : Transfer) (status : Nat) : State :=
  let x := s.cluster k
  (s.setCluster k { x with loader := x.loader.drop 1 }).updLaunch t.launch fun l =>
    if status = 0 then { l with loaded := l.loaded ++ [t.core] } else { l with status := max l.status 5 }

/-- TRANSFER_COMPLETE (R183–R188, R193): the running transfer at the head of a channel moves the rest of its data; a finished one takes
its slot once its ring has room, after its publication has been applied. -/
def execTransferComplete (cluster ch : Nat) (s : State) : Out :=
  let x := s.cluster cluster
  match x.headOf ch with
  | none => .next s
  | some t =>
    match t.state with
    | .queued => .next s
    | .running => .next (s.runHead cluster ch t .all)
    | .done status =>
      if ch = 8 then .next (s.finishImage cluster t status)
      else match t.pub with
        | none =>
          if x.slotFree t.ring then .next (s.finishHead cluster ch t status) else .next s
        | some id =>
          if (s.pubs.any fun p => p.id == id && !p.applied) || x.slotAhead t then .next s
          else .next (s.finishSlot cluster ch t status)

/-- A running transfer at the head of a channel moves a piece. -/
def State.pieceMoves (s : State) (k ch : Nat) (p : Piece) : State :=
  match (s.cluster k).headOf ch with
  | some t => if t.state = .running then s.runHead k ch t p else s
  | none => s

/-- As time passes, running transfers move some of what is left, a free choice (R13, R184, R186; log 23). -/
def State.copiesMove (s : State) : State :=
  s.clusters.foldl (fun s (k, _) => (List.range 9).foldl (fun s ch =>
    let j := 2 ^ 20 + 16 * k + ch
    (s.pieceMoves k ch (.front (s.freeNat j))).pieceMoves k ch (.some_ (s.freeNat (j + 2 ^ 43)))) s) s

/-! ## Chains (R191) -/

/-- Whether `n` bytes at an OPM address lie in a ULM or the scratchpad of the own cluster. -/
def State.chainLocal (s : State) (k : Nat) (h : Chain) (a : W64) (n : Nat) : Bool :=
  s.opmOk h.core h.launch h.origin h.region h.mtiles a n && clusterOf (opmCore a) == k && (opmType a == 0 || opmType a == 4)

/-- What reading bytes of a chain comes to. -/
inductive ChainRead where
  | bytes (l : List Byte)
  | refused
  | waiting
  | consumed (key : Nat)
  deriving DecidableEq, Repr

/-- A transfer that stands for the own accesses of a channel's chain. -/
def State.chainUser (s : State) (ch : Nat) (h : Chain) : Transfer :=
  { s.transfer Ctx.reset h.core false false false false false 0 0 0 0 h.ring 0 .plain with
    launch := h.launch, ctxid := h.ctxid, mtiles := h.mtiles, origin := h.origin, region := h.region, after := h.after, ch := chainAcc ch }

/-- `n` bytes of a chain's record or shape record, which a shared chain keeps on R and W pages and which are read at their homes under the
source rule of R157. -/
def State.chainRead (s : State) (k ch : Nat) (h : Chain) (a : W64) (n align : Nat) : ChainRead × State :=
  let t := s.chainUser ch h
  if a.toNat % align ≠ 0 then (.refused, s)
  else if !h.sh then
    if s.chainLocal k h a n then (.bytes (s.opmRead h.core h.launch h.origin a n), s) else (.refused, s)
  else if s.now < h.after then (.waiting, s)
  else
    let b := a + BitVec.ofNat 64 (n - 1)
    match s.pages k t [(.copyRead, a), (.copyRead, b), (.copyWrite, a), (.copyWrite, b)] with
    | (.denied, _, s) => (.refused, s)
    | (.waiting, _, s) => (.waiting, s)
    | (.ok, t, s) =>
      let s := s.settleHomes fun p => !p.engine && p.core == h.core && p.launch == h.launch && decide (p.app.getD 0 ≤ h.after)
      let at_ (j : Nat) : Option TlbEntry := t.entry s.now .copyRead (a + BitVec.ofNat 64 j)
      let keys := (List.range n).filterMap fun j => (at_ j).map fun e => e.key (a.toNat + j)
      match keys.find? fun key => s.linkDown (k / 32) key with
      | some _ => (.refused, s)
      | none => if keys.any fun key => s.homeHeld (k / 32) key then (.waiting, s) else match keys.find? fun key => s.poisonedIn key 1 with
        | some key => (.consumed (key / 64 * 64), s)
        | none => (.bytes (keys.map s.home.read), s)

/-- The state with a channel's chain replaced. -/
def State.setChain (s : State) (k ch : Nat) (h : Option Chain) : State :=
  let x := s.cluster k
  s.setCluster k (x.setChannel ch { x.channel ch with chain := h })

/-- The DENY slot of a chain that has failed, whose word 1 is not stated (log 17). A CPYCH names its ring without a check: where there is no
such ring, or it has size 0, the chain ends and no slot is written (DESIGN CHOICE, log 93: R191 says nothing of such a ring). -/
def State.chainSlot (s : State) (k ch : Nat) (h : Chain) : State :=
  if !s.ringOk k h.ring then s.setChain k ch none
  else if (s.cluster k).slotFree h.ring then
    (s.putSlot k h.ring (slotWord 0xFFFFFFFF ch 2) (s.freeWord 2)).setChain k ch none
  else s

/-- A chain's record taken: its transfer is checked and queued as a CPY would be (R180, R191). -/
def State.chainTake (s : State) (k ch : Nat) (h : Chain) (a : W64) (r : BitVec 512) : State :=
  let next := r.extractLsb' 256 64
  let after : Chain := { h with head := if next = 0 then none else some next, started := true }
  let (ssh, dsh, dstr, defer, code) := (r.getLsbD 128, r.getLsbD 129, r.getLsbD 130, r.getLsbD 131, r.getLsbD 132)
  let dst := r.extractLsb' 64 64
  let ring := (r.extractLsb' 144 6).toNat
  if !s.ringOk k ring || (defer && !dsh) || (code && (!ssh || dsh || notOpm dst || opmType dst != 0)) then
    (s.updImage h.core h.launch fun x => { x with accerr := true }).setChain k ch (some after)
  else match s.chainRead k ch h (r.extractLsb' 192 64) 96 16 with
    | (.waiting, s) => s.setChain k ch (some { h with started := true })
    | (.consumed key, s) => s.consumeLine (baseCore k) key
    | (.refused, s) => s.setChain k ch (some { after with failed := true })
    | (.bytes bs, s) =>
      let t : Transfer := { s.chainUser ch h with
        ssh := ssh, dsh := dsh, dstr := dstr, defer := defer, code := code, src := r.extractLsb' 0 64, dst := dst,
        shape := shapeOf (BitVec.ofNat 768 (leNat bs)), ch := ch, ring := ring, tag := r.extractLsb' 160 32,
        chainRec := some (a, h.sh) }
      ((s.enqueueCopy k t true).2).setChain k ch (some after)

/-- CHAIN_RECORD_FETCH (R191): a channel with nothing of its own queued reads the next record of its chain. -/
def execChainRecordFetch (cluster ch : Nat) (s : State) : Out :=
  let c := (s.cluster cluster).channel ch
  match c.chain with
  | none => .next s
  | some h =>
    if (c.queue.any fun t => t.chainRec.isSome) || (!h.started && !c.queue.isEmpty) then .next s
    else if h.failed then .next (s.chainSlot cluster ch h)
    else match h.head with
      | none => .next (s.setChain cluster ch none)
      | some a =>
        match s.chainRead cluster ch h a 64 64 with
        | (.waiting, s) => .next s
        | (.consumed key, s) => .next (s.consumeLine (baseCore cluster) key)
        | (.refused, s) => .next (s.setChain cluster ch (some { h with failed := true, started := true }))
        | (.bytes bs, s) =>
          let r := BitVec.ofNat 512 (leNat bs)
          if !r.getLsbD 159 then .next (s.setChain cluster ch none) else .next (s.chainTake cluster ch h a r)

end Sys2Proof.Machine
end

