-- ==== Sys2Proof/Machine/Windows.lean ====
section
/-!
DEFINITION. The local windows (R109): the checks of LocalCheck in their order (R110), and what a local access reads
and writes in each window.
-/

namespace Sys2Proof.Machine

open Sys2Proof

/-! ## LocalCheck (R110) -/

/-- What stops a local access: a trap, or a target core that holds no context of the launch now (R109). -/
inductive LocalStop where
  | trap (cause : BitVec 8) (val : W64)
  | remote
  deriving DecidableEq, Repr

/-- Whether an address names the issuing core in windows 0–3. -/
def ownCore (c : Nat) (ea : W64) : Bool := opmCore ea == c

/-- The bounds checks of R110 other than SpreadOk. -/
def boundsOk (fe : Bool) (c : Nat) (x : Ctx) (ea : W64) (n : Nat) : Bool :=
  decide (opmDie ea ≤ 7) && decide (opmType ea ≤ 7) && rowColOk ea && widthOk fe (opmType ea) n &&
    decide (opmOff ea + n ≤ windowSize (ownCore c ea) x.region (opmType ea)) &&
    (opmType ea != 5 || x.mtiles.getLsbD (opmTile ea))

/-- SpreadOk of R110: `none` where the target core holds no context of the launch, so that the access waits. -/
def spreadOk (s : State) (c : Nat) (x : Ctx) (ea : W64) (n : Nat) : Option Bool :=
  if 4 ≤ opmType ea || ownCore c ea then some true
  else if !s.inSpread x.launch (opmCore ea) then some false
  else match s.ctxOf (opmCore ea) x.launch with
    | none => none
    | some y => some (opmType ea != 0 || (decide (y.origin ≤ opmOff ea) && decide (opmOff ea + n ≤ y.origin + y.region)))

/-- The checks of R110 on an access, those of phase and privilege where it is `first`. `i` is the instruction, for w0; `fe` marks an FE
instruction, whose address must name window 0 (R116), and `lock` a LOCK instruction, whose address must name window 4 (R118). -/
def checkFrom (first : Bool) (i : Instr) (fe lock : Bool) (ea : W64) (n : Nat) (s : State) : Option LocalStop :=
  let c := s.focus
  let x := s.ctx
  if first && leavesCluster c ea && x.phase == .compute then some (.trap 6 (w0x i))
  else if notOpm ea then some (.trap 4 ea)
  else if first ∧ opmType ea = 3 ∧ x.mode = .user then some (.trap 2 (w0x i))
  else if !boundsOk fe c x ea n || (fe && opmType ea != 0) || (lock && opmType ea != 4) then some (.trap 4 ea)
  else match spreadOk s c x ea n with
    | none => some .remote
    | some false => some (.trap 4 ea)
    | some true => if opmOff ea % n ≠ 0 then some (.trap 3 ea) else none

/-- LocalCheck(ea, n) (R110). -/
def localCheck : Instr → Bool → Bool → W64 → Nat → State → Option LocalStop := checkFrom true

/-- What stops an access when it issues, or is retried: one that waits has passed the checks of phase and privilege (R62, R109). -/
def accessStop (i : Instr) (fe lock : Bool) (ea : W64) (n : Nat) (s : State) : Option LocalStop :=
  checkFrom s.th.stall.isNone i fe lock ea n s

/-! ## Reading and writing a window (R109) -/

/-- Byte `b` of a vector register file as window 2 numbers it: register b / 256, byte b mod 256. -/
def Ctx.vbyte (x : Ctx) (b : Nat) : Byte := if h : b / 256 < 16 then x.vregs[b / 256].extractLsb' (8 * (b % 256)) 8 else 0

/-- A byte of the vector register file written. -/
def Ctx.setVbyte (x : Ctx) (b : Nat) (v : Byte) : Ctx :=
  if h : b / 256 < 16 then
    let r := x.vregs[b / 256]
    let sh := 8 * (b % 256)
    { x with vregs := x.vregs.set (b / 256) ((r &&& ~~~((0xFF : VImage) <<< sh)) ||| (v.setWidth 2048 <<< sh)) h }
  else x

/-- `n` bytes of the vector register file as a word. -/
def Ctx.vread (x : Ctx) (b n : Nat) : W64 := BitVec.ofNat 64 (leNat ((List.range n).map fun j => x.vbyte (b + j)))

/-- The low `n` bytes of a word into the vector register file. -/
def Ctx.vwrite (x : Ctx) (b n : Nat) (v : W64) : Ctx :=
  (List.range n).foldl (fun x j => x.setVbyte (b + j) (v.extractLsb' (8 * j) 8)) x

/-- The CSR at an offset of window 3. -/
def csrAt (off : Nat) : Csr := (Csr.ofBits (BitVec.ofNat 5 (off / 8))).getD .xpc

/-- The context on a core that a window 1, 2 or 3 access acts on (R109). -/
def State.windowCtx (s : State) (c : Nat) : Option Ctx := if c = s.focus then some s.ctx else s.ctxOf c s.ctx.launch

/-- The state with that context changed. -/
def State.updWindowCtx (s : State) (c : Nat) (f : Ctx → Ctx) : State :=
  if c = s.focus then s.setCtx (f s.ctx) else s.updCtx c s.ctx.launch f

/-- The ULM byte that a checked window-0 address names: region-relative for the own core (R64). -/
def ulmOff (s : State) (ea : W64) : Nat := if ownCore s.focus ea then s.ctx.origin + opmOff ea else opmOff ea

/-- Whether the context on a core runs there. -/
def State.runsOn (s : State) (c launch : Nat) : Bool := (s.core c).run.of launch

/-- ReadLocal(ea, n) of a checked address (R109). -/
def State.readLocal (s : State) (ea : W64) (n : Nat) : W64 :=
  let c := opmCore ea
  let off := opmOff ea
  match opmType ea with
  | 0 => (s.core c).ulm.readLE (ulmOff s ea) n 64
  | 1 => match s.windowCtx c with
    | some x =>
      let t := x.thread (thrOf (off / 256))
      if t.live then t.reg (BitVec.ofNat 5 (off % 256 / 8)) else 0
    | none => 0
  | 2 => match s.windowCtx c with | some x => x.vread off n | none => 0
  | 3 => match s.windowCtx c with
    | some x => csrValue s.now c (s.core c) (c == s.focus || s.runsOn c x.launch) x (csrAt off)
    | none => 0
  | 4 => (s.cluster (clusterOf c)).scratch.readLE off n 64
  | 5 => (s.cluster (clusterOf c)).tiles.readLE off n 64
  | 6 => (s.cluster (clusterOf c)).tables.readLE off n 64
  | _ => if s.ctx.mode = .user then 0 else (s.die (dieOf c)).ae.read off n

/-- WriteLocal(ea, n, v) of a checked address (R109); a full/empty bit is unchanged (R113). -/
def State.writeLocal (s : State) (ea : W64) (n : Nat) (v : W64) : State :=
  let c := opmCore ea
  let off := opmOff ea
  match opmType ea with
  | 0 => s.setCore c { s.core c with ulm := (s.core c).ulm.writeLE (ulmOff s ea) n v }
  | 1 => s.updWindowCtx c fun x =>
      let t := x.thread (thrOf (off / 256))
      let r : SReg := BitVec.ofNat 5 (off % 256 / 8)
      if t.live then x.setThread (thrOf (off / 256)) { t with regs := (t.setReg r v).regs } else x
  | 2 => s.updWindowCtx c fun x => x.vwrite off n v
  | 3 =>
    if csrAt off = .cyc then s.setCore c { s.core c with cyc := BitVec.ofNat 64 s.now - v }
    else s.updWindowCtx c fun x => x.csrPut s.now (c == s.focus || s.runsOn c x.launch) (csrAt off) v v
  | 4 => let k := clusterOf c; s.setCluster k { s.cluster k with scratch := (s.cluster k).scratch.writeLE off n v }
  | 5 => let k := clusterOf c; s.setCluster k { s.cluster k with tiles := (s.cluster k).tiles.writeLE off n v }
  | 6 => let k := clusterOf c; s.setCluster k { s.cluster k with tables := (s.cluster k).tables.writeLE off n v }
  | _ =>
    if s.ctx.mode = .user then s
    else s.setDie (dieOf c) { s.die (dieOf c) with ae := (s.die (dieOf c)).ae.write off n v }

end Sys2Proof.Machine
end

