-- ==== Sys2Proof/Machine/Local.lean ====
section
/-!
DEFINITION. The local loads and stores (R113), the full/empty group (R116), the lock group (R117, R118), and the return
of a local load that has left the core (R111).
-/

namespace Sys2Proof.Machine

open Sys2Proof

/-! ## The checked access -/

/-- Whether an access of the issuing core that leaves its cluster waits: on its way a boundary or the target's die holds it (R309, R315), or
what the core has sent to the same target before is still on its way (R306, R312). Without a route left nothing waits (R313). -/
def State.behind (s : State) (ea : W64) : Bool :=
  let c := s.focus
  let d := opmCore ea
  clusterOf d != clusterOf c && !s.cutOff (dieOf c) (dieOf d) &&
    (s.pathHeld c d || (s.packets.any fun p => p.core == c && p.target == d && p.state == .flying) ||
      ((s.core d).port.owner.any (fun (q, _, _) => q == c) && !(s.core d).port.flying.isEmpty))

/-- Whether the issuing thread's instruction has still to reach its target: it has just issued, or waits on its way. -/
def State.atSource (s : State) : Bool :=
  match s.th.stall with
  | none | some ⟨_, _, .remote⟩ => true
  | some _ => false

/-- A local access that passes LocalCheck goes on; otherwise it traps, or waits for a context on the target core, or behind what its core
has sent there, and is retried (R109, R110, R306). -/
def checkedLocal (i : Instr) (len : Nat) (fe lock : Bool) (ea : W64) (n : Nat) (s : State) (go : State → Out) : Out :=
  match accessStop i fe lock ea n s with
  | some (.trap cause val) => trap cause val s
  | some .remote => stallOn len 0 .remote s
  | none => if s.atSource && s.behind ea then stallOn len 0 .remote s else go s

/-- The instruction takes its place in a line at its target: it waits there from now on. -/
def lineUp (len : Nat) (w : Wait) (s : State) : Out := if s.atSource then .next (s.stall len 0 w) else wait s

/-! ## 8-byte accesses (R114) -/

/-- The second word access of an access of `n` bytes to ULM or a scratchpad, and whether it is to the upper word: which comes second is a
free choice. `v`: what a store writes. -/
def State.halfOf (s : State) (ea : W64) (n : Nat) (v : Option W64) : Option HalfAccess :=
  if n = 8 ∧ (opmType ea = 0 ∨ opmType ea = 4) then
    let high := s.freeNat (2 ^ 44) % 2 == 0
    let scratch := opmType ea == 4
    some {
      scratch := scratch
      unit := if scratch then clusterOf (opmCore ea) else opmCore ea
      off := (if scratch then opmOff ea else ulmOff s ea) + if high then 4 else 0
      high := high
      store := v.map fun v => if high then v.extractLsb' 32 32 else v.setWidth 32 }
  else none

/-- The state in which the issuing thread has a second word access to make. -/
def State.setHalf (s : State) (h : Option HalfAccess) : State := s.setTh { s.th with half := h }

/-- A store of `n` bytes, of which an 8-byte one to ULM or a scratchpad makes its first word access now (R113, R114). -/
def State.storeLocal (s : State) (ea : W64) (n : Nat) (v : W64) : State :=
  match s.halfOf ea n (some v) with
  | none => s.writeLocal ea n v
  | some h =>
    (if h.high then s.writeLocal ea 4 (v.setWidth 32 |>.setWidth 64)
      else s.writeLocal (ea + 4) 4 ((v.extractLsb' 32 32).setWidth 64)).setHalf (some h)

/-- Whether the address names the core's own ULM, whose loads take exactly 4 cycles (R111). -/
def ownUlm (c : Nat) (ea : W64) : Bool := opmType ea == 0 && ownCore c ea

/-- A load's value on its way: 4 cycles from the own ULM; otherwise until LOCAL_LOAD_RETURN (R111). A load from a die
that no route reaches returns poison (R313). That its bytes are read at issue is log 19's choice. -/
def loadResult (len : Nat) (rd : SReg) (ea : W64) (v : W64) (s : State) : Out :=
  if ownUlm s.focus ea then resultLoad len rd v s
  else
    let cut := s.cutOff (dieOf s.focus) (opmDie ea)
    let s := if cut then s.setAccerr else s
    let l : LocalLoad := ⟨s.seq, opmCore ea, s.focus, s.ctx.launch, s.thr.val, s.th.inc, rd, if cut then poison64 else v, s.now⟩
    .next (({ s with seq := s.seq + 1, locals := if rd = 0 then s.locals else s.locals ++ [l] } : State).setTh
      ((s.th.expect rd).past len))

/-- An 8-byte load of ULM or a scratchpad makes two word accesses, the second of them later (R114). -/
def loadWords (len : Nat) (rd : SReg) (ea : W64) (n : Nat) (v : W64) (s : State) : Out :=
  loadResult len rd ea v (if rd = 0 ∨ s.cutOff (dieOf s.focus) (opmDie ea) then s else s.setHalf (s.halfOf ea n none))

/-! ## Loads and stores (R113) -/

/-- How a load widens what it read (R113). -/
def widen (n : Nat) (signed : Bool) (v : W64) : W64 :=
  match n with
  | 1 => if signed then sx (v.setWidth 8) else (v.setWidth 8).setWidth 64
  | 2 => if signed then sx (v.setWidth 16) else (v.setWidth 16).setWidth 64
  | 4 => if signed then sx (v.setWidth 32) else (v.setWidth 32).setWidth 64
  | _ => v

/-- A local load of `n` bytes at RA plus an offset (R113). -/
def localLoad (i : Instr) (len n : Nat) (signed : Bool) (rd ra : SReg) (off : W64) (s : State) : Out :=
  ready [ra, rd] s fun s =>
    let ea := s.reg ra + off
    checkedLocal i len false false ea n s fun s => loadWords len rd ea n (widen n signed (s.readLocal ea n)) s

/-- A local store of `n` bytes at RA plus an offset (R113). -/
def localStore (i : Instr) (len n : Nat) (rs ra : SReg) (off : W64) (s : State) : Out :=
  ready [ra, rs] s fun s =>
    let ea := s.reg ra + off
    checkedLocal i len false false ea n s fun s => .next ((s.storeLocal ea n (s.reg rs)).past len)

/-- LDB (R113). -/
def execLdb (rd ra : SReg) (imm : BitVec 14) (s : State) : Out := localLoad (.ldb rd ra imm) 4 1 true rd ra (sx imm) s

/-- LDB with a literal offset (R113, R45). -/
def execLdbLit (rd ra : SReg) (lit : W64) (s : State) : Out := localLoad (.ldbLit rd ra lit) 12 1 true rd ra lit s

/-- LDBU (R113). -/
def execLdbu (rd ra : SReg) (imm : BitVec 14) (s : State) : Out := localLoad (.ldbu rd ra imm) 4 1 false rd ra (sx imm) s

/-- LDBU with a literal offset (R113, R45). -/
def execLdbuLit (rd ra : SReg) (lit : W64) (s : State) : Out := localLoad (.ldbuLit rd ra lit) 12 1 false rd ra lit s

/-- LDH (R113). -/
def execLdh (rd ra : SReg) (imm : BitVec 14) (s : State) : Out := localLoad (.ldh rd ra imm) 4 2 true rd ra (sx imm) s

/-- LDH with a literal offset (R113, R45). -/
def execLdhLit (rd ra : SReg) (lit : W64) (s : State) : Out := localLoad (.ldhLit rd ra lit) 12 2 true rd ra lit s

/-- LDHU (R113). -/
def execLdhu (rd ra : SReg) (imm : BitVec 14) (s : State) : Out := localLoad (.ldhu rd ra imm) 4 2 false rd ra (sx imm) s

/-- LDHU with a literal offset (R113, R45). -/
def execLdhuLit (rd ra : SReg) (lit : W64) (s : State) : Out := localLoad (.ldhuLit rd ra lit) 12 2 false rd ra lit s

/-- LDW (R113). -/
def execLdw (rd ra : SReg) (imm : BitVec 14) (s : State) : Out := localLoad (.ldw rd ra imm) 4 4 true rd ra (sx imm) s

/-- LDW with a literal offset (R113, R45). -/
def execLdwLit (rd ra : SReg) (lit : W64) (s : State) : Out := localLoad (.ldwLit rd ra lit) 12 4 true rd ra lit s

/-- LDWU (R113). -/
def execLdwu (rd ra : SReg) (imm : BitVec 14) (s : State) : Out := localLoad (.ldwu rd ra imm) 4 4 false rd ra (sx imm) s

/-- LDWU with a literal offset (R113, R45). -/
def execLdwuLit (rd ra : SReg) (lit : W64) (s : State) : Out := localLoad (.ldwuLit rd ra lit) 12 4 false rd ra lit s

/-- LDD (R113). -/
def execLdd (rd ra : SReg) (imm : BitVec 14) (s : State) : Out := localLoad (.ldd rd ra imm) 4 8 false rd ra (sx imm) s

/-- LDD with a literal offset (R113, R45). -/
def execLddLit (rd ra : SReg) (lit : W64) (s : State) : Out := localLoad (.lddLit rd ra lit) 12 8 false rd ra lit s

/-- STB (R113). -/
def execStb (rs ra : SReg) (imm : BitVec 14) (s : State) : Out := localStore (.stb rs ra imm) 4 1 rs ra (sx imm) s

/-- STB with a literal offset (R113, R45). -/
def execStbLit (rs ra : SReg) (lit : W64) (s : State) : Out := localStore (.stbLit rs ra lit) 12 1 rs ra lit s

/-- STH (R113). -/
def execSth (rs ra : SReg) (imm : BitVec 14) (s : State) : Out := localStore (.sth rs ra imm) 4 2 rs ra (sx imm) s

/-- STH with a literal offset (R113, R45). -/
def execSthLit (rs ra : SReg) (lit : W64) (s : State) : Out := localStore (.sthLit rs ra lit) 12 2 rs ra lit s

/-- STW (R113). -/
def execStw (rs ra : SReg) (imm : BitVec 14) (s : State) : Out := localStore (.stw rs ra imm) 4 4 rs ra (sx imm) s

/-- STW with a literal offset (R113, R45). -/
def execStwLit (rs ra : SReg) (lit : W64) (s : State) : Out := localStore (.stwLit rs ra lit) 12 4 rs ra lit s

/-- STD (R113). -/
def execStd (rs ra : SReg) (imm : BitVec 14) (s : State) : Out := localStore (.std rs ra imm) 4 8 rs ra (sx imm) s

/-- STD with a literal offset (R113, R45). -/
def execStdLit (rs ra : SReg) (lit : W64) (s : State) : Out := localStore (.stdLit rs ra lit) 12 8 rs ra lit s

/-! ## Full/empty granules (R115, R116) -/

/-- The granule of a ULM byte. -/
def granule (off : Nat) : Nat := off / 16

/-- Whether a granule is full. -/
def Core.full (k : Core) (g : Nat) : Bool := k.fe.getLsbD g

/-- A granule set full or empty. -/
def Core.setFe (k : Core) (g : Nat) (b : Bool) : Core :=
  { k with fe := if b then k.fe ||| BitVec.twoPow 16384 g else k.fe &&& ~~~BitVec.twoPow 16384 g }

/-- The state with a granule of a core set full or empty. -/
def State.setFe (s : State) (c g : Nat) (b : Bool) : State :=
  let s := s.setCore c ((s.core c).setFe g b)
  if b then s.wakeLoaders c g else s

/-- The state with the issuing thread out of a core's FE line. -/
def State.feLeave (s : State) (c : Nat) : State :=
  let k := s.core c
  s.setCore c { k with feLine := k.feLine.filter fun w => !(w.core == s.focus && w.thr == s.thr.val) }

/-- The state with the issuing thread in line at a granule, at its end unless it stands there already. The tick at which its instruction issues
counts as its arrival at the ULM's port, also from another core (DESIGN CHOICE, log 109). -/
def State.feJoin (s : State) (c g : Nat) (full all : Bool) : State :=
  let k := s.core c
  if k.feLine.any fun w => w.core == s.focus && w.thr == s.thr.val then s
  else s.setCore c { k with feLine := k.feLine ++ [⟨g, full, all, s.focus, s.thr.val⟩] }

/-- Whether the issuing thread is the first of those that wait to consume a granule, or to fill it, or nobody waits (R116). -/
def State.feFirst (s : State) (c g : Nat) (full : Bool) : Bool :=
  match (s.core c).feLine.find? fun w => w.gran == g && w.full == full && !w.all with
  | none => true
  | some w => w.core == s.focus && w.thr == s.thr.val

/-- An FE instruction that waits for a granule to be full or empty (R116). `shared`: every waiter goes on at once
(LDFE); otherwise loaders, and storers, go in the order of their arrival at the port. -/
def feWaitFor (len : Nat) (c g : Nat) (full shared : Bool) (s : State) (go : State → Out) : Out :=
  if (s.core c).full g == full && (shared || s.feFirst c g full) then go (s.feLeave c)
  else lineUp len .fe (s.feJoin c g full shared)

/-- The checks and the granule of an FE instruction of width `n` (R116). -/
def feAccess (i : Instr) (len n : Nat) (need : List SReg) (ra : SReg) (off : W64) (s : State)
    (go : W64 → Nat → Nat → State → Out) : Out :=
  ready need s fun s =>
    let ea := s.reg ra + off
    checkedLocal i len true false ea n s fun s => go ea (opmCore ea) (granule (ulmOff s ea)) s

/-- A load of the FE or LOCK group from a die that no route reaches does not wait and changes nothing there: it returns poison (R313). -/
def cutLoad (len : Nat) (rd : SReg) (ea : W64) (leave : State → State) (s : State) (go : Out) : Out :=
  if s.cutOff (dieOf s.focus) (opmDie ea) then loadResult len rd ea poison64 (leave s) else go

/-- LDFE (R116). -/
def ldfe (i : Instr) (len : Nat) (rd ra : SReg) (off : W64) (s : State) : Out :=
  feAccess i len 8 [ra, rd] ra off s fun ea c g s =>
    cutLoad len rd ea (·.feLeave c) s
      (feWaitFor len c g true true s fun s => loadWords len rd ea 8 (s.readLocal ea 8) s)

/-- LDFEC (R116). -/
def ldfec (i : Instr) (len : Nat) (rd ra : SReg) (off : W64) (s : State) : Out :=
  feAccess i len 8 [ra, rd] ra off s fun ea c g s =>
    cutLoad len rd ea (·.feLeave c) s
      (feWaitFor len c g true false s fun s => loadResult len rd ea (s.readLocal ea 8) (s.setFe c g false))

/-- STFE and STFEW with their width (R116). -/
def stfe (i : Instr) (len n : Nat) (rd ra : SReg) (off : W64) (s : State) : Out :=
  feAccess i len n [ra, rd] ra off s fun ea c g s =>
    feWaitFor len c g false false s fun s => .next (((s.writeLocal ea n (s.reg rd)).setFe c g true).past len)

/-- FESET and FECLR (R116). -/
def feSetTo (b : Bool) (i : Instr) (len : Nat) (ra : SReg) (off : W64) (s : State) : Out :=
  feAccess i len 16 [ra] ra off s fun _ c g s => .next ((s.setFe c g b).past len)

/-- FETST (R116). -/
def fetst (i : Instr) (len : Nat) (rd ra : SReg) (off : W64) (s : State) : Out :=
  feAccess i len 16 [ra, rd] ra off s fun ea c g s => loadResult len rd ea (if (s.core c).full g then 1 else 0) s

/-- LDFE (R116). -/
def execLdfe (rd ra : SReg) (s : State) : Out := ldfe (.ldfe rd ra) 4 rd ra 0 s

/-- LDFE with a literal offset (R116, R45). -/
def execLdfeLit (rd ra : SReg) (lit : W64) (s : State) : Out := ldfe (.ldfeLit rd ra lit) 12 rd ra lit s

/-- LDFEC (R116). -/
def execLdfec (rd ra : SReg) (s : State) : Out := ldfec (.ldfec rd ra) 4 rd ra 0 s

/-- LDFEC with a literal offset (R116, R45). -/
def execLdfecLit (rd ra : SReg) (lit : W64) (s : State) : Out := ldfec (.ldfecLit rd ra lit) 12 rd ra lit s

/-- STFE (R116). -/
def execStfe (rd ra : SReg) (s : State) : Out := stfe (.stfe rd ra) 4 8 rd ra 0 s

/-- STFE with a literal offset (R116, R45). -/
def execStfeLit (rd ra : SReg) (lit : W64) (s : State) : Out := stfe (.stfeLit rd ra lit) 12 8 rd ra lit s

/-- STFEW (R116). -/
def execStfew (rd ra : SReg) (s : State) : Out := stfe (.stfew rd ra) 4 4 rd ra 0 s

/-- STFEW with a literal offset (R116, R45). -/
def execStfewLit (rd ra : SReg) (lit : W64) (s : State) : Out := stfe (.stfewLit rd ra lit) 12 4 rd ra lit s

/-- FESET (R116). -/
def execFeset (ra : SReg) (s : State) : Out := feSetTo true (.feset ra) 4 ra 0 s

/-- FESET with a literal offset (R116, R45). -/
def execFesetLit (ra : SReg) (lit : W64) (s : State) : Out := feSetTo true (.fesetLit ra lit) 12 ra lit s

/-- FECLR (R116). -/
def execFeclr (ra : SReg) (s : State) : Out := feSetTo false (.feclr ra) 4 ra 0 s

/-- FECLR with a literal offset (R116, R45). -/
def execFeclrLit (ra : SReg) (lit : W64) (s : State) : Out := feSetTo false (.feclrLit ra lit) 12 ra lit s

/-- FETST (R116). -/
def execFetst (rd ra : SReg) (s : State) : Out := fetst (.fetst rd ra) 4 rd ra 0 s

/-- FETST with a literal offset (R116, R45). -/
def execFetstLit (rd ra : SReg) (lit : W64) (s : State) : Out := fetst (.fetstLit rd ra lit) 12 rd ra lit s

/-- FE_WAIT_COMPLETE: the first thread in a granule's line that waits for the state in which the granule is tries again (R116). The
thread's own instruction is executed by its core, so the event makes the unit's retry the next thing to happen. -/
def execFeWaitComplete (core granule : Nat) (s : State) : Out :=
  match (s.core core).feLine.find? fun w => w.gran == granule && w.full == (s.core core).full granule with
  | none => .next s
  | some w => .next { s with agenda := .issue w.core w.thr :: s.agenda }

/-! ## Lock bits (R117, R118) -/

/-- The lock bit's number within its bank (R117). -/
def lockHash (o : Nat) : Nat :=
  let v := BitVec.ofNat 23 o
  (v.extractLsb' 7 4 ^^^ v.extractLsb' 11 4 ^^^ v.extractLsb' 15 4 ^^^ v.extractLsb' 19 4).toNat

/-- The key of the lock bit that the word at an offset uses: 16·bank + k. -/
def lockKey (o : Nat) : Nat := 16 * (o / 4 % 32) + lockHash o

/-- The lock that a thread of a launch's context on a core holds in a cluster. -/
def Cluster.lockOf (x : Cluster) (c n t : Nat) : Option (Nat × Lock) :=
  List.find? (fun (_, l) => l.core == c && l.launch == n && l.thr == t) x.locks

/-- The cluster with a thread's lock released. -/
def Cluster.unlockOf (x : Cluster) (c n t : Nat) : Cluster :=
  { x with locks := x.locks.filter fun (_, l) => !(l.core == c && l.launch == n && l.thr == t) }

/-- Order in a line at a lock bit (R118): by arrival; of one cycle, lower core, then lower thread. -/
def LockWait.before (a b : LockWait) : Bool :=
  decide (a.at_ < b.at_) || (a.at_ == b.at_ && (decide (a.core < b.core) || (a.core == b.core && decide (a.thr < b.thr))))

/-- A thread takes its place in a line at a lock bit. -/
def lockInsert (w : LockWait) : List LockWait → List LockWait
  | [] => [w]
  | v :: l => if w.before v then w :: v :: l else v :: lockInsert w l

/-- The issuing thread stands in line at a lock bit, in its place unless it stands there already (R118). The tick at which its LDL issues counts
as its arrival at the bank, whatever the distance (DESIGN CHOICE, log 109). -/
def Cluster.lockJoin (x : Cluster) (w : LockWait) : Cluster :=
  if x.lockLine.any fun v => v.core == w.core && v.thr == w.thr then x
  else { x with lockLine := lockInsert w x.lockLine }

/-- The cluster with a thread out of line. -/
def Cluster.lockLeave (x : Cluster) (c t : Nat) : Cluster :=
  { x with lockLine := x.lockLine.filter fun w => !(w.core == c && w.thr == t) }

/-- Whether a thread is first in line at a lock bit, or nobody stands there. -/
def Cluster.lockFirst (x : Cluster) (key c t : Nat) : Bool :=
  match x.lockLine.find? fun w => w.key == key with
  | none => true
  | some w => w.core == c && w.thr == t

/-- Whether a thread is first in line at a lock bit, and every request of the cycle in which the bit goes to the first of them stands in
line (LOCK_GRANT). -/
def Cluster.lockDue (x : Cluster) (key c t : Nat) : Bool :=
  match x.lockLine.find? fun w => w.key == key with
  | none => false
  | some w => w.due && w.core == c && w.thr == t

/-- LDL (R118): releases the thread's lock, takes its place in line at the lock bit, and when the bit is granted to it reads the word. -/
def ldl (i : Instr) (len : Nat) (rd ra : SReg) (off : W64) (s : State) : Out :=
  ready [ra, rd] s fun s =>
    let ea := s.reg ra + off
    checkedLocal i len false true ea 4 s fun s =>
      let k := clusterOf (opmCore ea)
      cutLoad len rd ea (fun s => s.setCluster k ((s.cluster k).lockLeave s.focus s.thr.val)) s
        (let s := s.unlock s.focus s.ctx.launch (some s.thr.val)
        let x := s.cluster k
        let key := lockKey (opmOff ea)
        if (x.locks.find? key).isNone && x.lockDue key s.focus s.thr.val then
          let x := x.lockLeave s.focus s.thr.val
          let s := s.setCluster k { x with locks := x.locks.put key ⟨s.focus, s.ctx.launch, s.thr.val, opmOff ea, s.now⟩ }
          resultLoad len rd (widen 4 false (s.readLocal ea 4)) s
        else lineUp len .lock (s.setCluster k (x.lockJoin ⟨key, s.focus, s.ctx.launch, s.thr.val, opmOff ea, s.now, false⟩)))

/-- LDL (R118). -/
def execLdl (rd ra : SReg) (s : State) : Out := ldl (.ldl rd ra) 4 rd ra 0 s

/-- LDL with a literal offset (R118, R45). -/
def execLdlLit (rd ra : SReg) (lit : W64) (s : State) : Out := ldl (.ldlLit rd ra lit) 12 rd ra lit s

/-- Whether the issuing thread holds the lock on a word (R118). -/
def State.holds (s : State) (ea : W64) : Bool :=
  match (s.cluster (clusterOf (opmCore ea))).lockOf s.focus s.ctx.launch s.thr.val with
  | some (_, l) => l.word == opmOff ea
  | none => false

/-- The state with the issuing thread's lock in the addressed cluster released. -/
def State.dropLock (s : State) (ea : W64) : State :=
  let k := clusterOf (opmCore ea)
  s.setCluster k ((s.cluster k).unlockOf s.focus s.ctx.launch s.thr.val)

/-- STU (R118): stores and releases when the thread holds the lock on the word, and says so in RD. The wait w at the bank, of which R118 gives no
value, is always 0 (DESIGN CHOICE, log 109). -/
def execStu (rd ra rb : SReg) (s : State) : Out :=
  ready [ra, rb, rd] s fun s =>
    let ea := s.reg ra
    checkedLocal (.stu rd ra rb) 4 false true ea 4 s fun s =>
      if s.holds ea then resultAt 4 rd 0 4 ((s.writeLocal ea 4 (s.reg rb)).dropLock ea) else resultAt 4 rd 1 4 s

/-- ULK (R118). -/
def ulk (i : Instr) (len : Nat) (ra : SReg) (off : W64) (s : State) : Out :=
  ready [ra] s fun s =>
    let ea := s.reg ra + off
    checkedLocal i len false true ea 4 s fun s => .next ((if s.holds ea then s.dropLock ea else s).past len)

/-- ULK (R118). -/
def execUlk (ra : SReg) (s : State) : Out := ulk (.ulk ra) 4 ra 0 s

/-- ULK with a literal offset (R118, R45). -/
def execUlkLit (ra : SReg) (lit : W64) (s : State) : Out := ulk (.ulkLit ra lit) 12 ra lit s

/-- LOCK_GRANT (R118): a free lock bit goes to the first in line, whose unit retries before anything else happens. The machine does so at
the end of a cycle, when every request that arrives in it stands in line. -/
def execLockGrant (cluster bank k : Nat) (s : State) : Out :=
  let x := s.cluster cluster
  let key := 16 * bank + k
  match x.lockLine.find? fun w => w.key == key with
  | some w =>
    if (x.locks.find? key).isNone then
      let line := x.lockLine.map fun v => if v = w then { v with due := true } else v
      .next { s.setCluster cluster { x with lockLine := line } with agenda := .issue w.core w.thr :: s.agenda }
    else .next s
  | none => .next s

/-- The lock bits, free and with a thread in line, that a cluster grants at the end of a cycle. -/
def Cluster.lockGrants (x : Cluster) : List Nat :=
  ((x.lockLine.map (·.key)).filter fun key => (x.locks.find? key).isNone).eraseDups

/-- LOCK_TIMEOUT: a lock is released 64 cycles after it was granted (R117). -/
def execLockTimeout (cluster : Nat) (s : State) : Out :=
  let x := s.cluster cluster
  .next (s.setCluster cluster { x with locks := x.locks.filter fun (_, l) => decide (s.now < l.granted + 64) })

/-! ## Returns and retries (R109, R111) -/

/-- Whether an answer to a remote write or message, from a core to another whose context runs, was sent before the place `n` and is still on its
way (R306). -/
def State.answerAhead (s : State) (from_ core n : Nat) : Bool :=
  s.packets.any fun p => p.target == from_ && p.core == core && p.state != .flying && (s.core core).run.of p.launch && decide (p.seq < n)

/-- Whether an outstanding local load's data is the next to arrive: what comes from one core of another cluster arrives in the order in
which it was asked for, answers among it (R306), and crosses no boundary that retrains (R309). -/
def State.returnsNow (s : State) (l : LocalLoad) : Bool :=
  clusterOf l.from_ == clusterOf l.core ||
    (!s.routeHeld (dieOf l.from_) (dieOf l.core) &&
      !(s.locals.any fun m => m.core == l.core && m.from_ == l.from_ && decide (m.seq < l.seq)) && !s.answerAhead l.from_ l.core l.seq)

/-- The second word access of an outstanding load of a thread, if that is its latest access, is made before its data comes (R114). -/
def State.halfBack (s : State) (l : LocalLoad) : State :=
  if (s.core l.core).run.of l.launch && (((s.core l.core).run.thread (thrOf l.thr)).half.any fun a => a.store.isNone) then
    s.makeHalf l.core (thrOf l.thr)
  else s

/-- LOCAL_LOAD_RETURN: the data of an outstanding local load arrives (R111); poison, where no route from its core is left (R313). -/
def execLocalLoadReturn (pos : Nat) (s : State) : Out :=
  match s.locals[pos]? with
  | none => .next s
  | some l =>
    if s.returnsNow l then
      let s := s.halfBack l
      let v := match s.locals[pos]? with | some l => l.val | none => l.val
      let gone : State := { s with locals := s.locals.eraseIdx pos }
      if s.cutOff (dieOf l.from_) (dieOf l.core) then
        .next ((gone.updImage l.core l.launch (fun x => { x with accerr := true })).deliverTo l.core l.launch l.thr l.inc l.rd poison64)
      else .next (gone.deliverTo l.core l.launch l.thr l.inc l.rd v)
    else .next s

/-- REMOTE_ACCESS_RETRY: an access that waits for a context on its target core is retried (R109). -/
def execRemoteAccessRetry (core thr : Nat) (s : State) : Out :=
  match ((s.core core).run.thread (thrOf thr)).stall with
  | some ⟨_, _, .remote⟩ => .next { s with agenda := .issue core thr :: s.agenda }
  | _ => .next s

end Sys2Proof.Machine
end

