-- ==== Sys2Proof/Machine/Shared.lean ====
section
/-!
DEFINITION. Shared memory as instructions see it: stores and loads (R127–R129), SSTP, LOGADD and LOGFADD (R143, R144), sync
objects (R131, R132), REL and ACQ (R133, R137–R139), FENCE and FENCEL (R145, R146), with the events that complete them.
-/

namespace Sys2Proof.Machine

open Sys2Proof

/-! ## Stores (R127, R142–R144) -/

/-- A store that needs a log record for each of its lanes, a scalar one for `ea`, goes on when there is room; otherwise it stalls, and after `logcap.n` cycles
raises cause 7 (R142). -/
def logWait (len : Nat) (lanes : List (W64 × W32)) (ea : W64) (s : State) (go : State → Out) : Out :=
  if lanes.length ≤ s.logRoom then go s
  else match s.th.stall with
    | some ⟨_, _, .log since _ _⟩ => if since + s.ctx.logcap.toNat ≤ s.now then trap 7 ea s else wait s
    | _ => if s.ctx.logcap = 0 then trap 7 ea s else .next (s.stall len 0 (.log s.now ea lanes))

/-- SST, SSTW and SSTB of `n` bytes (R127). One that stalls for log space reads its registers again when it goes on (DESIGN CHOICE,
log 105). -/
def sharedStore (i : Instr) (len n : Nat) (rs ra : SReg) (off : W64) (s : State) : Out :=
  ready [ra, rs] s fun s => exchangeOnly i s fun s =>
    let ea := s.reg ra + off
    if badShared ea n then .next ((s.refuseRecord ea).past len)
    else if (s.mergeSeq (ea.extractLsb' 4 44)).isSome then .next ((s.appendWrite ea n (s.reg rs)).past len)
    else logWait len [(ea, 0)] ea s fun s => .next ((s.appendWrite ea n (s.reg rs)).past len)

/-- SST (R127). -/
def execSst (rs ra : SReg) (imm : BitVec 14) (s : State) : Out := sharedStore (.sst rs ra imm) 4 8 rs ra (sx imm) s

/-- SST with a literal offset (R127, R45). -/
def execSstLit (rs ra : SReg) (lit : W64) (s : State) : Out := sharedStore (.sstLit rs ra lit) 12 8 rs ra lit s

/-- SSTW (R127). -/
def execSstw (rs ra : SReg) (imm : BitVec 14) (s : State) : Out := sharedStore (.sstw rs ra imm) 4 4 rs ra (sx imm) s

/-- SSTW with a literal offset (R127, R45). -/
def execSstwLit (rs ra : SReg) (lit : W64) (s : State) : Out := sharedStore (.sstwLit rs ra lit) 12 4 rs ra lit s

/-- SSTB (R127). -/
def execSstb (rs ra : SReg) (imm : BitVec 14) (s : State) : Out := sharedStore (.sstb rs ra imm) 4 1 rs ra (sx imm) s

/-- SSTB with a literal offset (R127, R45). -/
def execSstbLit (rs ra : SReg) (lit : W64) (s : State) : Out := sharedStore (.sstbLit rs ra lit) 12 1 rs ra lit s

/-- SSTP (R143): one record and a publication of it alone, under no object. -/
def execSstp (sc : Scope) (rs ra : SReg) (s : State) : Out :=
  ready [ra, rs] s fun s => exchangeOnly (.sstp sc rs ra) s fun s =>
    let a := s.reg ra
    if badShared a 8 then .next ((s.refuseRecord a).past 4)
    else logWait 4 [(a, 0)] a s fun s =>
      let o := (a.extractLsb' 0 4).toNat
      let id := s.ids
      let s := s.publish s.focus (scopeSys sc) sc none s.focus s.ctx.launch true false [] none
      .next ((s.append 0 (a.extractLsb' 4 44) (granMask o 8) ((s.reg rs).setWidth 128 <<< (8 * o)) true (some id)).past 4)

/-- LOGADD and LOGFADD with their value (R144). -/
def logAccumulate (i : Instr) (len n : Nat) (kind : BitVec 4) (need : List SReg) (ra : SReg) (b : State → W64) (s : State) : Out :=
  ready need s fun s => exchangeOnly i s fun s =>
    let a := s.reg ra
    if badShared a n then .next ((s.refuseRecord a).past len)
    else logWait len [(a, 0)] a s fun s =>
      let o := (a.extractLsb' 0 4).toNat
      let v : W64 := if n = 8 then b s else (b s).setWidth 32 |>.setWidth 64
      .next ((s.append kind (a.extractLsb' 4 44) (granMask o n) (v.setWidth 128 <<< (8 * o)) false none).past len)

/-- LOGADD (R144). -/
def execLogadd (ra rb : SReg) (s : State) : Out := logAccumulate (.logadd ra rb) 4 8 1 [ra, rb] ra (fun s => s.reg rb) s

/-- LOGADD with a literal (R144, R45). -/
def execLogaddLit (ra : SReg) (lit : W64) (s : State) : Out := logAccumulate (.logaddLit ra lit) 12 8 1 [ra] ra (fun _ => lit) s

/-- LOGFADD (R144). -/
def execLogfadd (ra rb : SReg) (s : State) : Out := logAccumulate (.logfadd ra rb) 4 4 2 [ra, rb] ra (fun s => s.reg rb) s

/-- LOGFADD with a literal (R144, R45). -/
def execLogfaddLit (ra : SReg) (lit : W64) (s : State) : Out :=
  logAccumulate (.logfaddLit ra lit) 12 4 2 [ra] ra (fun _ => lit) s

/-- LOG_FULL (R142): the issuing thread's store has stalled for `logcap.n` cycles and raises cause 7. -/
def execLogFull (s : State) : Out :=
  match s.th.stall with
  | some ⟨_, _, .log since ea _⟩ => if since + s.ctx.logcap.toNat ≤ s.now then trap 7 ea s else .next s
  | _ => .next s

/-! ## Loads (R128–R130) -/

/-- The records of a context among a list that cover a byte and are of kind 0, with the byte in them, the youngest first (R129). -/
def covering (l : List LogRec) (launch va : Nat) : List (Nat × Byte) :=
  ((l.filter fun r => r.launch == launch && r.kind == 0 && r.gran.toNat == va / 16 && r.mask.getLsbD (va % 16)).map
    fun r => (r.seq, r.byte (va % 16))).reverse

/-- Bytes that a shared load reads. -/
def LoadKind.bytes : LoadKind → Nat
  | .sld | .sldh => 8
  | .sldw => 4

/-- The poison value of a failed load of `n` bytes (R18). -/
def poisonOf (n : Nat) : W64 := if n = 8 then poison64 else poison32

/-- SLD, SLDW and SLDH (R128): an address that fails at once returns poison; otherwise the destination is absent until the
data arrives. -/
def sharedLoad (i : Instr) (len : Nat) (kind : LoadKind) (rd ra : SReg) (off : W64) (s : State) : Out :=
  ready [ra, rd] s fun s => exchangeOnly i s fun s =>
    let ea := s.reg ra + off
    let n := kind.bytes
    if badShared ea n then result len rd (poisonOf n) s.setAccerr
    else
      let x := s.ctx
      let l : SharedLoad := ⟨s.seq, s.focus, x.launch, s.thr.val, s.th.inc, rd, kind, ea, x.ctxid, (s.die (dieOf s.focus)).inc,
        (List.range n).map (fun j => covering s.cur.log x.launch (ea.toNat + j)), s.th.fenceL, none⟩
      .next (({ s with seq := s.seq + 1, loads := s.loads ++ [l] } : State).setTh ((s.th.expect rd).past len))

/-- SLD (R128). -/
def execSld (rd ra : SReg) (imm : BitVec 14) (s : State) : Out := sharedLoad (.sld rd ra imm) 4 .sld rd ra (sx imm) s

/-- SLD with a literal offset (R128, R45). -/
def execSldLit (rd ra : SReg) (lit : W64) (s : State) : Out := sharedLoad (.sldLit rd ra lit) 12 .sld rd ra lit s

/-- SLDW (R128). -/
def execSldw (rd ra : SReg) (imm : BitVec 14) (s : State) : Out := sharedLoad (.sldw rd ra imm) 4 .sldw rd ra (sx imm) s

/-- SLDW with a literal offset (R128, R45). -/
def execSldwLit (rd ra : SReg) (lit : W64) (s : State) : Out := sharedLoad (.sldwLit rd ra lit) 12 .sldw rd ra lit s

/-- SLDH (R128). -/
def execSldh (rd ra : SReg) (imm : BitVec 14) (s : State) : Out := sharedLoad (.sldh rd ra imm) 4 .sldh rd ra (sx imm) s

/-- SLDH with a literal offset (R128, R45). -/
def execSldhLit (rd ra : SReg) (lit : W64) (s : State) : Out := sharedLoad (.sldhLit rd ra lit) 12 .sldh rd ra lit s

/-- What a load that has been translated reads: its bytes, or a poisoned line that it meets (R329). -/
inductive Performed where
  | bytes (l : List Byte)
  | consumed (key : Nat)
  deriving DecidableEq, Repr

/-- Whether a view load finds a byte neither among the own records nor in the view. -/
def State.viewMisses (s : State) (k : Nat) (asid : BitVec 12) (e : TlbEntry) (va n : Nat) (fwd : List (Option Byte)) : Bool :=
  (List.range n).any fun j =>
    ((fwd[j]?).getD none).isNone && ((s.cluster k).viewByte (viewKey asid va + j) (e.key va + j)).isNone

/-- The bytes of a view load (R128): a byte that the view lacks fills its line from home memory. What it has read of a publication is not
missed elsewhere any longer (R158). -/
def State.viewLoad (s : State) (k : Nat) (asid : BitVec 12) (e : TlbEntry) (va n : Nat) (fwd : List (Option Byte)) :
    Performed × State :=
  let s := s.trimView k
  let v := viewKey asid va
  let own (j : Nat) : Option Byte := (fwd[j]?).getD none
  let at_ (s : State) (j : Nat) : Option ViewByte := (s.cluster k).viewByte (v + j) (e.key va + j)
  let miss := s.viewMisses k asid e va n fwd
  let line := e.key (va / 64 * 64)
  if miss && s.poison.contains line then (.consumed line, s)
  else
    let s := if miss then s.refill k v line e.size (e.mca || e.repl) else s
    (.bytes ((List.range n).map fun j => match own j with | some b => b | none => ((at_ s j).map (·.val)).getD 0),
      s.shown fun p => (List.range n).any fun j => (own j).isNone &&
        match at_ s j with | some b => decide (p.ord < b.ord) && p.covers b.key | none => false)

/-- Where a home load of a die reads: at home, or of a page with replicas in the die's (R128). -/
def State.sldhKey (s : State) (d : Nat) (e : TlbEntry) (va : Nat) : Nat := if e.repl then s.replicaKey d (e.key va) else e.key va

/-- The bytes of a home load (R128): of a page with replicas, the die's replica. What it has read of a publication is not missed elsewhere
any longer (R158). -/
def State.homeLoad (s : State) (d : Nat) (e : TlbEntry) (va n : Nat) (fwd : List (Option Byte)) : Performed × State :=
  let own (j : Nat) : Option Byte := (fwd[j]?).getD none
  let key := s.sldhKey d e va
  if s.poisonedIn key n then (.consumed (key / 64 * 64), s)
  else
    (.bytes ((List.range n).map fun j => match own j with | some b => b | none => s.home.read (key + j)),
      s.shown fun p => (List.range n).any fun j => (own j).isNone && p.covers (e.key va + j) &&
        (if e.repl then !p.lagD.getLsbD d else e.mca || p.lagG == 0))

/-- The byte that forwards to a load, of the own records that covered it at issue: that of the youngest that still does (R129). -/
def State.stillForward (s : State) (c : Nat) (kind : LoadKind) (fwd : List (List (Nat × Byte))) : List (Option Byte) :=
  fwd.map fun l => (l.find? fun (q, _) => (s.core c).log.any fun r => r.seq == q && s.forwards c kind r).map (·.2)

/-- Shared loads of a thread with a sequence number below `n` that have not been performed yet, its vector loads among them (R146). -/
def State.loadsBefore (s : State) (c launch thr inc n : Nat) : Bool :=
  (s.loads.any fun l =>
    l.core == c && l.launch == launch && l.thr == thr && l.inc == inc && decide (l.seq < n) && !(l.kind == .sldh && l.got.isSome)) ||
  (s.core c).vq.any fun e => e.launch == launch && e.thr == thr && e.inc == inc && decide (e.seq < n) &&
    match e.op with | .load sh _ _ _ => sh | _ => false

/-- `xstat.ACCERR` set in the context of a launch on a core. -/
def State.accerrOf (s : State) (c launch : Nat) : State := s.updImage c launch fun x => { x with accerr := true }

/-- What an outstanding load comes to when it is performed: its value and the die that sends it, with the state that it leaves; `none`
while it waits. A denied or unreachable page gives poison and sets ACCERR (R128, R313). -/
def State.performLoad (s : State) (l : SharedLoad) : Option (Option (W64 × Nat)) × State :=
  let d := dieOf l.core
  let k := clusterOf l.core
  let n := l.kind.bytes
  let fail (s : State) : Option (Option (W64 × Nat)) × State := (some (some (poisonOf n, d)), s.accerrOf l.core l.launch)
  if s.loadsBefore l.core l.launch l.thr l.inc l.after then (none, s)
  else match s.translate k (.core l.core) l.seq l.ctxid l.launch .load l.ea with
    | (.waiting, s) => (none, s)
    | (.denied, s) => fail (s.forget k (.core l.core) l.seq .load)
    | (.hit e, s) =>
      let va := l.ea.toNat
      let key := if l.kind == .sldh then s.sldhKey d e va else e.key va
      if s.linkDown d key then fail s
      else
        let fwd := s.stillForward l.core l.kind l.fwd
        let away := l.kind == .sldh || s.viewMisses k (s.asidOf l.ctxid) e va n fwd
        if away && s.homeHeld d key then (none, s)
        else
          let (r, s) := match l.kind with
            | .sldh => s.homeLoad d e va n fwd
            | .sld | .sldw => s.viewLoad k (s.asidOf l.ctxid) e va n fwd
          match r with
          | .bytes bs => (some (some (BitVec.ofNat 64 (leNat bs), if away then s.homePort d key else d)), s)
          | .consumed key => (some none, s.consumeLine l.core key)

/-- Whether a response from a die to a core has another before it from there to that core, sent at an earlier tick (R306). -/
def State.loadAhead (s : State) (core from_ t : Nat) : Bool :=
  decide (8 ≤ from_) && s.loads.any fun m => m.core == core && m.got.any fun (_, u, f) => f == from_ && decide (u < t)

/-- SHARED_LOAD_RETURN (R128, R151): an outstanding load is performed, and its data arrives at once or, a free choice, later: not across a
boundary that retrains (R309), and as poison where no route is left (R313). A response of an old incarnation is dropped and counted
(R315). -/
def execSharedLoadReturn (pos : Nat) (s : State) : Out :=
  match s.loads[pos]? with
  | none => .next s
  | some l =>
    let d := dieOf l.core
    let gone (s : State) : State := { s with loads := s.loads.filter fun m => m.seq != l.seq }
    if (s.die d).inc ≠ l.inc8 then
      .next (gone (s.setDie d { s.die d with stale := BitVec.ofNat 24 (min (2 ^ 24 - 1) ((s.die d).stale.toNat + 1)) }))
    else
      let give (s : State) (v : W64) : State := (gone s).deliverTo l.core l.launch l.thr l.inc l.rd v
      match l.got with
      | some (v, t, from_) =>
        if s.cutOff from_ d then .next (give (s.accerrOf l.core l.launch) (poisonOf l.kind.bytes))
        else if s.routeHeld from_ d || s.loadAhead l.core from_ t then .next s
        else .next (give s v)
      | none => match s.performLoad l with
        | (some (some (v, from_)), s) =>
          if (s.freeWord 5).getLsbD 0 || s.loadAhead l.core from_ s.now then
            .next { s with loads := s.loads.map fun m => if m.seq = l.seq then { m with got := some (v, s.now, from_) } else m }
          else .next (give s v)
        | (some none, s) | (none, s) => .next s

/-! ## Sync objects (R131, R132) -/

/-- An access of the SYNC group to its object: `fail` where translation refuses it or no route is left (R313), `go` at the
object's home. It waits for its result with `why`. -/
def atHome (a : W64) (s : State) (fail : State → Out) (go : Nat → State → Out) : Out :=
  let u := TlbUser.core s.focus
  match s.translate s.clu u s.thr.val s.ctx.ctxid s.ctx.launch .sync a with
  | (.waiting, s) => wait s
  | (.denied, s) => fail (s.forget s.clu u s.thr.val .sync)
  | (.hit e, s) =>
    let key := e.key a.toNat
    if s.linkDown (dieOf s.focus) key then fail s
    else if s.homeHeld (dieOf s.focus) key then wait s
    else if s.poisonedIn key 8 then .next (s.consumeLine s.focus (key / 64 * 64))
    else go key s

/-- A failing operation of the SYNC group: ACCERR, and poison for one with a result (R132). -/
def syncFail (len : Nat) (rd : Option SReg) (s : State) : Out :=
  match rd with
  | some r => result len r poison64 s.setAccerr
  | none => .next (s.setAccerr.past len)

/-- A binding or atomic instruction (R132): it takes its operands at issue, `b` the second one and `d` RD's value, waits for the object's
home, and acts there in one step. -/
def syncOp (i : Instr) (len : Nat) (need : List SReg) (rd : Option SReg) (ra : SReg) (b d : State → W64)
    (okay : W64 → W64 → W64 → Bool) (s : State) (go : W64 → W64 → Nat → State → Out) : Out :=
  ready need s fun s => exchangeOnly i s fun s =>
    match s.th.stall with
    | some ⟨_, _, .sync a b d⟩ => atHome a s (syncFail len rd) (go b d)
    | _ =>
      if (s.reg ra).extractLsb' 48 16 ≠ 0 ∨ !okay (s.reg ra) (b s) (d s) then syncFail len rd s
      else .next (s.stall len (rd.getD 0) (.sync (s.reg ra) (b s) (d s)))

/-- The object check of SOBIND, SOUNB, REL and ACQ: the object's first byte. -/
def firstByte (a : W64) : Bool := a.toNat % 64 == 0

/-- The object check of SYADD, SYCAS and SYSWP: an aligned user word. -/
def userWord (a : W64) : Bool := a.toNat % 8 == 0 && decide (4 ≤ a.toNat / 8 % 8)

/-- The 64-bit word at a key of home memory. -/
def State.word (s : State) (key : Nat) : W64 := s.home.readLE key 8 64

/-- The state with a 64-bit word of home memory written. -/
def State.setWord (s : State) (key : Nat) (v : W64) : State := { s with home := s.home.writeLE key 8 v }

/-- SOBIND (R132): base in word 0, length in word 1. -/
def execSobind (rd ra rb : SReg) (s : State) : Out :=
  syncOp (.sobind rd ra rb) 4 [rd, ra, rb] none ra (fun s => s.reg rb) (fun s => s.reg rd) (fun a b d =>
    firstByte a && b.extractLsb' 48 16 == 0 && b.toNat % 16 == 0 && d.toNat % 16 == 0 && decide (d.toNat ≤ 2 ^ 40) &&
      decide (b.toNat + d.toNat ≤ 2 ^ 48)) s fun b d key s =>
    .next (((s.setWord key b).setWord (key + 8) d).past 4)

/-- SOUNB (R132): len becomes 0. -/
def execSounb (ra : SReg) (s : State) : Out :=
  syncOp (.sounb ra) 4 [ra] none ra (fun _ => 0) (fun _ => 0) (fun a _ _ => firstByte a) s fun _ _ key s =>
    .next ((s.setWord (key + 8) 0).past 4)

/-- SYADD, SYCAS and SYSWP: the new word from the second operand, RD's value at issue and the old word. -/
def syncAtomic (i : Instr) (len : Nat) (need : List SReg) (rd ra : SReg) (b : State → W64) (f : W64 → W64 → W64 → W64) (s : State) : Out :=
  syncOp i len need (some rd) ra b (fun s => s.reg rd) (fun a _ _ => userWord a) s fun b d key s =>
    let old := s.word key
    result len rd old (s.setWord key (f b d old))

/-- SYADD (R132). -/
def execSyadd (rd ra rb : SReg) (s : State) : Out :=
  syncAtomic (.syadd rd ra rb) 4 [ra, rb, rd] rd ra (fun s => s.reg rb) (fun b _ old => old + b) s

/-- SYADD with a literal (R132, R45). -/
def execSyaddLit (rd ra : SReg) (lit : W64) (s : State) : Out :=
  syncAtomic (.syaddLit rd ra lit) 12 [ra, rd] rd ra (fun _ => lit) (fun b _ old => old + b) s

/-- SYCAS (R132): the expected value is RD's at issue. -/
def execSycas (rd ra rb : SReg) (s : State) : Out :=
  syncAtomic (.sycas rd ra rb) 4 [ra, rb, rd] rd ra (fun s => s.reg rb) (fun b d old => if old = d then b else old) s

/-- SYCAS with a literal (R132, R45). -/
def execSycasLit (rd ra : SReg) (lit : W64) (s : State) : Out :=
  syncAtomic (.sycasLit rd ra lit) 12 [ra, rd] rd ra (fun _ => lit) (fun b d old => if old = d then b else old) s

/-- SYSWP (R132). -/
def execSyswp (rd ra rb : SReg) (s : State) : Out :=
  syncAtomic (.syswp rd ra rb) 4 [ra, rb, rd] rd ra (fun s => s.reg rb) (fun b _ _ => b) s

/-- SYSWP with a literal (R132, R45). -/
def execSyswpLit (rd ra : SReg) (lit : W64) (s : State) : Out :=
  syncAtomic (.syswpLit rd ra lit) 12 [ra, rd] rd ra (fun _ => lit) (fun b _ _ => b) s

/-- SYLD (R132): any word of an object. -/
def execSyld (rd ra : SReg) (s : State) : Out :=
  syncOp (.syld rd ra) 4 [ra, rd] (some rd) ra (fun _ => 0) (fun _ => 0) (fun a _ _ => a.toNat % 8 == 0) s fun _ _ key s =>
    result 4 rd (s.word key) s

/-- SYNC_OP_COMPLETE (R132): the operation of a waiting thread reaches the object's home. -/
def execSyncOpComplete (core thr : Nat) (s : State) : Out :=
  match (s.threadOn core thr).stall with
  | some ⟨_, _, .sync _ _ _⟩ => .next (s.retry core thr)
  | _ => .next s

/-! ## REL (R133) -/

/-- The tail of the running context: its records with a number below `n` that are not published. -/
def State.publishTail (s : State) (n id : Nat) : State :=
  s.setCore s.focus { s.cur with log := s.cur.log.map fun r =>
    if r.launch == s.ctx.launch && r.pub.isNone && decide (r.seq < n) then { r with pub := some id } else r }

/-- REL (R133): publishes the tail as it stood at issue under the object, and waits for its slot. While the object is being translated the
tail's records are not published yet, so that another thread's store may still merge into one of them (DESIGN CHOICE, log 98: R125 and R133
do not say when a record of the tail counts as published). -/
def execRel (sc : Scope) (ra : SReg) (s : State) : Out :=
  ready [ra] s fun s => exchangeOnly (.rel sc ra) s fun s =>
    let a := s.reg ra
    if a.extractLsb' 48 16 ≠ 0 ∨ !firstByte a then syncFail 4 none s
    else match s.th.stall with
      | some ⟨_, _, .rel id⟩ =>
        match s.pubs.find? fun p => p.id == id with
        | some p => if p.app.isSome then .next (s.past 4) else wait s
        | none => .next (s.past 4)
      | some ⟨_, _, .seq n⟩ =>
        atHome a s (syncFail 4 none) fun key s =>
          let id := s.ids
          let s := s.publish s.focus (scopeSys sc) sc (some key) s.focus s.ctx.launch false false [] none
          .next (((s.publishTail n id).settlePub s.focus id s.now).stall 4 0 (.rel id))
      | _ => .next (s.stall 4 0 (.seq s.seq))

/-- REL_COMPLETE (R133): the publication of a waiting REL holds a slot. -/
def execRelComplete (core thr : Nat) (s : State) : Out :=
  match (s.threadOn core thr).stall with
  | some ⟨_, _, .rel id⟩ =>
    if s.pubs.any fun p => p.id == id && p.app.isNone then .next s else .next (s.retry core thr)
  | _ => .next s

/-! ## ACQ (R137–R139) -/

/-- Whether a record's granule lies in a bound region: base and length as the object's words hold them. -/
def LogRec.inRegion (r : LogRec) (base len : W64) : Bool :=
  decide (base.toNat ≤ r.va) && decide (r.va < base.toNat + len.toNat)

/-- The publications under an object with an index above `v` and up to `p`, in publish order. -/
def State.under (s : State) (obj v p : Nat) : List Publication :=
  sortPubs (s.pubs.filter fun q => q.obj == some obj && q.applied && decide (v < q.index) && decide (q.index ≤ p))

/-- The acquire table with an object's entry in front; beyond 256 the least recently acquired goes (R139). -/
def Cluster.acquired (x : Cluster) (e : AcqEntry) : Cluster :=
  { x with acq := (e :: x.acq.filter fun f => f.obj != e.obj).take 256 }

/-- A place of a view in the lines of a region, in whichever address space. -/
def inRegionLines (base len : W64) (a : Nat) : Bool :=
  let v := a % 2 ^ 48
  len != 0 && decide (base.toNat / 64 ≤ v / 64) && decide (v / 64 < (base.toNat + len.toNat + 63) / 64)

/-- A byte that a view holds in the lines of a region, or in a line of home memory of which it holds such a byte (log 77). -/
def Cluster.inRegion (x : Cluster) (base len : W64) (a : Nat) (b : ViewByte) : Bool :=
  inRegionLines base len a || x.view.any fun (c, d) => inRegionLines base len c && d.key / 64 == b.key / 64

/-- Whether a publication of one core and an ACQ of another cover both with their scopes (R140). -/
def coversBoth (sw sa : Scope) (w r : Nat) : Bool :=
  let wide : Scope → Bool
    | .cl => clusterOf w == clusterOf r
    | .die => dieOf w == dieOf r
    | .dev | .sys => true
  wide sw && wide sa

/-- The replay of an ACQ, or its fallback (R138) once no home that it depends on lags; `none` while one does. Publications whose scope
or the ACQ's does not cover both cores are replayed, or waited for by the fallback, or not, a free choice (R140); where one is not, the table forgets the object, and its
next ACQ takes the fallback (DESIGN CHOICE, log 83). -/
def State.acquire (s : State) (sc : Scope) (key : Nat) : Option State :=
  let k := s.clu
  let p := (s.word (key + 16)).toNat
  let base := s.word key
  let len := s.word (key + 8)
  let x := s.cluster k
  let entry := x.acq.find? fun e => e.obj == key
  let v := match entry with | some e => e.v | none => 0
  let ps := s.under key v p
  let whole := (match entry with | some e => e.region == (base, len) | none => false) && decide (ps.length = p - v)
  let skip (q : Publication) : Bool := !coversBoth q.scope sc q.core s.focus && (s.freeWord (2 ^ 20 + q.id)).getLsbD 0
  let done (s : State) : State :=
    let x := (s.cluster k).acquired ⟨key, p, (base, len)⟩
    (s.setCluster k (if ps.any fun q => skip q && (whole || q.lagG != 0) then { x with acq := x.acq.filter fun e => e.obj != key }
      else x)).trimView k
  if whole then
    some (done ((ps.filter fun q => !skip q).foldl (fun s q =>
      q.records.foldl (fun s r => if r.inRegion base len then s.replayRec k q.ord r else s) s) s))
  else if s.pubs.any fun q => q.obj == some key && q.applied && q.lagG != 0 && !skip q then none
  else some (done (s.dropView k ((s.cluster k).inRegion base len)))

/-- ACQ (R137): reads the object at its home, and replays or takes the fallback in one step. -/
def execAcq (sc : Scope) (ra : SReg) (s : State) : Out :=
  ready [ra] s fun s => exchangeOnly (.acq sc ra) s fun s =>
    let a := s.reg ra
    if a.extractLsb' 48 16 ≠ 0 ∨ !firstByte a then syncFail 4 none s
    else match s.th.stall with
      | none => .next (s.stall 4 0 .acq)
      | some _ => atHome a s (syncFail 4 none) fun key s =>
        match s.acquire sc key with
        | some s => .next (s.past 4)
        | none => wait s

/-- ACQ_COMPLETE (R137): the replay of a waiting ACQ ends. -/
def execAcqComplete (core thr : Nat) (s : State) : Out :=
  match (s.threadOn core thr).stall with
  | some ⟨_, _, .acq⟩ => .next (s.retry core thr)
  | _ => .next s

/-! ## FENCE and FENCEL (R145, R146) -/

/-- Whether a record on its way is homed on another device: its page's walk says so (R145). -/
def State.goesAway (s : State) (r : LogRec) : Bool :=
  match s.walk r.ctx .record (BitVec.ofNat 48 r.va) with
  | .fill w => (⟨w, false⟩ : TlbEntry).dev != Config.device
  | .deny | .absent | .error | .consumed _ => false

/-- Records of a launch on a core below `n` that are neither accepted nor refused, of those that a FENCE of the scope covers (R145). -/
def State.recordsLeft (s : State) (sc : Scope) (c launch n : Nat) : Bool :=
  (s.core c).log.any fun r => r.launch == launch && decide (r.seq < n) && r.homed.isNone && (sc == .sys || !s.goesAway r)

/-- FENCE (R145): waits for the earlier records that its scope covers, and hands over the status gathered since the last one. -/
def execFence (sc : Scope) (rd : SReg) (s : State) : Out :=
  ready [rd] s fun s => exchangeOnly (.fence sc rd) s fun s =>
    let done (s : State) : Out :=
      let v := s.ctx.fence.word
      result 4 rd v (s.setCtx { s.ctx with fence := ⟨0, 0, false, false, false⟩ })
    match s.th.stall with
    | some ⟨_, _, .fence n⟩ => if s.recordsLeft sc s.focus s.ctx.launch n then wait s else done s
    | _ => if s.recordsLeft sc s.focus s.ctx.launch s.seq then .next (s.stall 4 rd (.fence s.seq)) else done s

/-- FENCE_COMPLETE (R145): the records before a waiting FENCE have been accepted or refused; the FENCE tries again. -/
def execFenceComplete (core thr : Nat) (s : State) : Out :=
  match (s.threadOn core thr).stall with
  | some ⟨_, _, .fence _⟩ => .next (s.retry core thr)
  | _ => .next s

/-- FENCEL (R146): the thread's later shared loads wait for its earlier ones; nothing else does. -/
def execFencel (sc : Scope) (s : State) : Out :=
  exchangeOnly (.fencel sc) s fun s => .next ((s.setTh { s.th with fenceL := s.seq }).past 4)

end Sys2Proof.Machine
end

