-- ==== Sys2Proof/Machine/VecOps.lean ====
section
/-!
DEFINITION. What the vector instructions compute over register images (R199–R205, R208, R216–R219, R223–R225).
-/

namespace Sys2Proof.Machine

open Sys2Proof

/-! ## Elements (R51, R205, R215) -/

/-- Bits of an element. -/
def tyWidth : Ty → Nat
  | .f32 | .i32 | .u32 => 32
  | .bf16 | .f16 | .i16 => 16
  | .e4m3 | .e5m2 | .i8 | .u8 | .bq8s | .bq8u => 8
  | .nq4 => 4

/-- Elements of a register. -/
def tyCount (ty : Ty) : Nat := 2048 / tyWidth ty

/-- The floating-point format of a type. -/
def tyFmt : Ty → Option Fmt
  | .f32 => some fp32
  | .bf16 => some bf16
  | .f16 => some fp16
  | .e4m3 => some e4m3
  | .e5m2 => some e5m2
  | .i32 | .u32 | .i16 | .i8 | .u8 | .nq4 | .bq8s | .bq8u => none

/-- Whether an integer type is signed. -/
def tySigned : Ty → Bool
  | .i32 | .i16 | .i8 => true
  | .f32 | .bf16 | .f16 | .e4m3 | .e5m2 | .u32 | .u8 | .nq4 | .bq8s | .bq8u => false

/-- Element `e` of a register of `w`-bit elements. -/
def elem (w : Nat) (v : VImage) (e : Nat) : W32 := (v.extractLsb' (w * e) w).setWidth 32

/-- A register with element `e` set to the low `w` bits of `x`. -/
def setElem (w : Nat) (v : VImage) (e : Nat) (x : W32) : VImage :=
  let m : VImage := (BitVec.allOnes w).setWidth 2048 <<< (w * e)
  (v &&& ~~~m) ||| (((x.setWidth w : BitVec w).setWidth 2048) <<< (w * e))

/-- A register from its elements, the lowest first. -/
def packElems (w : Nat) (l : List W32) : VImage := BitVec.ofNat 2048 (l.foldr (fun x acc => x.toNat % 2 ^ w + 2 ^ w * acc) 0)

/-- The lane of element `e`. -/
def laneOf (w e : Nat) : Nat := e * w / 32

/-- The flags of a list. -/
def orFlags (l : List FFlags) : FFlags := l.foldl FFlags.or .none

/-- A register whose active elements a function gives, the others kept, with the flags of the active ones (R215). -/
def mapActive (w : Nat) (mask : W64) (old : VImage) (f : Nat → W32 × FFlags) : VImage × FFlags :=
  let l := (List.range (2048 / w)).map fun e => if mask.getLsbD (laneOf w e) then f e else (elem w old e, FFlags.none)
  (packElems w (l.map (·.1)), orFlags (l.map (·.2)))

/-! ## Integers (R199, R216) -/

/-- The integer that an element holds. -/
def intOf (ty : Ty) (x : W32) : Int :=
  let w := tyWidth ty
  let n := x.toNat % 2 ^ w
  if tySigned ty && decide (2 ^ (w - 1) ≤ n) then (n : Int) - 2 ^ w else n

/-- The least value of an integer type. -/
def tyMin (ty : Ty) : Int := if tySigned ty then -(2 ^ (tyWidth ty - 1)) else 0

/-- The greatest value of an integer type. -/
def tyMax (ty : Ty) : Int := if tySigned ty then 2 ^ (tyWidth ty - 1) - 1 else 2 ^ tyWidth ty - 1

/-- An integer as an element, modulo 2^w. -/
def wrapInt (ty : Ty) (v : Int) : W32 := BitVec.ofNat 32 (v % 2 ^ tyWidth ty).toNat

/-- An integer clamped to a range. -/
def satInt (lo hi v : Int) : Int := max lo (min hi v)

/-- An integer result: modulo 2^w, or saturated. -/
def intResult (ty : Ty) (sat : Bool) (v : Int) : W32 := wrapInt ty (if sat then satInt (tyMin ty) (tyMax ty) v else v)

/-! ## Arithmetic (R216) -/

/-- A float result: rounded, flushed by FTZ, with NV where the operation was invalid. -/
def floatResult (k : Fmt) (mode : BitVec 2) (ftz : Bool) (r : Num × Bool) : W32 × FFlags :=
  addFlags (k.output ftz (k.roundNum mode r.1)) (FFlags.invalid r.2)

/-- The smaller or larger of two floats (R216): a NaN gives the canonical NaN, and −0 lies below +0. -/
def floatPick (k : Fmt) (max_ : Bool) (x y : Num) : W32 :=
  match x, y with
  | .nan, _ | _, .nan => k.nan
  | _, _ =>
    let xLess := if x.isZero && y.isZero then x.neg && !y.neg else ltNum x y
    (k.roundNum 0 (if xLess == max_ then y else x)).1

/-- A shift of an element by an unsigned count (R217). -/
def shiftElem (f : XvBin) (ty : Ty) (x y : W32) : W32 :=
  let w := tyWidth ty
  let n := y.toNat % 2 ^ w
  match f with
  | .shl => if w ≤ n then 0 else wrapInt ty ((x.toNat % 2 ^ w * 2 ^ n : Nat) : Int)
  | .shr => if w ≤ n then 0 else BitVec.ofNat 32 (x.toNat % 2 ^ w / 2 ^ n)
  | _ => wrapInt ty (intOf ty x / 2 ^ min n w)

/-- An element-wise operation of two sources (R216, R217). -/
def binElem (f : XvBin) (ty : Ty) (sat : Bool) (mode : BitVec 2) (ftz : Bool) (x y : W32) : W32 × FFlags :=
  match tyFmt ty with
  | some k =>
    let a := k.input ftz x
    let b := k.input ftz y
    match f with
    | .add => floatResult k mode ftz (addNum mode a b)
    | .sub => floatResult k mode ftz (addNum mode a b.flip)
    | .mul => floatResult k mode ftz (mulNum a b)
    | .min => (floatPick k false a b, .none)
    | .max => (floatPick k true a b, .none)
    | .shl | .shr | .sra => (x, .none)
  | none =>
    let a := intOf ty x
    let b := intOf ty y
    (match f with
      | .add => intResult ty sat (a + b)
      | .sub => intResult ty sat (a - b)
      | .mul => intResult ty sat (a * b)
      | .min => wrapInt ty (min a b)
      | .max => wrapInt ty (max a b)
      | .shl | .shr | .sra => shiftElem f ty x y, .none)

/-- VFMA and VFMS: one rounding (R208, R216); 0 × ∞ is invalid whatever the addend. -/
def fmaElem (neg : Bool) (ty : Ty) (sat : Bool) (mode : BitVec 2) (ftz : Bool) (x y z : W32) : W32 × FFlags :=
  match tyFmt ty with
  | some k =>
    let p := mulNum (k.input ftz x) (k.input ftz y)
    let c := k.input ftz z
    let r := addNum mode p.1 (if neg then c.flip else c)
    floatResult k mode ftz (r.1, p.2 || r.2)
  | none =>
    let c := intOf ty z
    (intResult ty sat (intOf ty x * intOf ty y + if neg then -c else c), .none)

/-- VABS and VNEG (R216). -/
def unElem (abs : Bool) (ty : Ty) (sat : Bool) (ftz : Bool) (x : W32) : W32 :=
  match tyFmt ty with
  | some k =>
    match k.input ftz x with
    | .nan => k.nan
    | .inf s => (k.roundNum 0 (.inf (!abs && !s))).1
    | .fin s m e => (k.roundNum 0 (.fin (!abs && !s) m e)).1
  | none => let a := intOf ty x; intResult ty sat (if abs then (a.natAbs : Int) else -a)

/-- The flag DZ alone. -/
def FFlags.divZero : FFlags := ⟨false, true, false, false, false⟩

/-- 1/√(m·2^e): digits, exponent, and whether anything is cut off. -/
def rsqrtOf (m : Nat) (e : Int) : Nat × Int × Bool :=
  let j : Nat := 200 + Nat.log2 m
  let j := if (e + j) % 2 = 0 then j else j + 1
  let n := 2 ^ j / m
  let r := isqrt n
  (r, (-e - j) / 2, 2 ^ j % m != 0 || r * r != n)

/-- VRCP, VRSQ, VSQRT, VEXP2 and VLOG2 (R216). -/
def fnElem (f : XvFun) (mode : BitVec 2) (ftz : Bool) (x : W32) : W32 × FFlags :=
  let k := fp32
  let nv : W32 × FFlags := (k.nan, FFlags.invalid true)
  let round (neg : Bool) (r : Nat × Int × Bool) := k.output ftz (k.round mode neg r.1 r.2.1 r.2.2)
  match k.input ftz x with
  | .nan => (k.nan, .none)
  | .inf s =>
    match f with
    | .rcp => (k.zero s, .none)
    | .rsq => if s then nv else (k.zero false, .none)
    | .sqrt => if s then nv else (k.infinity false, .none)
    | .exp2 => (if s then k.zero false else k.infinity false, .none)
    | .log2 => if s then nv else (k.infinity false, .none)
  | .fin s m e =>
    if m = 0 then
      match f with
      | .rcp | .rsq => (k.infinity s, FFlags.divZero)
      | .sqrt => (k.zero s, .none)
      | .exp2 => (k.signed false (127 * 2 ^ 23), .none)
      | .log2 => (k.infinity true, FFlags.divZero)
    else
      match f with
      | .rcp => let q := quotient 1 m 64; round s (q.1, q.2.1 - e, q.2.2)
      | .rsq => if s then nv else round false (rsqrtOf m e)
      | .sqrt => if s then nv else round false (rootOf m e)
      | .exp2 => round false (exp2Of s m e)
      | .log2 => if s then nv else let r := log2Of m e; round r.1 r.2

/-! ## Comparisons (R217) -/

/-- A comparison of two lanes, and whether it raises NV. -/
def cmpLane (f : XvCmp) (ty : Ty) (ftz : Bool) (x y : W32) : Bool × Bool :=
  match tyFmt ty with
  | some k =>
    let a := k.input ftz x
    let b := k.input ftz y
    let nan := a == .nan || b == .nan
    match f with
    | .eq => (eqNum a b, false)
    | .lt => (ltNum a b, nan)
    | .le => (ltNum a b || eqNum a b, nan)
  | none =>
    let a := intOf ty x
    let b := intOf ty y
    (match f with | .eq => decide (a = b) | .lt => decide (a < b) | .le => decide (a ≤ b), false)

/-- A mask from its bits. -/
def maskOf (p : Nat → Bool) : W64 := BitVec.ofNat 64 ((List.range 64).foldl (fun m j => if p j then m + 2 ^ j else m) 0)

/-! ## Conversions (R199, R217) -/

/-- A number rounded and saturated to an integer type: NV out of range, NX when inexact in range. -/
def numToInt (ty : Ty) (mode : BitVec 2) (x : Num) : W32 × FFlags :=
  match x with
  | .nan => (0, FFlags.invalid true)
  | .inf s => (wrapInt ty (if s then tyMin ty else tyMax ty), FFlags.invalid true)
  | .fin s m e =>
    let (v, nx) := roundInt mode s m e false
    if v < tyMin ty ∨ tyMax ty < v then (wrapInt ty (satInt (tyMin ty) (tyMax ty) v), FFlags.invalid true)
    else (wrapInt ty v, ⟨false, false, false, false, nx⟩)

/-- One element converted (R199). -/
def cvtElem (dst src : Ty) (mode : BitVec 2) (ftz : Bool) (x : W32) : W32 × FFlags :=
  match tyFmt src, tyFmt dst with
  | some a, some b => b.output ftz (b.roundNum mode (a.input ftz x))
  | some a, none => numToInt dst mode (a.input ftz x)
  | none, some b => b.output ftz (b.roundNum mode (intNum (intOf src x)))
  | none, none => (intResult dst true (intOf src x), .none)

/-- VCVT (R217). -/
def cvtReg (dst src : Ty) (p : Nat) (mode : BitVec 2) (ftz : Bool) (mask : W64) (old va : VImage) : VImage × FFlags :=
  let ws := tyWidth src
  let wd := tyWidth dst
  let ns := tyCount src
  let nd := tyCount dst
  if nd ≤ ns then mapActive wd mask old fun e => cvtElem dst src mode ftz (elem ws va (p * nd + e))
  else mapActive wd mask old fun e =>
    if p * ns ≤ e ∧ e < p * ns + ns then cvtElem dst src mode ftz (elem ws va (e - p * ns)) else (elem wd old e, .none)

/-! ## Reductions and scans (R208, R219) -/

/-- An element widened to 32 bits (R208). -/
def widenElem (ty : Ty) (ftz : Bool) (x : W32) : W32 :=
  match tyFmt ty with
  | some k => (fp32.roundNum 0 (k.input ftz x)).1
  | none => BitVec.ofInt 32 (intOf ty x)

/-- AddPart (R208): with `frm.ftz` every sum is flushed as a result is (DESIGN CHOICE, log 95: R208 and R198 do not say whether the sums on
the way to VREDADD's and VSCAN's results are). -/
def addPart (ty : Ty) (mode : BitVec 2) (ftz : Bool) (x y : Option W32) : Option W32 × FFlags :=
  match x, y with
  | some a, some b =>
    match tyFmt ty with
    | some _ => let r := binElem .add .f32 false mode ftz a b; (some r.1, r.2)
    | none => (some (a + b), .none)
  | some a, none => (some a, .none)
  | none, y => (y, .none)

/-- One level of the tree: element `j` with element `j + s`. -/
def treeLevel (ty : Ty) (mode : BitVec 2) (ftz : Bool) (l : List (Option W32)) : List (Option W32) × FFlags :=
  let s := l.length / 2
  let r := (l.take s).zipWith (fun x y => addPart ty mode ftz x y) (l.drop s)
  (r.map (·.1), orFlags (r.map (·.2)))

/-- The pairwise tree over 2^n elements (R208). -/
def treeSum (ty : Ty) (mode : BitVec 2) (ftz : Bool) : Nat → List (Option W32) → Option W32 × FFlags
  | 0, l => (l.headD none, .none)
  | n + 1, l =>
    let (l, f) := treeLevel ty mode ftz l
    let (r, g) := treeSum ty mode ftz n l
    (r, f.or g)

/-- The elements present: those in active lanes. -/
def presentElems (ty : Ty) (mask : W64) (va : VImage) : List (Option W32) :=
  let w := tyWidth ty
  (List.range (tyCount ty)).map fun e => if mask.getLsbD (laneOf w e) then some (elem w va e) else none

/-- A reduction's result in lane 0, the other lanes 0 (R219). -/
def redReg (f : XvRed) (ty : Ty) (mode : BitVec 2) (ftz : Bool) (mask : W64) (va : VImage) : VImage × FFlags :=
  let l := (presentElems ty mask va).map fun o => o.map (widenElem ty ftz)
  match f with
  | .add => let (r, g) := treeSum ty mode ftz (Nat.log2 (tyCount ty)) l; ((r.getD 0).setWidth 2048, g)
  | .max | .min =>
    let pick (x y : W32) : W32 := match tyFmt ty with
      | some _ => floatPick fp32 (f == .max) (fp32.decode x) (fp32.decode y)
      | none =>
        let less := if tySigned ty then decide (x.toInt < y.toInt) else decide (x.toNat < y.toNat)
        if less == (f == .max) then y else x
    let r := l.foldl (fun acc o => match acc, o with
      | some a, some b => some (pick a b)
      | none, o => (o.map fun b => pick b b)
      | a, none => a) none
    ((r.getD 0).setWidth 2048, .none)

/-- The prefixes of VSCAN from an element on. -/
def scanFrom (ty : Ty) (mode : BitVec 2) (ftz : Bool) : Option W32 → List (Option W32) → List (Option W32 × FFlags)
  | _, [] => []
  | acc, o :: l =>
    let r := match o with | some _ => addPart ty mode ftz acc o | none => (acc, FFlags.none)
    r :: scanFrom ty mode ftz r.1 l

/-- VSCAN (R219): an element whose prefix is absent is 0. -/
def scanReg (ty : Ty) (mode : BitVec 2) (ftz : Bool) (mask : W64) (va : VImage) : VImage × FFlags :=
  let l := scanFrom ty mode ftz none ((presentElems ty mask va).map fun o => o.map (widenElem ty ftz))
  (packElems 32 (l.map fun r => r.1.getD 0), orFlags (l.map (·.2)))

/-! ## Block formats (R200–R204, R223) -/

/-- The level L[m] as BF16 (R200). -/
def nq4Level (m : Nat) : W32 :=
  match m with
  | 0 => 0x3D2C | 1 => 0x3E02 | 2 => 0x3E5D | 3 => 0x3E9F | 4 => 0x3ED5 | 5 => 0x3F0B | 6 => 0x3F35 | _ => 0x3F80

/-- BlockScale(S, u) (R201). -/
def blockScale (s : W32) (u : Nat) : W32 := mulF32 (fp32.decode (mulF32 (fp32.decode s) (natNum u))) (fp32.decode 0x3B808081)

/-- DecodeNQ4(c, S, u) (R201). -/
def decodeNq4 (c s : W32) (u : Nat) : W32 :=
  if u = 0 then 0
  else if fp32.decode s = .nan then fp32.nan
  else
    let v := mulF32 (fp32.decode (blockScale s u)) (bf16.decode (nq4Level (c.toNat % 8)))
    if c.getLsbD 3 then v ^^^ 0x80000000 else v

/-- DecodeBQ8S and DecodeBQ8U (R204). -/
def decodeBq8 (signed : Bool) (q s : W32) : W32 :=
  let v : Int := if signed then (if q.toNat % 256 = 128 then -127 else intOf .i8 q) else (q.toNat % 256 : Nat)
  mulF32 (.fin (decide (v < 0)) v.natAbs 0) (fp32.decode s)

/-- The distance ||x|/b − L[m]|, scaled by |b| and a common power of two `lo`. -/
def nq4Distance (mx : Nat) (ex : Int) (sb : Bool) (mb : Nat) (eb lo : Int) (m : Nat) : Nat :=
  match bf16.decode (nq4Level m) with
  | .fin _ ml el => (scaled sb mx ex lo - scaled false (ml * mb) (el + eb) lo).natAbs
  | _ => 0

/-- QuantNQ4(x, b) (R203). -/
def quantNq4 (x : Num) (b : W32) : W32 × FFlags :=
  let sign (s : Bool) (m : Nat) : W32 := BitVec.ofNat 32 (m + if s then 8 else 0)
  match x, fp32.decode b with
  | .nan, _ => (0, FFlags.invalid true)
  | x, .nan => (sign x.neg 0, .none)
  | x, .inf _ => (sign x.neg 0, .none)
  | .inf s, .fin _ mb _ => (sign s (if mb = 0 then 0 else 7), .none)
  | .fin s mx ex, .fin sb mb eb =>
    if mb = 0 then (sign s 0, .none)
    else
      let lo := min ex (eb - 20)
      let d := nq4Distance mx ex sb mb eb lo
      (sign s ((List.range 8).foldl (fun best m => if d m < d best then m else best) 0), .none)

/-- QuantBQ8S and QuantBQ8U (R204). -/
def quantBq8 (signed : Bool) (mode : BitVec 2) (x : Num) (s : W32) : W32 × FFlags :=
  let lo : Int := if signed then -127 else 0
  let hi : Int := if signed then 127 else 255
  let code (v : Int) : W32 := BitVec.ofNat 32 (v % 256).toNat
  match x, fp32.decode s with
  | .nan, _ | _, .nan => (0, FFlags.invalid true)
  | .inf a, t => (code (if a != t.neg then lo else hi), FFlags.invalid true)
  | .fin _ _ _, .inf _ => (0, .none)
  | .fin a m e, .fin b n d =>
    if n = 0 ∨ m = 0 then (0, .none)
    else
      let q := quotient m n 70
      let (v, nx) := roundInt mode (a != b) q.1 (e - d + q.2.1) q.2.2
      if v < lo ∨ hi < v then (code (satInt lo hi v), FFlags.invalid true) else (code v, ⟨false, false, false, false, nx⟩)

/-- VDQ (R223). -/
def dqReg (ty : Ty) (p : Nat) (ftz : Bool) (mask : W64) (old va : VImage) (b : W64) : VImage × FFlags :=
  let s : W32 := b.setWidth 32
  mapActive 32 mask old fun j =>
    let q := elem (tyWidth ty) va (64 * p + j)
    let v := match ty with
      | .nq4 => decodeNq4 q s (b.extractLsb' 32 8).toNat
      | .bq8s => decodeBq8 true q s
      | _ => decodeBq8 false q s
    fp32.output ftz (v, .none)

/-- VQNT (R223): codes outside block p are unchanged. -/
def qntReg (ty : Ty) (p : Nat) (mode : BitVec 2) (ftz : Bool) (mask : W64) (old va : VImage) (b : W64) : VImage × FFlags :=
  let s : W32 := b.setWidth 32
  let bs := blockScale s (b.extractLsb' 32 8).toNat
  let w := tyWidth ty
  let l := (List.range (tyCount ty)).map fun e =>
    if 64 * p ≤ e ∧ e < 64 * p + 64 ∧ mask.getLsbD (e - 64 * p) then
      let x := fp32.input ftz (elem 32 va (e - 64 * p))
      match ty with
      | .nq4 => quantNq4 x bs
      | .bq8s => quantBq8 true mode x s
      | _ => quantBq8 false mode x s
    else (elem w old e, FFlags.none)
  (packElems w (l.map (·.1)), orFlags (l.map (·.2)))

/-! ## The histogram unit (R224) -/

/-- One more count in a bin, saturating at 255. -/
def bumpBin (bins : List W32) (k : Nat) : List W32 := bins.modify k fun c => if c.toNat % 256 = 255 then 255 else c + 1

/-- VHIST (R224). -/
def histReg (mask : W64) (old va : VImage) : VImage :=
  packElems 8 ((List.range 64).foldl (fun bins j =>
    if mask.getLsbD j then bumpBin bins (fp32.expOf (elem 32 va j)) else bins) ((List.range 256).map fun e => elem 8 old e))

/-- The smallest bin at which the running sum reaches `t`. -/
def reachBin (t : Nat) : Nat → Nat → List Nat → Nat
  | k, _, [] => k
  | k, acc, c :: l => if t ≤ acc + c then k else reachBin t (k + 1) (acc + c) l

/-- VSCALE (R224). -/
def scaleReg (ty : Ty) (va : VImage) (b : W64) : W64 :=
  let bins := (List.range 254).map fun k => (elem 8 va (k + 1)).toNat
  let n := bins.foldl (· + ·) 0
  let q := min (b.extractLsb' 0 11).toNat 1024
  let t := max 1 ((n * q + 1023) / 1024)
  let e : Int := (reachBin t 1 0 bins : Int) - 126
  let byDiv (d : Nat) : W64 :=
    if n = 0 then 0 else let r := quotient 1 d 64; ((fp32.round 0 false r.1 (r.2.1 + e) r.2.2).1).setWidth 64
  match ty with
  | .bq8s => byDiv 127
  | .bq8u => byDiv 255
  | _ =>
    let s : W32 := b.extractLsb' 32 32
    let u : Nat := match fp32.decode s with
      | .fin false m d =>
        if n = 0 ∨ m = 0 then 0
        else
          let x : Int := e - d
          let num := 255 * 2 ^ x.toNat
          let den := m * 2 ^ (-x).toNat
          min 255 ((num + den - 1) / den)
      | _ => 0
    (BitVec.ofNat 8 u ++ s).setWidth 64

end Sys2Proof.Machine
end

