-- ==== Sys2Proof/Machine/Vector.lean ====
section
/-!
DEFINITION. The vector unit (R209–R225): its queues, the memory instructions, the dealing of lane groups (R212), and the
completion of an entry.
-/

namespace Sys2Proof.Machine

open Sys2Proof

/-! ## Registers and masks -/

/-- A vector register. -/
def Ctx.vreg (x : Ctx) (v : VReg) : VImage := x.vregs[v.toNat]'v.isLt

/-- The context with a vector register written. -/
def Ctx.setVreg (x : Ctx) (v : VReg) (i : VImage) : Ctx := { x with vregs := x.vregs.set v.toNat i v.isLt }

/-- A mask register; `m0` reads all ones (R50). -/
def Ctx.mask (x : Ctx) (m : MReg) : W64 := if m = 0 then BitVec.allOnes 64 else x.masks[m.toNat]'m.isLt

/-- The context with a mask register written; a write of `m0` is discarded (R50). -/
def Ctx.setMask (x : Ctx) (m : MReg) (v : W64) : Ctx := if m = 0 then x else { x with masks := x.masks.set m.toNat v m.isLt }

/-! ## Entering the queue (R209) -/

/-- The entries of the running context of a core. -/
def Core.vecOf (k : Core) : List XvEntry := k.vq.filter fun e => e.launch == k.run.launch

/-- The rounding mode that RM selects (R49, R105). -/
def State.mode (s : State) : Rm → BitVec 2
  | .dyn => s.ctx.frm
  | .rne => 0
  | .rtz => 1
  | .rdn => 2
  | .rup => 3

/-- Slices of an operation (R210). -/
def XvOp.slices : XvOp → Nat
  | .ext _ _ _ | .ins _ _ | .kop _ _ _ _ | .knot _ _ | .kpop _ _ => 1
  | .bin _ _ _ _ _ _ _ | .fma _ _ _ _ _ _ _ _ | .un _ _ _ _ _ _ | .fn _ _ _ _ | .cmp _ _ _ _ _ _ | .sel _ _ _ _
  | .logic _ _ _ _ _ | .cvt _ _ _ _ _ _ | .mov _ _ _ | .bcst _ _ _ | .iota _ _ _ | .perm _ _ _ _ _ | .red _ _ _ _ _
  | .scan _ _ _ _ | .load _ _ _ _ | .store _ _ _ _ | .dq _ _ _ _ _ | .qnt _ _ _ _ _ | .hist _ _ _ | .scale _ _ _ => 4

/-- Cycles from an operation's last slice to its completion (R210); of a memory instruction, none that is fixed. -/
def XvOp.depth : XvOp → Option Nat
  | .cmp _ _ _ _ _ _ | .sel _ _ _ _ | .logic _ _ _ _ _ | .mov _ _ _ | .bcst _ _ _ | .iota _ _ _ | .ext _ _ _ | .ins _ _ => some 2
  | .bin f _ _ _ _ _ _ => some (match f with | .mul => 6 | .shl | .shr | .sra => 2 | .add | .sub | .min | .max => 4)
  | .un _ _ _ _ _ _ | .cvt _ _ _ _ _ _ => some 4
  | .fma _ _ _ _ _ _ _ _ | .dq _ _ _ _ _ | .qnt _ _ _ _ _ | .hist _ _ _ => some 6
  | .perm _ _ _ _ _ | .red _ _ _ _ _ | .scan _ _ _ _ => some 8
  | .scale _ _ _ => some 10
  | .fn _ _ _ _ => some 12
  | .kop _ _ _ _ | .knot _ _ | .kpop _ _ => some 1
  | .load _ _ _ _ | .store _ _ _ _ => none

/-- A vector register's place in hazards. -/
def vHaz (v : VReg) : Nat := v.toNat

/-- A mask register's place in hazards; `m0` has none (R50). -/
def mHaz (m : MReg) : List Nat := if m = 0 then [] else [16 + m.toNat]

/-- The registers that an address form reads. -/
def XvAddr.reads : XvAddr → List Nat
  | .unit | .stride => []
  | .index vb => [vHaz vb]

/-- The vector and mask registers that an operation reads, and those that it writes (R211). -/
def XvOp.uses : XvOp → List Nat × List Nat
  | .bin _ _ _ vd va vb mk | .perm _ vd va vb mk | .logic _ vd va vb mk | .sel vd va vb mk => ([vHaz va, vHaz vb] ++ mHaz mk, [vHaz vd])
  | .fma _ _ _ vd va vb vc mk => ([vHaz va, vHaz vb, vHaz vc] ++ mHaz mk, [vHaz vd])
  | .un _ _ _ vd va mk | .fn _ vd va mk | .cvt _ _ _ vd va mk | .mov vd va mk | .red _ _ vd va mk | .scan _ vd va mk | .dq _ _ vd va mk
  | .qnt _ _ vd va mk | .hist vd va mk => ([vHaz va] ++ mHaz mk, [vHaz vd])
  | .cmp _ _ md va vb mk => ([vHaz va, vHaz vb] ++ mHaz mk, mHaz md)
  | .bcst _ vd mk | .iota _ vd mk => (mHaz mk, [vHaz vd])
  | .ext _ _ va | .scale _ _ va => ([vHaz va], [])
  | .ins _ vd => ([], [vHaz vd])
  | .load _ k vd mk => (k.reads ++ mHaz mk, [vHaz vd])
  | .store _ k vs mk => (vHaz vs :: k.reads ++ mHaz mk, [])
  | .kop _ md ma mb => (mHaz ma ++ mHaz mb, mHaz md)
  | .knot md ma => (mHaz ma, mHaz md)
  | .kpop _ ma => (mHaz ma, [])

/-- A memory instruction. -/
def XvOp.memory : XvOp → Bool
  | .load _ _ _ _ | .store _ _ _ _ => true
  | .bin _ _ _ _ _ _ _ | .fma _ _ _ _ _ _ _ _ | .un _ _ _ _ _ _ | .fn _ _ _ _ | .cmp _ _ _ _ _ _ | .sel _ _ _ _
  | .logic _ _ _ _ _ | .cvt _ _ _ _ _ _ | .mov _ _ _ | .bcst _ _ _ | .iota _ _ _ | .perm _ _ _ _ _ | .red _ _ _ _ _
  | .scan _ _ _ _ | .dq _ _ _ _ _ | .qnt _ _ _ _ _ | .hist _ _ _ | .ext _ _ _ | .ins _ _ | .scale _ _ _
  | .kop _ _ _ _ | .knot _ _ | .kpop _ _ => false

/-- The scalar destination of an operation. -/
def XvOp.rd : XvOp → SReg
  | .ext _ rd _ | .scale _ rd _ | .kpop rd _ => rd
  | .bin _ _ _ _ _ _ _ | .fma _ _ _ _ _ _ _ _ | .un _ _ _ _ _ _ | .fn _ _ _ _ | .cmp _ _ _ _ _ _ | .sel _ _ _ _
  | .logic _ _ _ _ _ | .cvt _ _ _ _ _ _ | .mov _ _ _ | .bcst _ _ _ | .iota _ _ _ | .perm _ _ _ _ _ | .red _ _ _ _ _
  | .scan _ _ _ _ | .load _ _ _ _ | .store _ _ _ _ | .dq _ _ _ _ _ | .qnt _ _ _ _ _ | .hist _ _ _ | .ins _ _
  | .kop _ _ _ _ | .knot _ _ => 0

/-- An XV instruction goes on if the queue has room; otherwise it is not ready (R209). -/
def xvRoom (s : State) (go : State → Out) : Out := if 8 ≤ s.cur.vecOf.length then wait s else go s

/-- The state with an entry at the end of the queue. -/
def State.pushXv (s : State) (rm : Rm) (op : XvOp) (a b : W64) (own : List LogRec) : State :=
  let x := s.ctx
  let e : XvEntry := ⟨s.seq, x.launch, s.thr.val, s.th.inc, op, a, b, s.mode rm, x.ftz, op.slices, s.th.fenceL, none, x.ctxid, own, 0, []⟩
  { s.setCore s.focus { s.cur with vq := s.cur.vq ++ [e] } with seq := s.seq + 1 }

/-- An XV instruction whose scalars are present enters the queue (R209). -/
def enqueueXv (len : Nat) (rm : Rm) (op : XvOp) (a b : W64) (s : State) : Out :=
  xvRoom s fun s => .next ((s.pushXv rm op a b []).setTh ((s.th.expect op.rd).past len))

/-- An XV instruction with its scalar sources: `need` must be present; `a` and `b` are taken at issue. -/
def xv (len : Nat) (need : List SReg) (rm : Rm) (op : XvOp) (a b : State → W64) (s : State) : Out :=
  ready need s fun s => enqueueXv len rm op (a s) (b s) s

/-- An XV instruction without scalar operands. -/
def xv0 (rm : Rm) (op : XvOp) (s : State) : Out := xv 12 [] rm op (fun _ => 0) (fun _ => 0) s

/-! ## The instructions (R216–R219, R223–R225) -/

/-- VADD (R216). -/
def execVadd (ty : Ty) (rm : Rm) (sat : Bool) (vd va vb : VReg) (mk : MReg) (s : State) : Out :=
  xv0 rm (.bin .add ty sat vd va vb mk) s

/-- VSUB (R216). -/
def execVsub (ty : Ty) (rm : Rm) (sat : Bool) (vd va vb : VReg) (mk : MReg) (s : State) : Out :=
  xv0 rm (.bin .sub ty sat vd va vb mk) s

/-- VMUL (R216). -/
def execVmul (ty : Ty) (rm : Rm) (sat : Bool) (vd va vb : VReg) (mk : MReg) (s : State) : Out :=
  xv0 rm (.bin .mul ty sat vd va vb mk) s

/-- VFMA (R216). -/
def execVfma (ty : Ty) (rm : Rm) (sat : Bool) (vd va vb vc : VReg) (mk : MReg) (s : State) : Out :=
  xv0 rm (.fma false ty sat vd va vb vc mk) s

/-- VFMS (R216). -/
def execVfms (ty : Ty) (rm : Rm) (sat : Bool) (vd va vb vc : VReg) (mk : MReg) (s : State) : Out :=
  xv0 rm (.fma true ty sat vd va vb vc mk) s

/-- VMIN (R216). -/
def execVmin (ty : Ty) (vd va vb : VReg) (mk : MReg) (s : State) : Out := xv0 .dyn (.bin .min ty false vd va vb mk) s

/-- VMAX (R216). -/
def execVmax (ty : Ty) (vd va vb : VReg) (mk : MReg) (s : State) : Out := xv0 .dyn (.bin .max ty false vd va vb mk) s

/-- VABS (R216). -/
def execVabs (ty : Ty) (sat : Bool) (vd va : VReg) (mk : MReg) (s : State) : Out := xv0 .dyn (.un true ty sat vd va mk) s

/-- VNEG (R216). -/
def execVneg (ty : Ty) (sat : Bool) (vd va : VReg) (mk : MReg) (s : State) : Out := xv0 .dyn (.un false ty sat vd va mk) s

/-- VRCP (R216). -/
def execVrcp (rm : Rm) (vd va : VReg) (mk : MReg) (s : State) : Out := xv0 rm (.fn .rcp vd va mk) s

/-- VRSQ (R216). -/
def execVrsq (rm : Rm) (vd va : VReg) (mk : MReg) (s : State) : Out := xv0 rm (.fn .rsq vd va mk) s

/-- VSQRT (R216). -/
def execVsqrt (rm : Rm) (vd va : VReg) (mk : MReg) (s : State) : Out := xv0 rm (.fn .sqrt vd va mk) s

/-- VEXP2 (R216). -/
def execVexp2 (rm : Rm) (vd va : VReg) (mk : MReg) (s : State) : Out := xv0 rm (.fn .exp2 vd va mk) s

/-- VLOG2 (R216). -/
def execVlog2 (rm : Rm) (vd va : VReg) (mk : MReg) (s : State) : Out := xv0 rm (.fn .log2 vd va mk) s

/-- VCMPEQ (R217). -/
def execVcmpeq (ty : Ty) (md : MReg) (va vb : VReg) (mk : MReg) (s : State) : Out := xv0 .dyn (.cmp .eq ty md va vb mk) s

/-- VCMPLT (R217). -/
def execVcmplt (ty : Ty) (md : MReg) (va vb : VReg) (mk : MReg) (s : State) : Out := xv0 .dyn (.cmp .lt ty md va vb mk) s

/-- VCMPLE (R217). -/
def execVcmple (ty : Ty) (md : MReg) (va vb : VReg) (mk : MReg) (s : State) : Out := xv0 .dyn (.cmp .le ty md va vb mk) s

/-- VSEL (R217). -/
def execVsel (vd va vb : VReg) (mk : MReg) (s : State) : Out := xv0 .dyn (.sel vd va vb mk) s

/-- VAND (R217). -/
def execVand (vd va vb : VReg) (mk : MReg) (s : State) : Out := xv0 .dyn (.logic .and vd va vb mk) s

/-- VOR (R217). -/
def execVor (vd va vb : VReg) (mk : MReg) (s : State) : Out := xv0 .dyn (.logic .or vd va vb mk) s

/-- VXOR (R217). -/
def execVxor (vd va vb : VReg) (mk : MReg) (s : State) : Out := xv0 .dyn (.logic .xor vd va vb mk) s

/-- VSHL (R217). -/
def execVshl (ty : Ty) (vd va vb : VReg) (mk : MReg) (s : State) : Out := xv0 .dyn (.bin .shl ty false vd va vb mk) s

/-- VSHR (R217). -/
def execVshr (ty : Ty) (vd va vb : VReg) (mk : MReg) (s : State) : Out := xv0 .dyn (.bin .shr ty false vd va vb mk) s

/-- VSRA (R217). -/
def execVsra (ty : Ty) (vd va vb : VReg) (mk : MReg) (s : State) : Out := xv0 .dyn (.bin .sra ty false vd va vb mk) s

/-- VCVT (R217). -/
def execVcvt (dst src : Ty) (rm : Rm) (p : BitVec 2) (vd va : VReg) (mk : MReg) (s : State) : Out :=
  xv0 rm (.cvt dst src p.toNat vd va mk) s

/-- VMOV (R217). -/
def execVmov (vd va : VReg) (mk : MReg) (s : State) : Out := xv0 .dyn (.mov vd va mk) s

/-- VBCST (R218): RA plus IMM32. -/
def execVbcst (ty : Ty) (vd : VReg) (ra : SReg) (imm : BitVec 32) (mk : MReg) (s : State) : Out :=
  xv 12 [ra] .dyn (.bcst ty vd mk) (fun s => s.reg ra + sx imm) (fun _ => 0) s

/-- VBCST with a literal (R218, R45). -/
def execVbcstLit (ty : Ty) (vd : VReg) (ra : SReg) (lit : W64) (mk : MReg) (s : State) : Out :=
  xv 20 [ra] .dyn (.bcst ty vd mk) (fun s => s.reg ra + lit) (fun _ => 0) s

/-- VEXT (R218). -/
def execVext (ty : Ty) (rd : SReg) (va : VReg) (rb : SReg) (s : State) : Out :=
  xv 12 [rb, rd] .dyn (.ext ty rd va) (fun _ => 0) (fun s => s.reg rb) s

/-- VINS (R218). -/
def execVins (ty : Ty) (vd : VReg) (ra rb : SReg) (s : State) : Out :=
  xv 12 [ra, rb] .dyn (.ins ty vd) (fun s => s.reg ra) (fun s => s.reg rb) s

/-- VIOTA (R218). -/
def execViota (ty : Ty) (vd : VReg) (mk : MReg) (s : State) : Out := xv0 .dyn (.iota ty vd mk) s

/-- VPERM (R218). -/
def execVperm (ty : Ty) (vd va vb : VReg) (mk : MReg) (s : State) : Out := xv0 .dyn (.perm ty vd va vb mk) s

/-- VREDADD (R219). -/
def execVredadd (ty : Ty) (rm : Rm) (vd va : VReg) (mk : MReg) (s : State) : Out := xv0 rm (.red .add ty vd va mk) s

/-- VREDMAX (R219). -/
def execVredmax (ty : Ty) (vd va : VReg) (mk : MReg) (s : State) : Out := xv0 .dyn (.red .max ty vd va mk) s

/-- VREDMIN (R219). -/
def execVredmin (ty : Ty) (vd va : VReg) (mk : MReg) (s : State) : Out := xv0 .dyn (.red .min ty vd va mk) s

/-- VSCAN (R219). -/
def execVscan (ty : Ty) (rm : Rm) (vd va : VReg) (mk : MReg) (s : State) : Out := xv0 rm (.scan ty vd va mk) s

/-- VDQ (R223). -/
def execVdq (ty : Ty) (p : BitVec 3) (vd va : VReg) (rb : SReg) (mk : MReg) (s : State) : Out :=
  xv 12 [rb] .dyn (.dq ty p.toNat vd va mk) (fun _ => 0) (fun s => s.reg rb) s

/-- VQNT (R223). -/
def execVqnt (ty : Ty) (rm : Rm) (p : BitVec 3) (vd va : VReg) (rb : SReg) (mk : MReg) (s : State) : Out :=
  xv 12 [rb] rm (.qnt ty p.toNat vd va mk) (fun _ => 0) (fun s => s.reg rb) s

/-- VHIST (R224). -/
def execVhist (vd va : VReg) (mk : MReg) (s : State) : Out := xv0 .dyn (.hist vd va mk) s

/-- VSCALE (R224). -/
def execVscale (ty : Ty) (rd : SReg) (va : VReg) (rb : SReg) (s : State) : Out :=
  xv 12 [rb, rd] .dyn (.scale ty rd va) (fun _ => 0) (fun s => s.reg rb) s

/-- KAND (R225). -/
def execKand (md ma mb : MReg) (s : State) : Out := xv0 .dyn (.kop false md ma mb) s

/-- KOR (R225). -/
def execKor (md ma mb : MReg) (s : State) : Out := xv0 .dyn (.kop true md ma mb) s

/-- KNOT (R225). -/
def execKnot (md ma : MReg) (s : State) : Out := xv0 .dyn (.knot md ma) s

/-- KPOP (R225). -/
def execKpop (rd : SReg) (ma : MReg) (s : State) : Out := xv 12 [rd] .dyn (.kpop rd ma) (fun _ => 0) (fun _ => 0) s

/-! ## Memory (R220–R222) -/

/-- The first word of an XV instruction, zero-extended; `lit` marks the literal form (R214). -/
def xvWord (xop : BitVec 9) (rb ra rd : BitVec 5) (lit : Bool) : W64 :=
  (W0.pack ⟨xop, rb, ra, rd, 0x3E, if lit then 3 else 2⟩).setWidth 64

/-- The phase check at issue of a vector memory instruction (R220); one that stalls has passed it. -/
def vecPhase (w0 : W64) (sh : Bool) (ea : W64) (s : State) (go : State → Out) : Out :=
  if s.ctx.phase = .compute ∧ (sh ∨ leavesCluster s.focus ea) ∧ s.th.stall = none then trap 6 w0 s else go s

/-- A vector load (R220): its address and stride are taken at issue, and of a shared one the records that may forward to it (R221). -/
def vecLoad (w0 : W64) (len : Nat) (need : List SReg) (sh : Bool) (k : XvAddr) (vd : VReg) (ra : SReg) (off : W64)
    (stride : State → W64) (mk : MReg) (s : State) : Out :=
  ready need s fun s => xvRoom s fun s =>
    let ea := s.reg ra + off
    vecPhase w0 sh ea s fun s =>
      let own := if sh then s.cur.log.filter fun r => r.launch == s.ctx.launch && r.kind == 0 else []
      .next ((s.pushXv .dyn (.load sh k vd mk) ea (stride s) own).setTh (s.th.past len))

/-- The address of lane `j` (R220). -/
def laneAddr (x : Ctx) (k : XvAddr) (ea stride : W64) (j : Nat) : W64 :=
  match k with
  | .unit => ea + BitVec.ofNat 64 (4 * j)
  | .stride => ea + BitVec.ofNat 64 j * stride
  | .index vb => ea + sx (elem 32 (x.vreg vb) j)

/-- The active lanes of a mask in lane order. -/
def activeLanes (mask : W64) : List Nat := (List.range 64).filter fun j => mask.getLsbD j

/-- One lane of a shared vector store: an SSTW of its address (R221). -/
def State.appendLane (s : State) (ea : W64) (v : W32) : State :=
  if badShared ea 4 then s.refuseRecord ea else s.appendWrite ea 4 (v.setWidth 64)

/-- The addresses and values of a vector store's active lanes, in lane order (R220). -/
def Ctx.storeLanes (x : Ctx) (k : XvAddr) (vs : VReg) (ea stride : W64) (mk : MReg) : List (W64 × W32) :=
  (activeLanes (x.mask mk)).map fun j => (laneAddr x k ea stride j, elem 32 (x.vreg vs) j)

/-- A shared vector store (R221): waits for every earlier XV instruction, then for one record's room a lane, and appends. Its slices run
from the queue, and it completes there once the records that it has appended or merged into, from `a` to `b`, are accepted (R210). -/
def vecStoreShared (len : Nat) (k : XvAddr) (vs : VReg) (ea stride : W64) (mk : MReg) (s : State) : Out :=
  let go (ea : W64) (lanes : List (W64 × W32)) (s : State) : Out :=
    logWait len lanes ea s fun s =>
      let first := match lanes with
        | (a, _) :: _ => (s.mergeSeq (a.extractLsb' 4 44)).getD s.seq
        | [] => s.seq
      let s := lanes.foldl (fun s (a, v) => s.appendLane a v) s
      .next ((s.pushXv .dyn (.store true k vs mk) (BitVec.ofNat 64 first) (BitVec.ofNat 64 s.seq) []).past len)
  match s.th.stall with
  | some ⟨_, _, .log _ ea lanes⟩ => go ea lanes s
  | _ => xvWait s fun s => go ea (s.ctx.storeLanes k vs ea stride mk) s

/-- A vector store (R220): a local one enters the queue, a shared one appends at issue (R221). -/
def vecStore (w0 : W64) (len : Nat) (need : List SReg) (sh : Bool) (k : XvAddr) (vs : VReg) (ra : SReg) (off : W64)
    (stride : State → W64) (mk : MReg) (s : State) : Out :=
  ready need s fun s => xvRoom s fun s =>
    let ea := s.reg ra + off
    vecPhase w0 sh ea s fun s =>
      if sh then vecStoreShared len k vs ea (stride s) mk s
      else .next ((s.pushXv .dyn (.store false k vs mk) ea (stride s) []).setTh (s.th.past len))

/-- A vector or mask register number as a register field. -/
def vfield (v : VReg) : BitVec 5 := v.setWidth 5

/-- VLD (R220). -/
def execVld (sh : Bool) (vd : VReg) (ra : SReg) (imm : BitVec 32) (mk : MReg) (s : State) : Out :=
  vecLoad (xvWord 35 0 ra (vfield vd) false) 12 [ra] sh .unit vd ra (sx imm) (fun _ => 0) mk s

/-- VLD with a literal (R220, R45). -/
def execVldLit (sh : Bool) (vd : VReg) (ra : SReg) (lit : W64) (mk : MReg) (s : State) : Out :=
  vecLoad (xvWord 35 0 ra (vfield vd) true) 20 [ra] sh .unit vd ra lit (fun _ => 0) mk s

/-- VST (R220). -/
def execVst (sh : Bool) (vs : VReg) (ra : SReg) (imm : BitVec 32) (mk : MReg) (s : State) : Out :=
  vecStore (xvWord 36 0 ra (vfield vs) false) 12 [ra] sh .unit vs ra (sx imm) (fun _ => 0) mk s

/-- VST with a literal (R220, R45). -/
def execVstLit (sh : Bool) (vs : VReg) (ra : SReg) (lit : W64) (mk : MReg) (s : State) : Out :=
  vecStore (xvWord 36 0 ra (vfield vs) true) 20 [ra] sh .unit vs ra lit (fun _ => 0) mk s

/-- VLDS (R220). -/
def execVlds (sh : Bool) (vd : VReg) (ra rb : SReg) (imm : BitVec 32) (mk : MReg) (s : State) : Out :=
  vecLoad (xvWord 37 rb ra (vfield vd) false) 12 [ra, rb] sh .stride vd ra (sx imm) (fun s => s.reg rb) mk s

/-- VLDS with a literal (R220, R45). -/
def execVldsLit (sh : Bool) (vd : VReg) (ra rb : SReg) (lit : W64) (mk : MReg) (s : State) : Out :=
  vecLoad (xvWord 37 rb ra (vfield vd) true) 20 [ra, rb] sh .stride vd ra lit (fun s => s.reg rb) mk s

/-- VSTS (R220). -/
def execVsts (sh : Bool) (vs : VReg) (ra rb : SReg) (imm : BitVec 32) (mk : MReg) (s : State) : Out :=
  vecStore (xvWord 38 rb ra (vfield vs) false) 12 [ra, rb] sh .stride vs ra (sx imm) (fun s => s.reg rb) mk s

/-- VSTS with a literal (R220, R45). -/
def execVstsLit (sh : Bool) (vs : VReg) (ra rb : SReg) (lit : W64) (mk : MReg) (s : State) : Out :=
  vecStore (xvWord 38 rb ra (vfield vs) true) 20 [ra, rb] sh .stride vs ra lit (fun s => s.reg rb) mk s

/-- VGTH (R220). -/
def execVgth (sh : Bool) (vd : VReg) (ra : SReg) (vb : VReg) (imm : BitVec 32) (mk : MReg) (s : State) : Out :=
  vecLoad (xvWord 39 (vfield vb) ra (vfield vd) false) 12 [ra] sh (.index vb) vd ra (sx imm) (fun _ => 0) mk s

/-- VGTH with a literal (R220, R45). -/
def execVgthLit (sh : Bool) (vd : VReg) (ra : SReg) (vb : VReg) (lit : W64) (mk : MReg) (s : State) : Out :=
  vecLoad (xvWord 39 (vfield vb) ra (vfield vd) true) 20 [ra] sh (.index vb) vd ra lit (fun _ => 0) mk s

/-- VSCT (R220). -/
def execVsct (sh : Bool) (vs : VReg) (ra : SReg) (vb : VReg) (imm : BitVec 32) (mk : MReg) (s : State) : Out :=
  vecStore (xvWord 40 (vfield vb) ra (vfield vs) false) 12 [ra] sh (.index vb) vs ra (sx imm) (fun _ => 0) mk s

/-- VSCT with a literal (R220, R45). -/
def execVsctLit (sh : Bool) (vs : VReg) (ra : SReg) (vb : VReg) (lit : W64) (mk : MReg) (s : State) : Out :=
  vecStore (xvWord 40 (vfield vb) ra (vfield vs) true) 20 [ra] sh (.index vb) vs ra lit (fun _ => 0) mk s

/-! ## Dealing lane groups (R212) -/

/-- The four cores of a core's vector unit, `k` from 0 to 3. -/
def unitCores (c : Nat) : List Nat := (List.range 4).map fun k => coreAt (dieOf c) (rowOf c) (colOf c / 4 * 4 + k)

/-- The key of core `k`'s credit at its unit: 4·unit + k. -/
def vecKey (c : Nat) : Nat := rowOf c % 2 * 4 + colOf c % 4

/-- Registers meet. -/
def meets (l m : List Nat) : Bool := l.any m.contains

/-- An entry may run its slices beside the earlier ones of its queue, none of which has completed (R211). -/
def XvEntry.free (e : XvEntry) (earlier : List XvEntry) : Bool :=
  earlier.all fun f => decide (f.left < f.op.slices) && !(e.op.memory && f.op.memory) &&
    !meets f.op.uses.2 (e.op.uses.1 ++ e.op.uses.2) && !meets f.op.uses.1 e.op.uses.2

/-- The sequence number of the entry that a core's next slice is of, if it is runnable (R211): the oldest with slices left. A switch that
is due binds no entry any more (R75). -/
def State.nextSlice (s : State) (c : Nat) : Option Nat :=
  let l := (s.core c).vecOf
  let done := l.takeWhile fun e => e.left == 0
  match l[done.length]? with
  | some e => if e.free done && (!s.switchDue c || decide (e.left < e.op.slices)) then some e.seq else none
  | none => none

/-- An entry runs a slice; its first reads the vector and mask registers (R210). -/
def XvEntry.slice (e : XvEntry) (x : Ctx) : XvEntry :=
  { e with left := e.left - 1, src := if e.left = e.op.slices then some (x.vregs, x.masks) else e.src }

/-- A core runs its next slice. -/
def Core.runSlice (k : Core) (seq : Nat) : Core := { k with vq := k.vq.map fun e => if e.seq = seq then e.slice k.run else e }

/-- One lane group dealt at the unit of core `c` (R212). -/
def State.dealGroup (s : State) (c : Nat) : State :=
  let cs := unitCores c
  let runnable := cs.filter fun d => (s.nextSlice d).isSome
  let kl := clusterOf c
  let unit := rowOf c % 2
  let w (d : Nat) : Nat := (s.core d).run.vshare.toNat
  let x := s.cluster kl
  let cr := if runnable.all fun d => w d == 0 || x.vcr.get (vecKey d) 0 == 0
    then cs.foldl (fun m d => PMap.put m (vecKey d) (w d)) x.vcr else x.vcr
  let ptr := x.vptr.get unit 0
  let order := (List.range 4).map fun i => (ptr + 1 + i) % 4
  let pick := order.foldl (fun best k =>
    let d := coreAt (dieOf c) (rowOf c) (colOf c / 4 * 4 + k)
    if runnable.contains d then
      match best with
      | none => some d
      | some b => if PMap.get cr (vecKey b) 0 < PMap.get cr (vecKey d) 0 then some d else some b
    else best) (none : Option Nat)
  match pick with
  | none => s
  | some d =>
    let s := s.setCluster kl { x with
      vcr := PMap.put cr (vecKey d) (PMap.get cr (vecKey d) 0 - 1), vptr := PMap.put x.vptr unit (colOf d % 4) }
    match s.nextSlice d with
    | some q => s.setCore d ((s.core d).runSlice q)
    | none => s

/-- Lane groups dealt until the oldest entry of a core has run its slices. -/
def State.dealUntil (s : State) (c : Nat) : Nat → State
  | 0 => s
  | n + 1 =>
    match (s.core c).vecOf with
    | e :: _ => if e.left = 0 then s else (s.dealGroup c).dealUntil c n
    | [] => s

/-- `n` more lane groups dealt. -/
def State.dealMore (s : State) (c : Nat) : Nat → State
  | 0 => s
  | n + 1 => (s.dealGroup c).dealMore c n

/-! ## What an entry does -/

/-- Register effects of an operation that reads its sources in `x`, as its first slice found them, and writes into `o`, where an element that
it does not write keeps its value (R210, R215): new context, flags and scalar result. -/
def XvOp.run (op : XvOp) (e : XvEntry) (x o : Ctx) : Ctx × FFlags × W64 :=
  let put (vd : VReg) (r : VImage × FFlags) : Ctx × FFlags × W64 := (o.setVreg vd r.1, r.2, 0)
  match op with
  | .bin f ty sat vd va vb mk =>
    let w := tyWidth ty
    put vd (mapActive w (x.mask mk) (o.vreg vd) fun i =>
      binElem f ty sat e.rm e.ftz (elem w (x.vreg va) i) (elem w (x.vreg vb) i))
  | .fma neg ty sat vd va vb vc mk =>
    let w := tyWidth ty
    put vd (mapActive w (x.mask mk) (o.vreg vd) fun i =>
      fmaElem neg ty sat e.rm e.ftz (elem w (x.vreg va) i) (elem w (x.vreg vb) i) (elem w (x.vreg vc) i))
  | .un abs ty sat vd va mk =>
    let w := tyWidth ty
    put vd (mapActive w (x.mask mk) (o.vreg vd) fun i => (unElem abs ty sat e.ftz (elem w (x.vreg va) i), .none))
  | .fn f vd va mk => put vd (mapActive 32 (x.mask mk) (o.vreg vd) fun i => fnElem f e.rm e.ftz (elem 32 (x.vreg va) i))
  | .cmp f ty md va vb mk =>
    let r (j : Nat) := cmpLane f ty e.ftz (elem 32 (x.vreg va) j) (elem 32 (x.vreg vb) j)
    let m := x.mask mk
    (o.setMask md (maskOf fun j => m.getLsbD j && (r j).1),
      FFlags.invalid ((List.range 64).any fun j => m.getLsbD j && (r j).2), 0)
  | .sel vd va vb mk =>
    put vd (packElems 32 ((List.range 64).map fun j => elem 32 (x.vreg (if (x.mask mk).getLsbD j then va else vb)) j), .none)
  | .logic f vd va vb mk =>
    let a := x.vreg va
    let b := x.vreg vb
    let v := match f with | .and => a &&& b | .or => a ||| b | .xor => a ^^^ b
    put vd (mapActive 32 (x.mask mk) (o.vreg vd) fun i => (elem 32 v i, .none))
  | .cvt dst src p vd va mk => put vd (cvtReg dst src p e.rm e.ftz (x.mask mk) (o.vreg vd) (x.vreg va))
  | .mov vd va mk => put vd (mapActive 32 (x.mask mk) (o.vreg vd) fun i => (elem 32 (x.vreg va) i, .none))
  | .bcst ty vd mk => put vd (mapActive (tyWidth ty) (x.mask mk) (o.vreg vd) fun _ => (e.a.setWidth 32, .none))
  | .ext ty _ va =>
    let v := elem (tyWidth ty) (x.vreg va) (e.b.toNat % tyCount ty)
    (o, .none, if tySigned ty then BitVec.ofInt 64 (intOf ty v) else v.setWidth 64)
  | .ins ty vd => put vd (setElem (tyWidth ty) (o.vreg vd) (e.b.toNat % tyCount ty) (e.a.setWidth 32), .none)
  | .iota _ vd mk =>
    let m := x.mask mk
    put vd (packElems 32 ((List.range 64).map fun j =>
      BitVec.ofNat 32 ((List.range j).filter fun i => m.getLsbD i).length), .none)
  | .perm ty vd va vb mk =>
    let w := tyWidth ty
    put vd (mapActive w (x.mask mk) (o.vreg vd) fun i =>
      (elem w (x.vreg va) ((elem w (x.vreg vb) i).toNat % tyCount ty), .none))
  | .red f ty vd va mk => put vd (redReg f ty e.rm e.ftz (x.mask mk) (x.vreg va))
  | .scan ty vd va mk => put vd (scanReg ty e.rm e.ftz (x.mask mk) (x.vreg va))
  | .load _ _ _ _ | .store _ _ _ _ => (o, .none, 0)
  | .dq ty p vd va mk => put vd (dqReg ty p e.ftz (x.mask mk) (o.vreg vd) (x.vreg va) e.b)
  | .qnt ty p vd va mk => put vd (qntReg ty p e.rm e.ftz (x.mask mk) (o.vreg vd) (x.vreg va) e.b)
  | .hist vd va mk => put vd (histReg (x.mask mk) (x.vreg vd) (x.vreg va), .none)
  | .scale ty _ va => (o, .none, scaleReg ty (x.vreg va) e.b)
  | .kop or md ma mb => (o.setMask md (if or then x.mask ma ||| x.mask mb else x.mask ma &&& x.mask mb), .none, 0)
  | .knot md ma => (o.setMask md (~~~x.mask ma), .none, 0)
  | .kpop _ ma => (o, .none, BitVec.ofNat 64 ((List.range 64).filter fun j => (x.mask ma).getLsbD j).length)

/-! ## Lanes (R220–R222) -/

/-- A lane's local access: it may go on, it fails, or its core has no context of the launch now. Phase and mode are those of the context when
the lane is performed (DESIGN CHOICE, log 95: R220 does not say whether they are those of the issue). -/
def laneStop (s : State) (ea : W64) : Option LocalStop := localCheck .hexit false false ea 4 s

/-- A register with the lanes that a list gives. -/
def putLanes (old : VImage) (lanes : List (Nat × W32)) : VImage := lanes.foldl (fun v (j, x) => setElem 32 v j x) old

/-- A context with the vector and mask registers that an entry's first slice has read. -/
def XvEntry.view (e : XvEntry) (x : Ctx) : Ctx :=
  match e.src with
  | some (v, m) => { x with vregs := v, masks := m }
  | none => x

/-- The lanes that an entry accesses, with their addresses (R220): the records of a shared store have been appended at its issue (R221). -/
def XvEntry.lanes (e : XvEntry) (x : Ctx) : List (Nat × W64) :=
  let y := e.view x
  match e.op with
  | .load _ k _ m | .store false k _ m => (activeLanes (y.mask m)).map fun j => (j, laneAddr y k e.a e.b j)
  | _ => []

/-- The lanes that an entry has still to perform. -/
def XvEntry.lanesLeft (e : XvEntry) (x : Ctx) : List (Nat × W64) := (e.lanes x).drop e.next

/-- The entry of a sequence number in the queue of a core. -/
def Core.xvEntry (k : Core) (seq : Nat) : Option XvEntry := k.vq.find? fun e => e.seq == seq

/-- The entry of a sequence number leaves the queue of a core. -/
def State.dropXv (s : State) (c seq : Nat) : State :=
  s.setCore c { s.core c with vq := (s.core c).vq.filter fun e => e.seq != seq }

/-- An entry has performed its next lane, which has read something or not. -/
def State.laneDone (s : State) (c seq : Nat) (got : Option (Nat × W32)) : State :=
  s.setCore c { s.core c with
    vq := (s.core c).vq.map fun e => if e.seq = seq then { e with next := e.next + 1, got := e.got ++ got.toList } else e }

/-- What a lane of a load reads that fails (R220, R221). -/
def lanePoison : W32 := 0xDEADDEAD

/-- A lane of a local vector load, with the core in focus (R220): `none` while it waits for a context on its core or behind what its core has
sent there. A lane that fails, or that no route reaches (R313), reads poison and sets ACCERR. -/
def State.loadLane (s : State) (c : Nat) (e : XvEntry) (j : Nat) (ea : W64) : Option State :=
  let fail : State := s.setAccerr.laneDone c e.seq (some (j, lanePoison))
  match laneStop s ea with
  | some .remote => none
  | some (.trap _ _) => some fail
  | none =>
    if s.cutOff (dieOf c) (opmDie ea) then some fail
    else if s.behind ea then none
    else some (s.laneDone c e.seq (some (j, (s.readLocal ea 4).setWidth 32)))

/-- A lane of a local vector store, with the core in focus (R220): a failing one is skipped and sets ACCERR. -/
def State.storeLane (s : State) (c : Nat) (e : XvEntry) (v : W32) (ea : W64) : Option State :=
  match laneStop s ea with
  | some .remote => none
  | some (.trap _ _) => some (s.setAccerr.laneDone c e.seq none)
  | none => if s.behind ea then none else some ((s.writeLocal ea 4 (v.setWidth 64)).laneDone c e.seq none)

/-- A lane of a shared vector load of a core's context (R221): read as an SLDW, or waiting, with what that leaves. A
poisoned line resets the core's rectangle (R329). -/
def State.sharedLane (s : State) (c : Nat) (e : XvEntry) (j : Nat) (ea : W64) : Option State × State :=
  let k := clusterOf c
  let fail (s : State) : Option State × State := (some ((s.accerrOf c e.launch).laneDone c e.seq (some (j, lanePoison))), s)
  if s.loadsBefore c e.launch e.thr e.inc e.after then (none, s)
  else if badShared ea 4 then fail s
  else
    match s.translate k (.core c) e.seq e.ctxid e.launch .load ea with
    | (.waiting, s) => (none, s)
    | (.denied, s) => fail (s.forget k (.core c) e.seq .load)
    | (.hit t, s) =>
      if s.linkDown (dieOf c) (t.key ea.toNat) then fail s
      else
        let asid := s.asidOf e.ctxid
        let fwd := s.stillForward c .sldw ((List.range 4).map fun j => covering e.own e.launch (ea.toNat + j))
        if s.viewMisses k asid t ea.toNat 4 fwd && s.homeHeld (dieOf c) (t.key ea.toNat) then (none, s)
        else
          match s.viewLoad k asid t ea.toNat 4 fwd with
          | (.bytes bs, s) => (some (s.laneDone c e.seq (some (j, BitVec.ofNat 32 (leNat bs)))), s)
          | (.consumed key, s) => (some (s.consumeLine c key), s)

/-- The next lane of an entry of a core's context `x`, with the core in focus: `none` while it waits, with what that left behind. -/
def State.nextLane (s : State) (c : Nat) (x : Ctx) (e : XvEntry) (j : Nat) (ea : W64) : Option State × State :=
  match e.op with
  | .load true _ _ _ => s.sharedLane c e j ea
  | .store _ _ vs _ => (s.storeLane c e (elem 32 ((e.view x).vreg vs) j) ea, s)
  | _ => (s.loadLane c e j ea, s)

/-- At most `n` more lanes of an entry performed, one after another in lane order (R222), with its core in focus; each at a tick of its own if
time passes between them (R13, R151). -/
def State.moreLanes (c seq : Nat) : Nat → State → State
  | 0, s => s
  | n + 1, s =>
    match (s.core c).xvEntry seq with
    | none => s
    | some e =>
      match s.image c e.launch with
      | none => s
      | some x =>
        match e.lanesLeft x with
        | [] => s
        | (j, ea) :: _ =>
          match s.nextLane c x e j ea with
          | (some t, _) => t.moreLanes c seq n
          | (none, t) => t

/-! ## Completion (R210) -/

/-- The lanes of a memory entry are done: a load writes what they have read, and the entry leaves the queue. -/
def State.lanesOver (s : State) (c : Nat) (e : XvEntry) : State :=
  match e.op with
  | .load _ _ vd _ => (s.updImage c e.launch fun y => y.setVreg vd (putLanes (y.vreg vd) e.got)).dropXv c e.seq
  | _ => s.dropXv c e.seq

/-- An entry of core `c` performed for its context `x`, with the core in focus: `none` while it waits, with what that left behind. A shared
store waits for the acceptance of its records. -/
def performXv (c : Nat) (x : Ctx) (e : XvEntry) (s : State) : Option State × State :=
  match e.op with
  | .store true _ _ _ =>
    if (s.core c).log.any fun r => r.launch == e.launch && decide (e.a.toNat ≤ r.seq) && decide (r.seq < e.b.toNat) && r.homed.isNone then
      (none, s)
    else (some (s.dropXv c e.seq), s)
  | .load _ _ _ _ | .store false _ _ _ =>
    let s := s.moreLanes c e.seq 64
    match (s.core c).xvEntry e.seq with
    | none => (some s, s)
    | some f => if (f.lanesLeft x).isEmpty then (some (s.lanesOver c f), s) else (none, s)
  | op =>
    let (z, f, v) := op.run e (e.view x) x
    let s' := (s.setCtx (z.raise f)).dropXv c e.seq
    (some (if op.rd = 0 then s' else s'.deliverTo c x.launch e.thr e.inc op.rd v), s)

/-- A shared vector load or store, which a switch leaves to go on (R75). -/
def XvOp.outside : XvOp → Bool
  | .load sh _ _ _ | .store sh _ _ _ => sh
  | .bin _ _ _ _ _ _ _ | .fma _ _ _ _ _ _ _ _ | .un _ _ _ _ _ _ | .fn _ _ _ _ | .cmp _ _ _ _ _ _ | .sel _ _ _ _
  | .logic _ _ _ _ _ | .cvt _ _ _ _ _ _ | .mov _ _ _ | .bcst _ _ _ | .iota _ _ _ | .perm _ _ _ _ _ | .red _ _ _ _ _
  | .scan _ _ _ _ | .dq _ _ _ _ _ | .qnt _ _ _ _ _ | .hist _ _ _ | .ext _ _ _ | .ins _ _ | .scale _ _ _
  | .kop _ _ _ _ | .knot _ _ | .kpop _ _ => false

/-- Whether an entry completes before a later one with its slices run: a memory instruction before a memory instruction (R211), and one
that is no deeper before another that is none (R210). -/
def XvEntry.precedes (f e : XvEntry) : Bool :=
  match f.op.depth, e.op.depth with
  | none, none => true
  | some p, some q => decide (p ≤ q)
  | none, some _ | some _, none => false

/-- The entries of a core that may complete next: those that have run their slices, of the running context, and shared loads and stores of
contexts that are switched out (R75). -/
def Core.completing (k : Core) : List XvEntry :=
  let l := k.vq.filter fun e => e.left == 0 && (e.launch == k.run.launch || e.op.outside)
  l.zipIdx.filterMap fun (e, n) => if (l.take n).any fun f => f.launch == e.launch && f.precedes e then none else some e

/-- As time passes, vector units deal lane groups (R212), and memory instructions perform lanes, a free number each (log 16). -/
def State.vecMoves (s : State) : State :=
  s.cores.foldl (fun s (c, _) =>
    if (s.core c).vq.isEmpty then s
    else
      let s := s.dealMore c (s.freeNat (2 ^ 46 + 2 * c) % 16)
      let n := s.freeNat (2 ^ 46 + 2 * c + 1) % 65
      let t := ((s.core c).completing.filter fun e => e.op.memory).foldl (fun t e => t.moreLanes c e.seq n) { s with focus := c }
      { t with focus := s.focus }) s

/-- XV_COMPLETE (R210): lane groups are dealt by R212 until the oldest entry of the running context of a core has run its slices, and a few
more; of the entries that may then complete one does, a free choice (log 16), and writes its results. -/
def execXvComplete (core : Nat) (s : State) : Out :=
  let s := (s.dealUntil core 400).dealMore core (s.freeNat 1 % 16)
  let l := (s.core core).completing
  match l[s.freeNat 2 % l.length]? with
  | none => .next s
  | some e =>
    match (if e.launch = (s.core core).run.launch then some (s.core core).run else s.image core e.launch) with
    | none => .next (s.dropXv core e.seq)
    | some x =>
      let back (t : State) : State := { t with focus := s.focus }
      match performXv core x e { s with focus := core } with
      | (some t, _) => .next (back t)
      | (none, t) => .next (back t)

end Sys2Proof.Machine
end

