-- ==== Sys2Proof/Machine/MatrixOps.lean ====
section
/-!
DEFINITION. What the matrix unit computes: operands (R234), weights (R228, R229, R238), the order of sums (R206, R207), the
products (R239, R240, R244), tile loads and the requantisation parameters (R241, R242).
-/

namespace Sys2Proof.Machine

open Sys2Proof

/-! ## Operands in scratchpad (R234) -/

/-- Bytes from one row to the next. -/
def opPitch (p0 : W64) : Nat := (p0.extractLsb' 24 16).toNat

/-- Offset of row 0. -/
def opBase (p0 : W64) : Nat := (p0.extractLsb' 0 23).toNat

/-- The bank-rotation code. -/
def opRot (p1 : W64) : Nat := (p1.extractLsb' 24 3).toNat

/-- Bytes from one weight slice to the next. -/
def opTp (p1 : W64) : Nat := (p1.extractLsb' 0 24).toNat

/-- The parts of R234 that do not depend on the row length. -/
def pairBits (p0 p1 : W64) : Bool :=
  p0.extractLsb' 40 24 == 0 && !p0.getLsbD 23 && p1.extractLsb' 27 37 == 0 && opPitch p0 % 16 == 0 && opBase p0 % 16 == 0

/-- An operand of `rows` rows of `rb` bytes in each of `slices` slices, with `extra` bytes after its last row. -/
def pairOk (p0 p1 : W64) (rows rb slices extra : Nat) : Bool :=
  let last := opBase p0 + (slices - 1) * opTp p1
  pairBits p0 p1 && decide (rb ≤ opPitch p0) && (opRot p1 == 0 || rb == 256 || rb == 512) &&
    decide (last + (rows - 1) * opPitch p0 + rb ≤ 2 ^ 23) &&
    (extra == 0 || decide (last + rows * opPitch p0 + extra ≤ 2 ^ 23))

/-- The scratchpad offset of byte `b` of row `r`. -/
def rowByte (p0 p1 : W64) (rb r b : Nat) : Nat :=
  opBase p0 + r * opPitch p0 + if opRot p1 = 0 then b else 16 * ((b / 16 + opRot p1 * r) % (rb / 16)) + b % 16

/-- The bytes of row `r` of an operand; `off` is the start of its slice. -/
def Mem.row (m : Mem) (p0 p1 : W64) (rb off r : Nat) : List Byte := (List.range rb).map fun b => m.read (off + rowByte p0 p1 rb r b)

/-- Registers of one row of `rb` bytes (R234). -/
def regsPerRow (rb : Nat) : Nat := (rb + 255) / 256

/-- The bytes of row `r` of an operand in registers. -/
def imageRow (imgs : List VImage) (rb r : Nat) : List Byte :=
  let q := regsPerRow rb
  (List.range rb).map fun b => ((imgs[q * r + b / 256]?).getD 0).extractLsb' (8 * (b % 256)) 8

/-! ## Elements and weights (R228, R229) -/

/-- K elements in a cell for a weight format. -/
def cellK : Ty → Nat
  | .bf16 | .f16 => 1
  | .nq4 => 4
  | _ => 2

/-- Bytes of a weight row of `n` columns. -/
def weightBytes (ty : Ty) (n : Nat) : Nat := match ty with | .bf16 | .f16 => 2 * n | .nq4 => (n + 1) / 2 | _ => n

/-- Element `i` of a row of packed elements. -/
def rowElem (ty : Ty) (row : List Byte) (i : Nat) : W32 :=
  let w := tyWidth ty / 8
  BitVec.ofNat 32 (leNat ((row.drop (i * w)).take w))

/-- FlushIn of an element's value (R206); an integer enters as its exact value. -/
def elemNum (ty : Ty) (x : W32) : Num :=
  match tyFmt ty with
  | some k => k.input true x
  | none => intNum (intOf ty x)

/-- The elements of a row in a format. -/
def rowNums (ty : Ty) (n : Nat) (row : List Byte) : List Num := (List.range n).map fun i => elemNum ty (rowElem ty row i)

/-- The K elements that a descriptor's tile holds. -/
def WDesc.k (d : WDesc) : Nat := d.kr * cellK d.ty

/-- The weight rows of a descriptor as they stand in scratchpad, which a reload reads (R229). -/
def Mem.weightRows (m : Mem) (d : WDesc) : List (List Byte) :=
  (List.range d.k).map fun k => m.row d.p0 d.p1 (weightBytes d.ty d.n) 0 k

/-- The NQ4 scale codes after the last row, two for each row (R238). -/
def Mem.scaleCodes (m : Mem) (d : WDesc) : List Byte :=
  if d.ty = .nq4 then m.bytes (opBase d.p0 + d.k * opPitch d.p0) (2 * d.k) else []

/-- A row of NQ4 weights from its codes and the scale codes (R238). -/
def nq4Row (d : WDesc) (codes row : List Byte) (k : Nat) : List Num :=
  (List.range d.n).map fun j =>
    let b := ((row[j / 2]?).getD 0).toNat
    let u := ((codes[2 * k + j / 64]?).getD 0).toNat
    fp32.input true (decodeNq4 (BitVec.ofNat 32 (if j % 2 = 0 then b % 16 else b / 16)) d.s u)

/-- The float weights in the array, row by row (R229). -/
def MxHeld.weights (h : MxHeld) : List (List Num) :=
  h.rows.zipIdx.map fun (row, k) => if h.desc.ty = .nq4 then nq4Row h.desc h.codes row k else rowNums h.desc.ty h.desc.n row

/-- A weight byte as an integer. -/
def byteInt (signed : Bool) (b : Byte) : Int := if signed then b.toInt else (b.toNat : Int)

/-- The integer weights in the array, read as signed or unsigned bytes. -/
def MxHeld.ints (h : MxHeld) (signed : Bool) : List (List Int) := h.rows.map fun r => r.map (byteInt signed)

/-- A column of a matrix of rows. -/
def column {α : Type} (d : α) (rows : List (List α)) (j : Nat) : List α := rows.map fun r => (r[j]?).getD d

/-- Column sums under one reading (R238), 0 beyond the tile's columns. -/
def columnSums (rows : List (List Int)) : Vector W32 128 :=
  Vector.ofFn fun j => BitVec.ofInt 32 (column 0 rows j.val).sum

/-! ## The order of floating-point sums (R206) -/

/-- A chain of additions: its value, and whether every addend so far is −0. -/
structure Chain32 where
  v : Num
  allNeg : Bool
  deriving DecidableEq, Repr

/-- Whether a value is −0. -/
def Num.isNegZero (x : Num) : Bool := x.isZero && x.neg

/-- The exact sum of a cell's products, with whether all of them are −0. -/
def cellSum (l : List (Num × Num)) : Num × Bool :=
  l.foldl (fun (q, n) (a, w) =>
    let p := (mulNum a w).1
    ((addNum 0 q p).1, n && p.isNegZero)) (.fin false 0 0, true)

/-- RoundMat of a chain's value and an addend (R206). -/
def Chain32.add (c : Chain32) (x : Num) (allNeg : Bool) : Chain32 :=
  let n := c.allNeg && allNeg
  match (addNum 0 c.v x).1 with
  | .nan => ⟨.nan, n⟩
  | .fin _ 0 _ => ⟨.fin n 0 0, n⟩
  | y =>
    let r := (fp32.roundNum 0 y).1
    ⟨fp32.input true r, n⟩

/-- Groups of `p` elements. -/
def cells {α : Type} (p : Nat) (n : Nat) (l : List α) : List (List α) := (List.range n).map fun c => (l.drop (p * c)).take p

/-- ColumnSum (R206): a row of activations against a column of weights in `kr` cell rows of `p` elements; the cells beyond
hold +0. -/
def columnSum (p kr : Nat) (a w : List Num) : Chain32 :=
  let c := (cells p kr (a.zip w)).foldl (fun (c : Chain32) l => let (q, n) := cellSum l; c.add q n) ⟨.fin false 0 0, true⟩
  if kr < 128 then c.add (.fin false 0 0) false else c

/-- The word of a chain's value. -/
def Chain32.word (c : Chain32) : W32 := (fp32.roundNum 0 c.v).1

/-- The last rounding: a column sum into a tile word (R206). -/
def intoTile (old : W32) (c : Chain32) : W32 :=
  let o := fp32.input true old
  (Chain32.add ⟨o, o.isNegZero⟩ c.v c.allNeg).word

/-! ## The order of integer sums (R207) -/

/-- AccAdd (R239): modulo 2^32, or saturating, with whether it saturated. -/
def accAdd (sat : Bool) (x : W32) (v : Int) : W32 × Bool :=
  let r := x.toInt + v
  if sat then let (y, b) := satTo (-2 ^ 31) (2 ^ 31 - 1) r; (BitVec.ofInt 32 y, b) else (BitVec.ofInt 32 r, false)

/-- IntColumnSum (R207). -/
def intColumnSum (sat : Bool) (kr : Nat) (a w : List Int) : W32 × Bool :=
  (cells 2 kr (a.zip w)).foldl (fun (x, b) l =>
    let (y, c) := accAdd sat x (l.map fun (u, v) => u * v).sum
    (y, b || c)) (0, false)

/-! ## Tiles -/

/-- The place of a tile's element (R109). -/
def tileAt (t : TReg) (row col : Nat) : Nat := t.toNat * 65536 + row * 512 + col * 4

/-- A function applied to elements of a tile: rows and columns from 0, added to `trow`. -/
def Mem.mapTile (m : Mem) (t : TReg) (trow rows cols : Nat) (f : Nat → Nat → W32 → W32) : Mem :=
  (List.range rows).foldl (fun m r => (List.range cols).foldl (fun m c =>
    let a := tileAt t (trow + r) c
    m.writeLE a 4 (f r c (m.readLE a 4 32))) m) m

/-! ## Products (R239, R240) -/

/-- The activation row bytes of a command. -/
def actRow (m : Mem) (p0 p1 : W64) (imgs : Option (List VImage)) (rb r : Nat) : List Byte :=
  match imgs with
  | some l => imageRow l rb r
  | none => m.row p0 p1 rb 0 r

/-- The new words of a row of results, with how many of them are NaN. -/
def floatRow (p kr n : Nat) (a : List Num) (ws : List (List Num)) (old : Nat → W32) : List W32 :=
  (List.range n).map fun j => intoTile (old j) (columnSum p kr a (column (.fin false 0 0) ws j))

/-- The correction of R240 for a row and a column. -/
def correction (sat : Bool) (za zw k rs cs : Int) : W32 × Bool := accAdd sat 0 (-zw * rs - za * cs + k * za * zw)

/-- One element of MMAI: its new word and whether it saturated. -/
def mmaiElem (sat corrected : Bool) (kr : Nat) (a w : List Int) (za zw k rs cs : Int) (old : W32) : W32 × Bool :=
  let (ps, b) := intColumnSum sat kr a w
  let (ps, b) := if corrected then
      let (c, b1) := correction sat za zw k rs cs
      let (y, b2) := accAdd sat ps c.toInt
      (y, b || b1 || b2)
    else (ps, b)
  let (y, b3) := accAdd sat old ps.toInt
  (y, b || b3)

/-- Words put into a tile row from column 0. -/
def Mem.putRow (m : Mem) (t : TReg) (row : Nat) (l : List W32) : Mem :=
  l.zipIdx.foldl (fun m (v, j) => m.writeLE (tileAt t row j) 4 v) m

/-! ## Rank-coded rows (R244) -/

/-- Fields of an MRANK control word. -/
def rkSlices (c : W64) : Nat := (c.extractLsb' 16 9).toNat
/-- The attenuation table. -/
def rkTab (c : W64) : Nat := (c.extractLsb' 12 4).toNat
/-- Rank words per list. -/
def rkK (c : W64) : Nat := (c.extractLsb' 0 11).toNat

/-- The value of position `j` of a list (R244). -/
def rankValue (x : Cluster) (tab : Nat) (scale : W32) (j : Nat) : Num :=
  if j < x.tableLen.get tab 0 then
    fp32.input true (mulF32 (fp32.decode scale) (bf16.decode (x.tables.readLE (tab * 2048 + 2 * j) 2 32)))
  else .fin false 0 0

/-- A list decoded: its arrivals (index, value), the latest position last, and the words dropped. -/
def rankList (x : Cluster) (tab : Nat) (scale : W32) (d : Nat) (words : List W32) : List (Nat × Num) × Nat :=
  words.zipIdx.foldl (fun (l, drop) (w, j) =>
    let i := w.toNat % 2 ^ 15
    if d ≤ i then (l, drop + 1)
    else
      let v := rankValue x tab scale j
      (l ++ [(i, if w.getLsbD 15 then v.flip else v)], drop)) ([], 0)

/-- A slice's activations: the last arrival at each index, +0 elsewhere. -/
def sliceActs (l : List (Nat × Num)) (kt s : Nat) : List Num :=
  (List.range kt).map fun j => match (l.filter fun (i, _) => i == s * kt + j).getLast? with
    | some (_, v) => v
    | none => .fin false 0 0

end Sys2Proof.Machine
end

