-- ==== Sys2Proof/Machine/Matrix.lean ====
section
/-!
DEFINITION. The matrix instructions (R230, R235–R245), the arbiter (R231), the effects of a granted command, and its
completion.
-/

namespace Sys2Proof.Machine

open Sys2Proof

/-! ## Issue checks (R235) -/

/-- A matrix command fails an issue check: ACCERR and its reason in the status word. -/
def mxFail (reason : Nat) (s : State) : Out :=
  let x := s.ctx
  let st := (x.mx.status &&& 0x00FFFFFFFFFFFFFF) ||| (BitVec.ofNat 64 reason <<< 56)
  .next ((s.setCtx { x with mx := { x.mx with status := st } }).setAccerr.past 12)

/-- The first check that fails, by reason; 0 where none does. -/
def firstFail : List (Bool × Nat) → Nat
  | [] => 0
  | (ok, n) :: l => if ok then firstFail l else n

/-- A command that passes its checks enters the queue (R230). -/
def mxEnqueue (c : MxCmd) (s : State) : State :=
  let e : MxEntry := ⟨s.seq, s.ctx.launch, c⟩
  let s := s.setCore s.focus { s.cur with mq := s.cur.mq ++ [e] }
  ({ s with seq := s.seq + 1 } : State).past 12

/-- The commands of the running context in a core's queue. -/
def Core.mxOf (k : Core) : List MxEntry := k.mq.filter fun e => e.launch == k.run.launch

/-- A matrix command at issue (R230, R235): scalars present, the queue not full, vector images taken when earlier XV
instructions have completed. -/
def mxIssue (need : List SReg) (v : Bool) (checks : State → List (Bool × Nat)) (cmd : State → MxCmd) (s : State) : Out :=
  ready need s fun s =>
    if 4 ≤ s.cur.mxOf.length then wait s
    else
      let go (s : State) : Out :=
        match firstFail (checks s) with
        | 0 => .next (mxEnqueue (cmd s) s)
        | n => mxFail n s
      if v then xvWait s go else go s

/-- The register pair that a field selects. -/
def pairRegs (r : SReg) : List SReg := [r, r + 1]

/-- The weight descriptor of a context; kr = 0: no MWLD has been issued (R246). -/
def MxBlock.desc (m : MxBlock) : WDesc where
  p0 := m.wpair0
  p1 := m.wpair1
  ty := (Ty.ofBits (m.wfmt.extractLsb' 0 4)).getD .bf16
  kr := (m.wfmt.extractLsb' 8 8).toNat
  n := (m.wfmt.extractLsb' 16 7).toNat + 1
  s := m.wfmt.extractLsb' 32 32

/-- The block with a descriptor. -/
def MxBlock.setDesc (m : MxBlock) (p0 p1 : W64) (ty : Ty) (kr : BitVec 8) (n1 : BitVec 7) (sup : W32) : MxBlock :=
  { m with wpair0 := p0, wpair1 := p1, wfmt := sup ++ (0 : BitVec 9) ++ n1 ++ kr ++ (0 : BitVec 4) ++ ty.toBits }

/-- A row or cell-row count in 1–128. -/
def countOk (n : Nat) : Bool := decide (1 ≤ n) && decide (n ≤ 128)

/-- MWLD (R238): the descriptor is set at issue. -/
def execMwld (ty : Ty) (ra : SReg) (kr : BitVec 8) (n1 : BitVec 7) (sup : W32) (s : State) : Out :=
  ready (pairRegs ra) s fun s =>
    if 4 ≤ s.cur.mxOf.length then wait s
    else
      let (p0, p1) := (s.reg ra, s.reg (ra + 1))
      let k := kr.toNat * cellK ty
      let n := n1.toNat + 1
      match firstFail [(pairOk p0 p1 k (weightBytes ty n) 1 (if ty = .nq4 then 2 * k else 0), 2), (countOk kr.toNat, 3)] with
      | 0 =>
        let s := s.setCtx { s.ctx with mx := s.ctx.mx.setDesc p0 p1 ty kr n1 sup }
        .next (mxEnqueue (.mwld s.ctx.mx.desc) s)
      | r => mxFail r s

/-- An activation operand (R234): in scratchpad or in registers from `vN`. -/
def actOk (v : Bool) (ra : SReg) (p0 p1 : W64) (rows rb : Nat) : Bool :=
  if v then !ra.getLsbD 4 && decide (ra.toNat + regsPerRow rb * rows ≤ 16) else pairOk p0 p1 rows rb 1 0

/-- The parts of that check that a context without a descriptor makes (R235). -/
def actBits (v : Bool) (ra : SReg) (p0 p1 : W64) : Bool := if v then !ra.getLsbD 4 else pairBits p0 p1

/-- The images of the registers from `vN` on. -/
def Ctx.images (x : Ctx) (ra : SReg) (n : Nat) : List VImage :=
  (List.range n).map fun j => x.vreg (BitVec.ofNat 4 (ra.toNat + j))

/-- MMA accepts an activation format with a weight format (R228). -/
def mmaFmt (w a : Ty) : Bool :=
  match w with
  | .bf16 | .f16 => a == .bf16 || a == .f16
  | .e4m3 | .e5m2 => a == .e4m3 || a == .e5m2
  | .nq4 => a == .e4m3 || a == .e5m2 || a == .i8 || a == .u8
  | .f32 | .i32 | .u32 | .i16 | .i8 | .u8 | .bq8s | .bq8u => false

/-- Checks shared by MMA and MMAI; `more` is the part of OPND that the instruction adds, which a context without a descriptor makes as well
(DESIGN CHOICE, log 96: R235 lists for it parts of the operand check alone, and does not name MMAI's own). -/
def mmaChecks (v : Bool) (td : TReg) (ra : SReg) (rows trow rb : Nat) (more fmt : Bool) (s : State) : List (Bool × Nat) :=
  let (p0, p1) := (s.reg ra, s.reg (ra + 1))
  let some_ := s.ctx.mx.desc.kr != 0
  [(s.ctx.mtiles.getLsbD td.toNat, 1),
   ((if some_ then actOk v ra p0 p1 rows rb else actBits v ra p0 p1) && more, 2),
   (countOk rows && decide (trow + rows ≤ 128), 3),
   (!some_ || fmt, 4),
   (some_, 5)]

/-- Scalar registers that name an activation operand. -/
def actRegs (v : Bool) (ra : SReg) : List SReg := if v then [] else pairRegs ra

/-- MMA (R239). -/
def execMma (v : Bool) (ty : Ty) (td : TReg) (ra : SReg) (rows : BitVec 8) (trow : W32) (s : State) : Out :=
  let rb (s : State) : Nat := s.ctx.mx.desc.k * (tyWidth ty / 8)
  mxIssue (actRegs v ra) v
    (fun s => mmaChecks v td ra rows.toNat trow.toNat (rb s) true (mmaFmt s.ctx.mx.desc.ty ty) s)
    (fun s => .mma ty td (s.reg ra) (s.reg (ra + 1))
      (if v then some (s.ctx.images ra (regsPerRow (rb s) * rows.toNat)) else none) rows.toNat trow.toNat s.ctx.mx.desc) s

/-- The address rule of MMAI's row sums (R240). -/
def rowSumOk (a : W64) (rows : Nat) : Bool :=
  a.toNat % 4 == 0 && decide (a.toNat < 2 ^ 23) && decide (a.toNat + 4 * rows ≤ 2 ^ 23)

/-- MMAI (R239, R240). -/
def execMmai (v asg wsg rsm : Bool) (td : TReg) (ra rb rc : SReg) (rows : BitVec 8) (trow : W32) (s : State) : Out :=
  let rowB (s : State) : Nat := s.ctx.mx.desc.k
  mxIssue (actRegs v ra ++ [rb] ++ (if rsm then [rc] else [])) v
    (fun s => mmaChecks v td ra rows.toNat trow.toNat (rowB s)
      ((s.reg rb).extractLsb' 32 32 == 0 && (!rsm || rowSumOk (s.reg rc) rows.toNat))
      (s.ctx.mx.desc.ty == .i8 || s.ctx.mx.desc.ty == .u8) s)
    (fun s => .mmai asg wsg (if rsm then some (s.reg rc) else none) (s.reg rb) td (s.reg ra) (s.reg (ra + 1))
      (if v then some (s.ctx.images ra (regsPerRow (rowB s) * rows.toNat)) else none) rows.toNat trow.toNat s.ctx.mx.desc) s

/-- MZERO (R241). -/
def execMzero (td : TReg) (s : State) : Out :=
  mxIssue [] false (fun s => [(s.ctx.mtiles.getLsbD td.toNat, 1)]) (fun _ => .mzero td) s

/-- MLDACC (R241). -/
def execMldacc (b : Bool) (td : TReg) (ra : SReg) (rows : BitVec 8) (trow : W32) (s : State) : Out :=
  mxIssue (pairRegs ra) false
    (fun s => [(s.ctx.mtiles.getLsbD td.toNat, 1),
      (pairOk (s.reg ra) (s.reg (ra + 1)) (if b then 1 else rows.toNat) 512 1 0, 2),
      (countOk rows.toNat && decide (trow.toNat + rows.toNat ≤ 128), 3)])
    (fun s => .mldacc b td (s.reg ra) (s.reg (ra + 1)) rows.toNat trow.toNat) s

/-- MDRAIN (R243). -/
def execMdrain (mode : BitVec 3) (sh z : Bool) (ch : BitVec 3) (td : TReg) (ra rb : SReg) (ring : BitVec 8) (tag : W32)
    (s : State) : Out :=
  ready [ra, rb] s fun s =>
    if 4 ≤ s.cur.mxOf.length then wait s
    else
      let (a, b) := (s.reg ra, s.reg rb)
      phaseCheck (sh || leavesCluster s.focus a || leavesCluster s.focus b) (xeWord 5 rb ra (td.setWidth 5)) s fun s =>
        let loc := engineLoc s.focus s.ctx b 96
        match firstFail [(s.ctx.mtiles.getLsbD td.toNat, 1), (loc.isSome, 2),
            (decide (mode.toNat < 6) && s.ringOk s.clu ring.toNat && (sh || (mode != 2 && mode != 3)), 6)] with
        | 0 =>
          let h := match loc with | some l => s.engineBytes s.focus l 96 | none => []
          let t := s.transfer s.ctx s.focus false sh true false false 0 a (BitVec.ofNat 768 (leNat h)) ch.toNat ring.toNat tag
            (.drain mode z td s.seq)
          .next (mxEnqueue (.mdrain td t) s)
        | n => mxFail n s

/-- MRQP (R242). -/
def execMrqp (ra : SReg) (s : State) : Out :=
  mxIssue [ra] false (fun s => [((s.reg ra).toNat % 16 == 0 && decide ((s.reg ra).toNat + 1024 ≤ 2 ^ 23), 2)])
    (fun s => .mrqp (s.reg ra)) s

/-- MRANK (R244). -/
def execMrank (ty : Ty) (td : TReg) (ra rb rc : SReg) (rows : BitVec 8) (n1 : BitVec 7) (scale : W32) (s : State) : Out :=
  mxIssue (pairRegs ra ++ pairRegs rb ++ [rc]) false
    (fun s =>
      let c := s.reg rc
      [(s.ctx.mtiles.getLsbD td.toNat, 1),
       (c.extractLsb' 25 39 == 0 && !c.getLsbD 11 && pairOk (s.reg ra) (s.reg (ra + 1)) rows.toNat (2 * rkK c) 1 0 &&
          opTp (s.reg (rb + 1)) % 16 == 0 &&
          pairOk (s.reg rb) (s.reg (rb + 1)) (128 * cellK ty) (weightBytes ty (n1.toNat + 1)) (rkSlices c) 0, 2),
       (countOk rows.toNat && decide (1 ≤ rkSlices c) && decide (rkSlices c ≤ 256) && decide (1 ≤ rkK c) &&
          decide (rkK c ≤ 1024), 3)])
    (fun s => .mrank ty td (s.reg ra) (s.reg (ra + 1)) (s.reg rb) (s.reg (rb + 1)) (s.reg rc) rows.toNat (n1.toNat + 1) scale) s

/-! ## Waiting (R245) -/

/-- Matrix commands of the running context below `n` that have not completed. -/
def State.mxLeft (s : State) (n : Nat) : Bool :=
  (s.cur.mq.any fun e => e.launch == s.ctx.launch && decide (e.seq < n)) ||
    (s.cluster s.clu).mxGranted.any fun g => g.core == s.focus && g.entry.launch == s.ctx.launch && decide (g.entry.seq < n)

/-- MWAIT (R245). -/
def execMwait (s : State) : Out := seqWait 12 State.mxLeft s fun s => .next (s.past 12)

/-- MSTAT (R245). -/
def execMstat (rd ra : SReg) (s : State) : Out :=
  ready [ra, rd] s fun s => seqWait 12 State.mxLeft s fun s =>
    let m := s.ctx.mx
    let a := (s.reg ra).toNat
    if a = 0 then result 12 rd m.status s
    else if a = 1 then result 12 rd m.status (s.setCtx { s.ctx with mx := { m with status := m.status &&& 0x00FF000000000000 } })
    else if h : 0x100 ≤ a ∧ a < 0x180 then result 12 rd (sx (m.css[a - 0x100]'(by omega))) s
    else if h : 0x200 ≤ a ∧ a < 0x280 then result 12 rd (sx (m.csu[a - 0x200]'(by omega))) s
    else copyFail rd poison64 s

/-! ## The arbiter (R231) -/

/-- The tile that a command names. -/
def MxCmd.tile : MxCmd → Option TReg
  | .mma _ td _ _ _ _ _ _ | .mmai _ _ _ _ td _ _ _ _ _ _ | .mzero td | .mldacc _ td _ _ _ _ | .mdrain td _
  | .mrank _ td _ _ _ _ _ _ _ _ => some td
  | .mwld _ | .mrqp _ => none

/-- MMA and MMAI. -/
def MxCmd.isMma : MxCmd → Bool
  | .mma _ _ _ _ _ _ _ _ | .mmai _ _ _ _ _ _ _ _ _ _ _ => true
  | .mwld _ | .mzero _ | .mldacc _ _ _ _ _ _ | .mdrain _ _ | .mrqp _ | .mrank _ _ _ _ _ _ _ _ _ _ => false

/-- The head of a core's queue: the running context's first command. -/
def State.mxHead (s : State) (c : Nat) : Option MxEntry := (s.core c).mxOf.head?

/-- Whether a head is eligible (R231). -/
def State.mxEligible (s : State) (k : Nat) (e : MxEntry) : Bool :=
  (match e.cmd.tile with
    | some t => (s.cluster k).mxGranted.all fun g => g.entry.cmd.tile != some t || (g.entry.cmd.isMma && e.cmd.isMma)
    | none => true) &&
  match e.cmd with
  | .mdrain _ t => s.roomOn k t.ch
  | _ => true

/-- The core that the arbiter picks among those that are ready: the largest credit, a tie going to the first after ptr. -/
def mxPick (cr : PMap Nat) (ptr : Nat) (rdy : List Nat) : Option Nat :=
  let order := (List.range 8).map fun j => (ptr + 1 + j) % 8
  (order.filter rdy.contains).foldl (fun b k => match b with
    | none => some k
    | some j => if PMap.get cr j 0 < PMap.get cr k 0 then some k else some j) none

/-- The credits before a pick: reloaded from the weights when every ready core with a weight has none left (R231). -/
def mxCredits (w : Nat → Nat) (cr : PMap Nat) (rdy : List Nat) : PMap Nat :=
  if rdy.all fun k => w k == 0 || PMap.get cr k 0 == 0 then (List.range 8).foldl (fun m k => PMap.put m k (w k)) cr else cr

/-! ## Effects at the grant (R233, R350) -/

/-- The array after a reload under a descriptor (R229). -/
def State.loaded (s : State) (k c launch : Nat) (d : WDesc) : MxHeld :=
  let m := (s.cluster k).scratch
  ⟨launch, c, d, m.weightRows d, m.scaleCodes d⟩

/-- The array as an MMA or MMAI uses it: as it stands where the same context loaded it under an identical descriptor, else reloaded
(R228). -/
def State.arrayFor (s : State) (k c launch : Nat) (d : WDesc) : MxHeld :=
  match (s.cluster k).mxHeld with
  | some h => if h.launch = launch ∧ h.core = c ∧ h.desc = d then h else s.loaded k c launch d
  | none => s.loaded k c launch d

/-- The array of a cluster set. -/
def State.hold (s : State) (k : Nat) (h : MxHeld) : State := s.setCluster k { s.cluster k with mxHeld := some h }

/-- The scratchpad of a cluster with bytes written. -/
def State.scratchPut (s : State) (k a : Nat) (bs : List Byte) : State :=
  s.setCluster k { s.cluster k with scratch := (s.cluster k).scratch.writeBytes a bs }

/-- The tiles of a cluster replaced. -/
def State.setTiles (s : State) (k : Nat) (m : Mem) : State := s.setCluster k { s.cluster k with tiles := m }

/-- How many words are the canonical NaN. -/
def countNan (l : List W32) : Nat := (l.filter fun v => v == fp32.nan).length

/-- MWLD (R238): the array is loaded, and the column sums are formed under both readings. -/
def State.runMwld (s : State) (k c launch : Nat) (d : WDesc) : State :=
  let h := s.loaded k c launch d
  let int := d.ty == .i8 || d.ty == .u8
  let sums (signed : Bool) : Vector W32 128 := if int then columnSums (h.ints signed) else Vector.replicate 128 0
  (s.updImage c launch fun x => { x with mx := { x.mx with css := sums true, csu := sums false } }).hold k h

/-- MMA (R239). -/
def State.runMma (s : State) (k c launch : Nat) (ty : Ty) (td : TReg) (p0 p1 : W64) (imgs : Option (List VImage))
    (rows trow : Nat) (d : WDesc) : State :=
  let m := (s.cluster k).scratch
  let h := s.arrayFor k c launch d
  let ws := h.weights
  let rb := d.k * (tyWidth ty / 8)
  let (tiles, nan) := (List.range rows).foldl (fun (t, n) r =>
    let l := floatRow (cellK d.ty) d.kr d.n (rowNums ty d.k (actRow m p0 p1 imgs rb r)) ws
      fun j => Mem.readLE t (tileAt td (trow + r) j) 4 32
    (Mem.putRow t td (trow + r) l, n + countNan l)) ((s.cluster k).tiles, 0)
  ((s.setTiles k tiles).hold k h).countMatrix c launch 0 nan 0

/-- Row sums that a granted MMAI has still to write. -/
def State.oweSums (s : State) (k q : Nat) (l : List (Nat × W32)) : State :=
  let x := s.cluster k
  s.setCluster k { x with mxGranted := x.mxGranted.map fun g => if g.entry.seq = q then { g with sums := l } else g }

/-- A granted MMAI writes those of the row sums that it owes whose places `now` names (R350). -/
def State.paySums (s : State) (k : Nat) (g : MxGranted) (now : Nat → Bool) : State :=
  let l := g.sums.zipIdx
  ((l.filter fun (_, n) => now n).foldl (fun s ((a, v), _) => s.scratchPut k a (leBytes v 4)) s).oweSums k g.entry.seq
    ((l.filter fun (_, n) => !now n).map (·.1))

/-- MMAI (R239, R240): row sums are written by the command's completion. -/
def State.runMmai (s : State) (k c launch q : Nat) (asg wsg : Bool) (rs : Option W64) (zp : W64) (td : TReg) (p0 p1 : W64)
    (imgs : Option (List VImage)) (rows trow : Nat) (d : WDesc) : State :=
  let m := (s.cluster k).scratch
  let h := s.arrayFor k c launch d
  let ws := h.ints wsg
  let x := (s.image c launch).getD Ctx.reset
  let sat := x.accsat
  let cs (j : Nat) : Int := (((if wsg then x.mx.css else x.mx.csu)[j]?).getD 0).toInt
  let za : Int := (zp.extractLsb' 0 16).toInt
  let zw : Int := (zp.extractLsb' 16 16).toInt
  let act (r : Nat) : List Int := (actRow m p0 p1 imgs d.k r).map (byteInt asg)
  let (tiles, n) := (List.range rows).foldl (fun (t, n) r =>
    let a := act r
    let l := (List.range d.n).map fun j =>
      mmaiElem sat (zp != 0) d.kr a (column 0 ws j) za zw d.k a.sum (cs j) (Mem.readLE t (tileAt td (trow + r) j) 4 32)
    (Mem.putRow t td (trow + r) (l.map (·.1)), n + (l.filter (·.2)).length)) ((s.cluster k).tiles, 0)
  let s := ((s.setTiles k tiles).hold k h).countMatrix c launch n 0 0
  match rs with
  | some a => s.oweSums k q ((List.range rows).map fun r => (a.toNat + 4 * r, BitVec.ofInt 32 (act r).sum))
  | none => s

/-- MRANK (R244); an element that it sets to NaN counts once (R236). -/
def State.runMrank (s : State) (k c launch : Nat) (ty : Ty) (td : TReg) (l0 l1 w0 w1 ctl : W64) (rows n : Nat) (scale : W32) :
    State :=
  let x := s.cluster k
  let m := x.scratch
  let kt := 128 * cellK ty
  let words (r : Nat) : List W32 :=
    let row := m.row l0 l1 (2 * rkK ctl) 0 r
    (List.range (rkK ctl)).map fun j => rowElem .bf16 row j
  let lists := (List.range rows).map fun r => rankList x (rkTab ctl) scale (rkSlices ctl * kt) (words r)
  let tiles := (List.range (rkSlices ctl)).foldl (fun t sl =>
    let hit := lists.zipIdx.filter fun ((l, _), _) => l.any fun (i, _) => i / kt == sl
    if hit.isEmpty then t
    else
      let ws := (List.range kt).map fun j => rowNums ty n (m.row w0 w1 (weightBytes ty n) (sl * opTp w1) j)
      hit.foldl (fun t ((l, _), r) =>
        Mem.putRow t td r (floatRow (cellK ty) 128 n (sliceActs l kt sl) ws fun j => Mem.readLE t (tileAt td r j) 4 32)) t) x.tiles
  let nan := (lists.zipIdx.map fun ((l, _), r) =>
    if l.isEmpty then 0 else countNan ((List.range n).map fun j => Mem.readLE tiles (tileAt td r j) 4 32)).sum
  let s := (s.setTiles k tiles).countMatrix c launch 0 nan (lists.map (·.2)).sum
  s.setCluster k { s.cluster k with mxHeld := none }

/-- The effects of a granted command. -/
def State.runMx (s : State) (k c : Nat) (e : MxEntry) : State :=
  match e.cmd with
  | .mwld d => s.runMwld k c e.launch d
  | .mma ty td p0 p1 imgs rows trow d => s.runMma k c e.launch ty td p0 p1 imgs rows trow d
  | .mmai asg wsg rs zp td p0 p1 imgs rows trow d => s.runMmai k c e.launch e.seq asg wsg rs zp td p0 p1 imgs rows trow d
  | .mzero td => s.setTiles k ((s.cluster k).tiles.mapTile td 0 128 128 fun _ _ _ => 0)
  | .mldacc b td p0 p1 rows trow =>
    let m := (s.cluster k).scratch
    s.setTiles k ((List.range rows).foldl (fun t r =>
      let row := m.row p0 p1 512 0 (if b then 0 else r)
      Mem.putRow t td (trow + r) ((List.range 128).map fun j => rowElem .f32 row j)) (s.cluster k).tiles)
  | .mdrain _ t =>
    let rq := match s.image c e.launch with | some x => x.mx.rq.toList | none => []
    (s.enqueueCopy k { t with rq := rq } false).2
  | .mrqp a =>
    let m := (s.cluster k).scratch
    s.updImage c e.launch fun x => { x with mx := { x.mx with rq := Vector.ofFn fun j => m.readLE (a.toNat + 8 * j.val) 8 64 } }
  | .mrank ty td l0 l1 w0 w1 ctl rows n scale => s.runMrank k c e.launch ty td l0 l1 w0 w1 ctl rows n scale

/-- MATRIX_GRANT (R231): the arbiter grants one eligible head, whose effects take place. -/
def execMatrixGrant (cluster : Nat) (s : State) : Out :=
  let x := s.cluster cluster
  let core (p : Nat) : Nat := baseCore cluster + p / 4 * 16 + p % 4
  let rdy := (List.range 8).filter fun p => match s.mxHead (core p) with | some e => s.mxEligible cluster e | none => false
  let cr := mxCredits (fun p => (s.core (core p)).run.mshare.toNat) x.mcr rdy
  match mxPick cr x.mptr rdy with
  | none => .next s
  | some p => match s.mxHead (core p) with
    | none => .next s
    | some e =>
      let c := core p
      let k := s.core c
      let s := s.setCore c { k with mq := k.mq.filter fun f => f.seq != e.seq }
      let s := s.setCluster cluster { s.cluster cluster with
        mcr := PMap.put cr p (PMap.get cr p 0 - 1), mptr := p, mxGranted := x.mxGranted ++ [⟨c, e, []⟩] }
      .next (s.runMx cluster c e)

/-- Whether a granted command is a drain, which its transfer completes (R243). -/
def MxCmd.isDrain : MxCmd → Bool
  | .mdrain _ _ => true
  | .mwld _ | .mma _ _ _ _ _ _ _ _ | .mmai _ _ _ _ _ _ _ _ _ _ _ | .mzero _ | .mldacc _ _ _ _ _ _ | .mrqp _
  | .mrank _ _ _ _ _ _ _ _ _ _ => false

/-- MMA, MMAI and MRANK, which complete 140 cycles after their occupancy ends (R232). -/
def MxCmd.late : MxCmd → Bool
  | .mma _ _ _ _ _ _ _ _ | .mmai _ _ _ _ _ _ _ _ _ _ _ | .mrank _ _ _ _ _ _ _ _ _ _ => true
  | .mwld _ | .mzero _ | .mldacc _ _ _ _ _ _ | .mdrain _ _ | .mrqp _ => false

/-- Whether a command may complete while an earlier-granted one has not (R232): the late ones complete in the
order of their grants, and so do the others; another may pass a late one. -/
def MxCmd.passes (a b : MxCmd) : Bool := b.late && !a.late

/-- MATRIX_COMPLETE (R232, R240): of the granted commands that are no drains and that no earlier one holds back, one completes, a free choice
(log 22), with its row sums written. -/
def execMatrixComplete (cluster : Nat) (s : State) : Out :=
  let x := s.cluster cluster
  let l := x.mxGranted.filter fun g => !g.entry.cmd.isDrain
  let able := l.zipIdx.filterMap fun (g, n) => if (l.take n).all fun h => g.entry.cmd.passes h.entry.cmd then some g else none
  match able[s.freeNat 3 % able.length]? with
  | none => .next s
  | some g =>
    let s := s.paySums cluster g fun _ => true
    .next (s.setCluster cluster { s.cluster cluster with mxGranted := x.mxGranted.filter fun h => h.entry.seq != g.entry.seq })

/-- As time passes, granted commands write row sums, a free choice of them (R350). -/
def State.sumsMove (s : State) : State :=
  s.clusters.foldl (fun s (k, x) =>
    (x.mxGranted.filter fun g => !g.sums.isEmpty).foldl (fun s g => s.paySums k g (s.freeNat (2 ^ 47 + g.entry.seq)).testBit) s) s

end Sys2Proof.Machine
end

