-- ==== Sys2Proof/Machine/Rank.lean ====
section
/-!
DEFINITION. The ranking unit (R250–R263): its instructions, its queues, and what a command does.
-/

namespace Sys2Proof.Machine

open Sys2Proof

/-! ## Issue checks (R254) -/

/-- The status word of a command (R255). -/
def rkStatus (reason nan drop count : Nat) : W64 :=
  BitVec.ofNat 8 reason ++ sat16 nan ++ sat16 drop ++ BitVec.ofNat 24 count

/-- The commands of the running context in a core's queue: another launch's never hold it up (R60). -/
def Core.rkOf (k : Core) : List RkEntry := k.rq.filter fun e => e.launch == k.run.launch

/-- A command at issue (R252, R254): scalars present, the queue not full, the checks, then its entry. -/
def rkIssue (need : List SReg) (rd : SReg) (v : Bool) (count : State → Bool) (cmd : State → Option RkCmd) (s : State) : Out :=
  ready (rd :: need) s fun s =>
    if 2 ≤ s.cur.rkOf.length then wait s
    else
      let go (s : State) : Out :=
        match cmd s with
        | none => copyFail rd (rkStatus 1 0 0 0) s
        | some c =>
          if !count s then copyFail rd (rkStatus 2 0 0 0) s
          else
            let e : RkEntry := ⟨s.ctx.launch, s.thr.val, s.th.inc, rd, c⟩
            let s := s.setCore s.focus { s.cur with rq := s.cur.rq ++ [e] }
            .next (s.setTh ((s.th.expect rd).past 12))
      if v then xvWait s go else go s

/-- Field of a control word. -/
def cfield (c : W64) (lo n : Nat) : Nat := (c.extractLsb' lo n).toNat

/-- An operand of the issuing context (R254). -/
def State.rkLoc (s : State) (a : W64) (n : Nat) : Option EngineLoc := engineLoc s.focus s.ctx a n

/-- Bytes of a key. -/
def keySize (ty : Ty) : Nat := tyWidth ty / 8

/-- RANK (R257). -/
def execRank (v mag : Bool) (ty : Ty) (rd ra rb rc : SReg) (s : State) : Out :=
  let n (s : State) : Nat := cfield (s.reg rc) 0 16
  let k (s : State) : Nat := cfield (s.reg rc) 16 11
  let regs (s : State) : Nat := (n s * tyWidth ty + 2047) / 2048
  rkIssue ((if v then [] else [ra]) ++ [rb, rc]) rd v
    (fun s => decide (1 ≤ n s) && decide (n s ≤ 32768) && decide (1 ≤ k s) && decide (k s ≤ 1024) && decide (k s ≤ n s))
    (fun s =>
      let a := if v then (if ra.toNat + regs s ≤ 16 then some (EngineLoc.ulm 0) else none)
        else s.rkLoc (s.reg ra) (n s * keySize ty)
      match a, s.rkLoc (s.reg rb) (2 * k s) with
      | some a, some b =>
        if (s.reg rc).extractLsb' 27 37 ≠ 0 then none
        else some (.rank mag ty (if v then some (s.ctx.images ra (regs s)) else none) a b (n s) (k s))
      | _, _ => none) s

/-- RANKC (R258). -/
def execRankc (mag : Bool) (ty : Ty) (rd ra rb rc : SReg) (pitch : W32) (s : State) : Out :=
  let t (s : State) : Nat := cfield (s.reg rc) 0 16
  let k (s : State) : Nat := cfield (s.reg rc) 16 11
  let c (s : State) : Nat := cfield (s.reg rc) 32 10
  rkIssue [ra, rb, rc] rd false
    (fun s => decide (1 ≤ t s) && decide (t s ≤ 32768) && decide (1 ≤ k s) && decide (k s ≤ 1024) && decide (k s ≤ t s) &&
      decide (1 ≤ c s) && decide (c s ≤ 512))
    (fun s =>
      let es := keySize ty
      match s.rkLoc (s.reg ra) ((t s - 1) * pitch.toNat + c s * es), s.rkLoc (s.reg rb) (2 * k s * c s) with
      | some a, some b =>
        if (s.reg rc).extractLsb' 27 5 ≠ 0 ∨ (s.reg rc).extractLsb' 42 22 ≠ 0 ∨ pitch.toNat % es ≠ 0 ∨ pitch.toNat < c s * es
        then none
        else some (.rankc mag ty a b (t s) (k s) (c s) pitch.toNat)
      | _, _ => none) s

/-- RKTAB (R259). -/
def execRktab (rd ra rb : SReg) (s : State) : Out :=
  let len (s : State) : Nat := cfield (s.reg rb) 0 11
  rkIssue [ra, rb] rd false (fun s => decide (len s ≤ 1024))
    (fun s => match s.rkLoc (s.reg ra) (2 * len s) with
      | some a =>
        if (s.reg rb).extractLsb' 11 5 ≠ 0 ∨ (s.reg rb).extractLsb' 20 44 ≠ 0 then none
        else some (.rktab a (len s) (cfield (s.reg rb) 16 4))
      | none => none) s

/-- RKVAL (R261). -/
def execRkval (ty : Ty) (rd ra rb rc : SReg) (scale : W32) (s : State) : Out :=
  let n (s : State) : Nat := cfield (s.reg rc) 0 16
  let k (s : State) : Nat := cfield (s.reg rc) 16 11
  rkIssue [ra, rb, rc] rd false
    (fun s => decide (1 ≤ n s) && decide (n s ≤ 32768) && decide (1 ≤ k s) && decide (k s ≤ 1024))
    (fun s => match s.rkLoc (s.reg ra) (2 * k s), s.rkLoc (s.reg rb) (n s * keySize ty) with
      | some a, some b =>
        if (s.reg rc).extractLsb' 27 1 ≠ 0 ∨ (s.reg rc).extractLsb' 32 32 ≠ 0 then none
        else some (.rkval ty a b (n s) (k s) (cfield (s.reg rc) 28 4) scale)
      | _, _ => none) s

/-! ## Ranking (R251) -/

/-- A key as it ranks: a number, whose sign is dropped in MAGNITUDE order, or a NaN. -/
def keyOf (mag : Bool) (ty : Ty) (x : W32) : Num :=
  let v := match tyFmt ty with | some k => k.decode x | none => intNum x.toInt
  if mag then match v with | .nan => .nan | .inf _ => .inf false | .fin _ m e => .fin false m e else v

/-- Before(i, j) for keys with their indices (R251). -/
def rankBefore (a b : Num × Nat) : Bool :=
  match a.1, b.1 with
  | .nan, .nan => decide (a.2 < b.2)
  | .nan, _ => false
  | _, .nan => true
  | x, y => if ltNum y x then true else if ltNum x y then false else decide (a.2 < b.2)

/-- A key put into its place. -/
def rankInsert (a : Num × Nat) : List (Num × Nat) → List (Num × Nat)
  | [] => [a]
  | b :: l => if rankBefore a b then a :: b :: l else b :: rankInsert a l

/-- The first `k` indices in rank order: keys are taken one at a time and only the best `k` are kept. -/
def rankBest (mag : Bool) (ty : Ty) (k : Nat) (xs : List W32) : List Nat :=
  (xs.zipIdx.foldl (fun l (x, i) => (rankInsert (keyOf mag ty x, i) l).take k) []).map (·.2)

/-- SignFlag (R251). -/
def signFlag (mag : Bool) (ty : Ty) (x : W32) : Bool := mag && x.getLsbD (tyWidth ty - 1)

/-- The rank words of a list of keys (R257). -/
def rankWords (mag : Bool) (ty : Ty) (k : Nat) (xs : List W32) : List (BitVec 16) :=
  (rankBest mag ty k xs).map fun i => BitVec.ofBool (signFlag mag ty ((xs[i]?).getD 0)) ++ BitVec.ofNat 15 i

/-- How many keys are NaN. -/
def rankNans (ty : Ty) (xs : List W32) : Nat :=
  match tyFmt ty with
  | some k => (xs.filter fun x => k.decode x == .nan).length
  | none => 0

/-- Elements of `w` bytes in a list of bytes. -/
def elemsOf (w n : Nat) (l : List Byte) : List W32 :=
  (List.range n).map fun i => BitVec.ofNat 32 (leNat ((l.drop (i * w)).take w))

/-! ## What a command does (R256–R261) -/

/-- RankValue (R259). -/
def rkValue (x : Cluster) (tab : Nat) (scale : W32) (j : Nat) : Num :=
  if j < x.tableLen.get tab 0 then
    fp32.decode (mulF32 (fp32.decode scale) (bf16.decode (x.tables.readLE (tab * 2048 + 2 * j) 2 32)))
  else .fin false 0 0

/-- One value of RKVAL's output as written (R261). -/
def rkOut (ty : Ty) (v : Num) : List Byte :=
  if ty = .bf16 then leBytes (bf16.roundNum 0 v).1 2 else leBytes (fp32.roundNum 0 v).1 4

/-- RKVAL's dense vector and the words dropped. -/
def rkDense (x : Cluster) (tab : Nat) (scale : W32) (n : Nat) (ws : List W32) : List Num × Nat :=
  ws.zipIdx.foldl (fun (l, drop) (w, j) =>
    let i := w.toNat % 2 ^ 15
    if n ≤ i then (l, drop + 1)
    else
      let v := rkValue x tab scale j
      (l.set i (if w.getLsbD 15 then v.flip else v), drop)) (List.replicate n (.fin false 0 0), 0)

/-- Bytes with those words that have been read before as they were then; `n` is the place of the first byte. -/
def mixed (got : PMap (List Byte)) (n : Nat) (now : List Byte) : List Byte :=
  now.zipIdx.map fun (b, i) =>
    match PMap.find? got ((n + i) / 4) with
    | some w => (w[(n + i) % 4]?).getD b
    | none => b

/-- Where a command's input begins. -/
def RkCmd.input : RkCmd → EngineLoc
  | .rank _ _ _ a _ _ _ | .rankc _ _ a _ _ _ _ _ | .rktab a _ _ | .rkval _ a _ _ _ _ _ => a

/-- How many bytes of input a command reads. -/
def RkCmd.inputSize : RkCmd → Nat
  | .rank _ ty keys _ _ n _ => if keys.isSome then 0 else n * keySize ty
  | .rankc _ ty _ _ t _ c pitch => (t - 1) * pitch + c * keySize ty
  | .rktab _ len _ => 2 * len
  | .rkval _ _ _ _ k _ _ => 2 * k

/-- The table that a command supplies values from. -/
def RkCmd.table : RkCmd → Option Nat
  | .rkval _ _ _ _ _ tab _ => some tab
  | .rank _ _ _ _ _ _ _ | .rankc _ _ _ _ _ _ _ _ | .rktab _ _ _ => none

/-- `n` bytes at offset `o` of a running command's input. -/
def State.rkInput (s : State) (r : RkRun) (o n : Nat) : List Byte :=
  mixed r.got o (s.cmdBytes r.core r.entry.launch (r.entry.cmd.input.plus o) n)

/-- A cluster whose table `tab` holds the words that a command has read of it. -/
def Cluster.tableSeen (x : Cluster) (tab : Nat) (got : PMap (List Byte)) : Cluster :=
  { x with tables := got.foldl (fun m (i, w) => m.writeBytes (tab * 2048 + 4 * i) w) x.tables }

/-- The bytes that a running command writes and its status word, once it has read its whole input (R256–R261). -/
def State.rkResult (s : State) (r : RkRun) : List Byte × W64 :=
  match r.entry.cmd with
  | .rank mag ty imgs _ _ n cnt =>
    let w := keySize ty
    let xs := elemsOf w n (match imgs with | some l => imageRow l (n * w) 0 | none => s.rkInput r 0 (n * w))
    ((rankWords mag ty cnt xs).flatMap fun v => leBytes v 2, rkStatus 0 (rankNans ty xs) 0 cnt)
  | .rankc mag ty _ _ t cnt cols pitch =>
    let w := keySize ty
    let all := (List.range cols).map fun e => (List.range t).map fun i => BitVec.ofNat 32 (leNat (s.rkInput r (i * pitch + e * w) w))
    ((all.flatMap fun xs => rankWords mag ty cnt xs).flatMap fun v => leBytes v 2,
      rkStatus 0 (all.map (rankNans ty)).sum 0 (cols * cnt))
  | .rktab _ len _ => (s.rkInput r 0 (2 * len), rkStatus 0 0 0 len)
  | .rkval ty _ _ n cnt tab scale =>
    let (l, drop) := rkDense ((s.cluster (clusterOf r.core)).tableSeen tab r.tab) tab scale n (elemsOf 2 cnt (s.rkInput r 0 (2 * cnt)))
    (l.flatMap (rkOut ty), rkStatus 0 0 drop n)

/-- Bytes of a command's output written at offset `o` of it: into its table, or at its output operand. -/
def State.rkPut (s : State) (r : RkRun) (o : Nat) (bs : List Byte) : State :=
  let k := clusterOf r.core
  match r.entry.cmd with
  | .rktab _ _ tab => s.setCluster k { s.cluster k with tables := (s.cluster k).tables.writeBytes (tab * 2048 + o) bs }
  | .rank _ _ _ _ b _ _ | .rankc _ _ _ b _ _ _ _ | .rkval _ _ b _ _ _ _ => s.cmdPut r.core r.entry.launch (b.plus o) bs

/-- The unit of a command's output that is written at once: a 32-bit word, or an entry of a table (R260). -/
def RkCmd.unit : RkCmd → Nat
  | .rktab _ _ _ => 2
  | .rank _ _ _ _ _ _ _ | .rankc _ _ _ _ _ _ _ _ | .rkval _ _ _ _ _ _ _ => 4

/-- A table's length set by RKTAB (R259). -/
def State.rkLength (s : State) (r : RkRun) : State :=
  let k := clusterOf r.core
  match r.entry.cmd with
  | .rktab _ len tab => s.setCluster k { s.cluster k with tableLen := PMap.put (s.cluster k).tableLen tab len }
  | .rank _ _ _ _ _ _ _ | .rankc _ _ _ _ _ _ _ _ | .rkval _ _ _ _ _ _ _ => s

/-- What a command does when its last write has been made: its granules become full (R256). -/
def State.rkFill (s : State) (r : RkRun) (n : Nat) : State :=
  match r.entry.cmd with
  | .rktab _ _ _ => s
  | .rank _ _ _ _ b _ _ | .rankc _ _ _ b _ _ _ _ | .rkval _ _ b _ _ _ _ => s.cmdFill r.core r.entry.launch b n

/-- A running command carried to its end: all that it has not read is read, and all that it has not written is written. -/
def State.rkFinish (s : State) (r : RkRun) : State × W64 :=
  let (bs, st) := r.out.getD (s.rkResult r)
  let u := r.entry.cmd.unit
  let s :=
    if r.put.isEmpty then s.rkPut r 0 bs
    else ((List.range ((bs.length + u - 1) / u)).filter fun i => !r.put.contains i).foldl
      (fun s i => s.rkPut r (u * i) ((bs.drop (u * i)).take u)) s
  ((s.rkLength r).rkFill r bs.length, st)

/-! ## The unit (R252) -/

/-- RKTAB, whose occupancy ends with its completion (R252). -/
def RkCmd.fills : RkCmd → Bool
  | .rktab _ _ _ => true
  | .rank _ _ _ _ _ _ _ | .rankc _ _ _ _ _ _ _ _ | .rkval _ _ _ _ _ _ _ => false

/-- RANK_GRANT (R252): when the occupancy of the command before has ended, at a free time (log 4), of an RKTAB with its completion, the unit
takes the oldest command of the next core with one. -/
def execRankGrant (cluster : Nat) (s : State) : Out :=
  let x := s.cluster cluster
  if x.rkRunning.any fun r => r.entry.cmd.fills then .next s else
  let core (p : Nat) : Nat := baseCore cluster + p / 4 * 16 + p % 4
  match ((List.range 8).map fun j => (x.rkPtr + 1 + j) % 8).find? fun p => !(s.core (core p)).rq.isEmpty with
  | none => .next s
  | some p =>
    let c := core p
    let q := s.core c
    match q.rq with
    | [] => .next s
    | e :: rest =>
      .next ((s.setCore c { q with rq := rest }).setCluster cluster
        { x with rkPtr := p, rkRunning := x.rkRunning ++ [⟨c, e, [], [], none, []⟩] })

/-- The running commands of a unit that may complete next: of each core the oldest (R256). -/
def Cluster.rkAble (x : Cluster) : List RkRun :=
  x.rkRunning.zipIdx.filterMap fun (r, n) => if (x.rkRunning.take n).any fun q => q.core == r.core then none else some r

/-- The running commands of a unit without the oldest of a core. -/
def withoutFirst (c : Nat) : List RkRun → List RkRun
  | [] => []
  | r :: l => if r.core = c then l else r :: withoutFirst c l

/-- RANK_COMPLETE (R252, R255): one of the commands that may complete does, a free choice (log 4): its writes have been performed, its
region's full/empty bits are set, wherever the region is (R263), and its status word arrives. -/
def execRankComplete (cluster : Nat) (s : State) : Out :=
  let x := s.cluster cluster
  match x.rkAble[s.freeNat 4 % x.rkAble.length]? with
  | none => .next s
  | some r =>
    let (s, st) := s.rkFinish r
    let e := r.entry
    .next ((s.setCluster cluster { s.cluster cluster with rkRunning := withoutFirst r.core (s.cluster cluster).rkRunning }).deliverTo
      r.core e.launch e.thr e.inc e.rd st)

/-- A running command as time passes (R256): it reads some of its input, a free choice; then it has read the rest and knows its output; then
it writes some of that, and a table's length. `j` is the first of its free words. -/
def State.rkMove (s : State) (k j n : Nat) (r : RkRun) : State :=
  let f := s.freeWord j
  let x := s.cluster k
  let set (s : State) (r : RkRun) : State :=
    s.setCluster k { s.cluster k with rkRunning := (s.cluster k).rkRunning.set n r }
  match r.out with
  | none =>
    let fill (m : PMap (List Byte)) (l : List Nat) (read : Nat → List Byte) : PMap (List Byte) :=
      l.foldl (fun m i => if (PMap.find? m i).isSome then m else m.put i (read i)) m
    let size := r.entry.cmd.inputSize
    let r := { r with
      got := fill r.got (s.freeSome (j + 1) ((size + 3) / 4)) fun i =>
        s.cmdBytes r.core r.entry.launch (r.entry.cmd.input.plus (4 * i)) (min 4 (size - 4 * i))
      tab := match r.entry.cmd.table with
        | some t => fill r.tab (s.freeSome (j + 2 ^ 20) 512) fun i => x.tables.bytes (t * 2048 + 4 * i) 4
        | none => r.tab }
    set s (if f.getLsbD 0 then { r with out := some (s.rkResult r) } else r)
  | some (bs, _) =>
    let u := r.entry.cmd.unit
    let l := (s.freeSome (j + 1) ((bs.length + u - 1) / u)).filter fun i => !r.put.contains i
    let s := l.foldl (fun s i => s.rkPut r (u * i) ((bs.drop (u * i)).take u)) s
    set (if f.getLsbD 1 then s.rkLength r else s) { r with put := r.put ++ l }

/-- As time passes, running ranking commands read and write some of what is left to them (R13, R256, R260; log 23). -/
def State.ranksMove (s : State) : State :=
  s.clusters.foldl (fun s (k, x) => x.rkRunning.zipIdx.foldl (fun s (r, n) => s.rkMove k ((k * 64 + n) * 2 ^ 22 + 2 ^ 21) n r) s) s

end Sys2Proof.Machine
end

