-- ==== Sys2Proof/Machine/Assign.lean ====
section
/-!
DEFINITION. The assignment engine (R269–R284): its instructions, its die queue, the auction, and the end of a run.
-/

namespace Sys2Proof.Machine

open Sys2Proof

/-! ## Records (R271, R272) -/

/-- First expert of group `q`. -/
def recStart (r : BitVec 512) (q : Nat) : Nat := (r.extractLsb' (384 + 16 * q) 10).toNat

/-- Fields of a record. -/
def recT (r : BitVec 512) : Nat := (r.extractLsb' 76 14).toNat
/-- Experts. -/
def recE (r : BitVec 512) : Nat := (r.extractLsb' 66 10).toNat
/-- Groups. -/
def recG (r : BitVec 512) : Nat := (r.extractLsb' 62 4).toNat
/-- The bank. -/
def recBank (r : BitVec 512) : Nat := (r.extractLsb' 58 4).toNat
/-- ε. -/
def recEps (r : BitVec 512) : Nat := (r.extractLsb' 50 8).toNat
/-- The round limit. -/
def recLim (r : BitVec 512) : Nat := (r.extractLsb' 42 8).toNat
/-- The first token. -/
def recTok (r : BitVec 512) : Nat := (r.extractLsb' 90 14).toNat
/-- The scores' offset. -/
def recBase (r : BitVec 512) : Nat := (r.extractLsb' 104 24).toNat

/-- The end of group `q`: the next group's first expert, or E. -/
def recEnd (r : BitVec 512) (q : Nat) : Nat := if q + 1 < recG r then recStart r (q + 1) else recE r

/-- A record with V = 1 is valid (R271). -/
def recOk (r : BitVec 512) : Bool :=
  let g := recG r
  decide (1 ≤ recT r) && decide (recT r ≤ 8192) && decide (2 ≤ recE r) && decide (recE r ≤ 512) && decide (1 ≤ g) &&
    decide (g ≤ 8) && decide (1 ≤ recEps r) && decide (1 ≤ recLim r) && recStart r 0 == 0 &&
    (List.range g).all (fun q => decide (recStart r q + 2 ≤ recEnd r q)) &&
    (List.range 8).all (fun q => decide (q < g) || recStart r q == 0) &&
    (List.range 8).all (fun q => r.extractLsb' (394 + 16 * q) 6 == 0) &&
    decide (recTok r + recT r ≤ 8192) && recBase r % 16 == 0 && decide (recBase r + 2 * recT r * recE r ≤ 2 ^ 23) &&
    r.extractLsb' 1 41 == 0 && r.extractLsb' 128 256 == 0

/-- The groups of a record: first expert and end. -/
def recGroups (r : BitVec 512) : List (Nat × Nat) := (List.range (recG r)).map fun q => (recStart r q, recEnd r q)

/-- The default capacities (R272). -/
def defaultCaps (r : BitVec 512) : List Nat :=
  (recGroups r).flatMap fun (a, b) =>
    let m := b - a
    (List.range m).map fun j => recT r / m + if j < recT r % m then 1 else 0

/-- A capacity vector is valid (R272). -/
def capsOk (r : BitVec 512) (c : List Nat) : Bool :=
  c.all (fun v => decide (v ≤ recT r)) && (recGroups r).all fun (a, b) => ((c.drop a).take (b - a)).sum == recT r

/-- Two half-open ranges meet. -/
def rangesMeet (a n b m : Nat) : Bool := decide (a < b + m) && decide (b < a + n)

/-- Two records overlap in their tokens or scores, or name the same bank (R274). -/
def recMeets (r x : BitVec 512) : Bool :=
  rangesMeet (recTok r) (recT r) (recTok x) (recT x) || rangesMeet (recBase r) (2 * recT r * recE r) (recBase x) (2 * recT x * recE x) ||
    recBank r == recBank x

/-- Bytes with those words that have been read before as they were then; `n` is the number of the first word. -/
def AeEntry.mixed (q : AeEntry) (n : Nat) (now : List Byte) : List Byte := Machine.mixed q.got (4 * n) now

/-- The record that an AECFG that has started has read, and that it is about to configure its slot with. -/
def AeEntry.configuring (q : AeEntry) : Option (Nat × BitVec 512) :=
  match q.cmd with
  | .cfg n _ => if q.started then some (n, BitVec.ofNat 512 (leNat (q.mixed 0 (List.replicate 64 0)))) else none
  | .sc _ _ _ | .cap _ _ | .run _ _ | .rd _ _ | .pr _ _ | .pw _ _ | .stat _ => none

/-- Another slot that is configured, or that an AECFG that has started configures, meets a record (R274). -/
def Ae.overlaps (e : Ae) (slot : Nat) (r : BitVec 512) : Bool :=
  (e.slots.any fun (n, x) => n != slot && x.configured && recMeets r x.record) ||
    e.queue.any fun q => match q.configuring with
      | some (n, x) => n != slot && x.getLsbD 0 && recMeets r x
      | none => false

/-! ## Issue (R273–R275) -/

/-- The engine of the issuing core's die. -/
def State.ae (s : State) : Ae := (s.die (dieOf s.focus)).ae

/-- The state with the engine of a die replaced. -/
def State.setAe (s : State) (d : Nat) (e : Ae) : State := s.setDie d { s.die d with ae := e }

/-- The owner check of the issuing context (R270). -/
def State.owns (s : State) (o : Owner) : Bool := s.ctx.mode == .supervisor || o.any || o.ctx == s.ctx.ctxid

/-- A slot's or a bank's owner word. -/
def ownerOf (m : PMap Owner) (n : Nat) : Owner := m.get n Owner.reset

/-- Bytes from an operand address to the end of its window. -/
def State.aeRoom (s : State) (a : W64) : Nat := (if opmType a = 0 then s.ctx.region else 0x800000) - opmOff a

/-- An operand address of the issuing context, with `n` bytes of fixed extent (R274). -/
def State.aeLoc (s : State) (a : W64) (n : Nat) : Option AeLoc := (engineLoc s.focus s.ctx a n).map fun l => ⟨l, s.aeRoom a⟩

/-- An operand address of the issuing context whose extent is checked at the command's start (R274). -/
def State.aePlace (s : State) (a : W64) : Option AeLoc := (enginePlace s.focus s.ctx a).map fun l => ⟨l, s.aeRoom a⟩

/-- The status word of a command (R274). -/
def aeStatus (reason count : Nat) : W64 := BitVec.ofNat 8 reason ++ (0 : BitVec 32) ++ BitVec.ofNat 24 count

/-- An issue failure (R274): ACCERR, and the status word or poison for a command with a result. -/
def aeFail (rd : SReg) (v : W64) (s : State) : Out := result 12 rd v s.setAccerr

/-- A command at issue (R274, R275): `cmd` is none where OPND fails, `owner` the owner check; `fail` the result of an issue
failure by its reason. -/
def aeIssue (need : List SReg) (rd : SReg) (fail : Nat → W64) (cmd : State → Option AeCmd) (owner : State → Bool) (s : State) :
    Out :=
  ready (rd :: need) s fun s =>
    if 64 ≤ s.ae.queue.length then wait s
    else match cmd s with
      | none => aeFail rd (fail 1) s
      | some c =>
        if !owner s then aeFail rd (fail 3) s
        else
          let q : AeEntry := ⟨s.seq, s.focus, s.ctx.launch, s.thr.val, s.th.inc, rd, c, false, [], []⟩
          let s := s.setAe (dieOf s.focus) { s.ae with queue := s.ae.queue ++ [q] }
          .next (({ s with seq := s.seq + 1 } : State).setTh ((s.th.expect rd).past 12))

/-- A slot or bank number (R273). -/
def aeNum (v : W64) : Option Nat := if v.toNat ≤ 15 then some v.toNat else none

/-- The slot that RA names passes the owner check. -/
def slotOwned (ra : SReg) (s : State) : Bool := s.owns (ownerOf s.ae.slotOwner (s.reg ra).toNat)

/-- The bank that RA names passes the owner check. -/
def bankOwned (ra : SReg) (s : State) : Bool := s.owns (ownerOf s.ae.bankOwner (s.reg ra).toNat)

/-- The configuration record at a place as it stands at issue. -/
def State.aeRecord (s : State) (c : Nat) (l : EngineLoc) : BitVec 512 := BitVec.ofNat 512 (leNat (s.engineBytes c l 64))

/-- AECFG (R281). The bank that its record names is checked as well (R274). -/
def execAecfg (rd ra rb : SReg) (s : State) : Out :=
  aeIssue [ra, rb] rd (aeStatus · 0)
    (fun s => match aeNum (s.reg ra), s.aeLoc (s.reg rb) 64 with | some n, some l => some (.cfg n l) | _, _ => none)
    (fun s => slotOwned ra s && match s.aeLoc (s.reg rb) 64 with
      | some l => s.owns (ownerOf s.ae.bankOwner (recBank (s.aeRecord s.focus l.loc)))
      | none => true) s

/-- AESC (R276). -/
def execAesc (rd ra rb rc : SReg) (s : State) : Out :=
  aeIssue [ra, rb, rc] rd (aeStatus · 0)
    (fun s => match aeNum (s.reg ra), s.aePlace (s.reg rb), s.aePlace (s.reg rc) with
      | some n, some l, some b => some (.sc n l b)
      | _, _, _ => none) (slotOwned ra) s

/-- AECAP (R281). -/
def execAecap (dflt : Bool) (rd ra rb : SReg) (s : State) : Out :=
  aeIssue (if dflt then [ra] else [ra, rb]) rd (aeStatus · 0)
    (fun s => match aeNum (s.reg ra) with
      | some n => if dflt then some (.cap n none) else (s.aePlace (s.reg rb)).map fun l => .cap n (some l)
      | none => none) (slotOwned ra) s

/-- AERUN (R279). -/
def execAerun (ra rb : SReg) (s : State) : Out :=
  aeIssue [ra, rb] 0 (fun _ => 0) (fun s => (aeNum (s.reg ra)).map fun n => .run n (s.reg rb).toNat) (slotOwned ra) s

/-- AERD (R281). -/
def execAerd (rd ra rb : SReg) (s : State) : Out :=
  aeIssue [ra, rb] rd (aeStatus · 0)
    (fun s => match aeNum (s.reg ra), s.aePlace (s.reg rb) with | some n, some l => some (.rd n l) | _, _ => none)
    (slotOwned ra) s

/-- AEPR (R281). -/
def execAepr (rd ra rb : SReg) (s : State) : Out :=
  aeIssue [ra, rb] rd (aeStatus · 0)
    (fun s => match aeNum (s.reg ra), s.aeLoc (s.reg rb) 2048 with | some n, some l => some (.pr n l) | _, _ => none)
    (bankOwned ra) s

/-- AEPW (R281). -/
def execAepw (rd ra rb : SReg) (s : State) : Out :=
  aeIssue [ra, rb] rd (aeStatus · 0)
    (fun s => match aeNum (s.reg ra), s.aeLoc (s.reg rb) 2048 with | some n, some l => some (.pw n l) | _, _ => none)
    (bankOwned ra) s

/-- AESTAT (R280): it reads the run word when it reaches the engine. -/
def execAestat (rd ra : SReg) (s : State) : Out :=
  aeIssue [ra] rd (fun _ => poison64) (fun s => (aeNum (s.reg ra)).map .stat) (slotOwned ra) s

/-- The slot that a command names. -/
def AeCmd.slot : AeCmd → Option Nat
  | .cfg n _ | .sc n _ _ | .cap n _ | .run n _ | .rd n _ => some n
  | .pr _ _ | .pw _ _ | .stat _ => none

/-- AEWAIT (R280): it waits until every command on its slot that arrived before it has completed, runs included. -/
def execAewait (rd ra : SReg) (s : State) : Out :=
  ready [ra, rd] s fun s =>
    let left (n q : Nat) : Bool := s.ae.queue.any fun e => e.cmd.slot == some n && decide (e.seq < q)
    match s.th.stall with
    | some ⟨_, _, .ae n q⟩ => if left n q then wait s else result 12 rd (s.ae.slot n).runWord s
    | _ => match aeNum (s.reg ra) with
      | none => aeFail rd poison64 s
      | some n =>
        if !slotOwned ra s then aeFail rd poison64 s
        else if left n s.seq then .next (s.stall 12 0 (.ae n s.seq)) else result 12 rd (s.ae.slot n).runWord s

/-! ## When a command may start (R275) -/

/-- The bank that a command names directly (AEPR, AEPW). -/
def AeCmd.bank : AeCmd → Option Nat
  | .pr n _ | .pw n _ => some n
  | .cfg _ _ | .sc _ _ _ | .cap _ _ | .run _ _ | .rd _ _ | .stat _ => none

/-- `n` bytes at an operand of a command, whose first word has the number `m`. -/
def State.aeInput (s : State) (q : AeEntry) (l : AeLoc) (m n : Nat) : List Byte := q.mixed m (s.cmdBytes q.core q.launch l.loc n)

/-- The record that an AECFG reads. -/
def State.aeRead (s : State) (q : AeEntry) (l : AeLoc) : BitVec 512 := BitVec.ofNat 512 (leNat (s.aeInput q l 0 64))

/-- The banks that a command names through its slot's record, in force or to be loaded. -/
def State.aeBanks (s : State) (d : Nat) (q : AeEntry) : List Nat :=
  match q.cmd.slot with
  | none => []
  | some n =>
    let x := (s.die d).ae.slot n
    (if x.configured then [x.bank] else []) ++
      match q.cmd with | .cfg _ l => [recBank (s.aeRead q l)] | _ => []

/-- Whether an AESTAT reads its slot's run word before a later command of its thread acts on that slot (R275). -/
def AeEntry.reads (e q : AeEntry) : Bool :=
  match e.cmd with
  | .stat n => q.cmd.slot == some n && e.core == q.core && e.launch == q.launch && e.thr == q.thr
  | .cfg _ _ | .sc _ _ _ | .cap _ _ | .run _ _ | .rd _ _ | .pr _ _ | .pw _ _ => false

/-- A command held behind an earlier one. -/
def State.aeHeld (s : State) (d : Nat) (e q : AeEntry) : Bool :=
  e.reads q ||
  match q.cmd.slot, q.cmd.bank with
  | some n, _ => e.cmd.slot == some n ||
      ((match q.cmd with | .run _ _ | .cfg _ _ | .cap _ _ => true | _ => false) &&
        match e.cmd.bank with | some b => (s.aeBanks d q).contains b | none => false)
  | none, some b => e.cmd.bank == some b || (s.aeBanks d e).contains b
  | none, none => false

/-- An AEWAIT that arrived before a command on its slot has still to read the run word (R275, R280). -/
def State.aeAwaited (s : State) (d : Nat) (q : AeEntry) : Bool :=
  s.cores.any fun (c, k) => dieOf c == d && k.run.resident && k.run.threads.toList.any fun t => t.live && match t.stall with
    | some ⟨_, _, .ae n m⟩ => q.cmd.slot == some n && decide (m ≤ q.seq)
    | _ => false

/-- A command is held by none that arrived before it. -/
def State.aeFree (s : State) (d : Nat) (q : AeEntry) : Bool :=
  !((s.die d).ae.queue.any fun e => decide (e.seq < q.seq) && s.aeHeld d e q) && !s.aeAwaited d q

/-- The commands that take the engine in pieces between the turns of runs (R282). -/
def AeCmd.pieces : AeCmd → Bool
  | .cfg _ _ | .sc _ _ _ | .cap _ _ | .rd _ _ | .pr _ _ | .pw _ _ => true
  | .run _ _ | .stat _ => false

/-- The engine serves one command before another: an admitted launch's first, then in order of arrival (R282). -/
def State.aeBefore (s : State) (e q : AeEntry) : Bool :=
  let a := s.isAdmitted e.launch
  let b := s.isAdmitted q.launch
  (a && !b) || (a == b && decide (e.seq < q.seq))

/-- Whether the engine may start a command now: it is no piecewise one, or the first of those that nothing holds. -/
def State.aeNext (s : State) (d : Nat) (q : AeEntry) : Bool :=
  !q.cmd.pieces || (s.die d).ae.queue.all fun e => !(e.cmd.pieces && !e.started && s.aeFree d e && s.aeBefore e q)

/-- Whether a started command is the one that the engine serves. -/
def State.aeServed (s : State) (d : Nat) (q : AeEntry) : Bool :=
  (s.die d).ae.queue.all fun e => !(e.cmd.pieces && e.started && s.aeBefore e q)

/-! ## Start checks (R274) -/

/-- The reason for which a command fails at its start; 0 where it does not. -/
def State.aeStartFail (s : State) (d : Nat) (q : AeEntry) : Nat :=
  let e := (s.die d).ae
  let extent (n : Nat) (need : BitVec 512 → List (AeLoc × Nat)) : Nat :=
    let x := e.slot n
    if x.configured && !(need x.record).all (fun (l, z) => decide (z ≤ l.room)) then 1 else if x.configured then 0 else 6
  match q.cmd with
  | .cfg n l =>
    let r := s.aeRead q l
    if !r.getLsbD 0 then 0 else if !recOk r then 2 else if e.overlaps n r then 4 else 0
  | .sc n l b => extent n fun r => [(l, 4 * recT r * recE r), (b, 4 * recE r)]
  | .cap n none => extent n fun _ => []
  | .cap n (some l) =>
    match extent n fun r => [(l, 2 * recE r)] with
    | 0 =>
      let r := (e.slot n).record
      if capsOk r ((elemsOf 2 (recE r) (s.aeInput q l 0 (2 * recE r))).map (·.toNat)) then 0 else 5
    | m => m
  | .run n _ => if (e.slot n).configured && (e.slot n).hasScores then 0 else 6
  | .rd n l => extent n fun r => [(l, 2 * recT r * recG r)]
  | .pr _ _ | .pw _ _ | .stat _ => 0

/-! ## The auction (R277–R279) -/

/-- A price of a run. -/
def priceAt (p : List Nat) (e : Nat) : Nat := (p[e]?).getD 0

/-- The rebase (R277). -/
def rebase (r : BitVec 512) (p : List Nat) : List Nat :=
  (recGroups r).flatMap fun (a, b) =>
    let g := (p.drop a).take (b - a)
    let m := g.foldl min (g.headD 0)
    g.map (· - m)

/-- The score of a token and an expert. -/
def Ae.score (e : Ae) (r : BitVec 512) (t j : Nat) : Int :=
  (e.scores.readLE (recBase r + 2 * (t * recE r + j)) 2 16 : BitVec 16).toInt

/-- Whether a token is unassigned in a group. -/
def unassigned (h : List (Nat × Nat × Nat)) (g : Nat × Nat) (t : Nat) : Bool :=
  !(h.any fun (e, u, _) => u == t && decide (g.1 ≤ e) && decide (e < g.2))

/-- The best of a list of experts by value, the lowest on a tie. -/
def bestOf (val : Nat → Int) (l : List Nat) : Option Nat :=
  l.foldl (fun b e => match b with
    | none => some e
    | some j => if val j < val e then some e else some j) none

/-- The bid of a token in a group (R278): its expert and its amount. -/
def bidOf (val : Nat → Int) (price : Nat → Nat) (eps : Nat) (elig : List Nat) : Option (Nat × Nat) :=
  match bestOf val elig with
  | none => none
  | some j =>
    let v2 := match bestOf val (elig.filter (· != j)) with | some i => val i | none => val j
    some (j, min (price j + (val j - v2).toNat + eps) 0xFFFFFF)

/-- A pair (token, bid) is kept before another. -/
def keptBefore (a b : Nat × Nat) : Bool := decide (b.2 < a.2) || (a.2 == b.2 && decide (a.1 < b.1))

/-- A pair put into the order in which pairs are kept. -/
def keepInsert (a : Nat × Nat) : List (Nat × Nat) → List (Nat × Nat)
  | [] => [a]
  | b :: l => if keptBefore a b then a :: b :: l else b :: keepInsert a l

/-- A round (R278): the holders and prices after it. -/
def auctionRound (r : BitVec 512) (score : Nat → Nat → Int) (caps p : List Nat) (h : List (Nat × Nat × Nat)) :
    List (Nat × Nat × Nat) × List Nat :=
  let cap (e : Nat) : Nat := (caps[e]?).getD 0
  let bids := (recGroups r).flatMap fun g =>
    let elig := ((List.range (g.2 - g.1)).map (g.1 + ·)).filter fun e => cap e != 0
    (List.range (recT r)).filterMap fun t =>
      if unassigned h g t then
        (bidOf (fun e => score t e - (priceAt p e : Int)) (priceAt p) (recEps r) elig).map fun (e, b) => (e, t, b)
      else none
  let kept (e : Nat) : List (Nat × Nat) :=
    (((h ++ bids).filter fun (f, _, _) => f == e).foldl (fun l (_, t, b) => keepInsert (t, b) l) []).take (cap e)
  let all := (List.range (recE r)).map kept
  ((all.zipIdx.flatMap fun (l, e) => l.map fun (t, b) => (e, t, b)),
    all.zipIdx.map fun (l, e) =>
      if cap e ≠ 0 ∧ l.length = cap e then (match l.getLast? with | some (_, b) => b | none => priceAt p e) else priceAt p e)

/-- The fill (R279): holders after it and the number of pairs filled. -/
def auctionFill (r : BitVec 512) (score : Nat → Nat → Int) (caps p : List Nat) (h : List (Nat × Nat × Nat)) :
    List (Nat × Nat × Nat) × Nat :=
  (recGroups r).foldl (fun (h, n) g =>
    (List.range (recT r)).foldl (fun (h, n) t =>
      if unassigned h g t then
        let free := ((List.range (g.2 - g.1)).map (g.1 + ·)).filter fun e =>
          decide ((h.filter fun (f, _, _) => f == e).length < (caps[e]?).getD 0)
        match bestOf (fun e => score t e - (priceAt p e : Int)) free with
        | some e => (h ++ [(e, t, 0)], n + 1)
        | none => (h, n)
      else (h, n)) (h, n)) (h, 0)

/-- Whether every pair is assigned. -/
def allAssigned (r : BitVec 512) (h : List (Nat × Nat × Nat)) : Bool :=
  (recGroups r).all fun g => (List.range (recT r)).all fun t => !unassigned h g t

/-- The results in the order of AERD (R281). -/
def resultsOf (r : BitVec 512) (h : List (Nat × Nat × Nat)) : List Nat :=
  (List.range (recT r)).flatMap fun t => (recGroups r).map fun g =>
    match h.find? fun (e, u, _) => u == t && decide (g.1 ≤ e) && decide (e < g.2) with | some (e, _, _) => e | none => 0xFFFF

/-! ## Scores (R276) -/

/-- The score of a logit and a bias, and whether it was clamped. -/
def scoreOf (logit bias : W32) : Int × Bool :=
  let a := fp32.decode logit
  match (addNum 0 a (fp32.decode bias).flip).1 with
  | .nan => (-32768, true)
  | .inf neg => (if neg then -32768 else 32767, true)
  | .fin neg m e => satTo (-32768) 32767 (roundInt 0 neg m (e + 8) false).1

/-! ## Effects (R275, R281) -/

/-- The engine with a slot replaced. -/
def Ae.setSlot (e : Ae) (n : Nat) (x : AeSlot) : Ae := { e with slots := PMap.put e.slots n x }

/-- The prices of a bank, from entry 0. -/
def Ae.bankPrices (e : Ae) (b n : Nat) : List Nat := (List.range n).map fun j => (e.price b j).toNat

/-- Prices written to a bank from entry 0. -/
def Ae.setPrices (e : Ae) (b : Nat) (l : List Nat) : Ae :=
  { e with prices := l.zipIdx.foldl (fun m (p, j) => PMap.put m (512 * b + j) (BitVec.ofNat 24 p)) e.prices }

/-- A run starts (R279). -/
def Ae.startRun (e : Ae) (n : Nat) (q : AeEntry) (deadline : Nat) : Ae :=
  let x := e.slot n
  e.setSlot n { x with
    state := 1, rounds := 0, filled := 0, holders := [], prices := rebase x.record (e.bankPrices x.bank x.e)
    deadline := deadline, core := q.core, launch := q.launch }

/-- The bytes that AERD and AEPR write (R281). -/
def Ae.output (e : Ae) : AeCmd → List Byte
  | .rd n _ =>
    let x := e.slot n
    (if x.results.isEmpty then List.replicate (recT x.record * recG x.record) 0xFFFF else x.results).flatMap
      fun v => leBytes (BitVec.ofNat 16 v) 2
  | .pr b _ => (e.bankPrices b 512).flatMap fun v => leBytes (BitVec.ofNat 32 v) 4
  | .cfg _ _ | .sc _ _ _ | .cap _ _ | .run _ _ | .pw _ _ | .stat _ => []

/-- The output words that a command has not written yet are written, and the granules that it wrote become full (R275). -/
def State.aeWrite (s : State) (q : AeEntry) (l : AeLoc) (bs : List Byte) : State :=
  (if q.put.isEmpty then s.cmdPut q.core q.launch l.loc bs
    else ((List.range ((bs.length + 3) / 4)).filter fun i => !q.put.contains i).foldl
      (fun s i => s.cmdPut q.core q.launch (l.loc.plus (4 * i)) ((bs.drop (4 * i)).take 4)) s).cmdFill q.core q.launch l.loc bs.length

/-- The effects of a command that has started, and the bytes that its status counts. -/
def State.runAe (s : State) (d : Nat) (q : AeEntry) : State × Nat :=
  let e := (s.die d).ae
  match q.cmd with
  | .cfg n l =>
    let r := s.aeRead q l
    (s.setAe d (e.setSlot n (if r.getLsbD 0 then { AeSlot.empty with record := r, caps := defaultCaps r } else AeSlot.empty)), 64)
  | .sc n l b =>
    let x := e.slot n
    let k := recT x.record * recE x.record
    let logits := elemsOf 4 k (s.aeInput q l 0 (4 * k))
    let biases := elemsOf 4 (recE x.record) (s.aeInput q b (2 ^ 24) (4 * recE x.record))
    let l := logits.zipIdx.map fun (v, i) => scoreOf v ((biases[i % recE x.record]?).getD 0)
    let bs := l.flatMap fun (v, _) => leBytes (BitVec.ofInt 16 v) 2
    (s.setAe d (({ e with scores := e.scores.writeBytes (recBase x.record) bs } : Ae).setSlot n
      { x with hasScores := true, clamps := (l.filter (·.2)).length }), 4 * k + 4 * recE x.record)
  | .cap n none =>
    let x := e.slot n
    (s.setAe d (e.setSlot n { x with caps := defaultCaps x.record }), 0)
  | .cap n (some l) =>
    let x := e.slot n
    let c := (elemsOf 2 (recE x.record) (s.aeInput q l 0 (2 * recE x.record))).map (·.toNat)
    (s.setAe d (e.setSlot n { x with caps := c }), 2 * recE x.record)
  | .run _ _ => (s, 0)
  | .rd _ l | .pr _ l =>
    let bs := e.output q.cmd
    (s.aeWrite q l bs, bs.length)
  | .pw b l =>
    (s.setAe d (e.setPrices b ((elemsOf 4 512 (s.aeInput q l 0 2048)).map fun w => w.toNat % 2 ^ 24)), 2048)
  | .stat _ => (s, 0)

/-- A command leaves the queue, with its result in its thread. -/
def State.aeDone (s : State) (d : Nat) (q : AeEntry) (v : W64) : State :=
  let e := (s.die d).ae
  (s.setAe d { e with queue := e.queue.filter fun f => f.seq != q.seq }).deliverTo q.core q.launch q.thr q.inc q.rd v

/-- The input of a command: its places, each with the number of its first word and its size in bytes. -/
def Ae.inputs (e : Ae) : AeCmd → List (AeLoc × Nat × Nat)
  | .cfg _ l => [(l, 0, 64)]
  | .sc n l b =>
    let r := (e.slot n).record
    [(l, 0, 4 * recT r * recE r), (b, 2 ^ 24, 4 * recE r)]
  | .cap n (some l) => [(l, 0, 2 * recE (e.slot n).record)]
  | .pw _ l => [(l, 0, 2048)]
  | .cap _ none | .run _ _ | .rd _ _ | .pr _ _ | .stat _ => []

/-- A command with those words of its input read that `pick` takes of as many, unless it has read them before. -/
def State.aeFetch (s : State) (d : Nat) (q : AeEntry) (pick : Nat → List Nat) : AeEntry :=
  { q with got := ((s.die d).ae.inputs q.cmd).foldl (fun m (l, first, size) =>
      (pick ((size + 3) / 4)).foldl (fun m i =>
        if (PMap.find? m (first + i)).isSome then m
        else m.put (first + i) (s.cmdBytes q.core q.launch (l.loc.plus (4 * i)) (min 4 (size - 4 * i)))) m) q.got }

/-- A command that starts: one whose start check looks at its input has read it (R274). -/
def State.aeBegin (s : State) (d : Nat) (q : AeEntry) : AeEntry :=
  { (match q.cmd with
    | .cfg _ _ | .cap _ _ => s.aeFetch d q List.range
    | .sc _ _ _ | .run _ _ | .rd _ _ | .pr _ _ | .pw _ _ | .stat _ => q) with started := true }

/-- The engine with an entry of its queue replaced. -/
def Ae.put (e : Ae) (q : AeEntry) : Ae := { e with queue := e.queue.map fun f => if f.seq = q.seq then q else f }

/-- AE_COMMAND_START (R274, R275, R282): a command held by no earlier one makes its start checks; AERUN starts its run, AESTAT reads
the run word. -/
def execAeCommandStart (die pos : Nat) (s : State) : Out :=
  match (s.die die).ae.queue[pos]? with
  | none => .next s
  | some q =>
    let e := (s.die die).ae
    if q.started || !s.aeFree die q || !s.aeNext die q then .next s
    else match q.cmd, s.aeStartFail die q with
      | .stat n, _ => .next (s.aeDone die q (e.slot n).runWord)
      | .run n t, 0 => .next (s.setAe die ((e.startRun n q t).put { q with started := true }))
      | .run n _, r => .next ((s.setAe die (e.setSlot n { e.slot n with reason := r })).aeDone die q 0)
      | _, 0 => .next (s.setAe die (e.put (s.aeBegin die q)))
      | _, r => .next (s.aeDone die q (aeStatus r 0))

/-- AE_COMMAND_COMPLETE (R275, R282): the reads and writes of the started command that the engine serves have been performed, wherever the
region of its context is (R284), and its status word arrives. -/
def execAeCommandComplete (die pos : Nat) (s : State) : Out :=
  match (s.die die).ae.queue[pos]? with
  | none => .next s
  | some q =>
    if !q.started || !q.cmd.pieces || !s.aeServed die q then .next s
    else
      let (s, n) := s.runAe die q
      .next (s.aeDone die q (aeStatus 0 n))

/-- A started command as time passes (R275): it reads some of its input, or writes some of its output, a free choice; `j` is the first of
its free words. -/
def State.aeMove (s : State) (d j : Nat) (q : AeEntry) : State :=
  if !q.started then s
  else
    let e := (s.die d).ae
    match q.cmd with
    | .rd _ l | .pr _ l =>
      let bs := e.output q.cmd
      let w := (s.freeSome j ((bs.length + 3) / 4)).filter fun i => !q.put.contains i
      (w.foldl (fun s i => s.cmdPut q.core q.launch (l.loc.plus (4 * i)) ((bs.drop (4 * i)).take 4)) s).setAe d
        (e.put { q with put := q.put ++ w })
    | .sc _ _ _ | .pw _ _ => s.setAe d (e.put (s.aeFetch d q (s.freeSome j)))
    | .cfg _ _ | .cap _ _ | .run _ _ | .stat _ => s

/-- As time passes, the commands that have started read and write some of what is left to them (R13, R275; log 23). -/
def State.aesMove (s : State) : State :=
  s.dies.foldl (fun s (d, x) => x.ae.queue.foldl (fun s q => s.aeMove d (2 ^ 44 + (d * 64 + q.seq % 64) * 2 ^ 22) q) s) s

/-! ## Rounds and ends (R278, R279, R282) -/

/-- Whether a run leaves its loop: all assigned, its round limit reached, or its deadline passed. -/
def AeSlot.over (x : AeSlot) (now : Nat) : Bool :=
  allAssigned x.record x.holders || x.rounds == recLim x.record || (x.deadline != 0 && decide (x.deadline ≤ now))

/-- The slots that the engine's current turn still serves (R282): each running priority slot in increasing order, then the
next ordinary one. A turn that has served all begins again. -/
def State.turnNow (s : State) (d : Nat) : List Nat :=
  let e := (s.die d).ae
  let runs (n : Nat) : Bool := (e.slot n).state == 1
  match e.turn.filter runs with
  | [] =>
    let prio := (List.range 16).filter fun n => runs n && s.isAdmitted (e.slot n).launch
    let rest := ((List.range 16).map fun j => (e.served + 1 + j) % 16).filter fun n => runs n && !s.isAdmitted (e.slot n).launch
    prio ++ rest.take 1
  | l => l

/-- AE_ROUND (R278): the engine serves one round of the next slot of its turn. -/
def execAeRound (die slot : Nat) (s : State) : Out :=
  let e := (s.die die).ae
  let x := e.slot slot
  if x.state ≠ 1 ∨ (s.turnNow die).head? ≠ some slot ∨ x.over s.now then .next s
  else
    let (h, p) := auctionRound x.record (e.score x.record) x.caps x.prices x.holders
    let e := { e with turn := (s.turnNow die).drop 1, served := if s.isAdmitted x.launch then e.served else slot }
    let s := s.setAe die (e.setSlot slot { x with holders := h, prices := p, rounds := x.rounds + 1 })
    .next (if s.isAdmitted x.launch then s.updLaunch x.launch fun l => { l with rounds := l.rounds + 1 } else s)

/-- AE_RUN_END (R279): the run converges or is filled; prices and results are written back. -/
def execAeRunEnd (die slot : Nat) (s : State) : Out :=
  let e := (s.die die).ae
  let x := e.slot slot
  if x.state ≠ 1 ∨ !x.over s.now then .next s
  else
    let done := allAssigned x.record x.holders
    let (h, n) := if done then (x.holders, 0) else auctionFill x.record (e.score x.record) x.caps x.prices x.holders
    let e := (e.setPrices x.bank x.prices).setSlot slot { x with
      state := if done then 2 else 3, filled := n, reason := 0, results := resultsOf x.record h, prices := [], holders := [] }
    .next (s.setAe die { e with queue := e.queue.filter fun q => !(q.started && q.cmd.slot == some slot) })

end Sys2Proof.Machine
end

