-- ==== Sys2Proof/Machine/Branch.lean ====
section
/-!
DEFINITION. Branches and jumps (R86–R88).
-/

namespace Sys2Proof.Machine

open Sys2Proof

/-- The thread at a new PC after a branch or jump: its next instruction issues at tick `at_` or later (R80). -/
def Thread.goto (t : Thread) (pc : W64) (at_ : Nat) : Thread := { t with pc := pc, stall := none, readyAt := at_ }

/-- Cycles from a branch or jump to the thread's next instruction (R80). -/
def jumpCycles : Nat := 2

/-- The target `k` words away (R86, R87). -/
def relTarget {w : Nat} (pc : W64) (off : BitVec w) : W64 := pc + 4 * sx off

/-- A conditional branch (R86). -/
def branch (cond : W64 → W64 → Bool) (ra rs : SReg) (imm : BitVec 14) (s : State) : Out :=
  ready [ra, rs] s fun s =>
    let t := s.th
    .next (s.setTh (t.goto (if cond (t.reg ra) (t.reg rs) then relTarget t.pc imm else t.pc + 4) (s.now + jumpCycles)))

/-- BEQ (R86). -/
def execBeq (ra rs : SReg) (imm : BitVec 14) (s : State) : Out := branch (fun a b => a == b) ra rs imm s

/-- BNE (R86). -/
def execBne (ra rs : SReg) (imm : BitVec 14) (s : State) : Out := branch (fun a b => a != b) ra rs imm s

/-- BLT (R86). -/
def execBlt (ra rs : SReg) (imm : BitVec 14) (s : State) : Out := branch (fun a b => a.slt b) ra rs imm s

/-- BGE (R86). -/
def execBge (ra rs : SReg) (imm : BitVec 14) (s : State) : Out := branch (fun a b => !a.slt b) ra rs imm s

/-- BLTU (R86). -/
def execBltu (ra rs : SReg) (imm : BitVec 14) (s : State) : Out := branch (fun a b => a.ult b) ra rs imm s

/-- BGEU (R86). -/
def execBgeu (ra rs : SReg) (imm : BitVec 14) (s : State) : Out := branch (fun a b => !a.ult b) ra rs imm s

/-- J (R87). -/
def execJ (off : BitVec 24) (s : State) : Out := .next (s.setTh (s.th.goto (relTarget s.th.pc off) (s.now + jumpCycles)))

/-- JAL (R87): `s1` takes the address of the next word, and is waited for (R81). -/
def execJal (off : BitVec 24) (s : State) : Out :=
  ready [1] s fun s => .next (s.setTh ((s.th.setReg 1 (s.th.pc + 4)).goto (relTarget s.th.pc off) (s.now + jumpCycles)))

/-- JALR to a sum, with its length (R87): RA is read before `s1` is written, and bits [1:0] of the target are
ignored. -/
def jumpReg (len : W64) (ra : SReg) (off : W64) (s : State) : Out :=
  ready [ra, 1] s fun s =>
    .next (s.setTh ((s.th.setReg 1 (s.th.pc + len)).goto ((s.reg ra + off) &&& ~~~3) (s.now + jumpCycles)))

/-- JALR (R87). -/
def execJalr (ra : SReg) (imm : BitVec 14) (s : State) : Out := jumpReg 4 ra (sx imm) s

/-- JALR with a literal (R87). -/
def execJalrLit (ra : SReg) (lit : W64) (s : State) : Out := jumpReg 12 ra lit s

end Sys2Proof.Machine
end

