-- ==== Sys2Proof/Machine/Collect.lean ====
section
/-!
DEFINITION. Collectives (R318–R326): COLL and COLLW, the checks at hand-over, the values of an instance, chunks and spill.
-/

namespace Sys2Proof.Machine

open Sys2Proof

/-! ## Descriptors and layouts (R320, R322) -/

/-- Fields of a descriptor. -/
def collTy (d : BitVec 512) : Nat := (d.extractLsb' 0 4).toNat
/-- The operation. -/
def collOp (d : BitVec 512) : Nat := (d.extractLsb' 8 4).toNat
/-- The group word. -/
def collGrp (d : BitVec 512) : BitVec 16 := d.extractLsb' 16 16
/-- The instance number. -/
def collInst (d : BitVec 512) : BitVec 16 := d.extractLsb' 32 16
/-- The input layout. -/
def collIn (d : BitVec 512) : BitVec 16 := d.extractLsb' 256 16
/-- The output layout. -/
def collOut (d : BitVec 512) : BitVec 16 := d.extractLsb' 272 16
/-- The size of mesh axis `k`. -/
def collMesh (d : BitVec 512) (k : Nat) : Nat := (d.extractLsb' (288 + 8 * k) 8).toNat
/-- The global size of dimension `j`. -/
def collSize (d : BitVec 512) (j : Nat) : Nat := (d.extractLsb' (320 + 16 * j) 16).toNat
/-- The address of the input shard. -/
def collSrc (d : BitVec 512) : W64 := d.extractLsb' 384 64
/-- The address of the output shard. -/
def collDst (d : BitVec 512) : W64 := d.extractLsb' 448 64

/-- The partial axes of a layout. -/
def layPart (l : BitVec 16) (k : Nat) : Bool := l.getLsbD (12 + k)

/-- The shard code of dimension `j`. -/
def layShard (l : BitVec 16) (j : Nat) : Nat := (l.extractLsb' (3 * j) 3).toNat

/-- The axis that a dimension is sharded over. -/
def layAxis (l : BitVec 16) (j : Nat) : Option Nat := match layShard l j with | 0 => none | n + 1 => some n

/-- An axis shards a dimension. -/
def layShards (l : BitVec 16) (k : Nat) : Bool := (List.range 4).any fun j => layAxis l j == some k

/-- The coordinate of a rank on an axis (R320). -/
def meshCoord (d : BitVec 512) (r k : Nat) : Nat :=
  r / ((List.range k).map (collMesh d)).prod % collMesh d k

/-- The members that a mesh asks for. -/
def meshCount (d : BitVec 512) : Nat := ((List.range 4).map (collMesh d)).prod

/-- The local size of a dimension under a layout. -/
def localSize (d : BitVec 512) (l : BitVec 16) (j : Nat) : Nat :=
  match layAxis l j with | some k => collSize d j / collMesh d k | none => collSize d j

/-- Element size (R177). -/
def collEs (d : BitVec 512) : Nat := match collTy d with | 0 | 5 | 6 => 4 | 1 | 2 | 7 => 2 | _ => 1

/-- Check LAYOUT (R323). -/
def layoutOk (d : BitVec 512) (count : Nat) : Bool :=
  let li := collIn d
  let lo := collOut d
  let axes (l : BitVec 16) : Bool :=
    (List.range 4).all (fun j => decide (layShard l j ≤ 4)) &&
      (List.range 4).all (fun k => decide (((List.range 4).filter fun j => layAxis l j == some k).length ≤ 1)) &&
      (List.range 4).all (fun k => !(layShards l k && layPart l k)) &&
      (List.range 4).all fun j => match layAxis l j with | some k => collMesh d k != 0 && collSize d j % collMesh d k == 0 | none => true
  let part := li.extractLsb' 12 4 != 0
  d.extractLsb' 48 208 == 0 && d.extractLsb' 12 4 == 0 && d.extractLsb' 4 4 == 0 && decide (collOp d ≤ 2) && axes li && axes lo &&
    lo.extractLsb' 12 4 == 0 && (List.range 4).all (fun j => collSize d j != 0) && meshCount d == count &&
    decide (collTy d ≤ 9) && (!part || collTy d == 0 || collTy d == 1 || collTy d == 5) && (part || collOp d == 0)

/-! ## Values (R321) -/

/-- Global index vectors of the shard of a rank, dense order. -/
def shardIndices (d : BitVec 512) (l : BitVec 16) (r : Nat) : List (List Nat) :=
  let base (j : Nat) : Nat := match layAxis l j with | some k => meshCoord d r k * localSize d l j | none => 0
  (indices ((List.range 4).map fun j => (⟨0, localSize d l j, 0, 0⟩ : Dim))).map fun i => i.zipIdx.map fun (v, j) => v + base j

/-- A rank's shard holds an element. -/
def holds (d : BitVec 512) (l : BitVec 16) (r : Nat) (x : List Nat) : Bool :=
  x.zipIdx.all fun (v, j) => match layAxis l j with | some k => v / localSize d l j == meshCoord d r k | none => true

/-- The place of an element in a shard that holds it. -/
def placeIn (d : BitVec 512) (l : BitVec 16) (x : List Nat) : Nat :=
  (x.zipIdx.foldr (fun (v, j) n => v % localSize d l j + localSize d l j * n) 0)

/-- The ranks whose copies of an element are used: on no axis outside the layout's a coordinate other than 0. -/
def copiesOf (d : BitVec 512) (count : Nat) (x : List Nat) : List Nat :=
  let l := collIn d
  (List.range count).filter fun r => holds d l r x &&
    (List.range 4).all fun k => layShards l k || layPart l k || meshCoord d r k == 0

/-- The widened value of an element for a fold. -/
def collWiden (d : BitVec 512) (x : W32) : W32 := if collTy d = 1 then (fp32.roundNum 0 (bf16.decode x)).1 else x

/-- max or min of two elements (R208). -/
def collPick (d : BitVec 512) (x y : W32) : W32 :=
  let hi := collOp d == 1
  if collTy d = 5 then (if decide (x.toInt < y.toInt) == hi then y else x)
  else
    let (a, b) := (fp32.decode x, fp32.decode y)
    if a = .nan ∨ b = .nan then fp32.nan
    else if a.isZero && b.isZero then (if a.neg == b.neg then x else fp32.zero (!hi))
    else if ltNum a b == hi then y else x

/-- One step of the fold. -/
def collStep (d : BitVec 512) (x y : W32) : W32 :=
  if collOp d = 0 then (if collTy d = 5 then x + y else addF32 x y) else collPick d x y

/-- The output of an element from its copies in ascending rank order (R321). A fold of a single FP32 copy that is a NaN gives the canonical NaN, as
every fold step does (DESIGN CHOICE, log 116). -/
def collFold (d : BitVec 512) (vs : List W32) : W32 :=
  if (collIn d).extractLsb' 12 4 = 0 then vs.headD 0
  else match vs with
    | [] => 0
    | v :: l =>
      let r := l.foldl (fun a x => collStep d a (collWiden d x)) (collWiden d v)
      if collTy d = 1 then (bf16.roundNum 0 (fp32.decode r)).1
      else if collTy d = 0 ∧ fp32.decode r = .nan then fp32.nan
      else r

/-- The output shard of a rank, from every rank's input shard. -/
def collOutput (d : BitVec 512) (count rank : Nat) (shard : Nat → List W32) : List W32 :=
  (shardIndices d (collOut d) rank).map fun x =>
    collFold d ((copiesOf d count x).map fun r => ((shard r)[placeIn d (collIn d) x]?).getD 0)

/-! ## Groups (R318, R319, R324) -/

/-- The entry that a group word names. -/
def State.group (s : State) (grp : BitVec 16) : Group := s.groups.get (grp.extractLsb' 4 12).toNat Group.reset

/-- The state with that entry replaced. -/
def State.setGroup (s : State) (grp : BitVec 16) (g : Group) : State :=
  { s with groups := PMap.put s.groups (grp.extractLsb' 4 12).toNat g }

/-- The place of a group's member array in home memory (R319). -/
def Group.arrayKey (g : Group) : Nat := Config.device * 2 ^ 41 + g.members.toNat

/-- The member array's entry of a rank (R319). -/
def State.memberWord (s : State) (g : Group) (r : Nat) : W64 :=
  match g.array[r]? with
  | some w => w
  | none => s.home.readLE (g.arrayKey + 8 * r) 8 64

/-- A poisoned line of home memory that reading a group's member array meets (R329). -/
def State.membersLine (s : State) (g : Group) : Option Nat :=
  if !g.array.isEmpty then none
  else s.poison.find? fun l => decide (l < g.arrayKey + 8 * g.count.toNat) && decide (g.arrayKey < l + 64)

/-- The device of this domain that a member is, if it is one. -/
def memberDevice (e : W64) : Option Nat := if e.getLsbD 63 then none else some (e.extractLsb' 0 48).toNat

/-- This device is the member that the entry's rank says (R319). -/
def State.isMember (s : State) (g : Group) : Bool :=
  decide (g.rank.toNat < g.count.toNat) && memberDevice (s.memberWord g g.rank.toNat) == some Config.device

/-- A member of a group is unreachable (R313, R323): a device of the domain that this one or that one has left, or that no Zhevlink port leads
to; over Ultra Ethernet, a peer that has been reported so. -/
def State.memberLost (s : State) (g : Group) : Bool :=
  (List.range g.count.toNat).any fun r =>
    let w := s.memberWord g r
    match memberDevice w with
    | some d => d != Config.device && (s.domainLost || s.goneDevices.contains d || s.zhevDead == BitVec.allOnes 16)
    | none => s.goneEndpoints.contains (w.extractLsb' 0 48).toNat

/-- The number of a group. -/
def groupId (grp : BitVec 16) : Nat := (grp.extractLsb' 4 12).toNat

/-- An instance of a group's present generation. -/
def Instance.of (i : Instance) (id : Nat) : Bool := i.current && groupId i.grp == id

/-- The latest instance of a group that this device has started and that has ended here. -/
def State.finishedHere (s : State) (id : Nat) : Option (BitVec 16) :=
  ((s.instances.filter fun i => i.of id && i.started && i.status.isSome).getLast?).map (·.inst)

/-- F goes on towards the latest instance that has ended here, by `n` steps, or all the way on a group of one member, which has no other to
wait for (R319, R324; log 18). -/
def State.finishMore (s : State) (id n : Nat) : State :=
  match PMap.find? s.groups id, s.finishedHere id with
  | some g, some last =>
    let room := (last - g.f).toNat
    { s with groups := PMap.put s.groups id { g with f := g.f + BitVec.ofNat 16 (if g.count = 1 then room else n % (room + 1)) } }
  | _, _ => s

/-! ## An instance starts and ends (R323–R325) -/

/-- The state with an instance replaced; instances are told apart by their place. -/
def State.setInstance (s : State) (pos : Nat) (i : Instance) : State := { s with instances := s.instances.set pos i }

/-- An instance ends with a status; the chunks of one that was started are done with. -/
def State.endInstance (s : State) (pos : Nat) (i : Instance) (status : Nat) : State :=
  let s := s.setInstance pos { i with status := some status }
  if i.started then
    ({ s with chunks := s.chunks.filter fun c => !(c.grp == i.grp && c.inst == i.inst) } : State).finishMore (groupId i.grp) 0
  else s

/-- The first source number of the communication processors (R135). -/
def commSource (p : Nat) : Nat := 2320 + p

/-- A transfer that stands for an instance's accesses to src and dst; its number, beyond every transfer's, is the instance's own. -/
def State.collUser (s : State) (i : Instance) : Transfer :=
  { s.transfer Ctx.reset i.core true true false false false (collSrc i.desc) (collDst i.desc) 0 0 0 0 .plain with
    no := 2 ^ 64 + i.grp.toNat * 65536 + i.inst.toNat, launch := i.launch, ctxid := i.ctxid, after := i.after,
    shape := ⟨1, collTy i.desc, false, []⟩, trans := i.trans }

/-- The elements of a shard in shared memory: addresses. -/
def shardAddrs (d : BitVec 512) (a : W64) (n : Nat) : List W64 :=
  (List.range n).map fun j => a + BitVec.ofNat 64 (j * collEs d)

/-- The number of elements of a shard under a layout. -/
def shardLen (d : BitVec 512) (l : BitVec 16) : Nat := ((List.range 4).map (localSize d l)).prod

/-- The addresses of the elements of an instance's input that it has still to read. -/
def Instance.unread (i : Instance) : List W64 :=
  (shardAddrs i.desc (collSrc i.desc) (shardLen i.desc (collIn i.desc))).drop i.got.length

/-- The accesses that an instance still makes, by page. -/
def Instance.accesses (i : Instance) : List (Access × W64) :=
  (pagesOf i.unread).map (fun a => (.copyRead, a)) ++
    (pagesOf (shardAddrs i.desc (collDst i.desc) (shardLen i.desc (collOut i.desc)))).map fun a => (.copyWrite, a)

/-- The checks at hand-over before DENY, in the order of R323; none where they all pass. -/
def State.collRefuse (s : State) (i : Instance) : Option Nat :=
  let g := s.group i.grp
  let n := i.inst
  let dup := s.instances.any fun j => j.current && j.started && j.grp == i.grp && j.inst == n
  if s.isAdmitted i.launch then some 9
  else if !g.v || g.gen != i.grp.extractLsb' 0 4 || !s.isMember g then some 2
  else if n ≠ g.s + 1 then some (if dup then 4 else 3)
  else if 2 < (n - g.f).toNat then some 1
  else if !layoutOk i.desc g.count.toNat then some 5
  else none

/-- An instance as it is handed over is checked, and started where no check fails: S is then its number. DENY, the last, takes its
translations (R170, R323), through the copy engine's TLB and the TSC of the issuing core's cluster: R162 names none for a collective (DESIGN
CHOICE, log 110). -/
def State.handOver (s : State) (pos : Nat) (i : Instance) : State :=
  match s.membersLine (s.group i.grp) with
  | some key => s.consumeLine i.core key
  | none =>
    match s.collRefuse i with
    | some n => s.endInstance pos i n
    | none =>
      match s.pages (clusterOf i.core) (s.collUser i) i.accesses with
      | (.denied, _, s) => s.endInstance pos i 6
      | (.waiting, t, s) => s.setInstance pos { i with trans := t.trans }
      | (.ok, t, s) =>
        (s.setInstance pos { i with started := true, trans := t.trans, group := s.group i.grp }).setGroup i.grp { s.group i.grp with s := i.inst }

/-- The place of the first instance of a group whose checks at hand-over are not over: the others of the group wait behind it. -/
def State.uncheckedInstance (s : State) (id : Nat) : Option (Instance × Nat) :=
  (s.instances.zipIdx.filter fun (i, _) => groupId i.grp == id && !i.started && i.status.isNone).head?

/-- The checks of a group's hand-overs go on. -/
def State.handOverNext (s : State) (id : Nat) : State :=
  match s.uncheckedInstance id with
  | some (i, pos) => s.handOver pos i
  | none => s

/-! ## COLL and COLLW (R323) -/

/-- COLL (R323). -/
def execColl (rd ra : SReg) (s : State) : Out :=
  ready [ra, rd] s fun s => phaseCheck true (xeWord 32 0 ra rd) s fun s =>
    match engineLoc s.focus s.ctx (s.reg ra) 64 with
    | none => copyFail rd poison64 s
    | some l =>
      let d := BitVec.ofNat 512 (leNat (s.engineBytes s.focus l 64))
      let i : Instance := ⟨collGrp d, collInst d, s.focus, s.ctx.launch, s.ctx.ctxid, d, s.relAfter s.focus s.ctx.launch, none, none, [],
        false, true, [], [], Group.reset⟩
      result 12 rd ((collGrp d ++ collInst d).setWidth 64)
        (({ s with instances := s.instances ++ [i] } : State).handOverNext (groupId (collGrp d)))

/-- COLLW (R323): the status of the most recent instance with the handle, once it has one. -/
def execCollw (rd ra : SReg) (s : State) : Out :=
  ready [ra, rd] s fun s => phaseCheck true (xeWord 33 0 ra rd) s fun s =>
    let a := s.reg ra
    if a.extractLsb' 32 32 ≠ 0 then copyFail rd poison64 s
    else
      let inst : BitVec 16 := a.extractLsb' 0 16
      let word (n : Nat) : W64 := (inst ++ BitVec.ofNat 16 n).setWidth 64
      match (s.instances.filter fun i => i.grp == a.extractLsb' 16 16 && i.inst == inst).getLast? with
      | none => result 12 rd (word 10) s
      | some i =>
        waitFor 12 i.status.isSome s fun s => result 12 rd (word (i.status.getD 0)) s

/-! ## Chunks (R324, R326) -/

/-- Chunk slots of a communication processor, and the processors of a device (R326). -/
def chunkSlots : Nat := 512
/-- The communication processors of a device. -/
def commProcs : Nat := 26

/-- Elements of a chunk at most: 4 KiB of 32-bit elements (log 30). -/
def chunkElems : Nat := 1024

/-- A processor has a free slot. -/
def State.chunkSlotFree (s : State) (p : Nat) : Bool :=
  decide ((s.chunks.filter fun c => c.proc == p && c.place == .slot).length < chunkSlots)

/-- The pool has room for a chunk. -/
def State.poolRoom (s : State) : Bool := decide ((s.chunks.filter fun c => c.place == .pool).length < s.poolChunks)

/-- A chunk that comes to a processor after those in `before`: into a slot, or into the pool behind what it holds of that processor; with no
room its sender holds it. -/
def State.placeFor (s : State) (before : List Chunk) (p : Nat) : ChunkPlace :=
  if before.any fun c => c.proc == p && c.place == .sender then .sender
  else if s.chunkSlotFree p && !before.any fun c => c.proc == p && c.place == .pool then .slot
  else if s.poolRoom then .pool
  else .sender

/-- One more chunk has been spilled. -/
def State.countSpill (s : State) (p : ChunkPlace) : State :=
  if p = .pool then { s with spillCount := if s.spillCount = 0xFFFFFFFF then 0xFFFFFFFF else s.spillCount + 1 } else s

/-- An instance of a group's present generation that has ended on this device: its chunks are done with. -/
def State.overHere (s : State) (grp inst : BitVec 16) : Bool :=
  match (s.instances.filter fun i => i.current && i.started && i.grp == grp && i.inst == inst).getLast? with
  | some i => i.status.isSome && decide (((s.group grp).s - inst).toNat < 32768)
  | none => false

/-- A chunk's generation is not its group's (R318). -/
def State.oldGroup (s : State) (grp : BitVec 16) : Bool := (s.group grp).gen != grp.extractLsb' 0 4

/-- A chunk of an old generation has been dropped (R318). -/
def State.staleChunk (s : State) : State := { s with staleChunks := if s.staleChunks = 0xFFFF then 0xFFFF else s.staleChunks + 1 }

/-- A chunk of an old generation that no running instance takes any more. -/
def State.chunkOver (s : State) (c : Chunk) : Bool :=
  s.oldGroup c.grp && !(s.instances.any fun i => i.started && i.status.isNone && i.grp == c.grp && i.inst == c.inst)

/-- The chunks of a condition are dropped and counted (R318). -/
def State.dropChunks (s : State) (p : Chunk → Bool) : State :=
  (s.chunks.filter p).foldl (fun s _ => s.staleChunk) { s with chunks := s.chunks.filter fun c => !p c }

/-- CHUNK_ARRIVAL (R318, R324, R326): the next of a member's input, at most a chunk of it, comes to a communication processor: dropped for
an old generation, buffered, spilled to the pool, or held by its sender. -/
def execChunkArrival (grp inst : BitVec 16) (sender : Nat) (data : List W32) (s : State) : Out :=
  if s.oldGroup grp then .next s.staleChunk
  else if s.overHere grp inst then .next s
  else
    let p := s.freeNat 5 % commProcs
    let place := s.placeFor s.chunks p
    .next (({ s with chunks := s.chunks ++ [⟨grp, inst, sender, data.take chunkElems, p, place⟩] } : State).countSpill place)

/-- The chunk at a place in the list goes elsewhere. -/
def State.moveChunk (s : State) (n : Nat) (p : ChunkPlace) : State :=
  ({ s with chunks := s.chunks.modify n fun c => { c with place := p } } : State).countSpill p

/-- SPILL_REFETCH (R326): the first chunk that was spilled for a processor with a free slot comes back. -/
def execSpillRefetch (s : State) : Out :=
  match s.chunks.zipIdx.find? fun (c, _) => c.place == .pool && s.chunkSlotFree c.proc with
  | some (_, n) => .next (s.moveChunk n .slot)
  | none => .next s

/-- Chunks that their senders hold come in as room permits, in their order; those of an old generation are dropped as they come (R318). -/
def State.admitChunks (s : State) : State :=
  let s := s.dropChunks fun c => c.place == .sender && s.oldGroup c.grp
  (List.range s.chunks.length).foldl (fun s n => match s.chunks[n]? with
    | some c => if c.place = .sender then
        match s.placeFor (s.chunks.take n) c.proc with
        | .sender => s
        | p => s.moveChunk n p
      else s
    | none => s) s

/-- What an instance takes of the chunks in slots, of each sender in the order of its chunks, and the chunks that stay. -/
def takeChunks (grp inst : BitVec 16) : List Chunk → List Nat → PMap (List W32) → PMap (List W32) × List Chunk
  | [], _, m => (m, [])
  | c :: cs, held, m =>
    if c.grp == grp && c.inst == inst then
      if c.place = .slot ∧ !held.contains c.sender then
        takeChunks grp inst cs held (PMap.put m c.sender (PMap.get m c.sender [] ++ c.data))
      else
        let (m, l) := takeChunks grp inst cs (c.sender :: held) m
        (m, c :: l)
    else
      let (m, l) := takeChunks grp inst cs held m
      (m, c :: l)

/-! ## An instance runs (R321, R325) -/

/-- Every other member's input is here. -/
def Instance.allChunks (i : Instance) (g : Group) : Bool :=
  (List.range g.count.toNat).all fun r => r == g.rank.toNat ||
    decide (shardLen i.desc (collIn i.desc) ≤ (PMap.get i.taken r []).length)

/-- Elements read from their homes. -/
def State.readShard (s : State) (t : Transfer) (l : List W64) : List W32 :=
  l.map fun a => BitVec.ofNat 32 (leNat (match t.entry s.now .copyRead a with
    | some e => s.home.bytes (e.key a.toNat) t.shape.es
    | none => []))

/-- The first `n` of a list of addresses, and those after them that lie in the same granule, which is read whole (R325). -/
def wholeGranules (l : List W64) (n : Nat) : List W64 :=
  match n, l[n - 1]? with
  | 0, _ => []
  | _, some a => l.take (n + ((l.drop n).takeWhile fun b => b.toNat / 16 == a.toNat / 16).length)
  | _, none => l

/-- The output of an instance that has read its input is formed and its publication made (R321, R325). -/
def State.runInstance (s : State) (pos : Nat) (i : Instance) (g : Group) : State :=
  let d := i.desc
  let shard (r : Nat) : List W32 := if r = g.rank.toNat then i.got else PMap.get i.taken r []
  let out := collOutput d g.count.toNat g.rank.toNat shard
  let vs : Vals := (shardAddrs d (collDst d) (shardLen d (collOut d))).zip (out.map fun v => leBytes v (collEs d))
  let id := s.ids
  let s := s.publish (commSource 0) true .sys none i.core i.launch true true (s.shadowOf (s.collUser i) vs) (some s.now)
  s.setInstance pos { i with pub := some id, got := [], taken := [], trans := [] }

/-- A running instance goes on: its pages translate, its members can be reached, and no read is earlier than R157 allows. It takes the
chunks in their slots, reads `n` of the elements left, or all, and with every member's input here it then publishes its output. -/
def State.advanceInstance (s : State) (pos : Nat) (i : Instance) (n : Option Nat) : State :=
  let g := i.group
  let k := clusterOf i.core
  match s.membersLine g with
  | some key => s.consumeLine i.core key
  | none =>
    let acc := i.accesses
    match s.pages k (s.collUser i) acc with
    | (.denied, _, s) => s.endInstance pos i 6
    | (.waiting, t, s) => s.setInstance pos { i with trans := t.trans }
    | (.ok, t, s) =>
      let l := match n with | some n => wholeGranules i.unread n | none => i.unread
      if s.sideLost k t acc [] || s.memberLost g then s.endInstance pos i 7
      else
        let (taken, chunks) := takeChunks i.grp i.inst s.chunks [] i.taken
        let i := { i with trans := t.trans, taken := taken }
        let s := ({ s with chunks := chunks } : State).setInstance pos i
        if decide (s.now < i.after) || s.sideHeld k t acc [] || (n.isNone && !i.allChunks g) then s
        else match s.poisonedSource t (l.map fun a => ⟨some a, 0, []⟩) with
          | some key => s.consumeLine i.core key
          | none =>
            let s := s.settleHomes fun p => !p.engine && p.core == i.core && p.launch == i.launch && decide (p.app.getD 0 ≤ i.after)
            let i := { i with got := i.got ++ s.readShard t l }
            match n with
            | some _ => s.setInstance pos i
            | none => s.runInstance pos i g

/-- The place of the oldest running instance of a group (R324: instances of a group complete in number order). -/
def State.runningInstance (s : State) (grp : BitVec 16) : Option (Instance × Nat) :=
  (s.instances.zipIdx.filter fun (i, _) => i.grp == grp && i.started && i.status.isNone).head?

/-- COLL_INSTANCE_COMPLETE (R323–R325): the hand-overs of a group are checked as far as their translations have come, its oldest running
instance goes on, and once its publication has been applied it completes. -/
def execCollInstanceComplete (grp inst : BitVec 16) (s : State) : Out :=
  let s := s.handOverNext (groupId grp)
  match s.runningInstance grp with
  | none => .next s
  | some (i, pos) =>
    if i.inst ≠ inst then .next s
    else match i.pub with
      | some id => if s.pubs.any fun p => p.id == id && !p.applied then .next s else .next (s.endInstance pos i 0)
      | none => .next (s.advanceInstance pos i none)

/-- Another member's part of an instance has ended with LOST: this device's ends with LINK, unless its output is published (R325). -/
def State.peerLost (s : State) (grp inst : BitVec 16) : State :=
  match s.runningInstance grp with
  | some (i, pos) => if i.inst = inst ∧ i.pub.isNone then s.endInstance pos i 7 else s
  | none => s

/-- As time passes, hand-overs are checked, held chunks come in, running instances take chunks and read some of their input, a free choice
(R325; log 23), and F goes on (log 18). -/
def State.collsMove (s : State) : State :=
  if s.instances.isEmpty && s.chunks.isEmpty then s
  else
    let s := s.admitChunks
    let s := s.groups.foldl (fun s (id, _) => (s.handOverNext id).finishMore id (s.freeNat (2 ^ 29 + id))) s
    (List.range s.instances.length).foldl (fun s pos =>
      match s.instances[pos]? with
      | some i =>
        if (s.runningInstance i.grp).any (fun x => x.2 == pos) && i.pub.isNone then
          s.advanceInstance pos i (some (s.freeNat (2 ^ 30 + pos) % (i.unread.length + 1)))
        else s
      | none => s) s

end Sys2Proof.Machine
end

