-- ==== Sys2Proof/Machine/Comm.lean ====
section
/-!
DEFINITION. The COMM group: remote register writes (R120), presence bits (R121), streams (R122) and messages (R123), with
the events that carry them.
-/

namespace Sys2Proof.Machine

open Sys2Proof

/-! ## Targets (R120, R122, R123) -/

/-- The target core of a COMM instruction. -/
def targetCore (a : W64) : Nat := (a.extractLsb' 0 12).toNat

/-- `xval` of cause 10 (R69, R120). -/
def targetVal (a : W64) (w0 : W32) : W64 := (a.extractLsb' 0 12 ++ w0).setWidth 64

/-- The core number of the management mailbox (R348). -/
def mailbox : Nat := 0x800

/-- Whether the context of the launch on a core has ended (R349). -/
def State.hasEnded (s : State) (c launch : Nat) : Bool :=
  match s.ctxOf c launch with
  | some x => x.ended
  | none => false

/-! ## RSET and MSG (R120, R123) -/

/-- A packet leaves the issuing thread, which stalls until its answer reaches it (R120). -/
def State.send (s : State) (len : Nat) (p : Packet) : State :=
  ({ s with seq := s.seq + 1, packets := s.packets ++ [p] } : State).stall len 0 .packet

/-- RSET with its value (R120). -/
def rset (i : Instr) (len : Nat) (need : List SReg) (idx : BitVec 5) (ra : SReg) (b : State → W64) (s : State) : Out :=
  ready need s fun s => exchangeOnly i s fun s =>
    let a := s.reg ra
    let c := targetCore a
    let t := (a.extractLsb' 12 4).toNat
    match s.th.stall with
    | some _ => wait s
    | none =>
      if a.extractLsb' 16 48 ≠ 0 ∨ 8 ≤ dieOf c ∨ 10 < t ∨ !s.inSpread s.ctx.launch c ∨ s.cutOff (dieOf s.focus) (dieOf c) then
        trap 10 (targetVal a (w0Of i)) s
      else .next (s.send len ⟨false, s.focus, s.thr.val, s.ctx.launch, s.ctx.ctxid, c, t, idx, b s, w0Of i, s.now, s.seq, .flying, none,
        (s.die (dieOf s.focus)).inc, false⟩)

/-- RSET (R120). -/
def execRset (idx : BitVec 5) (ra rb : SReg) (s : State) : Out :=
  rset (.rset idx ra rb) 4 [ra, rb] idx ra (fun s => s.reg rb) s

/-- RSET with a literal (R120, R45). -/
def execRsetLit (idx : BitVec 5) (ra : SReg) (lit : W64) (s : State) : Out :=
  rset (.rsetLit idx ra lit) 12 [ra] idx ra (fun _ => lit) s

/-- MSG with its payload (R123): the management mailbox is accepted in supervisor mode only. -/
def msg (i : Instr) (len : Nat) (need : List SReg) (ra : SReg) (b : State → W64) (s : State) : Out :=
  ready need s fun s => exchangeOnly i s fun s =>
    let a := s.reg ra
    let c := targetCore a
    match s.th.stall with
    | some _ => wait s
    | none =>
      let bad := if c = mailbox then s.ctx.mode == .user
        else decide (8 ≤ dieOf c) || !s.inSpread s.ctx.launch c || s.hasEnded c s.ctx.launch || s.cutOff (dieOf s.focus) (dieOf c)
      if a.extractLsb' 12 52 ≠ 0 ∨ bad then trap 10 (targetVal a (w0Of i)) s
      else .next (s.send len ⟨true, s.focus, s.thr.val, s.ctx.launch, s.ctx.ctxid, c, 0, 0, b s, w0Of i, s.now, s.seq, .flying, none,
        (s.die (dieOf s.focus)).inc, false⟩)

/-- MSG (R123). -/
def execMsg (ra rb : SReg) (s : State) : Out := msg (.msg ra rb) 4 [ra, rb] ra (fun s => s.reg rb) s

/-- MSG with a literal (R123, R45). -/
def execMsgLit (ra : SReg) (lit : W64) (s : State) : Out := msg (.msgLit ra lit) 12 [ra] ra (fun _ => lit) s

/-- MSGRD (R123): takes the oldest message, waiting while there is none. -/
def execMsgrd (rd : SReg) (s : State) : Out :=
  ready [rd] s fun s => exchangeOnly (.msgrd rd) s fun s =>
    match s.ctx.msgq with
    | v :: rest => result 4 rd v (s.setCtx { s.ctx with msgq := rest })
    | [] => match s.th.stall with
      | some _ => wait s
      | none => .next (s.stall 4 rd .retry)

/-! ## Arrivals (R119, R120, R123) -/

/-- Whether a packet on its way is the next to be delivered of what its source has sent to its target, the entries of a stream among it:
one that was negatively acknowledged keeps its place (R306, R312), and none crosses a boundary that retrains (R309) or reaches a die under
reset (R315). -/
def State.inOrder (s : State) (p : Packet) (n : Nat) : Bool :=
  let port := (s.core p.target).port
  p.nacked.isNone && !s.pathHeld p.core p.target &&
    !((s.packets.take n).any fun q => q.core == p.core && q.target == p.target && q.state == .flying) &&
    !(port.owner.any (fun (c, _, _) => c == p.core) && port.flying.any fun (q, _) => decide (q < p.seq))

/-- The packet of a kind that arrives next at a core, with its place: of those of different senders the one that was sent first (DESIGN
CHOICE, log 73). -/
def State.arriving (s : State) (isMsg : Bool) (c : Nat) : Option (Nat × Packet) :=
  let ps := s.packets.zipIdx
  (ps.find? fun (p, n) => p.msg == isMsg && p.target == c && p.state == .flying && s.inOrder p n).map fun (p, n) => (n, p)

/-- A register that can receive a remote write (R119). -/
def Thread.receivable (t : Thread) (r : SReg) : Bool :=
  r != 0 && !t.present.getLsbD r.toNat && !t.pending.getLsbD r.toNat

/-- A remote register write at its target (R120): the context after it, or `none` where it is refused for now. -/
def Ctx.receive (x : Ctx) (n : Fin 11) (r : SReg) (v : W64) : Option Ctx :=
  let t := x.thread n
  let woken (y : Ctx) : Ctx := { y with wakes := y.wakes + 1 }
  if r = 0 then some (woken x)
  else if t.receivable r && !(x.inbox.any fun e => e.thr == n.val && e.idx == r) then
    some (woken (x.setThread n (t.setReg r v)))
  else if x.inbox.length < 8 then some (woken { x with inbox := x.inbox ++ [⟨n.val, r, v⟩] })
  else none

/-- A response to a core that has been reset since, or of an old incarnation, is dropped and counted (R315, R334). -/
def State.staleAnswer (s : State) (c : Nat) : State :=
  let d := s.die (dieOf c)
  s.setDie (dieOf c) { d with stale := BitVec.ofNat 24 (min (2 ^ 24 - 1) (d.stale.toNat + 1)) }

/-- The state with a packet's answer. A message of management (R348) waits for no answer: refused, it is sent again, as long as the context
that it is for has not left. -/
def State.answer (s : State) (n : Nat) (p : Packet) (a : PacketState) : State :=
  if p.core = mailbox then
    if a = .refused ∧ (s.image p.target p.launch).isSome then
      { s with seq := s.seq + 1, packets := s.packets.eraseIdx n ++ [{ p with sent := s.now, seq := s.seq }] }
    else { s with packets := s.packets.eraseIdx n }
  else if p.lost || p.inc8 != (s.die (dieOf p.core)).inc || (s.image p.core p.launch).isNone then
    ({ s with packets := s.packets.eraseIdx n } : State).staleAnswer p.core
  else { s with seq := s.seq + 1, packets := s.packets.set n { p with state := a, sent := s.now, seq := s.seq } }

/-- REMOTE_WRITE_ARRIVAL (R120, R76): the first remote write on its way to a core is applied, queued in the inbox, refused
for now, or answered with an error where the target thread is not live, or no route to the core remains (R313). -/
def execRemoteWriteArrival (core : Nat) (s : State) : Out :=
  match s.arriving false core with
  | none => .next s
  | some (n, p) =>
    if s.cutOff (dieOf p.core) (dieOf core) then .next (s.answer n p .error)
    else match s.ctxOf core p.launch with
    | none => .next (s.answer n p .refused)
    | some x =>
      if !(x.thread (thrOf p.tthr)).live then .next (s.answer n p .error)
      else match x.receive (thrOf p.tthr) p.idx p.val with
        | some y => .next ((s.updCtx core p.launch fun _ => y).answer n p .accepted)
        | none => .next (s.answer n p .refused)

/-- MESSAGE_ARRIVAL (R123): the first message on its way to a core enters the queue of the sender's launch, or is refused
when that is full; at the mailbox it becomes a request (R348). Where no route to the target remains it is an error (R313). -/
def execMessageArrival (core : Nat) (s : State) : Out :=
  match s.arriving true core with
  | none => .next s
  | some (n, p) =>
    if s.cutOff (dieOf p.core) (dieOf core) then .next (s.answer n p .error)
    else if core = mailbox then
      .next (({ s with requests := s.requests ++ [⟨false, p.core, p.launch, p.ctxid, p.val, none, false, 0⟩] } : State).answer n p .accepted)
    else match s.ctxOf core p.launch with
      | none => .next (s.answer n p .refused)
      | some x =>
        if x.ended then .next (s.answer n p .error)
        else if x.msgq.length < 16 then
          .next ((s.updCtx core p.launch fun x => { x with msgq := x.msgq ++ [p.val], wakes := x.wakes + 1 }).answer n p .accepted)
        else .next (s.answer n p .refused)

/-- The packet of a running context's thread, with its place. -/
def State.packetOf (s : State) (isMsg : Bool) (core thr : Nat) : Option (Nat × Packet) :=
  (s.packets.zipIdx.find? fun (p, _) =>
    p.msg == isMsg && p.core == core && p.thr == thr && (s.core core).run.of p.launch).map fun (p, n) => (n, p)

/-- Whether an answer waits on its way to the sender: at a boundary (R309, R312), or behind what its target has sent to that core before
(R306). -/
def State.answerHeld (s : State) (p : Packet) : Bool :=
  s.routeHeld (dieOf p.target) (dieOf p.core) ||
    (clusterOf p.target != clusterOf p.core &&
      (s.locals.any (fun l => l.from_ == p.target && l.core == p.core && decide (l.seq < p.seq)) || s.answerAhead p.target p.core p.seq))

/-- The target's answer reaches the sender (R120): accepted, the instruction completes; an error, or no route back (R313), raises cause 10. -/
def packetAnswer (isMsg : Bool) (core thr : Nat) (s : State) : Out :=
  match s.packetOf isMsg core thr with
  | none => .next s
  | some (n, p) =>
    let gone : State := { s with packets := s.packets.eraseIdx n }
    let error : Out := .next (trapOn core thr 10 ((BitVec.ofNat 12 p.target ++ p.w0).setWidth 64) gone)
    match p.state with
    | .accepted | .error =>
      if s.cutOff (dieOf p.target) (dieOf core) then error
      else if s.answerHeld p then .next s
      else if p.state = .accepted then .next (gone.finish core thr) else error
    | .flying | .refused | .held _ => .next s

/-- The refusal of a packet reaches the sender, which sends it again (R120); with no route back it raises cause 10 (R313). -/
def packetRetry (isMsg : Bool) (core thr : Nat) (s : State) : Out :=
  match s.packetOf isMsg core thr with
  | none => .next s
  | some (n, p) =>
    match p.state with
    | .refused =>
      if s.cutOff (dieOf p.target) (dieOf core) then
        .next (trapOn core thr 10 ((BitVec.ofNat 12 p.target ++ p.w0).setWidth 64) { s with packets := s.packets.eraseIdx n })
      else if s.answerHeld p then .next s
      else .next { s with
        seq := s.seq + 1
        packets := s.packets.eraseIdx n ++ [{ p with state := .flying, sent := s.now, seq := s.seq }] }
    | _ => .next s

/-- RSET_ACCEPTANCE (R120): the target's acceptance, or refusal with an error, reaches the sender of an RSET. -/
def execRsetAcceptance (core thr : Nat) (s : State) : Out := packetAnswer false core thr s

/-- RSET_RETRY (R120). -/
def execRsetRetry (core thr : Nat) (s : State) : Out := packetRetry false core thr s

/-- MSG_RETRY (R123): a refused message is sent again; an answered one completes or raises cause 10. -/
def execMsgRetry (core thr : Nat) (s : State) : Out :=
  match s.packetOf true core thr with
  | some (_, p) => if p.state = .refused then packetRetry true core thr s else packetAnswer true core thr s
  | none => .next s

/-! ## Presence bits (R121) -/

/-- Whether a result of the issuing thread's own is on its way to a register. -/
def State.ownPending (s : State) (r : SReg) : Bool := s.th.pending.getLsbD r.toNat

/-- A register's bit cleared, and the oldest inbox entry for it applied in the same step (R121). -/
def Ctx.pclr (x : Ctx) (n : Fin 11) (r : SReg) : Ctx :=
  let t := x.thread n
  let t := { t with present := t.present &&& ~~~BitVec.twoPow 32 r.toNat }
  match x.inbox.findIdx? fun e => e.thr == n.val && e.idx == r with
  | none => x.setThread n t
  | some j =>
    match x.inbox[j]? with
    | some e => { x with inbox := x.inbox.eraseIdx j }.setThread n (t.setReg r e.val)
    | none => x.setThread n t

/-- PCLR (R121). -/
def execPclr (idx : BitVec 5) (s : State) : Out :=
  if idx = 0 then .next (s.past 4)
  else if s.ownPending idx then wait s
  else .next ((s.setCtx (s.ctx.pclr s.thr idx)).past 4)

/-- PSET (R121). -/
def execPset (idx : BitVec 5) (s : State) : Out :=
  if idx = 0 then .next (s.past 4)
  else if s.ownPending idx then wait s
  else .next (s.setTh ({ s.th with present := s.th.present ||| BitVec.twoPow 32 idx.toNat }.past 4))

/-- PTST (R121): `s0` reads 1. -/
def execPtst (rd : SReg) (idx : BitVec 5) (s : State) : Out :=
  ready [rd] s fun s => result 4 rd (if s.th.has idx then 1 else 0) s

/-! ## Streams (R122) -/

/-- SOPEN (R122): waits in line at the target's port. The tick at which it issues counts as its arrival there (DESIGN CHOICE, log 109). -/
def execSopen (ra : SReg) (s : State) : Out :=
  ready [ra] s fun s =>
    let a := s.reg ra
    let c := targetCore a
    if s.th.stream.isSome then trap 11 (w0x (.sopen ra)) s
    else exchangeOnly (.sopen ra) s fun s =>
      match s.th.stall with
      | some _ => wait s
      | none =>
        if a.extractLsb' 12 52 ≠ 0 ∨ dieOf c ≠ dieOf s.focus ∨ !s.inSpread s.ctx.launch c ∨ s.hasEnded c s.ctx.launch then
          trap 10 (targetVal a (w0Of (.sopen ra))) s
        else
          let k := s.core c
          let s := s.setCore c { k with port := { k.port with line := k.port.line ++ [(s.focus, s.thr.val, s.ctx.launch)] } }
          .next (s.stall 4 0 .port)

/-- STREAM_PORT_GRANT (R122): a free port goes to the first SOPEN in line, not while the target's rectangle is fenced (R334). An SOPEN that stands
in line when its target's context ends stays there: R122 does not say when that is checked, and the model does so at issue alone (DESIGN
CHOICE, log 112). -/
def execStreamPortGrant (core : Nat) (s : State) : Out :=
  let k := s.core core
  if s.fenced core then .next s
  else match k.port.owner, k.port.line with
  | none, (c, t, l) :: rest =>
    let s := s.setCore core { k with port := ⟨some (c, t, l), [], [], 0, rest, k.port.takers⟩ }
    .next (s.updCtx c l fun x =>
      let h := x.thread (thrOf t)
      x.setThread (thrOf t) ({ h with stream := some ⟨core, 0⟩ }.past 4))
  | _, _ => .next s

/-- An entry goes out on the issuing thread's stream; it waits while the port's FIFO is full. -/
def streamSend (i : Instr) (len : Nat) (e : State → StreamEntry) (after : OpenStream → Option OpenStream) (s : State) : Out :=
  match s.th.stream with
  | none => trap 11 (w0x i) s
  | some o =>
    exchangeOnly i s fun s =>
      let k := s.core o.target
      if k.port.full then stallOn len 0 .retry s
      else
        let s := ({ s with seq := s.seq + 1 } : State).setCore o.target
          { k with port := { k.port with flying := k.port.flying ++ [(s.seq, e s)] } }
        .next (s.setTh ({ s.th with stream := after o }.past len))

/-- A stream after one more data entry. -/
def OpenStream.sent (o : OpenStream) : Option OpenStream := some { o with count := o.count + 1 }

/-- SPUT (R122). -/
def execSput (rb : SReg) (s : State) : Out :=
  ready [rb] s fun s => streamSend (.sput rb) 4 (fun s => .data (s.reg rb)) OpenStream.sent s

/-- SPUT with a literal (R122, R45). -/
def execSputLit (lit : W64) (s : State) : Out := streamSend (.sputLit lit) 12 (fun _ => .data lit) OpenStream.sent s

/-- SCLOSE (R122). -/
def execSclose (s : State) : Out := streamSend .sclose 4 (fun _ => .close) (fun _ => none) s

/-- Whether a packet that a port's sender sent to the port's core before an entry of the stream is still on its way (R306). -/
def State.packetAhead (s : State) (core n : Nat) : Bool :=
  s.packets.any fun p => (s.core core).port.owner.any (fun (c, _, _) => c == p.core) && p.target == core && p.state == .flying &&
    decide (p.seq < n)

/-- STREAM_ENTRY_ARRIVAL (R122): the oldest entry on its way enters the FIFO where it has room, after what its sender sent to the core
before it (R306). -/
def execStreamEntryArrival (core : Nat) (s : State) : Out :=
  let k := s.core core
  match k.port.flying with
  | (n, e) :: rest =>
    if k.port.fifo.length < 16 && !s.packetAhead core n then
      .next (s.setCore core { k with port := { k.port with flying := rest, fifo := k.port.fifo ++ [e] } })
    else .next s
  | [] => .next s

/-- Whether the port of the issuing core carries a stream of the issuing context's launch. -/
def State.ownPort (s : State) : Bool :=
  match s.cur.port.owner with
  | some (_, _, l) => l == s.ctx.launch
  | none => false

/-- The port with a thread out of the line of SGETs. -/
def Port.served (p : Port) (t : Nat) : Port := { p with takers := p.takers.filter (· != t) }

/-- SGET (R122): takes the head of the core's own FIFO, in the order in which the SGETs of its threads issued; the marker gives the
number of data entries and frees the port. -/
def execSget (rd : SReg) (s : State) : Out :=
  ready [rd] s fun s => exchangeOnly (.sget rd) s fun s =>
    let t := s.thr.val
    let p := s.cur.port
    let first := match p.takers with | u :: _ => u == t | [] => true
    match s.ownPort && first, p.fifo with
    | true, .data v :: rest =>
      result 4 rd v (s.setCore s.focus { s.cur with port := { p.served t with fifo := rest, taken := p.taken + 1 } })
    | true, .close :: _ =>
      result 4 rd (BitVec.ofNat 64 p.taken) (s.setCore s.focus { s.cur with port := ⟨none, [], [], 0, p.line, (p.served t).takers⟩ })
    | _, _ => stallOn 4 rd .retry
        (if p.takers.contains t then s else s.setCore s.focus { s.cur with port := { p with takers := p.takers ++ [t] } })

end Sys2Proof.Machine
end

