-- ==== Sys2Proof/Machine/Signature.lean ====
section
/-!
DEFINITION. Basic-block signatures: the CRC and the dependence byte of R42, the table of R43, and the checker of R327.
-/

namespace Sys2Proof.Machine

open Sys2Proof

/-! ## Scalar operands (R54, R42) -/

/-- The register of the first scalar source, in RA; `s0` where the operand is no scalar register, as where `.v` makes RA name vector
registers (R234, R253). -/
def srcA : Instr → SReg
  | .add _ ra _ => ra
  | .addLit _ ra _ => ra
  | .sub _ ra _ => ra
  | .subLit _ ra _ => ra
  | .and _ ra _ => ra
  | .andLit _ ra _ => ra
  | .or _ ra _ => ra
  | .orLit _ ra _ => ra
  | .xor _ ra _ => ra
  | .xorLit _ ra _ => ra
  | .andn _ ra _ => ra
  | .andnLit _ ra _ => ra
  | .shl _ ra _ => ra
  | .shlLit _ ra _ => ra
  | .shr _ ra _ => ra
  | .shrLit _ ra _ => ra
  | .sra _ ra _ => ra
  | .sraLit _ ra _ => ra
  | .slt _ ra _ => ra
  | .sltLit _ ra _ => ra
  | .sltu _ ra _ => ra
  | .sltuLit _ ra _ => ra
  | .min _ ra _ => ra
  | .minLit _ ra _ => ra
  | .max _ ra _ => ra
  | .maxLit _ ra _ => ra
  | .minu _ ra _ => ra
  | .minuLit _ ra _ => ra
  | .maxu _ ra _ => ra
  | .maxuLit _ ra _ => ra
  | .addw _ ra _ => ra
  | .addwLit _ ra _ => ra
  | .subw _ ra _ => ra
  | .subwLit _ ra _ => ra
  | .addx1 _ ra _ => ra
  | .addx1Lit _ ra _ => ra
  | .addx2 _ ra _ => ra
  | .addx2Lit _ ra _ => ra
  | .addx3 _ ra _ => ra
  | .addx3Lit _ ra _ => ra
  | .addi _ ra _ => ra
  | .addiLit _ ra _ => ra
  | .andi _ ra _ => ra
  | .andiLit _ ra _ => ra
  | .ori _ ra _ => ra
  | .oriLit _ ra _ => ra
  | .xori _ ra _ => ra
  | .xoriLit _ ra _ => ra
  | .slti _ ra _ => ra
  | .sltiLit _ ra _ => ra
  | .sltiu _ ra _ => ra
  | .sltiuLit _ ra _ => ra
  | .shli _ ra _ => ra
  | .shri _ ra _ => ra
  | .srai _ ra _ => ra
  | .mul _ ra _ => ra
  | .mulLit _ ra _ => ra
  | .mulh _ ra _ => ra
  | .mulhLit _ ra _ => ra
  | .mulhu _ ra _ => ra
  | .mulhuLit _ ra _ => ra
  | .mulw _ ra _ => ra
  | .mulwLit _ ra _ => ra
  | .div _ ra _ => ra
  | .divLit _ ra _ => ra
  | .divu _ ra _ => ra
  | .divuLit _ ra _ => ra
  | .rem _ ra _ => ra
  | .remLit _ ra _ => ra
  | .remu _ ra _ => ra
  | .remuLit _ ra _ => ra
  | .clz _ ra => ra
  | .ctz _ ra => ra
  | .popc _ ra => ra
  | .bext _ ra _ => ra
  | .bextLit _ ra _ => ra
  | .bins _ ra _ => ra
  | .binsLit _ ra _ => ra
  | .brev _ ra => ra
  | .bswap _ ra => ra
  | .beq ra _ _ => ra
  | .bne ra _ _ => ra
  | .blt ra _ _ => ra
  | .bge ra _ _ => ra
  | .bltu ra _ _ => ra
  | .bgeu ra _ _ => ra
  | .jalr ra _ => ra
  | .jalrLit ra _ => ra
  | .ldb _ ra _ => ra
  | .ldbLit _ ra _ => ra
  | .ldbu _ ra _ => ra
  | .ldbuLit _ ra _ => ra
  | .ldh _ ra _ => ra
  | .ldhLit _ ra _ => ra
  | .ldhu _ ra _ => ra
  | .ldhuLit _ ra _ => ra
  | .ldw _ ra _ => ra
  | .ldwLit _ ra _ => ra
  | .ldwu _ ra _ => ra
  | .ldwuLit _ ra _ => ra
  | .ldd _ ra _ => ra
  | .lddLit _ ra _ => ra
  | .stb _ ra _ => ra
  | .stbLit _ ra _ => ra
  | .sth _ ra _ => ra
  | .sthLit _ ra _ => ra
  | .stw _ ra _ => ra
  | .stwLit _ ra _ => ra
  | .std _ ra _ => ra
  | .stdLit _ ra _ => ra
  | .ldfe _ ra => ra
  | .ldfeLit _ ra _ => ra
  | .ldfec _ ra => ra
  | .ldfecLit _ ra _ => ra
  | .stfe _ ra => ra
  | .stfeLit _ ra _ => ra
  | .stfew _ ra => ra
  | .stfewLit _ ra _ => ra
  | .feset ra => ra
  | .fesetLit ra _ => ra
  | .feclr ra => ra
  | .feclrLit ra _ => ra
  | .fetst _ ra => ra
  | .fetstLit _ ra _ => ra
  | .ldl _ ra => ra
  | .ldlLit _ ra _ => ra
  | .stu _ ra _ => ra
  | .ulk ra => ra
  | .ulkLit ra _ => ra
  | .sld _ ra _ => ra
  | .sldLit _ ra _ => ra
  | .sldw _ ra _ => ra
  | .sldwLit _ ra _ => ra
  | .sldh _ ra _ => ra
  | .sldhLit _ ra _ => ra
  | .sst _ ra _ => ra
  | .sstLit _ ra _ => ra
  | .sstw _ ra _ => ra
  | .sstwLit _ ra _ => ra
  | .sstb _ ra _ => ra
  | .sstbLit _ ra _ => ra
  | .sstp _ _ ra => ra
  | .acq _ ra => ra
  | .rel _ ra => ra
  | .sobind _ ra _ => ra
  | .sounb ra => ra
  | .syadd _ ra _ => ra
  | .syaddLit _ ra _ => ra
  | .sycas _ ra _ => ra
  | .sycasLit _ ra _ => ra
  | .syswp _ ra _ => ra
  | .syswpLit _ ra _ => ra
  | .syld _ ra => ra
  | .logadd ra _ => ra
  | .logaddLit ra _ => ra
  | .logfadd ra _ => ra
  | .logfaddLit ra _ => ra
  | .hstart _ ra _ => ra
  | .hstartLit _ ra _ => ra
  | .hjoin ra => ra
  | .gang ra => ra
  | .signal ra => ra
  | .bany _ ra => ra
  | .ball _ ra => ra
  | .rset _ ra _ => ra
  | .rsetLit _ ra _ => ra
  | .sopen ra => ra
  | .msg ra _ => ra
  | .msgLit ra _ => ra
  | .csrw _ ra => ra
  | .csrs _ ra => ra
  | .csrc _ ra => ra
  | .trap ra => ra
  | .tlbi ra => ra
  | .vbcst _ _ ra _ _ => ra
  | .vbcstLit _ _ ra _ _ => ra
  | .vins _ _ ra _ => ra
  | .vld _ _ ra _ _ => ra
  | .vldLit _ _ ra _ _ => ra
  | .vst _ _ ra _ _ => ra
  | .vstLit _ _ ra _ _ => ra
  | .vlds _ _ ra _ _ _ => ra
  | .vldsLit _ _ ra _ _ _ => ra
  | .vsts _ _ ra _ _ _ => ra
  | .vstsLit _ _ ra _ _ _ => ra
  | .vgth _ _ ra _ _ _ => ra
  | .vgthLit _ _ ra _ _ _ => ra
  | .vsct _ _ ra _ _ _ => ra
  | .vsctLit _ _ ra _ _ _ => ra
  | .mwld _ ra _ _ _ => ra
  | .mma v _ _ ra _ _ => if v then 0 else ra
  | .mmai v _ _ _ _ ra _ _ _ _ => if v then 0 else ra
  | .mldacc _ _ ra _ _ => ra
  | .mdrain _ _ _ _ _ ra _ _ _ => ra
  | .mrqp ra => ra
  | .mrank _ _ ra _ _ _ _ _ => ra
  | .mstat _ ra => ra
  | .rank v _ _ _ ra _ _ => if v then 0 else ra
  | .rankc _ _ _ ra _ _ _ => ra
  | .rktab _ ra _ => ra
  | .rkval _ _ ra _ _ _ => ra
  | .aecfg _ ra _ => ra
  | .aesc _ ra _ _ => ra
  | .aecap _ _ ra _ => ra
  | .aerun ra _ => ra
  | .aewait _ ra => ra
  | .aerd _ ra _ => ra
  | .aepr _ ra _ => ra
  | .aepw _ ra _ => ra
  | .aestat _ ra => ra
  | .cpy _ _ _ _ _ _ _ ra _ _ _ _ => ra
  | .cpym _ _ _ _ _ ra _ _ _ _ => ra
  | .cpych _ _ ra _ => ra
  | .cring ra _ => ra
  | .cawait _ _ ra => ra
  | .crel ra => ra
  | .cseq _ ra => ra
  | .bfree ra => ra
  | .publish _ ra => ra
  | .coll _ ra => ra
  | .collw _ ra => ra
  | _ => 0

/-- The register of the second scalar source, in RB or bits [12:8] of Form S; `s0` where there is none. -/
def srcB : Instr → SReg
  | .add _ _ rb => rb
  | .sub _ _ rb => rb
  | .and _ _ rb => rb
  | .or _ _ rb => rb
  | .xor _ _ rb => rb
  | .andn _ _ rb => rb
  | .shl _ _ rb => rb
  | .shr _ _ rb => rb
  | .sra _ _ rb => rb
  | .slt _ _ rb => rb
  | .sltu _ _ rb => rb
  | .min _ _ rb => rb
  | .max _ _ rb => rb
  | .minu _ _ rb => rb
  | .maxu _ _ rb => rb
  | .addw _ _ rb => rb
  | .subw _ _ rb => rb
  | .addx1 _ _ rb => rb
  | .addx2 _ _ rb => rb
  | .addx3 _ _ rb => rb
  | .mul _ _ rb => rb
  | .mulh _ _ rb => rb
  | .mulhu _ _ rb => rb
  | .mulw _ _ rb => rb
  | .div _ _ rb => rb
  | .divu _ _ rb => rb
  | .rem _ _ rb => rb
  | .remu _ _ rb => rb
  | .bext _ _ rb => rb
  | .bins _ _ rb => rb
  | .beq _ rs _ => rs
  | .bne _ rs _ => rs
  | .blt _ rs _ => rs
  | .bge _ rs _ => rs
  | .bltu _ rs _ => rs
  | .bgeu _ rs _ => rs
  | .stb rs _ _ => rs
  | .stbLit rs _ _ => rs
  | .sth rs _ _ => rs
  | .sthLit rs _ _ => rs
  | .stw rs _ _ => rs
  | .stwLit rs _ _ => rs
  | .std rs _ _ => rs
  | .stdLit rs _ _ => rs
  | .stu _ _ rb => rb
  | .sst rs _ _ => rs
  | .sstLit rs _ _ => rs
  | .sstw rs _ _ => rs
  | .sstwLit rs _ _ => rs
  | .sstb rs _ _ => rs
  | .sstbLit rs _ _ => rs
  | .sstp _ rs _ => rs
  | .sobind _ _ rb => rb
  | .syadd _ _ rb => rb
  | .sycas _ _ rb => rb
  | .syswp _ _ rb => rb
  | .logadd _ rb => rb
  | .logfadd _ rb => rb
  | .hstart _ _ rb => rb
  | .waitc rb => rb
  | .rset _ _ rb => rb
  | .sput rb => rb
  | .msg _ rb => rb
  | .vext _ _ _ rb => rb
  | .vins _ _ _ rb => rb
  | .vlds _ _ _ rb _ _ => rb
  | .vldsLit _ _ _ rb _ _ => rb
  | .vsts _ _ _ rb _ _ => rb
  | .vstsLit _ _ _ rb _ _ => rb
  | .vdq _ _ _ _ rb _ => rb
  | .vqnt _ _ _ _ _ rb _ => rb
  | .vscale _ _ _ rb => rb
  | .mmai _ _ _ _ _ _ rb _ _ _ => rb
  | .mdrain _ _ _ _ _ _ rb _ _ => rb
  | .mrank _ _ _ rb _ _ _ _ => rb
  | .rank _ _ _ _ _ rb _ => rb
  | .rankc _ _ _ _ rb _ _ => rb
  | .rktab _ _ rb => rb
  | .rkval _ _ _ rb _ _ => rb
  | .aecfg _ _ rb => rb
  | .aesc _ _ rb _ => rb
  | .aecap _ _ _ rb => rb
  | .aerun _ rb => rb
  | .aerd _ _ rb => rb
  | .aepr _ _ rb => rb
  | .aepw _ _ rb => rb
  | .cpy _ _ _ _ _ _ _ _ rb _ _ _ => rb
  | .cpym _ _ _ _ _ _ rb _ _ _ => rb
  | .cring _ rb => rb
  | _ => 0

/-- The register that an instruction writes; `s1` for `jal` and `jalr` (R42). -/
def dstOf : Instr → SReg
  | .add rd _ _ => rd
  | .addLit rd _ _ => rd
  | .sub rd _ _ => rd
  | .subLit rd _ _ => rd
  | .and rd _ _ => rd
  | .andLit rd _ _ => rd
  | .or rd _ _ => rd
  | .orLit rd _ _ => rd
  | .xor rd _ _ => rd
  | .xorLit rd _ _ => rd
  | .andn rd _ _ => rd
  | .andnLit rd _ _ => rd
  | .shl rd _ _ => rd
  | .shlLit rd _ _ => rd
  | .shr rd _ _ => rd
  | .shrLit rd _ _ => rd
  | .sra rd _ _ => rd
  | .sraLit rd _ _ => rd
  | .slt rd _ _ => rd
  | .sltLit rd _ _ => rd
  | .sltu rd _ _ => rd
  | .sltuLit rd _ _ => rd
  | .min rd _ _ => rd
  | .minLit rd _ _ => rd
  | .max rd _ _ => rd
  | .maxLit rd _ _ => rd
  | .minu rd _ _ => rd
  | .minuLit rd _ _ => rd
  | .maxu rd _ _ => rd
  | .maxuLit rd _ _ => rd
  | .addw rd _ _ => rd
  | .addwLit rd _ _ => rd
  | .subw rd _ _ => rd
  | .subwLit rd _ _ => rd
  | .addx1 rd _ _ => rd
  | .addx1Lit rd _ _ => rd
  | .addx2 rd _ _ => rd
  | .addx2Lit rd _ _ => rd
  | .addx3 rd _ _ => rd
  | .addx3Lit rd _ _ => rd
  | .addi rd _ _ => rd
  | .addiLit rd _ _ => rd
  | .andi rd _ _ => rd
  | .andiLit rd _ _ => rd
  | .ori rd _ _ => rd
  | .oriLit rd _ _ => rd
  | .xori rd _ _ => rd
  | .xoriLit rd _ _ => rd
  | .slti rd _ _ => rd
  | .sltiLit rd _ _ => rd
  | .sltiu rd _ _ => rd
  | .sltiuLit rd _ _ => rd
  | .shli rd _ _ => rd
  | .shri rd _ _ => rd
  | .srai rd _ _ => rd
  | .mul rd _ _ => rd
  | .mulLit rd _ _ => rd
  | .mulh rd _ _ => rd
  | .mulhLit rd _ _ => rd
  | .mulhu rd _ _ => rd
  | .mulhuLit rd _ _ => rd
  | .mulw rd _ _ => rd
  | .mulwLit rd _ _ => rd
  | .div rd _ _ => rd
  | .divLit rd _ _ => rd
  | .divu rd _ _ => rd
  | .divuLit rd _ _ => rd
  | .rem rd _ _ => rd
  | .remLit rd _ _ => rd
  | .remu rd _ _ => rd
  | .remuLit rd _ _ => rd
  | .clz rd _ => rd
  | .ctz rd _ => rd
  | .popc rd _ => rd
  | .bext rd _ _ => rd
  | .bextLit rd _ _ => rd
  | .bins rd _ _ => rd
  | .binsLit rd _ _ => rd
  | .brev rd _ => rd
  | .bswap rd _ => rd
  | .ldb rd _ _ => rd
  | .ldbLit rd _ _ => rd
  | .ldbu rd _ _ => rd
  | .ldbuLit rd _ _ => rd
  | .ldh rd _ _ => rd
  | .ldhLit rd _ _ => rd
  | .ldhu rd _ _ => rd
  | .ldhuLit rd _ _ => rd
  | .ldw rd _ _ => rd
  | .ldwLit rd _ _ => rd
  | .ldwu rd _ _ => rd
  | .ldwuLit rd _ _ => rd
  | .ldd rd _ _ => rd
  | .lddLit rd _ _ => rd
  | .ldfe rd _ => rd
  | .ldfeLit rd _ _ => rd
  | .ldfec rd _ => rd
  | .ldfecLit rd _ _ => rd
  | .fetst rd _ => rd
  | .fetstLit rd _ _ => rd
  | .ldl rd _ => rd
  | .ldlLit rd _ _ => rd
  | .stu rd _ _ => rd
  | .sld rd _ _ => rd
  | .sldLit rd _ _ => rd
  | .sldw rd _ _ => rd
  | .sldwLit rd _ _ => rd
  | .sldh rd _ _ => rd
  | .sldhLit rd _ _ => rd
  | .fence _ rd => rd
  | .syadd rd _ _ => rd
  | .syaddLit rd _ _ => rd
  | .sycas rd _ _ => rd
  | .sycasLit rd _ _ => rd
  | .syswp rd _ _ => rd
  | .syswpLit rd _ _ => rd
  | .syld rd _ => rd
  | .hstart rd _ _ => rd
  | .hstartLit rd _ _ => rd
  | .hstat rd => rd
  | .bany rd _ => rd
  | .ball rd _ => rd
  | .ptst rd _ => rd
  | .sget rd => rd
  | .msgrd rd => rd
  | .csrr rd _ => rd
  | .vext _ rd _ _ => rd
  | .vscale _ rd _ _ => rd
  | .kpop rd _ => rd
  | .mstat rd _ => rd
  | .rank _ _ _ rd _ _ _ => rd
  | .rankc _ _ rd _ _ _ _ => rd
  | .rktab rd _ _ => rd
  | .rkval _ rd _ _ _ _ => rd
  | .aecfg rd _ _ => rd
  | .aesc rd _ _ _ => rd
  | .aecap _ rd _ _ => rd
  | .aewait rd _ => rd
  | .aerd rd _ _ => rd
  | .aepr rd _ _ => rd
  | .aepw rd _ _ => rd
  | .aestat rd _ => rd
  | .cpy _ _ _ _ _ _ rd _ _ _ _ _ => rd
  | .cpym _ _ _ _ rd _ _ _ _ _ => rd
  | .cawait _ rd _ => rd
  | .cseq rd _ => rd
  | .publish rd _ => rd
  | .coll rd _ => rd
  | .collw rd _ => rd
  | .jal _ => 1
  | .jalr _ _ => 1
  | .jalrLit _ _ => 1
  | _ => 0

/-! ## The CRC (R42) -/

/-- One bit of CRC-16, polynomial 0x1021. -/
def crcBit (c : BitVec 16) (b : Bool) : BitVec 16 :=
  if c.getLsbD 15 != b then (c <<< 1) ^^^ 0x1021 else c <<< 1

/-- One byte, most significant bit first. -/
def crcByte (c : BitVec 16) (x : Byte) : BitVec 16 :=
  [7, 6, 5, 4, 3, 2, 1, 0].foldl (fun c k => crcBit c (x.getLsbD k)) c

/-- The CRC over bytes. -/
def crcBytes (c : BitVec 16) (l : List Byte) : BitVec 16 := l.foldl crcByte c

/-- The instructions back to the latest writer of a register in the block, saturating at 15; 0 without one (R42). -/
def SigBlock.back (b : SigBlock) (r : SReg) : BitVec 4 :=
  if r = 0 then 0
  else match b.writers.find? fun (q, _) => q == r with
    | some (_, n) => BitVec.ofNat 4 (min n 15)
    | none => 0

/-- The block after one more instruction with its words (R327). -/
def SigBlock.take (b : SigBlock) (i : Instr) (words : List W32) : SigBlock :=
  let crc := crcBytes b.crc (wordBytes words)
  let crc := crcByte crc (b.back (srcB i) ++ b.back (srcA i))
  let older := (b.writers.filter fun (q, _) => q != dstOf i).map fun (q, n) => (q, min 15 (n + 1))
  { b with
    crc := crc
    issued := b.issued + words.length
    writers := if dstOf i = 0 then older else (dstOf i, 1) :: older }

/-! ## The table and the checker (R43, R327) -/

/-- Entry `j` of the running context's table; one that does not lie inside the region is absent. -/
def sigEntry (k : Core) (x : Ctx) (j : Nat) : Option W64 :=
  let o := x.sigBase.toNat + 8 * j
  if o + 8 ≤ x.region then some (k.ulm.readLE (x.origin + o) 8 64) else none

/-- The first entry of the table, from entry `j` on with `n` left, whose start is `pc`. -/
def sigFind (k : Core) (x : Ctx) (pc : W64) : Nat → Nat → Option W64
  | 0, _ => none
  | n + 1, j =>
    match sigEntry k x j with
    | some e => if (e.setWidth 32 : W32).setWidth 64 = pc then some e else sigFind k x pc n (j + 1)
    | none => sigFind k x pc n (j + 1)

/-- A block that opens at a table entry. -/
def sigOpen (e : W64) : SigBlock := ⟨e.setWidth 32, 0, (e.extractLsb' 32 16).toNat, 0xFFFF, e.extractLsb' 48 16, []⟩

/-- Whether the running context is checked. -/
def Ctx.checks (x : Ctx) : Bool := x.sigEn && !x.inh

/-- The thread before it issues at its PC: a block that the PC has left is compared (R327). -/
def Thread.sigLeave (t : Thread) : Thread :=
  match t.sig with
  | none => t
  | some b =>
    if t.pc = b.start.setWidth 64 + BitVec.ofNat 64 (4 * b.issued) then t
    else { t with sig := none, sigBad := if b.crc = b.expected then none else some (b.crc, b.start) }

/-- The thread with the block that it issues in open, if there is one (R327). -/
def Thread.sigEnter (t : Thread) (k : Core) (x : Ctx) : Thread :=
  match t.sig with
  | some _ => t
  | none =>
    match sigFind k x t.pc x.sigCount.toNat 0 with
    | some e => { t with sig := some (sigOpen e) }
    | none => t

/-- The thread after it has issued an instruction: the block takes it in, and is compared once its words have issued. -/
def Thread.sigIssue (t : Thread) (i : Instr) (words : List W32) : Thread :=
  match t.sig with
  | none => t
  | some b =>
    let b := b.take i words
    if b.issued < b.nwords then { t with sig := some b }
    else { t with sig := none, sigBad := if b.crc = b.expected then none else some (b.crc, b.start) }

end Sys2Proof.Machine
end

