-- ==== Sys2Proof/Machine/Sys.lean ====
section
/-!
DEFINITION. The rest of the SYS group (R107), the end of a context (R65), and what stops a thread between instructions or
before it issues: the fetch bound (R88), an illegal encoding (R57), a signature mismatch (R328) and a budget notice (R302).
-/

namespace Sys2Proof.Machine

open Sys2Proof

/-! ## TRAP, RTE, WFI, IFENCE, TLBI, SNAP -/

/-- TRAP (R107). -/
def execTrap (ra : SReg) (s : State) : Out := ready [ra] s fun s => trap 9 (s.reg ra) s

/-- RTE (R71); outside a handler it raises cause 11 (R107). -/
def execRte (s : State) : Out :=
  privileged .rte s fun s => if s.ctx.inh then .next (s.setCtx s.ctx.returned) else trap 11 (w0x .rte) s

/-- WFI (R107): waits for a wake event after its issue, or a pending notice. -/
def execWfi (s : State) : Out :=
  privileged .wfi s fun s =>
    match s.th.stall with
    | some ⟨_, _, .wfi n⟩ => if n < s.ctx.wakes ∨ s.ctx.notice ≠ 0 then .next (s.past 4) else wait s
    | _ => if s.ctx.notice ≠ 0 then .next (s.past 4) else .next (s.stall 4 0 (.wfi s.ctx.wakes))

/-- Cycles from IFENCE to the thread's next instruction (R80). -/
def ifenceCycles : Nat := 4

/-- IFENCE (R91): both halves of the issuing thread's buffer are discarded. -/
def execIfence (s : State) : Out :=
  .next (s.setTh ({ s.th with ibSeq := ⟨0, []⟩, ibTgt := ⟨0, []⟩, readyAt := s.now + ifenceCycles }.past 4))

/-- TLBI (R107): the entries of the core's TLB and of the cluster's shared TLB that cover the address. -/
def execTlbi (ra : SReg) (s : State) : Out :=
  ready [ra] s fun s => privileged (.tlbi ra) s fun s =>
    let a := s.reg ra
    if a.extractLsb' 48 16 ≠ 0 then .next (s.past 4)
    else
      let hit (e : TlbEntry) : Bool := e.covers a.toNat
      let s := s.setCore s.focus { s.cur with tlb := s.cur.tlb.drop hit }
      let x := s.cluster s.clu
      .next ((s.setCluster s.clu { x with sharedTlb := x.sharedTlb.mapVal fun _ t => t.drop hit }).past 4)

/-- SNAP (R337): fires the trigger and sets `snapctl.fired`; while a snapshot is held it only counts as missed. -/
def execSnap (s : State) : Out :=
  privileged .snap s fun s =>
    let held := s.snapHeld
    let s := s.trigger 1
    .next ((if held then s else s.setCtx { s.ctx with snapFired := true }).past 4)

/-! ## HALT (R65, R107) -/

/-- A command of the assignment engine that writes a status word: every one but AERUN (R273). -/
def AeCmd.answers : AeCmd → Bool
  | .run _ _ => false
  | .cfg _ _ | .sc _ _ _ | .cap _ _ | .rd _ _ | .pr _ _ | .pw _ _ | .stat _ => true

/-- The conditions of R65 for the running context of a core: no helper is live, and no shared load, vector, matrix or
ranking command is left, nor one of the assignment engine that writes a status word; the closing marker of an open stream can go out
(R122). -/
def State.mayEnd (s : State) (c : Nat) : Bool :=
  let k := s.core c
  let x := k.run
  let u := s.cluster (clusterOf c)
  !((List.finRange 11).any fun n => n != 0 && (x.thread n).live) &&
  s.mayClose (x.thread 0) &&
  !(s.loads.any fun l => l.core == c && l.launch == x.launch) &&
  !(k.vq.any fun e => e.launch == x.launch) &&
  !(k.mq.any fun e => e.launch == x.launch) &&
  !(u.mxGranted.any fun g => g.core == c && g.entry.launch == x.launch) &&
  !(k.rq.any fun e => e.launch == x.launch) &&
  !(u.rkRunning.any fun r => r.core == c && r.entry.launch == x.launch) &&
  !((s.die (dieOf c)).ae.queue.any fun e => e.core == c && e.launch == x.launch && e.cmd.answers)

/-- HALT (R65): the control thread waits for the conditions, and the context ends with status OK. A leader forwards it. -/
def execHalt (s : State) : Out :=
  controlOnly .halt s fun s =>
    let s := if s.th.stall.isNone then s.forward [haltWord] s.th.pc (s.th.pc + 4) none else s
    if s.mayEnd s.focus then .next (s.endContext s.focus s.ctx.launch 0)
    else stallOn 4 0 .halt s

/-- CONTEXT_END (R65): HALT's conditions hold and the running context of a core ends. -/
def execContextEnd (core : Nat) (s : State) : Out :=
  let x := (s.core core).run
  match (x.thread 0).stall with
  | some ⟨_, _, .halt⟩ => if s.mayEnd core then .next (s.endContext core x.launch 0) else .next s
  | _ => .next s

/-! ## Between instructions, and before an instruction issues (R68) -/

/-- SIGNATURE_MISMATCH (R328): cause 8 before the issuing thread's next instruction, with an entry of kind SIG in the RAS
log. The log's place is the block's first byte as an address of the core's ULM (DESIGN CHOICE, log 12). -/
def execSignatureMismatch (s : State) : Out :=
  match s.th.sigBad with
  | none => .next s
  | some (crc, start) =>
    let at_ : BitVec 44 := BitVec.ofNat 12 s.focus ++ (0 : BitVec 4) ++ BitVec.ofNat 28 (s.ctx.origin + start.toNat)
    trap 8 ((crc ++ start).setWidth 64) (s.rasAdd 7 (BitVec.ofNat 12 s.focus) at_)

/-- A budget notice (R69, R72): cause 12 with the mask of the components. -/
def noticeTrap (s : State) : Out :=
  let m := s.ctx.notice
  trap 12 (m.setWidth 64) (s.setCtx { s.ctx with notice := 0 })

/-- FETCH_BOUND (R88): the issuing thread's PC lies at or beyond the region size. -/
def execFetchBound (s : State) : Out :=
  if s.ctx.region ≤ s.th.pc.toNat then trap 5 s.th.pc s else .next s

/-- ILLEGAL_INSTRUCTION (R57): the word at the PC fails check `reason`, 1–8. -/
def execIllegalInstruction (reason : BitVec 8) (w0 : BitVec 32) (s : State) : Out :=
  if reason = 0 ∨ 8 < reason.toNat then .next s else trap 1 ((reason ++ w0).setWidth 64) s

end Sys2Proof.Machine
end

