-- ==== Sys2Proof/Machine/Sched.lean ====
section
/-!
DEFINITION. Queues, admission, dispatch and completion (R293–R304), the context switch and streaming (R73–R78), and writes of
clients outside (R294).
-/

namespace Sys2Proof.Machine

open Sys2Proof

/-! ## Management at virtual addresses -/

/-- The management complex's source in publish order (R135). -/
def mgmtSource : Nat := 2304

/-- What management finds at a virtual address. -/
inductive Reach where
  | entry (e : TlbEntry)
  | absent
  | refused
  /-- The walk reads a poisoned line. -/
  | consumed (key : Nat)
  deriving DecidableEq, Repr

/-- Management, or a client outside, reaches a virtual address of a context's address space by a walk at once, without a TLB, and a DENY is final
the first time: R162 and R170 are about the units of a cluster and say nothing of these (DESIGN CHOICE, log 111). -/
def State.reach (s : State) (ctxid : BitVec 16) (kind : Access) (va : W64) : Reach :=
  if va.extractLsb' 48 16 ≠ 0 ∨ ((s.ctxLine ctxid).isNone ∧ !(s.ctxRecord ctxid).getLsbD 0) then .refused
  else match s.walk ctxid kind (va.setWidth 48) with
    | .fill w => if (⟨w, false⟩ : TlbEntry).permits kind then .entry ⟨w, false⟩ else .refused
    | .absent => .absent
    | .consumed key => .consumed key
    | .deny | .error => .refused

/-- The entry with which management reaches a virtual address, if translation allows it now. -/
def State.mgmtEntry (s : State) (ctxid : BitVec 16) (kind : Access) (va : W64) : Option TlbEntry :=
  match s.reach ctxid kind va with
  | .entry e => some e
  | .absent | .refused | .consumed _ => none

/-- `n` bytes at a virtual address, read at their homes; they lie in one page. -/
def State.mgmtRead (s : State) (ctxid : BitVec 16) (va : W64) (n : Nat) : Option (List Byte) :=
  (s.mgmtEntry ctxid .copyRead va).bind fun e =>
    if s.poisonedIn (e.key va.toNat) n then none else some (s.home.bytes (e.key va.toNat) n)

/-- The poisoned line that a read of `n` bytes by management meets, on its walk or at their homes (R329). -/
def State.mgmtLine (s : State) (ctxid : BitVec 16) (va : W64) (n : Nat) : Option Nat :=
  match s.reach ctxid .copyRead va with
  | .entry e => if s.poisonedIn (e.key va.toNat) n then some (e.key va.toNat / 64 * 64) else none
  | .consumed key => some key
  | .absent | .refused => none

/-- Management, or a client outside, reads a poisoned line (R329): for a core, whose rectangle is reset (R333); for nobody on a C-die it is
logged, and is a consumed error of the device (R336; log 94). -/
def State.mgmtConsume (s : State) (behalf : Option Nat) (key : Nat) : State :=
  match behalf with
  | some c => s.consumeLine c key
  | none => (s.logLine key).deviceEvent 0x20

/-- A read of management that has given nothing: consumed where it has met a poisoned line. -/
def State.mgmtMissed (s : State) (behalf : Option Nat) (ctxid : BitVec 16) (va : W64) (n : Nat) : State :=
  match s.mgmtLine ctxid va n with | some key => s.mgmtConsume behalf key | none => s

/-- Places among `n` bytes from an address on, one in each page at least. -/
def pageStarts (va : W64) (n : Nat) : List W64 :=
  (List.range ((n - 1) / 65536 + 1)).map (fun j => va + BitVec.ofNat 64 (65536 * j)) ++ [va + BitVec.ofNat 64 (n - 1)]

/-- Management waits for a page of `n` bytes that is absent (R170). -/
def State.mgmtAbsent (s : State) (ctxid : BitVec 16) (kind : Access) (va : W64) (n : Nat) : Bool :=
  (pageStarts va n).any fun a => s.reach ctxid kind a == .absent

/-- Home memory catches up with what is applied of the bytes that management is about to read (R294): it reads them at a tick no earlier than
that of the tail that counts them. -/
def State.mgmtSettle (s : State) (ctxid : BitVec 16) (va : W64) (n : Nat) : State :=
  match s.mgmtEntry ctxid .copyRead va with
  | some e => s.settleHomes fun p => (List.range n).any fun j => p.covers (e.key va.toNat + j)
  | none => s

/-- Records of a publication of management or a client: one for each granule that the bytes touch, with its home. -/
def State.mgmtRecords (s : State) (ctxid : BitVec 16) (va : W64) (bs : List Byte) : Option (List LogRec) :=
  (bs.zipIdx.foldl (fun l (b, j) => putShadow (va.toNat + j) b l) []).mapM fun (g, m, d) =>
    (s.mgmtEntry ctxid .copyWrite (BitVec.ofNat 64 (g.toNat * 16))).map fun e =>
      ⟨0, g, m, d, ctxid, 0, 0, 0, none, false, some ⟨e.key (g.toNat * 16), e.size, e.mca, e.repl, s.now⟩, none⟩

/-- An engine publication of device class by management (R135, R157). -/
def State.mgmtPublish (s : State) (rs : List LogRec) : State :=
  s.publish mgmtSource false .dev none 0 0 true true rs (some s.now)

/-! ## Queue descriptors (R295) and launch records (R296) -/

/-- The state of a queue. -/
def State.queue (s : State) (q : Nat) : QueueState := s.queues.get q QueueState.reset

/-- A queue's descriptor as firmware has written it. -/
def State.writtenDesc (s : State) (q : Nat) : BitVec 512 := s.qdesc.get q Qdesc.reset

/-- A queue's descriptor in effect: as its last binding took it, and until the first as it is written (R295). -/
def State.queueDesc (s : State) (q : Nat) : BitVec 512 := (s.queue q).desc.getD (s.writtenDesc q)

/-- The state with a queue's state replaced. -/
def State.setQueue (s : State) (q : Nat) (x : QueueState) : State := { s with queues := s.queues.put q x }

/-- Completion ring address. -/
def qCbase (d : BitVec 512) : W64 := d.extractLsb' 448 64
/-- Record ring address. -/
def qRbase (d : BitVec 512) : W64 := d.extractLsb' 384 64
/-- Control block address. -/
def qQcb (d : BitVec 512) : W64 := d.extractLsb' 320 64
/-- The slice σ in ticks. -/
def qSlice (d : BitVec 512) : Nat := ((d.extractLsb' 304 16).toNat + 1) * 1600
/-- The ageing step A in ticks. -/
def qAge (d : BitVec 512) : Nat := ((d.extractLsb' 288 16).toNat + 1) * 1600
/-- Highest launch priority. -/
def qPmax (d : BitVec 512) : Nat := (d.extractLsb' 285 3).toNat
/-- Deadline-class records are allowed. -/
def qDl (d : BitVec 512) : Bool := d.getLsbD 284
/-- The reservation of deadline records. -/
def qRsv (d : BitVec 512) : Nat := (d.extractLsb' 280 4).toNat
/-- Entries of the rings. -/
def qSize (d : BitVec 512) : Nat := 2 ^ (d.extractLsb' 275 5).toNat
/-- The job's ctxid. -/
def qCtxid (d : BitVec 512) : BitVec 16 := d.extractLsb' 128 16

/-- A launch's queue's descriptor. -/
def State.descOf (s : State) (l : Launch) : BitVec 512 := s.queueDesc l.queue

/-- Priority of a record. -/
def Launch.recPrio (l : Launch) : Nat := (l.ctl.extractLsb' 32 3).toNat
/-- A deadline-class record. -/
def Launch.dl (l : Launch) : Bool := l.ctl.getLsbD 31
/-- The region's size in bytes. -/
def Launch.region (l : Launch) : Nat := ((l.ctl.extractLsb' 29 2).toNat + 1) * 0x10000
/-- Image bytes. -/
def Launch.imglen (l : Launch) : Nat := (l.record.extractLsb' 128 32).toNat
/-- Budgets (R296): core-cycles, copy bytes, rounds, log records, pages. -/
def Launch.bCycles (l : Launch) : Nat := (l.record.extractLsb' 320 36).toNat
/-- Copy bytes. -/
def Launch.bBytes (l : Launch) : Nat := (l.record.extractLsb' 356 40).toNat
/-- AE rounds. -/
def Launch.bRounds (l : Launch) : Nat := (l.record.extractLsb' 396 16).toNat
/-- Log records. -/
def Launch.bRecords (l : Launch) : Nat := (l.record.extractLsb' 412 20).toNat
/-- PIN pages. -/
def Launch.bPages (l : Launch) : Nat := (l.record.extractLsb' 432 16).toNat
/-- The deadline tick. -/
def Launch.deadline (l : Launch) : Nat := (l.record.extractLsb' 256 64).toNat
/-- The tag. -/
def Launch.tag (l : Launch) : W32 := l.record.extractLsb' 480 32
/-- The trap handler's offset. -/
def Launch.tvec (l : Launch) : W32 := l.record.extractLsb' 448 32

/-- Whether a record fails with BADREC on a queue (R296). -/
def Launch.bad (l : Launch) (d : BitVec 512) : Bool :=
  let c := l.ctl
  c.extractLsb' 35 29 != 0 || c.getLsbD 18 || decide (qPmax d < l.recPrio) || (l.dl && !qDl d) ||
    (c.extractLsb' 0 18).toNat % 4 != 0 || l.imglen % 16 != 0 || decide (l.imglen < 16) || decide (l.region < l.imglen) ||
    (l.tvec.toNat % 4 != 0 && l.tvec != 0xFFFFFFFF) ||
    decide (l.imglen < (l.record.extractLsb' 177 15).toNat * 8 + 8 * (l.record.extractLsb' 161 16).toNat) ||
    decide (0x40000 < (c.extractLsb' 27 2).toNat * 0x10000 + l.region)

/-! ## Reading a queue (R293, R294, R298) -/

/-- Tail values as homes apply them, noted for the arrival ticks of R298: after every application. -/
def State.noteTails (s : State) : State :=
  s.qdesc.foldl (fun s (q, _) =>
    let d := s.queueDesc q
    match s.mgmtEntry (qCtxid d) .copyRead (qQcb d) with
    | none => s
    | some e =>
      let t := (s.word (e.key (qQcb d).toNat)).toNat
      let x := s.queue q
      if t = (match x.tails with | (v, _) :: _ => v | [] => x.tail) then s else s.setQueue q { x with tails := (t, s.now) :: x.tails })
    s

/-- The tick at which the tail first counted record `i`; the present tick where none was noted. -/
def QueueState.tailTick (x : QueueState) (i now : Nat) : Nat :=
  match (x.tails.filter fun (v, _) => decide (i < v)).getLast? with
  | some (_, t) => t
  | none => now

/-- A launch as it is read from its ring. -/
def newLaunch (id queue index : Nat) (record : BitVec 512) (arrival : Nat) : Launch where
  id := id
  queue := queue
  index := index
  record := record
  state := .queued
  dies := []
  cr := 0
  cc := 0
  arrival := arrival
  order := 0
  prio := 0
  start := 0
  sliceStart := 0
  sliceOver := false
  admitted := false
  demoted := false
  demand := 0
  served := 0
  cycles := 0
  bytes := 0
  rounds := 0
  records := 0
  pages := 0
  pinPages := []
  notice := 0
  loaded := []
  status := 0
  lost := 0
  hit := false
  doomed := false
  ptimeEnd := 0

/-- The launches. -/
def State.launchList (s : State) : List Launch := s.launches.vals

/-- Launches of a queue that are under consideration: read and not running or over. -/
def State.considered (s : State) (q : Nat) : List Launch :=
  s.launchList.filter fun l => l.queue == q && match l.state with
    | .queued | .granted | .preempted => true
    | .loading | .running | .ended | .finished => false

/-- The control block's tail, and its err rule (R293): the error code, 0 for none. -/
def QueueState.check (x : QueueState) (d : BitVec 512) (tail : Nat) : Nat :=
  if tail < x.tail then 2 else if qSize d < tail - x.head then 1 else 0

/-- The scheduler may read the next record of a queue: a best-effort queue is bound and its head has been taken. -/
def State.mayConsume (s : State) (q : Nat) : Bool :=
  qDl (s.queueDesc q) || ((s.queue q).slot.isSome && (s.considered q).isEmpty)

/-- A best-effort launch: of that class, or demoted (R302). -/
def Launch.bestEffort (l : Launch) : Bool := !l.dl || l.demoted

/-- The head of a queue that competes: its first best-effort launch that waits (R298). -/
def State.headLaunch (s : State) (q : Nat) : Option Launch :=
  (s.considered q).find? fun l => l.bestEffort && (l.state == .queued || l.state == .preempted)

/-- A launch made of the next record: BADREC at once where the record fails R296. One that does not become the head itself leaves the next
record to be the head from now on, unless a launch of the queue is the head (R298). -/
def State.addLaunch (s : State) (q : Nat) (d : BitVec 512) (x : QueueState) (r : BitVec 512) : State :=
  let id := s.ids + 1
  let l := newLaunch id q x.head r (x.tailTick x.head s.now)
  let bad := l.bad d
  let l := { l with prio := l.recPrio, state := if bad then .ended else .queued, status := if bad then 5 else 0,
                    ptimeEnd := if bad then s.now else 0 }
  ({ s with ids := id, launches := s.launches.put id l } : State).setQueue q
    { x with head := x.head + 1, since := if (bad || l.dl) && (s.headLaunch q).isNone then s.now else x.since,
             tails := x.tails.filter fun (v, _) => decide (x.head + 1 < v) }

/-- A record of the management request queue becomes a request (R348). -/
def State.addRequest (s : State) (x : QueueState) (r : BitVec 512) : State :=
  { s with
    requests := s.requests ++ [⟨true, 0, 0, qCtxid s.mreq, 0, some r, false, x.head⟩]
    mreqQueue := { x with head := x.head + 1 } }

/-- The number that stands for the management request queue beside the queues 0–65,535. -/
def mreqNumber : Nat := 65536

/-- One reading of a queue: its tail at home, the next record if there is one, and head or err published. `lost`: what becomes of a record
that cannot be read; none: it is read again later. -/
def State.consumeQueue (s : State) (d : BitVec 512) (x : QueueState) (may : Bool) (put : QueueState → State → State)
    (take : QueueState → BitVec 512 → State → State) (lost : Option (QueueState → State → State)) : State :=
  if x.err ≠ 0 then s
  else match s.mgmtRead (qCtxid d) (qQcb d) 8 with
    | none => s.mgmtMissed none (qCtxid d) (qQcb d) 8
    | some bs =>
      let tail := leNat bs
      let err := x.check d tail
      let publish (j v : Nat) (s : State) : Option State :=
        (s.mgmtRecords (qCtxid d) (qQcb d + BitVec.ofNat 64 j) (leBytes (BitVec.ofNat 64 v) 8)).map s.mgmtPublish
      if err ≠ 0 then
        match publish 16 err s with
        | some s => put { x with err := err } s
        | none => s
      else
        let x := { x with tail := tail }
        let s := put x s
        if tail ≤ x.head ∨ !may then s
        else
          let at_ := qRbase d + BitVec.ofNat 64 (64 * (x.head % qSize d))
          let s := s.mgmtSettle (qCtxid d) at_ 64
          match s.mgmtRead (qCtxid d) at_ 64, publish 8 (x.head + 1) s with
            | some r, some s => take x (BitVec.ofNat 512 (leNat r)) s
            | none, some t =>
              if s.mgmtAbsent (qCtxid d) .copyRead at_ 64 then s
              else match lost with
                | some f => f x (t.mgmtMissed none (qCtxid d) at_ 64)
                | none => s.mgmtMissed none (qCtxid d) at_ 64
            | _, none => s

/-- A reading of a queue that would come to something now: err is written, or the next record is taken. -/
def State.readable (s : State) (q : Nat) : Bool :=
  let d := s.queueDesc q
  let x := s.queue q
  x.err == 0 && match s.mgmtRead (qCtxid d) (qQcb d) 8 with
    | none => false
    | some bs =>
      let tail := leNat bs
      (s.mgmtRecords (qCtxid d) (qQcb d) (List.replicate 24 0)).isSome &&
        (x.check d tail != 0 || (decide (x.head < tail) && s.mayConsume q &&
          (s.mgmtRead (qCtxid d) (qRbase d + BitVec.ofNat 64 (64 * (x.head % qSize d))) 64).isSome))

/-- Ticks of 20 µs: a deadline record is decided in them from its tail's application on (R300). -/
def ticks20us : Nat := 32000

/-- Deadline queues whose next record waits to be read, with the tick at which its tail was applied. -/
def State.dlUnread (s : State) : List (Nat × Nat) :=
  (s.queues.filter fun (q, x) => qDl (s.queueDesc q) && x.tails.any fun (v, _) => decide (x.head < v)).map fun (q, x) =>
    (q, x.tailTick x.head s.now)

/-- A record of the management request queue that cannot be read is dropped and logged with kind 9 (R348); the entry's unit is G-die 8's and
its place is not stated (log 17). -/
def State.loseRequest (s : State) (x : QueueState) : State :=
  { s.rasAdd 9 0xF08 ((s.freeWord 7).setWidth 44) with mreqQueue := { x with head := x.head + 1 } }

/-- SCHEDULER_CONSUME (R293, R294): the tail is read at its home and checked, and the next record is read at its home; 65,536 is
the management request queue. -/
def execSchedulerConsume (queue : Nat) (s : State) : Out :=
  if queue = mreqNumber then
    .next (s.consumeQueue s.mreq s.mreqQueue true (fun x s => { s with mreqQueue := x }) (fun x r s => s.addRequest x r)
      (some fun x s => s.loseRequest x))
  else
    let d := s.queueDesc queue
    .next (s.consumeQueue d (s.queue queue) (s.mayConsume queue) (fun x s => s.setQueue queue x)
      (fun x r s => s.addLaunch queue d x r) none)

/-- A stopped queue with its counts at 0 again. -/
def QueueState.restart (x : QueueState) (now : Nat) : QueueState :=
  { QueueState.reset with slot := x.slot, since := now, desc := x.desc, dlSlot := x.dlSlot }

/-- QUEUE_RESET (R293): firmware resets a stopped queue: its counts begin again at 0 and its control block is cleared; 65,536 is the
management request queue (R348). -/
def execQueueReset (queue : Nat) (s : State) : Out :=
  let (d, x) := if queue = mreqNumber then (s.mreq, s.mreqQueue) else (s.queueDesc queue, s.queue queue)
  if x.err = 0 then .next s
  else match s.mgmtRecords (qCtxid d) (qQcb d) (List.replicate 24 0) with
    | some rs =>
      let s := s.mgmtPublish rs
      .next (if queue = mreqNumber then { s with mreqQueue := x.restart s.now } else s.setQueue queue (x.restart s.now))
    | none => .next s

/-! ## Binding and the arbiter (R297, R298) -/

/-- Whether a queue has records that wait: unread ones, or launches under consideration. -/
def State.queueWaits (s : State) (q : Nat) : Bool :=
  let x := s.queue q
  decide (x.head < (match x.tails with | (v, _) :: _ => v | [] => x.tail)) || !(s.considered q).isEmpty

/-- The queue that holds a slot. -/
def State.slotHolder (s : State) (slot : Nat) : Option Nat := (List.find? (fun (p : Nat × QueueState) => p.2.slot == some slot) s.queues).map (·.1)

/-- A queue may lose its slot (R297): nothing of it waits, and a deadline queue has no record outstanding. -/
def State.unbindable (s : State) (q : Nat) : Bool :=
  !s.queueWaits q && !(qDl (s.queueDesc q) && s.launchList.any fun l => l.queue == q && l.state != .finished)

/-- A slot that a queue can be bound to now. -/
def State.slotFree (s : State) (slot : Nat) : Bool :=
  decide (slot < 256) && match s.slotHolder slot with | some q => s.unbindable q | none => true

/-- Slots held by deadline queues. -/
def State.dlSlots (s : State) : Nat := (s.queues.filter fun (_, x) => x.slot.isSome && x.dlSlot).length

/-- Whether a queue takes a slot as best-effort queues do: it is one, or 64 slots are held by deadline queues already (R297). -/
def State.bindsBest (s : State) (q : Nat) : Bool := !qDl (s.writtenDesc q) || decide (64 ≤ s.dlSlots)

/-- The state with a queue bound to a slot, whose holder leaves it; its descriptor takes effect (R295). -/
def State.bind (s : State) (q slot : Nat) : State :=
  let s := match s.slotHolder slot with | some p => s.setQueue p { s.queue p with slot := none } | none => s
  s.setQueue q { s.queue q with slot := some slot, bound := s.now, desc := some (s.writtenDesc q), dlSlot := !s.bindsBest q }

/-- QUEUE_BIND (R297). -/
def execQueueBind (queue slot : Nat) (s : State) : Out :=
  if queue < 65536 ∧ (s.queue queue).slot.isNone ∧ s.queueWaits queue ∧ s.slotFree slot then .next (s.bind queue slot) else .next s

/-- The first element of a list that no other is before. -/
def firstBy {α : Type} (before : α → α → Bool) : List α → Option α
  | [] => none
  | a :: l => match firstBy before l with
    | some b => if before b a then some b else some a
    | none => some a

/-- A head's arrival tick (R298). -/
def State.arrivalOf (s : State) (l : Launch) : Nat :=
  if l.state = .queued then max l.arrival (s.queue l.queue).since else l.arrival

/-- Effective priority of a waiting launch (R298). -/
def State.effPrio (s : State) (l : Launch) : Nat := min 7 (l.prio + (s.now - s.arrivalOf l) / qAge (s.descOf l))

/-- The slot that decides between equals. -/
def State.slotOf (s : State) (l : Launch) : Nat := (s.queue l.queue).slot.getD 256

/-- Grant order (R298): larger effective priority, then earlier arrival, then lower slot. -/
def State.grantBefore (s : State) (a b : Launch) : Bool :=
  let (ea, eb) := (s.effPrio a, s.effPrio b)
  let (ta, tb) := (s.arrivalOf a, s.arrivalOf b)
  decide (eb < ea) || (ea == eb && (decide (ta < tb) || (ta == tb && decide (s.slotOf a < s.slotOf b))))

/-- Since when the head of an unbound queue waits. -/
def State.waitsSince (s : State) (q : Nat) : Nat := match s.headLaunch q with
  | some l => s.arrivalOf l
  | none => max (s.queue q).since ((s.queue q).tailTick (s.queue q).head s.now)

/-- Since when the head of a bound queue has stayed bound without a grant (R297). -/
def State.boundSince (s : State) (q : Nat) : Nat := max (s.queue q).bound (s.queue q).since

/-- Unbound queues that wait for a slot: deadline queues among them, for the time in which they have no slot of their own (R297). -/
def State.unboundQueues (s : State) : List Nat := (s.queues.filter fun (q, x) => x.slot.isNone && s.queueWaits q).map (·.1)

/-- Bound queues whose heads have no grant: what they hold may be unread or of the deadline class, or they are stopped. -/
def State.ungrantedQueues (s : State) : List Nat :=
  (s.queues.filter fun (q, x) => !x.dlSlot && x.slot.isSome && !(s.considered q).any fun l => l.bestEffort && l.state == .granted).map (·.1)

/-- Queues whose head has been consumed and that hold no record under consideration leave their slots (R297). -/
def State.unbindIdle (s : State) : State :=
  { s with queues := s.queues.mapVal fun q x => if x.slot.isSome && s.unbindable q then { x with slot := none } else x }

/-- `n` slots change hands: those of the queues whose heads have stayed bound longest, to the waiting queues with the oldest heads. -/
def rotate : Nat → List Nat → List Nat → State → State
  | 0, _, _, s => s
  | n + 1, waiting, bound, s =>
    match firstBy (fun a b => decide (s.waitsSince a < s.waitsSince b)) waiting,
        firstBy (fun a b => decide (s.boundSince a < s.boundSince b)) bound with
    | some q, some p => rotate n (waiting.erase q) (bound.erase p) (s.bind q ((s.queue p).slot.getD 0))
    | _, _ => s

/-- QUEUE_ROTATE (R297): while no slot is free, the queues whose heads have stayed bound longest without a grant give their slots to the
waiting queues, oldest head first. -/
def execQueueRotate (s : State) : Out :=
  let s : State := { s with rotateAt := s.now }
  if (List.range 256).any s.slotFree then .next s
  else
    let (waiting, bound) := (s.unboundQueues, s.ungrantedQueues)
    .next (rotate (min waiting.length bound.length) waiting bound s)

/-- The heads of the slots that compete for a grant (R298). -/
def State.slotHeads (s : State) : List Launch :=
  s.queues.filterMap fun (q, x) => if x.slot.isSome && x.err == 0 then s.headLaunch q else none

/-- ARBITER_GRANT (R298): the slot head that is first in grant order is granted. -/
def execArbiterGrant (s : State) : Out :=
  match firstBy s.grantBefore s.slotHeads with
  | none => .next s
  | some l =>
    let s' := s.updLaunch l.id fun m => { m with state := .granted, order := s.ids, arrival := s.arrivalOf l }
    .next (({ s' with ids := s'.ids + 1, arbAt := s.now, freed := false } : State).setQueue l.queue
      { s.queue l.queue with since := s.now })

/-- SLICE_END (R298). -/
def execSliceEnd (launch : Nat) (s : State) : Out :=
  match s.launch? launch with
  | some l =>
    if l.state = .running ∧ l.bestEffort ∧ l.sliceStart + qSlice (s.descOf l) ≤ s.now then
      .next (s.updLaunch launch fun m => { m with sliceOver := true })
    else .next s
  | none => .next s

/-! ## Reservations and admission (R299–R302) -/

/-- A reservation. -/
def State.rsv (s : State) (n : Nat) : Reservation := (s.reservations[n]?).getD Reservation.reset

/-- The state with a reservation replaced. -/
def State.setRsv (s : State) (n : Nat) (r : Reservation) : State :=
  if h : n < 16 then { s with reservations := s.reservations.set n r h } else s

/-- Admitted launches that are neither finished nor demoted. -/
def State.admittedList (s : State) : List Launch :=
  s.launchList.filter fun l => l.admitted && !l.demoted && l.state != .ended && l.state != .finished

/-- Demand less the ticks served (R300). -/
def Launch.rem (l : Launch) : Nat := l.demand - l.served

/-- The clusters of a placed spread. -/
def Launch.clusters (l : Launch) : List Nat :=
  l.dies.flatMap fun d => (List.range (l.rows / 2)).flatMap fun r => (List.range (l.cols / 4)).map fun c =>
    d * 32 + (l.cr + r) * 4 + (l.cc + c)

/-- Two spreads share a cluster. -/
def Launch.shares (a b : Launch) : Bool := a.clusters.any fun k => b.clusters.contains k

/-- The page term for `extra` further pages (R300). -/
def Launch.pageTerm (l : Launch) (shared : Nat) : Nat := if 0 < l.bPages then 4800 * (l.bPages + shared + 1) else 0

/-- The demand of R300 at tick `t0`. -/
def Launch.demandAt (l : Launch) (t0 shared : Nat) : Nat :=
  let up (a b : Nat) : Nat := (a + b - 1) / b
  up l.bCycles l.count + up l.bBytes 32 + 42080 * l.bRounds + 2 * l.bRecords + l.pageTerm shared + 4100 +
    2400 * up (l.deadline - t0) 160000

/-- The schedulability test of R300 over the launches of a reservation. -/
def supplyOk (r : Reservation) (t0 : Nat) (ls : List Launch) : Bool :=
  ls.all fun j =>
    let need : Int := (ls.filter fun i => decide (i.deadline ≤ j.deadline)).foldl (fun n i => n + (i.rem : Int)) 0
    let q : Int := r.q.toNat
    let p : Int := r.p.toNat
    decide (need * p ≤ max 0 (q * ((j.deadline : Int) - t0 - 2 * (p - q))))

/-- Whether a core lies in a reservation (R299); a rectangle past its die's edge is clipped (DESIGN CHOICE, log 89). -/
def Reservation.covers (r : Reservation) (c : Nat) : Bool :=
  r.dmask.getLsbD (dieOf c) && (rectOf (r.rect.setWidth 64)).covers c

/-- Admitted launches with rounds that are outstanding on a die. -/
def State.roundsOn (s : State) (d : Nat) : Nat :=
  (s.admittedList.filter fun l => l.bRounds != 0 && l.dies.contains d).length

/-- The tests of R300 for a launch at a place; the other launches with the demands that it raises. -/
def State.admits (s : State) (l : Launch) : Option (Launch × List Launch) :=
  let n := qRsv (s.descOf l)
  let r := s.rsv n
  let others := s.admittedList
  let sharing := others.filter fun m => m.shares l
  let l := { l with demand := l.demandAt s.now (sharing.map (·.bPages)).sum }
  let raised := others.map fun m =>
    if m.shares l && decide (0 < m.bPages) then { m with demand := m.demand + 4800 * l.bPages } else m
  if decide (l.deadline ≤ s.now + l.demand) || !(l.cores.all r.covers) || decide (256 ≤ others.length) || r.p == 0 ||
      (l.bRounds != 0 && l.dies.any fun d => decide (4 ≤ s.roundsOn d)) ||
      !supplyOk r s.now (l :: raised.filter fun m => qRsv (s.descOf m) == n) then none
  else some (l, raised)

/-- Choices of `n` elements of a list, in order. -/
def choices : Nat → List Nat → List (List Nat)
  | 0, _ => [[]]
  | _ + 1, [] => []
  | n + 1, a :: l => (choices n l).map (a :: ·) ++ choices (n + 1) l

/-- The places of a spread: dies and the top left cluster. -/
def Launch.places (l : Launch) : List Launch :=
  (choices l.nd (List.range 8)).flatMap fun ds =>
    (List.range (9 - l.rows / 2)).flatMap fun cr => (List.range (5 - l.cols / 4)).map fun cc =>
      { l with dies := ds, cr := cr, cc := cc }

/-- A deadline record that waits for its decision. -/
def Launch.undecided (l : Launch) : Bool := l.dl && !l.admitted && l.state == .queued

/-- ADMISSION_DECISION (R300): the oldest deadline record is admitted at the first place for which the test holds, or refused. -/
def execAdmissionDecision (s : State) : Out :=
  match s.launchList.find? Launch.undecided with
  | none => .next s
  | some l =>
    match l.places.findSome? s.admits with
    | some (m, raised) =>
      let s := raised.foldl (fun s x => s.updLaunch x.id fun y => { y with demand := x.demand }) s
      .next (s.updLaunch l.id fun y =>
        { y with dies := m.dies, cr := m.cr, cc := m.cc, demand := m.demand, admitted := true, state := .granted })
    | none => .next (s.updLaunch l.id fun y => { y with state := .ended, status := 4, ptimeEnd := s.now })

/-- A switch tick named on the cores of a launch that run it, without an incoming launch. -/
def State.switchOut (s : State) (l : Launch) : State :=
  l.cores.foldl (fun s c =>
    let k := s.core c
    if k.run.of l.id && k.switch.isNone then s.setCore c { k with switch := some ⟨s.now, none, none⟩ } else s) s

/-- RESERVATION_QUOTA_END (R299): admitted work that has used the quota is switched out for the rest of the period. -/
def execReservationQuotaEnd (rsv : Nat) (s : State) : Out :=
  let r := s.rsv rsv
  if r.q.toNat ≤ r.used then
    .next ((s.admittedList.filter fun l => qRsv (s.descOf l) == rsv && l.state == .running).foldl State.switchOut s)
  else .next s

/-- RESERVATION_PERIOD (R299): a period of P ticks has passed and a new one begins with a fresh quota. -/
def execReservationPeriod (rsv : Nat) (s : State) : Out :=
  let r := s.rsv rsv
  if r.p ≠ 0 ∧ r.period + r.p.toNat ≤ s.now then
    .next (s.setRsv rsv { r with used := 0, period := r.period + (s.now - r.period) / r.p.toNat * r.p.toNat })
  else .next s

/-- The components that a launch has overrun (R69, R302), with the pinned pages of R171. -/
def Launch.overrun (l : Launch) : BitVec 5 :=
  l.notice |||
    (BitVec.ofBool (decide (l.bPages < l.pages)) ++ BitVec.ofBool (decide (l.bRecords < l.records)) ++
      BitVec.ofBool (decide (l.bRounds < l.rounds)) ++ BitVec.ofBool (decide (l.bBytes < l.bytes)) ++
      BitVec.ofBool (decide (l.bCycles < l.cycles)))

/-- The queued misses of a launch are no priority misses any longer (R169, R302). -/
def State.dropPriority (s : State) (launch : Nat) : State :=
  { s with clusters := s.clusters.mapVal fun _ x =>
      { x with misses := x.misses.map fun m => if m.launch = launch then { m with priority := false } else m } }

/-- BUDGET_OVERRUN (R302): every context of the launch receives notice 12, and the launch is demoted. -/
def execBudgetOverrun (launch : Nat) (s : State) : Out :=
  match s.launch? launch with
  | some l =>
    if !l.admitted || l.demoted || l.overrun == 0 || l.state == .ended || l.state == .finished then .next s
    else
      let s := l.cores.foldl (fun s c => s.updImage c launch fun x => { x with notice := l.overrun }) s
      .next ((s.updLaunch launch fun m =>
        { m with demoted := true, arrival := s.now, prio := m.recPrio, sliceStart := s.now, sliceOver := false }).dropPriority launch)
  | none => .next s

/-! ## Regions in and out of ULM (R73) -/

/-- Two contexts' regions overlap (R64). -/
def Ctx.overlaps (x y : Ctx) : Bool := decide (x.origin < y.origin + y.region) && decide (y.origin < x.origin + x.region)

/-- The bytes and full/empty bits of a region, from its first byte on. -/
def Core.takeRegion (k : Core) (x : Ctx) : Mem × BitVec 16384 :=
  ((k.ulm.filter fun (a, _) => decide (x.origin ≤ a) && decide (a < x.origin + x.region)).map fun (a, b) => (a - x.origin, b),
    (k.fe >>> (x.origin / 16)) &&& ((1#16384 <<< (x.region / 16)) - 1))

/-- A core with a region's bytes and full/empty bits in place. -/
def Core.putRegion (k : Core) (x : Ctx) (m : Mem) (fe : BitVec 16384) : Core :=
  let mask : BitVec 16384 := ((1#16384 <<< (x.region / 16)) - 1) <<< (x.origin / 16)
  { k with
    ulm := (k.ulm.filter fun (a, _) => decide (a < x.origin)) ++
      (m.filter fun (a, _) => decide (a < x.region)).map (fun (a, b) => (a + x.origin, b)) ++
      k.ulm.filter fun (a, _) => decide (x.origin + x.region ≤ a)
    fe := (k.fe &&& ~~~mask) ||| ((fe <<< (x.origin / 16)) &&& mask) }

/-! ## Dispatch (R63, R303) -/

/-- A control context as R63 starts it. A rounding mode that R295's field gives and R198 reserves (4–7) starts as 0 (DESIGN CHOICE, log 84):
the manual states no value. -/
def startCtx (l : Launch) (d : BitVec 512) (c index : Nat) : Ctx :=
  let t : Thread := { Thread.reset with live := true, pc := (l.ctl.extractLsb' 0 18).setWidth 64 }
  { Ctx.reset with
    resident := true
    launch := l.id
    threads := Ctx.reset.threads.set 0 ((t.setReg 2 (l.record.extractLsb' 0 64)).setReg 3 (BitVec.ofNat 64 index))
    tvec := l.tvec
    size := (l.ctl.extractLsb' 29 2).setWidth 3 + 1
    base := l.ctl.extractLsb' 27 2
    ctxid := qCtxid d
    vshare := d.extractLsb' 165 4
    mshare := d.extractLsb' 169 4
    mtiles := d.extractLsb' 144 16
    bufFree := 0xF
    accsat := d.getLsbD 160
    ftz := d.getLsbD 164
    frm := if d.getLsbD 163 then 0 else d.extractLsb' 161 2
    logcap := d.extractLsb' 224 32
    sigBase := (l.record.extractLsb' 177 15).setWidth 32 * 8
    sigCount := l.record.extractLsb' 161 16
    sigEn := l.record.getLsbD 160
    spillBase := d.extractLsb' 64 48 + BitVec.ofNat 48 (c * (d.extractLsb' 48 16).toNat * 0x10000)
    spillSize := d.extractLsb' 48 16 }

/-- A die under reset (R315), or a core whose rectangle is fenced (R334), takes no spread. -/
def State.outOfService (s : State) (c : Nat) : Bool :=
  s.fenced c || decide (s.now < (s.die (dieOf c)).resetEnd)

/-- A launch that still loads and whose cores a switch tick is named on for it: it has not lost them (R298). -/
def State.loadsFor (s : State) (m : Launch) : Bool :=
  m.state == .loading && m.cores.all fun c => (s.core c).switch.any fun w => w.waits == some m.id

/-- Launches that hold a core of a spread: placed and not switched out. -/
def State.holders (s : State) (l : Launch) : List Launch :=
  s.launchList.filter fun m => m.id != l.id && (m.state == .running || s.loadsFor m) && m.cores.any l.inSpread

/-- A launch that may pre-empt: of the granted heads that wait, the first granted, and those ahead of it in grant order (R298). -/
def State.mayPreempt (s : State) (l : Launch) : Bool :=
  !(s.launchList.any fun g =>
    g.state == .granted && g.bestEffort && g.id != l.id && decide (g.order < l.order) && !s.grantBefore l g)

/-- Whether a launch may take its cores from another (R298, R299). -/
def State.takesFrom (s : State) (l m : Launch) : Bool :=
  m.bestEffort && (m.state == .running || s.loadsFor m) &&
    (!l.bestEffort || (s.mayPreempt l &&
      (decide (m.prio < s.effPrio l) || (s.effPrio l == 7 && m.prio == 7 && m.sliceOver))))

/-- Whether the place that a launch names is one for it: the rules of R303 and R63, and for an admitted or a resumed launch the
place that it has. -/
def Launch.placeOk (l m : Launch) : Bool :=
  if l.admitted || !l.loaded.isEmpty then l.dies == m.dies && l.cr == m.cr && l.cc == m.cc
  else
    m.dies.length == m.nd && decide (m.dies.Pairwise (· < ·)) && m.dies.all (fun d => decide (d < 8)) &&
      decide (2 * m.cr + m.rows ≤ 16) && decide (4 * m.cc + m.cols ≤ 16)

/-- Whether a launch that waits for a dispatcher can be placed there now: the C-dies are out of reset (R341). -/
def State.fits (s : State) (l m : Launch) : Bool :=
  let r := s.rsv (qRsv (s.descOf l))
  s.bootStage == 2 && (l.state == .granted || (l.state == .preempted && !l.bestEffort)) && l.placeOk m &&
    (l.bestEffort || decide (r.used < r.q.toNat)) &&
    m.cores.all (fun c => !s.outOfService c &&
      (s.core c).switch.all (fun w => (s.holders m).any fun h => h.state == .loading && w.waits == some h.id) &&
      [(s.core c).run, (s.core c).shadow].all fun x => !x.resident || x.launch == l.id || x.ctxid != qCtxid (s.descOf l)) &&
    (s.holders m).all (fun v => s.takesFrom l v && v.cores.all fun c =>
      (s.core c).switch.all fun w => (s.holders m).any fun h => h.state == .loading && w.waits == some h.id) && (!l.loaded.isEmpty || decide (m.count ≤ s.saveAreas))

/-- An image load of a core (R176, R303): a code load of `imglen` bytes to the start of the region. -/
def State.imageLoad (s : State) (l : Launch) (x : Ctx) (c : Nat) : Transfer :=
  let dst : W64 := (BitVec.ofNat 12 c ++ (0 : BitVec 32)).setWidth 64
  { s.transfer x c true false false false true (l.record.extractLsb' 192 64) dst 0 8 0 0 .image with
    no := s.seq, shape := ⟨1, 8, false, [⟨1, l.imglen, 0, 0⟩]⟩ }

/-- Whether another context's region that is in ULM on a core overlaps a context's. -/
def State.ulmTaken (s : State) (c : Nat) (x : Ctx) : Bool :=
  let other (y : Ctx) : Bool := y.resident && y.launch != x.launch && y.overlaps x
  other (s.core c).run || other (s.core c).shadow || s.saved.any fun a => a.core == c && a.region.isNone && other a.ctx

/-- A context made for a core, in its save area, and its image load queued. -/
def State.createCtx (s : State) (l : Launch) (c index : Nat) : State :=
  let x := startCtx l (s.descOf l) c index
  let region := if s.ulmTaken c x then some ((s.core c).takeRegion x) else none
  let s : State := { s with saved := s.saved ++ [⟨c, x, region, s.now⟩], seq := s.seq + 1 }
  let k := s.cluster (clusterOf c)
  s.setCluster (clusterOf c) { k with loader := k.loader ++ [s.imageLoad l x c] }

/-- Ticks from placement to the switch tick when streaming is needed (R303). -/
def streamTicks : Nat := 3200

/-- A switch named on a core. -/
def State.nameSwitch (s : State) (c : Nat) (w : Switch) : State := s.setCore c { s.core c with switch := some w }

/-- Switch ticks that wait for a launch are named no longer. -/
def State.dropSwitches (s : State) (launch : Nat) : State :=
  { s with cores := s.cores.mapVal fun _ k =>
      match k.switch with
      | some w => if w.waits = some launch then { k with switch := none } else k
      | none => k }

/-- A launch that still loads loses its cores (R298): its images load on, and it will wait to be dispatched again. -/
def State.bump (s : State) (m : Launch) : State :=
  if m.state = .loading then (s.dropSwitches m.id).updLaunch m.id fun y => { y with arrival := s.now } else s

/-- DISPATCH (R303): a spread is placed with its save areas, its switch tick is named and its images begin to load; a pre-empted
launch resumes in its place. -/
def execDispatch (launch : Nat) (dies : List Nat) (cr cc : Nat) (s : State) : Out :=
  match s.launch? launch with
  | none => .next s
  | some l =>
    let m : Launch := { l with dies := dies, cr := cr, cc := cc }
    if !s.fits l m then .next s
    else
      let t := s.now + streamTicks
      let fresh := l.loaded.isEmpty
      let victims := s.holders m
      let prio := s.effPrio l
      let s := victims.foldl State.bump s
      let s := m.cores.foldl (fun s c => s.nameSwitch c ⟨t, some launch, some launch⟩) s
      let s := ((victims.filter fun v => v.state == .running).flatMap (·.cores)).foldl (fun s c => if m.inSpread c then s else s.nameSwitch c ⟨t, none, some launch⟩) s
      let s := s.updLaunch launch fun y => { y with
        dies := dies, cr := cr, cc := cc, prio := prio, start := s.now, sliceStart := t, sliceOver := false
        state := if fresh then .loading else .running }
      if fresh then
        .next (m.cores.zipIdx.foldl (fun s (c, n) => s.createCtx m c n) { s with saveAreas := s.saveAreas - m.count })
      else .next s

/-- IMAGE_LOAD_COMPLETE (R303): once every image load of a spread has ended with OK its contexts may start, unless another launch has taken
its cores meanwhile (R298); after any other end none does, and the launch completes with BADREC. -/
def execImageLoadComplete (launch : Nat) (s : State) : Out :=
  match s.launch? launch with
  | none => .next s
  | some l =>
    if l.state ≠ .loading then .next s
    else if 5 ≤ l.status then
      let s : State := { s with clusters := s.clusters.mapVal fun _ x =>
        { x with loader := x.loader.filter fun t => t.launch != launch } }
      .next ((s.dropSwitches launch).release launch)
    else if l.cores.all l.loaded.contains then
      let holds := l.cores.any fun c => (s.core c).switch.any fun w => w.waits == some launch
      .next (s.updLaunch launch fun m =>
        { m with state := if holds then .running else .preempted, sliceStart := max m.sliceStart s.now })
    else .next s

/-! ## The switch (R74, R75) -/

/-- Stalls that a switch keeps, since their effect is under way and happens once (log 35): a publication made by REL or PUBLISH, a REJOIN
that has been counted, and a packet that is on its way. Every other is abandoned (R75). -/
def Wait.kept : Wait → Bool
  | .rel _ | .publish _ _ | .rejoin _ | .packet => true
  | .retry | .yield _ | .waitc _ | .hjoin _ | .wfi _ | .bar _ _ | .signal _ _ | .gang _ | .seq _ | .ae _ _ | .port | .remote | .fe
  | .lock | .log _ _ _ | .acq | .sync _ _ _ | .fence _ | .copy _ | .mcast _ | .halt => false

/-- A thread of a context that is switched out. -/
def Thread.suspend (t : Thread) : Thread :=
  { (if t.stall.isSome then t else t.tracking none) with
    stall := match t.stall with | some w => if w.why.kept then some w else none | none => none
    ibSeq := ⟨0, []⟩
    ibTgt := ⟨0, []⟩
    sig := none }

/-- Whether a switch abandons a stalled instruction of the control thread (R75). -/
def Ctx.abandons (x : Ctx) : Bool :=
  match (x.thread 0).stall with
  | some w => !w.why.kept
  | none => false

/-- The gang state of a context whose switch abandons the control thread's stalled instruction, which re-executes at resume: a forwarded one
goes back to the front of the forward buffer, a detached follower's own is kept beside it, and a leader has sent its own already
(R75, R77, R96, R102). -/
def Ctx.giveBack (x : Ctx) : Ctx :=
  let t := x.thread 0
  { x with gang := x.gang.map fun g =>
      if g.leader then { g with sent := if x.abandons && !(x.inh && x.tthr == 0) then some t.pc else g.sent }
      else if !g.attached then { g with held := if x.abandons then t.ownStalled g.rejoins else g.held }
      else { g with
        buffer := if x.abandons then g.held.toList ++ g.buffer else g.buffer
        held := if x.abandons || t.stall.isNone then none else g.held } }

/-- A context that is switched out (R75, R66). -/
def Ctx.suspend (x : Ctx) (now : Nat) (p : Port) : Ctx :=
  if x.resident then { (x.giveBack.mapThreads Thread.suspend) with phcyc := BitVec.ofNat 64 now - x.phcyc, port := p }
  else Ctx.reset

/-- A context that is switched in. -/
def Ctx.resume (x : Ctx) (now : Nat) : Ctx := { x with phcyc := BitVec.ofNat 64 now - x.phcyc, port := Port.reset }

/-- Locks of the running context's threads stay until the 64-cycle rule, but belong to no thread (R75). -/
def State.orphanLocks (s : State) (c : Nat) : State :=
  { s with clusters := s.clusters.mapVal fun _ x =>
      { x with locks := x.locks.mapVal fun _ l => if l.core = c ∧ l.launch = (s.core c).run.launch then { l with thr := 11 } else l } }

/-- What a switch abandons of a core's running context outside its image (R75): its places in lines, the misses of its SYNC-group
instructions, and packets that their targets have refused. -/
def State.abandon (s : State) (c : Nat) : State :=
  let x := (s.core c).run
  let refused (p : Packet) : Bool := p.core == c && p.launch == x.launch && p.state == .refused && p.nacked.isNone
  let free (n : Fin 11) (t : Thread) : Thread :=
    if s.packets.any fun p => refused p && p.thr == n.val then { t with stall := t.stall.map fun w => { w with why := .retry } } else t
  let s := (s.orphanLocks c).leaveLines c
  let s := s.setCore c { s.core c with run := (List.finRange 11).foldl (fun x n => x.setThread n (free n (x.thread n))) x }
  { s.dropSyncMisses c x.launch with packets := s.packets.filter fun p => !refused p }

/-- Whether a thread's store has stalled for `logcap.n` cycles without log space, of which `room` records are free (R142). -/
def Thread.logOver (t : Thread) (x : Ctx) (room now : Nat) : Bool :=
  match t.stall with
  | some ⟨_, _, .log since _ lanes⟩ => decide (since + x.logcap.toNat ≤ now) && decide (room < lanes.length)
  | _ => false

/-- A trap that the running context takes at its switch boundary is taken first (R74): of a store whose `logcap.n` cycles are over (R142), a
signature mismatch, or a budget notice. While `inh` is 1 the first alone remains, and ends the context (R72). -/
def State.boundaryTrap (s : State) (c : Nat) : State :=
  let x := (s.core c).run
  if !x.resident || x.ended then s
  else
    let left (t : Nat) : Thread :=
      let h := (x.thread (thrOf t)).tracking (x.nextFwd (thrOf t))
      if x.checks && !(x.follows (thrOf t) && (x.nextFwd (thrOf t)).isNone) then h.sigLeave else h
    let full := (pointerOrder (s.core c).ptr).find? fun t => (x.thread (thrOf t)).live && (x.thread (thrOf t)).logOver x ({ s with focus := c } : State).logRoom s.now
    let ts := (pointerOrder (s.core c).ptr).filter fun t => !x.inh && (x.thread (thrOf t)).live && (x.thread (thrOf t)).stall.isNone
    let enter (t : Nat) (trap : State → Out) : State :=
      match trap (({ s with focus := c, thr := thrOf t } : State).setTh (left t)) with
      | .next u => { u with focus := s.focus, thr := s.thr }
      | .fault _ | .refused _ => s
    match full, ts.find? fun t => (left t).sigBad.isSome, ts.head? with
    | some t, _, _ =>
      (match execLogFull ({ s with focus := c, thr := thrOf t } : State) with
        | .next u => { u with focus := s.focus, thr := s.thr }
        | .fault _ | .refused _ => s)
    | none, some t, _ => enter t execSignatureMismatch
    | none, none, some t => if x.notice ≠ 0 then enter t noticeTrap else s
    | none, none, none => s

/-- Another context's region leaves ULM for its save area where it overlaps the incoming one (R73). -/
def Core.displace (k : Core) (x : Ctx) (a : Saved) : Saved :=
  if a.region.isNone && a.ctx.launch != x.launch && a.ctx.overlaps x then { a with region := some (k.takeRegion a.ctx) } else a

/-- The context of a launch that a switch brings in on a core, with its region if that is out of ULM. -/
def State.incoming (s : State) (c launch : Nat) : Option Saved :=
  let k := s.core c
  if k.shadow.of launch then some ⟨c, k.shadow, none, s.now⟩ else s.saved.find? fun a => a.core == c && a.ctx.of launch

/-- Contexts of a core that take no slot after a switch, in their save areas: those that were there, and of the old shadow and
the outgoing one all that do not keep the shadow slot. -/
def State.swapIn (s : State) (c : Nat) (i : Saved) : State :=
  let k := s.core c
  let x := i.ctx
  let out := k.run.suspend s.now k.port
  let old := if k.shadow.of x.launch then Ctx.reset else k.shadow
  let stays := s.saved.filter fun a => !(a.core == c && a.ctx.of x.launch)
  let save (y : Ctx) : List Saved := if y.resident then [⟨c, y, none, s.now⟩] else []
  let keepOut := out.resident && !out.overlaps x
  let shadow := if keepOut then out else if old.resident && !old.overlaps x then old else Ctx.reset
  let moved := (if keepOut then save old else save out ++ (if old.resident && old.overlaps x then save old else [])).map (k.displace x)
  let kept := stays.map fun a => if a.core == c then k.displace x a else a
  let k := match i.region with | some (m, fe) => k.putRegion x m fe | none => k
  ({ s with saved := kept ++ moved } : State).setCore c
    { k with run := x.resume s.now, shadow := shadow, port := x.port, switch := none }

/-- A switch without an incoming context: the outgoing one takes the shadow slot, or its save area where that is taken. -/
def State.swapOut (s : State) (c : Nat) : State :=
  let k := s.core c
  let out := k.run.suspend s.now k.port
  let (shadow, moved) : Ctx × List Saved :=
    if !out.resident then (k.shadow, []) else if k.shadow.resident then (k.shadow, [⟨c, out, none, s.now⟩]) else (out, [])
  ({ s with saved := s.saved ++ moved } : State).setCore c
    { k with run := Ctx.reset, shadow := shadow, port := Port.reset, switch := none }

/-- A running launch of which a context is switched out waits to resume, with its arrival at that tick (R298). -/
def State.preempted (s : State) (launch : Nat) : State :=
  s.updLaunch launch fun l => if l.state = .running then { l with state := .preempted, arrival := s.now } else l

/-- SWITCH_TICK (R74, R75): at its first instruction boundary at or after the tick the core exchanges its contexts. -/
def execSwitchTick (core : Nat) (s : State) : Out :=
  let k := s.core core
  match k.switch with
  | none => .next s
  | some w =>
    let state := match w.waits with | some n => (s.launch? n).map (·.state) | none => some .running
    if s.now < w.at_ ∨ state = some .loading then .next s
    else if state ≠ some .running then .next (s.setCore core { k with switch := none })
    else
      let s : State := ({ s with freed := true } : State).makeHalves fun _ _ _ => true
      let s := if k.run.resident && w.incoming != some k.run.launch then s.preempted k.run.launch else s
      let s := ((s.boundaryTrap core).abandon core)
      match w.incoming with
      | none => .next (s.swapOut core)
      | some n => match s.incoming core n with
        | some i => .next (s.swapIn core i)
        | none => .next (s.setCore core { k with switch := none })

/-- CONTEXT_STREAM (R73): the streaming slot has moved a context that does not run from the shadow slot to its save area, or from
there to the free shadow slot, with its region where that is out of ULM. -/
def execContextStream (core launch : Nat) (s : State) : Out :=
  let k := s.core core
  if k.shadow.of launch then
    .next (({ s with saved := s.saved ++ [⟨core, k.shadow, none, s.now⟩] } : State).setCore core { k with shadow := Ctx.reset })
  else match s.saved.find? fun a => a.core == core && a.ctx.of launch with
    | none => .next s
    | some a =>
      if k.shadow.resident || (k.run.resident && k.run.ctxid == a.ctx.ctxid) || (a.region.isSome && s.ulmTaken core a.ctx) then
        .next s
      else
        let k := match a.region with | some (m, fe) => k.putRegion a.ctx m fe | none => k
        .next (({ s with saved := s.saved.filter fun b => !(b.core == core && b.ctx.of launch) } : State).setCore core
          { k with shadow := a.ctx })

/-! ## Completion (R301, R304, R314) -/

/-- The status that a completion record carries (R304), when it is applied at tick `t`. -/
def Launch.finalStatus (l : Launch) (t : Nat) : Nat :=
  let st := if l.status = 0 ∧ (l.demoted ∨ (l.admitted ∧ l.overrun ≠ 0)) then 1 else l.status
  if l.hit && l.admitted && decide (l.deadline < t) then 2 else st

/-- A completion record (R304). -/
def Launch.completion (l : Launch) (status : Nat) : BitVec 128 :=
  BitVec.ofNat 64 (l.index + 1) ++ l.tag ++ sat16 l.lost ++ (0 : BitVec 8) ++ BitVec.ofNat 8 status

/-- The application tick of a completion record that the management complex publishes now: in the first device window that begins later in
which its source has a slot left (R134). -/
def State.nextApp (s : State) : Nat :=
  (s.now / 32 + 1 + (s.pubs.filter fun p => p.source == mgmtSource && p.app.isNone).length / 4) * 32 + 64

/-- The records of an ended launch's completion record, at its position of the completion ring (R304), where it may be written now: its
queue is not stopped (R293), and no other of the queue has a cause that arose earlier. -/
def State.completionRecords (s : State) (l : Launch) : Option (List LogRec) :=
  let d := s.descOf l
  if l.state ≠ .ended ∨ (s.queue l.queue).err ≠ 0 ∨
      (s.launchList.any fun m => m.state == .ended && m.queue == l.queue && decide (m.ptimeEnd < l.ptimeEnd)) then none
  else s.mgmtRecords (qCtxid d) (qCbase d + BitVec.ofNat 64 (16 * (l.index % qSize d)))
    (leBytes (l.completion (l.finalStatus s.nextApp)) 16)

/-- COMPLETION_RECORD (R304): an ended launch's record is published by the management complex. -/
def execCompletionRecord (launch : Nat) (s : State) : Out :=
  match s.launch? launch with
  | none => .next s
  | some l => match s.completionRecords l with
    | some rs => .next ((s.mgmtPublish rs).updLaunch launch fun m => { m with state := .finished })
    | none => .next s

/-! ## Clients outside (R294, R346) -/

/-- The number of a core that does not exist: the publications of clients outside belong to none. -/
def noCore : Nat := 4096

/-- The page of an address lies in `n` bytes from a base on. -/
def pageIn (a base n : Nat) : Bool := decide (base / 65536 ≤ a / 65536) && decide (a / 65536 < (base + n + 65535) / 65536)

/-- A page of the control block or of a ring of a queue's descriptor (R293, R295). -/
def queuePage (d : BitVec 512) (ctxid : BitVec 16) (a : Nat) : Bool :=
  qCtxid d == ctxid && (pageIn a (qQcb d).toNat 64 || pageIn a (qRbase d).toNat (64 * qSize d) || pageIn a (qCbase d).toNat (16 * qSize d))

/-- What clients outside reach (R317, R346): the pages of the queues that management has registered in their descriptors, and by RDMA its
registered regions. -/
def State.openTo (s : State) (host : Bool) (ctxid : BitVec 16) (va : W64) (n : Nat) : Bool :=
  let page (a : Nat) : Bool := queuePage s.mreq ctxid a ||
    s.qdesc.any fun (q, d) => queuePage d ctxid a || (s.queue q).desc.any fun e => queuePage e ctxid a
  (pageStarts va n).all fun a => page a.toNat ||
    (!host && s.regions.any fun r => r.ctxid == ctxid && decide (r.va ≤ a.toNat) && decide (a.toNat < r.va + r.len))

/-- One attempt at a write of a client outside: applied at its home as a publication of its own; one that translation refuses is dropped. -/
def State.outsideTry (s : State) (w : HeldWrite) : State :=
  match s.mgmtRecords w.ctxid w.va w.data with
  | some rs => s.publish w.source false .dev none noCore 0 true false rs (some s.now)
  | none => s

/-- A write of a client outside: only to what management has registered, and behind what waits of its source; it waits while a page is
absent (R170, R317, R346). -/
def outsideWrite (source : Nat) (host : Bool) (ctxid : BitVec 16) (va : W64) (data : List Byte) (s : State) : Out :=
  let w : HeldWrite := ⟨source, host, ctxid, va, data⟩
  if data.isEmpty || !s.openTo host ctxid va data.length then .next s
  else if s.mgmtAbsent ctxid .copyWrite va data.length || s.heldWrites.any (·.source == source) then
    .next { s with heldWrites := s.heldWrites ++ [w] }
  else .next (s.outsideTry w)

/-- Writes from outside that wait go on, each source's in their order, once their pages are there. -/
def State.heldGoOn (s : State) : State :=
  let l := s.heldWrites
  l.foldl (fun s w =>
    if (s.mgmtAbsent w.ctxid .copyWrite w.va w.data.length) || s.heldWrites.any (·.source == w.source) then
      { s with heldWrites := s.heldWrites ++ [w] }
    else s.outsideTry w) { s with heldWrites := [] }

/-- What a client outside reads (R317, R346): by RMA read, or with `host` by a load of the host; none where it reaches nothing. -/
def State.outsideRead (s : State) (host : Bool) (ctxid : BitVec 16) (va : W64) (n : Nat) : Option (List Byte) :=
  if n = 0 ∨ !s.openTo host ctxid va n then none
  else (List.range n).mapM fun j => (s.mgmtRead ctxid (va + BitVec.ofNat 64 j) 1).bind (·.head?)

/-- The state that a read from outside leaves: what it reads has caught up, and a poisoned line that it meets is consumed (R329). -/
def State.afterOutsideRead (s : State) (host : Bool) (ctxid : BitVec 16) (va : W64) (n : Nat) : State :=
  if n = 0 ∨ !s.openTo host ctxid va n then s
  else
    let s := (pageStarts va n).foldl (fun s a => s.mgmtSettle ctxid (BitVec.ofNat 64 (a.toNat / 65536 * 65536)) 65536) s
    match (List.range n).findSome? fun j => s.mgmtLine ctxid (va + BitVec.ofNat 64 j) 1 with
    | some key => s.mgmtConsume none key
    | none => s

/-- The communication processor of a port: scale-out ports 0–7, two on each G-die after its four Zhevlink ports; 8 and 9: the
front-end ports of G-die 8 (R11, R135). -/
def portProcessor (port : Nat) : Nat :=
  if 8 ≤ port then port - 2 else if port < 2 then 4 + port else 6 * (port / 2) + 6 + port % 2

/-- RDMA_WRITE (R294, R317, R346): a publication of the port's communication processor. -/
def execRdmaWrite (port ctxid : Nat) (va : W64) (data : List Byte) (s : State) : Out :=
  if port < 10 then outsideWrite (2320 + portProcessor port) false (BitVec.ofNat 16 ctxid) va data s else .next s

/-- CXL_WRITE (R294, R346): the ports of G-dies 9 and 10. -/
def execCxlWrite (port ctxid : Nat) (va : W64) (data : List Byte) (s : State) : Out :=
  if port < 2 then outsideWrite (2352 + port) true (BitVec.ofNat 16 ctxid) va data s else .next s

end Sys2Proof.Machine
end

