-- ==== Sys2Proof/Machine/Fabric.lean ====
section
/-!
DEFINITION. Die boundaries, dead ports, incarnations and the domain's time (R308–R315). What only delays a packet is not
modelled.
-/

namespace Sys2Proof.Machine

open Sys2Proof

/-- The step of a boundary after a step tick (R309, R310): one up, one down or the same, within the limits. -/
def Boundary.next (x : Boundary) (busy idle : Bool) : Nat :=
  let ceil := min 5 x.ceil.toNat
  let step := x.step.toNat
  let want := if busy then step + 1 else if idle then step - 1 else step
  if ceil < x.floor.toNat then ceil else max x.floor.toNat (min ceil want)

/-- Ticks between two step ticks (R309). -/
def stepTicks : Nat := 160000

/-- STEP_TICK (R309): at a step tick every boundary moves by its occupancy over the interval: bit `b` of `busy`: above 75 %, of
`idle`: below 25 %. A boundary that changes step opens its retraining window. -/
def execStepTick (busy idle : BitVec 18) (s : State) : Out :=
  if s.now % stepTicks ≠ 0 ∨ s.stepAt = s.now then .next s
  else .next ((List.range 18).foldl (fun s b =>
    let x := s.boundary b
    let n := x.next (busy.getLsbD b) (idle.getLsbD b)
    if n = x.step.toNat then s
    else s.setBoundary b { x with step := BitVec.ofNat 3 n, retrain := some (s.now + 2400) }) { s with stepAt := s.now })

/-- RETRAIN_END (R309). -/
def execRetrainEnd (boundary : Nat) (s : State) : Out :=
  if boundary < 18 then .next (s.setBoundary boundary { s.boundary boundary with retrain := none }) else .next s

/-- Live ports below which a boundary is declared dead (R312). -/
def minLive (b : Nat) : Nat := if b < 10 then 16 else 8

/-- Whether a packet on its way is held in, or waits for, a port of a boundary that dies. Packets leave through a port that is a fixed
function of their target, which the manual does not give: the choice is free (log 17). -/
def Packet.atPort (p : Packet) (boundary n : Nat) (w : W64) : Bool :=
  p.state == .flying && p.nacked.isNone && routeCrosses boundary (dieOf p.core) (dieOf p.target) && w.getLsbD (n % 64)

/-- The admitted launches of which another packet, of a load, a record, a unit or an image load, is held in a port that dies: which is not
stated (log 9). -/
def State.alsoHeld (s : State) : List Launch :=
  s.launchList.filter fun l => l.admitted && !l.demoted &&
    (l.state == .running || l.state == .loading || l.state == .preempted) && (s.freeWord (64 + l.id)).getLsbD 0

/-- Launches that count as hit by a dead port (R314). -/
def State.hitAll (s : State) (l : List Nat) : State := l.foldl (fun s n => s.updLaunch n fun l => { l with hit := true }) s

/-- PORT_DEAD (R312, R314): a crossing port dies: its packets are negatively acknowledged, the admitted launches that sent them
count as hit, and with too few ports left the boundary is declared dead. -/
def execPortDead (boundary : Nat) (s : State) : Out :=
  let x := s.boundary boundary
  if 18 ≤ boundary ∨ x.live = 0 then .next s
  else
    let w := s.freeWord 3
    let held := (s.packets.zipIdx.filter fun (p, n) => p.atPort boundary n w).map (·.1)
    let packets := s.packets.zipIdx.map fun (p, n) => if p.atPort boundary n w then { p with nacked := some boundary } else p
    let hit := (held.filter fun p => s.isAdmitted p.launch).map (·.launch) ++ s.alsoHeld.map (·.id)
    let s : State := { s with packets := packets }
    let s := s.hitAll hit
    let live := x.live - 1
    let dies := !x.dead && decide (live.toNat < minLive boundary)
    let s := s.setBoundary boundary { x with
      live := live
      nack := BitVec.ofNat 8 (min 255 (x.nack.toNat + held.length + (s.freeWord 10).toNat % 256))
      dead := x.dead || dies
      deadAt := if dies then s.now else x.deadAt }
    .next ((s.deviceEvent 0x22).deviceEvent 0x21)

/-- ESCAPE_ROUTE_INSTALL (R312): routes that avoid a dead boundary. -/
def execEscapeRouteInstall (boundary : Nat) (s : State) : Out :=
  let x := s.boundary boundary
  if 18 ≤ boundary ∨ !x.dead then .next s else .next (s.setBoundary boundary { x with escape := true })

/-- NACK_RESEND (R312): the sources send the packets of a dead port again, in their order. -/
def execNackResend (boundary : Nat) (s : State) : Out :=
  .next { s with packets := s.packets.map fun p => if p.nacked = some boundary then { p with nacked := none, sent := s.now } else p }

/-- The die that a packet, or once it is answered its answer, is bound for. -/
def Packet.boundFor (p : Packet) : Nat := if p.state = .flying then dieOf p.target else dieOf p.core

/-- A packet or its answer has been in the fabric for more than 64,000 ticks (R315): one that was negatively acknowledged is back at its source,
and an answer for a context that does not run has come. -/
def State.agedPacket (s : State) (p : Packet) : Bool :=
  p.nacked.isNone && decide (p.sent + 64000 < s.now) && (p.state == .flying || (s.core p.core).run.of p.launch)

/-- The response to a shared load has been in the fabric for more than 64,000 ticks (R315). -/
def SharedLoad.aged (l : SharedLoad) (now : Nat) : Bool := l.got.any fun (_, t, _) => decide (t + 64000 < now)

/-- The response to a local load of another cluster has been in the fabric for more than 64,000 ticks (R315). -/
def LocalLoad.aged (l : LocalLoad) (now : Nat) : Bool := clusterOf l.from_ != clusterOf l.core && decide (l.sent + 64000 < now)

/-- The dies that packets in the fabric for more than 64,000 ticks are bound for (R315). -/
def State.agedDies (s : State) : List Nat :=
  (s.packets.filter s.agedPacket).map Packet.boundFor ++ (s.loads.filter (·.aged s.now)).map (dieOf ·.core) ++
    (s.locals.filter (·.aged s.now)).map (dieOf ·.core)

/-- PACKET_AGE_DROP (R315): a packet to a die that has been in the fabric for more than 64,000 ticks is dropped and counted: a remote
register write or message, its answer, or the response to a load (log 49). -/
def execPacketAgeDrop (die : Nat) (s : State) : Out :=
  let x := s.die die
  let count (s : State) : State := s.setDie die { x with aged := BitVec.ofNat 24 (min (2 ^ 24 - 1) (x.aged.toNat + 1)) }
  match s.packets.findIdx? fun p => p.boundFor == die && s.agedPacket p,
    s.loads.findIdx? fun l => dieOf l.core == die && l.aged s.now,
    s.locals.findIdx? fun l => dieOf l.core == die && l.aged s.now with
  | some n, _, _ => .next (count { s with packets := s.packets.eraseIdx n })
  | none, some n, _ => .next (count { s with loads := s.loads.eraseIdx n })
  | none, none, some n => .next (count { s with locals := s.locals.eraseIdx n })
  | none, none, none => .next s

/-- The management complex's registers at their reset values, with what it keeps in them (R4, R347): G-die 8 holds them. -/
def State.resetManagement (s : State) : State :=
  let r := State.reset
  { s with
    invAddr := r.invAddr, invAsid := r.invAsid, invDone := r.invDone, invPend := r.invPend, invAcks := r.invAcks
    boundaries := r.boundaries, reservations := r.reservations
    snapHeld := r.snapHeld, snapSrc := r.snapSrc, snapMissed := r.snapMissed, snapPending := r.snapPending, snapImage := r.snapImage
    spillCount := r.spillCount, staleChunks := r.staleChunks, groups := r.groups,
    instances := s.instances.map fun i => { i with current := false }
    repOff := r.repOff, cmapStage := r.cmapStage
    bootStage := r.bootStage, bootSrc := r.bootSrc, bootFail := r.bootFail, bootHalted := r.bootHalted
    ras := r.ras, rasOverflow := r.rasOverflow
    qdesc := r.qdesc, mreq := r.mreq, mreqQueue := r.mreqQueue, rights := r.rights, requests := r.requests }

/-- DIE_RESET (R315): a die's state is cleared and its incarnation number goes up. A C-die's cores reset as a containment reset of
the whole die does, their cycle counters count from the end of the reset (R106), and its containment map is the reset map (R4, R333);
responses to its loads are dropped when they come, and none that carries the new number again can still be in the fabric. With G-die 8 the
management registers reset. -/
def execDieReset (die : Nat) (s : State) : Out :=
  if 12 ≤ die then .next s
  else
    let loads := s.loads
    let inc := (s.die die).inc + 1
    let ends := s.now + 160000
    let s := if die < 8 then
        (List.range 256).foldl (fun s n => s.setCore (die * 256 + n) { Core.reset with cyc := BitVec.ofNat 64 ends })
          (s.resetRect die ⟨0, 0, 0, 16, 16⟩)
      else if die = 8 then s.resetManagement else s
    .next (({ s with loads := loads.filter fun l => !(dieOf l.core == die && l.inc8 == inc) } : State).setDie die
      { Die.reset with inc := inc, resetEnd := ends })

/-- DOMAIN_TIME_LOSS (R311): this device has lost step and leaves the domain: what lies on other devices is out of its reach. -/
def execDomainTimeLoss (s : State) : Out := .next { s with domainLost := true }

/-- The state in which a Zhevlink port of the device is dead (R312, R316): what it held is sent again and takes the other ports, and the
admitted launches that it held packets of, which are not stated (log 9), count as hit (R314). -/
def State.zhevPortDead (s : State) (port : Fin 16) : State :=
  ({ s with zhevDead := s.zhevDead ||| BitVec.twoPow 16 port.val } : State).hitAll (s.alsoHeld.map (·.id))

/-- The state in which a peer over Ultra Ethernet is reported as unreachable (R323). -/
def State.endpointGone (s : State) (n : Nat) : State :=
  { s with goneEndpoints := if s.goneEndpoints.contains n then s.goneEndpoints else n :: s.goneEndpoints }

/-- The state in which another device of the domain is reported as unreachable (R311, R313). -/
def State.deviceGone (s : State) (device : Nat) : State :=
  { s with goneDevices := if s.goneDevices.contains device then s.goneDevices else device :: s.goneDevices }

end Sys2Proof.Machine
end

