-- ==== Sys2Proof/Machine/Reliab.lean ====
section
/-!
DEFINITION. Errors and the RAS log (R329–R332), containment's end (R333, R334), snapshots (R336, R338) and the module's thermal
limits (R340).
-/

namespace Sys2Proof.Machine

open Sys2Proof

/-! ## Errors (R329, R330) -/

/-- The key of home memory of this device at a physical address. -/
def homeKey (pa : Nat) : Nat := Config.device * 2 ^ 41 + pa % 2 ^ 41

/-- A line of home memory marked poisoned (R329), with the reason (R331). The scrubber has read it. -/
def State.markPoison (s : State) (pa : Nat) (tag : Bool) : State :=
  let l := homeKey pa / 64 * 64
  { s with
    poison := if s.poison.contains l then s.poison else s.poison ++ [l]
    tagged := if tag && !s.tagged.contains l then s.tagged ++ [l] else s.tagged
    latent := s.latent.filter fun (m, _) => m != l }

/-- A line of home memory goes bad: reads of it are consumed errors from now on, and the scrubber finds it when it reads the line (R329,
R332). -/
def State.memFault (s : State) (pa : Nat) (tag : Bool) : State :=
  let l := homeKey pa / 64 * 64
  let t := s.markPoison pa tag
  { t with latent := (l, s.now) :: t.latent }

/-- The lines that the scrubber has to read by now: those that have gone bad a scrub interval ago (R332). -/
def State.scrubDue (s : State) : List (Nat × Bool) :=
  (s.latent.filter fun (_, t) => decide (t + s.scrubEvery ≤ s.now)).map fun (l, _) => (l, s.tagged.contains l)

/-- CORRECTED_ERROR (R329): logged with kind 1 or 2. -/
def execCorrectedError (err : ErrSite) (s : State) : Out :=
  match err with
  | .local_ core opm => .next (s.rasAdd 1 (BitVec.ofNat 12 core) opm)
  | .mem pa _ _ => .next (s.rasAdd 2 (memUnit pa) (memPlace pa))

/-- LATENT_ERROR (R329, R90): logged with kind 3, or 4 or 6 for memory, whose line is marked. -/
def execLatentError (err : ErrSite) (s : State) : Out :=
  match err with
  | .local_ core opm => .next (s.rasAdd 3 (BitVec.ofNat 12 core) opm)
  | .mem pa _ tag => .next ((s.rasAdd (if tag then 6 else 4) (memUnit pa) (memPlace pa)).markPoison pa tag)

/-- The core whose rectangle a local error resets (R333): an error in a cluster's memories is a cluster unit's. -/
def errorCore (core : Nat) (opm : BitVec 44) : Nat :=
  if 4 ≤ (opm.extractLsb' 28 4).toNat then baseCore (clusterOf core) else core

/-- CONSUMED_ERROR (R329, R334): logged with kind 5, or 6 for a tag; the rectangle is reset. -/
def execConsumedError (err : ErrSite) (s : State) : Out :=
  match err with
  | .local_ core opm => .next ((s.rasAdd 5 (BitVec.ofNat 12 core) opm).consume (errorCore core opm))
  | .mem pa core tag => .next ((s.rasAdd (if tag then 6 else 5) (memUnit pa) (memPlace pa)).consume core)

/-- SCRUB_LINE (R332): what the scrubber finds in a line. -/
def execScrubLine (pa : Nat) (res : ScrubResult) (s : State) : Out :=
  match res with
  | .good => .next s
  | .corrected => .next (s.rasAdd 2 (memUnit pa) (memPlace pa))
  | .uncorrectable => .next ((s.rasAdd 4 (memUnit pa) (memPlace pa)).markPoison pa false)
  | .tagFail => .next ((s.rasAdd 6 (memUnit pa) (memPlace pa)).markPoison pa true)

/-! ## After a reset (R334) -/

/-- CONTAINMENT_LAUNCH_FAULT (R334): a launch that the reset hit ends with FAULT: its contexts end, none of a launch that is still
loading starts. -/
def execContainmentLaunchFault (launch : Nat) (s : State) : Out :=
  match s.launch? launch with
  | none => .next s
  | some l =>
    if !l.doomed || l.state == .ended || l.state == .finished then .next s
    else
      let s := (s.updLaunch launch fun m => { m with status := max m.status 2 }).dropSwitches launch
      let s : State := { s with clusters := s.clusters.mapVal fun _ x =>
        { x with loader := x.loader.filter fun t => t.launch != launch } }
      let s := l.cores.foldl (fun s c => s.endContext c launch 2) s
      match s.launch? launch with
      | some m => if m.state = .ended then .next s else .next (s.release launch)
      | none => .next s

/-- CONTAINMENT_END (R334): a rectangle is back in service. -/
def execContainmentEnd (die rect : Nat) (s : State) : Out :=
  if 8 ≤ die then .next s
  else .next (s.setDie die { s.die die with resetting := (s.die die).resetting.filter fun (n, _) => n != rect })

/-- MAP_COMMIT (R333): the map written for a die comes into force if it covers each core once. -/
def execMapCommit (die : Nat) (s : State) : Out :=
  match s.cmapStage.find? die with
  | some l => if die < 8 ∧ l.length = 32 ∧ mapOk l then .next (s.setDie die { s.die die with cmap := l }) else .next s
  | none => .next s

/-! ## Snapshots (R336, R338) -/

/-- SNAPIN_EDGE (R336). -/
def execSnapinEdge (s : State) : Out := .next (s.trigger 2)

/-- Every resident context finds `snapctl.fired` set. -/
def State.fireAll (s : State) : State :=
  let fire (x : Ctx) : Ctx := if x.resident then { x with snapFired := true } else x
  { s with cores := s.cores.mapVal fun _ k => { k with run := fire k.run, shadow := fire k.shadow } }

/-- SNAPSHOT_LATCH (R336): 64 ticks after the trigger every snapshot register latches. -/
def execSnapshotLatch (s : State) : Out :=
  match s.snapPending with
  | none => .next s
  | some (t, src) =>
    if s.now < t + 64 then .next s
    else
      let image : SnapImage :=
        ⟨s.now, s.readyNow, s.cores, s.clusters, s.dies, s.boundaries, s.spillCount, s.staleChunks, s.rasOverflow⟩
      .next ({ s with snapPending := none, snapHeld := true, snapSrc := src, snapImage := some image } : State).fireAll

/-- SNAPSHOT_RELEASE (R338). -/
def execSnapshotRelease (s : State) : Out := .next { s with snapHeld := false, snapSrc := 0, snapImage := none }

/-! ## Thermal limits (R340) -/

/-- THERMAL_WARNING (R340): an entry of kind RESET with unit 0xFFF; its place is not stated (log 17). -/
def execThermalWarning (s : State) : Out := .next (s.rasAdd 8 0xFFF ((s.freeWord 9).setWidth 44))

/-- THERMAL_POWEROFF (R340). -/
def execThermalPoweroff (s : State) : Out := .next { s with off := true }

end Sys2Proof.Machine
end

