-- ==== Sys2Proof/Machine/SaveArea.lean ====
section
/-!
DEFINITION. The bytes of a save area (R78, R142, R246): the context image of 8 KiB, the spill descriptor at 0x2000 and the matrix state
block at 0x2100. State holds a context that is out as its fields (log 31); these are the bytes that they make.
-/

namespace Sys2Proof.Machine

open Sys2Proof

/-- The `cstate` word of a context (R78). -/
def Ctx.cstate (x : Ctx) : W64 :=
  x.tvec ++ (0 : BitVec 13) ++ x.size ++ x.base ++ (0 : BitVec 6) ++ x.tthr ++ BitVec.ofBool (x.phase == .exchange) ++
    BitVec.ofBool x.inh ++ BitVec.ofBool (x.pmode == .supervisor) ++ BitVec.ofBool (x.mode == .supervisor)

/-- The spill descriptor of a context (R142). -/
def Ctx.spillDesc (x : Ctx) : BitVec 128 := (0 : BitVec 16) ++ x.spillBase ++ (0 : BitVec 48) ++ x.spillSize

/-- Words one after another, each of `n` bytes. -/
def wordsBytes {w : Nat} (n : Nat) (l : List (BitVec w)) : List Byte := l.flatMap fun v => leBytes v n

/-- The matrix state block (R246). -/
def MxBlock.bytes (m : MxBlock) : List Byte :=
  wordsBytes 8 [m.wpair0, m.wpair1, m.wfmt, m.status] ++ wordsBytes 4 m.css.toList ++ wordsBytes 4 m.csu.toList ++
    wordsBytes 8 m.rq.toList

/-- An inbox entry: register index, thread and value; the value fills the upper half (log 31). -/
def InboxEntry.bytes (e : InboxEntry) : List Byte := wordsBytes 8 [BitVec.ofNat 64 (e.idx.toNat + 256 * e.thr), e.val]

/-- The parts of a save area, each with its first byte (R78, R142, R246). `csr` gives the values of CSRs at the save. -/
def Ctx.areaParts (x : Ctx) (csr : Nat → W64) : List (Nat × List Byte) :=
  let ts := x.threads.toList
  [(0, ts.flatMap fun t => wordsBytes 8 t.regs.toList),
    (0xB00, x.vregs.toList.flatMap fun v => leBytes v 256),
    (0x1B00, wordsBytes 8 ((List.range 8).map fun n => x.mask (BitVec.ofNat 3 n))),
    (0x1B40, wordsBytes 4 (ts.map (·.present))),
    (0x1B80, wordsBytes 8 (ts.map (·.pc)) ++ leBytes (BitVec.ofNat 16 ((ts.zipIdx.map fun (t, n) => if t.live then 2 ^ n else 0).sum)) 2),
    (0x1C00, wordsBytes 8 (x.cstate :: (List.range 19).map csr)),
    (0x1D00, x.inbox.flatMap InboxEntry.bytes),
    (0x2000, leBytes x.spillDesc 16),
    (0x2100, x.mx.bytes)]

/-- Byte `a` of the save area of a context that was saved. The form of the gang state and of the queued commands and streams is not stated
(R78): their bytes are free values that depend on nothing but what they hold. -/
def State.areaByte (s : State) (x : Saved) (a : Nat) : Byte :=
  let csr (n : Nat) : W64 := csrValue x.tick x.core (s.core x.core) false x.ctx ((Csr.ofBits (BitVec.ofNat 5 n)).getD .xpc)
  match (x.ctx.areaParts csr).find? fun (o, l) => decide (o ≤ a) && decide (a < o + l.length) with
  | some (o, l) => (l[a - o]?).getD 0
  | none =>
    let k := s.core x.core
    let l := x.ctx.launch
    Config.areaByte (x.ctx, k.vq.filter (·.launch == l), k.mq.filter (·.launch == l)) a

end Sys2Proof.Machine
end

