-- ==== Sys2Proof/Machine/Tsc.lean ====
section
/-!
DEFINITION. The TSC's service of misses (R169–R171), its sweeps, and invalidation (R172, R173).
-/

namespace Sys2Proof.Machine

open Sys2Proof

/-- The state with a cluster's misses replaced. -/
def State.setMisses (s : State) (k : Nat) (l : List Miss) : State := s.setCluster k { s.cluster k with misses := l }

/-- A miss that has walked and is to return. -/
def Miss.returning (m : Miss) : Bool := match m.state with | .walked _ => true | _ => false

/-- A miss whose walk is under way. -/
def Miss.walking (m : Miss) : Bool := match m.state with | .walking _ _ => true | _ => false

/-- The first miss of a list for which a condition holds, replaced. -/
def updFirst (p : Miss → Bool) (f : Miss → Miss) : List Miss → List Miss
  | [] => []
  | m :: l => if p m then f m :: l else m :: updFirst p f l

/-- The miss that the TSC serves next: priority misses first, in arrival order (R169). A re-walk keeps the place of its first arrival
(DESIGN CHOICE, log 92). -/
def nextMiss (l : List Miss) : Option Miss :=
  match l.find? fun m => m.state == .queued && m.priority with
  | some m => some m
  | none => l.find? fun m => m.state == .queued

/-- What a walk that goes on now leaves: it makes some of its table reads now, a free choice how many, and the others later (R167). -/
def State.walkOn (s : State) (va : BitVec 48) (m : Rv) (left : Nat) : MissState :=
  match rvRun s (m.reads + s.freeNat 18 % (allReads + 1)) left m with
  | (.next n, f) => .walking n f
  | (r, _) => .walked (s.walkEnd va r)

/-- TSC_WALK (R167, R169): the walk under way goes on, or the next queued miss begins one; one walk runs at a time. A walk that reads a
poisoned line consumes the error: the TSC is a unit of the cluster, whose base core's rectangle is reset (R333). -/
def execTscWalk (cluster : Nat) (s : State) : Out :=
  let l := (s.cluster cluster).misses
  let go (m : Miss) (start : Nat) (st : MissState) : Out :=
    match st with
    | .walked (.consumed key) => .next ((s.setMisses cluster (l.filter (· != m))).consumeLine (baseCore cluster) key)
    | st => .next (s.setMisses cluster (updFirst (· == m) (fun m => { m with state := st, start := start }) l))
  match l.find? Miss.walking with
  | some m => match m.state with
    | .walking rv left => go m m.start (s.walkOn m.va rv left)
    | _ => .next s
  | none =>
    if l.any Miss.returning then .next s
    else match nextMiss l with
      | none => .next s
      | some m => go m s.now (match s.ctxLine m.ctxid with
        | some key => .walked (.consumed key)
        | none => s.walkOn m.va (s.walkStart m.ctxid m.kind m.va) walkFuel)

/-- The entry that a FILL writes: in mode L with its lease (R169). -/
def filled (w : BitVec 128) (lease start : Nat) : TlbEntry :=
  if lease = 0 then ⟨w, false⟩
  else ⟨(BitVec.ofNat 32 (start / 1024 + lease) : W32) ++ w.extractLsb' 0 96, true⟩

/-- A launch is charged a PIN page that is filled for it for the first time (R302). -/
def State.chargePage (s : State) (launch : Nat) (e : TlbEntry) : State :=
  if s.isAdmitted launch && e.pin then
    s.updLaunch launch fun l =>
      let p := (e.asid.toNat, e.size, e.vpn >>> pageShift e.size)
      if l.pinPages.contains p then l else { l with pinPages := l.pinPages ++ [p], pages := l.pages + 1 }
  else s

/-- Ticks of 50 µs. -/
def ticks50us : Nat := 80000

/-- TLB_FILL (R169–R171): the walk returns. FILL writes the shared and the requesting TLB; ABSENT waits for a signal or 50 µs;
a first DENY is walked again, a second DENY or a walk error is final. -/
def execTlbFill (cluster : Nat) (s : State) : Out :=
  let l := (s.cluster cluster).misses
  match l.find? Miss.returning with
  | none => .next s
  | some m =>
    let put (st : MissState) (s : State) : Out := .next (s.setMisses cluster (updFirst (· == m) (fun m => { m with state := st }) l))
    match m.state with
    | .walked (.fill w) =>
      let e := filled w (recLease (s.ctxRecord m.ctxid)) m.start
      let s := s.setMisses cluster (l.filter (· != m))
      let s := s.setCluster cluster ((s.cluster cluster).sharedFill e)
      .next ((s.userFill cluster m.user e).chargePage m.launch e)
    | .walked .absent => put (.absent (s.now + ticks50us)) (s.unpinned m.launch)
    | .walked .deny => put (if m.second then .final else .denied m.start) s
    | .walked _ => put .final s
    | .queued | .walking _ _ | .denied _ | .absent _ | .final => .next s

/-- A miss that waits for its page (R170). -/
def Miss.isAbsent (m : Miss) : Bool := match m.state with | .absent _ => true | _ => false

/-- A miss that has waited 50 µs for its page (R170). -/
def Miss.absentOver (m : Miss) (now : Nat) : Bool := match m.state with | .absent t => decide (t ≤ now) | _ => false

/-- ABSENT_REWALK (R170): a miss that has waited 50 µs walks again; where none has, management signals the address space of the first that
waits: a signal may come at any time. -/
def execAbsentRewalk (cluster : Nat) (s : State) : Out :=
  let l := (s.cluster cluster).misses
  let it (m : Miss) : Bool := if l.any (·.absentOver s.now) then m.absentOver s.now else m.isAbsent
  .next (s.setMisses cluster (updFirst it (fun m => { m with state := .queued }) l))

/-- DENY_REWALK (R170): a denied miss walks again, 64 ticks after its first walk began or later. -/
def execDenyRewalk (cluster : Nat) (s : State) : Out :=
  let due (m : Miss) : Bool := match m.state with | .denied t => decide (t + 64 ≤ s.now) | _ => false
  .next (s.setMisses cluster (updFirst due (fun m => { m with state := .queued, second := true }) (s.cluster cluster).misses))

/-- The entries that a condition names leave every TLB of a cluster, and the commands of its engines that have translated through them: they
translate their pages again (R183). -/
def State.dropEntries (s : State) (k : Nat) (p : TlbEntry → Bool) : State :=
  let x := s.cluster k
  let left (l : List Trans) : List Trans := l.filter fun t => !p t.entry
  let transfers (l : List Transfer) : List Transfer := l.map fun t => { t with trans := left t.trans }
  let s := s.setCluster k { x with
    copyTlb := x.copyTlb.drop p
    sharedTlb := x.sharedTlb.mapVal fun _ t => t.drop p
    channels := x.channels.map fun c => { c with queue := transfers c.queue }
    loader := transfers x.loader }
  let s : State := { s with instances := s.instances.map fun i => if clusterOf i.core = k then { i with trans := left i.trans } else i }
  (coresOfCluster k).foldl (fun s c =>
    if (s.core c).tlb.entries.isEmpty then s else s.setCore c { s.core c with tlb := (s.core c).tlb.drop p }) s

/-- TLB_SWEEP (R169): expired entries of mode L leave. -/
def execTlbSweep (cluster : Nat) (s : State) : Out :=
  let s := s.dropEntries cluster fun e => e.expired s.now
  .next (s.setCluster cluster { s.cluster cluster with sweepAt := s.now })

/-- The longest time between two sweeps of a TSC, in ticks (R169). -/
def sweepTicks : Nat := 2 ^ 20 * 1024

/-! ## Invalidation (R172, R173) -/

/-- The scope of the last request: 0 a page, 1 an address space, 2 everything. -/
def State.invScope (s : State) : Nat := (s.invReq.1.extractLsb' 0 2).toNat

/-- The page of the last request. -/
def State.invVa (s : State) : Nat := (s.invReq.1.extractLsb' 16 32).toNat * 2 ^ 16

/-- INVCTL.go (R172): a request starts, unless one is in progress or the scope is reserved. -/
def State.invGo (s : State) : State :=
  if !s.invDone || s.invAddr.extractLsb' 0 2 == 3 then s
  else { s with invDone := false, invAcks := List.range 256, invReq := (s.invAddr, s.invAsid) }

/-- INVAL_VA (R172). -/
def execInvalVa (vpn : BitVec 32) (asid : BitVec 12) (s : State) : Out :=
  if !s.invDone then .next s else .next ({ s with invAddr := (vpn.setWidth 64 <<< 16), invAsid := asid } : State).invGo

/-- INVAL_ASID (R172). -/
def execInvalAsid (asid : BitVec 12) (s : State) : Out :=
  if !s.invDone then .next s
  else .next ({ s with invAddr := (s.invAddr &&& ~~~3) ||| 1, invAsid := asid } : State).invGo

/-- INVAL_ALL (R172). -/
def execInvalAll (s : State) : Out :=
  if !s.invDone then .next s else .next ({ s with invAddr := (s.invAddr &&& ~~~3) ||| 2 } : State).invGo

/-- An entry that the last request names. -/
def State.invHits (s : State) (e : TlbEntry) : Bool :=
  match s.invScope with
  | 0 => e.asid == s.invReq.2 && e.covers s.invVa
  | 1 => e.asid == s.invReq.2
  | _ => true

/-- An address of an address space, in a page of the given size, that the last request names. -/
def State.invNames (s : State) (asid : BitVec 12) (va size : Nat) : Bool :=
  match s.invScope with
  | 0 => asid == s.invReq.2 && va >>> (16 + pageShift size) == s.invVa >>> (16 + pageShift size)
  | 1 => asid == s.invReq.2
  | _ => true

/-- The view lines that the last request names leave a cluster's view. -/
def State.invView (s : State) (k : Nat) : State :=
  let named (m : PMap ViewByte) (a : Nat) (_ : ViewByte) : Bool :=
    m.any fun (v, b) => v / 64 == a / 64 && s.invNames (BitVec.ofNat 12 (v / 2 ^ 48)) (v % 2 ^ 48) b.size
  s.dropView k (named (s.cluster k).view)

/-- TSC_ACKNOWLEDGE (R173): a TSC acknowledges once no earlier walk of the address space runs and its entries are gone; one in
a rectangle under reset waits for the reset's end. -/
def execTscAcknowledge (cluster : Nat) (s : State) : Out :=
  if s.invDone || !s.invAcks.contains cluster || s.fenced (baseCore cluster) then .next s
  else if (s.cluster cluster).misses.any fun m => (m.returning || m.walking) && (s.invScope == 2 || m.asid == s.invReq.2) then .next s
  else
    let s := (s.invView cluster).dropEntries cluster s.invHits
    .next { s with invAcks := s.invAcks.filter (· != cluster) }

/-- Records pending at homes, unpublished, in the range of the last request (R172): those whose publication does not hold a slot yet (DESIGN
CHOICE, log 108: R172 does not say whether a record counts up to its REL, its slot or its application). -/
def State.invPending (s : State) : Nat :=
  (s.cores.map fun (_, k) => (k.log.filter fun r =>
    (match r.homed with | some h => s.invNames (s.asidOf r.ctx) r.va h.size | none => false) &&
      (match r.pub with | none => true | some id => s.pubs.any fun p => p.id == id && p.app.isNone)).length).sum

/-- INVAL_DONE (R173). -/
def execInvalDone (s : State) : Out :=
  if s.invDone || !s.invAcks.isEmpty then .next s else .next { s with invDone := true, invPend := sat16 s.invPending }

end Sys2Proof.Machine
end

