-- ==== Sys2Proof/Machine/Manage.lean ====
section
/-!
DEFINITION. The management map (R347) with the snapshot registers (R339), boot (R341–R344), and the requests to management
(R345, R348).
-/

namespace Sys2Proof.Machine

open Sys2Proof

/-! ## Register words -/

/-- INVCTL (R172). -/
def State.invCtl (s : State) : W64 :=
  s.invPend ++ (0 : BitVec 20) ++ s.invAsid ++ (0 : BitVec 14) ++ BitVec.ofBool s.invDone ++ (0 : BitVec 1)

/-- BNDCTL (R310). -/
def Boundary.word (x : Boundary) : W64 :=
  x.nack ++ x.live ++ (0 : BitVec 36) ++ BitVec.ofBool x.dead ++ x.step ++ (0 : BitVec 1) ++ x.ceil ++ (0 : BitVec 1) ++ x.floor

/-- BNDCTL of a boundary among those of a table. -/
def boundaryOf (m : PMap Boundary) (b : Nat) : Boundary := m.get b (Boundary.reset b)

/-- DIESTAT (R315). -/
def Die.stat (x : Die) : W64 := (0 : BitVec 8) ++ x.aged ++ x.stale ++ x.inc

/-- COLLSTAT (R326). -/
def collStat (spill : W32) (stale : BitVec 16) : W64 := spill ++ (0 : BitVec 16) ++ stale

/-- SNAPSTAT (R338). -/
def State.snapStat (s : State) : W64 :=
  s.snapMissed ++ (0 : BitVec 40) ++ s.snapSrc ++ (0 : BitVec 3) ++ BitVec.ofBool s.snapHeld

/-- BOOTSTAT (R344). -/
def State.bootStat (s : State) : W64 :=
  (0 : BitVec 24) ++ s.bootStage ++ s.bootSrc ++ (0 : BitVec 13) ++ s.bootFail ++ (0 : BitVec 7) ++ BitVec.ofBool s.bootHalted

/-- A reservation's word (R299). -/
def Reservation.word (r : Reservation) : BitVec 128 := r.p ++ r.q ++ (0 : BitVec 36) ++ r.dmask ++ r.rect

/-- A group-table entry (R319). -/
def Group.word (g : Group) : BitVec 512 :=
  g.members ++ g.f ++ g.s ++ (0 : BitVec 320) ++ g.rank ++ g.count ++ (0 : BitVec 27) ++ BitVec.ofBool g.v ++ g.gen

/-- A group-table entry by number. -/
def State.groupAt (s : State) (id : Nat) : Group := s.groups.get id Group.reset

/-- The 64-bit word of a wider value at an offset of bytes within it. -/
def wordAt {w : Nat} (v : BitVec w) (o : Nat) : W64 := v.extractLsb' (8 * o) 64

/-- The containment map of a die as 32 words (R333). The die fields of the reset map's words read 0 (DESIGN CHOICE, log 89: R333 ignores the
field). -/
def Die.mapWords (x : Die) : List W64 :=
  if x.cmap.isEmpty then x.rects.map fun r =>
    BitVec.ofNat 64 ((r.w - 1) * 65536 + (r.h - 1) * 4096 + r.row * 16 + r.col)
  else x.cmap

/-- The rights mask of a ctxid (R348). -/
def State.rightsOf (s : State) (q : Nat) : BitVec 16 := s.rights.get q 0

/-! ## Snapshot registers (R339) -/

/-- Fields of a word, each at its lowest bit. -/
def fields (l : List (Nat × Nat)) : W64 := l.foldl (fun w (n, lo) => w ||| (BitVec.ofNat 64 n <<< lo)) 0

/-- A word of a core's block. -/
def SnapImage.coreWord (i : SnapImage) (c o : Nat) : W64 :=
  let k := i.cores.get c Core.reset
  let x := k.run
  if o = 0 then x.cstate
  else if o < 0xA0 then csrValue i.tick c k true x ((Csr.ofBits (BitVec.ofNat 5 ((o - 8) / 8))).getD .xpc)
  else if o = 0xA8 then if k.shadow.resident then k.shadow.ctxid.setWidth 64 else BitVec.allOnes 64
  else if o = 0xB0 then k.shadow.cstate
  else if 0x100 ≤ o ∧ o < 0x158 then (x.thread (thrOf ((o - 0x100) / 8))).pc
  else if o = 0x158 then x.liveMask ||| ((i.ready.get c 0) <<< 16) ||| fields [(k.ptr, 32)]
  else if o = 0x160 then
    fields [(k.buffered, 0), (x.inbox.length, 16), (x.msgq.length, 24), (k.vecOf.length, 32), (k.mxOf.length, 40), (k.rq.length, 48)]
  else if o = 0x168 then match (x.thread 0).sig with
    | some b => fields [(b.start.toNat, 0), (b.issued, 32)]
    | none => 0
  else 0

/-- A word of a cluster's block. -/
def SnapImage.clusterWord (i : SnapImage) (k o : Nat) : W64 :=
  let x := i.clusters.get k Cluster.reset
  let credits (m : PMap Nat) (base n : Nat) : Nat :=
    ((List.range n).map fun j => PMap.get m (base + j) 0 % 16 * 16 ^ j).sum
  if o < 0x40 then BitVec.ofNat 64 (x.channel (o / 8)).doneNo
  else if o < 0x240 then
    let r := x.ring ((o - 0x40) / 8)
    fields [(r.size, 0), (r.wp.toNat, 16), (r.rp.toNat, 32)]
  else if o = 0x240 then fields [(credits x.mcr 0 8, 0), (x.mptr, 32)]
  else if o = 0x248 then
    fields [(credits x.vcr 0 4, 0), (x.vptr.get 0 0, 16), (credits x.vcr 4 4, 32), (x.vptr.get 1 0, 48)]
  else if o = 0x250 then BitVec.ofNat 64 x.rkPtr
  else if o = 0x258 then
    fields [(min 127 (queueLength x.misses), 0), (min 127 (queueLength (x.misses.filter (·.priority))), 8)]
  else 0

/-- A word of a C-die's block. -/
def SnapImage.dieWord (i : SnapImage) (d o : Nat) : W64 :=
  let x := i.dies.get d Die.reset
  if o < 0x80 then (x.ae.slot (o / 8)).runWord
  else if o = 0x80 then BitVec.ofNat 64 x.ae.queue.length
  else if o = 0x88 then x.stat
  else 0

/-- A word of the device's block. -/
def SnapImage.deviceWord (i : SnapImage) (o : Nat) : W64 :=
  if o = 0 then BitVec.ofNat 64 i.tick
  else if o < 0x98 then (boundaryOf i.boundaries ((o - 8) / 8)).word
  else if o = 0x98 then collStat i.spillCount i.staleChunks
  else if o = 0xA0 then BitVec.ofNat 64 i.rasOverflow
  else 0

/-- The word at an 8-aligned offset of the snapshot registers; 0 while no snapshot is held. -/
def State.snapWord (s : State) (o : Nat) : W64 :=
  match s.snapImage with
  | none => 0
  | some i =>
    if o < 0x800000 then i.coreWord (o / 4096) (o % 4096)
    else if o < 0x900000 then i.clusterWord ((o - 0x800000) / 4096) (o % 4096)
    else if o < 0x908000 then i.dieWord ((o - 0x900000) / 4096) (o % 4096)
    else if 0x910000 ≤ o then i.deviceWord (o - 0x910000)
    else 0

/-! ## Reading the map (R347) -/

/-- The entry in a slot of the RAS ring (R330): the first entry stands in slot 0, and when the ring is full a new one takes the slot of the
oldest. -/
def State.rasSlot (s : State) (n : Nat) : Option (BitVec 128) := s.ras[(n + 4096 - s.rasOverflow % 4096) % 4096]?

/-- The word at an 8-aligned offset of the management map; 0 where nothing is listed. -/
def State.mapWord (s : State) (o : Nat) : W64 :=
  if o = 0 then s.invAddr
  else if o = 8 then s.invCtl
  else if 0x10000 ≤ o ∧ o < 0x10000 + 8 * 18 then (s.boundary ((o - 0x10000) / 8)).word
  else if 0x20000 ≤ o ∧ o < 0x20000 + 8 * 12 then (s.die ((o - 0x20000) / 8)).stat
  else if o = 0x30000 then collStat s.spillCount s.staleChunks
  else if o = 0x30008 then s.snapStat
  else if 0x40000 ≤ o ∧ o < 0x40100 then wordAt (s.rsv ((o - 0x40000) / 16)).word (o % 16)
  else if 0x50000 ≤ o ∧ o < 0x50800 then (((s.die ((o - 0x50000) / 256)).mapWords)[o % 256 / 8]?).getD 0
  else if 0x60000 ≤ o ∧ o < 0x60040 then
    match s.repOff[(o - 0x60000) / 8]? with | some r => r.setWidth 64 <<< 30 | none => 0
  else if o = 0x61000 then s.bootStat
  else if o = 0x62000 then qQcb s.mreq
  else if 0x70000 ≤ o ∧ o < 0x90000 then
    let q := (o - 0x70000) / 2
    s.rightsOf (q + 3) ++ s.rightsOf (q + 2) ++ s.rightsOf (q + 1) ++ s.rightsOf q
  else if 0x100000 ≤ o ∧ o < 0x110000 then
    match s.rasSlot ((o - 0x100000) / 16) with | some e => wordAt e (o % 16) | none => 0
  else if 0x200000 ≤ o ∧ o < 0x240000 then wordAt (s.groupAt ((o - 0x200000) / 64)).word (o % 64)
  else if 0x1000000 ≤ o ∧ o < 0x1400000 then wordAt (s.writtenDesc ((o - 0x1000000) / 64)) (o % 64)
  else if 0x10000000 ≤ o then s.snapWord (o - 0x10000000)
  else 0

/-! ## Writing the map (R4, R347) -/

/-- BNDCTL after a write (R310): a 1 clears a bit of nack; ceil and floor are stored and act at the next step tick. -/
def Boundary.put (x : Boundary) (v : W64) : Boundary :=
  { x with nack := x.nack &&& ~~~(v.extractLsb' 56 8), ceil := v.extractLsb' 4 3, floor := v.extractLsb' 0 3 }

/-- Whether a reservation has admitted launches outstanding (R299). -/
def State.rsvBusy (s : State) (n : Nat) : Bool := s.admittedList.any fun l => qRsv (s.descOf l) == n

/-- A reservation's word is one that a write takes (R299). -/
def rsvOk (w : BitVec 128) : Bool :=
  decide (5 * (w.extractLsb' 64 32).toNat ≤ 4 * (w.extractLsb' 96 32).toNat) && decide (1600 ≤ (w.extractLsb' 96 32).toNat)

/-- A reservation configured: a new period begins. -/
def State.putRsv (s : State) (n : Nat) (w : BitVec 128) : State :=
  s.setRsv n ⟨w.extractLsb' 96 32, w.extractLsb' 64 32, w.extractLsb' 20 8, w.extractLsb' 0 20, 0, s.now⟩

/-- A wider value with the 64-bit word at an offset of bytes replaced. -/
def setWordAt {w : Nat} (v : BitVec w) (o : Nat) (x : W64) : BitVec w :=
  (v &&& ~~~((BitVec.allOnes 64).setWidth w <<< (8 * o))) ||| (x.setWidth w <<< (8 * o))

/-- A queue descriptor without its reserved bits (R295). -/
def descMask (d : BitVec 512) : BitVec 512 :=
  d &&& ~~~(((BitVec.allOnes 19).setWidth 512 <<< 256) ||| ((BitVec.allOnes 51).setWidth 512 <<< 173) |||
    (BitVec.allOnes 48).setWidth 512)

/-- A word of a map that management writes for a die, kept until it is committed (R333). -/
def State.stageMap (s : State) (d j : Nat) (v : W64) : State :=
  let l := s.cmapStage.get d (s.die d).mapWords
  { s with cmapStage := s.cmapStage.put d (l.set j (v.extractLsb' 0 20 |>.setWidth 64)) }

/-- A write of a listed offset of the management map, 8-aligned but for the rights masks of two bytes each; RO and unlisted offsets ignore
it. -/
def State.mapPut (s : State) (o : Nat) (v : W64) : State :=
  if o = 0 then { s with invAddr := ((v.extractLsb' 16 32 ++ (0 : BitVec 14) ++ v.extractLsb' 0 2 : BitVec 48)).setWidth 64 }
  else if o = 8 then
    let s : State := { s with invAsid := v.extractLsb' 16 12 }
    if v.getLsbD 0 then s.invGo else s
  else if 0x10000 ≤ o ∧ o < 0x10000 + 8 * 18 then
    let b := (o - 0x10000) / 8
    s.setBoundary b ((s.boundary b).put v)
  else if 0x20000 ≤ o ∧ o < 0x20000 + 8 * 12 then
    let d := (o - 0x20000) / 8
    let x := s.die d
    s.setDie d { x with aged := x.aged &&& ~~~(v.extractLsb' 32 24), stale := x.stale &&& ~~~(v.extractLsb' 8 24) }
  else if o = 0x30000 then
    { s with spillCount := s.spillCount &&& ~~~(v.extractLsb' 32 32), staleChunks := s.staleChunks &&& ~~~(v.extractLsb' 0 16) }
  else if o = 0x30008 then
    let s : State := { s with snapMissed := s.snapMissed &&& ~~~(v.extractLsb' 48 16) }
    if v.getLsbD 0 then { s with snapHeld := false, snapSrc := 0, snapImage := none } else s
  else if 0x40000 ≤ o ∧ o < 0x40100 then
    let n := (o - 0x40000) / 16
    let w := setWordAt (s.rsv n).word (o % 16) v
    if s.rsvBusy n || !rsvOk w then s else s.putRsv n w
  else if 0x50000 ≤ o ∧ o < 0x50800 then s.stageMap ((o - 0x50000) / 256) (o % 256 / 8) v
  else if o = 0x51000 then match execMapCommit v.toNat s with | .next t => t | .fault _ | .refused _ => s
  else if 0x60000 ≤ o ∧ o < 0x60040 then
    { s with repOff := s.repOff.setIfInBounds ((o - 0x60000) / 8) (v.extractLsb' 30 11) }
  else if o = 0x62000 then { s with mreq := setWordAt s.mreq 40 v }
  else if 0x70000 ≤ o ∧ o < 0x90000 then
    let q := (o - 0x70000) / 2
    { s with rights := PMap.put s.rights q (v.setWidth 16) }
  else if 0x200000 ≤ o ∧ o < 0x240000 then
    let id := (o - 0x200000) / 64
    let g := s.groupAt id
    let g := if o % 64 = 56 then { g with members := v, array := [] }
      else if o % 64 = 8 then { g with rank := v.extractLsb' 0 32 }
      else if o % 64 = 0 then { g with count := v.extractLsb' 32 32, v := v.getLsbD 4 }
      else g
    { s with groups := s.groups.put id g }
  else if 0x1000000 ≤ o ∧ o < 0x1400000 then
    let q := (o - 0x1000000) / 64
    { s with qdesc := s.qdesc.put q (descMask (setWordAt (s.writtenDesc q) (o % 64) v)) }
  else s

/-- REGISTER_WRITE (R4, R347): management writes an entry of its map: a 64-bit word, or a rights mask. -/
def execRegisterWrite (off : Nat) (val : W64) (s : State) : Out :=
  if off % 8 = 0 ∨ (off % 2 = 0 ∧ 0x70000 ≤ off ∧ off < 0x90000) then .next (s.mapPut off val) else .next s

/-! ## Boot (R341–R344) -/

/-- A little-endian number of the bytes `a` to `a + n` of a list. -/
def fieldAt (l : List Byte) (a n : Nat) : Nat := leNat ((l.drop a).take n)

/-- The bits of an image header (R342). -/
def headerOk (key : List Byte) (stage fuse : Nat) (h body : List Byte) : Bool :=
  h.length == 256 && fieldAt h 0 4 == 0x54564B31 && fieldAt h 7 1 == stage && fieldAt h 12 4 == body.length &&
    Config.ecdsaVerify key (h.take 160) (BitVec.ofNat 384 (fieldAt h 160 48)) (BitVec.ofNat 384 (fieldAt h 208 48)) &&
    BitVec.ofNat 384 (fieldAt h 112 48) == Config.sha384 body && decide (fuse ≤ fieldAt h 8 4)

/-- The public key of a key block (R344). -/
def keyOfBlock (b : List Byte) : List Byte := (b.drop 8).take 97

/-- A source's images verify in the order of R343: both stages are there (R341). -/
def State.imageOk (s : State) (i : BootImage) : Bool :=
  let key := keyOfBlock i.keyBlock
  i.keyBlock.length == 256 && fieldAt i.keyBlock 0 4 == 0x54564B4B && Config.sha384 key == s.keyDigest &&
    headerOk key 1 s.fuseCount.toNat i.header1 i.body1 && !i.stage2.isEmpty && i.stage2.all fun (h, b) => headerOk key 2 s.fuseCount.toNat h b

/-- A table of `n` entries with the nonzero values of a function. -/
def tableOf {α : Type} [BEq α] (z : α) (n : Nat) (f : Nat → α) : PMap α :=
  (List.range n).filterMap fun j => if f j == z then none else some (j, f j)

/-- What the stage 2 payloads set up (R341; log 11): walk routines, context table, save pool, shadow pools, replica offsets,
containment maps, rights masks and the management request queue. -/
def State.setUp (s : State) (p : List (List Byte × List Byte)) : State :=
  let w := Config.payloadWord p
  let s : State := { s with
    walkStore := Mem.writeBytes [] 0 ((Config.payloadRoutines p).take 0x10000)
    ctxTable := (w 0).toNat % 2 ^ 41
    saveAreas := (w 1).toNat
    shadowPool := (List.range 4).map fun g => (g, (w (2 + g)).toNat)
    repOff := Vector.ofFn fun (d : Fin 8) => (w (6 + d.val)).extractLsb' 30 11
    poolChunks := (w 14).toNat
    mreq := descMask (BitVec.ofNat 512 (leNat ((List.range 8).flatMap fun j => leBytes (w (16 + j)) 8)))
    rights := tableOf 0 65536 fun q => (w (1024 + q)).setWidth 16 }
  (List.range 8).foldl (fun s d =>
    let l := (List.range 32).map fun j => (w (32 + 32 * d + j)) &&& 0xFFFFF
    if mapOk l then s.setDie d { s.die d with cmap := l } else s) s

/-- A C-die leaves reset now, and its cores' cycle counters count from here (R4, R106); one that is under a reset of its own leaves that
at its end. -/
def State.leaveReset (s : State) (d : Nat) : State :=
  if s.now < (s.die d).resetEnd then s
  else (List.range 256).foldl (fun s n => s.setCore (d * 256 + n) { s.core (d * 256 + n) with cyc := BitVec.ofNat 64 s.now })
    (s.setDie d { s.die d with resetEnd := s.now })

/-- The C-dies leave reset (R4, R106, R341): the first time. -/
def State.release_ (s : State) : State :=
  if s.released then s else { (List.range 8).foldl State.leaveReset s with released := true }

/-- A source that has passed: both stages run (R341, R344, R345). Stage 1 may raise the fuse counter: free (log 17). -/
def State.booted (s : State) (i : BootImage) : State :=
  let digests := i.stage2.flatMap fun (h, _) => (h.drop 112).take 48
  let raise : W32 := (s.freeWord 6).setWidth 32
  let s : State := { s with
    bootStage := 2
    bootSrc := BitVec.ofNat 8 i.source
    digest1 := BitVec.ofNat 384 (fieldAt i.header1 112 48)
    svn1 := BitVec.ofNat 32 (fieldAt i.header1 8 4)
    digest2 := Config.sha384 digests
    svn2 := match i.stage2 with | (h, _) :: _ => BitVec.ofNat 32 (fieldAt h 8 4) | [] => 0
    fuseCount := if s.fuseCount.toNat < raise.toNat then raise else s.fuseCount }
  (s.setUp i.stage2).release_

/-- The sources in the order in which stage 0 tries them (R341): 1 and 2, copies A and B, 3, Ethernet. -/
def State.bootOrder (s : State) : List Nat := if s.bootSel then [3, 1, 2] else [1, 2, 3]

/-- The sources tried in order; `imgs` is what stage 0 finds at them. -/
def State.bootFrom (s : State) (imgs : List BootImage) : List Nat → State
  | [] => { s with bootHalted := true }
  | n :: ns =>
    match imgs.find? fun i => i.source == n && s.imageOk i with
    | some i => s.booted i
    | none => ({ s with bootFail := s.bootFail ||| BitVec.twoPow 3 (n - 1) } : State).bootFrom imgs ns

/-- BOOT (R341): after reset, stage 0 tries the sources in the order that BOOTSEL gives. -/
def execBoot (imgs : List BootImage) (s : State) : Out :=
  if s.bootStage ≠ 0 ∨ s.bootHalted then .next s else .next (s.bootFrom imgs s.bootOrder)

/-! ## Requests (R348) -/

/-- The operation of a request record. -/
def reqOp (r : BitVec 512) : Nat := (r.extractLsb' 0 16).toNat

/-- `n` bits of a record from byte `b` on. -/
def reqArg (r : BitVec 512) (b n : Nat) : BitVec n := r.extractLsb' (8 * b) n

/-- What has become of the record of the oldest request. -/
inductive Fetched where
  | record (r : BitVec 512)
  | waiting
  | lost
  deriving DecidableEq, Repr

/-- The oldest request's record: read at its home, no earlier than R157 allows. -/
def State.fetchRecord (s : State) (q : Request) : Fetched :=
  match q.record with
  | some r => .record r
  | none =>
    if q.va.toNat % 64 ≠ 0 then .lost
    else if s.now < s.relAfter q.core q.launch then .waiting
    else match s.reach q.ctxid .copyRead q.va with
      | .absent => .waiting
      | .refused | .consumed _ => .lost
      | .entry e =>
        if s.laggingHome.any fun p => (List.range 64).any fun j => p.covers (e.key q.va.toNat + j) then .waiting
        else if s.poisonedIn (e.key q.va.toNat) 64 then .lost
        else .record (BitVec.ofNat 512 (leNat (s.home.bytes (e.key q.va.toNat) 64)))

/-- The core on whose behalf management reads for a request (R333): a host's is no core's. -/
def Request.behalf (q : Request) : Option Nat := if q.host then none else some q.core

/-- Where a reply goes: the record's reply area, or for the management request queue its completion ring. -/
def State.replyAt (s : State) (q : Request) (r : BitVec 512) : W64 :=
  if q.host then qCbase s.mreq + BitVec.ofNat 64 (16 * (q.index % qSize s.mreq)) else r.extractLsb' 64 64

/-- The oldest request dropped and logged with kind 9; the entry's unit is G-die 8's and its place is not stated (log 17). -/
def State.dropRequest (s : State) : State :=
  { s.rasAdd 9 0xF08 ((s.freeWord 7).setWidth 44) with requests := s.requests.drop 1 }

/-- A reply (R348). -/
def replyWord (r : BitVec 512) (status : Nat) (value : W64) : BitVec 128 :=
  value ++ (r.extractLsb' 32 32 : W32) ++ (0 : BitVec 24) ++ BitVec.ofNat 8 status

/-- The reply published, the message to the sending context to follow once it has been applied (R157), and the request done. -/
def State.reply (s : State) (q : Request) (r : BitVec 512) (status : Nat) (value : W64) : State :=
  let a := s.replyAt q r
  match s.mgmtRecords q.ctxid a (leBytes (replyWord r status value) 16) with
  | none => s
  | some rs =>
    let id := s.ids
    let s := s.mgmtPublish rs
    let s : State := { s with requests := s.requests.drop 1 }
    if q.host then s
    else { s with packets := s.packets ++
            [⟨true, mailbox, 0, q.launch, q.ctxid, q.core, 0, 0, a, 0, s.now, 0, .held id, none, (s.die 8).inc, false⟩] }

/-- Whether a request may be served (R348). -/
def State.permitted (s : State) (q : Request) (r : BitVec 512) : Bool :=
  let op := reqOp r
  q.host || op == 6 || op == 9 || op == 10 || (s.rightsOf q.ctxid.toNat).getLsbD (op - 1) ||
    (op == 1 && reqArg r 16 2 != 2 && reqArg r 24 12 == s.asidOf q.ctxid)

/-- The oldest request, if it is of the operation that `is` names, is served: dropped, answered DENIED, or acted upon. -/
def serve (is : Nat → Bool) (act : Request → BitVec 512 → State → State) (s : State) : Out :=
  match s.requests with
  | [] => .next s
  | q :: _ =>
    match s.fetchRecord q with
    | .waiting => .next s
    | .lost => .next (s.mgmtMissed q.behalf q.ctxid q.va 64).dropRequest
    | .record r =>
      if !is (reqOp r) then .next s
      else
        let a := s.replyAt q r
        match s.reach q.ctxid .copyWrite a with
        | .absent => .next s
        | .refused => .next s.dropRequest
        | .consumed key => .next (s.mgmtConsume q.behalf key).dropRequest
        | .entry _ =>
          if a.toNat % 16 ≠ 0 then .next s.dropRequest
          else if !(reqOp r == 0 || decide (12 ≤ reqOp r)) && !s.permitted q r then .next (s.reply q r 1 0)
          else .next (act q r s)

/-- INVAL (R172, R348): answered with INVCTL once done is set. -/
def execInval (s : State) : Out :=
  serve (· == 1) (fun q r s =>
    if q.going then if s.invDone then s.reply q r 0 s.invCtl else s
    else if !s.invDone then s
    else
      let s := (s.mapPut 0 (reqArg r 16 64)).mapPut 8 ((reqArg r 24 16).setWidth 64 <<< 16 ||| 1)
      { s with requests := { q with going := true, record := some r } :: s.requests.drop 1 }) s

/-- RESV (R299, R348). -/
def execResv (s : State) : Out :=
  serve (· == 2) (fun q r s =>
    let n := (reqArg r 16 8).toNat
    let w := reqArg r 32 128
    if 15 < n then s.reply q r 2 0
    else if s.rsvBusy n then s.reply q r 3 0
    else if !rsvOk w then s.reply q r 2 0
    else (s.putRsv n w).reply q r 0 0) s

/-- `n` words at a virtual address. -/
def State.mgmtWords (s : State) (ctxid : BitVec 16) (va : W64) (n : Nat) : Option (List W64) :=
  (List.range n).mapM fun j => (s.mgmtRead ctxid (va + BitVec.ofNat 64 (8 * j)) 8).map fun b => BitVec.ofNat 64 (leNat b)

/-- A request whose argument lies in `n` bytes of the requester's memory: it waits while a page of them is absent (R170). -/
def withArg (q : Request) (kind : Access) (va : W64) (n : Nat) (s : State) (go : State → State) : State :=
  if n ≠ 0 ∧ s.mgmtAbsent q.ctxid kind va n then s else go s

/-- `n` words of a request that could not be read: a poisoned line among them is consumed (R329, R333). -/
def State.mgmtWordsMissed (s : State) (q : Request) (va : W64) (n : Nat) : State :=
  match (List.range n).findSome? fun j => s.mgmtLine q.ctxid (va + BitVec.ofNat 64 (8 * j)) 8 with
  | some key => s.mgmtConsume q.behalf key
  | none => s

/-- CMAP (R333, R348). -/
def execCmap (s : State) : Out :=
  serve (· == 3) (fun q r s => withArg q .copyRead (reqArg r 24 64) 256 s fun s =>
    let d := (reqArg r 16 8).toNat
    let s := s.mgmtSettle q.ctxid (reqArg r 24 64) 256
    match s.mgmtWords q.ctxid (reqArg r 24 64) 32 with
    | some l =>
      let l := l.map (· &&& 0xFFFFF)
      if d < 8 ∧ mapOk l then (s.setDie d { s.die d with cmap := l }).reply q r 0 0 else s.reply q r 2 0
    | none => (s.mgmtWordsMissed q (reqArg r 24 64) 32).reply q r 2 0) s

/-- GRPALLOC (R318, R348): the lowest free entry; the member array is copied into management memory, at a place that is not stated
(log 17). -/
def execGrpalloc (s : State) : Out :=
  serve (· == 4) (fun q r s =>
    let count := (reqArg r 24 32).toNat
    let rank := (reqArg r 28 32).toNat
    if count = 0 ∨ 524288 < count ∨ count ≤ rank then s.reply q r 2 0
    else withArg q .copyRead (reqArg r 16 64) (8 * count) s fun s =>
      let s := s.settleHomes fun _ => true
      match s.mgmtWords q.ctxid (reqArg r 16 64) count with
      | none => (s.mgmtWordsMissed q (reqArg r 16 64) count).reply q r 2 0
      | some l =>
        match (List.range 4096).find? fun id => !(s.groupAt id).v with
        | none => s.reply q r 3 0
        | some id =>
          let g := s.groupAt id
          let g := { g with members := s.freeWord 8, f := 0xFFFF, s := 0xFFFF, rank := reqArg r 28 32,
                            count := reqArg r 24 32, v := true, array := l }
          ({ s with groups := s.groups.put id g } : State).reply q r 0 (fields [(id, 4), (g.gen.toNat, 0)])) s

/-- What the communication processors hold of a generation that has gone, and no running instance takes, is dropped and counted (R318). -/
def State.freeChunks (s : State) : State := s.dropChunks fun c => c.place != .sender && s.chunkOver c

/-- GRPFREE (R318, R348). -/
def execGrpfree (s : State) : Out :=
  serve (· == 5) (fun q r s =>
    let w := reqArg r 16 16
    let id := (w.extractLsb' 4 12).toNat
    let g := s.groupAt id
    if !g.v || g.gen != w.extractLsb' 0 4 then s.reply q r 2 0
    else ({ s with
      groups := s.groups.put id { g with v := false, gen := g.gen + 1, f := 0xFFFF, s := 0xFFFF }
      instances := s.instances.map fun i => if groupId i.grp = id then { i with current := false } else i } : State).freeChunks.reply q r 0 0) s

/-- SPILL (R142, R348). -/
def execSpill (s : State) : Out :=
  serve (· == 6) (fun q r s =>
    let n := reqArg r 16 16
    match s.image q.core q.launch with
    | some x =>
      if q.host || decide (n.toNat < x.spillSize.toNat) then s.reply q r 2 0
      else (s.updImage q.core q.launch fun y => { y with spillSize := n }).reply q r 0 0
    | none => s.reply q r 2 0) s

/-- BND (R310, R348). -/
def execBnd (s : State) : Out :=
  serve (· == 7) (fun q r s =>
    let b := (reqArg r 16 8).toNat
    if 17 < b then s.reply q r 2 0
    else (s.setBoundary b ((s.boundary b).put (reqArg r 24 64))).reply q r 0 0) s

/-- SNAP_REQUEST (R338, R348): the snapshot registers copied out from their first byte on. -/
def execSnapRequest (s : State) : Out :=
  serve (· == 8) (fun q r s => withArg q .copyWrite (reqArg r 16 64) (reqArg r 24 32).toNat s fun s =>
    let n := (reqArg r 24 32).toNat
    let bytes := ((List.range ((n + 7) / 8)).flatMap fun j => leBytes (s.snapWord (8 * j)) 8).take n
    match s.mgmtRecords q.ctxid (reqArg r 16 64) bytes with
    | none => s.reply q r 2 0
    | some rs =>
      let s := if n = 0 then s else s.mgmtPublish rs
      let s := if reqArg r 28 8 = 1 then { s with snapHeld := false, snapSrc := 0, snapImage := none } else s
      s.reply q r 0 (BitVec.ofNat 64 n)) s

/-- An attestation report without its signature (R345): bytes 0–415. -/
def State.report (s : State) (nonce : BitVec 256) : BitVec 3328 :=
  ((s.serial ++ s.fuseCount ++ s.svn2 ++ s.digest2 ++ (0 : W32) ++ s.svn1 ++ s.digest1 ++ nonce ++ (1 : W32) ++
    (0x54564154 : W32) : BitVec 1280)).setWidth 3328

/-- ATTEST (R345, R348). -/
def execAttest (s : State) : Out :=
  serve (· == 9) (fun q r s => withArg q .copyWrite (reqArg r 48 64) 512 s fun s =>
    let body := leBytes (s.report (reqArg r 16 256)) 416
    let (a, b) := Config.ecdsaSign body
    match s.mgmtRecords q.ctxid (reqArg r 48 64) (body ++ leBytes a 48 ++ leBytes b 48) with
    | some rs => (s.mgmtPublish rs).reply q r 0 0
    | none => s.reply q r 2 0) s

/-- STATUS (R344, R348). -/
def execStatus (s : State) : Out := serve (· == 10) (fun q r s => s.reply q r 0 s.bootStat) s

/-- RAS (R330, R348): the log's entries, oldest first. -/
def execRas (s : State) : Out :=
  serve (· == 11) (fun q r s => withArg q .copyWrite (reqArg r 16 64) (16 * s.ras.length) s fun s =>
    match s.mgmtRecords q.ctxid (reqArg r 16 64) (s.ras.flatMap fun e => leBytes e 16) with
    | some rs =>
      let n := s.ras.length
      let s := if n = 0 then s else s.mgmtPublish rs
      s.reply q r 0 (BitVec.ofNat 64 n)
    | none => s.reply q r 2 0) s

/-- REQUEST_BADARG (R348): an unassigned operation. -/
def execRequestBadarg (s : State) : Out :=
  serve (fun op => op == 0 || decide (12 ≤ op)) (fun q r s => s.reply q r 2 0) s

end Sys2Proof.Machine
end

