-- ==== Sys2Proof/Machine/MulDiv.lean ====
section
/-!
DEFINITION. The MULDIV group (R84) and the BITOP group (R85).
-/

namespace Sys2Proof.Machine

open Sys2Proof

/-! ## Results (R84) -/

/-- MUL: the low half of the product. -/
def mulLow (a b : W64) : W64 := a * b

/-- MULH: the high half of the signed 128-bit product. -/
def mulHigh (a b : W64) : W64 := ((a.signExtend 128 * b.signExtend 128 : BitVec 128)).extractLsb' 64 64

/-- MULHU: the high half of the unsigned 128-bit product. -/
def mulHighU (a b : W64) : W64 := ((a.setWidth 128 * b.setWidth 128 : BitVec 128)).extractLsb' 64 64

/-- MULW. -/
def mulWord (a b : W64) : W64 := sx ((sx (a.setWidth 32) * sx (b.setWidth 32) : W64).setWidth 32)

/-- DIV: truncated toward zero; all ones for a zero divisor. −2^63 by −1 wraps to −2^63. -/
def divS (a b : W64) : W64 := if b = 0 then BitVec.allOnes 64 else BitVec.ofInt 64 (a.toInt.tdiv b.toInt)

/-- DIVU; all ones for a zero divisor. -/
def divU (a b : W64) : W64 := if b = 0 then BitVec.allOnes 64 else a / b

/-- REM: the sign of the dividend; the dividend for a zero divisor. -/
def remS (a b : W64) : W64 := if b = 0 then a else BitVec.ofInt 64 (a.toInt.tmod b.toInt)

/-- REMU; the dividend for a zero divisor. -/
def remU (a b : W64) : W64 := if b = 0 then a else a % b

/-! ## The forms: a multiply takes 3 cycles, a division 20 (R80) -/

/-- A multiply with two register sources. -/
def mulRR (f : W64 → W64 → W64) (rd ra rb : SReg) (s : State) : Out :=
  ready [ra, rb, rd] s fun s => resultAt 4 rd (f (s.reg ra) (s.reg rb)) 3 s

/-- A multiply by a literal. -/
def mulRL (f : W64 → W64 → W64) (rd ra : SReg) (lit : W64) (s : State) : Out :=
  ready [ra, rd] s fun s => resultAt 12 rd (f (s.reg ra) lit) 3 s

/-- A division with two register sources; a zero divisor sets `xstat.DIVZ` (R84). -/
def divRR (f : W64 → W64 → W64) (rd ra rb : SReg) (s : State) : Out :=
  ready [ra, rb, rd] s fun s => resultAt 4 rd (f (s.reg ra) (s.reg rb)) 20 (s.setDivz (s.reg rb == 0))

/-- A division by a literal. -/
def divRL (f : W64 → W64 → W64) (rd ra : SReg) (lit : W64) (s : State) : Out :=
  ready [ra, rd] s fun s => resultAt 12 rd (f (s.reg ra) lit) 20 (s.setDivz (lit == 0))

/-- MUL (R84). -/
def execMul (rd ra rb : SReg) (s : State) : Out := mulRR mulLow rd ra rb s

/-- MUL with a literal (R84, R45). -/
def execMulLit (rd ra : SReg) (lit : W64) (s : State) : Out := mulRL mulLow rd ra lit s

/-- MULH (R84). -/
def execMulh (rd ra rb : SReg) (s : State) : Out := mulRR mulHigh rd ra rb s

/-- MULH with a literal (R84, R45). -/
def execMulhLit (rd ra : SReg) (lit : W64) (s : State) : Out := mulRL mulHigh rd ra lit s

/-- MULHU (R84). -/
def execMulhu (rd ra rb : SReg) (s : State) : Out := mulRR mulHighU rd ra rb s

/-- MULHU with a literal (R84, R45). -/
def execMulhuLit (rd ra : SReg) (lit : W64) (s : State) : Out := mulRL mulHighU rd ra lit s

/-- MULW (R84). -/
def execMulw (rd ra rb : SReg) (s : State) : Out := mulRR mulWord rd ra rb s

/-- MULW with a literal (R84, R45). -/
def execMulwLit (rd ra : SReg) (lit : W64) (s : State) : Out := mulRL mulWord rd ra lit s

/-- DIV (R84). -/
def execDiv (rd ra rb : SReg) (s : State) : Out := divRR divS rd ra rb s

/-- DIV with a literal (R84, R45). -/
def execDivLit (rd ra : SReg) (lit : W64) (s : State) : Out := divRL divS rd ra lit s

/-- DIVU (R84). -/
def execDivu (rd ra rb : SReg) (s : State) : Out := divRR divU rd ra rb s

/-- DIVU with a literal (R84, R45). -/
def execDivuLit (rd ra : SReg) (lit : W64) (s : State) : Out := divRL divU rd ra lit s

/-- REM (R84). -/
def execRem (rd ra rb : SReg) (s : State) : Out := divRR remS rd ra rb s

/-- REM with a literal (R84, R45). -/
def execRemLit (rd ra : SReg) (lit : W64) (s : State) : Out := divRL remS rd ra lit s

/-- REMU (R84). -/
def execRemu (rd ra rb : SReg) (s : State) : Out := divRR remU rd ra rb s

/-- REMU with a literal (R84, R45). -/
def execRemuLit (rd ra : SReg) (lit : W64) (s : State) : Out := divRL remU rd ra lit s

/-! ## BITOP (R85) -/

/-- CLZ: leading zero bits, 64 for 0. -/
def bitClz (a : W64) : W64 := BitVec.ofNat 64 (((List.range 64).reverse.takeWhile fun j => !a.getLsbD j).length)

/-- CTZ: trailing zero bits, 64 for 0. -/
def bitCtz (a : W64) : W64 := BitVec.ofNat 64 (((List.range 64).takeWhile fun j => !a.getLsbD j).length)

/-- POPC: one bits. -/
def bitPopc (a : W64) : W64 := BitVec.ofNat 64 (((List.range 64).filter fun j => a.getLsbD j).length)

/-- The position p := b[5:0]. -/
def bitPos (b : W64) : Nat := (b.extractLsb' 0 6).toNat

/-- The length n := min(b[14:8], 64). -/
def bitLen (b : W64) : Nat := min (b.extractLsb' 8 7).toNat 64

/-- `n` ones from bit 0 up. -/
def ones (n : Nat) : W64 := BitVec.ofNat 64 (2 ^ n - 1)

/-- BEXT. -/
def bitExt (a b : W64) : W64 := (a >>> bitPos b) &&& ones (bitLen b)

/-- BINS: `d` is the old value of RD. -/
def bitIns (d a b : W64) : W64 :=
  let m := ones (bitLen b) <<< bitPos b
  (d &&& ~~~m) ||| ((a <<< bitPos b) &&& m)

/-- BREV. -/
def bitRev (a : W64) : W64 := a.reverse

/-- BSWAP. -/
def byteSwap (a : W64) : W64 :=
  a.extractLsb' 0 8 ++ a.extractLsb' 8 8 ++ a.extractLsb' 16 8 ++ a.extractLsb' 24 8 ++ a.extractLsb' 32 8 ++
    a.extractLsb' 40 8 ++ a.extractLsb' 48 8 ++ a.extractLsb' 56 8

/-- A one-cycle instruction with one register source. -/
def opR (f : W64 → W64) (rd ra : SReg) (s : State) : Out :=
  ready [ra, rd] s fun s => result 4 rd (f (s.reg ra)) s

/-- CLZ (R85). -/
def execClz (rd ra : SReg) (s : State) : Out := opR bitClz rd ra s

/-- CTZ (R85). -/
def execCtz (rd ra : SReg) (s : State) : Out := opR bitCtz rd ra s

/-- POPC (R85). -/
def execPopc (rd ra : SReg) (s : State) : Out := opR bitPopc rd ra s

/-- BEXT (R85). -/
def execBext (rd ra rb : SReg) (s : State) : Out := opRR 4 bitExt rd ra rb s

/-- BEXT with a literal (R85, R45). -/
def execBextLit (rd ra : SReg) (lit : W64) (s : State) : Out := opRI 12 bitExt rd ra lit s

/-- BINS (R85): RD is a source too. -/
def execBins (rd ra rb : SReg) (s : State) : Out := opRR 4 (bitIns (s.reg rd)) rd ra rb s

/-- BINS with a literal (R85, R45). -/
def execBinsLit (rd ra : SReg) (lit : W64) (s : State) : Out := opRI 12 (bitIns (s.reg rd)) rd ra lit s

/-- BREV (R85). -/
def execBrev (rd ra : SReg) (s : State) : Out := opR bitRev rd ra s

/-- BSWAP (R85). -/
def execBswap (rd ra : SReg) (s : State) : Out := opR byteSwap rd ra s

end Sys2Proof.Machine
end

