-- ==== Sys2Proof/Machine/Dispatch.lean ====
section
/-!
DEFINITION. One arm per constructor of `Instr`, in the order of the syntax.
-/

namespace Sys2Proof.Machine

open Sys2Proof

def exec (i : Instr) (s : State) : Host.Outcome State Fault Refusal :=
  match i with
  | .add rd ra rb => Sys2Proof.Machine.execAdd rd ra rb s
  | .addLit rd ra lit => Sys2Proof.Machine.execAddLit rd ra lit s
  | .sub rd ra rb => Sys2Proof.Machine.execSub rd ra rb s
  | .subLit rd ra lit => Sys2Proof.Machine.execSubLit rd ra lit s
  | .and rd ra rb => Sys2Proof.Machine.execAnd rd ra rb s
  | .andLit rd ra lit => Sys2Proof.Machine.execAndLit rd ra lit s
  | .or rd ra rb => Sys2Proof.Machine.execOr rd ra rb s
  | .orLit rd ra lit => Sys2Proof.Machine.execOrLit rd ra lit s
  | .xor rd ra rb => Sys2Proof.Machine.execXor rd ra rb s
  | .xorLit rd ra lit => Sys2Proof.Machine.execXorLit rd ra lit s
  | .andn rd ra rb => Sys2Proof.Machine.execAndn rd ra rb s
  | .andnLit rd ra lit => Sys2Proof.Machine.execAndnLit rd ra lit s
  | .shl rd ra rb => Sys2Proof.Machine.execShl rd ra rb s
  | .shlLit rd ra lit => Sys2Proof.Machine.execShlLit rd ra lit s
  | .shr rd ra rb => Sys2Proof.Machine.execShr rd ra rb s
  | .shrLit rd ra lit => Sys2Proof.Machine.execShrLit rd ra lit s
  | .sra rd ra rb => Sys2Proof.Machine.execSra rd ra rb s
  | .sraLit rd ra lit => Sys2Proof.Machine.execSraLit rd ra lit s
  | .slt rd ra rb => Sys2Proof.Machine.execSlt rd ra rb s
  | .sltLit rd ra lit => Sys2Proof.Machine.execSltLit rd ra lit s
  | .sltu rd ra rb => Sys2Proof.Machine.execSltu rd ra rb s
  | .sltuLit rd ra lit => Sys2Proof.Machine.execSltuLit rd ra lit s
  | .min rd ra rb => Sys2Proof.Machine.execMin rd ra rb s
  | .minLit rd ra lit => Sys2Proof.Machine.execMinLit rd ra lit s
  | .max rd ra rb => Sys2Proof.Machine.execMax rd ra rb s
  | .maxLit rd ra lit => Sys2Proof.Machine.execMaxLit rd ra lit s
  | .minu rd ra rb => Sys2Proof.Machine.execMinu rd ra rb s
  | .minuLit rd ra lit => Sys2Proof.Machine.execMinuLit rd ra lit s
  | .maxu rd ra rb => Sys2Proof.Machine.execMaxu rd ra rb s
  | .maxuLit rd ra lit => Sys2Proof.Machine.execMaxuLit rd ra lit s
  | .addw rd ra rb => Sys2Proof.Machine.execAddw rd ra rb s
  | .addwLit rd ra lit => Sys2Proof.Machine.execAddwLit rd ra lit s
  | .subw rd ra rb => Sys2Proof.Machine.execSubw rd ra rb s
  | .subwLit rd ra lit => Sys2Proof.Machine.execSubwLit rd ra lit s
  | .addx1 rd ra rb => Sys2Proof.Machine.execAddx1 rd ra rb s
  | .addx1Lit rd ra lit => Sys2Proof.Machine.execAddx1Lit rd ra lit s
  | .addx2 rd ra rb => Sys2Proof.Machine.execAddx2 rd ra rb s
  | .addx2Lit rd ra lit => Sys2Proof.Machine.execAddx2Lit rd ra lit s
  | .addx3 rd ra rb => Sys2Proof.Machine.execAddx3 rd ra rb s
  | .addx3Lit rd ra lit => Sys2Proof.Machine.execAddx3Lit rd ra lit s
  | .addi rd ra imm => Sys2Proof.Machine.execAddi rd ra imm s
  | .addiLit rd ra lit => Sys2Proof.Machine.execAddiLit rd ra lit s
  | .andi rd ra imm => Sys2Proof.Machine.execAndi rd ra imm s
  | .andiLit rd ra lit => Sys2Proof.Machine.execAndiLit rd ra lit s
  | .ori rd ra imm => Sys2Proof.Machine.execOri rd ra imm s
  | .oriLit rd ra lit => Sys2Proof.Machine.execOriLit rd ra lit s
  | .xori rd ra imm => Sys2Proof.Machine.execXori rd ra imm s
  | .xoriLit rd ra lit => Sys2Proof.Machine.execXoriLit rd ra lit s
  | .slti rd ra imm => Sys2Proof.Machine.execSlti rd ra imm s
  | .sltiLit rd ra lit => Sys2Proof.Machine.execSltiLit rd ra lit s
  | .sltiu rd ra imm => Sys2Proof.Machine.execSltiu rd ra imm s
  | .sltiuLit rd ra lit => Sys2Proof.Machine.execSltiuLit rd ra lit s
  | .shli rd ra sh => Sys2Proof.Machine.execShli rd ra sh s
  | .shri rd ra sh => Sys2Proof.Machine.execShri rd ra sh s
  | .srai rd ra sh => Sys2Proof.Machine.execSrai rd ra sh s
  | .mul rd ra rb => Sys2Proof.Machine.execMul rd ra rb s
  | .mulLit rd ra lit => Sys2Proof.Machine.execMulLit rd ra lit s
  | .mulh rd ra rb => Sys2Proof.Machine.execMulh rd ra rb s
  | .mulhLit rd ra lit => Sys2Proof.Machine.execMulhLit rd ra lit s
  | .mulhu rd ra rb => Sys2Proof.Machine.execMulhu rd ra rb s
  | .mulhuLit rd ra lit => Sys2Proof.Machine.execMulhuLit rd ra lit s
  | .mulw rd ra rb => Sys2Proof.Machine.execMulw rd ra rb s
  | .mulwLit rd ra lit => Sys2Proof.Machine.execMulwLit rd ra lit s
  | .div rd ra rb => Sys2Proof.Machine.execDiv rd ra rb s
  | .divLit rd ra lit => Sys2Proof.Machine.execDivLit rd ra lit s
  | .divu rd ra rb => Sys2Proof.Machine.execDivu rd ra rb s
  | .divuLit rd ra lit => Sys2Proof.Machine.execDivuLit rd ra lit s
  | .rem rd ra rb => Sys2Proof.Machine.execRem rd ra rb s
  | .remLit rd ra lit => Sys2Proof.Machine.execRemLit rd ra lit s
  | .remu rd ra rb => Sys2Proof.Machine.execRemu rd ra rb s
  | .remuLit rd ra lit => Sys2Proof.Machine.execRemuLit rd ra lit s
  | .clz rd ra => Sys2Proof.Machine.execClz rd ra s
  | .ctz rd ra => Sys2Proof.Machine.execCtz rd ra s
  | .popc rd ra => Sys2Proof.Machine.execPopc rd ra s
  | .bext rd ra rb => Sys2Proof.Machine.execBext rd ra rb s
  | .bextLit rd ra lit => Sys2Proof.Machine.execBextLit rd ra lit s
  | .bins rd ra rb => Sys2Proof.Machine.execBins rd ra rb s
  | .binsLit rd ra lit => Sys2Proof.Machine.execBinsLit rd ra lit s
  | .brev rd ra => Sys2Proof.Machine.execBrev rd ra s
  | .bswap rd ra => Sys2Proof.Machine.execBswap rd ra s
  | .beq ra rs imm => Sys2Proof.Machine.execBeq ra rs imm s
  | .bne ra rs imm => Sys2Proof.Machine.execBne ra rs imm s
  | .blt ra rs imm => Sys2Proof.Machine.execBlt ra rs imm s
  | .bge ra rs imm => Sys2Proof.Machine.execBge ra rs imm s
  | .bltu ra rs imm => Sys2Proof.Machine.execBltu ra rs imm s
  | .bgeu ra rs imm => Sys2Proof.Machine.execBgeu ra rs imm s
  | .j off => Sys2Proof.Machine.execJ off s
  | .jal off => Sys2Proof.Machine.execJal off s
  | .jalr ra imm => Sys2Proof.Machine.execJalr ra imm s
  | .jalrLit ra lit => Sys2Proof.Machine.execJalrLit ra lit s
  | .ldb rd ra imm => Sys2Proof.Machine.execLdb rd ra imm s
  | .ldbLit rd ra lit => Sys2Proof.Machine.execLdbLit rd ra lit s
  | .ldbu rd ra imm => Sys2Proof.Machine.execLdbu rd ra imm s
  | .ldbuLit rd ra lit => Sys2Proof.Machine.execLdbuLit rd ra lit s
  | .ldh rd ra imm => Sys2Proof.Machine.execLdh rd ra imm s
  | .ldhLit rd ra lit => Sys2Proof.Machine.execLdhLit rd ra lit s
  | .ldhu rd ra imm => Sys2Proof.Machine.execLdhu rd ra imm s
  | .ldhuLit rd ra lit => Sys2Proof.Machine.execLdhuLit rd ra lit s
  | .ldw rd ra imm => Sys2Proof.Machine.execLdw rd ra imm s
  | .ldwLit rd ra lit => Sys2Proof.Machine.execLdwLit rd ra lit s
  | .ldwu rd ra imm => Sys2Proof.Machine.execLdwu rd ra imm s
  | .ldwuLit rd ra lit => Sys2Proof.Machine.execLdwuLit rd ra lit s
  | .ldd rd ra imm => Sys2Proof.Machine.execLdd rd ra imm s
  | .lddLit rd ra lit => Sys2Proof.Machine.execLddLit rd ra lit s
  | .stb rs ra imm => Sys2Proof.Machine.execStb rs ra imm s
  | .stbLit rs ra lit => Sys2Proof.Machine.execStbLit rs ra lit s
  | .sth rs ra imm => Sys2Proof.Machine.execSth rs ra imm s
  | .sthLit rs ra lit => Sys2Proof.Machine.execSthLit rs ra lit s
  | .stw rs ra imm => Sys2Proof.Machine.execStw rs ra imm s
  | .stwLit rs ra lit => Sys2Proof.Machine.execStwLit rs ra lit s
  | .std rs ra imm => Sys2Proof.Machine.execStd rs ra imm s
  | .stdLit rs ra lit => Sys2Proof.Machine.execStdLit rs ra lit s
  | .ldfe rd ra => Sys2Proof.Machine.execLdfe rd ra s
  | .ldfeLit rd ra lit => Sys2Proof.Machine.execLdfeLit rd ra lit s
  | .ldfec rd ra => Sys2Proof.Machine.execLdfec rd ra s
  | .ldfecLit rd ra lit => Sys2Proof.Machine.execLdfecLit rd ra lit s
  | .stfe rd ra => Sys2Proof.Machine.execStfe rd ra s
  | .stfeLit rd ra lit => Sys2Proof.Machine.execStfeLit rd ra lit s
  | .stfew rd ra => Sys2Proof.Machine.execStfew rd ra s
  | .stfewLit rd ra lit => Sys2Proof.Machine.execStfewLit rd ra lit s
  | .feset ra => Sys2Proof.Machine.execFeset ra s
  | .fesetLit ra lit => Sys2Proof.Machine.execFesetLit ra lit s
  | .feclr ra => Sys2Proof.Machine.execFeclr ra s
  | .feclrLit ra lit => Sys2Proof.Machine.execFeclrLit ra lit s
  | .fetst rd ra => Sys2Proof.Machine.execFetst rd ra s
  | .fetstLit rd ra lit => Sys2Proof.Machine.execFetstLit rd ra lit s
  | .ldl rd ra => Sys2Proof.Machine.execLdl rd ra s
  | .ldlLit rd ra lit => Sys2Proof.Machine.execLdlLit rd ra lit s
  | .stu rd ra rb => Sys2Proof.Machine.execStu rd ra rb s
  | .ulk ra => Sys2Proof.Machine.execUlk ra s
  | .ulkLit ra lit => Sys2Proof.Machine.execUlkLit ra lit s
  | .sld rd ra imm => Sys2Proof.Machine.execSld rd ra imm s
  | .sldLit rd ra lit => Sys2Proof.Machine.execSldLit rd ra lit s
  | .sldw rd ra imm => Sys2Proof.Machine.execSldw rd ra imm s
  | .sldwLit rd ra lit => Sys2Proof.Machine.execSldwLit rd ra lit s
  | .sldh rd ra imm => Sys2Proof.Machine.execSldh rd ra imm s
  | .sldhLit rd ra lit => Sys2Proof.Machine.execSldhLit rd ra lit s
  | .sst rs ra imm => Sys2Proof.Machine.execSst rs ra imm s
  | .sstLit rs ra lit => Sys2Proof.Machine.execSstLit rs ra lit s
  | .sstw rs ra imm => Sys2Proof.Machine.execSstw rs ra imm s
  | .sstwLit rs ra lit => Sys2Proof.Machine.execSstwLit rs ra lit s
  | .sstb rs ra imm => Sys2Proof.Machine.execSstb rs ra imm s
  | .sstbLit rs ra lit => Sys2Proof.Machine.execSstbLit rs ra lit s
  | .sstp sc rs ra => Sys2Proof.Machine.execSstp sc rs ra s
  | .acq sc ra => Sys2Proof.Machine.execAcq sc ra s
  | .rel sc ra => Sys2Proof.Machine.execRel sc ra s
  | .fence sc rd => Sys2Proof.Machine.execFence sc rd s
  | .fencel sc => Sys2Proof.Machine.execFencel sc s
  | .sobind rd ra rb => Sys2Proof.Machine.execSobind rd ra rb s
  | .sounb ra => Sys2Proof.Machine.execSounb ra s
  | .syadd rd ra rb => Sys2Proof.Machine.execSyadd rd ra rb s
  | .syaddLit rd ra lit => Sys2Proof.Machine.execSyaddLit rd ra lit s
  | .sycas rd ra rb => Sys2Proof.Machine.execSycas rd ra rb s
  | .sycasLit rd ra lit => Sys2Proof.Machine.execSycasLit rd ra lit s
  | .syswp rd ra rb => Sys2Proof.Machine.execSyswp rd ra rb s
  | .syswpLit rd ra lit => Sys2Proof.Machine.execSyswpLit rd ra lit s
  | .syld rd ra => Sys2Proof.Machine.execSyld rd ra s
  | .logadd ra rb => Sys2Proof.Machine.execLogadd ra rb s
  | .logaddLit ra lit => Sys2Proof.Machine.execLogaddLit ra lit s
  | .logfadd ra rb => Sys2Proof.Machine.execLogfadd ra rb s
  | .logfaddLit ra lit => Sys2Proof.Machine.execLogfaddLit ra lit s
  | .hstart rd ra rb => Sys2Proof.Machine.execHstart rd ra rb s
  | .hstartLit rd ra lit => Sys2Proof.Machine.execHstartLit rd ra lit s
  | .hjoin ra => Sys2Proof.Machine.execHjoin ra s
  | .hexit => Sys2Proof.Machine.execHexit s
  | .hstat rd => Sys2Proof.Machine.execHstat rd s
  | .yield => Sys2Proof.Machine.execYield s
  | .gang ra => Sys2Proof.Machine.execGang ra s
  | .detach => Sys2Proof.Machine.execDetach s
  | .rejoin => Sys2Proof.Machine.execRejoin s
  | .bar lv => Sys2Proof.Machine.execBar lv s
  | .signal ra => Sys2Proof.Machine.execSignal ra s
  | .phasec => Sys2Proof.Machine.execPhasec s
  | .phasex => Sys2Proof.Machine.execPhasex s
  | .waitc rb => Sys2Proof.Machine.execWaitc rb s
  | .waitcLit lit => Sys2Proof.Machine.execWaitcLit lit s
  | .bany rd ra => Sys2Proof.Machine.execBany rd ra s
  | .ball rd ra => Sys2Proof.Machine.execBall rd ra s
  | .rset idx ra rb => Sys2Proof.Machine.execRset idx ra rb s
  | .rsetLit idx ra lit => Sys2Proof.Machine.execRsetLit idx ra lit s
  | .pclr idx => Sys2Proof.Machine.execPclr idx s
  | .pset idx => Sys2Proof.Machine.execPset idx s
  | .ptst rd idx => Sys2Proof.Machine.execPtst rd idx s
  | .sopen ra => Sys2Proof.Machine.execSopen ra s
  | .sput rb => Sys2Proof.Machine.execSput rb s
  | .sputLit lit => Sys2Proof.Machine.execSputLit lit s
  | .sget rd => Sys2Proof.Machine.execSget rd s
  | .sclose => Sys2Proof.Machine.execSclose s
  | .msg ra rb => Sys2Proof.Machine.execMsg ra rb s
  | .msgLit ra lit => Sys2Proof.Machine.execMsgLit ra lit s
  | .msgrd rd => Sys2Proof.Machine.execMsgrd rd s
  | .csrr rd csr => Sys2Proof.Machine.execCsrr rd csr s
  | .csrw csr ra => Sys2Proof.Machine.execCsrw csr ra s
  | .csrs csr ra => Sys2Proof.Machine.execCsrs csr ra s
  | .csrc csr ra => Sys2Proof.Machine.execCsrc csr ra s
  | .trap ra => Sys2Proof.Machine.execTrap ra s
  | .rte => Sys2Proof.Machine.execRte s
  | .wfi => Sys2Proof.Machine.execWfi s
  | .ifence => Sys2Proof.Machine.execIfence s
  | .tlbi ra => Sys2Proof.Machine.execTlbi ra s
  | .snap => Sys2Proof.Machine.execSnap s
  | .halt => Sys2Proof.Machine.execHalt s
  | .vadd ty rm sat vd va vb mk => Sys2Proof.Machine.execVadd ty rm sat vd va vb mk s
  | .vsub ty rm sat vd va vb mk => Sys2Proof.Machine.execVsub ty rm sat vd va vb mk s
  | .vmul ty rm sat vd va vb mk => Sys2Proof.Machine.execVmul ty rm sat vd va vb mk s
  | .vfma ty rm sat vd va vb vc mk => Sys2Proof.Machine.execVfma ty rm sat vd va vb vc mk s
  | .vfms ty rm sat vd va vb vc mk => Sys2Proof.Machine.execVfms ty rm sat vd va vb vc mk s
  | .vmin ty vd va vb mk => Sys2Proof.Machine.execVmin ty vd va vb mk s
  | .vmax ty vd va vb mk => Sys2Proof.Machine.execVmax ty vd va vb mk s
  | .vabs ty sat vd va mk => Sys2Proof.Machine.execVabs ty sat vd va mk s
  | .vneg ty sat vd va mk => Sys2Proof.Machine.execVneg ty sat vd va mk s
  | .vrcp rm vd va mk => Sys2Proof.Machine.execVrcp rm vd va mk s
  | .vrsq rm vd va mk => Sys2Proof.Machine.execVrsq rm vd va mk s
  | .vsqrt rm vd va mk => Sys2Proof.Machine.execVsqrt rm vd va mk s
  | .vexp2 rm vd va mk => Sys2Proof.Machine.execVexp2 rm vd va mk s
  | .vlog2 rm vd va mk => Sys2Proof.Machine.execVlog2 rm vd va mk s
  | .vcmpeq ty md va vb mk => Sys2Proof.Machine.execVcmpeq ty md va vb mk s
  | .vcmplt ty md va vb mk => Sys2Proof.Machine.execVcmplt ty md va vb mk s
  | .vcmple ty md va vb mk => Sys2Proof.Machine.execVcmple ty md va vb mk s
  | .vsel vd va vb mk => Sys2Proof.Machine.execVsel vd va vb mk s
  | .vand vd va vb mk => Sys2Proof.Machine.execVand vd va vb mk s
  | .vor vd va vb mk => Sys2Proof.Machine.execVor vd va vb mk s
  | .vxor vd va vb mk => Sys2Proof.Machine.execVxor vd va vb mk s
  | .vshl ty vd va vb mk => Sys2Proof.Machine.execVshl ty vd va vb mk s
  | .vshr ty vd va vb mk => Sys2Proof.Machine.execVshr ty vd va vb mk s
  | .vsra ty vd va vb mk => Sys2Proof.Machine.execVsra ty vd va vb mk s
  | .vcvt dst src rm p vd va mk => Sys2Proof.Machine.execVcvt dst src rm p vd va mk s
  | .vmov vd va mk => Sys2Proof.Machine.execVmov vd va mk s
  | .vbcst ty vd ra imm mk => Sys2Proof.Machine.execVbcst ty vd ra imm mk s
  | .vbcstLit ty vd ra lit mk => Sys2Proof.Machine.execVbcstLit ty vd ra lit mk s
  | .vext ty rd va rb => Sys2Proof.Machine.execVext ty rd va rb s
  | .vins ty vd ra rb => Sys2Proof.Machine.execVins ty vd ra rb s
  | .viota ty vd mk => Sys2Proof.Machine.execViota ty vd mk s
  | .vperm ty vd va vb mk => Sys2Proof.Machine.execVperm ty vd va vb mk s
  | .vredadd ty rm vd va mk => Sys2Proof.Machine.execVredadd ty rm vd va mk s
  | .vredmax ty vd va mk => Sys2Proof.Machine.execVredmax ty vd va mk s
  | .vredmin ty vd va mk => Sys2Proof.Machine.execVredmin ty vd va mk s
  | .vscan ty rm vd va mk => Sys2Proof.Machine.execVscan ty rm vd va mk s
  | .vld sh vd ra imm mk => Sys2Proof.Machine.execVld sh vd ra imm mk s
  | .vldLit sh vd ra lit mk => Sys2Proof.Machine.execVldLit sh vd ra lit mk s
  | .vst sh vs ra imm mk => Sys2Proof.Machine.execVst sh vs ra imm mk s
  | .vstLit sh vs ra lit mk => Sys2Proof.Machine.execVstLit sh vs ra lit mk s
  | .vlds sh vd ra rb imm mk => Sys2Proof.Machine.execVlds sh vd ra rb imm mk s
  | .vldsLit sh vd ra rb lit mk => Sys2Proof.Machine.execVldsLit sh vd ra rb lit mk s
  | .vsts sh vs ra rb imm mk => Sys2Proof.Machine.execVsts sh vs ra rb imm mk s
  | .vstsLit sh vs ra rb lit mk => Sys2Proof.Machine.execVstsLit sh vs ra rb lit mk s
  | .vgth sh vd ra vb imm mk => Sys2Proof.Machine.execVgth sh vd ra vb imm mk s
  | .vgthLit sh vd ra vb lit mk => Sys2Proof.Machine.execVgthLit sh vd ra vb lit mk s
  | .vsct sh vs ra vb imm mk => Sys2Proof.Machine.execVsct sh vs ra vb imm mk s
  | .vsctLit sh vs ra vb lit mk => Sys2Proof.Machine.execVsctLit sh vs ra vb lit mk s
  | .vdq ty p vd va rb mk => Sys2Proof.Machine.execVdq ty p vd va rb mk s
  | .vqnt ty rm p vd va rb mk => Sys2Proof.Machine.execVqnt ty rm p vd va rb mk s
  | .vhist vd va mk => Sys2Proof.Machine.execVhist vd va mk s
  | .vscale ty rd va rb => Sys2Proof.Machine.execVscale ty rd va rb s
  | .kand md ma mb => Sys2Proof.Machine.execKand md ma mb s
  | .kor md ma mb => Sys2Proof.Machine.execKor md ma mb s
  | .knot md ma => Sys2Proof.Machine.execKnot md ma s
  | .kpop rd ma => Sys2Proof.Machine.execKpop rd ma s
  | .mwld ty ra kr n1 sup => Sys2Proof.Machine.execMwld ty ra kr n1 sup s
  | .mma v ty td ra rows trow => Sys2Proof.Machine.execMma v ty td ra rows trow s
  | .mmai v asg wsg rsm td ra rb rc rows trow => Sys2Proof.Machine.execMmai v asg wsg rsm td ra rb rc rows trow s
  | .mzero td => Sys2Proof.Machine.execMzero td s
  | .mldacc b td ra rows trow => Sys2Proof.Machine.execMldacc b td ra rows trow s
  | .mdrain mode sh z ch td ra rb ring tag => Sys2Proof.Machine.execMdrain mode sh z ch td ra rb ring tag s
  | .mrqp ra => Sys2Proof.Machine.execMrqp ra s
  | .mrank ty td ra rb rc rows n1 scale => Sys2Proof.Machine.execMrank ty td ra rb rc rows n1 scale s
  | .mwait => Sys2Proof.Machine.execMwait s
  | .mstat rd ra => Sys2Proof.Machine.execMstat rd ra s
  | .rank v mag ty rd ra rb rc => Sys2Proof.Machine.execRank v mag ty rd ra rb rc s
  | .rankc mag ty rd ra rb rc pitch => Sys2Proof.Machine.execRankc mag ty rd ra rb rc pitch s
  | .rktab rd ra rb => Sys2Proof.Machine.execRktab rd ra rb s
  | .rkval ty rd ra rb rc scale => Sys2Proof.Machine.execRkval ty rd ra rb rc scale s
  | .aecfg rd ra rb => Sys2Proof.Machine.execAecfg rd ra rb s
  | .aesc rd ra rb rc => Sys2Proof.Machine.execAesc rd ra rb rc s
  | .aecap dflt rd ra rb => Sys2Proof.Machine.execAecap dflt rd ra rb s
  | .aerun ra rb => Sys2Proof.Machine.execAerun ra rb s
  | .aewait rd ra => Sys2Proof.Machine.execAewait rd ra s
  | .aerd rd ra rb => Sys2Proof.Machine.execAerd rd ra rb s
  | .aepr rd ra rb => Sys2Proof.Machine.execAepr rd ra rb s
  | .aepw rd ra rb => Sys2Proof.Machine.execAepw rd ra rb s
  | .aestat rd ra => Sys2Proof.Machine.execAestat rd ra s
  | .cpy ssh dsh dstr defer code ch rd ra rb rc ring tag => Sys2Proof.Machine.execCpy ssh dsh dstr defer code ch rd ra rb rc ring tag s
  | .cpym ssh dstr flag ch rd ra rb rc ring off => Sys2Proof.Machine.execCpym ssh dstr flag ch rd ra rb rc ring off s
  | .cpych sh ch ra ring => Sys2Proof.Machine.execCpych sh ch ra ring s
  | .cring ra rb => Sys2Proof.Machine.execCring ra rb s
  | .cawait seq rd ra => Sys2Proof.Machine.execCawait seq rd ra s
  | .crel ra => Sys2Proof.Machine.execCrel ra s
  | .cseq rd ra => Sys2Proof.Machine.execCseq rd ra s
  | .bfree ra => Sys2Proof.Machine.execBfree ra s
  | .publish rd ra => Sys2Proof.Machine.execPublish rd ra s
  | .coll rd ra => Sys2Proof.Machine.execColl rd ra s
  | .collw rd ra => Sys2Proof.Machine.execCollw rd ra s
  | .signatureMismatch => Sys2Proof.Machine.execSignatureMismatch s
  | .logFull => Sys2Proof.Machine.execLogFull s
  | .budgetOverrun launch => Sys2Proof.Machine.execBudgetOverrun launch s
  | .switchTick core => Sys2Proof.Machine.execSwitchTick core s
  | .contextStream core launch => Sys2Proof.Machine.execContextStream core launch s
  | .dispatch launch dies cr cc => Sys2Proof.Machine.execDispatch launch dies cr cc s
  | .imageLoadComplete launch => Sys2Proof.Machine.execImageLoadComplete launch s
  | .contextEnd core => Sys2Proof.Machine.execContextEnd core s
  | .completionRecord launch => Sys2Proof.Machine.execCompletionRecord launch s
  | .remoteWriteArrival core => Sys2Proof.Machine.execRemoteWriteArrival core s
  | .rsetAcceptance core thr => Sys2Proof.Machine.execRsetAcceptance core thr s
  | .rsetRetry core thr => Sys2Proof.Machine.execRsetRetry core thr s
  | .remoteAccessRetry core thr => Sys2Proof.Machine.execRemoteAccessRetry core thr s
  | .localLoadReturn pos => Sys2Proof.Machine.execLocalLoadReturn pos s
  | .messageArrival core => Sys2Proof.Machine.execMessageArrival core s
  | .streamPortGrant core => Sys2Proof.Machine.execStreamPortGrant core s
  | .streamEntryArrival core => Sys2Proof.Machine.execStreamEntryArrival core s
  | .lockGrant cluster bank k => Sys2Proof.Machine.execLockGrant cluster bank k s
  | .lockTimeout cluster => Sys2Proof.Machine.execLockTimeout cluster s
  | .feWaitComplete core granule => Sys2Proof.Machine.execFeWaitComplete core granule s
  | .gangFormed core => Sys2Proof.Machine.execGangFormed core s
  | .forwardArrival core => Sys2Proof.Machine.execForwardArrival core s
  | .barrierRelease launch lv leader => Sys2Proof.Machine.execBarrierRelease launch lv leader s
  | .waitcExpiry core thr => Sys2Proof.Machine.execWaitcExpiry core thr s
  | .yieldExpiry core thr => Sys2Proof.Machine.execYieldExpiry core thr s
  | .recordDrift core => Sys2Proof.Machine.execRecordDrift core s
  | .callWindow sys => Sys2Proof.Machine.execCallWindow sys s
  | .publicationApply lag => Sys2Proof.Machine.execPublicationApply lag s
  | .replicaApply die => Sys2Proof.Machine.execReplicaApply die s
  | .sharedLoadReturn pos => Sys2Proof.Machine.execSharedLoadReturn pos s
  | .relComplete core thr => Sys2Proof.Machine.execRelComplete core thr s
  | .acqComplete core thr => Sys2Proof.Machine.execAcqComplete core thr s
  | .syncOpComplete core thr => Sys2Proof.Machine.execSyncOpComplete core thr s
  | .fenceComplete core thr => Sys2Proof.Machine.execFenceComplete core thr s
  | .segmentReclaim => Sys2Proof.Machine.execSegmentReclaim s
  | .tscWalk cluster => Sys2Proof.Machine.execTscWalk cluster s
  | .tlbFill cluster => Sys2Proof.Machine.execTlbFill cluster s
  | .absentRewalk cluster => Sys2Proof.Machine.execAbsentRewalk cluster s
  | .denyRewalk cluster => Sys2Proof.Machine.execDenyRewalk cluster s
  | .tlbSweep cluster => Sys2Proof.Machine.execTlbSweep cluster s
  | .invalVa vpn asid => Sys2Proof.Machine.execInvalVa vpn asid s
  | .invalAsid asid => Sys2Proof.Machine.execInvalAsid asid s
  | .invalAll => Sys2Proof.Machine.execInvalAll s
  | .tscAcknowledge cluster => Sys2Proof.Machine.execTscAcknowledge cluster s
  | .invalDone => Sys2Proof.Machine.execInvalDone s
  | .transferStart cluster ch => Sys2Proof.Machine.execTransferStart cluster ch s
  | .transferComplete cluster ch => Sys2Proof.Machine.execTransferComplete cluster ch s
  | .chainRecordFetch cluster ch => Sys2Proof.Machine.execChainRecordFetch cluster ch s
  | .multicastGrant core thr => Sys2Proof.Machine.execMulticastGrant core thr s
  | .xvComplete core => Sys2Proof.Machine.execXvComplete core s
  | .matrixGrant cluster => Sys2Proof.Machine.execMatrixGrant cluster s
  | .matrixComplete cluster => Sys2Proof.Machine.execMatrixComplete cluster s
  | .rankGrant cluster => Sys2Proof.Machine.execRankGrant cluster s
  | .rankComplete cluster => Sys2Proof.Machine.execRankComplete cluster s
  | .aeCommandStart die pos => Sys2Proof.Machine.execAeCommandStart die pos s
  | .aeCommandComplete die pos => Sys2Proof.Machine.execAeCommandComplete die pos s
  | .aeRound die slot => Sys2Proof.Machine.execAeRound die slot s
  | .aeRunEnd die slot => Sys2Proof.Machine.execAeRunEnd die slot s
  | .schedulerConsume queue => Sys2Proof.Machine.execSchedulerConsume queue s
  | .queueBind queue slot => Sys2Proof.Machine.execQueueBind queue slot s
  | .queueRotate => Sys2Proof.Machine.execQueueRotate s
  | .arbiterGrant => Sys2Proof.Machine.execArbiterGrant s
  | .sliceEnd launch => Sys2Proof.Machine.execSliceEnd launch s
  | .admissionDecision => Sys2Proof.Machine.execAdmissionDecision s
  | .reservationQuotaEnd rsv => Sys2Proof.Machine.execReservationQuotaEnd rsv s
  | .reservationPeriod rsv => Sys2Proof.Machine.execReservationPeriod rsv s
  | .stepTick busy idle => Sys2Proof.Machine.execStepTick busy idle s
  | .retrainEnd boundary => Sys2Proof.Machine.execRetrainEnd boundary s
  | .portDead boundary => Sys2Proof.Machine.execPortDead boundary s
  | .escapeRouteInstall boundary => Sys2Proof.Machine.execEscapeRouteInstall boundary s
  | .nackResend boundary => Sys2Proof.Machine.execNackResend boundary s
  | .packetAgeDrop die => Sys2Proof.Machine.execPacketAgeDrop die s
  | .dieReset die => Sys2Proof.Machine.execDieReset die s
  | .domainTimeLoss => Sys2Proof.Machine.execDomainTimeLoss s
  | .chunkArrival grp inst sender data => Sys2Proof.Machine.execChunkArrival grp inst sender data s
  | .spillRefetch => Sys2Proof.Machine.execSpillRefetch s
  | .collInstanceComplete grp inst => Sys2Proof.Machine.execCollInstanceComplete grp inst s
  | .correctedError err => Sys2Proof.Machine.execCorrectedError err s
  | .latentError err => Sys2Proof.Machine.execLatentError err s
  | .consumedError err => Sys2Proof.Machine.execConsumedError err s
  | .containmentLaunchFault launch => Sys2Proof.Machine.execContainmentLaunchFault launch s
  | .containmentEnd die rect => Sys2Proof.Machine.execContainmentEnd die rect s
  | .scrubLine pa res => Sys2Proof.Machine.execScrubLine pa res s
  | .snapinEdge => Sys2Proof.Machine.execSnapinEdge s
  | .snapshotLatch => Sys2Proof.Machine.execSnapshotLatch s
  | .snapshotRelease => Sys2Proof.Machine.execSnapshotRelease s
  | .mapCommit die => Sys2Proof.Machine.execMapCommit die s
  | .registerWrite off val => Sys2Proof.Machine.execRegisterWrite off val s
  | .thermalWarning => Sys2Proof.Machine.execThermalWarning s
  | .thermalPoweroff => Sys2Proof.Machine.execThermalPoweroff s
  | .boot imgs => Sys2Proof.Machine.execBoot imgs s
  | .inval => Sys2Proof.Machine.execInval s
  | .resv => Sys2Proof.Machine.execResv s
  | .cmap => Sys2Proof.Machine.execCmap s
  | .grpalloc => Sys2Proof.Machine.execGrpalloc s
  | .grpfree => Sys2Proof.Machine.execGrpfree s
  | .spill => Sys2Proof.Machine.execSpill s
  | .bnd => Sys2Proof.Machine.execBnd s
  | .snapRequest => Sys2Proof.Machine.execSnapRequest s
  | .attest => Sys2Proof.Machine.execAttest s
  | .status => Sys2Proof.Machine.execStatus s
  | .ras => Sys2Proof.Machine.execRas s
  | .requestBadarg => Sys2Proof.Machine.execRequestBadarg s
  | .illegalInstruction reason w0 => Sys2Proof.Machine.execIllegalInstruction reason w0 s
  | .fetchBound => Sys2Proof.Machine.execFetchBound s
  | .queueReset queue => Sys2Proof.Machine.execQueueReset queue s
  | .rdmaWrite port ctxid va data => Sys2Proof.Machine.execRdmaWrite port ctxid va data s
  | .cxlWrite port ctxid va data => Sys2Proof.Machine.execCxlWrite port ctxid va data s
  | .msgRetry core thr => Sys2Proof.Machine.execMsgRetry core thr s

end Sys2Proof.Machine
end

