-- ==== Sys2Proof/Machine/Agenda.lean ====
section
/-!
DEFINITION. What a step does: how a thread fetches and issues (R46, R62, R68, R88–R91, R96, R97, R327), what is due at a tick, what
may happen next, and how time passes. The machine takes the head of its agenda first; with an empty agenda it takes one of the
things that may happen, a free choice (log 5).
-/

namespace Sys2Proof.Machine

open Sys2Proof

/-! ## The instruction buffer and the fetch (R46, R88–R91) -/

/-- What is left of words after whole instructions of `n` words together; none, where `n` words end within an instruction. The first
argument bounds the instructions. -/
def afterInstrs : Nat → Nat → List W32 → List W32
  | _, 0, l => l
  | 0, _ + 1, _ => []
  | _ + 1, _ + 1, [] => []
  | f + 1, n + 1, w :: ws =>
    let k := wordsOf (w.extractLsb' 0 2)
    if k ≤ n + 1 then afterInstrs f (n + 1 - k) ((w :: ws).drop k) else []

/-- The words of a half from a PC on, at which one of the instructions that it was filled with begins: an instruction is used as the one
read that brought it (R46). -/
def IbHalf.from_ (h : IbHalf) (pc : Nat) : List W32 :=
  if h.start.toNat ≤ pc ∧ (pc - h.start.toNat) % 4 = 0 then afterInstrs h.words.length ((pc - h.start.toNat) / 4) h.words else []

/-- Whether words begin with a whole instruction. -/
def wholeInstr : List W32 → Bool
  | [] => false
  | w :: ws => decide (wordsOf (w.extractLsb' 0 2) ≤ ws.length + 1)

/-- The whole instructions, at most `n`, with which words begin: an instruction is read in a single read (R46). They end before one that
may not be read now; `torn` says so of the instruction at a word, of which the first word here is number `d`. -/
def wholePrefix (torn : Nat → Bool) : Nat → Nat → List W32 → List W32
  | 0, _, _ => []
  | n + 1, d, l => match l with
    | [] => []
    | w :: _ =>
      let k := wordsOf (w.extractLsb' 0 2)
      if k ≤ l.length ∧ !torn d then l.take k ++ wholePrefix torn n (d + k) (l.drop k) else []

/-- At most `n` words of a context's region in ULM from a PC on. A PC that an RTE has made no multiple of 4 reads words from there on
(DESIGN CHOICE, log 74). -/
def State.codeWords (s : State) (c : Nat) (x : Ctx) (pc n : Nat) : List W32 :=
  (List.range n).filterMap fun j =>
    if pc + 4 * j + 4 ≤ x.region then some ((s.core c).ulm.readLE (x.origin + pc + 4 * j) 4 32) else none

/-- Stores of 8 bytes under way to `n` bytes of a core's ULM are made whole before code is read there: each lies wholly before a read of an
instruction or wholly after it (R46, R91). -/
def State.landStores (s : State) (c a n : Nat) : State :=
  s.makeHalves fun _ _ t => t.half.any fun h =>
    !h.scratch && h.unit == c && h.store.isSome && decide (a < h.off + 8) && decide (h.off < a + n + 4)

/-- Writes to a core's ULM of which some are made and others are not, within `n` bytes from `a` on: `w` are the bytes that each begins at,
and whether it is made. -/
def halfWritten (a n : Nat) (w : List (Nat × Bool)) : Bool :=
  let l := w.filter fun (b, _) => decide (a < b + 4) && decide (b < a + n)
  l.any (·.2) && l.any fun x => !x.2

/-- The ULM bytes of a core that the elements of a transfer go to, and whether each has moved. -/
def Transfer.ulmWrites (t : Transfer) (c : Nat) : List (Nat × Bool) :=
  t.moves.zipIdx.filterMap fun (m, n) =>
    let moved := decide (n < t.next) || t.early.contains n
    match t.kind with
    | .multicast rect _ => if (rectOf rect).cores.contains c then some (t.origin + m.dst.toNat, moved) else none
    | .plain | .image | .drain _ _ _ _ =>
      if opmType m.dst = 0 ∧ opmCore m.dst = c then some (ulmByte t.core t.origin m.dst, moved) else none

/-- The words of `n` bytes of output at an operand that lie in the own core's ULM, and whether each has been written. -/
def EngineLoc.ulmWrites (l : EngineLoc) (n : Nat) (put : List Nat) : List (Nat × Bool) :=
  match l with
  | .ulm off => (List.range ((n + 3) / 4)).map fun i => (off + 4 * i, put.contains i)
  | .scratch _ => []

/-- Whether an engine's command of a launch in progress has written some of `n` bytes of a core's ULM from `a` on, and has others of them
still to write: an instruction there is read when all are written (R46, R91). -/
def State.torn (s : State) (c launch a n : Nat) : Bool :=
  (s.clusters.any fun (_, x) =>
    ((List.range 9).any fun ch => (x.headOf ch).any fun t =>
      t.state == .running && !t.dsh && t.launch == launch && halfWritten a n (t.ulmWrites c)) ||
    x.rkRunning.any fun r => r.core == c && r.entry.launch == launch && r.out.any fun (bs, _) =>
      match r.entry.cmd with
      | .rank _ _ _ _ b _ _ | .rankc _ _ _ b _ _ _ _ | .rkval _ _ b _ _ _ _ => halfWritten a n (b.ulmWrites bs.length r.put)
      | .rktab _ _ _ => false) ||
    s.dies.any fun (_, x) => x.ae.queue.any fun q => q.started && q.core == c && q.launch == launch &&
      match q.cmd with
      | .rd _ l | .pr _ l => halfWritten a n (l.loc.ulmWrites (x.ae.output q.cmd).length q.put)
      | .cfg _ _ | .sc _ _ _ | .cap _ _ | .run _ _ | .pw _ _ | .stat _ => false

/-- Whether the instruction that a thread's core reads from its ULM at a PC is split by an engine's command in progress. -/
def State.tornAt (s : State) (c : Nat) (x : Ctx) (pc : Nat) : Bool :=
  let w : W32 := (s.core c).ulm.readLE (x.origin + pc) 4 32
  s.torn c x.launch (x.origin + pc) (4 * wordsOf (w.extractLsb' 0 2))

/-- The whole instructions from a PC on, in at most `n` words, that a core reads from its ULM now (R46). -/
def State.codeFrom (s : State) (c : Nat) (x : Ctx) (pc n : Nat) : List W32 :=
  wholePrefix (fun d => s.tornAt c x (pc + 4 * d)) 16 0 (s.codeWords c x pc n)

/-- Whether a thread's next instruction is neither in its buffer nor can be read now. -/
def State.fetchWaits (s : State) (c : Nat) (x : Ctx) (t : Thread) : Bool :=
  !wholeInstr (t.ibSeq.from_ t.pc.toNat) && !wholeInstr (t.ibTgt.from_ t.pc.toNat) && s.tornAt c x t.pc.toNat

/-- The words that a thread's next instruction is read from: a half of its buffer that holds all of them, or its ULM (R46, R91). -/
def State.fetch (s : State) (c : Nat) (x : Ctx) (t : Thread) : List W32 :=
  let pc := t.pc.toNat
  if wholeInstr (t.ibSeq.from_ pc) then t.ibSeq.from_ pc
  else if wholeInstr (t.ibTgt.from_ pc) then t.ibTgt.from_ pc
  else s.codeWords c x pc 5

/-- The target of a word that is a conditional branch at a PC (R87). -/
noncomputable def branchTarget (pc : W64) (w : W32) : Option W64 :=
  match decode [w] with
  | .ok (.beq _ _ o) _ | .ok (.bne _ _ o) _ | .ok (.blt _ _ o) _ | .ok (.bge _ _ o) _ | .ok (.bltu _ _ o) _
  | .ok (.bgeu _ _ o) _ => some (pc + (o.signExtend 64 <<< 2))
  | _ => none

/-- The buffer after an instruction: it keeps a stalled instruction's words and the words after one that has gone on in sequence; a
transfer keeps the half that was filled from its target, and a branch not taken discards it (R89). -/
noncomputable def Thread.buffer (t : Thread) (pc : W64) (len : Nat) (words : List W32) : Thread :=
  if t.stall.isSome then
    if (t.ibSeq.from_ pc.toNat).take words.length = words then t else { t with ibSeq := ⟨pc, words⟩ }
  else if t.pc = pc + BitVec.ofNat 64 len then
    { t with ibSeq := ⟨t.pc, t.ibSeq.from_ t.pc.toNat⟩,
             ibTgt := if branchTarget pc (words.headD 0) = some t.ibTgt.start then ⟨0, []⟩ else t.ibTgt }
  else { t with ibSeq := ⟨t.pc, t.ibTgt.from_ t.pc.toNat⟩, ibTgt := ⟨0, []⟩ }

/-- Whether a thread's buffer holds a conditional branch to an address (R89). -/
noncomputable def Thread.branchesTo (t : Thread) (a : W64) : Bool :=
  t.ibSeq.words.zipIdx.any fun (w, n) => branchTarget (t.ibSeq.start + BitVec.ofNat 64 (4 * n)) w == some a

/-- A half of a buffer filled with whole instructions up to 16 words: the sequential one, or, where it is empty, the other from a
branch's target. Whole instructions that it holds stay as they were read (R46, R91). -/
noncomputable def State.prefetch (s : State) (c t : Nat) (target : Option W64) : State :=
  let h := (s.core c).run.thread (thrOf t)
  if !(s.core c).run.resident || !h.live || h.stall.isSome then s
  else
    let s := s.landStores c ((s.core c).run.origin + (target.getD h.pc).toNat) 64
    let x := (s.core c).run
    let h := x.thread (thrOf t)
    let put (h : Thread) : State := s.setCore c { s.core c with run := x.setThread (thrOf t) h }
    match target with
    | none =>
      let old := wholePrefix (fun _ => false) 16 0 (h.ibSeq.from_ h.pc.toNat)
      put { h with ibSeq := ⟨h.pc, old ++ s.codeFrom c x (h.pc.toNat + 4 * old.length) (16 - old.length)⟩ }
    | some a =>
      if h.branchesTo a && h.ibTgt.words.isEmpty then put { h with ibTgt := ⟨a, s.codeFrom c x a.toNat 16⟩ } else s

/-! ## Issue (R62, R68) -/

/-- The core and thread that act. -/
def State.focusOn (s : State) (c t : Nat) : State := { s with focus := c, thr := thrOf t, waiting := false }

/-- Whether the thread in focus may issue or retry: it is live in a running context that has not ended. A thread whose instruction stalls
may retry, also while a trap in another thread pauses it; another issues unless it is paused, no earlier than its last instruction allows
(R80), and its core issues one instruction a cycle (R62, R70). -/
def State.mayIssue (s : State) : Bool :=
  let x := s.ctx
  x.resident && !x.ended && s.th.live && !s.switchDue s.focus &&
    (s.th.stall.isSome ||
      (s.started && !(x.inh && BitVec.ofNat 4 s.thr.val != x.tthr) && decide (s.th.readyAt ≤ s.now) && s.cur.last != some s.now))

/-- An attached follower's control thread takes its instructions from the forward buffer (R96). -/
def State.follows (s : State) : Bool := s.ctx.follows s.thr

/-- The signature checker's part of an issue (R327): the block that the thread was in, or opens, takes the instruction in. -/
def Thread.checked (t : Thread) (old : Thread) (k : Core) (x : Ctx) (i : Instr) (words : List W32) : Thread :=
  let h := (old.sigEnter k x).sigIssue i words
  { t with sig := h.sig, sigBad := h.sigBad }

/-- The next PC that the leader of a gang sends with an instruction: of one that still waits, the following one. -/
def Thread.nextPc (t : Thread) (pc : W64) (len : Nat) : W64 := if t.stall.isSome then pc + BitVec.ofNat 64 len else t.pc

/-- Whether a thread takes a conditional branch (R86). -/
def branchTaken (i : Instr) (t : Thread) : Option Bool :=
  match i with
  | .beq a b _ => some (t.reg a == t.reg b)
  | .bne a b _ => some (t.reg a != t.reg b)
  | .blt a b _ => some ((t.reg a).slt (t.reg b))
  | .bge a b _ => some (!(t.reg a).slt (t.reg b))
  | .bltu a b _ => some ((t.reg a).ult (t.reg b))
  | .bgeu a b _ => some (!(t.reg a).ult (t.reg b))
  | _ => none

/-- A forwarded instruction leaves the forward buffer, and is held while it stalls; a follower whose transfer had another outcome than
the leader's detaches: of a conditional branch, taken or not taken (R97). -/
def Gang.took (g : Gang) (f : Fwd) (next : W64) (taken : Option Bool) (stalled : Bool) : Option Gang :=
  if !g.attached then some g
  else if f.next = next ∧ f.taken = taken then some { g with buffer := g.buffer.drop 1, held := if stalled then some f else none }
  else g.detach

/-- A detached follower has issued an instruction of its own: what a switch had abandoned is behind it (R102). -/
def Gang.alone (g : Gang) : Gang := if g.leader || g.attached then g else { g with held := none }

/-- Bookkeeping after an instruction that has issued from state `s` in the thread in focus (R62, R89, R96, R97, R327). `from_` is the
forwarded instruction that it was, if it was one. A leader's instruction that traps at its issue has no effect (R68), and is not sent on the
forward lane (DESIGN CHOICE, log 97: R96 sends every instruction that issues while inh is 0 and does not name one that traps). -/
noncomputable def State.issued (s' s : State) (i : Instr) (words : List W32) (from_ : Option Fwd) (halts : Bool) : State :=
  let c := s.focus
  let pc := s.th.pc
  let len := 4 * words.length
  let s' : State := { s' with focus := c, thr := s.thr }
  let s' := s'.setCore c { s'.core c with ptr := s.thr.val, last := some s.now }
  if !((s'.core c).run.of s.ctx.launch) || s'.ctx.ended || !s'.th.live then s'
  else
    let t := s'.th
    let t := if s.ctx.checks && s'.ctx.checks then t.checked s.th s.cur s.ctx i words else t
    let s' := s'.setTh (t.buffer pc len words)
    let s' := match from_ with
      | some f =>
        let took (g : Gang) : Option Gang := g.took f (t.nextPc pc len) (branchTaken i s.th) t.stall.isSome
        s'.setCtx { s'.ctx with gang := s'.ctx.gang.bind took }
      | none => if s.thr = 0 then s'.setCtx { s'.ctx with gang := s'.ctx.gang.map Gang.alone } else s'
    if s.thr == 0 && !s.ctx.inh && !s'.ctx.inh && !halts then s'.forward words pc (t.nextPc pc len) (branchTaken i s.th) else s'

/-- Whether an instruction is HALT, which sends itself on (R107). -/
def isHalt : Instr → Bool
  | .halt => true
  | _ => false

/-- An attempt's outcome: one that waits leaves no trace but what its waiting began. -/
def closing (f : State → State) : Out → Out
  | .next s => if s.waiting then .next s else .next (f s)
  | .fault e => .fault e
  | .refused r => .refused r

/-- The instruction in the given words issues in the thread in focus: decoded and executed, or illegal (R57). -/
noncomputable def State.issueWords (s : State) (ws : List W32) (from_ : Option Fwd) : Out :=
  match decode ws with
  | .illegal k w0 => exec (.illegalInstruction (BitVec.ofNat 8 k) w0) s
  | .ok i n => closing (fun t => t.issued s i (ws.take (n / 4)) from_ (isHalt i)) (exec i s)

/-- The stalled instruction of the thread in focus is retried by its unit (R62): it is still in the buffer. -/
noncomputable def State.retryWords (s : State) (ws : List W32) : Out :=
  match decode ws with
  | .illegal k w0 => exec (.illegalInstruction (BitVec.ofNat 8 k) w0) s
  | .ok i n =>
    let pc := s.th.pc
    closing (fun t =>
      if (t.core s.focus).run.of s.ctx.launch && t.th.live then t.setTh (t.th.buffer pc n (ws.take (n / 4))) else t) (exec i s)

/-- The thread in focus issues from its own PC (R88) or from the forward buffer. -/
noncomputable def State.issueNext (s : State) : Out :=
  if s.follows then
    match s.ctx.nextFwd s.thr with
    | some f => s.issueWords f.words (some f)
    | none => wait s
  else if s.ctx.region ≤ s.th.pc.toNat then exec .fetchBound s
  else if s.fetchWaits s.focus s.ctx s.th then wait s
  else s.issueWords (s.fetch s.focus s.ctx s.th) none

/-- The state before the thread in focus issues its next instruction: its latest access is made whole (R112, R114), and stores to the words
that it may be read from (R46, R91); an attached follower is at its leader's PC (R96), and a block that the PC has left is compared
(R327). -/
def State.beforeIssue (s : State) : State :=
  let s := s.makeHalf s.focus s.thr
  let s := s.landStores s.focus (s.ctx.origin + s.th.pc.toNat) 20
  let s := s.setTh (s.th.tracking (s.ctx.nextFwd s.thr))
  if s.ctx.checks && !(s.follows && (s.ctx.nextFwd s.thr).isNone) then s.setTh s.th.sigLeave else s

/-- A thread issues its next instruction or retries a stalled one. Between instructions come a signature mismatch and then a budget
notice (R68, R72). A notice is taken by the context's thread that is the first to come to issue (DESIGN CHOICE, log 75). -/
noncomputable def State.issueOn (s : State) (c t : Nat) : Out :=
  let s := s.focusOn c t
  if !s.mayIssue then wait s
  else if s.th.stall.isSome then s.retryWords (s.fetch s.focus s.ctx s.th)
  else
    let s := s.beforeIssue
    if s.th.sigBad.isSome && !s.ctx.inh then exec .signatureMismatch s
    else if s.ctx.notice ≠ 0 ∧ !s.ctx.inh then noticeTrap s
    else s.issueNext

/-! ## Ready threads (R62) -/

/-- Whether an attempt of a thread would go on. -/
noncomputable def State.proceeds (s : State) (c t : Nat) : Bool :=
  match s.issueOn c t with
  | .next s' => !s'.waiting
  | .fault _ | .refused _ => true

/-- Whether a thread of the running context of a core is stalled. -/
def State.isStalled (s : State) (c t : Nat) : Bool := (s.threadOn c t).stall.isSome

/-- The thread that a core issues from: the first ready one after the one that issued last. -/
noncomputable def State.readyThread (s : State) (c : Nat) : Option Nat :=
  (pointerOrder (s.core c).ptr).find? fun t => !s.isStalled c t && s.proceeds c t

/-- The ready mask of a core (R339). -/
noncomputable def State.readyMask (s : State) (c : Nat) : W64 :=
  BitVec.ofNat 64 (((List.range 11).filter fun t => !s.isStalled c t && s.proceeds c t).map (2 ^ ·)).sum

/-! ## What is due at a tick -/

/-- Whether a vector entry of the running context of a core has been bound to lane groups and nothing keeps it from completing (R75). -/
def State.boundXv (s : State) (c : Nat) : Bool :=
  let k := s.core c
  let t := s.dealUntil c 400
  (t.core c).completing.any fun e =>
    e.launch == k.run.launch && (k.vq.any fun f => f.seq == e.seq && decide (f.left < f.op.slices)) &&
      (performXv c k.run e { t with focus := c }).1.isSome

/-- The tick at which phcyc of a running context reaches a value (R104). -/
def State.phcycAt (s : State) (c : Nat) (v : W64) : Nat :=
  let p := csrValue s.now c (s.core c) true (s.core c).run .phcyc
  if p.ult v then s.now + (v - p).toNat else s.now

/-- The tick at which a stalled thread of a core's running context goes on by itself or traps (R93, R104, R142). -/
def State.stallEnd (s : State) (c : Nat) (w : Wait) : Option Nat :=
  match w with
  | .yield n => some (n + 1)
  | .waitc v => some (s.phcycAt c v)
  | .log since _ _ => some (since + (s.core c).run.logcap.toNat)
  | _ => none

/-- How a stalled thread goes on by itself, or traps, when that tick comes. -/
noncomputable def State.stallAction (s : State) (c t : Nat) (w : Wait) : List Action :=
  match w with
  | .yield _ => [.event (.yieldExpiry c t)]
  | .waitc _ => [.event (.waitcExpiry c t)]
  | .log _ _ _ => if s.proceeds c t then [.issue c t] else []
  | _ => []

/-- The stalled threads of running contexts. -/
def State.stalls (s : State) : List (Nat × Nat × Wait) :=
  s.cores.flatMap fun (c, k) =>
    if k.run.resident && !k.run.ended then
      (List.range 11).filterMap fun t => match (k.run.thread (thrOf t)).stall with
        | some w => if (k.run.thread (thrOf t)).live then some (c, t, w.why) else none
        | none => none
    else []

/-- Cores that run a launch now. -/
def State.coresOn (s : State) (launch : Nat) : Nat := (s.cores.filter fun (_, k) => k.run.of launch && !k.run.ended).length

/-- Ticks in 50 µs (R297). -/
def rotateTicks : Nat := 80000

/-- A launch that runs at best effort and whose slice has not been ended (R298). -/
def Launch.sliced (l : Launch) : Bool := l.state == .running && l.bestEffort && !l.sliceOver

/-- An admitted launch that runs on a core, with no switch named there (R299). -/
def State.uses (s : State) (n : Nat) (l : Launch) : Bool :=
  l.admitted && !l.demoted && l.state == .running && qRsv (s.descOf l) == n &&
    s.cores.any fun (_, k) => k.run.of l.id && k.switch.isNone

/-- A launch past its budget that has not been demoted (R302). -/
def Launch.overruns (l : Launch) : Bool :=
  l.admitted && !l.demoted && l.overrun != 0 && l.state != .ended && l.state != .finished

/-- What the scheduler must do at this tick: slices that end, grants at a call window or when cores have freed up (R298), quotas that are used
up (R299), budgets passed (R302), rotation and binding in their 50 µs (R297), and completion records in time (R304). -/
noncomputable def State.schedDue (s : State) : List Instr :=
  let slot := (List.range 256).find? s.slotFree
  (s.launchList.filter fun l => l.sliced && decide (l.sliceStart + qSlice (s.descOf l) ≤ s.now)).map (.sliceEnd ·.id) ++
    (s.launchList.filter Launch.overruns).map (.budgetOverrun ·.id) ++
    ((List.range 16).filter fun n => (s.rsv n).p != 0 && decide ((s.rsv n).q.toNat ≤ (s.rsv n).used) && s.launchList.any (s.uses n)).map
      (.reservationQuotaEnd ·) ++
    (if (s.freed || (s.now % 32 == 0 && decide (s.arbAt < s.now))) && !s.slotHeads.isEmpty then [.arbiterGrant] else []) ++
    (if s.now % rotateTicks = 0 ∧ s.rotateAt < s.now ∧ !s.unboundQueues.isEmpty then [.queueRotate] else []) ++
    (match slot with
      | some n => ((s.queues.filter fun (q, x) => x.slot.isNone && s.queueWaits q && decide (s.waitsSince q + rotateTicks ≤ s.now)).take 1).map
          fun (q, _) => .queueBind q n
      | none => []) ++
    (s.launchList.filter fun l => l.state == .ended && decide (l.ptimeEnd + 700 ≤ s.now) && (s.completionRecords l).isSome).map
      (.completionRecord ·.id) ++
    ((s.dlUnread.filter fun (q, t) => decide (t + ticks20us ≤ s.now) && s.readable q).take 1).map (.schedulerConsume ·.1) ++
    (if s.launchList.any fun l => l.undecided && decide (l.arrival + ticks20us ≤ s.now) then [.admissionDecision] else [])

/-- Ticks at which the scheduler has something to do. -/
def State.schedDeadlines (s : State) : List Nat :=
  let next (w : Nat) : Nat := (s.now / w + 1) * w
  (s.launchList.filter Launch.sliced).map (fun l => l.sliceStart + qSlice (s.descOf l)) ++
    (s.launchList.filter fun l => l.admitted && !l.demoted && l.state == .running && decide (0 < s.coresOn l.id)).map
      (fun l => s.now + (l.bCycles - l.cycles) / s.coresOn l.id + 1) ++
    ((List.range 16).filter fun n => (s.rsv n).p != 0 && s.launchList.any (s.uses n)).map
      (fun n => s.now + ((s.rsv n).q.toNat - (s.rsv n).used)) ++
    (if s.slotHeads.isEmpty then [] else [next 32]) ++
    (if s.unboundQueues.isEmpty then [] else [next rotateTicks]) ++
    (s.queues.filter fun (q, x) => x.slot.isNone && s.queueWaits q).map (fun (q, _) => s.waitsSince q + rotateTicks) ++
    (s.launchList.filter fun l => l.state == .ended).map (fun l => l.ptimeEnd + 700) ++
    s.dlUnread.map (fun (_, t) => t + ticks20us) ++ (s.launchList.filter Launch.undecided).map (fun l => l.arrival + ticks20us)

/-- Ticks in which a containment reset is over (R334). -/
def containTicks : Nat := 32000

/-- Launches that a reset hit end with FAULT, and the rectangle is back in service, in their 20 µs (R334). -/
noncomputable def State.containDue (s : State) : List Instr :=
  let ends := s.dies.flatMap fun (d, x) => (x.resetting.filter fun (_, t) => decide (t + containTicks ≤ s.now)).map fun (n, _) => (d, n)
  (if !ends.isEmpty || s.dies.all (fun (_, x) => x.resetting.isEmpty) then
    (s.launchList.filter fun l => l.doomed && l.state != .ended && l.state != .finished).map (.containmentLaunchFault ·.id)
  else []) ++ ends.map fun (d, n) => .containmentEnd d n

/-- Events that must happen at this tick: switches whose tick has come, once the vector entries bound to lane groups have completed (R75),
call windows (R134), applications at their ticks and at their latest (R135, R136), locks (R117), sweeps of the TSC (R169), re-walks (R170), a snapshot's
latch (R336), packets that are too old (R315), step ticks, the ends of retraining windows (R309), escape routes (R312), reservation periods (R299), and what the
scheduler does. -/
noncomputable def State.dueEvents (s : State) : List Instr :=
  let f := s.freeWord 0
  let window (sys : Bool) : List Instr :=
    let w := if sys then 1600 else 32
    if s.now % w = 0 ∧ (if sys then s.winSys else s.winDev) < s.now ∧ s.pubs.any (s.slotReady sys s.now) then [.callWindow sys] else []
  let late (n : Nat) (p : Publication) : Bool := p.applied && decide (p.app.getD 0 + n ≤ s.now)
  ((s.cores.map (·.1)).filter s.switchDue).map (fun c => if s.boundXv c then .xvComplete c else .switchTick c) ++
    window true ++ window false ++
    (if !s.duePubs.isEmpty || s.pubs.any (fun p => p.lagG != 0 && late 64 p) then [.publicationApply (f.setWidth 4)] else []) ++
    ((List.range 8).filter fun d => s.pubs.any fun p => p.lagD.getLsbD d && late 256 p).map (.replicaApply ·) ++
    ((s.clusters.filter fun (_, x) => x.locks.any fun (_, l) => decide (l.granted + 64 ≤ s.now)).map (.lockTimeout ·.1)) ++
    ((s.clusters.filter fun (_, x) => decide (x.sweepAt + sweepTicks ≤ s.now)).map (.tlbSweep ·.1)) ++
    ((s.clusters.filter fun (_, x) => x.misses.any (·.absentOver s.now)).map (.absentRewalk ·.1)) ++
    (match s.snapPending with | some (t, _) => if t + 64 ≤ s.now then [.snapshotLatch] else [] | none => []) ++
    (if s.now % stepTicks = 0 ∧ s.stepAt ≠ s.now then [.stepTick (f.setWidth 18) (f.extractLsb' 32 18)] else []) ++
    (s.agedDies.take 1).map (.packetAgeDrop ·) ++
    ((s.boundaries.filter fun (_, x) => x.retrain.any fun t => decide (t ≤ s.now)).map (.retrainEnd ·.1)) ++
    ((s.boundaries.filter fun (_, x) => x.dead && !x.escape && decide (x.deadAt + 6400 ≤ s.now)).map (.escapeRouteInstall ·.1)) ++
    (((List.range 16).filter fun n => (s.rsv n).p != 0 && decide ((s.rsv n).period + (s.rsv n).p.toNat ≤ s.now)).map
      (.reservationPeriod ·)) ++
    (s.scrubDue.take 1).map (fun (l, tag) => .scrubLine (l % 2 ^ 41) (if tag then .tagFail else .uncorrectable)) ++
    s.containDue ++ s.schedDue

/-- What must happen at this tick before anything else: threads whose stall ends, and events. -/
noncomputable def State.due (s : State) : List Action :=
  (s.stalls.filter fun (c, _, w) => match s.stallEnd c w with | some t => decide (t ≤ s.now) | none => false).flatMap
      (fun (c, t, w) => s.stallAction c t w) ++
    s.dueEvents.map .event

/-- Ticks at which something is due or a thread may become ready, after the present one. -/
def State.deadlines (s : State) : List Nat :=
  let next (w : Nat) : Nat := (s.now / w + 1) * w
  (s.stalls.filterMap (fun (x : Nat × Nat × Wait) => s.stallEnd x.1 x.2.2) ++
    s.cores.flatMap (fun (x : Nat × Core) => (if x.2.last = some s.now then [s.now + 1] else []) ++
      x.2.run.threads.toList.flatMap fun (t : Thread) => t.readyAt :: t.results.map (fun (r : Result) => r.due)) ++
    (if s.pubs.any fun p => p.app.isNone && p.ready.isSome then [next 32, next 1600] else []) ++
    s.pubs.filterMap (fun (p : Publication) => if p.applied then none else p.app) ++
    (s.pubs.filter fun (p : Publication) => p.lagG != 0).map (fun (p : Publication) => p.app.getD 0 + 64) ++
    (s.pubs.filter fun (p : Publication) => p.lagD != 0).map (fun (p : Publication) => p.app.getD 0 + 256) ++
    (match s.snapPending with | some (t, _) => [t + 64] | none => []) ++
    s.clusters.map (fun (x : Nat × Cluster) => x.2.sweepAt + sweepTicks) ++
    s.clusters.flatMap (fun (x : Nat × Cluster) => x.2.misses.filterMap fun (m : Miss) => match m.state with | .absent t => some t | _ => none) ++
    (s.packets.filter fun (p : Packet) => p.nacked.isNone).map (fun (p : Packet) => p.sent + 64001) ++
    s.loads.filterMap (fun (l : SharedLoad) => l.got.map fun (x : W64 × Nat × Nat) => x.2.1 + 64001) ++ s.locals.map (fun (l : LocalLoad) => l.sent + 64001) ++
    s.dies.map (fun (x : Nat × Die) => x.2.resetEnd) ++
    s.boundaries.flatMap (fun (x : Nat × Boundary) => x.2.retrain.toList ++ if x.2.dead && !x.2.escape then [x.2.deadAt + 6400] else []) ++
    s.dies.flatMap (fun (x : Nat × Die) => x.2.resetting.map fun (y : Nat × Nat) => y.2 + containTicks) ++
    s.latent.map (fun (x : Nat × Nat) => x.2 + s.scrubEvery) ++ s.schedDeadlines ++
    s.clusters.flatMap (fun (x : Nat × Cluster) => x.2.locks.map fun (y : Nat × Lock) => y.2.granted + 64) ++
    s.cores.filterMap (fun (x : Nat × Core) => x.2.switch.map fun (w : Switch) => w.at_) ++
    [next stepTicks] ++
    ((List.range 16).filter fun n => (s.rsv n).p != 0).map (fun n => (s.rsv n).period + (s.rsv n).p.toNat)).filter
      fun t => decide (s.now < t)

/-! ## Time -/

/-- Results of fixed latency that are due are written, in every context (R80, R81); the loads among them have made both their accesses
(R114). -/
def State.deliver (s : State) : State :=
  let s := s.makeHalves fun _ _ t => t.halfDue s.now
  let go (x : Ctx) : Ctx := x.mapThreads fun t => t.deliver s.now
  { s with
    cores := s.cores.mapVal fun _ k => { k with run := go k.run, shadow := go k.shadow }
    saved := s.saved.map fun a => { a with ctx := go a.ctx } }

/-- What is charged for `n` ticks (R75, R299, R302): core-cycles of admitted launches, and a reservation's time while its work runs. -/
def State.charge (s : State) (n : Nat) : State :=
  let runs (l : Launch) : Bool := l.admitted && !l.demoted && l.state == .running
  let charged (l : Launch) : Launch :=
    if runs l && decide (0 < s.coresOn l.id) then { l with cycles := l.cycles + n * s.coresOn l.id, served := l.served + n } else l
  let s : State := { s with launches := s.launches.mapVal fun _ l => charged l }
  (List.range 16).foldl (fun s r =>
    if s.launchList.any fun l => runs l && qRsv (s.descOf l) == r && decide (0 < s.coresOn l.id) then
      s.setRsv r { s.rsv r with used := (s.rsv r).used + n }
    else s) s

/-- Whether an issue is the next thing on the agenda: a unit's retry, or an instruction placed from outside. -/
def State.issueFirst (s : State) : Bool :=
  match s.agenda with
  | .issue _ _ :: _ => true
  | _ => false

/-- Whether time may pass: nothing is due, no unit retries next, and every core with a thread ready to issue has issued in this cycle
(R62). -/
noncomputable def State.mayPass (s : State) : Bool :=
  !s.issueFirst && s.due.isEmpty && s.cores.all fun (c, _) => (s.readyThread c).isNone

/-- What happens at the end of a cycle, when everything that can issue in it has: free lock bits go to the first in line (R118). -/
noncomputable def State.cycleEnd (s : State) : List Instr :=
  s.clusters.flatMap fun (k, x) => x.lockGrants.map fun key => .lockGrant k (key / 16) (key % 16)

/-- Some of the second word accesses that are still to be made are made as time passes (R114). -/
def State.halvesMove (s : State) : State :=
  s.makeHalves fun c n _ => (s.freeWord (2 ^ 45 + 11 * c + n.val)).getLsbD 0

/-- Engines read and write some of what their commands have left, 8-byte accesses go on, and lines leave views, as time passes (R13, R114,
R151, R159, R184, R256, R275, R325, R350). -/
def State.enginesMove (s : State) : State := s.halvesMove.vecMoves.sumsMove.copiesMove.ranksMove.aesMove.collsMove.viewsMove

/-- Time passes: a free number of ticks, at least `least`, and no further than the next tick at which something is due (log 4). -/
def State.pass (s : State) (least : Nat) : State :=
  let t := s.deadlines.foldl min (s.now + least + Config.elapsed s.fresh)
  { (s.charge (t - s.now)).enginesMove.retire.unbindIdle.heldGoOn.noteTails with now := t, fresh := s.fresh + 1, waiting := false, freed := false }

/-- The cycle ends: what happens then comes first, and then time passes. -/
noncomputable def State.endCycle (s : State) (least : Nat) : State :=
  match s.cycleEnd with
  | [] => s.pass least
  | i :: _ => { s with agenda := .event i :: s.agenda, fresh := s.fresh + 1, waiting := false }

/-- After an action time may pass. -/
noncomputable def State.elapse (s : State) : State :=
  if s.mayPass then s.endCycle 0 else { s with fresh := s.fresh + 1, waiting := false }

/-- After an action of the machine, tails that a home has applied are noted (R298), and time may pass. -/
noncomputable def State.settle (s : State) : State := s.noteTails.elapse

/-! ## What may happen next -/

/-- An event if a condition holds. -/
def when (b : Bool) (i : Instr) : List Action := if b then [.event i] else []

/-- A core's threads that issue or whose units retry. -/
noncomputable def State.issueChoices (s : State) (c : Nat) : List Action :=
  (match s.readyThread c with | some t => [.issue c t] | none => []) ++
    ((List.range 11).filter fun t => s.isStalled c t && s.proceeds c t).map fun t => .issue c t

/-- Fills of a core's instruction buffers. -/
noncomputable def State.prefetchChoices (s : State) (c : Nat) : List Action :=
  (List.range 11).flatMap fun t =>
    let h := s.threadOn c t
    if !h.live || h.stall.isSome then []
    else
      (if (h.ibSeq.from_ h.pc.toNat).length < 16 then [.prefetch c t none] else []) ++
        (h.ibSeq.words.zipIdx.filterMap fun (w, n) => branchTarget (h.ibSeq.start + BitVec.ofNat 64 (4 * n)) w).map
          fun a => .prefetch c t (some a)

/-- Events of a core. -/
noncomputable def State.coreChoices (s : State) (c : Nat) (k : Core) : List Action :=
  let x := k.run
  let stall0 := (x.thread 0).stall
  when (k.log.any fun r => r.homed.isNone) (.recordDrift c) ++
    when (match stall0 with | some ⟨_, _, .halt⟩ => s.mayEnd c | _ => false) (.contextEnd c) ++
    when (match stall0 with | some ⟨_, _, .gang _⟩ => true | _ => false) (.gangFormed c) ++
    when (match x.gang with | some g => !g.lane.isEmpty | none => false) (.forwardArrival c) ++
    [Level.gang, .blk, .spr].flatMap (fun lv =>
      when ((x.bar lv).owed == some (x.bar lv).inst) (.barrierRelease x.launch lv
        (match lv, x.gang with
          | .gang, some g => (rectOf g.word).corner
          | .blk, _ => dieOf c
          | .gang, none | .spr, _ => c))) ++
    when (k.port.owner.isNone && !k.port.line.isEmpty) (.streamPortGrant c) ++
    when (!k.port.flying.isEmpty) (.streamEntryArrival c) ++
    when (k.vq.any fun e => e.launch == x.launch || e.op.outside) (.xvComplete c) ++
    (match k.switch with
      | some ⟨_, some n, _⟩ =>
        if s.saved.any fun a => a.core == c && a.ctx.of n then
          [.event (.contextStream c (if k.shadow.resident then k.shadow.launch else n))]
        else []
      | _ => []) ++
    (List.range 11).flatMap fun t => match (s.threadOn c t).stall with
      | some ⟨_, _, .mcast _⟩ => [.event (.multicastGrant c t)]
      | _ => []

/-- Events of packets between cores. -/
noncomputable def State.packetChoices (s : State) : List Action :=
  s.packets.flatMap fun p => match p.nacked, p.state with
    | some b, _ => [.event (.nackResend b)]
    | none, .flying => [.event (if p.msg then .messageArrival p.target else .remoteWriteArrival p.target)]
    | none, .refused => [.event (if p.msg then .msgRetry p.core p.thr else .rsetRetry p.core p.thr)]
    | none, .held _ => []
    | none, .accepted | none, .error => [.event (if p.msg then .msgRetry p.core p.thr else .rsetAcceptance p.core p.thr)]

/-- Events of a cluster's units. -/
noncomputable def State.clusterChoices (s : State) (k : Nat) (x : Cluster) : List Action :=
  let mixed := (List.range 8).any fun p => (s.mxHead (baseCore k + p / 4 * 16 + p % 4)).isSome
  when mixed (.matrixGrant k) ++ when (!x.mxGranted.isEmpty) (.matrixComplete k) ++
    when ((coresOfCluster k).any fun c => !(s.core c).rq.isEmpty) (.rankGrant k) ++
    when (!x.rkRunning.isEmpty) (.rankComplete k) ++
    (List.range 9).flatMap (fun ch => match x.headOf ch with
      | some t => [.event (if t.state = .queued then .transferStart k ch else .transferComplete k ch)]
      | none => []) ++
    (List.range 8).flatMap (fun ch => when (x.channel ch).chain.isSome (.chainRecordFetch k ch)) ++
    when (x.misses.any fun m => m.walking || m.state == .queued) (.tscWalk k) ++
    when (x.misses.any Miss.returning) (.tlbFill k) ++
    when (x.misses.any fun m => match m.state with | .denied t => decide (t + 64 ≤ s.now) | _ => false) (.denyRewalk k) ++
    when (x.misses.any Miss.isAbsent) (.absentRewalk k)

/-- Events of a die's assignment engine and of its containment (R334). -/
noncomputable def State.dieChoices (s : State) (d : Nat) (x : Die) : List Action :=
  x.ae.queue.zipIdx.map (fun (q, n) => .event (if q.started then .aeCommandComplete d n else .aeCommandStart d n)) ++
    (x.ae.running.map fun (n, y) => .event (if y.over s.now then .aeRunEnd d n else .aeRound d n)) ++
    x.resetting.map fun (n, _) => .event (.containmentEnd d n)

/-- Events of shared memory, collectives, invalidation and boundaries. -/
noncomputable def State.memoryChoices (s : State) : List Action :=
  (List.range s.loads.length).map (fun n => .event (.sharedLoadReturn n)) ++
    (List.range s.locals.length).map (fun n => .event (.localLoadReturn n)) ++
    when (s.pubs.any fun p => p.applied && p.lagG != 0) (.publicationApply ((s.freeWord 0).setWidth 4)) ++
    (List.range 8).flatMap (fun d => when (s.pubs.any fun p => p.lagD.getLsbD d) (.replicaApply d)) ++
    when (s.pubs.any fun p => p.applied && p.lagG == 0 && p.lagD == 0) .segmentReclaim ++
    (s.instances.filter fun i => i.status.isNone).map (fun i => .event (.collInstanceComplete i.grp i.inst)) ++
    when (s.chunks.any fun c => c.place == .pool) .spillRefetch ++
    (if s.invDone then [] else s.invAcks.map (fun k => .event (.tscAcknowledge k)) ++ when s.invAcks.isEmpty .invalDone) ++
    s.boundaries.flatMap fun (b, x) =>
      when x.retrain.isSome (.retrainEnd b) ++ when (x.dead && !x.escape) (.escapeRouteInstall b)

/-- Events of the scheduler and of management. -/
noncomputable def State.schedChoices (s : State) : List Action :=
  let slot := (List.range 256).find? s.slotFree
  s.qdesc.flatMap (fun (q, _) => [.event (.schedulerConsume q)] ++
    match slot with
    | some n => when ((s.queue q).slot.isNone && s.queueWaits q) (.queueBind q n)
    | none => []) ++
    when (s.mreq != 0) (.schedulerConsume mreqNumber) ++
    when (s.launchList.any fun l => l.dl && !l.admitted && l.state == .queued) .admissionDecision ++
    s.launchList.flatMap (fun l =>
      (if l.state == .granted || (l.state == .preempted && !l.bestEffort) then
        ((if l.admitted || !l.loaded.isEmpty then [l] else l.places).filter (s.fits l)).map fun m =>
          .event (.dispatch l.id m.dies m.cr m.cc)
      else []) ++
      when (l.state == .loading && (decide (5 ≤ l.status) || l.cores.all l.loaded.contains)) (.imageLoadComplete l.id) ++
      when (l.state == .ended) (.completionRecord l.id) ++
      when l.doomed (.containmentLaunchFault l.id)) ++
    if s.requests.isEmpty then [] else
      [.event .inval, .event .resv, .event .cmap, .event .grpalloc, .event .grpfree, .event .spill, .event .bnd,
        .event .snapRequest, .event .attest, .event .status, .event .ras, .event .requestBadarg]

/-- Everything that may happen next by itself. What comes from outside stands in the agenda. -/
noncomputable def State.choices (s : State) : List Action :=
  s.cores.flatMap (fun (c, k) =>
    if k.run.resident && !k.run.ended then s.issueChoices c ++ s.prefetchChoices c ++ s.coreChoices c k else s.coreChoices c k) ++
    s.packetChoices ++ s.clusters.flatMap (fun (k, x) => s.clusterChoices k x) ++ s.dies.flatMap (fun (d, x) => s.dieChoices d x) ++
    s.memoryChoices ++ s.schedChoices

/-- One of a list of actions, by a free choice where there are several (log 5). -/
def pick (n : Nat) : List Action → Option Action
  | [] => none
  | [a] => some a
  | l => l[n % l.length]?

/-! ## A step -/

/-- An event runs; a snapshot that latches finds the ready masks of that tick (R339). -/
noncomputable def State.runEvent (s : State) (i : Instr) : Out :=
  exec i (match i with
    | .snapshotLatch => { s with readyNow := s.cores.map fun (c, _) => (c, s.readyMask c) }
    | _ => s)

/-- An action runs. -/
noncomputable def State.act (s : State) : Action → Out
  | .issue c t => s.issueOn c t
  | .event i => s.runEvent i
  | .prefetch c t a => .next (s.prefetch c t a)
  | .deviceGone d => .next (s.deviceGone d)
  | .endpointGone n => .next (s.endpointGone n)
  | .peerLost g n => .next (s.peerLost g n)
  | .memFault pa tag => .next (s.memFault pa tag)
  | .consume c line => .next (s.consumeLine c line)
  | .scrubEvery n => .next { s with scrubEvery := n }
  | .region ctxid va len => .next { s with regions := s.regions ++ [⟨ctxid, va, len⟩] }
  | .outsideRead host ctxid va n => .next (s.afterOutsideRead host ctxid va n)
  | .unreliable => .next { s with unreliable := s.unreliable + 1 }
  | .zhevDead p => .next (s.zhevPortDead p)
  | .bootSel b => .next { s with bootSel := b }

/-- An outcome with the state after it changed. -/
def mapNext (f : State → State) : Out → Out
  | .next s => .next (f s)
  | .fault e => .fault e
  | .refused r => .refused r

/-- What happens at this tick when nothing is due: the head of the agenda, or something of what may happen; where nothing can, time
passes. -/
noncomputable def State.proceed (s : State) : Out :=
  match s.agenda with
  | a :: rest => mapNext State.settle (({ s with agenda := rest } : State).act a)
  | [] => match pick (s.freeNat 0) s.choices with
    | some a => mapNext State.settle (s.act a)
    | none => .next (s.endCycle 1)

/-- What is due at this tick: it happens without time passing. The free values that it drew are not drawn again. -/
noncomputable def State.runDue (s : State) : Out :=
  match s.due with
  | i :: _ =>
    mapNext (fun t => { t.noteTails with fresh := t.fresh + 1 }) (s.act i)
  | [] => s.proceed

/-- One step of the machine. An issue at the head of the agenda (a unit's retry, or an instruction placed from outside) comes first,
then what is due, then the rest of the agenda, then what may happen by itself. -/
noncomputable def State.advance (s : State) : Out :=
  if s.off then .fault .poweredOff
  else
    let s := s.deliver
    if s.issueFirst then s.proceed else s.runDue

/-! ## An instruction placed from outside -/

/-- A context as R63 starts it, for a core without one: a program that is loaded from outside the machine (log 3). -/
def Ctx.placed : Ctx :=
  { Ctx.reset with resident := true, bufFree := 0xF, threads := Ctx.reset.threads.set 0 { Thread.reset with live := true } }

/-- A context whose thread `n` will issue at its PC: live, not stalled, not paused, with an empty buffer, not attached to a leader, with
no mismatch or notice pending, and with room for an instruction in its region. -/
def Ctx.opened (x : Ctx) (n : Fin 11) : Ctx :=
  let t := x.thread n
  let x := if x.region < 20 then { x with size := 1, base := 0 } else x
  let t := { t with live := true, stall := none, ibSeq := ⟨0, []⟩, ibTgt := ⟨0, []⟩, sig := none, sigBad := none, readyAt := 0,
                    pc := if t.pc.toNat + 20 ≤ x.region then t.pc else 0 }
  { x.setThread n t with
    notice := 0
    tthr := if x.inh then BitVec.ofNat 4 n.val else x.tthr
    gang := x.gang.map fun g => { g with attached := false } }

/-- The state in which the next step issues the instruction in the given words: it is written to ULM where the thread in focus fetches
next, and that thread is put first on the agenda. -/
def State.placeWords (s : State) (ws : List W32) : State :=
  let k := s.core s.focus
  let s : State := if k.run.resident && !k.run.ended then s else { s.setCore s.focus { k with run := Ctx.placed } with thr := 0 }
  let x := s.ctx.opened s.thr
  let k := s.cur
  let s := s.setCore s.focus { k with
    run := x
    switch := none
    last := none
    ulm := k.ulm.writeBytes (x.origin + (x.thread s.thr).pc.toNat) (wordBytes ws) }
  { s with off := false, agenda := [.issue s.focus s.thr.val] }

end Sys2Proof.Machine
end

