-- ==== Sys2Proof/Machine/Step.lean ====
section
/-!
DEFINITION. The step of the machine, and the placing of an instruction where the next step fetches it.
-/

namespace Sys2Proof.Machine

open Sys2Proof

/-- One step: an instruction, an event, or the passing of time (`State.advance`). -/
noncomputable def step : State → Host.Outcome State Fault Refusal := State.advance

/-- `s` with the instruction whose bits an opcode-table row numbers as `w` stored where the thread in focus fetches next, so that the
next step runs it (log 3). -/
def State.withFetchWord (s : State) (nbits w : Nat) : State := s.placeWords (tableWords nbits w)

end Sys2Proof.Machine
end

