-- ==== Sys2Proof/Safety.lean ====
section
/-!
DEFINITION. What a safe run is: every step answers a next state, and every byte memory keeps its canonical form.
The only stop of the machine is a module that has powered off (R340).
-/

namespace Sys2Proof.Machine

open Sys2Proof

/-- The step answers a next state. -/
def State.goesOn (s : State) : Prop := ∃ t, step s = .next t

/-- `t` is reached from `s` by steps that answer next states. -/
inductive Reaches : State → State → Prop where
  | refl (s : State) : Reaches s s
  | step {s t u : State} : Reaches s t → Machine.step t = .next u → Reaches s u

/-- A property that every step keeps, from every state that has it. -/
def Kept (P : State → Prop) : Prop := ∀ s t, P s → step s = .next t → P t

/-- The memory of a core is in canonical form. -/
def Core.memOk (k : Core) : Bool := Mem.wf k.ulm

/-- The memories of a cluster are in canonical form. -/
def Cluster.memOk (x : Cluster) : Bool := Mem.wf x.scratch && Mem.wf x.tiles && Mem.wf x.tables

/-- The memories of a die are in canonical form. -/
def Die.memOk (x : Die) : Bool := Mem.wf x.ae.scores

/-- Every byte memory of the machine is in canonical form. -/
def State.memOk (s : State) : Bool :=
  Mem.wf s.home && Mem.wf s.walkStore && s.cores.all (fun x => x.2.memOk) && s.clusters.all (fun x => x.2.memOk) &&
    s.dies.all (fun x => x.2.memOk)

/-! ## What claims about one instruction say -/

/-- The instruction completes: its scalar result is present at once, and the thread stands past its `len` bytes. -/
def GivesNow (i : Instr) (s : State) (len : Nat) (rd : SReg) (v : W64) : Prop :=
  exec i s = .next (s.setTh ((s.th.setReg rd v).past len))

/-- The instruction completes: its scalar result is on its way and present `lat` cycles later (R80). -/
def GivesAt (i : Instr) (s : State) (len : Nat) (rd : SReg) (v : W64) (lat : Nat) : Prop :=
  exec i s = .next (s.setTh ((s.th.later rd v (s.now + lat)).past len))

/-- A byte of the machine's memories: ULM, scratchpad, tile, table, score memory, home memory. -/
inductive Place where
  | ulm (core a : Nat)
  | scratch (cluster a : Nat)
  | tiles (cluster a : Nat)
  | tables (cluster a : Nat)
  | scores (die a : Nat)
  | home (a : Nat)
  deriving DecidableEq, Repr

/-- The byte at a place. -/
def State.byteAt (s : State) : Place → Byte
  | .ulm c a => (s.core c).ulm.read a
  | .scratch k a => (s.cluster k).scratch.read a
  | .tiles k a => (s.cluster k).tiles.read a
  | .tables k a => (s.cluster k).tables.read a
  | .scores d a => (s.die d).ae.scores.read a
  | .home a => s.home.read a

/-- Every byte of every memory reads as before. -/
def SameMemory (s t : State) : Prop := ∀ p, t.byteAt p = s.byteAt p

/-- Every byte of memory outside the `n` bytes that `place` numbers reads as before. -/
def SameBut (place : Nat → Option Place) (n : Nat) (s t : State) : Prop :=
  ∀ p, (∀ j < n, place j ≠ some p) → t.byteAt p = s.byteAt p

/-- The place of byte `j` of an access to a local window at `ea` (R109); a register window has none. -/
def placeOf (s : State) (ea : W64) (j : Nat) : Option Place :=
  match opmType ea with
  | 0 => some (.ulm (opmCore ea) (ulmOff s ea + j))
  | 4 => some (.scratch (clusterOf (opmCore ea)) (opmOff ea + j))
  | 5 => some (.tiles (clusterOf (opmCore ea)) (opmOff ea + j))
  | 6 => some (.tables (clusterOf (opmCore ea)) (opmOff ea + j))
  | 7 => some (.scores (dieOf (opmCore ea)) (opmOff ea + j))
  | _ => none

/-- The second word access that an 8-byte load of ULM or a scratchpad has still to make (R114); a load into s0 and one that no route brings
back make none. -/
def halfLeft (s : State) (rd : SReg) (ea : W64) (n : Nat) : Option HalfAccess :=
  if rd = 0 ∨ s.cutOff (dieOf s.focus) (opmDie ea) then s.th.half else s.halfOf ea n none

/-- A load's value is on its way to `rd` and the thread stands past its `len` bytes, with `half` as the word access still to be made: present
after 4 cycles from the own ULM, and otherwise when LOCAL_LOAD_RETURN brings it; from a die that no route reaches the poison value comes, and
`xstat.ACCERR` is set (R111, R313). -/
def Loaded (s t : State) (len : Nat) (rd : SReg) (ea : W64) (half : Option HalfAccess) (v : W64) : Prop :=
  let entry (v : W64) : LocalLoad := ⟨s.seq, opmCore ea, s.focus, s.ctx.launch, s.thr.val, s.th.inc, rd, v, s.now⟩
  let h : Thread := { s.th with half := half }
  if ownUlm s.focus ea then t.th = (h.later rd v (s.now + 4) true).past len ∧ t.locals = s.locals
  else
    t.th = (h.expect rd).past len ∧ (rd = 0 → t.locals = s.locals) ∧
      if s.cutOff (dieOf s.focus) (opmDie ea) then
        t.ctx.accerr = true ∧ (rd ≠ 0 → t.locals = s.locals ++ [entry poison64])
      else t.ctx.accerr = s.ctx.accerr ∧ (rd ≠ 0 → t.locals = s.locals ++ [entry v])

/-- A core with the memory and the full/empty bits of another. -/
def Core.bytesOf (k x : Core) : Core := { k with ulm := x.ulm, fe := x.fe, feLine := x.feLine }

/-- A cluster with the memories and the lock bits of another. -/
def Cluster.bytesOf (k x : Cluster) : Cluster :=
  { k with
    scratch := x.scratch
    tiles := x.tiles
    tables := x.tables
    locks := x.locks
    lockLine := x.lockLine }

/-- Outside byte memories, full/empty bits and lock bits nothing but the issuing thread differs: `t` is `s` with that thread as `h`. -/
structure StoreOnly (s t : State) (h : Thread) : Prop where
  device : { t with cores := s.cores, clusters := s.clusters } = s
  cores : ∀ c, (t.core c).bytesOf (s.core c) = (s.setTh h).core c
  clusters : ∀ k, (t.cluster k).bytesOf (s.cluster k) = s.cluster k

/-- Nothing but the issuing thread differs: no other thread, context, core, cluster or die, and nothing of the device. -/
structure OnlyThread (s t : State) : Prop where
  device : { t with cores := s.cores, waiting := s.waiting } = s
  cores : ∀ c, c ≠ s.focus → t.core c = s.core c
  core : { t.cur with run := s.ctx } = s.cur
  ctx : { t.ctx with threads := s.ctx.threads } = s.ctx
  threads : ∀ n, n ≠ s.thr → t.ctx.thread n = s.ctx.thread n

/-- Of the issuing thread, only the registers listed, the results and the second word access on their way, the PC, the stall and the tick from
which it issues again may differ. -/
structure OnlyRegs (l : List SReg) (s t : State) : Prop where
  regs : ∀ r, r ∉ l → t.reg r = s.reg r ∧ t.th.has r = s.th.has r
  thread : { t.th with regs := s.th.regs, present := s.th.present, pending := s.th.pending, results := s.th.results,
                       pc := s.th.pc, stall := s.th.stall, readyAt := s.th.readyAt, half := s.th.half } = s.th

/-- A run is safe as far as `s` has come when it has come there from reset. -/
def State.safe (s : State) : Prop := Reaches State.reset s

end Sys2Proof.Machine
end

