-- ==== Sys2Proof/Certificates/Slice0/Obligations.lean ====
section
/-!
DEFINITION. The statements about the machine, for the provers.
-/

open Sys2Proof Sys2Proof.Machine


/-! ## Scalar instructions (R80–R87) -/

/-- R82: every ALU instruction, with a register and with a literal: its result is present at the next cycle.
R83: every immediate arithmetic instruction, with IMM14 and with a literal. -/
def Obligations.AluResults : Prop :=
  ((∀ (s : State) (rd ra rb : SReg), s.has [ra, rb, rd] = true →
     let a := s.reg ra
     let b := s.reg rb
     let n := (b.extractLsb' 0 6).toNat
     GivesNow (.add rd ra rb) s 4 rd (a + b) ∧ GivesNow (.sub rd ra rb) s 4 rd (a - b) ∧
     GivesNow (.and rd ra rb) s 4 rd (a &&& b) ∧ GivesNow (.or rd ra rb) s 4 rd (a ||| b) ∧
     GivesNow (.xor rd ra rb) s 4 rd (a ^^^ b) ∧ GivesNow (.andn rd ra rb) s 4 rd (a &&& ~~~b) ∧
     GivesNow (.shl rd ra rb) s 4 rd (a <<< n) ∧ GivesNow (.shr rd ra rb) s 4 rd (a >>> n) ∧
     GivesNow (.sra rd ra rb) s 4 rd (a.sshiftRight n) ∧
     GivesNow (.slt rd ra rb) s 4 rd (if a.toInt < b.toInt then 1 else 0) ∧
     GivesNow (.sltu rd ra rb) s 4 rd (if a.toNat < b.toNat then 1 else 0) ∧
     GivesNow (.min rd ra rb) s 4 rd (if a.toInt ≤ b.toInt then a else b) ∧
     GivesNow (.max rd ra rb) s 4 rd (if a.toInt ≤ b.toInt then b else a) ∧
     GivesNow (.minu rd ra rb) s 4 rd (if a.toNat ≤ b.toNat then a else b) ∧
     GivesNow (.maxu rd ra rb) s 4 rd (if a.toNat ≤ b.toNat then b else a) ∧
     GivesNow (.addw rd ra rb) s 4 rd (((a + b).extractLsb' 0 32).signExtend 64) ∧
     GivesNow (.subw rd ra rb) s 4 rd (((a - b).extractLsb' 0 32).signExtend 64) ∧
     GivesNow (.addx1 rd ra rb) s 4 rd (a + 2 * b) ∧ GivesNow (.addx2 rd ra rb) s 4 rd (a + 4 * b) ∧
     GivesNow (.addx3 rd ra rb) s 4 rd (a + 8 * b)) ∧
   (∀ (s : State) (rd ra : SReg) (b : W64), s.has [ra, rd] = true →
     let a := s.reg ra
     let n := (b.extractLsb' 0 6).toNat
     GivesNow (.addLit rd ra b) s 12 rd (a + b) ∧ GivesNow (.subLit rd ra b) s 12 rd (a - b) ∧
     GivesNow (.andLit rd ra b) s 12 rd (a &&& b) ∧ GivesNow (.orLit rd ra b) s 12 rd (a ||| b) ∧
     GivesNow (.xorLit rd ra b) s 12 rd (a ^^^ b) ∧ GivesNow (.andnLit rd ra b) s 12 rd (a &&& ~~~b) ∧
     GivesNow (.shlLit rd ra b) s 12 rd (a <<< n) ∧ GivesNow (.shrLit rd ra b) s 12 rd (a >>> n) ∧
     GivesNow (.sraLit rd ra b) s 12 rd (a.sshiftRight n) ∧
     GivesNow (.sltLit rd ra b) s 12 rd (if a.toInt < b.toInt then 1 else 0) ∧
     GivesNow (.sltuLit rd ra b) s 12 rd (if a.toNat < b.toNat then 1 else 0) ∧
     GivesNow (.minLit rd ra b) s 12 rd (if a.toInt ≤ b.toInt then a else b) ∧
     GivesNow (.maxLit rd ra b) s 12 rd (if a.toInt ≤ b.toInt then b else a) ∧
     GivesNow (.minuLit rd ra b) s 12 rd (if a.toNat ≤ b.toNat then a else b) ∧
     GivesNow (.maxuLit rd ra b) s 12 rd (if a.toNat ≤ b.toNat then b else a) ∧
     GivesNow (.addwLit rd ra b) s 12 rd (((a + b).extractLsb' 0 32).signExtend 64) ∧
     GivesNow (.subwLit rd ra b) s 12 rd (((a - b).extractLsb' 0 32).signExtend 64) ∧
     GivesNow (.addx1Lit rd ra b) s 12 rd (a + 2 * b) ∧ GivesNow (.addx2Lit rd ra b) s 12 rd (a + 4 * b) ∧
     GivesNow (.addx3Lit rd ra b) s 12 rd (a + 8 * b))) ∧
  ((∀ (s : State) (rd ra : SReg) (imm : BitVec 14), s.has [ra, rd] = true →
     let a := s.reg ra
     let e := imm.signExtend 64
     GivesNow (.addi rd ra imm) s 4 rd (a + e) ∧ GivesNow (.andi rd ra imm) s 4 rd (a &&& e) ∧
     GivesNow (.ori rd ra imm) s 4 rd (a ||| e) ∧ GivesNow (.xori rd ra imm) s 4 rd (a ^^^ e) ∧
     GivesNow (.slti rd ra imm) s 4 rd (if a.toInt < e.toInt then 1 else 0) ∧
     GivesNow (.sltiu rd ra imm) s 4 rd (if a.toNat < e.toNat then 1 else 0)) ∧
   (∀ (s : State) (rd ra : SReg) (e : W64), s.has [ra, rd] = true →
     let a := s.reg ra
     GivesNow (.addiLit rd ra e) s 12 rd (a + e) ∧ GivesNow (.andiLit rd ra e) s 12 rd (a &&& e) ∧
     GivesNow (.oriLit rd ra e) s 12 rd (a ||| e) ∧ GivesNow (.xoriLit rd ra e) s 12 rd (a ^^^ e) ∧
     GivesNow (.sltiLit rd ra e) s 12 rd (if a.toInt < e.toInt then 1 else 0) ∧
     GivesNow (.sltiuLit rd ra e) s 12 rd (if a.toNat < e.toNat then 1 else 0)) ∧
   (∀ (s : State) (rd ra : SReg) (sh : BitVec 6), s.has [ra, rd] = true →
     let a := s.reg ra
     GivesNow (.shli rd ra sh) s 4 rd (a <<< sh.toNat) ∧ GivesNow (.shri rd ra sh) s 4 rd (a >>> sh.toNat) ∧
     GivesNow (.srai rd ra sh) s 4 rd (a.sshiftRight sh.toNat)))


/-- R84, R80: a product is present after 3 cycles, a quotient or remainder after 20; a zero divisor gives the values the rule names and
sets `xstat.DIVZ`, which no other divisor changes.
R85: the bit operations, each said bit by bit or by the count of bits. -/
def Obligations.MulDivAndBitopResults : Prop :=
  (let lo (a b : W64) : W64 := BitVec.ofInt 64 (a.toInt * b.toInt)
   let hi (a b : W64) : W64 := BitVec.ofInt 64 (a.toInt * b.toInt / 2 ^ 64)
   let hiU (a b : W64) : W64 := BitVec.ofNat 64 (a.toNat * b.toNat / 2 ^ 64)
   let loW (a b : W64) : W64 := (BitVec.ofInt 32 (a.toInt * b.toInt)).signExtend 64
   let quo (a b : W64) : W64 := if b = 0 then -1 else BitVec.ofInt 64 (a.toInt.tdiv b.toInt)
   let quoU (a b : W64) : W64 := if b = 0 then -1 else BitVec.ofNat 64 (a.toNat / b.toNat)
   let rem (a b : W64) : W64 := if b = 0 then a else BitVec.ofInt 64 (a.toInt.tmod b.toInt)
   let remU (a b : W64) : W64 := if b = 0 then a else BitVec.ofNat 64 (a.toNat % b.toNat)
   let done (i : Instr) (s : State) (len : Nat) (rd : SReg) (b v : W64) : Prop :=
     let u : State := if b = 0 then s.setCtx { s.ctx with divz := true } else s
     exec i s = .next (u.setTh ((s.th.later rd v (s.now + 20)).past len))
   (∀ (s : State) (rd ra rb : SReg), s.has [ra, rb, rd] = true →
     let a := s.reg ra
     let b := s.reg rb
     GivesAt (.mul rd ra rb) s 4 rd (lo a b) 3 ∧ GivesAt (.mulh rd ra rb) s 4 rd (hi a b) 3 ∧
     GivesAt (.mulhu rd ra rb) s 4 rd (hiU a b) 3 ∧ GivesAt (.mulw rd ra rb) s 4 rd (loW a b) 3 ∧
     done (.div rd ra rb) s 4 rd b (quo a b) ∧ done (.divu rd ra rb) s 4 rd b (quoU a b) ∧
     done (.rem rd ra rb) s 4 rd b (rem a b) ∧ done (.remu rd ra rb) s 4 rd b (remU a b)) ∧
   (∀ (s : State) (rd ra : SReg) (b : W64), s.has [ra, rd] = true →
     let a := s.reg ra
     GivesAt (.mulLit rd ra b) s 12 rd (lo a b) 3 ∧ GivesAt (.mulhLit rd ra b) s 12 rd (hi a b) 3 ∧
     GivesAt (.mulhuLit rd ra b) s 12 rd (hiU a b) 3 ∧ GivesAt (.mulwLit rd ra b) s 12 rd (loW a b) 3 ∧
     done (.divLit rd ra b) s 12 rd b (quo a b) ∧ done (.divuLit rd ra b) s 12 rd b (quoU a b) ∧
     done (.remLit rd ra b) s 12 rd b (rem a b) ∧ done (.remuLit rd ra b) s 12 rd b (remU a b))) ∧
  (let field (n : Nat) : W64 := BitVec.ofNat 64 (2 ^ n - 1)
   let pos (b : W64) : Nat := b.toNat % 64
   let len (b : W64) : Nat := min (b.toNat / 256 % 128) 64
   let ext (a b : W64) : W64 := (a >>> pos b) &&& field (len b)
   let ins (d a b : W64) : W64 :=
     (d &&& ~~~(field (len b) <<< pos b)) ||| ((a <<< pos b) &&& (field (len b) <<< pos b))
   (∀ (s : State) (rd ra : SReg), s.has [ra, rd] = true →
     let a := s.reg ra
     (∃ v, GivesNow (.clz rd ra) s 4 rd v ∧ v.toNat ≤ 64 ∧ (∀ j < v.toNat, a.getLsbD (63 - j) = false) ∧
       (v.toNat < 64 → a.getLsbD (63 - v.toNat) = true)) ∧
     (∃ v, GivesNow (.ctz rd ra) s 4 rd v ∧ v.toNat ≤ 64 ∧ (∀ j < v.toNat, a.getLsbD j = false) ∧
       (v.toNat < 64 → a.getLsbD v.toNat = true)) ∧
     (∃ v, GivesNow (.popc rd ra) s 4 rd v ∧ v.toNat = ((List.range 64).filter fun j => a.getLsbD j).length) ∧
     (∃ v, GivesNow (.brev rd ra) s 4 rd v ∧ ∀ j < 64, v.getLsbD j = a.getLsbD (63 - j)) ∧
     (∃ v, GivesNow (.bswap rd ra) s 4 rd v ∧
       ∀ j < 8, v.extractLsb' (8 * j) 8 = a.extractLsb' (8 * (7 - j)) 8)) ∧
   (∀ (s : State) (rd ra rb : SReg), s.has [ra, rb, rd] = true →
     GivesNow (.bext rd ra rb) s 4 rd (ext (s.reg ra) (s.reg rb)) ∧
     GivesNow (.bins rd ra rb) s 4 rd (ins (s.reg rd) (s.reg ra) (s.reg rb))) ∧
   (∀ (s : State) (rd ra : SReg) (b : W64), s.has [ra, rd] = true →
     GivesNow (.bextLit rd ra b) s 12 rd (ext (s.reg ra) b) ∧
     GivesNow (.binsLit rd ra b) s 12 rd (ins (s.reg rd) (s.reg ra) b)))


/-- R86, R87: where every branch and jump goes, and the link that JAL and JALR write; nothing else of the thread changes but its
stall and the tick from which it issues again, two cycles later (R80). -/
def Obligations.BranchesAndJumps : Prop :=
  let goes (i : Instr) (s : State) (pc : W64) : Prop := 
    exec i s = .next (s.setTh { s.th with pc := pc, stall := none, readyAt := s.now + 2 })
  let links (i : Instr) (s : State) (link pc : W64) : Prop :=
    exec i s = .next (s.setTh { s.th.setReg 1 link with pc := pc, stall := none, readyAt := s.now + 2 })
  (∀ (s : State) (ra rs : SReg) (imm : BitVec 14), s.has [ra, rs] = true →
    let a := s.reg ra
    let b := s.reg rs
    let pc := s.th.pc
    let dest := pc + 4 * imm.signExtend 64
    goes (.beq ra rs imm) s (if a = b then dest else pc + 4) ∧ goes (.bne ra rs imm) s (if a = b then pc + 4 else dest) ∧
    goes (.blt ra rs imm) s (if a.toInt < b.toInt then dest else pc + 4) ∧
    goes (.bge ra rs imm) s (if a.toInt < b.toInt then pc + 4 else dest) ∧
    goes (.bltu ra rs imm) s (if a.toNat < b.toNat then dest else pc + 4) ∧
    goes (.bgeu ra rs imm) s (if a.toNat < b.toNat then pc + 4 else dest)) ∧
  (∀ (s : State) (off : BitVec 24),
    goes (.j off) s (s.th.pc + 4 * off.signExtend 64) ∧
    (s.has [1] = true → links (.jal off) s (s.th.pc + 4) (s.th.pc + 4 * off.signExtend 64))) ∧
  (∀ (s : State) (ra : SReg) (imm : BitVec 14) (lit : W64), s.has [ra, 1] = true →
    links (.jalr ra imm) s (s.th.pc + 4) ((s.reg ra + imm.signExtend 64) &&& ~~~3) ∧
    links (.jalrLit ra lit) s (s.th.pc + 12) ((s.reg ra + lit) &&& ~~~3))

/-- The destination of a register instruction that touches neither memory nor anything beyond its thread (R82, R83, R84, R85). -/
def registerDest : Instr → Option SReg
  | .add d .. | .sub d .. | .and d .. | .or d .. | .xor d .. | .andn d .. | .shl d .. | .shr d .. | .sra d .. | .slt d .. | .sltu d ..
  | .min d .. | .max d .. | .minu d .. | .maxu d .. | .addw d .. | .subw d .. | .addx1 d .. | .addx2 d .. | .addx3 d ..
  | .addLit d .. | .subLit d .. | .andLit d .. | .orLit d .. | .xorLit d .. | .andnLit d .. | .shlLit d .. | .shrLit d ..
  | .sraLit d .. | .sltLit d .. | .sltuLit d .. | .minLit d .. | .maxLit d .. | .minuLit d .. | .maxuLit d .. | .addwLit d ..
  | .subwLit d .. | .addx1Lit d .. | .addx2Lit d .. | .addx3Lit d .. | .addi d .. | .andi d .. | .ori d .. | .xori d ..
  | .slti d .. | .sltiu d .. | .addiLit d .. | .andiLit d .. | .oriLit d .. | .xoriLit d .. | .sltiLit d .. | .sltiuLit d ..
  | .shli d .. | .shri d .. | .srai d .. | .mul d .. | .mulh d .. | .mulhu d .. | .mulw d .. | .mulLit d .. | .mulhLit d ..
  | .mulhuLit d .. | .mulwLit d .. | .clz d .. | .ctz d .. | .popc d .. | .bext d .. | .bins d .. | .bextLit d .. | .binsLit d ..
  | .brev d .. | .bswap d .. => some d
  | .jal _ | .jalr .. | .jalrLit .. => some 1
  | .beq .. | .bne .. | .blt .. | .bge .. | .bltu .. | .bgeu .. | .j _ => some 0
  | _ => none

/-- The scalar sources and destinations of the arithmetic, bit, branch, local memory, full/empty, lock and shared memory instructions, and of
HSTAT, TRAP, the CSR group and MSGRD (R52, R82–R87, R94, R105, R113, R116, R118, R121, R127, R128, R132). -/
def operandsOf : Instr → Option (List SReg)
  | .add d a b | .sub d a b | .and d a b | .or d a b | .xor d a b | .andn d a b | .shl d a b | .shr d a b | .sra d a b | .slt d a b
  | .sltu d a b | .min d a b | .max d a b | .minu d a b | .maxu d a b | .addw d a b | .subw d a b | .addx1 d a b | .addx2 d a b
  | .addx3 d a b | .mul d a b | .mulh d a b | .mulhu d a b | .mulw d a b | .div d a b | .divu d a b | .rem d a b | .remu d a b
  | .bext d a b | .bins d a b | .stu d a b | .syadd d a b | .sycas d a b | .syswp d a b | .sobind d a b => some [a, b, d]
  | .addLit d a _ | .subLit d a _ | .andLit d a _ | .orLit d a _ | .xorLit d a _ | .andnLit d a _ | .shlLit d a _ | .shrLit d a _
  | .sraLit d a _ | .sltLit d a _ | .sltuLit d a _ | .minLit d a _ | .maxLit d a _ | .minuLit d a _ | .maxuLit d a _ | .addwLit d a _
  | .subwLit d a _ | .addx1Lit d a _ | .addx2Lit d a _ | .addx3Lit d a _ | .mulLit d a _ | .mulhLit d a _ | .mulhuLit d a _
  | .mulwLit d a _ | .divLit d a _ | .divuLit d a _ | .remLit d a _ | .remuLit d a _ | .bextLit d a _ | .binsLit d a _
  | .addi d a _ | .andi d a _ | .ori d a _ | .xori d a _ | .slti d a _ | .sltiu d a _ | .addiLit d a _ | .andiLit d a _ | .oriLit d a _
  | .xoriLit d a _ | .sltiLit d a _ | .sltiuLit d a _ | .shli d a _ | .shri d a _ | .srai d a _ | .clz d a | .ctz d a | .popc d a
  | .brev d a | .bswap d a | .ldb d a _ | .ldbLit d a _ | .ldbu d a _ | .ldbuLit d a _ | .ldh d a _ | .ldhLit d a _ | .ldhu d a _
  | .ldhuLit d a _ | .ldw d a _ | .ldwLit d a _ | .ldwu d a _ | .ldwuLit d a _ | .ldd d a _ | .lddLit d a _ | .ldfe d a
  | .ldfeLit d a _ | .ldfec d a | .ldfecLit d a _ | .fetst d a | .fetstLit d a _ | .ldl d a | .ldlLit d a _ | .sld d a _
  | .sldLit d a _ | .sldw d a _ | .sldwLit d a _ | .sldh d a _ | .sldhLit d a _ | .syld d a | .syaddLit d a _ | .sycasLit d a _
  | .syswpLit d a _ => some [a, d]
  | .stb r a _ | .stbLit r a _ | .sth r a _ | .sthLit r a _ | .stw r a _ | .stwLit r a _ | .std r a _ | .stdLit r a _ | .stfe r a
  | .stfeLit r a _ | .stfew r a | .stfewLit r a _ | .sst r a _ | .sstLit r a _ | .sstw r a _ | .sstwLit r a _ | .sstb r a _
  | .sstbLit r a _ | .sstp _ r a => some [a, r]
  | .beq a r _ | .bne a r _ | .blt a r _ | .bge a r _ | .bltu a r _ | .bgeu a r _ => some [a, r]
  | .jal _ => some [1]
  | .jalr a _ | .jalrLit a _ => some [a, 1]
  | .logadd a b | .logfadd a b => some [a, b]
  | .logaddLit a _ | .logfaddLit a _ | .feset a | .fesetLit a _ | .feclr a | .feclrLit a _ | .ulk a | .ulkLit a _ | .sounb a | .rel _ a | .acq _ a | .trap a
  | .csrw _ a | .csrs _ a | .csrc _ a => some [a]
  | .fence _ d | .csrr d _ | .hstat d | .msgrd d => some [d]
  | _ => none

/-- R81, R55: an instruction whose scalar source or destination is absent does not go on, in whichever form of those listed: nothing changes
but that the attempt is noted, so that it is tried again.
The frame of the register instructions (R82, R83, R85, R86, R87 and the multiplies of R84): every register but the destination
(`s1` for JAL and JALR; none for a branch or J), every other thread, context and core, every special register and flag, and every byte
of memory is as before.
R50: `s0` reads 0 and keeps nothing that is written to it, whichever way a result arrives; every other register keeps it. -/
def Obligations.RegisterDiscipline : Prop :=
  (∀ (i : Instr) (l : List SReg) (s : State), operandsOf i = some l → s.has l = false → exec i s = .next { s with waiting := true }) ∧
  (∀ (i : Instr) (d : SReg) (s t : State), registerDest i = some d → exec i s = .next t →
     OnlyThread s t ∧ OnlyRegs [d] s t ∧ SameMemory s t) ∧
  (∀ (t : Thread) (r : SReg) (v : W64) (due : Nat),
     t.reg 0 = 0 ∧ t.has 0 = true ∧ t.setReg 0 v = t ∧ t.arrive 0 v = t ∧ t.later 0 v due = t ∧
     (r ≠ 0 → (t.setReg r v).reg r = v ∧ (t.setReg r v).has r = true ∧ (t.arrive r v).reg r = v ∧ (t.arrive r v).has r = true ∧
       (t.later r v due).has r = false ∧ (t.later r v due).reg r = t.reg r) ∧
     (∀ q, q ≠ r → (t.setReg r v).reg q = t.reg q ∧ (t.setReg r v).has q = t.has q))

/-! ## Local windows, full/empty granules and lock bits (R109–R118) -/

/-- What stops an access that has just issued: LocalCheck's trap (R110), and a wait, where the target core holds no context of the launch (R109)
or something that the core has sent there before is still on its way (R306). -/
def Stops (fe lock : Bool) (i : Instr) (s : State) (len : Nat) (ea : W64) (n : Nat) : Prop :=
  s.th.stall = none →
    (∀ cause val, localCheck i fe lock ea n s = some (.trap cause val) → exec i s = .next (trapEntry cause val s)) ∧
    (localCheck i fe lock ea n s = some .remote ∨ (localCheck i fe lock ea n s = none ∧ s.behind ea = true) →
      exec i s = .next (s.setTh { s.th with stall := some ⟨len, 0, .remote⟩ }))

/-- R110, R17, R64, R109: what LocalCheck says of an access, whole: the first check that fails traps with
its cause and value, in the order phase (6), shared address (4), privilege (2), bounds (4) and alignment (3). The bounds are the die, the
window type, its row and column, its widths, its size, the tile's allocation, and, of windows 0–3 of another core, the spread and the region of
the launch's context there; where that core holds no such context the access waits. An FE instruction's address must name window 0, whose widths
are then also 16 (R116, R109), and a LOCK instruction's window 4 (R118), which are bounds checks too. -/
def Obligations.LocalChecks : Prop :=
  ∀ (i : Instr) (s : State) (fe lock : Bool) (ea : W64) (n : Nat), s.focus < 2048 →
    let check := localCheck i fe lock ea n s
    let w0 := ((encode i).headD 0).setWidth 64
    let t := opmType ea
    let c := opmCore ea
    let off := opmOff ea
    let outside : Prop := ea.extractLsb' 44 20 ≠ 0 ∨ ownCluster s.focus ea = false
    let phase : Prop := outside ∧ s.ctx.phase = .compute
    let on : Prop := ¬ phase ∧ ea.extractLsb' 44 20 = 0 ∧ ¬ (t = 3 ∧ s.ctx.mode = .user)
    let widths : List Nat := match t with
      | 0 => if fe then [1, 2, 4, 8, 16] else [1, 2, 4, 8]
      | 2 | 4 => [1, 2, 4, 8]
      | 1 | 3 => [8]
      | 5 | 7 => [4, 8]
      | 6 => [2, 4, 8]
      | _ => []
    let size : Nat := match t with
      | 0 => if c = s.focus then s.ctx.size.toNat * 65536 else 262144
      | 1 => 2816 | 2 => 4096 | 3 => 152 | 4 => 8388608 | 5 => 1048576 | 6 => 32768 | _ => 0x810580
    let placed : Prop := (4 ≤ t ∧ t ≤ 6 → rowOf c % 2 = 0 ∧ colOf c % 4 = 0) ∧ (t = 7 → rowOf c = 0 ∧ colOf c = 0)
    let bounds : Prop := opmDie ea ≤ 7 ∧ t ≤ 7 ∧ placed ∧ n ∈ widths ∧ off + n ≤ size ∧ (t = 5 → s.ctx.mtiles.getLsbD (off / 65536) = true) ∧
      (fe = true → t = 0) ∧ (lock = true → t = 4)
    let far : Prop := t ≤ 3 ∧ c ≠ s.focus
    let inside (y : Ctx) : Prop := t = 0 → y.base.toNat * 65536 ≤ off ∧ off + n ≤ (y.base.toNat + y.size.toNat) * 65536
    let reached : Prop := ¬ far ∨ (s.inSpread s.ctx.launch c = true ∧ ∃ y, s.ctxOf c s.ctx.launch = some y ∧ inside y)
    (phase → check = some (.trap 6 w0)) ∧
    (ea.extractLsb' 44 20 ≠ 0 → ¬ phase → check = some (.trap 4 ea)) ∧
    (¬ phase → ea.extractLsb' 44 20 = 0 → t = 3 → s.ctx.mode = .user → check = some (.trap 2 w0)) ∧
    (on → ¬ bounds → check = some (.trap 4 ea)) ∧
    (on → bounds → far → s.inSpread s.ctx.launch c = false → check = some (.trap 4 ea)) ∧
    (on → bounds → far → s.inSpread s.ctx.launch c = true → s.ctxOf c s.ctx.launch = none → check = some .remote) ∧
    (on → bounds → far → s.inSpread s.ctx.launch c = true → ∀ y, s.ctxOf c s.ctx.launch = some y → ¬ inside y → check = some (.trap 4 ea)) ∧
    (on → bounds → reached → off % n ≠ 0 → check = some (.trap 3 ea)) ∧
    (on → bounds → reached → off % n = 0 → check = none)

/-- R113, R111: every local load that LocalCheck passes: the bytes it reads, extended as its row says, are on their way to RD; no byte of
memory and no full/empty bit changes. The load that LocalCheck stops traps or, for want of a context on the target core, waits; it waits too
where something that its core has sent to the same core is still on its way (R306). An 8-byte load of ULM or a scratchpad reads one of its two
words again later (R114): which one is free.
R109: what a checked access reads: of a memory window the little-endian bytes at its places; of the own core's window 1 a live thread's
register, of window 2 bytes of a vector register, of window 3 a CSR; of window 7 0 in user mode, and the scores in supervisor mode (R270).
That a load of a window other than the own ULM has its bytes read when it issues is the model's choice (log 19); R111 and R112 leave the
tick open. -/
def Obligations.LocalLoads : Prop :=
  (let loads (i : Instr) (s : State) (len n : Nat) (signed : Bool) (rd : SReg) (ea : W64) : Prop :=
     let m := (s.readLocal ea n).extractLsb' 0 (8 * n)
     let waits : Prop :=
       if s.th.stall = none then exec i s = .next (s.setTh { s.th with stall := some ⟨len, 0, .remote⟩ })
       else exec i s = .next { s with waiting := true }
     match localCheck i false false ea n s with
     | none =>
       if s.atSource && s.behind ea then waits
       else ∃ t, exec i s = .next t ∧ Loaded s t len rd ea (halfLeft s rd ea n) (if signed then m.signExtend 64 else m.setWidth 64) ∧
         SameMemory s t ∧ ∀ c, (t.core c).fe = (s.core c).fe
     | some (.trap cause val) => s.th.stall = none → exec i s = .next (trapEntry cause val s)
     | some .remote => waits
   ∀ (s : State) (rd ra : SReg) (imm : BitVec 14) (lit : W64), s.has [ra, rd] = true →
     let ea := s.reg ra + imm.signExtend 64
     let el := s.reg ra + lit
     loads (.ldb rd ra imm) s 4 1 true rd ea ∧ loads (.ldbLit rd ra lit) s 12 1 true rd el ∧
     loads (.ldbu rd ra imm) s 4 1 false rd ea ∧ loads (.ldbuLit rd ra lit) s 12 1 false rd el ∧
     loads (.ldh rd ra imm) s 4 2 true rd ea ∧ loads (.ldhLit rd ra lit) s 12 2 true rd el ∧
     loads (.ldhu rd ra imm) s 4 2 false rd ea ∧ loads (.ldhuLit rd ra lit) s 12 2 false rd el ∧
     loads (.ldw rd ra imm) s 4 4 true rd ea ∧ loads (.ldwLit rd ra lit) s 12 4 true rd el ∧
     loads (.ldwu rd ra imm) s 4 4 false rd ea ∧ loads (.ldwuLit rd ra lit) s 12 4 false rd el ∧
     loads (.ldd rd ra imm) s 4 8 false rd ea ∧ loads (.lddLit rd ra lit) s 12 8 false rd el) ∧
  (∀ (s : State) (ea : W64) (n : Nat), n ≤ 8 → opmType ea = 0 ∨ opmType ea = 4 ∨ opmType ea = 5 ∨ opmType ea = 6 →
     ∀ j < n, ∃ p, placeOf s ea j = some p ∧ (s.readLocal ea n).extractLsb' (8 * j) 8 = s.byteAt p) ∧
  (∀ (s : State) (ea : W64), opmCore ea = s.focus →
     (∀ (n : Fin 11) (r : SReg), opmType ea = 1 → opmOff ea = 256 * n.val + 8 * r.toNat →
       s.readLocal ea 8 = if (s.ctx.thread n).live then (s.ctx.thread n).reg r else 0) ∧
     (∀ (n j b : Nat) (v : VReg), opmType ea = 2 → n ≤ 8 → j < n → b < 256 → opmOff ea + j = 256 * v.toNat + b →
       (s.readLocal ea n).extractLsb' (8 * j) 8 = (s.ctx.vreg v).extractLsb' (8 * b) 8) ∧
     (∀ c : Csr, opmType ea = 3 → opmOff ea = 8 * c.toBits.toNat → s.readLocal ea 8 = s.csr c)) ∧
  (∀ (s : State) (ea : W64) (n : Nat), opmType ea = 7 → n = 4 ∨ n = 8 → opmOff ea % n = 0 →
     (s.ctx.mode = .user → s.readLocal ea n = 0) ∧
     (s.ctx.mode = .supervisor → opmOff ea + n ≤ 0x800000 → ∀ j < n,
       (s.readLocal ea n).extractLsb' (8 * j) 8 = s.byteAt (.scores (dieOf (opmCore ea)) (opmOff ea + j)))) ∧
  (∀ (s : State) (n : Fin 11) (a : HalfAccess) (r : Result), (s.ctx.thread n).half = some a → a.store = none → a.scratch = false →
     a.unit = s.focus → (s.ctx.thread n).results = [r] → r.load = true →
     ((s.makeHalf s.focus n).ctx.thread n).results =
       [{ r with val := withHalf r.val a.high ((s.core s.focus).ulm.readLE a.off 4 32) }])


/-- R113, R109, R114: every local store that LocalCheck passes, and that nothing on its core's way to the same core holds back (R306), writes
the low bytes of RS at its places; every other byte of memory reads as before. One that LocalCheck stops traps, or waits (R110, R109). Of the memory windows, that is all that changes but the thread's
own progress. An 8-byte store to ULM or a scratchpad writes one of its two words, which one is free, and has the other still to write; that
access then writes it and nothing else.
A store to any window but ULM and scratchpads is one write, and of the own core's windows 1 to 3 it writes: a register of a live thread, with no presence bit; bytes of vector registers; a CSR
as CSRW does (R105). Of window 7 user mode writes nothing, and supervisor mode the scores, except under a run in progress (R270).
That every store is performed at its issue, also toward a die that no route reaches, is the model's choice (log 19); R111 and R112 leave the
tick open. -/
def Obligations.LocalStores : Prop :=
  (let stores (i : Instr) (s : State) (len n : Nat) (rs : SReg) (ea : W64) : Prop :=
     Stops false false i s len ea n ∧
     (localCheck i false false ea n s = none → (s.atSource && s.behind ea) = false →
       opmType ea ≠ 0 → opmType ea ≠ 4 → exec i s = .next ((s.writeLocal ea n (s.reg rs)).past len)) ∧
     (localCheck i false false ea n s = none → (s.atSource && s.behind ea) = false → s.memOk = true → s.focus < 2048 →
       let later := s.halfOf ea n (some (s.reg rs))
       ∃ t, exec i s = .next t ∧ t.th.pc = s.th.pc + BitVec.ofNat 64 len ∧ t.th.stall = none ∧
         SameBut (placeOf s ea) n s t ∧
         (opmType ea = 0 ∨ opmType ea = 4 ∨ opmType ea = 5 ∨ opmType ea = 6 →
           StoreOnly s t ({ s.th with half := later.or s.th.half }.past len) ∧
           (∀ c, (t.core c).fe = (s.core c).fe) ∧
           ∀ j < n, ∃ p, placeOf s ea j = some p ∧
             t.byteAt p = if later.any fun a => a.high == decide (4 ≤ j) then s.byteAt p else (s.reg rs).extractLsb' (8 * j) 8))
   ∀ (s : State) (rs ra : SReg) (imm : BitVec 14) (lit : W64), s.has [ra, rs] = true →
     let ea := s.reg ra + imm.signExtend 64
     let el := s.reg ra + lit
     stores (.stb rs ra imm) s 4 1 rs ea ∧ stores (.stbLit rs ra lit) s 12 1 rs el ∧
     stores (.sth rs ra imm) s 4 2 rs ea ∧ stores (.sthLit rs ra lit) s 12 2 rs el ∧
     stores (.stw rs ra imm) s 4 4 rs ea ∧ stores (.stwLit rs ra lit) s 12 4 rs el ∧
     stores (.std rs ra imm) s 4 8 rs ea ∧ stores (.stdLit rs ra lit) s 12 8 rs el) ∧
  (∀ (s : State) (ea v : W64), opmType ea = 0 ∨ opmType ea = 4 → ∃ a, s.halfOf ea 8 (some v) = some a ∧
     a.store = some (if a.high then v.extractLsb' 32 32 else v.setWidth 32) ∧
     ∀ j < 4, placeOf s ea (j + if a.high then 4 else 0) = some (if a.scratch then .scratch a.unit (a.off + j) else .ulm a.unit (a.off + j))) ∧
  (∀ (s : State) (c : Nat) (n : Fin 11) (a : HalfAccess) (v : W32), ((s.core c).run.thread n).half = some a → a.store = some v →
     s.memOk = true →
     let t := s.makeHalf c n
     let place (j : Nat) : Place := if a.scratch then .scratch a.unit (a.off + j) else .ulm a.unit (a.off + j)
     ((t.core c).run.thread n).half = none ∧ SameBut (fun j => some (place j)) 4 s t ∧
       ∀ j < 4, t.byteAt (place j) = v.extractLsb' (8 * j) 8) ∧
  (∀ (s : State) (ea v : W64), opmCore ea = s.focus →
     (∀ (n : Fin 11) (r : SReg), opmType ea = 1 → opmOff ea = 256 * n.val + 8 * r.toNat →
       (s.writeLocal ea 8 v).ctx =
         if (s.ctx.thread n).live then s.ctx.setThread n { s.ctx.thread n with regs := ((s.ctx.thread n).setReg r v).regs } else s.ctx) ∧
     (∀ (n b : Nat) (u : VReg), opmType ea = 2 → n ≤ 8 → opmOff ea + n ≤ 4096 → b < 256 →
       let at_ := 256 * u.toNat + b
       ((s.writeLocal ea n v).ctx.vreg u).extractLsb' (8 * b) 8 =
         if opmOff ea ≤ at_ ∧ at_ < opmOff ea + n then v.extractLsb' (8 * (at_ - opmOff ea)) 8 else (s.ctx.vreg u).extractLsb' (8 * b) 8) ∧
     (∀ c : Csr, opmType ea = 3 → opmOff ea = 8 * c.toBits.toNat → s.writeLocal ea 8 v = s.csrPut c v v)) ∧
  (∀ (s : State) (ea v : W64) (n : Nat), opmType ea = 7 → n = 4 ∨ n = 8 → opmOff ea % n = 0 →
     (s.ctx.mode = .user → s.writeLocal ea n v = s) ∧
     (s.ctx.mode = .supervisor → opmOff ea + n ≤ 0x800000 → s.memOk = true → dieOf (opmCore ea) < 8 →
       let e := (s.die (dieOf (opmCore ea))).ae
       e.frozen (opmOff ea) = false → e.frozen (opmOff ea + 4) = false → ∀ j < n,
         (s.writeLocal ea n v).byteAt (.scores (dieOf (opmCore ea)) (opmOff ea + j)) = v.extractLsb' (8 * j) 8))

/-- R116, R115: the full/empty instructions. One that LocalCheck stops, also for a window other than ULM (cause 4) or an address not aligned to
its width (cause 3), traps or waits (R110, R109). Of those that it passes, LDFE and LDFEC go on at a full granule and load its word, LDFEC
leaving it empty; STFE and STFEW go on at an empty one and leave it full with the word stored; FESET, FECLR and FETST never wait.
LDFEC, and STFE and STFEW, go on in the order of their arrival. A thread whose granule is not as it needs, or whose turn has not come,
stalls in line. A load from a die that no route reaches does not wait, brings poison and changes no granule (R313). Nothing that its core has sent
to the same core before may be on its way (R306); LDFE reads its word in two accesses (R114). When a granule becomes full, the LDFEs that wait there are the next to be tried. Every other granule and every other
byte is as before. -/
def Obligations.FullEmpty : Prop :=
  let check (i : Instr) (ea : W64) (n : Nat) (s : State) : Prop :=
    localCheck i true false ea n s = none ∧ (s.atSource && s.behind ea) = false ∧ s.focus < 2048 ∧ s.memOk = true
  let cut (s : State) (ea : W64) : Bool := s.cutOff (dieOf s.focus) (opmDie ea)
  let gran (s : State) (ea : W64) : Nat := ulmOff s ea / 16
  let full (s : State) (c g : Nat) : Bool := (s.core c).fe.getLsbD g
  let first (s : State) (c g : Nat) (b : Bool) : Prop := s.feFirst c g b = true
  let woken (s : State) (c g : Nat) : List Action :=
    ((s.core c).feLine.filter fun w => w.gran == g && w.all).map (fun w => .issue w.core w.thr) ++ s.agenda
  let waits (i : Instr) (s : State) (len : Nat) (ea : W64) : Prop := s.th.stall = none →
    ∃ t, exec i s = .next t ∧ t.th = { s.th with stall := some ⟨len, 0, .fe⟩ } ∧ SameMemory s t ∧ (∀ c, (t.core c).fe = (s.core c).fe) ∧
      ∃ w ∈ (t.core (opmCore ea)).feLine, w.core = s.focus ∧ w.thr = s.thr.val
  let bits (s t : State) (ea : W64) (b : Option Bool) : Prop := ∀ c g, g < 16384 →
    full t c g = if c = opmCore ea ∧ g = gran s ea then b.getD (full s c g) else full s c g
  let loads (i : Instr) (s : State) (len : Nat) (rd : SReg) (ea : W64) (empty : Bool) : Prop := Stops true false i s len ea 8 ∧ (check i ea 8 s →
    (cut s ea = true → ∃ t, exec i s = .next t ∧ Loaded s t len rd ea s.th.half poison64 ∧ SameMemory s t ∧ bits s t ea none) ∧
    (cut s ea = false → full s (opmCore ea) (gran s ea) = true → (empty = true → first s (opmCore ea) (gran s ea) true) →
      ∃ t, exec i s = .next t ∧ Loaded s t len rd ea (if empty then s.th.half else halfLeft s rd ea 8) (s.readLocal ea 8) ∧
        SameMemory s t ∧ bits s t ea (if empty then some false else none)) ∧
    (cut s ea = false → full s (opmCore ea) (gran s ea) = false ∨ (empty = true ∧ ¬ first s (opmCore ea) (gran s ea) true) → waits i s len ea))
  let stores (i : Instr) (s : State) (len n : Nat) (rd : SReg) (ea : W64) : Prop := Stops true false i s len ea n ∧ (check i ea n s →
    (full s (opmCore ea) (gran s ea) = false → first s (opmCore ea) (gran s ea) false →
      ∃ t, exec i s = .next t ∧ t.agenda = woken (s.feLeave (opmCore ea)) (opmCore ea) (gran s ea) ∧
        StoreOnly { s with agenda := t.agenda } t (s.th.past len) ∧ SameBut (placeOf s ea) n s t ∧ bits s t ea (some true) ∧
        ∀ j < n, ∃ p, placeOf s ea j = some p ∧ t.byteAt p = (s.reg rd).extractLsb' (8 * j) 8) ∧
    (full s (opmCore ea) (gran s ea) = true ∨ ¬ first s (opmCore ea) (gran s ea) false → waits i s len ea))
  let sets (i : Instr) (s : State) (len : Nat) (ea : W64) (b : Bool) : Prop := Stops true false i s len ea 16 ∧ (check i ea 16 s →
    ∃ t, exec i s = .next t ∧ t.agenda = (if b then woken s (opmCore ea) (gran s ea) else s.agenda) ∧
      StoreOnly { s with agenda := t.agenda } t (s.th.past len) ∧ SameMemory s t ∧ bits s t ea (some b))
  let tests (i : Instr) (s : State) (len : Nat) (rd : SReg) (ea : W64) : Prop := Stops true false i s len ea 16 ∧ (check i ea 16 s →
    ∃ t, exec i s = .next t ∧ Loaded s t len rd ea s.th.half (if full s (opmCore ea) (gran s ea) then 1 else 0) ∧ SameMemory s t ∧
      bits s t ea none)
  ∀ (s : State) (rd ra : SReg) (lit : W64), s.has [ra, rd] = true →
    let ea := s.reg ra
    let el := s.reg ra + lit
    loads (.ldfe rd ra) s 4 rd ea false ∧ loads (.ldfeLit rd ra lit) s 12 rd el false ∧
    loads (.ldfec rd ra) s 4 rd ea true ∧ loads (.ldfecLit rd ra lit) s 12 rd el true ∧
    stores (.stfe rd ra) s 4 8 rd ea ∧ stores (.stfeLit rd ra lit) s 12 8 rd el ∧
    stores (.stfew rd ra) s 4 4 rd ea ∧ stores (.stfewLit rd ra lit) s 12 4 rd el ∧
    sets (.feset ra) s 4 ea true ∧ sets (.fesetLit ra lit) s 12 el true ∧
    sets (.feclr ra) s 4 ea false ∧ sets (.feclrLit ra lit) s 12 el false ∧
    tests (.fetst rd ra) s 4 rd ea ∧ tests (.fetstLit rd ra lit) s 12 rd el

/-- R118, R117: LDL stands in line at the lock bit, gives up a lock that the thread holds, and takes the bit, free and granted to it as the first
in line, and reads the word; STU stores and releases, and answers 0,
only when the thread holds the lock on that word, and otherwise answers 1 and stores nothing; ULK releases a lock that the thread
holds on the word and does nothing else. One that LocalCheck stops, also for a window other than a scratchpad (cause 4) or an address not
aligned to 4 (cause 3), traps or waits (R110, R109). The waiting of LDL, and the bytes that STU stores, are said too.
R111, R116, R117, R118, R109: the events of the local windows. A returned load, in order among what comes from one core of another
cluster, loads and answers (R306), writes its register, with poison where no route is left (R313); a lock is released 64 cycles
after it was granted and no sooner; a free lock bit is granted to the first in line there, in which what has come in one cycle stands by core and
thread; that thread, the first in line at a granule, and an access that waited for a context, is the next to be tried. -/
def Obligations.LockBits : Prop :=
  (let clu (ea : W64) : Nat := clusterOf (opmCore ea)
   let check (i : Instr) (ea : W64) (s : State) : Prop := localCheck i false true ea 4 s = none ∧ (s.atSource && s.behind ea) = false ∧ s.memOk = true
   let mine (s : State) : Lock → Bool := fun l => l.core == s.focus && l.launch == s.ctx.launch && l.thr == s.thr.val
   let takes (i : Instr) (s : State) (len : Nat) (rd : SReg) (ea : W64) : Prop := Stops false true i s len ea 4 ∧ (check i ea s →
     let x := s.cluster (clu ea)
     let key := lockKey (opmOff ea)
     let free := (x.locks.filter fun y => !mine s y.2).find? (fun y => y.1 == key) = none
     let granted := ∃ w, x.lockLine.find? (fun v => v.key == key) = some w ∧ w.due = true ∧ w.core = s.focus ∧ w.thr = s.thr.val
     let cut := s.cutOff (dieOf s.focus) (opmDie ea) = true
     (¬ cut → free → granted → ∃ t, exec i s = .next t ∧ SameMemory s t ∧
         t.th = (s.th.later rd ((s.readLocal ea 4).extractLsb' 0 32 |>.setWidth 64) (s.now + 4) true).past len ∧
         PMap.find? (t.cluster (clu ea)).locks key = some ⟨s.focus, s.ctx.launch, s.thr.val, opmOff ea, s.now⟩ ∧
         ∀ v, v ∈ (t.cluster (clu ea)).lockLine ↔ v ∈ x.lockLine ∧ ¬ (v.core = s.focus ∧ v.thr = s.thr.val)) ∧
     (¬ cut → ¬ free ∨ ¬ granted → s.th.stall = none → ∃ t, exec i s = .next t ∧ SameMemory s t ∧
         t.th = { s.th with stall := some ⟨len, 0, .lock⟩ } ∧
         (t.cluster (clu ea)).locks = x.locks.filter (fun y => !mine s y.2) ∧
         ∃ w ∈ (t.cluster (clu ea)).lockLine, w.core = s.focus ∧ w.thr = s.thr.val ∧
           ((∀ v ∈ x.lockLine, ¬ (v.core = s.focus ∧ v.thr = s.thr.val)) →
             w.key = key ∧ w.at_ = s.now ∧ ∃ pre post, x.lockLine = pre ++ post ∧ (t.cluster (clu ea)).lockLine = pre ++ w :: post ∧
               (∀ v ∈ pre, w.before v = false) ∧ ∀ v, post.head? = some v → w.before v = true)) ∧
     (cut → ∃ t, exec i s = .next t ∧ Loaded s t len rd ea s.th.half poison64 ∧ SameMemory s t ∧
         ∀ k, (t.cluster k).locks = (s.cluster k).locks))
   let frees (i : Instr) (s : State) (len : Nat) (ea : W64) : Prop := Stops false true i s len ea 4 ∧ (check i ea s →
     ∃ t, exec i s = .next t ∧ StoreOnly s t (s.th.past len) ∧ SameMemory s t ∧
       (s.holds ea = false → ∀ k, (t.cluster k).locks = (s.cluster k).locks) ∧
       (s.holds ea = true → (t.cluster (clu ea)).locks = (s.cluster (clu ea)).locks.filter fun y => !mine s y.2))
   ∀ (s : State) (rd ra rb : SReg) (lit : W64), s.has [ra, rb, rd] = true →
     takes (.ldl rd ra) s 4 rd (s.reg ra) ∧ takes (.ldlLit rd ra lit) s 12 rd (s.reg ra + lit) ∧
     frees (.ulk ra) s 4 (s.reg ra) ∧ frees (.ulkLit ra lit) s 12 (s.reg ra + lit) ∧
     Stops false true (.stu rd ra rb) s 4 (s.reg ra) 4 ∧
     (check (.stu rd ra rb) (s.reg ra) s →
       ∃ t, exec (.stu rd ra rb) s = .next t ∧
         t.th = (s.th.later rd (if s.holds (s.reg ra) then 0 else 1) (s.now + 4)).past 4 ∧
         (s.holds (s.reg ra) = false → SameMemory s t ∧ ∀ k, (t.cluster k).locks = (s.cluster k).locks) ∧
         (s.holds (s.reg ra) = true → SameBut (placeOf s (s.reg ra)) 4 s t ∧
           (t.cluster (clu (s.reg ra))).locks = (s.cluster (clu (s.reg ra))).locks.filter (fun y => !mine s y.2) ∧
           ∀ j < 4, ∃ p, placeOf s (s.reg ra) j = some p ∧ t.byteAt p = (s.reg rb).extractLsb' (8 * j) 8))) ∧
  ((∀ (s : State) (pos : Nat) (l : LocalLoad), s.locals[pos]? = some l → l.core = s.focus → l.thr = s.thr.val → s.ctx.of l.launch = true →
     s.th.live = true → s.th.inc = l.inc → l.rd ≠ 0 → s.th.half = none →
     (clusterOf l.from_ = clusterOf l.core ∨
       (s.routeHeld (dieOf l.from_) (dieOf l.core) = false ∧ ∀ m ∈ s.locals, m.core = l.core → m.from_ = l.from_ → l.seq ≤ m.seq) ∧
         s.answerAhead l.from_ l.core l.seq = false) →
     ∃ t, exec (.localLoadReturn pos) s = .next t ∧ t.locals = s.locals.eraseIdx pos ∧ t.th.has l.rd = true ∧ OnlyRegs [l.rd] s t ∧
       (s.cutOff (dieOf l.from_) (dieOf l.core) = false → t.reg l.rd = l.val ∧ OnlyThread { s with locals := t.locals } t) ∧
       (s.cutOff (dieOf l.from_) (dieOf l.core) = true → t.reg l.rd = poison64 ∧ t.ctx.accerr = true)) ∧
   (∀ (s : State) (k : Nat), ∃ t, exec (.lockTimeout k) s = .next t ∧ SameMemory s t ∧
     (t.cluster k).locks = (s.cluster k).locks.filter (fun y => decide (s.now < y.2.granted + 64)) ∧
     { t with clusters := s.clusters } = s ∧ ∀ a, a ≠ k → t.cluster a = s.cluster a) ∧
   (∀ (s : State) (c g : Nat) (w : FeWait),
     (s.core c).feLine.find? (fun x => x.gran == g && x.full == (s.core c).fe.getLsbD g) = some w →
     exec (.feWaitComplete c g) s = .next { s with agenda := .issue w.core w.thr :: s.agenda }) ∧
   (∀ (s : State) (k bank b : Nat) (w : LockWait), (s.cluster k).lockLine.find? (fun x => x.key == 16 * bank + b) = some w →
     PMap.find? (s.cluster k).locks (16 * bank + b) = none →
     let x := s.cluster k
     exec (.lockGrant k bank b) s =
       .next { s.setCluster k { x with lockLine := x.lockLine.map fun v => if v = w then { v with due := true } else v } with
         agenda := .issue w.core w.thr :: s.agenda }) ∧
   (∀ (s : State) (c : Nat) (n : Fin 11) (len : Nat) (rd : SReg), ((s.core c).run.thread n).stall = some ⟨len, rd, .remote⟩ →
     exec (.remoteAccessRetry c n.val) s = .next { s with agenda := .issue c n.val :: s.agenda }))

/-! ## Threads, gangs, barriers and phases (R92–R104) -/

/-- R92, R93: HSTART takes the lowest free helper number and starts it with the entry, the argument and its number, and answers 0 when
there is none; HSTAT reads the live mask; HJOIN waits for the helper that held the number; HEXIT frees it, once the port to which the helper's stream goes has room for the
closing marker (R122); YIELD stalls for 10 cycles. The helper's first instruction comes after the control thread's earlier local loads.
The forms that a helper, or a wrong number, may not issue raise cause 11. -/
def Obligations.Helpers : Prop :=
  let w0 (i : Instr) : W64 := ((encode i).headD 0).setWidth 64
  let starts (i : Instr) (s : State) (len : Nat) (rd : SReg) (a b : W64) : Prop :=
    (s.thr ≠ 0 → exec i s = .next (trapEntry 11 (w0 i) s)) ∧
    (s.thr = 0 → (∀ n, n ≠ 0 → (s.ctx.thread n).live = true) → GivesNow i s len rd 0) ∧
    (s.thr = 0 → ∀ n, n ≠ 0 → (s.ctx.thread n).live = false → (∀ m, m ≠ 0 → m < n → (s.ctx.thread m).live = true) →
      ∃ t, exec i s = .next t ∧ t.th = (s.th.setReg rd (BitVec.ofNat 64 n.val)).past len ∧
        (t.ctx.thread n).live = true ∧ (t.ctx.thread n).pc = a &&& ~~~3 ∧ (t.ctx.thread n).reg 2 = b ∧
        (t.ctx.thread n).reg 3 = BitVec.ofNat 64 n.val ∧ (∀ r, r ≠ 2 → r ≠ 3 → (t.ctx.thread n).reg r = 0) ∧
        (∀ r, (t.ctx.thread n).has r = true) ∧ (t.ctx.thread n).inc = (s.ctx.thread n).inc + 1 ∧
        (∀ r ∈ s.th.results, r.load = true → r.due ≤ (t.ctx.thread n).readyAt) ∧ (t.ctx.thread n).startL = s.seq ∧
        (∀ m, m ≠ n → m ≠ 0 → t.ctx.thread m = s.ctx.thread m) ∧ SameMemory s t)
  (∀ (s : State) (rd ra rb : SReg), s.has [ra, rb, rd] = true → starts (.hstart rd ra rb) s 4 rd (s.reg ra) (s.reg rb)) ∧
  (∀ (s : State) (rd ra : SReg) (lit : W64), s.has [ra, rd] = true → starts (.hstartLit rd ra lit) s 12 rd (s.reg ra) lit) ∧
  (∀ (s : State) (l : LocalLoad), l ∈ s.locals → l.core = s.focus → l.launch = s.ctx.launch → l.thr = 0 → l.seq < s.th.startL →
    s.th.stall = none → s.mayIssue = false) ∧
  (∀ (s : State) (rd : SReg), s.has [rd] = true → ∃ v, GivesNow (.hstat rd) s 4 rd v ∧
    (∀ n : Fin 11, v.getLsbD n.val = (n == 0 || (s.ctx.thread n).live)) ∧ ∀ n, 11 ≤ n → v.getLsbD n = false) ∧
  (∀ (s : State) (ra : SReg), s.has [ra] = true →
    (s.reg ra = 0 ∨ 10 < (s.reg ra).toNat → exec (.hjoin ra) s = .next (trapEntry 11 (w0 (.hjoin ra)) s)) ∧
    (∀ n : Fin 11, n ≠ 0 → s.reg ra = BitVec.ofNat 64 n.val →
      ((s.ctx.thread n).live = false → exec (.hjoin ra) s = .next (s.setTh (s.th.past 4))) ∧
      ((s.ctx.thread n).live = true → s.th.stall = none →
        exec (.hjoin ra) s = .next (s.setTh { s.th with stall := some ⟨4, 0, .hjoin (s.ctx.thread n).inc⟩ })))) ∧
  (∀ s : State, (s.thr = 0 → exec .hexit s = .next (trapEntry 11 (w0 .hexit) s)) ∧
    (s.thr ≠ 0 → s.mayClose s.th = false → s.th.stall = none →
      exec .hexit s = .next (s.setTh { s.th with stall := some ⟨4, 0, .retry⟩ })) ∧
    (s.thr ≠ 0 → s.mayClose s.th = true → ∃ t, exec .hexit s = .next t ∧ t.th.live = false ∧ t.th.stream = none ∧ t.th.inc = s.th.inc ∧
      (∀ n, n ≠ s.thr → t.ctx.thread n = s.ctx.thread n) ∧ SameMemory s t ∧
      ∀ k, (t.cluster k).locks = (s.cluster k).locks.filter fun y => !(y.2.core == s.focus && y.2.launch == s.ctx.launch && y.2.thr == s.thr.val))) ∧
  (∀ s : State, (s.th.stall = none → exec .yield s = .next (s.setTh { s.th with stall := some ⟨4, 0, .yield (s.now + 10)⟩ })) ∧
    ∀ len rd n, s.th.stall = some ⟨len, rd, .yield n⟩ → n < s.now → exec .yield s = .next (s.setTh (s.th.past 4))) ∧
  (∀ (s : State) (c : Nat) (n : Fin 11) (len : Nat) (rd : SReg) (until_ : Nat),
    ((s.core c).run.thread n).stall = some ⟨len, rd, .yield until_⟩ → until_ < s.now →
    exec (.yieldExpiry c n.val) s =
      .next (s.setCore c { s.core c with run := (s.core c).run.setThread n (((s.core c).run.thread n).past len) }))

/-- R94–R98, R107: GANG asks with its rectangle word and waits; when every core of the rectangle waits with the corner's word, all of them
join, the corner as leader; its own core number is the word that leaves. A follower whose leader has ended is in no gang, and leaves what is left
of it when it detaches. DETACH and REJOIN change the membership as their rules say, and
a forwarded instruction reaches the follower's buffer, or, with the buffer full, detaches it with `xstat.LAG` at its oldest unissued forwarded
instruction, where it goes on, after the instruction that it stalls on if it does. A detached follower that waits at its f-th REJOIN attaches when
the leader's f-th arrives, and goes on after it. -/
def Obligations.Gangs : Prop :=
  let w0 (i : Instr) : W64 := ((encode i).headD 0).setWidth 64
  (∀ (s : State) (ra : SReg), s.has [ra] = true → s.thr = 0 →
    let a := s.reg ra
    (a = BitVec.ofNat 64 s.focus →
      (s.ctx.gang = none → exec (.gang ra) s = .next (s.setTh (s.th.past 4))) ∧
      (∀ g, s.ctx.gang = some g → g.leader = false → ∃ t, exec (.gang ra) s = .next t ∧ t.ctx.gang = none ∧
        t.th = s.th.past 4 ∧ SameMemory s t) ∧
      (∀ g, s.ctx.gang = some g → g.leader = true → s.ctx.resident = true → s.focus ∈ (rectOf g.word).cores →
        ∃ t, exec (.gang ra) s = .next t ∧ t.ctx.gang = none ∧ t.th = s.th.past 4 ∧
          ∀ c ∈ (rectOf g.word).cores, ∀ y, s.ctxOf c s.ctx.launch = some y →
            ∃ z, t.ctxOf c s.ctx.launch = some z ∧ z.gang = y.gang.filter fun h => h.word != g.word)) ∧
    (a ≠ BitVec.ofNat 64 s.focus →
      (gangWordOk s a = false ∨ s.ctx.inGang = true → exec (.gang ra) s = .next (trapEntry 11 (w0 (.gang ra)) s)) ∧
      (gangWordOk s a = true → s.ctx.inGang = false → s.th.stall = none →
        exec (.gang ra) s = .next (s.setTh { s.th with stall := some ⟨4, ra, .gang a⟩ })))) ∧
  (∀ (s : State) (core : Nat) (w : W64),
    let launch := (s.core core).run.launch
    let cs := (rectOf w).cores
    cs.Nodup → (rectOf w).corner = core → (∀ c ∈ cs, (s.gangWord c launch).map (·.1) = some w) →
    ∃ t, exec (.gangFormed core) s = .next t ∧ SameMemory s t ∧
      ∀ c ∈ cs, ∀ x, s.ctxOf c launch = some x → ∃ y, t.ctxOf c launch = some y ∧
        y.gang = some ⟨w, c == core, c != core, 0, 0, [], [], none, none, false⟩ ∧ y.thread 0 = (x.thread 0).past 4) ∧
  (∀ s : State,
    let out (g : Gang) : Option Gang :=
      if g.leader then some g else if g.dissolved then none else some { g with attached := false, buffer := [], held := none }
    (s.thr = 0 → exec .detach s = .next ((s.setCtx { s.ctx with gang := s.ctx.gang.bind out }).past 4)) ∧
    (s.thr ≠ 0 → exec .detach s = .next (trapEntry 11 (w0 .detach) s) ∧
      exec .rejoin s = .next (trapEntry 11 (w0 .rejoin) s))) ∧
  (∀ s : State, s.thr = 0 → s.th.stall = none →
    (s.ctx.gang = none → exec .rejoin s = .next (s.setTh (s.th.past 4))) ∧
    ∀ g, s.ctx.gang = some g →
      let u := s.setCtx { s.ctx with gang := some { g with rejoins := g.rejoins + 1 } }
      (g.leader = true ∨ g.attached = true ∨ g.rejoins + 1 ≤ g.seen → exec .rejoin s = .next (u.setTh (s.th.past 4))) ∧
      (g.leader = false → g.attached = false → g.seen < g.rejoins + 1 →
        exec .rejoin s = .next (u.setTh { s.th with stall := some ⟨4, 0, .rejoin (g.rejoins + 1)⟩ }))) ∧
  (∀ (s : State) (core : Nat) (g : Gang) (e : Fwd) (rest : List Fwd), (s.core core).run.gang = some g → g.lane = e :: rest → e.due ≤ s.now →
    g.attached = true → g.leader = false → g.dissolved = false → ∃ t, exec (.forwardArrival core) s = .next t ∧ SameMemory s t ∧
      (g.buffer.length < 16 → (t.core core).run.gang = some { g with lane := rest, seen := e.rejoins, buffer := g.buffer ++ [e] }) ∧
      (16 ≤ g.buffer.length → (t.core core).run.lag = true ∧
        (t.core core).run.gang = some { g with lane := rest, seen := e.rejoins, attached := false, buffer := [], held := none } ∧
        let pc := ((g.buffer.head?).getD e).pc
        let h := (s.core core).run.thread 0
        (t.core core).run.thread 0 = if h.stall.isSome then { h with after := some pc } else { h with pc := pc })) ∧
  (∀ (s : State) (core : Nat) (g : Gang) (e : Fwd) (rest : List Fwd) (len : Nat) (rd : SReg) (f : Nat),
    (s.core core).run.gang = some g → g.lane = e :: rest → e.due ≤ s.now → g.attached = false →
    ((s.core core).run.thread 0).stall = some ⟨len, rd, .rejoin f⟩ → ∃ t, exec (.forwardArrival core) s = .next t ∧ SameMemory s t ∧
      (e.rejoins = f → (t.core core).run.gang = some { g with lane := rest, seen := f, attached := true } ∧
        (t.core core).run.thread 0 = { (s.core core).run.thread 0 with pc := e.next, stall := none }) ∧
      (e.rejoins ≠ f → (t.core core).run.gang = some { g with lane := rest, seen := e.rejoins } ∧
        (t.core core).run.thread 0 = (s.core core).run.thread 0))

/-- R98–R101, R103: BAR, BANY, BALL and SIGNAL arrive at the current instance of their level once the thread's earlier accesses are
done; BAR and the votes wait for its release, SIGNAL does not; outside a gang the gang level completes at once and a vote is its own
result; after the release BAR passes and a vote answers the result; a second
SIGNAL waits for the release. A level is released when every participant has arrived; at the release of a vote every member receives 1 if any
(BANY) or every (BALL) participant voted 1 with the leader's instruction, and 0 otherwise; at a release of the gang level every follower
attaches, one that was detached, or has executed all that was forwarded to it, with the leader's REJOIN count. -/
def Obligations.Barriers : Prop :=
  let w0 (i : Instr) : W64 := ((encode i).headD 0).setWidth 64
  let arrives (i : Instr) (s : State) (lv : Level) (v : Option (Bool × Bool)) (rd : SReg) : Prop :=
    let b := s.ctx.bar lv
    (b.owed = none → s.mayArrive = true → ∃ t, exec i s = .next t ∧
      t.ctx.bar lv = { b with owed := some b.inst, vote := v } ∧ t.th = { s.th with stall := some ⟨4, rd, .bar lv b.inst⟩ } ∧
      SameMemory s t) ∧
    (∀ n, b.owed = some n → b.inst ≤ n → s.th.stall = none →
      exec i s = .next (s.setTh { s.th with stall := some ⟨4, rd, .bar lv n⟩ }))
  (∀ (s : State) (lv : Level), s.thr = 0 →
    (s.ctx.inGang = false → exec (.bar .gang) s = .next (s.setTh (s.th.past 4))) ∧
    (lv ≠ .gang ∨ s.ctx.inGang = true → arrives (.bar lv) s lv none 0 ∧
      ∀ n, (s.ctx.bar lv).owed = some n → n < (s.ctx.bar lv).inst → lv ≠ .gang ∨ (s.ctx.bar lv).vote = none →
        ∃ t, exec (.bar lv) s = .next t ∧ t.th = s.th.past 4 ∧ (t.ctx.bar lv).owed = none ∧
          (t.ctx.bar lv).inst = (s.ctx.bar lv).inst)) ∧
  (∀ (s : State) (lv : Level), s.thr ≠ 0 → exec (.bar lv) s = .next (trapEntry 11 (w0 (.bar lv)) s)) ∧
  (∀ (s : State) (rd ra : SReg), s.has [ra, rd] = true →
    let own : W64 := if s.reg ra = 0 then 0 else 1
    (s.thr ≠ 0 ∨ s.ctx.inGang = false → GivesNow (.bany rd ra) s 4 rd own ∧ GivesNow (.ball rd ra) s 4 rd own) ∧
    (s.thr = 0 → s.ctx.inGang = true →
      arrives (.bany rd ra) s .gang (some (true, s.reg ra != 0)) rd ∧
      arrives (.ball rd ra) s .gang (some (false, s.reg ra != 0)) rd ∧
      ∀ n r, s.ctx.barGang.owed = some n → n < s.ctx.barGang.inst →
        (s.ctx.barGang.vote = some (true, r) → ∃ t, exec (.bany rd ra) s = .next t ∧
          t.th = (s.th.setReg rd (if r then 1 else 0)).past 4 ∧ t.ctx.barGang.owed = none) ∧
        (s.ctx.barGang.vote = some (false, r) → ∃ t, exec (.ball rd ra) s = .next t ∧
          t.th = (s.th.setReg rd (if r then 1 else 0)).past 4 ∧ t.ctx.barGang.owed = none))) ∧
  (∀ (s : State) (ra : SReg) (lv : Level), s.has [ra] = true →
    (s.reg ra = lv.toBits.setWidth 64 → s.thr = 0 →
      (lv = .gang → s.ctx.inGang = false → exec (.signal ra) s = .next (s.setTh (s.th.past 4))) ∧
      (lv ≠ .gang ∨ s.ctx.inGang = true → (s.ctx.bar lv).owed = some (s.ctx.bar lv).inst → s.th.stall = none →
        exec (.signal ra) s = .next (s.setTh { s.th with stall := some ⟨4, 0, .signal lv (s.ctx.bar lv).inst⟩ })) ∧
      (lv ≠ .gang ∨ s.ctx.inGang = true → (s.ctx.bar lv).owed ≠ some (s.ctx.bar lv).inst → s.mayArrive = true → ∃ t, exec (.signal ra) s = .next t ∧
        t.ctx.bar lv = { s.ctx.bar lv with owed := some (s.ctx.bar lv).inst, vote := none } ∧ t.th = s.th.past 4 ∧
        SameMemory s t)) ∧
    (2 < (s.reg ra).toNat ∨ s.thr ≠ 0 → exec (.signal ra) s = .next (trapEntry 11 (w0 (.signal ra)) s))) ∧
  (∀ (s : State) (launch leader : Nat) (lv : Level),
    let cs := s.participants launch lv leader
    (∀ c ∈ cs, ∀ x, s.image c launch = some x → x.atBarrier lv = true) → cs ≠ [] → cs.Nodup →
    ∃ t, exec (.barrierRelease launch lv leader) s = .next t ∧ SameMemory s t ∧
      ∀ c ∈ cs, ∀ x, s.image c launch = some x → ∃ y, t.image c launch = some y ∧
        (y.bar lv).inst = (x.bar lv).inst + 1 ∧ (y.bar lv).owed = (x.bar lv).owed ∧
        (lv ≠ .gang → (y.bar lv).vote = none ∧ y.gang = x.gang) ∧
        ∀ z, lv = .gang → s.image leader launch = some z →
          (z.barGang.vote = none → y.barGang.vote = none) ∧
          (∀ any b, z.barGang.vote = some (any, b) → ∃ r, y.barGang.vote = some (any, r) ∧
            (any = true → (r = true ↔ ∃ d ∈ cs, ∃ u, s.image d launch = some u ∧ u.barGang.vote = some (true, true))) ∧
            (any = false → (r = true ↔ ∀ d ∈ cs, ∀ u, s.image d launch = some u → u.barGang.vote = some (false, true)))) ∧
          (x.gang = none → y.gang = none) ∧
          ∀ g, x.gang = some g → ∃ h, y.gang = some h ∧ (g.leader = true → h = g) ∧
            (g.leader = false → h.attached = true ∧
              (g.attached = false ∨ (g.buffer = [] ∧ g.lane = []) →
                h.rejoins = ((z.gang.map (·.rejoins)).getD 0) ∧ h.seen = h.rejoins)))

/-- R104, R66: PHASEC and PHASEX set the phase and start `phcyc` at 0; WAITC stalls while `phcyc` is below its operand, and its event
completes it once `phcyc` has reached that value. -/
def Obligations.Phases : Prop :=
  let sets (i : Instr) (s : State) (p : Phase) : Prop :=
    ∃ t, exec i s = .next t ∧ t.th = s.th.past 4 ∧ t.ctx.phase = p ∧ t.csr .phcyc = 0 ∧ SameMemory s t ∧
      { t.ctx with phase := s.ctx.phase, phcyc := s.ctx.phcyc, threads := s.ctx.threads } = s.ctx
  let waits (i : Instr) (s : State) (len : Nat) (v : W64) : Prop :=
    (v.toNat ≤ (s.csr .phcyc).toNat → s.th.stall = none → exec i s = .next (s.setTh (s.th.past len))) ∧
    ((s.csr .phcyc).toNat < v.toNat → s.th.stall = none →
      exec i s = .next (s.setTh { s.th with stall := some ⟨len, 0, .waitc v⟩ }))
  (∀ s : State, sets .phasec s .compute ∧ sets .phasex s .exchange) ∧
  (∀ (s : State) (rb : SReg) (lit : W64), (s.has [rb] = true → waits (.waitc rb) s 4 (s.reg rb)) ∧ waits (.waitcLit lit) s 12 lit) ∧
  (∀ (s : State) (c : Nat) (n : Fin 11) (len : Nat) (rd : SReg) (v : W64),
    ((s.core c).run.thread n).stall = some ⟨len, rd, .waitc v⟩ →
    v.toNat ≤ (csrValue s.now c (s.core c) true (s.core c).run .phcyc).toNat →
    exec (.waitcExpiry c n.val) s =
      .next (s.setCore c { s.core c with run := (s.core c).run.setThread n (((s.core c).run.thread n).past len) }))

/-! ## Remote registers, streams and messages (R119–R123) -/

/-- R119, R120, R123: RSET and MSG put a packet for a target inside the spread on its way and wait; a wrong target raises cause 10. The
arriving write fills a receivable register, or else a place in the inbox, and is refused when that is full; the message enters the queue of
16 or is refused. The sender goes on when the acceptance reaches it; a refused packet is sent
again, behind what has been sent since. An answer comes behind what its sender has sent to the same core before, data of loads and answers (R306);
one to a core that a reset has covered since, or of an old incarnation, is dropped and counted (R315, R334). MSGRD takes the oldest message. What a core's threads send to one target is delivered in the order
of sending, the entries of a stream among it (R306), not into a die or rectangle under reset (R315, R334); where no route to the target, or back, remains
the answer is an error (R313).
R121: PCLR clears a presence bit and applies the oldest inbox entry for the register in the same step; PSET sets the bit; PTST reads
it, `s0` reading 1; with `s0` as the index PCLR and PSET do nothing. -/
def Obligations.RemoteWritesAndMessages : Prop :=
  (let target (a : W64) : Nat := (a.extractLsb' 0 12).toNat
   let value (i : Instr) (a : W64) : W64 := (a.extractLsb' 0 12 ++ (encode i).headD 0 : BitVec 44).setWidth 64
   let good (s : State) (c : Nat) : Prop := c < 2048 ∧ s.inSpread s.ctx.launch c = true ∧ s.cutOff (dieOf s.focus) (dieOf c) = false
   let sends (i : Instr) (s : State) (len : Nat) (m : Bool) (a : W64) (thr : Nat) (idx : SReg) (v : W64) : Prop :=
     exec i s = .next (({ s with seq := s.seq + 1, packets := s.packets ++ [⟨m, s.focus, s.thr.val, s.ctx.launch, s.ctx.ctxid,
       target a, thr, idx, v, (encode i).headD 0, s.now, s.seq, .flying, none, (s.die (dieOf s.focus)).inc, false⟩] } : State).setTh
       { s.th with stall := some ⟨len, 0, .packet⟩ })
   let rsets (i : Instr) (s : State) (len : Nat) (a : W64) (idx : SReg) (v : W64) : Prop :=
     (s.ctx.phase = .compute → s.th.stall = none → exec i s = .next (trapEntry 6 (((encode i).headD 0).setWidth 64) s)) ∧
     (s.ctx.phase = .exchange → s.th.stall = none →
       (a.toNat < 65536 → (a.extractLsb' 12 4).toNat ≤ 10 → good s (target a) →
         sends i s len false a (a.extractLsb' 12 4).toNat idx v) ∧
       (65536 ≤ a.toNat ∨ 10 < (a.extractLsb' 12 4).toNat ∨ 2048 ≤ target a ∨ s.inSpread s.ctx.launch (target a) = false →
         exec i s = .next (trapEntry 10 (value i a) s)))
   let msgs (i : Instr) (s : State) (len : Nat) (a : W64) (v : W64) : Prop :=
     s.ctx.phase = .exchange → s.th.stall = none →
       (a.toNat < 4096 → good s (target a) → s.hasEnded (target a) s.ctx.launch = false → sends i s len true a 0 0 v) ∧
       (a = 0x800 → s.ctx.mode = .supervisor → sends i s len true a 0 0 v) ∧
       (a = 0x800 ∧ s.ctx.mode = .user ∨ 4096 ≤ a.toNat ∨ 2048 < target a ∨
         target a < 2048 ∧ (s.inSpread s.ctx.launch (target a) = false ∨ s.hasEnded (target a) s.ctx.launch = true) →
         exec i s = .next (trapEntry 10 (value i a) s))
   (∀ (s : State) (idx : SReg) (ra rb : SReg) (lit : W64),
     (s.has [ra, rb] = true → rsets (.rset idx ra rb) s 4 (s.reg ra) idx (s.reg rb) ∧ msgs (.msg ra rb) s 4 (s.reg ra) (s.reg rb)) ∧
     (s.has [ra] = true → rsets (.rsetLit idx ra lit) s 12 (s.reg ra) idx lit ∧ msgs (.msgLit ra lit) s 12 (s.reg ra) lit)) ∧
   (∀ (s : State) (rd : SReg), s.has [rd] = true → s.ctx.phase = .exchange →
     (∀ v rest, s.ctx.msgq = v :: rest →
       exec (.msgrd rd) s = .next ((s.setCtx { s.ctx with msgq := rest }).setTh ((s.th.setReg rd v).past 4))) ∧
     (s.ctx.msgq = [] → s.th.stall = none → exec (.msgrd rd) s = .next (s.setTh { s.th with stall := some ⟨4, rd, .retry⟩ }))) ∧
   let answered (s : State) (p : Packet) (a : PacketState) : Packet := { p with state := a, sent := s.now, seq := s.seq }
   let comes (s : State) (p : Packet) : Prop :=
     p.core < 2048 ∧ (s.image p.core p.launch).isSome ∧ p.lost = false ∧ p.inc8 = (s.die (dieOf p.core)).inc
   (∀ (s : State) (m : Bool) (c n : Nat) (p : Packet), s.arriving m c = some (n, p) →
     s.packets[n]? = some p ∧ p.state = .flying ∧ p.nacked = none ∧ s.routeHeld (dieOf p.core) (dieOf c) = false ∧
     s.now ≥ (s.die (dieOf c)).resetEnd ∧ s.fenced c = false ∧
     (∀ j < n, ∀ q, s.packets[j]? = some q → q.core = p.core → q.target = c → q.state ≠ .flying) ∧
     (∀ t l, (s.core c).port.owner = some (p.core, t, l) → ∀ e ∈ (s.core c).port.flying, p.seq ≤ e.1) ∧
     let arrives : Instr := if m then .messageArrival c else .remoteWriteArrival c
     (s.cutOff (dieOf p.core) (dieOf c) = true → comes s p →
       exec arrives s = .next { s with seq := s.seq + 1, packets := s.packets.set n (answered s p .error) }) ∧
     (p.core < 2048 → ¬ comes s p → ∃ t, exec arrives s = .next t ∧ t.packets = s.packets.eraseIdx n ∧
       (t.die (dieOf p.core)).stale.toNat = min (2 ^ 24 - 1) ((s.die (dieOf p.core)).stale.toNat + 1))) ∧
   (∀ (s : State) (c n : Nat) (p : Packet) (x : Ctx), s.arriving false c = some (n, p) → comes s p → s.cutOff (dieOf p.core) (dieOf c) = false → s.ctxOf c p.launch = some x →
     let h := x.thread (thrOf p.tthr)
     let ends (a : PacketState) (t : State) : Prop := exec (.remoteWriteArrival c) s = .next t ∧
       t.packets = s.packets.set n (answered s p a) ∧ SameMemory s t
     (h.live = false → ∃ t, ends .error t ∧ t.cores = s.cores) ∧
     (h.live = true → p.idx ≠ 0 →
       let free := h.receivable p.idx && !(x.inbox.any fun e => e.thr == (thrOf p.tthr).val && e.idx == p.idx)
       (free = true → ∃ t y, ends .accepted t ∧ t.ctxOf c p.launch = some y ∧ (y.thread (thrOf p.tthr)).reg p.idx = p.val ∧
         (y.thread (thrOf p.tthr)).has p.idx = true ∧ y.inbox = x.inbox) ∧
       (free = false → x.inbox.length < 8 → ∃ t y, ends .accepted t ∧ t.ctxOf c p.launch = some y ∧
         y.inbox = x.inbox ++ [⟨(thrOf p.tthr).val, p.idx, p.val⟩] ∧ y.threads = x.threads) ∧
       (free = false → 8 ≤ x.inbox.length → ∃ t, ends .refused t ∧ t.cores = s.cores))) ∧
   (∀ (s : State) (c n : Nat) (p : Packet) (x : Ctx), s.arriving true c = some (n, p) → c ≠ 0x800 → comes s p → s.cutOff (dieOf p.core) (dieOf c) = false → s.ctxOf c p.launch = some x →
     let ends (a : PacketState) (t : State) : Prop := exec (.messageArrival c) s = .next t ∧
       t.packets = s.packets.set n (answered s p a) ∧ SameMemory s t
     (x.ended = true → ∃ t, ends .error t) ∧
     (x.ended = false → x.msgq.length < 16 → ∃ t y, ends .accepted t ∧ t.ctxOf c p.launch = some y ∧ y.msgq = x.msgq ++ [p.val]) ∧
     (x.ended = false → 16 ≤ x.msgq.length → ∃ t, ends .refused t ∧ t.cores = s.cores)) ∧
   (∀ (s : State) (c : Nat) (k : Fin 11) (n : Nat) (p : Packet) (st : Stall), ((s.core c).run.thread k).stall = some st →
     let past (t : State) : Prop := (t.core c).run.thread k = ((s.core c).run.thread k).past st.len ∧ t.packets = s.packets.eraseIdx n ∧
       SameMemory s t
     p.state = .accepted → s.cutOff (dieOf p.target) (dieOf c) = false → s.answerHeld p = false →
     (s.packetOf false c k.val = some (n, p) → ∃ t, exec (.rsetAcceptance c k.val) s = .next t ∧ past t) ∧
     (s.packetOf true c k.val = some (n, p) → ∃ t, exec (.msgRetry c k.val) s = .next t ∧ past t)) ∧
   (∀ (s : State) (c k n : Nat) (p : Packet) (m : Bool), s.packetOf m c k = some (n, p) →
     let cut : Prop := s.cutOff (dieOf p.target) (dieOf c) = true
     let back : Instr := if m then .msgRetry c k else if p.state = .refused then .rsetRetry c k else .rsetAcceptance c k
     (cut ∧ (p.state = .accepted ∨ p.state = .refused) ∨ p.state = .error ∧ (cut ∨ s.answerHeld p = false) →
       exec back s = .next (trapOn c k 10 ((BitVec.ofNat 12 p.target ++ p.w0).setWidth 64) { s with packets := s.packets.eraseIdx n })) ∧
     (¬ cut → s.answerHeld p = true → exec back s = .next s)) ∧
   (∀ (s : State) (p : Packet), s.answerHeld p = false ↔ s.routeHeld (dieOf p.target) (dieOf p.core) = false ∧
     (clusterOf p.target = clusterOf p.core ∨
       (∀ l ∈ s.locals, l.from_ = p.target → l.core = p.core → p.seq ≤ l.seq) ∧
       ∀ q ∈ s.packets, q.target = p.target → q.core = p.core → q.state ≠ .flying → (s.core p.core).run.of q.launch = true → p.seq ≤ q.seq)) ∧
   (∀ (s : State) (c k n : Nat) (p : Packet), p.state = .refused → s.cutOff (dieOf p.target) (dieOf c) = false → s.answerHeld p = false →
     let again (i : Instr) : Prop := exec i s = .next
       { s with seq := s.seq + 1, packets := s.packets.eraseIdx n ++ [{ p with state := .flying, sent := s.now, seq := s.seq }] }
     (s.packetOf false c k = some (n, p) → again (.rsetRetry c k)) ∧ (s.packetOf true c k = some (n, p) → again (.msgRetry c k)))) ∧
  (∀ (s : State) (idx rd : SReg),
     (exec (.pclr 0) s = .next (s.setTh (s.th.past 4)) ∧ exec (.pset 0) s = .next (s.setTh (s.th.past 4))) ∧
     (s.has [rd] = true → GivesNow (.ptst rd idx) s 4 rd (if idx = 0 ∨ s.th.present.getLsbD idx.toNat = true then 1 else 0)) ∧
     (idx ≠ 0 → s.th.pending.getLsbD idx.toNat = false →
       exec (.pset idx) s = .next (s.setTh ({ s.th with present := s.th.present ||| BitVec.twoPow 32 idx.toNat }.past 4)) ∧
       ((∀ e ∈ s.ctx.inbox, ¬(e.thr = s.thr.val ∧ e.idx = idx)) → ∃ t, exec (.pclr idx) s = .next t ∧ t.th.has idx = false ∧
         t.ctx.inbox = s.ctx.inbox ∧ OnlyRegs [idx] s t ∧ OnlyThread s t) ∧
       (∀ (l r : List InboxEntry) (v : W64), s.ctx.inbox = l ++ ⟨s.thr.val, idx, v⟩ :: r →
         (∀ e ∈ l, ¬(e.thr = s.thr.val ∧ e.idx = idx)) → ∃ t, exec (.pclr idx) s = .next t ∧ t.th.has idx = true ∧
           t.reg idx = v ∧ t.ctx.inbox = l ++ r ∧ OnlyRegs [idx] s t ∧ SameMemory s t)) ∧
     (idx ≠ 0 → s.th.pending.getLsbD idx.toNat = true → exec (.pclr idx) s = .next { s with waiting := true } ∧
       exec (.pset idx) s = .next { s with waiting := true }))


/-- R122: SOPEN lines up at the target's port; a free port goes to the first in line, whose SOPEN completes; SPUT and SCLOSE send an entry
on the open stream unless 16 are there; that cause 11 comes before cause 6 for SOPEN, SPUT and SCLOSE is the model's choice (log 64). The
entries arrive in order, each after what its sender sent to the core before it (R306); SGET takes the oldest, in the order in which a core's SGETs have
issued, and the marker gives the number of data entries and frees the port. No SOPEN is granted into a rectangle under reset (R334). -/
def Obligations.Streams : Prop :=
  let w0 (i : Instr) : W64 := ((encode i).headD 0).setWidth 64
  let sends (i : Instr) (s : State) (len : Nat) (e : StreamEntry) (more : Bool) : Prop :=
    (s.th.stream = none → exec i s = .next (trapEntry 11 (w0 i) s)) ∧
    ∀ o, s.th.stream = some o → s.ctx.phase = .exchange →
      ((s.core o.target).port.flying.length + (s.core o.target).port.fifo.length < 16 → ∃ t, exec i s = .next t ∧ SameMemory s t ∧
        (t.core o.target).port.flying = (s.core o.target).port.flying ++ [(s.seq, e)] ∧ t.seq = s.seq + 1 ∧
        t.th = { s.th with stream := if more then some ⟨o.target, o.count + 1⟩ else none }.past len) ∧
      (16 ≤ (s.core o.target).port.flying.length + (s.core o.target).port.fifo.length → s.th.stall = none →
        exec i s = .next (s.setTh { s.th with stall := some ⟨len, 0, .retry⟩ }))
  (∀ (s : State) (ra : SReg), s.has [ra] = true →
    (s.th.stream ≠ none → exec (.sopen ra) s = .next (trapEntry 11 (w0 (.sopen ra)) s)) ∧
    (s.th.stream = none → s.ctx.phase = .exchange → s.th.stall = none → (s.reg ra).toNat < 4096 →
      let c := (s.reg ra).toNat
      dieOf c = dieOf s.focus → s.inSpread s.ctx.launch c = true → s.hasEnded c s.ctx.launch = false →
      ∃ t, exec (.sopen ra) s = .next t ∧ t.th = { s.th with stall := some ⟨4, 0, .port⟩ } ∧ SameMemory s t ∧
        (t.core c).port.line = (s.core c).port.line ++ [(s.focus, s.thr.val, s.ctx.launch)])) ∧
  (∀ (s : State) (c d l : Nat) (n : Fin 11) (rest : List (Nat × Nat × Nat)) (x : Ctx), (s.core c).port.owner = none →
    (s.core c).port.line = (d, n.val, l) :: rest → s.ctxOf d l = some x →
    (s.fenced c = true → exec (.streamPortGrant c) s = .next s) ∧ (s.fenced c = false → ∃ t y, exec (.streamPortGrant c) s = .next t ∧ SameMemory s t ∧ t.ctxOf d l = some y ∧
      y.thread n = { x.thread n with stream := some ⟨c, 0⟩ }.past 4 ∧ (t.core c).port.owner = some (d, n.val, l) ∧
      (t.core c).port.line = rest)) ∧
  (∀ (s : State) (c n : Nat) (e : StreamEntry) (rest : List (Nat × StreamEntry)), (s.core c).port.flying = (n, e) :: rest →
    let ahead := ∃ p ∈ s.packets, (∃ t l, (s.core c).port.owner = some (p.core, t, l)) ∧ p.target = c ∧ p.state = .flying ∧ p.seq < n
    (ahead → exec (.streamEntryArrival c) s = .next s) ∧
    (¬ ahead → (s.core c).port.fifo.length < 16 → ∃ t, exec (.streamEntryArrival c) s = .next t ∧ SameMemory s t ∧
      (t.core c).port.flying = rest ∧ (t.core c).port.fifo = (s.core c).port.fifo ++ [e])) ∧
  (∀ (s : State) (rb : SReg) (lit : W64), (s.has [rb] = true → sends (.sput rb) s 4 (.data (s.reg rb)) true) ∧
    sends (.sputLit lit) s 12 (.data lit) true ∧ sends .sclose s 4 .close false) ∧
  (∀ (s : State) (rd : SReg), s.has [rd] = true → s.ctx.phase = .exchange → s.ownPort = true →
    let first := s.cur.port.takers.head?.all (· == s.thr.val) = true
    (first → ∀ v rest, s.cur.port.fifo = .data v :: rest → ∃ t, exec (.sget rd) s = .next t ∧ t.th = (s.th.setReg rd v).past 4 ∧
      t.cur.port = { s.cur.port with fifo := rest, taken := s.cur.port.taken + 1, takers := s.cur.port.takers.filter (· != s.thr.val) } ∧ SameMemory s t) ∧
    (first → ∀ rest, s.cur.port.fifo = .close :: rest → ∃ t, exec (.sget rd) s = .next t ∧ SameMemory s t ∧
      t.th = (s.th.setReg rd (BitVec.ofNat 64 s.cur.port.taken)).past 4 ∧ t.cur.port.owner = none ∧
      t.cur.port.line = s.cur.port.line) ∧
    (s.cur.port.fifo = [] ∨ ¬ first → s.th.stall = none → ∃ t, exec (.sget rd) s = .next t ∧
      t.th = { s.th with stall := some ⟨4, rd, .retry⟩ } ∧ s.thr.val ∈ t.cur.port.takers ∧ SameMemory s t))

/-! ## Special registers, traps and the system group (R65–R72, R105–R107, R337) -/

/-- R105, R106: CSRR answers the register's value, which waits for earlier vector instructions (`fflags`) and shared loads (`xstat`); CSRW,
CSRS and CSRC write it, set bits and clear bits, each in the fields that may be written; in user mode the registers that R52 reserves raise
cause 2. Every other special register keeps its value. -/
def Obligations.SpecialRegisters : Prop :=
  let w0 (i : Instr) : W64 := ((encode i).headD 0).setWidth 64
  let plain (c : Csr) : Prop := c = .xpc ∨ c = .xval ∨ c = .phcyc ∨ c = .cyc
  let low (c : Csr) : Nat := match c with
    | .ctxid | .mtiles => 16 | .vshare | .mshare => 4 | .accmode => 1 | .fflags => 5 | .logcap => 32 | .xcause => 12 | _ => 0
  (∀ (s : State) (rd : SReg) (c : Csr), s.has [rd] = true →
    (s.ctx.mode = .user → c = .xpc ∨ c = .xcause ∨ c = .xval ∨ c = .vshare ∨ c = .mshare ∨ c = .logcap ∨ c = .sigctl ∨ c = .snapctl →
      exec (.csrr rd c) s = .next (trapEntry 2 (w0 (.csrr rd c)) s)) ∧
    (s.ctx.mode = .supervisor ∨ c = .xstat ∨ c = .ctxid ∨ c = .coord ∨ c = .cyc ∨ c = .ptime ∨ c = .phcyc ∨ c = .mtiles ∨ c = .accmode ∨
        c = .frm ∨ c = .fflags ∨ c = .logstat →
      (c ≠ .fflags → c ≠ .xstat → GivesNow (.csrr rd c) s 4 rd (s.csr c)) ∧
      (c = .fflags → s.th.stall = none → s.xvLeft s.seq = false → GivesNow (.csrr rd c) s 4 rd (s.csr c)) ∧
      (c = .fflags → s.th.stall = none → s.xvLeft s.seq = true →
        exec (.csrr rd c) s = .next (s.setTh { s.th with stall := some ⟨4, 0, .seq s.seq⟩ })) ∧
      (c = .xstat → s.th.stall = none → s.loadsLeft s.seq = false → GivesNow (.csrr rd c) s 4 rd (s.csr c)) ∧
      (c = .xstat → s.th.stall = none → s.loadsLeft s.seq = true →
        exec (.csrr rd c) s = .next (s.setTh { s.th with stall := some ⟨4, 0, .seq s.seq⟩ })))) ∧
  (∀ (s : State) (c : Csr) (ra : SReg), s.has [ra] = true →
    (s.ctx.mode = .user → ¬(c = .coord ∨ c = .ptime ∨ c = .xstat ∨ c = .accmode ∨ c = .frm ∨ c = .fflags) →
      exec (.csrw c ra) s = .next (trapEntry 2 (w0 (.csrw c ra)) s) ∧ exec (.csrs c ra) s = .next (trapEntry 2 (w0 (.csrs c ra)) s) ∧
      exec (.csrc c ra) s = .next (trapEntry 2 (w0 (.csrc c ra)) s)) ∧
    (s.ctx.mode = .supervisor ∨ c = .coord ∨ c = .ptime ∨ c = .xstat ∨ c = .accmode ∨ c = .frm ∨ c = .fflags →
      ∀ i v, (i = .csrw c ra ∧ v = s.reg ra ∨ i = .csrs c ra ∧ v = s.csr c ||| s.reg ra ∨ i = .csrc c ra ∧ v = s.csr c &&& ~~~s.reg ra) →
        ∃ t, exec i s = .next t ∧ t.th = s.th.past 4 ∧ SameMemory s t ∧ (∀ d, d ≠ c → t.csr d = s.csr d) ∧
          (plain c → t.csr c = v) ∧ (0 < low c → t.csr c = (v.toNat % 2 ^ low c : Nat)) ∧
          (c = .coord ∨ c = .ptime ∨ c = .logstat → t.csr c = s.csr c) ∧
          (c = .frm → t.ctx.ftz = v.getLsbD 3 ∧ t.ctx.frm = if v.getLsbD 2 then s.ctx.frm else v.extractLsb' 0 2) ∧
          (c = .xstat → ∀ j, (t.csr c).getLsbD j = ((s.csr c).getLsbD j && (i == .csrs c ra || !(s.reg ra).getLsbD j))) ∧
          (c = .sigctl → t.ctx.sigBase = v.extractLsb' 32 32 ∧ t.ctx.sigCount = v.extractLsb' 16 16 ∧ t.ctx.sigEn = v.getLsbD 0) ∧
          (c = .snapctl → t.ctx.snapEvent = v.extractLsb' 8 8 ∧ t.ctx.snapArm = v.getLsbD 0 ∧
            t.ctx.snapFired = (s.ctx.snapFired && (i == .csrs c ra || !(s.reg ra).getLsbD 1)))))

/-- R70: taking a trap outside a handler saves the PC, the cause with the thread's number, the value and the mode, and goes on in supervisor
mode at `tvec` with further traps inhibited; the phase and every register are as before; no thread's block
is checked on (R72). TRAP (R107) takes cause 9 with RA's value.
R71, R107: in a handler RTE restores the mode, clears `inh` and sends the thread that trapped to `xpc`; in user mode it raises cause 2
and outside a handler cause 11. A trap followed by RTE brings mode, PC and registers back.
R72: a synchronous trap while `inh` is 1 ends the context with status 3 (double trap), when another core of the launch still
runs; no handler runs. The second word accesses of its issued instructions (R114) are made. -/
def Obligations.TrapsAndReturns : Prop :=
  (∀ (s : State) (cause : BitVec 8) (val : W64), s.ctx.inh = false →
     let t := trapEntry cause val s
     t.csr .xpc = s.th.pc ∧ t.csr .xcause = (BitVec.ofNat 4 s.thr.val ++ cause : BitVec 12).setWidth 64 ∧ t.csr .xval = val ∧
     t.ctx.pmode = s.ctx.mode ∧ t.ctx.mode = .supervisor ∧ t.ctx.inh = true ∧ t.ctx.tthr = BitVec.ofNat 4 s.thr.val ∧
     t.th.pc = s.ctx.tvec.setWidth 64 ∧ t.ctx.phase = s.ctx.phase ∧ t.th.regs = s.th.regs ∧ t.th.present = s.th.present ∧
     (∀ n, n ≠ s.thr → t.ctx.thread n = { s.ctx.thread n with sig := none }) ∧ SameMemory s t ∧
     (∀ ra, s.has [ra] = true → exec (.trap ra) s = .next (trapEntry 9 (s.reg ra) s))) ∧
  ((∀ s : State, let w0 : W64 := ((encode .rte).headD 0).setWidth 64
     (s.ctx.mode = .user → s.th.stall = none → exec .rte s = .next (trapEntry 2 w0 s)) ∧
     (s.ctx.mode = .supervisor → s.ctx.inh = false → exec .rte s = .next (trapEntry 11 w0 s)) ∧
     (s.ctx.mode = .supervisor → s.ctx.inh = true → ∀ n : Fin 11, s.ctx.tthr = BitVec.ofNat 4 n.val →
       ∃ t, exec .rte s = .next t ∧ t.ctx.mode = s.ctx.pmode ∧ t.ctx.inh = false ∧ t.ctx.thread n =
         { s.ctx.thread n with pc := s.ctx.xpc, stall := none } ∧ (∀ m, m ≠ n → t.ctx.thread m = s.ctx.thread m) ∧
         SameMemory s t)) ∧
   (∀ (s : State) (cause : BitVec 8) (val : W64), s.ctx.inh = false → ∃ t, exec .rte (trapEntry cause val s) = .next t ∧
     t.ctx.mode = s.ctx.mode ∧ t.ctx.inh = false ∧ t.th.pc = s.th.pc ∧ t.th.regs = s.th.regs)) ∧
  (∀ (s : State) (cause : BitVec 8) (val : W64) (l : Launch), s.ctx.inh = true → s.ctx.resident = true →
     s.launch? s.ctx.launch = some l → (∃ c x, c ∈ l.cores ∧ c ≠ s.focus ∧ s.image c s.ctx.launch = some x ∧ x.ended = false) →
     let t := trapEntry cause val s
     t.ctx.ended = true ∧ (∀ n, (t.ctx.thread n).live = false) ∧ SameMemory (s.makeHalves fun c _ _ => c == s.focus) t ∧
       ∃ m, t.launch? s.ctx.launch = some m ∧ m.status = max l.status 3)


/-- R107, R65, R91: WFI stalls until a wake event after its issue or a notice; IFENCE discards both halves of the buffer, and the
thread issues again four cycles later (R80); TLBI removes the
entries that cover its address from the core's TLB and the cluster's shared TLB; HALT ends the context once its conditions hold, its threads' second word accesses made (R114), and
stalls until then, and CONTEXT_END ends it then. The supervisor instructions raise cause 2 in user mode, HALT in a helper cause 11. -/
def Obligations.SystemGroup : Prop :=
  let w0 (i : Instr) : W64 := ((encode i).headD 0).setWidth 64
  (∀ s : State,
    (s.ctx.mode = .user → s.th.stall = none → exec .wfi s = .next (trapEntry 2 (w0 .wfi) s) ∧
      ∀ ra, s.has [ra] = true → exec (.tlbi ra) s = .next (trapEntry 2 (w0 (.tlbi ra)) s)) ∧
    (s.ctx.mode = .supervisor →
      (s.ctx.notice ≠ 0 → s.th.stall = none → exec .wfi s = .next (s.setTh (s.th.past 4))) ∧
      (s.ctx.notice = 0 → s.th.stall = none →
        exec .wfi s = .next (s.setTh { s.th with stall := some ⟨4, 0, .wfi s.ctx.wakes⟩ })) ∧
      (∀ len rd n, s.th.stall = some ⟨len, rd, .wfi n⟩ → n < s.ctx.wakes ∨ s.ctx.notice ≠ 0 →
        exec .wfi s = .next (s.setTh (s.th.past 4))) ∧
      (∀ ra, s.has [ra] = true → ∃ t, exec (.tlbi ra) s = .next t ∧ t.th = s.th.past 4 ∧ SameMemory s t ∧
        ((s.reg ra).toNat < 2 ^ 48 → t.cur.tlb.entries = s.cur.tlb.entries.filter (fun e => !e.2.covers (s.reg ra).toNat) ∧
          ∀ set, (PMap.get (t.cluster s.clu).sharedTlb set Tlb.reset).entries =
            (PMap.get (s.cluster s.clu).sharedTlb set Tlb.reset).entries.filter fun e => !e.2.covers (s.reg ra).toNat))) ∧
    exec .ifence s = .next (s.setTh
      { s.th with pc := s.th.pc + 4, stall := none, ibSeq := ⟨0, []⟩, ibTgt := ⟨0, []⟩, readyAt := s.now + 4 })) ∧
  (∀ (s : State) (l : Launch), s.ctx.gang = none → s.ctx.resident = true → s.launch? s.ctx.launch = some l →
    (∃ c x, c ∈ l.cores ∧ c ≠ s.focus ∧ s.image c s.ctx.launch = some x ∧ x.ended = false) →
    let ends (i : Instr) : Prop := ∃ t, exec i s = .next t ∧ t.ctx.ended = true ∧ SameMemory (s.makeHalves fun c _ _ => c == s.focus) t ∧
      ∃ m, t.launch? s.ctx.launch = some m ∧ m.status = l.status
    (s.thr ≠ 0 → exec .halt s = .next (trapEntry 11 (w0 .halt) s)) ∧
    (s.thr = 0 → s.mayEnd s.focus = true → ends .halt) ∧
    (s.thr = 0 → s.mayEnd s.focus = false → s.th.stall = none →
      exec .halt s = .next (s.setTh { s.th with stall := some ⟨4, 0, .halt⟩ })) ∧
    (∀ len rd, (s.ctx.thread 0).stall = some ⟨len, rd, .halt⟩ → s.mayEnd s.focus = true → ends (.contextEnd s.focus)))

/-- R337: the word of SNAP, that it takes no literal, that it traps with cause 2 in user mode and runs in both phases, that it fires the
trigger and sets `snapctl.fired`, and that while a snapshot is held it only adds to the missed count. -/
def Obligations.Snap : Prop :=
  decode [0x048000B4] = .ok .snap 4 ∧ (∀ lo hi, decode [0x048000B5, lo, hi] = .illegal 6 0x048000B5) ∧ encode .snap = [0x048000B4] ∧
  (∀ s : State, s.ctx.mode = .user → s.th.stall = none → exec .snap s = .next (trapEntry 2 0x048000B4 s)) ∧
  (∀ s : State, s.ctx.mode = .supervisor →
    (s.snapHeld = false → s.snapPending = none → ∃ t, exec .snap s = .next t ∧ t.snapPending = some (s.now, 1) ∧
      t.ctx.snapFired = true ∧ t.th = s.th.past 4 ∧ t.snapMissed = s.snapMissed ∧ SameMemory s t) ∧
    (s.snapHeld = true → exec .snap s =
      .next (({ s with snapMissed := if s.snapMissed = 0xFFFF then 0xFFFF else s.snapMissed + 1 } : State).past 4)))

/-- R57, R68, R88, R328: the traps before an instruction issues: cause 1 with the reason and the word, cause 5 at a PC at or beyond the
region, cause 8 for a signature mismatch, with its entry in the RAS log. -/
def Obligations.TrapsBeforeIssue : Prop :=
  (∀ (s : State) (reason : BitVec 8) (w : W32), 1 ≤ reason.toNat → reason.toNat ≤ 8 →
    exec (.illegalInstruction reason w) s = .next (trapEntry 1 ((reason ++ w : BitVec 40).setWidth 64) s)) ∧
  (∀ s : State, s.ctx.size.toNat * 65536 ≤ s.th.pc.toNat → exec .fetchBound s = .next (trapEntry 5 s.th.pc s)) ∧
  (∀ (s : State) (crc : BitVec 16) (start : W32), s.th.sigBad = some (crc, start) → s.ctx.inh = false → s.ras.length < 4096 →
    ∃ t e, exec .signatureMismatch s = .next t ∧ t.csr .xval = (crc ++ start : BitVec 48).setWidth 64 ∧
      (t.csr .xcause).extractLsb' 0 8 = 8 ∧ t.th.sigBad = none ∧ t.ras = s.ras ++ [e] ∧ e.extractLsb' 56 8 = 7 ∧
      e.extractLsb' 64 64 = BitVec.ofNat 64 s.now)

/-! ## Shared memory (R124–R146) -/

/-- A record holds `n` bytes of `v` from `ea` on, and its mask names them (R124). -/
def HoldsBytes (r : LogRec) (ea : W64) (n : Nat) (v : W64) : Prop :=
  r.gran = ea.extractLsb' 4 44 ∧ (∀ j < 16, r.mask.getLsbD j = (decide (ea.toNat % 16 ≤ j) && decide (j < ea.toNat % 16 + n))) ∧
    ∀ j < n, r.byte (ea.toNat % 16 + j) = v.extractLsb' (8 * j) 8

/-- The fields of a record that the running context appends: in the buffer while it has room (R124, R142). -/
def MadeRecord (s : State) (r : LogRec) (kind : BitVec 4) (sstp : Bool) (pub : Option Nat) : Prop :=
  r.kind = kind ∧ r.ctx = s.ctx.ctxid ∧ r.lsn = s.ctx.lsn + 1 ∧ r.launch = s.ctx.launch ∧ r.seq = s.seq ∧ r.homed = none ∧
    r.sstp = sstp ∧ r.pub = pub ∧ r.spilled.isSome = decide (2048 ≤ s.cur.buffered)

/-- Memory after a record is made: the 32 bytes of a spilled one change (R142; their place: log 79). -/
def SpillsTo (s t : State) (r : LogRec) : Prop :=
  match r.spilled with
  | none => SameMemory s t
  | some n => match s.walk s.ctx.ctxid .record (BitVec.ofNat 48 (s.ctx.spillBase.toNat + 32 * n)) with
    | .fill w => Mem.wf s.home = true →
      SameBut (fun j => some (.home ((⟨w, false⟩ : TlbEntry).key (s.ctx.spillBase.toNat + 32 * n) + j))) 32 s t
    | _ => SameMemory s t

/-- The record of sequence number `q` takes in `n` bytes of `v` from `ea` on; no other changes (R125). -/
def MergesBytes (s t : State) (q : Nat) (ea : W64) (n : Nat) (v : W64) : Prop :=
  t.cur.log.length = s.cur.log.length ∧ ∀ (m : Nat) (r : LogRec), s.cur.log[m]? = some r →
    (r.seq ≠ q → t.cur.log[m]? = some r) ∧
    (r.seq = q → ∃ u, t.cur.log[m]? = some u ∧ { u with mask := r.mask, data := r.data } = r ∧
      ∀ j < 16, let own := decide (ea.toNat % 16 ≤ j) && decide (j < ea.toNat % 16 + n)
        u.mask.getLsbD j = (r.mask.getLsbD j || own) ∧
        u.byte j = if own then v.extractLsb' (8 * (j - ea.toNat % 16)) 8 else r.byte j)

/-- R127, R125, R142–R144: a shared store appends a record of its bytes to the log, or merges them into the youngest record of the same
granule; SSTP makes a record and a publication of it alone; LOGADD and LOGFADD append accumulates. An address that may not be stored to
counts as a refused record; without log space the store stalls, and LOG_FULL raises cause 7 after `logcap` cycles. In a compute phase
all of them raise cause 6. A store merges when the context's youngest record is unpublished, of kind 0, of the same granule, in the buffer and
no SSTP's. Memory changes only where a record goes to the spill region: its 32 bytes there. The model's choices: the record's place in that
region (log 79), and that a merge into a record that has drifted already changes it in place (log 80). -/
def Obligations.SharedStores : Prop :=
  let bad (ea : W64) (n : Nat) : Prop := 2 ^ 48 ≤ ea.toNat ∨ ea.toNat % n ≠ 0
  let refused (i : Instr) (s : State) (len : Nat) (ea : W64) : Prop := ∃ t, exec i s = .next t ∧ t.th = s.th.past len ∧
    t.ctx.fence = s.ctx.fence.fail ea true false 1 ∧ t.cur.log = s.cur.log ∧ SameMemory s t
  let appends (i : Instr) (s : State) (len n : Nat) (ea v : W64) (kind : BitVec 4) : Prop := 0 < s.logRoom →
    ∃ t r, exec i s = .next t ∧ t.th = s.th.past len ∧ t.cur.log = s.cur.log ++ [r] ∧ MadeRecord s r kind false none ∧
      HoldsBytes r ea n v ∧ t.ctx.lsn = s.ctx.lsn + 1 ∧ SpillsTo s t r
  let full (i : Instr) (s : State) (len : Nat) (ea : W64) : Prop := s.logRoom = 0 → s.th.stall = none →
    (s.ctx.logcap = 0 → exec i s = .next (trapEntry 7 ea s)) ∧
    (s.ctx.logcap ≠ 0 → exec i s = .next (s.setTh { s.th with stall := some ⟨len, 0, .log s.now ea [(ea, 0)]⟩ }))
  let stores (i : Instr) (s : State) (len n : Nat) (rs : SReg) (ea : W64) : Prop :=
    (s.ctx.phase = .compute → s.th.stall = none → exec i s = .next (trapEntry 6 (((encode i).headD 0).setWidth 64) s)) ∧
    (s.ctx.phase = .exchange →
      (bad ea n → refused i s len ea) ∧
      (¬bad ea n → s.mergeSeq (ea.extractLsb' 4 44) = none → appends i s len n ea (s.reg rs) 0 ∧ full i s len ea) ∧
      (¬bad ea n → ∀ q, s.mergeSeq (ea.extractLsb' 4 44) = some q → ∃ t, exec i s = .next t ∧ t.th = s.th.past len ∧ SameMemory s t ∧
        MergesBytes s t q ea n (s.reg rs)))
  let outside (i : Instr) (s : State) : Prop :=
    s.ctx.phase = .compute → s.th.stall = none → exec i s = .next (trapEntry 6 (((encode i).headD 0).setWidth 64) s)
  let adds (i : Instr) (s : State) (len n : Nat) (ea v : W64) (kind : BitVec 4) : Prop := outside i s ∧ (s.ctx.phase = .exchange →
    (bad ea n → refused i s len ea) ∧ (¬bad ea n → appends i s len n ea v kind ∧ full i s len ea))
  (∀ (s : State) (gran : BitVec 44) (q : Nat), s.mergeSeq gran = some q ↔
    ∃ r, (s.cur.log.filter fun r => r.launch == s.ctx.launch).getLast? = some r ∧ r.seq = q ∧ r.lsn = s.ctx.lsn ∧ r.kind = 0 ∧
      r.gran = gran ∧ r.pub = none ∧ r.spilled = none ∧ r.sstp = false) ∧
  (∀ (s : State) (rs ra : SReg) (imm : BitVec 14) (lit : W64), s.has [ra, rs] = true →
    let ea := s.reg ra + imm.signExtend 64
    let el := s.reg ra + lit
    stores (.sst rs ra imm) s 4 8 rs ea ∧ stores (.sstLit rs ra lit) s 12 8 rs el ∧
    stores (.sstw rs ra imm) s 4 4 rs ea ∧ stores (.sstwLit rs ra lit) s 12 4 rs el ∧
    stores (.sstb rs ra imm) s 4 1 rs ea ∧ stores (.sstbLit rs ra lit) s 12 1 rs el ∧
    adds (.logadd ra rs) s 4 8 (s.reg ra) (s.reg rs) 1 ∧ adds (.logfadd ra rs) s 4 4 (s.reg ra) (s.reg rs) 2) ∧
  (∀ (s : State) (ra : SReg) (lit : W64), s.has [ra] = true →
    adds (.logaddLit ra lit) s 12 8 (s.reg ra) lit 1 ∧ adds (.logfaddLit ra lit) s 12 4 (s.reg ra) lit 2) ∧
  (∀ (s : State) (sc : Scope) (rs ra : SReg), s.has [ra, rs] = true →
    let i : Instr := .sstp sc rs ra
    outside i s ∧ (s.ctx.phase = .exchange →
    (bad (s.reg ra) 8 → refused i s 4 (s.reg ra)) ∧
    (¬bad (s.reg ra) 8 → full i s 4 (s.reg ra) ∧
      (0 < s.logRoom → ∃ t r p, exec i s = .next t ∧ t.th = s.th.past 4 ∧ t.cur.log = s.cur.log ++ [r] ∧
        MadeRecord s r 0 true (some s.ids) ∧ HoldsBytes r (s.reg ra) 8 (s.reg rs) ∧ SpillsTo s t r ∧ t.pubs = s.pubs ++ [p] ∧ p.id = s.ids ∧
        p.source = s.focus ∧ p.sys = (sc == .sys) ∧ p.scope = sc ∧ p.obj = none ∧ p.drops = true ∧ p.app = none)))) ∧
  (∀ (s : State) (len : Nat) (rd : SReg) (since : Nat) (ea : W64) (lanes : List (W64 × W32)),
    s.th.stall = some ⟨len, rd, .log since ea lanes⟩ →
    since + s.ctx.logcap.toNat ≤ s.now → exec .logFull s = .next (trapEntry 7 ea s))

/-- R128, R129, R146: a shared load in an exchange phase leaves its destination absent and is outstanding; a bad address gives the poison
value and sets `xstat.ACCERR`. It notes the own records of kind 0 that cover each of its bytes, the youngest first, and waits for the loads before its thread's last FENCEL.
A byte comes from the first of them that still forwards (R129). When it is performed, SLDH takes each byte that no own
record forwards from the home (or the die's replica), SLD and SLDW from the cluster's view; where one of them misses there, the line is filled
first, each byte from home memory or a newer copy of it in that view; a denied or unreachable page gives poison and ACCERR, and what comes from a home waits while no
packet reaches it (R309, R315); what one G-die sends to a core arrives in the order of its ticks (R306). That the own bytes are those that the issue found, that all others are read at one free tick, and that the
value arrives then, or, by a free choice, later, is the model's reading (log 20); under way it is lost, as poison, when no route is left
(R313). -/
def Obligations.SharedLoads : Prop :=
  let size : LoadKind → Nat | .sld | .sldh => 8 | .sldw => 4
  let poison : LoadKind → W64 | .sld | .sldh => 0xDEADDEADDEADDEAD | .sldw => 0xDEADDEAD
  let loads (i : Instr) (s : State) (len : Nat) (kind : LoadKind) (rd : SReg) (ea : W64) : Prop :=
    (s.ctx.phase = .compute → s.th.stall = none → exec i s = .next (trapEntry 6 (((encode i).headD 0).setWidth 64) s)) ∧
    (s.ctx.phase = .exchange →
      (2 ^ 48 ≤ ea.toNat ∨ ea.toNat % size kind ≠ 0 →
        exec i s = .next ((s.setCtx { s.ctx with accerr := true }).setTh ((s.th.setReg rd (poison kind)).past len))) ∧
      (ea.toNat < 2 ^ 48 → ea.toNat % size kind = 0 → ∃ t l, exec i s = .next t ∧ t.th = (s.th.expect rd).past len ∧
        t.loads = s.loads ++ [l] ∧ l.core = s.focus ∧ l.launch = s.ctx.launch ∧ l.thr = s.thr.val ∧ l.inc = s.th.inc ∧ l.rd = rd ∧
        l.kind = kind ∧ l.ea = ea ∧ l.ctxid = s.ctx.ctxid ∧ l.inc8 = (s.die (dieOf s.focus)).inc ∧ l.after = s.th.fenceL ∧ l.got = none ∧
        (∀ j < size kind, let a := ea.toNat + j
          l.fwd[j]? = some (((s.cur.log.filter fun r => r.launch == s.ctx.launch && r.kind == 0 && r.gran.toNat == a / 16 &&
            r.mask.getLsbD (a % 16)).map fun r => (r.seq, r.byte (a % 16))).reverse)) ∧ SameMemory s t))
  (∀ (s : State) (rd ra : SReg) (imm : BitVec 14) (lit : W64), s.has [ra, rd] = true →
    let ea := s.reg ra + imm.signExtend 64
    let el := s.reg ra + lit
    loads (.sld rd ra imm) s 4 .sld rd ea ∧ loads (.sldLit rd ra lit) s 12 .sld rd el ∧
    loads (.sldw rd ra imm) s 4 .sldw rd ea ∧ loads (.sldwLit rd ra lit) s 12 .sldw rd el ∧
    loads (.sldh rd ra imm) s 4 .sldh rd ea ∧ loads (.sldhLit rd ra lit) s 12 .sldh rd el) ∧
  (∀ (s : State) (c : Nat) (kind : LoadKind) (fwd : List (List (Nat × Byte))) (f : List (Nat × Byte)) (j : Nat), fwd[j]? = some f →
    (s.stillForward c kind fwd)[j]? =
      some ((f.find? fun x => (s.core c).log.any fun r => r.seq == x.1 && s.forwards c kind r).map (·.2))) ∧
  (∀ (s : State) (c : Nat) (kind : LoadKind) (r : LogRec), s.forwards c kind r = true ↔ r.pub = none ∨
    ∃ p, s.pubOf r = some p ∧ (p.applied = false ∨ (r.mayLag = true ∧ p.lagG ≠ 0) ∨
      (kind = .sldh ∧ r.onRepl = true ∧ p.lagD.getLsbD (dieOf c) = true))) ∧
  (∀ (s : State) (pos : Nat) (l : SharedLoad), s.loads[pos]? = some l → l.core = s.focus → s.ctx.of l.launch = true →
    l.thr = s.thr.val → s.th.live = true → s.th.inc = l.inc → (s.die (dieOf l.core)).inc = l.inc8 → l.rd ≠ 0 →
    let before := s.loadsBefore l.core l.launch l.thr l.inc l.after
    let arrived (t : State) (w : W64) : Prop :=
      t.loads = s.loads.filter (fun m => m.seq != l.seq) ∧ t.th.has l.rd = true ∧ t.reg l.rd = w
    (∀ w tick d, l.got = some (w, tick, d) →
      (s.cutOff d (dieOf l.core) = true → ∃ t, exec (.sharedLoadReturn pos) s = .next t ∧ arrived t (poison l.kind) ∧
        t.ctx.accerr = true ∧ SameMemory s t) ∧
      let waits : Prop := s.routeHeld d (dieOf l.core) = true ∨
        (8 ≤ d ∧ ∃ m ∈ s.loads, m.core = l.core ∧ ∃ v u, m.got = some (v, u, d) ∧ u < tick)
      (s.cutOff d (dieOf l.core) = false → waits → exec (.sharedLoadReturn pos) s = .next s) ∧
      (s.cutOff d (dieOf l.core) = false → ¬ waits →
        ∃ t, exec (.sharedLoadReturn pos) s = .next t ∧ arrived t w ∧ SameMemory s t)) ∧
    (l.got = none → before = true → exec (.sharedLoadReturn pos) s = .next s) ∧
    (l.got = none → before = false → l.ea.toNat % size l.kind = 0 →
      let k := clusterOf l.core
      let x := s.translate k (.core l.core) l.seq l.ctxid l.launch .load l.ea
      let fwd (j : Nat) : Option Byte := ((x.2.stillForward l.core l.kind l.fwd)[j]?).getD none
      let gives (fails : Bool) (d : Nat) (v : Nat → Byte) : Prop := ∃ t w, exec (.sharedLoadReturn pos) s = .next t ∧
        (∀ j < 8, w.extractLsb' (8 * j) 8 = if j < size l.kind then v j else 0) ∧ (fails = true → t.ctx.accerr = true) ∧
        (if (s.freeWord 5).getLsbD 0 || s.loadAhead l.core d s.now then
          t.th = s.th ∧ t.loads = s.loads.map fun m => if m.seq = l.seq then { m with got := some (w, s.now, d) } else m
        else arrived t w) ∧
        ((∀ p ∈ s.pubs, p.lagG = 0 ∧ p.lagD = 0) → SameMemory s t)
      (x.1 = .denied → gives true (dieOf l.core) fun j => (poison l.kind).extractLsb' (8 * j) 8) ∧
      let key (e : TlbEntry) : Nat := if l.kind = .sldh ∧ e.repl = true then s.replicaKey (dieOf l.core) (e.key l.ea.toNat) else e.key l.ea.toNat
      (∀ e, x.1 = .hit e → x.2.linkDown (dieOf l.core) (key e) = true →
        gives true (dieOf l.core) fun j => (poison l.kind).extractLsb' (8 * j) 8) ∧
      (∀ e, x.1 = .hit e → x.2.linkDown (dieOf l.core) (key e) = false →
        let there := s.homePort (dieOf l.core) (key e)
        let reached : Prop := s.homeHeld (dieOf l.core) (key e) = false
        (l.kind = .sldh → reached → s.poisonedIn (key e) 8 = false → gives false there fun j => (fwd j).getD (s.home.read (key e + j))) ∧
        (l.kind = .sldh → ¬ reached → exec (.sharedLoadReturn pos) s = .next x.2) ∧
        (l.kind ≠ .sldh → s.poison.contains (e.key (l.ea.toNat / 64 * 64)) = false → (s.cluster k).viewLines.length ≤ 32768 →
          let held (j : Nat) : Option ViewByte :=
            (s.cluster k).viewByte (viewKey (s.asidOf l.ctxid) l.ea.toNat + j) (e.key l.ea.toNat + j)
          ((∀ j < size l.kind, fwd j = none → held j ≠ none) → gives false (dieOf l.core) fun j => (fwd j).getD (((held j).map (·.val)).getD 0)) ∧
          let misses : Prop := ∃ j < size l.kind, fwd j = none ∧ held j = none
          (misses → reached → gives false there fun j =>
            let key := e.key l.ea.toNat + j
            (fwd j).getD (newest ((s.cluster k).copies key)
              ⟨s.home.read key, s.homeOrd (e.key (l.ea.toNat / 64 * 64)) (e.mca || e.repl), key, e.size⟩).val) ∧
          (misses → ¬ reached → exec (.sharedLoadReturn pos) s = .next x.2)))))

/-- R131, R132: an operation of the SYNC group at a good address takes its operands, waits for its object's home and acts there in one step: SOBIND and SOUNB
write the object's words, SYADD, SYCAS and SYSWP answer the old word and write the new one, SYLD answers it. No other byte changes. A
bad address, a page that is denied and a home that no route reaches (R313) give ACCERR and, with a result, poison. In a compute phase it raises cause 6. -/
def Obligations.SyncOperations : Prop :=
  let u (s : State) : TlbUser := .core s.focus
  let acts (i : Instr) (s : State) (len : Nat) (ra : SReg) (rb rd : W64) (res : Option SReg) (ok : Prop)
      (eff : W64 → W64 → Nat → State → State → Prop) : Prop :=
    let failed : Thread := (match res with | some r => s.th.setReg r 0xDEADDEADDEADDEAD | none => s.th).past len
    (s.ctx.phase = .compute → s.th.stall = none → exec i s = .next (trapEntry 6 (((encode i).headD 0).setWidth 64) s)) ∧
    (s.ctx.phase = .exchange → s.th.stall = none →
      (¬ok → exec i s = .next ((s.setCtx { s.ctx with accerr := true }).setTh failed)) ∧
      (ok → exec i s = .next (s.setTh { s.th with stall := some ⟨len, res.getD 0, .sync (s.reg ra) rb rd⟩ }))) ∧
    (∀ n q a b d, s.ctx.phase = .exchange → s.th.stall = some ⟨n, q, .sync a b d⟩ →
      let x := s.translate s.clu (u s) s.thr.val s.ctx.ctxid s.ctx.launch .sync a
      let fails : Prop := ∃ t, exec i s = .next t ∧ t.th = failed ∧ t.ctx.accerr = true ∧ SameMemory s t
      (x.1 = .denied → fails) ∧ (x.1 = .waiting → exec i s = .next { x.2 with waiting := true }) ∧
      ∀ e, x.1 = .hit e →
        let key := e.key a.toNat
        (s.linkDown (dieOf s.focus) key = true → fails) ∧
        (s.linkDown (dieOf s.focus) key = false → s.homeHeld (dieOf s.focus) key = true → exec i s = .next { x.2 with waiting := true }) ∧
        (s.linkDown (dieOf s.focus) key = false → s.homeHeld (dieOf s.focus) key = false → s.poisonedIn key 8 = false →
          ∃ t, exec i s = .next t ∧ eff b d key s t))
  let word (s : State) (key : Nat) : W64 := s.home.readLE key 8 64
  let sets (key : Nat) (v : W64) (s t : State) : Prop :=
    word t key = v ∧ SameBut (fun j => some (.home (key + j))) 8 s t
  let answers (rd : SReg) (len : Nat) (f : W64 → W64 → W64 → W64) (b d : W64) (key : Nat) (s t : State) : Prop :=
    t.th = (s.th.setReg rd (word s key)).past len ∧ sets key (f b d (word s key)) s t
  let user (a : W64) : Prop := a.toNat < 2 ^ 48 ∧ a.toNat % 8 = 0 ∧ 32 ≤ a.toNat % 64
  ∀ s : State, Mem.wf s.home = true →
    (∀ rd ra rb, s.has [rd, ra, rb] = true →
      acts (.sobind rd ra rb) s 4 ra (s.reg rb) (s.reg rd) none ((s.reg ra).toNat < 2 ^ 48 ∧ (s.reg ra).toNat % 64 = 0 ∧ (s.reg rb).toNat % 16 = 0 ∧
          (s.reg rd).toNat % 16 = 0 ∧ (s.reg rb).toNat < 2 ^ 48 ∧ (s.reg rd).toNat ≤ 2 ^ 40 ∧
          (s.reg rb).toNat + (s.reg rd).toNat ≤ 2 ^ 48)
        fun b d key s t => word t key = b ∧ word t (key + 8) = d ∧ t.th = s.th.past 4 ∧
          SameBut (fun j => some (.home (key + j))) 16 s t) ∧
    (∀ ra, s.has [ra] = true → acts (.sounb ra) s 4 ra 0 0 none ((s.reg ra).toNat < 2 ^ 48 ∧ (s.reg ra).toNat % 64 = 0)
      fun _ _ key s t => t.th = s.th.past 4 ∧ sets (key + 8) 0 s t) ∧
    (∀ rd ra rb, s.has [ra, rb, rd] = true →
      acts (.syadd rd ra rb) s 4 ra (s.reg rb) (s.reg rd) (some rd) (user (s.reg ra)) (answers rd 4 fun b _ old => old + b) ∧
      acts (.sycas rd ra rb) s 4 ra (s.reg rb) (s.reg rd) (some rd) (user (s.reg ra))
        (answers rd 4 fun b d old => if old = d then b else old) ∧
      acts (.syswp rd ra rb) s 4 ra (s.reg rb) (s.reg rd) (some rd) (user (s.reg ra)) (answers rd 4 fun b _ _ => b)) ∧
    (∀ rd ra lit, s.has [ra, rd] = true →
      acts (.syaddLit rd ra lit) s 12 ra lit (s.reg rd) (some rd) (user (s.reg ra)) (answers rd 12 fun b _ old => old + b) ∧
      acts (.sycasLit rd ra lit) s 12 ra lit (s.reg rd) (some rd) (user (s.reg ra))
        (answers rd 12 fun b d old => if old = d then b else old) ∧
      acts (.syswpLit rd ra lit) s 12 ra lit (s.reg rd) (some rd) (user (s.reg ra)) (answers rd 12 fun b _ _ => b) ∧
      acts (.syld rd ra) s 4 ra 0 0 (some rd) ((s.reg ra).toNat < 2 ^ 48 ∧ (s.reg ra).toNat % 8 = 0) (answers rd 4 fun _ _ old => old))

/-- R133, R137–R139, R145, R146: REL publishes the context's unpublished tail, as it stood at issue, under its object and goes on once the
publication holds a slot; ACQ enters the object with its `pseq` and its region in the acquire table. Where the table has the object with this region and every publication since is still there, ACQ replays their records into the
view: every copy of a masked byte that is older takes the record's byte, and no other changes; otherwise the lines of the region leave the
view (R138), once no home lags behind a publication under the object. The model's choices: the table keeps the region (log 14), the waits for lagging homes (log 58), publications that a scope does
not cover (log 83), copies of other address spaces (log 77). FENCE answers the status gathered and clears it once no earlier record that its scope covers is on its way. Each stalls until
then; the events of REL, ACQ, the SYNC group and FENCE let the waiting thread be the next to be tried. FENCEL never waits: only the thread's
later shared loads do. -/
def Obligations.ReleaseAcquireFence : Prop :=
  let stalls (i : Instr) (s : State) (rd : SReg) (w : Wait) : Prop :=
    exec i s = .next (s.setTh { s.th with stall := some ⟨4, rd, w⟩ })
  let passes (i : Instr) (s : State) : Prop := exec i s = .next (s.setTh (s.th.past 4))
  let good (a : W64) : Prop := a.toNat < 2 ^ 48 ∧ a.toNat % 64 = 0
  let found (s : State) (a : W64) : Translated × State :=
    s.translate s.clu (.core s.focus) s.thr.val s.ctx.ctxid s.ctx.launch .sync a
  let here (s : State) (a : W64) (key : Nat) : Prop := ∃ e, (found s a).1 = .hit e ∧ key = e.key a.toNat ∧
    s.linkDown (dieOf s.focus) key = false ∧ s.homeHeld (dieOf s.focus) key = false ∧ s.poisonedIn key 8 = false
  (∀ (s : State) (sc : Scope) (ra : SReg), s.has [ra] = true → s.ctx.phase = .exchange → good (s.reg ra) →
    (s.th.stall = none → stalls (.rel sc ra) s 0 (.seq s.seq) ∧ stalls (.acq sc ra) s 0 .acq) ∧
    (∀ len rd n key, s.th.stall = some ⟨len, rd, .seq n⟩ → here s (s.reg ra) key →
      ∃ t p, exec (.rel sc ra) s = .next t ∧ t.th.stall = some ⟨4, 0, .rel s.ids⟩ ∧ t.th.pc = s.th.pc ∧ SameMemory s t ∧
        p ∈ t.pubs ∧ p.id = s.ids ∧ p.obj = some key ∧ p.source = s.focus ∧ p.scope = sc ∧ p.sys = (sc == .sys) ∧ p.app = none ∧
        ∀ (m : Nat) (r : LogRec), s.cur.log[m]? = some r → t.cur.log[m]? = some
          (if r.launch = s.ctx.launch ∧ r.pub = none ∧ r.seq < n then { r with pub := some s.ids } else r)) ∧
    (∀ len rd id p, s.th.stall = some ⟨len, rd, .rel id⟩ → s.pubs.find? (fun q => q.id == id) = some p → p.app ≠ none →
      passes (.rel sc ra) s) ∧
    (∀ w key, s.th.stall = some w → here s (s.reg ra) key → (∀ q ∈ s.pubs, q.obj = some key → q.lagG = 0) →
      ∃ v, exec (.acq sc ra) s = .next v ∧ v.th = s.th.past 4 ∧ ((∀ q ∈ s.pubs, q.lagG = 0) → SameMemory s v) ∧
        ((∀ q ∈ s.pubs, q.obj = some key → coversBoth q.scope sc q.core s.focus = true) → (v.cluster s.clu).acq.head? =
          some ⟨key, (s.home.readLE (key + 16) 8 64 : W64).toNat, (s.home.readLE key 8 64, s.home.readLE (key + 8) 8 64)⟩))) ∧
  (∀ (s : State) (sc : Scope) (ra : SReg) (w : Stall) (key : Nat), s.has [ra] = true → s.ctx.phase = .exchange → good (s.reg ra) →
    s.th.stall = some w → here s (s.reg ra) key → (s.cluster s.clu).viewLines.length ≤ 32768 →
    let base : W64 := s.home.readLE key 8 64
    let len : W64 := s.home.readLE (key + 8) 8 64
    let p := (s.home.readLE (key + 16) 8 64 : W64).toNat
    let entry := (s.cluster s.clu).acq.find? fun e => e.obj == key
    let v := (entry.map (·.v)).getD 0
    let whole : Prop := entry.map (·.region) = some (base, len) ∧ (s.under key v p).length = p - v
    (¬ whole → (∃ q ∈ s.pubs, q.obj = some key ∧ q.applied = true ∧ q.lagG ≠ 0 ∧ coversBoth q.scope sc q.core s.focus = true) →
      exec (.acq sc ra) s = .next { (found s (s.reg ra)).2 with waiting := true }) ∧
    (¬ whole → (∀ q ∈ s.pubs, q.lagG = 0) → ∃ t, exec (.acq sc ra) s = .next t ∧
      (t.cluster s.clu).view = (s.cluster s.clu).view.filter fun (a, b) => !(s.cluster s.clu).inRegion base len a b) ∧
    (whole → ∀ q r h, s.under key v p = [q] → coversBoth q.scope sc q.core s.focus = true → q.records = [r] → r.kind = 0 →
      r.homed = some h → base.toNat ≤ r.va → r.va < base.toNat + len.toNat → q.ord < s.homeOrd h.pa (h.mca || h.repl) →
      ∃ t, exec (.acq sc ra) s = .next t ∧ ∀ a b, (s.cluster s.clu).view.find? a = some b →
        (t.cluster s.clu).view.find? a = some
          (if h.pa ≤ b.key ∧ b.key < h.pa + 16 ∧ r.mask.getLsbD (b.key - h.pa) = true ∧ b.ord ≤ q.ord + 1 then
            { b with val := r.byte (b.key - h.pa), ord := q.ord + 1 } else b))) ∧
  (∀ (s : State) (sc : Scope) (rd : SReg), s.has [rd] = true → s.ctx.phase = .exchange →
    let left (n : Nat) : Prop := ∃ r ∈ s.cur.log, r.launch = s.ctx.launch ∧ r.seq < n ∧ r.homed = none ∧ (sc = .sys ∨ s.goesAway r = false)
    let answers : Prop := ∃ t, exec (.fence sc rd) s = .next t ∧ t.th = (s.th.setReg rd s.ctx.fence.word).past 4 ∧
      t.ctx.fence = ⟨0, 0, false, false, false⟩ ∧ SameMemory s t
    (s.th.stall = none → (¬ left s.seq → answers) ∧ (left s.seq → stalls (.fence sc rd) s rd (.fence s.seq))) ∧
    (∀ len q n, s.th.stall = some ⟨len, q, .fence n⟩ → ¬ left n → answers) ∧
    exec (.fencel sc) s = .next ((s.setTh { s.th with fenceL := s.seq }).past 4)) ∧
  (∀ (s : State) (c : Nat) (k : Fin 11) (len : Nat) (rd : SReg) (id n : Nat) (a b d : W64),
      let next (i : Instr) : Prop := exec i s = .next { s with agenda := .issue c k.val :: s.agenda }
      let stall := ((s.core c).run.thread k).stall
      (stall = some ⟨len, rd, .rel id⟩ → (∀ p ∈ s.pubs, p.id = id → p.app ≠ none) → next (.relComplete c k.val)) ∧
      (stall = some ⟨len, rd, .rel id⟩ → (∃ p ∈ s.pubs, p.id = id ∧ p.app = none) → exec (.relComplete c k.val) s = .next s) ∧
      (stall = some ⟨len, rd, .acq⟩ → next (.acqComplete c k.val)) ∧
      (stall = some ⟨len, rd, .sync a b d⟩ → next (.syncOpComplete c k.val)) ∧
      (stall = some ⟨len, rd, .fence n⟩ → next (.fenceComplete c k.val)))

/-- R126, R134–R136, R141: a core's oldest record on its way is accepted at its home once its page is translated; at the start of a window every
publication that is ready takes a slot two windows later, at most four of a source: a further one keeps none; at its tick a publication of
one write record is applied: its masked bytes stand at its home, or, on an ordinary page of a G-die that the event's mask names, the home lags
and takes them 64 ticks after at the latest. Of a REL's publication the object's pseq goes up by 1 and its ptick is the tick, and the issuing
cluster's view takes the record in: every older copy of a masked byte takes the record's byte, and one that the view lacks is brought in while
the home lags (R133); that it does so at the tick is the model's choice (log 57). At an SSTP's the issuing cluster's view drops the line (R129). A die's
replica takes a publication in; and one that every home has is reclaimed. -/
def Obligations.Publications : Prop :=
  (∀ (s : State) (c : Nat) (r : LogRec) (rest : List LogRec), (s.core c).log.filter (fun r => r.homed.isNone) = r :: rest →
    ∀ e, (s.translate (clusterOf c) (.core c) r.seq r.ctx r.launch .record (BitVec.ofNat 64 r.va)).1 = .hit e →
    s.linkDown (dieOf c) (e.key r.va) = false → s.homeHeld (dieOf c) (e.key r.va) = false → s.spillLine c r = none →
    ∃ t, exec (.recordDrift c) s = .next t ∧ SameMemory s t ∧
      (t.core c).log = (s.core c).log.map fun q => if q.seq = r.seq then
        { q with homed := some ⟨e.key r.va, e.size, e.mca, e.repl, s.now⟩ } else q) ∧
  (∀ (s : State) (sys : Bool), let w := if sys then 1600 else 32
    s.now % w = 0 → (if sys then s.winSys else s.winDev) < s.now → ∃ t, exec (.callWindow sys) s = .next t ∧ SameMemory s t ∧
      (if sys then t.winSys else t.winDev) = s.now ∧ t.pubs.length = s.pubs.length ∧
      (∀ (m : Nat) (p q : Publication), s.pubs[m]? = some p → t.pubs[m]? = some q → q = p ∨ (s.slotReady sys s.now p = true ∧
        q = { p with app := some (s.now + 2 * w) })) ∧
      (∀ m p, s.pubs[m]? = some p → s.slotReady sys s.now p = true →
        ((s.pubs.take m).filter fun q => s.slotReady sys s.now q && q.source == p.source).length < 4 →
        t.pubs[m]? = some { p with app := some (s.now + 2 * w) }) ∧
      (∀ m p, s.pubs[m]? = some p → 4 ≤ ((s.pubs.take m).filter fun q => s.slotReady sys s.now q && q.source == p.source).length →
        t.pubs[m]? = some p)) ∧
  (∀ (s : State) (lag : BitVec 4) (p : Publication) (r : LogRec) (h : Homed), s.pubs = [p] → p.records = [r] → r.homed = some h →
    r.kind = 0 → p.engine = false → Mem.wf s.home = true →
    let masked (a : Nat) : Prop := h.pa ≤ a ∧ a < h.pa + 16 ∧ r.mask.getLsbD (a - h.pa) = true
    let written (t : State) : Prop := ∀ a, (masked a → t.home.read a = r.byte (a - h.pa)) ∧ (¬ masked a → t.home.read a = s.home.read a)
    let lags : Prop := r.mayLag = true ∧ lag.getLsbD (gdie h.pa) = true
    let k := clusterOf p.core
    let view := (s.cluster k).view
    (p.applied = false → p.app = some s.now → p.core < 2048 → p.drops = false → ∀ key, p.obj = some key →
      let pseq : W64 := s.home.readLE (key + 16) 8 64 + 1
      let v := viewKey (s.asidOf r.ctx) r.va
      let lacks (j : Nat) : Prop := r.mask.getLsbD j = true ∧ (s.cluster k).copies (h.pa + j) = []
      ∃ t, exec (.publicationApply lag) s = .next t ∧ t.applied = s.applied + 1 ∧
        (∃ q ∈ t.pubs, q.id = p.id ∧ q.applied = true ∧ q.index = pseq.toNat) ∧
        (∀ a, ¬ lags → masked a → t.home.read a = r.byte (a - h.pa)) ∧
        (∀ a, lags ∨ ¬ masked a →
          (∀ j < 8, a = key + 16 + j → t.home.read a = pseq.extractLsb' (8 * j) 8) ∧
          (∀ j < 8, a = key + 24 + j → t.home.read a = (BitVec.ofNat 64 s.now).extractLsb' (8 * j) 8) ∧
          (a < key + 16 ∨ key + 32 ≤ a → t.home.read a = s.home.read a)) ∧
        (∀ a b, view.find? a = some b → (lags → ∀ j < 16, lacks j → a ≠ v + j) → (t.cluster k).view.find? a = some
          (if masked b.key ∧ b.ord ≤ s.applied + 1 then { b with val := r.byte (b.key - h.pa), ord := s.applied + 1 } else b)) ∧
        (lags → ∀ j < 16, lacks j → (t.cluster k).view.find? (v + j) = some ⟨r.byte j, s.applied + 1, h.pa + j, h.size⟩)) ∧
    (p.applied = false → p.app = some s.now → p.obj = none → ∃ t, exec (.publicationApply lag) s = .next t ∧ t.applied = s.applied + 1 ∧
      (¬ lags → written t) ∧
      (p.drops = true → p.core < 2048 → (t.cluster k).view = view.filter fun x => !(x.2.key / 64 == h.pa / 64)) ∧
      (lags → p.drops = false ∨ 2048 ≤ p.core ∨ (∀ x ∈ view, x.2.ord ≤ s.applied) →
        t.home = s.home ∧ ∃ q ∈ t.pubs, q.id = p.id ∧ q.applied = true ∧ q.lagG = BitVec.twoPow 4 (gdie h.pa))) ∧
    (∀ n, p.applied = true → p.lagG ≠ 0 → r.mayLag = true → p.app = some n → n + 64 ≤ s.now →
      ∃ t, exec (.publicationApply lag) s = .next t ∧ written t)) ∧
  (∀ (s : State) (d : Fin 8) (p : Publication) (r : LogRec) (h : Homed), s.pubs = [p] → p.applied = true → p.lagD.getLsbD d.val = true →
    p.records = [r] → r.homed = some h → h.repl = true → r.kind = 0 → Mem.wf s.home = true →
    ∃ t, exec (.replicaApply d.val) s = .next t ∧ (∀ q ∈ t.pubs, q.lagD.getLsbD d.val = false) ∧
      (∀ j < 16, r.mask.getLsbD j = true → t.home.read (s.replicaKey d.val h.pa + j) = r.byte j) ∧
      ∀ a, (∀ j < 16, r.mask.getLsbD j = true → a ≠ s.replicaKey d.val h.pa + j) → t.home.read a = s.home.read a) ∧
  (∀ (s : State) (p : Publication), s.pubs = [p] → p.applied = true → p.lagG = 0 → p.lagD = 0 →
    exec .segmentReclaim s = .next { s with pubs := [] })

/-! ## Translation and invalidation (R162–R173) -/

/-- R163–R165: a valid entry of the address space that covers the address and has not expired translates the accesses that its permission
bits allow, to the byte that its device, frame and page size name; an access that they do not allow is no hit, unless the shared TLB
has an entry that allows it (R162), which the requesting TLB then takes at its pointer. An address with a bit of
[63:48] set is denied. An entry of mode L has expired when its lease's tick bits are not ahead (R165). That a code load needs X and R and no
SYNC is the model's reading (log 76), and that a hit ends the miss of its access is so too (log 92). Said of a TLB in which no other entry matches the
access: entries of one address space do not overlap (R165). -/
def Obligations.TranslationHits : Prop :=
  let bit (e : TlbEntry) (n : Nat) : Bool := e.word.getLsbD n
  let allowed (e : TlbEntry) : Access → Bool
    | .load | .copyRead => bit e 3 && !bit e 6
    | .record | .copyWrite => bit e 4 && !bit e 6
    | .sync => bit e 6
    | .codeLoad => bit e 5 && bit e 3 && !bit e 6
  let pageBits (e : TlbEntry) : Nat := if (e.word.extractLsb' 1 2).toNat = 0 then 16 else if (e.word.extractLsb' 1 2).toNat = 1 then 21 else 30
  ∀ (s : State) (k : Nat) (u : TlbUser) (acc : Nat) (ctxid : BitVec 16) (launch : Nat) (kind : Access) (va : W64),
    let x := s.translate k u acc ctxid launch kind va
    let matches_ (e : TlbEntry) : Prop := bit e 0 = true ∧ e.word.extractLsb' 39 12 = s.asidOf ctxid ∧
      (e.word.extractLsb' 64 32).toNat * 2 ^ 16 / 2 ^ pageBits e = va.toNat / 2 ^ pageBits e ∧
      (e.modeL = true → 2 ^ 31 ≤ (BitVec.ofNat 32 (s.now / 1024) - e.word.extractLsb' 96 32).toNat)
    let own := (s.userTlb k u).entries
    let set (n : Nat) : PMap TlbEntry := (PMap.get (s.cluster k).sharedTlb n Tlb.reset).entries
    let hits (e : TlbEntry) : Prop := x.1 = .hit e ∧ (∀ m ∈ (x.2.cluster k).misses, m.same u acc ctxid kind va.toNat = false) ∧
      e.key va.toNat = (e.word.extractLsb' 51 13).toNat * 2 ^ 41 + (e.word.extractLsb' 11 25).toNat * 2 ^ 16 + va.toNat % 2 ^ pageBits e
    (2 ^ 48 ≤ va.toNat → x = (.denied, s)) ∧
    (va.toNat < 2 ^ 48 →
      (∀ n e, (n, e) ∈ own → matches_ e → (∀ y ∈ own, matches_ y.2 → y.2 = e) → allowed e kind = true → hits e) ∧
      ((∀ y ∈ own, matches_ y.2 → allowed y.2 kind = false) →
        ((∀ n, ∀ y ∈ set n, matches_ y.2 → allowed y.2 kind = false) → ∀ f, x.1 ≠ .hit f) ∧
        (∀ n e, (n, e) ∈ set (sharedSet (s.asidOf ctxid) va.toNat e.size) → e.size ≠ 3 → matches_ e → allowed e kind = true →
          (∀ z < 3, ∀ y ∈ set (sharedSet (s.asidOf ctxid) va.toNat z), matches_ y.2 → y.2 = e) →
          hits e ∧ PMap.find? (x.2.userTlb k u).entries (s.userTlb k u).ptr = some e)))

/-- R167, R169, R170: the TSC walks the first priority miss, or with none the first miss, one at a time. A walk makes its table reads in one or
several steps, a free choice; each step leaves it where it comes to the same end as with all of them made now. When the walk returns, FILL writes the entry,
with its lease in mode L, at the requesting TLB's pointer, where nothing is left that overlaps it, and the miss is gone; ABSENT waits
50 µs or for a signal, which may come at any time where none has waited so long; a first DENY is walked a second time, from 64 ticks after the first walk began, and a second DENY or an error is
final. That a re-walk keeps the place of its miss in the order is the model's choice (log 92). -/
def Obligations.WalksAndMisses : Prop :=
  let puts (i : Instr) (s : State) (k : Nat) (pre : List Miss) (m : Miss) (post : List Miss) : Prop :=
    ∃ t, exec i s = .next t ∧ SameMemory s t ∧ (t.cluster k).misses = pre ++ m :: post
  let comesTo (s : State) (m : Miss) : WalkEnd := match m.state with
    | .walked r => r
    | .walking rv left => s.walkEnd m.va (rvRun s 17 left rv).1
    | _ => s.walk m.ctxid m.kind m.va
  let walks (s : State) (k : Nat) (pre : List Miss) (m : Miss) (start : Nat) (post : List Miss) : Prop :=
    (∀ key, comesTo s m ≠ .consumed key) → ∃ t st, exec (.tscWalk k) s = .next t ∧ SameMemory s t ∧
      (t.cluster k).misses = pre ++ { m with state := st, start := start } :: post ∧
      comesTo t { m with state := st, start := start } = comesTo s m ∧
      ((∃ r, st = .walked r) ∨ ∃ rv left, st = .walking rv left) ∧ (s.freeNat 18 % 18 = 17 → st = .walked (comesTo s m))
  ∀ (s : State) (k : Nat) (pre post : List Miss) (m : Miss), (s.cluster k).misses = pre ++ m :: post →
    (∀ rv left, m.state = .walking rv left → rv.reads ≤ 16 → (∀ x ∈ pre, x.walking = false) → walks s k pre m m.start post) ∧
    (m.state = .queued → (∀ x ∈ pre ++ post, x.walking = false ∧ ∀ r, x.state ≠ .walked r) →
      (m.priority = true ∧ (∀ x ∈ pre, x.state = .queued → x.priority = false)) ∨
        ((∀ x ∈ pre, x.state ≠ .queued) ∧ ∀ x ∈ m :: post, x.state = .queued → x.priority = false) →
      walks s k pre m s.now post) ∧
    ((∀ x ∈ pre, ∀ r, x.state ≠ .walked r) →
      (∀ w, m.state = .walked (.fill w) → ∃ t e, exec (.tlbFill k) s = .next t ∧ SameMemory s t ∧
        (t.cluster k).misses = (s.cluster k).misses.filter (fun x => decide (x ≠ m)) ∧
        PMap.find? (t.userTlb k m.user).entries (s.userTlb k m.user).ptr = some e ∧
        e.word.extractLsb' 0 96 = w.extractLsb' 0 96 ∧ (e.modeL = true ↔ recLease (s.ctxRecord m.ctxid) ≠ 0) ∧
        (e.modeL = true → e.word.extractLsb' 96 32 = BitVec.ofNat 32 (m.start / 1024 + recLease (s.ctxRecord m.ctxid))) ∧
        ∀ a f, a ≠ (s.userTlb k m.user).ptr → PMap.find? (t.userTlb k m.user).entries a = some f → f.overlaps e = false) ∧
      (m.state = .walked .absent → puts (.tlbFill k) s k pre { m with state := .absent (s.now + 80000) } post) ∧
      (m.state = .walked .deny → m.second = false → puts (.tlbFill k) s k pre { m with state := .denied m.start } post) ∧
      (m.state = .walked .deny → m.second = true → puts (.tlbFill k) s k pre { m with state := .final } post) ∧
      (m.state = .walked .error → puts (.tlbFill k) s k pre { m with state := .final } post)) ∧
    (∀ u, m.state = .absent u →
      (u ≤ s.now ∧ ∀ x ∈ pre, ∀ v, x.state = .absent v → s.now < v) ∨
        ((∀ x ∈ m :: post, ∀ v, x.state = .absent v → s.now < v) ∧ ∀ x ∈ pre, ∀ v, x.state ≠ .absent v) → puts (.absentRewalk k) s k pre { m with state := .queued } post) ∧
    (∀ b, m.state = .denied b → b + 64 ≤ s.now → (∀ x ∈ pre, ∀ v, x.state ≠ .denied v) →
      puts (.denyRewalk k) s k pre { m with state := .queued, second := true } post)

/-- R169, R172, R173: a sweep removes the expired entries from a cluster's TLBs; an invalidation request asks every TSC, an
acknowledgement removes what the request names from the TLBs and the view, and with the last one the request is done and INVPEND
counts the records pending at homes in the range. A request while one is in progress is ignored. -/
def Obligations.SweepsAndInvalidations : Prop :=
  let asks (i : Instr) (s : State) (a : W64) (asid : BitVec 12) : Prop :=
    (s.invDone = true → exec i s = .next { s with invAddr := a, invAsid := asid, invDone := false, invAcks := List.range 256, invReq := (a, asid) }) ∧
    (s.invDone = false → exec i s = .next s)
  (∀ (s : State) (k : Nat), ∃ t, exec (.tlbSweep k) s = .next t ∧ SameMemory s t ∧
    ∀ u, (u = .copy ∨ ∃ c ∈ coresOfCluster k, u = .core c) →
      (t.userTlb k u).entries = (s.userTlb k u).entries.filter (fun x => !x.2.expired s.now)) ∧
  (∀ (s : State) (vpn : BitVec 32) (asid : BitVec 12),
    asks (.invalVa vpn asid) s (BitVec.ofNat 64 (vpn.toNat * 65536)) asid ∧
    asks (.invalAsid asid) s ((s.invAddr &&& ~~~3) ||| 1) asid ∧ asks .invalAll s ((s.invAddr &&& ~~~3) ||| 2) s.invAsid) ∧
  (∀ (s : State) (k : Nat), s.invDone = false → k ∈ s.invAcks → s.fenced (baseCore k) = false →
    (∀ m ∈ (s.cluster k).misses, m.walking = false ∧ ∀ r, m.state ≠ .walked r) →
    ∃ t, exec (.tscAcknowledge k) s = .next t ∧ t.invAcks = s.invAcks.filter (fun a => decide (a ≠ k)) ∧
      (∀ u, (u = .copy ∨ ∃ c ∈ coresOfCluster k, u = .core c) →
        (t.userTlb k u).entries = (s.userTlb k u).entries.filter (fun x => !s.invHits x.2)) ∧
      ((∀ p ∈ s.pubs, p.lagG = 0) → SameMemory s t ∧ ∀ x ∈ (t.cluster k).view,
        x ∈ (s.cluster k).view ∧ s.invNames (BitVec.ofNat 12 (x.1 / 2 ^ 48)) (x.1 % 2 ^ 48) x.2.size = false)) ∧
  (∀ s : State, s.invDone = false → s.invAcks = [] →
    exec .invalDone s = .next { s with invDone := true, invPend := BitVec.ofNat 16 (min s.invPending 65535) })

/-! ## The copy engine (R176–R193) -/

/-- R180, R181, R191, R192: CPY with a shared side, or with an address outside its cluster, that of its shape record among them, raises cause 6 in a
compute phase. CPY whose checks pass queues one transfer on its channel and answers its number, and with the queue full keeps the
shape record and stalls; a failed check sets `xstat.ACCERR` and answers 0, and nothing is queued. CPYM does the same checks and those of R94
and waits at the tree. CPYCH gives its channel a chain once the previous one has ended. -/
def Obligations.CopyCommands : Prop :=
  let bad (i : Instr) (s : State) (rd : SReg) : Prop :=
    exec i s = .next ((s.setCtx { s.ctx with accerr := true }).setTh ((s.th.setReg rd 0).past 12))
  let stalls (i : Instr) (s : State) (rd : SReg) (w : Wait) : Prop :=
    exec i s = .next (s.setTh { s.th with stall := some ⟨12, rd, w⟩ })
  let chan (s : State) (ch : BitVec 3) : Channel := (s.cluster s.clu).channel ch.toNat
  let ringOk (s : State) (ring : BitVec 8) : Prop := ring.toNat ≤ 63 ∧ ((s.cluster s.clu).ring ring.toNat).size ≠ 0
  let queued (i : Instr) (s : State) (ch : BitVec 3) (rd : SReg) (p : Transfer → Prop) : Prop :=
    ∃ t q, exec i s = .next t ∧ SameMemory s t ∧ t.th = (s.th.setReg rd (BitVec.ofNat 64 ((chan s ch).lastNo + 1))).past 12 ∧
      (chan t ch).queue = (chan s ch).queue ++ [q] ∧ (chan t ch).lastNo = (chan s ch).lastNo + 1 ∧ q.no = (chan s ch).lastNo + 1 ∧
      q.core = s.focus ∧ q.launch = s.ctx.launch ∧ q.ctxid = s.ctx.ctxid ∧ q.state = .queued ∧ q.ch = ch.toNat ∧ p q
  (∀ (s : State) (ssh dsh dstr defer code : Bool) (ch : BitVec 3) (rd ra rb rc : SReg) (ring : BitVec 8) (tag : W32),
    s.has [ra, rb, rc, rd] = true →
    let away (a : W64) : Prop := a.extractLsb' 44 20 ≠ 0 ∨ ownCluster s.focus a = false
    let outside : Prop := ssh = true ∨ dsh = true ∨ away (s.reg ra) ∨ away (s.reg rb) ∨ away (s.reg rc)
    let i : Instr := .cpy ssh dsh dstr defer code ch rd ra rb rc ring tag
    let flags : Prop := (defer = true → dsh = true) ∧
      (code = true → ssh = true ∧ dsh = false ∧ notOpm (s.reg rb) = false ∧ opmType (s.reg rb) = 0)
    let like (h : BitVec 768) (q : Transfer) : Prop := q.ssh = ssh ∧ q.dsh = dsh ∧ q.dstr = dstr ∧ q.defer = defer ∧ q.code = code ∧
      q.src = s.reg ra ∧ q.dst = s.reg rb ∧ q.shape = shapeOf h ∧ q.ring = ring.toNat ∧ q.tag = tag ∧ q.kind = .plain
    (s.ctx.phase = .compute → outside → s.th.stall = none → exec i s = .next (trapEntry 6 (((encode i).headD 0).setWidth 64) s)) ∧
    (s.ctx.phase = .exchange ∨ ¬ outside → s.th.stall = none →
      (engineLoc s.focus s.ctx (s.reg rc) 96 = none ∨ ¬ringOk s ring ∨ ¬flags) → bad i s rd) ∧
    (s.ctx.phase = .exchange ∨ ¬ outside → s.th.stall = none → ringOk s ring → flags → ∀ l, engineLoc s.focus s.ctx (s.reg rc) 96 = some l →
      let h := BitVec.ofNat 768 (leNat (s.engineBytes s.focus l 96))
      ((chan s ch).queue.length < 16 → queued i s ch rd (like h)) ∧ (16 ≤ (chan s ch).queue.length → stalls i s rd (.copy h))) ∧
    (∀ n d h, s.th.stall = some ⟨n, d, .copy h⟩ → (chan s ch).queue.length < 16 → queued i s ch rd (like h))) ∧
  (∀ (s : State) (ssh dstr : Bool) (flag : BitVec 2) (ch : BitVec 3) (rd ra rb rc : SReg) (ring : BitVec 8) (off : W32),
    s.has [ra, rb, rc, rd] = true →
    let i : Instr := .cpym ssh dstr flag ch rd ra rb rc ring off
    (s.ctx.phase = .compute → s.th.stall = none → exec i s = .next (trapEntry 6 (((encode i).headD 0).setWidth 64) s)) ∧
    (s.ctx.phase = .exchange → s.th.stall = none →
      ((engineLoc s.focus s.ctx (s.reg rc) 96 = none ∨ ¬ringOk s ring ∨ mcastOk s (s.reg rb) = false ∨ 0x40000 ≤ off.toNat) → bad i s rd) ∧
      (ringOk s ring → mcastOk s (s.reg rb) = true → off.toNat < 0x40000 → ∀ l, engineLoc s.focus s.ctx (s.reg rc) 96 = some l →
        stalls i s rd (.mcast ⟨s.now, flag, s.reg rb, BitVec.ofNat 768 (leNat (s.engineBytes s.focus l 96)), ssh, dstr, ch, s.reg ra,
          ring, off⟩)))) ∧
  (∀ (s : State) (sh : Bool) (ch : BitVec 3) (ra : SReg) (ring : BitVec 8), s.has [ra] = true →
    let i : Instr := .cpych sh ch ra ring
    (s.ctx.phase = .compute → s.th.stall = none → exec i s = .next (trapEntry 6 (((encode i).headD 0).setWidth 64) s)) ∧
    (s.ctx.phase = .exchange → (chan s ch).chain ≠ none → s.th.stall = none → stalls i s 0 .retry) ∧
    (s.ctx.phase = .exchange → (chan s ch).chain = none → ∃ t h, exec i s = .next t ∧ SameMemory s t ∧ t.th = s.th.past 12 ∧
      (chan t ch).chain = some h ∧ h.head = some (s.reg ra) ∧ h.sh = sh ∧ h.ring = ring.toNat ∧ h.core = s.focus ∧
      h.launch = s.ctx.launch ∧ h.started = false ∧ h.failed = false ∧ (chan t ch).queue = (chan s ch).queue))

/-- R187, R189, R190, R192: CRING configures a ring that no transfer names; CAWAIT reads word 0, or with `.seq` word 1, of the oldest slot, and
CREL consumes it, each once there is one; PUBLISH makes one publication of a ring's deferred shadows, in slot order, and answers their number
after its application tick; CSEQ reads a channel's completed number; BFREE sets one buffer-free flag. Bad operands set `xstat.ACCERR`. -/
def Obligations.RingCommands : Prop :=
  let acc (s : State) : State := s.setCtx { s.ctx with accerr := true }
  let bad (i : Instr) (s : State) : Prop := exec i s = .next ((acc s).setTh (s.th.past 12))
  let badv (i : Instr) (s : State) (rd : SReg) (v : W64) : Prop := exec i s = .next ((acc s).setTh ((s.th.setReg rd v).past 12))
  let stalls (i : Instr) (s : State) : Prop := s.th.stall = none → exec i s = .next (s.setTh { s.th with stall := some ⟨12, 0, .retry⟩ })
  let ringOk (s : State) (a : W64) : Prop := a.toNat ≤ 63 ∧ ((s.cluster s.clu).ring a.toNat).size ≠ 0
  let slot (r : Ring) : Option (W64 × W64) := PMap.find? r.slots (r.rp.toNat % r.size)
  (∀ (s : State) (ra rb : SReg), s.has [ra, rb] = true →
    let a := s.reg ra
    let b := s.reg rb
    let named : Prop := ∃ q ∈ (s.cluster s.clu).transfers, q.ring = a.toNat
    (63 < a.toNat ∨ 256 < b.toNat → bad (.cring ra rb) s) ∧
    (a.toNat ≤ 63 → b.toNat ≤ 256 → (named → stalls (.cring ra rb) s) ∧
      (¬named → ∃ t, exec (.cring ra rb) s = .next t ∧ SameMemory s t ∧ t.th = s.th.past 12 ∧
        (t.cluster s.clu).ring a.toNat = ⟨b.toNat, 0, 0, [], some (s.focus, s.ctx.launch)⟩ ∧
        (∀ n, n ≠ a.toNat → (t.cluster s.clu).ring n = (s.cluster s.clu).ring n) ∧
        (t.cluster s.clu).deferred = (s.cluster s.clu).deferred.filter (fun d => decide (d.ring ≠ a.toNat))))) ∧
  (∀ (s : State) (sq : Bool) (rd ra : SReg), s.has [ra, rd] = true →
    let i : Instr := .cawait sq rd ra
    let r := (s.cluster s.clu).ring (s.reg ra).toNat
    (¬ringOk s (s.reg ra) → badv i s rd 0xDEADDEADDEADDEAD) ∧ (ringOk s (s.reg ra) → r.wp = r.rp → stalls i s) ∧
    (ringOk s (s.reg ra) → r.wp ≠ r.rp → ∀ w, slot r = some w → GivesNow i s 12 rd (if sq then w.2 else w.1))) ∧
  (∀ (s : State) (ra : SReg), s.has [ra] = true →
    let r := (s.cluster s.clu).ring (s.reg ra).toNat
    (¬ringOk s (s.reg ra) → bad (.crel ra) s) ∧ (ringOk s (s.reg ra) → r.wp = r.rp → stalls (.crel ra) s) ∧
    (ringOk s (s.reg ra) → r.wp ≠ r.rp → ∃ t, exec (.crel ra) s = .next t ∧ SameMemory s t ∧ t.th = s.th.past 12 ∧
      (t.cluster s.clu).ring (s.reg ra).toNat = { r with rp := r.rp + 1 })) ∧
  (∀ (s : State) (rd ra : SReg), s.has [ra, rd] = true →
    (7 < (s.reg ra).toNat → badv (.cseq rd ra) s rd 0xDEADDEADDEADDEAD) ∧
    ((s.reg ra).toNat ≤ 7 → GivesNow (.cseq rd ra) s 12 rd (BitVec.ofNat 64 ((s.cluster s.clu).channel (s.reg ra).toNat).doneNo))) ∧
  (∀ (s : State) (ra : SReg), s.has [ra] = true →
    (4 ≤ (s.reg ra).toNat → bad (.bfree ra) s) ∧
    ((s.reg ra).toNat < 4 → ∃ t, exec (.bfree ra) s = .next t ∧ SameMemory s t ∧ t.th = s.th.past 12 ∧
      ∀ n < 4, t.ctx.bufFree.getLsbD n = (s.ctx.bufFree.getLsbD n || decide (n = (s.reg ra).toNat)))) ∧
  (∀ (s : State) (rd ra : SReg), s.has [ra, rd] = true →
    let i : Instr := .publish rd ra
    let a := (s.reg ra).toNat
    let ds := (s.cluster s.clu).deferred.filter fun d => decide (d.ring = a)
    (s.ctx.phase = .compute → s.th.stall = none → exec i s = .next (trapEntry 6 (((encode i).headD 0).setWidth 64) s)) ∧
    (s.ctx.phase = .exchange → ¬ringOk s (s.reg ra) → badv i s rd 0) ∧
    (s.ctx.phase = .exchange → ringOk s (s.reg ra) →
      (s.th.stall = none → ds = [] → GivesNow i s 12 rd 0) ∧
      (s.th.stall = none → ds ≠ [] → ∃ t p, exec i s = .next t ∧ SameMemory s t ∧ t.pubs = s.pubs ++ [p] ∧ p.id = s.ids ∧
        p.engine = true ∧ p.source = 2048 + s.clu ∧ p.sys = false ∧ p.obj = none ∧ p.records = ds.flatMap (fun d => d.records) ∧
        p.ready = some s.now ∧ p.app = none ∧
        t.th = { s.th with stall := some ⟨12, rd, .publish s.ids ds.length⟩ } ∧
        (t.cluster s.clu).deferred = (s.cluster s.clu).deferred.filter fun d => decide (d.ring ≠ a)) ∧
      (∀ len d id n, s.th.stall = some ⟨len, d, .publish id n⟩ → (∀ p ∈ s.pubs, p.id = id → p.applied = true) →
        GivesNow i s 12 rd (BitVec.ofNat 64 n))))

/-- R185: records hold the bytes of elements, each an address and its bytes, the later of two that write a byte winning, and no other byte. -/
def ShadowCovers (l : List (W64 × List Byte)) (rs : List LogRec) : Prop :=
  ∀ x : Nat,
    let at_ (r : LogRec) : Prop := r.gran.toNat = x / 16 ∧ r.mask.getLsbD (x % 16) = true
    match l.reverse.find? fun v => decide (v.1.toNat ≤ x) && decide (x < v.1.toNat + v.2.length) with
    | none => x < 2 ^ 48 → ∀ r ∈ rs, ¬ at_ r
    | some v => ∃ r ∈ rs, at_ r ∧ r.kind = 0 ∧ v.2[x - v.1.toNat]? = some (r.byte (x % 16))

/-- R176, R182–R186, R188: the transfer at the head of a channel is checked, SHAPE before BOUNDS before the translation of its pages, and a failed
check ends it with its status
and no byte moved; one between local places moves the elements that it has left in walk order, and ends with LINK where no route to one of
them is left; from shared memory each element is what stands at the home of its page; with every element moved the full/empty bits of the granules
written are set (R184); into shared memory its elements make a shadow, the later in the walk winning. A finished one takes the next slot of its ring,
and its number becomes the channel's completed number; with a shadow it is first made a publication of.
R178: the elements of a shape in walk order, dimension 0 fastest: an index vector's number counts the dense side and its strides the other; an
element outside the box is zero bytes, or unwritten. -/
def Obligations.Transfers : Prop :=
  let chan (s : State) (k : Nat) (ch : Fin 8) : Channel := (s.cluster k).channel ch.val
  let zeros (q : Transfer) : List Byte := List.replicate q.shape.es 0
  (∀ (q : Transfer) (k : Nat) (i : List Nat), q.kind = .plain →
    let ds := q.shape.dims
    let zip : List (Dim × Nat) := ds.zip i
    let soff : W64 := (zip.map fun x => BitVec.ofNat 64 x.2 * x.1.stride.signExtend 64).sum
    let dense : W64 := BitVec.ofNat 64 (k * q.shape.es)
    let inbox (i : List Nat) : Prop := q.shape.clip = false ∨ ∀ x ∈ (ds.zip i : List (Dim × Nat)), x.1.lo ≤ x.2 ∧ x.2 < x.1.hi
    ((indices ds)[k]? = some i ↔
      i.length = ds.length ∧ (∀ x ∈ zip, x.2 < x.1.size) ∧ zip.foldr (fun x n => x.2 + x.1.size * n) 0 = k) ∧
    (q.dstr = false → q.moves.length = (indices ds).length) ∧ (q.dstr = true → (q.moves.map (·.idx)).Sublist (indices ds)) ∧
    (∀ m ∈ q.moves, q.dstr = true → inbox m.idx) ∧
    ((indices ds)[k]? = some i →
      (q.dstr = false → (inbox i → q.moves[k]? = some ⟨some (q.src + soff), q.dst + dense, i⟩) ∧
        (¬ inbox i → q.moves[k]? = some ⟨none, q.dst + dense, i⟩)) ∧
      (q.dstr = true → inbox i → ⟨some (q.src + dense), q.dst + soff, i⟩ ∈ q.moves))) ∧
  ∀ (s : State) (k : Nat) (ch : Fin 8) (q : Transfer) (rest : List Transfer),
    (chan s k ch).queue = q :: rest → (chan s k ch).chain = none → q.kind = .plain →
    let ends (i : Instr) (st : TransferState) : Prop := ∃ t, exec i s = .next t ∧ SameMemory s t ∧
      (chan t k ch).queue = { q with state := st } :: rest
    (q.state = .queued →
      (q.shape.ok = false ∨ q.shapeOk q.moves = false → ends (.transferStart k ch.val) (.done 3)) ∧
      (q.shape.ok = true → q.shapeOk q.moves = true → s.boundsGood q q.moves = false → ends (.transferStart k ch.val) (.done 4)) ∧
      (q.shape.ok = true → q.shapeOk q.moves = true → s.boundsGood q q.moves = true → q.ssh = false → q.dsh = false →
        ends (.transferStart k ch.val) .running) ∧
      (q.shape.ok = true → q.shapeOk q.moves = true → s.boundsGood q q.moves = true →
        let y := s.pages k q (q.accesses q.moves)
        let heads (h : Transfer) : Prop := ∃ t, exec (.transferStart k ch.val) s = .next t ∧ SameMemory s t ∧ (chan t k ch).queue = h :: rest
        let fits : Prop := q.dsh = true → ∀ g < 4, granulesAt (y.2.2.shadowOf y.2.1 (q.moves.map fun m => (m.dst, zeros q))) g ≤ y.2.2.poolSize g
        (y.1 = .denied → heads { q with state := .done 2 }) ∧ (y.1 = .waiting → heads y.2.1) ∧
        (y.1 = .ok → ¬ fits → heads { q with state := .done 7 }) ∧ (y.1 = .ok → fits → heads { y.2.1 with state := .running }))) ∧
    (∀ ms y, q.state = .running → ms = q.left.map (·.1) → y = s.pages k q (q.accesses ms) → y.1 = .ok → q.after ≤ s.now →
      y.2.2.sideLost k y.2.1 (q.accesses ms) ms = false → y.2.2.sideHeld k y.2.1 (q.accesses ms) ms = false →
      (q.ssh = true → q.dsh = false → q.seen = [] → q.shapeOk q.moves = true → (∀ p ∈ s.pubs, p.lagG = 0) → s.poison = [] →
        let bytes (a : W64) : List Byte := match y.2.1.entry s.now (if q.code then .codeLoad else .copyRead) a with
          | some e => (List.range q.shape.es).map fun j => s.home.read (e.key a.toNat + j)
          | none => zeros q
        ∃ t, exec (.transferComplete k ch.val) s = .next t ∧ (chan t k ch).queue.map (fun x => x.state) = .done 0 :: rest.map (fun x => x.state) ∧
          ∀ p, t.byteAt p = (ms.foldl (fun u m => u.opmWrite q.core q.launch q.origin m.dst ((m.src.map bytes).getD (zeros q))) s).byteAt p) ∧
      (q.ssh = false → q.dsh = true →
        let vals : List (W64 × List Byte) := q.got ++ ms.map fun m =>
          (m.dst, (m.src.map fun a => s.opmRead q.core q.launch q.origin a q.shape.es).getD (zeros q))
        (∀ v ∈ vals, v.1.toNat + v.2.length ≤ 2 ^ 48) → (q.shadow = [] → ∀ g < 4, y.2.2.poolUsed g +
          granulesAt (y.2.2.shadowOf y.2.1 (q.moves.map fun m => (m.dst, zeros q))) g ≤ y.2.2.poolSize g) →
        ∃ t h, exec (.transferComplete k ch.val) s = .next t ∧ SameMemory s t ∧ (chan t k ch).queue = h :: rest ∧
          h.state = .done (if q.defer then 1 else 0) ∧ ShadowCovers vals h.shadow)) ∧
    (q.state = .running → q.ssh = false → q.dsh = false → q.shadow = [] → q.got = [] →
      (∃ d ∈ q.localDies (q.left.map (·.1)), s.cutOff (k / 32) d = true) →
      ends (.transferComplete k ch.val) (.done 5)) ∧
    (q.state = .running → q.ssh = false → q.dsh = false → (∀ d ∈ q.localDies (q.left.map (·.1)),
        s.cutOff (k / 32) d = false ∧ s.routeHeld (k / 32) d = false ∧ (s.die d).resetEnd ≤ s.now) →
      (∀ c ∈ q.localCores (q.left.map (·.1)), clusterOf c = k ∨ s.fenced c = false) →
      ∃ t, exec (.transferComplete k ch.val) s = .next t ∧ ((∀ c, s.outRegion c q.launch = none) → ∀ c g, g < 16384 →
          ((t.core c).fe.getLsbD g = true ↔ (s.core c).fe.getLsbD g = true ∨ ∃ m ∈ q.moves, opmType m.dst = 0 ∧ opmCore m.dst = c ∧
            ∃ j < q.shape.es, (ulmByte q.core q.origin m.dst + j) / 16 = g)) ∧
        (chan t k ch).queue.map (fun x => x.state) = .done 0 :: rest.map (fun x => x.state) ∧
        ∀ p, t.byteAt p =
          ((q.left.map (·.1)).foldl (fun u m => u.opmWrite q.core q.launch q.origin m.dst (match m.src with
            | some a => u.opmRead q.core q.launch q.origin a q.shape.es
            | none => List.replicate q.shape.es 0)) s).byteAt p) ∧
    (∀ n, q.state = .done n → q.pub = none → q.chainRec = none → (s.cluster k).slotFree q.ring = true →
      let r := (s.cluster k).ring q.ring
      (n ≠ 0 ∨ q.shadow = [] → ∃ t w, exec (.transferComplete k ch.val) s = .next t ∧ SameMemory s t ∧ (chan t k ch).queue = rest ∧
        (chan t k ch).doneNo = max (chan s k ch).doneNo q.no ∧ ((t.cluster k).ring q.ring).wp = r.wp + 1 ∧
        PMap.find? ((t.cluster k).ring q.ring).slots (r.wp.toNat % r.size) = some (w, BitVec.ofNat 64 q.no) ∧
        w.extractLsb' 32 32 = q.tag ∧ w.extractLsb' 24 3 = BitVec.ofNat 3 ch.val ∧ w.extractLsb' 0 8 = BitVec.ofNat 8 n) ∧
      (n = 0 → q.shadow ≠ [] → ∃ t p, exec (.transferComplete k ch.val) s = .next t ∧ SameMemory s t ∧ t.pubs = s.pubs ++ [p] ∧
        p.id = s.ids ∧ p.engine = true ∧ p.source = 2048 + k ∧ p.records = q.shadow ∧ p.ready = some s.now ∧
        (chan t k ch).queue = { q with pub := some s.ids } :: rest))

/-- R191, R192: the engine takes the record at the head of a chain whose `own` bit is set and runs it as a CPY would be, follows its next
pointer, ends the chain at a record that it does not own, and writes the DENY slot of one that could not be read. The tree serves a CPYM
whose flag is set in every context of the rectangle: it clears them and queues the transfer. A running multicast with a local source writes each
element that it has left into the region of every core of the rectangle, and sets the full/empty bits of the granules written (R184). -/
def Obligations.ChainsAndMulticast : Prop :=
  let chan (s : State) (k : Nat) (ch : Fin 8) : Channel := (s.cluster k).channel ch.val
  (∀ (s : State) (k : Nat) (ch : Fin 8) (h : Chain), (chan s k ch).chain = some h → (chan s k ch).queue = [] →
    let i : Instr := .chainRecordFetch k ch.val
    let chain (t : State) (c : Option Chain) : Prop := exec i s = .next t ∧ SameMemory s t ∧ (chan t k ch).chain = c
    (h.failed = false → h.head = none → ∃ t, chain t none) ∧
    (h.failed = true → (s.cluster k).slotFree h.ring = true → h.ring ≤ 63 →
      let r := (s.cluster k).ring h.ring
      ∃ t w v, chain t none ∧ ((t.cluster k).ring h.ring).wp = r.wp + 1 ∧
        PMap.find? ((t.cluster k).ring h.ring).slots (r.wp.toNat % r.size) = some (w, v) ∧
        w.extractLsb' 32 32 = 0xFFFFFFFF ∧ w.extractLsb' 24 3 = BitVec.ofNat 3 ch.val ∧ w.extractLsb' 0 8 = 2) ∧
    (∀ a, h.failed = false → h.head = some a → h.sh = false →
      (a.toNat % 64 ≠ 0 ∨ s.chainLocal k h a 64 = false → ∃ t, chain t (some { h with failed := true, started := true })) ∧
      (a.toNat % 64 = 0 → s.chainLocal k h a 64 = true →
        let r := BitVec.ofNat 512 (leNat (s.opmRead h.core h.launch h.origin a 64))
        let shape := r.extractLsb' 192 64
        let next := r.extractLsb' 256 64
        (r.getLsbD 159 = false → ∃ t, chain t none) ∧
        (r.getLsbD 159 = true → s.ringOk k (r.extractLsb' 144 6).toNat = true → r.getLsbD 131 = false → r.getLsbD 132 = false →
          shape.toNat % 16 = 0 → s.chainLocal k h shape 96 = true →
          ∃ t q, chain t (some { h with head := if next = 0 then none else some next, started := true }) ∧ (chan t k ch).queue = [q] ∧
            q.no = (chan s k ch).lastNo + 1 ∧ q.src = r.extractLsb' 0 64 ∧ q.dst = r.extractLsb' 64 64 ∧ q.ssh = r.getLsbD 128 ∧
            q.dsh = r.getLsbD 129 ∧ q.dstr = r.getLsbD 130 ∧ q.tag = r.extractLsb' 160 32 ∧ q.ring = (r.extractLsb' 144 6).toNat ∧
            q.shape = shapeOf (BitVec.ofNat 768 (leNat (s.opmRead h.core h.launch h.origin shape 96))) ∧ q.state = .queued)))) ∧
  (∀ (s : State) (k : Nat) (ch : Fin 8) (q : Transfer) (rest : List Transfer) (rect : W64) (off : W32),
    (chan s k ch).queue = q :: rest → (chan s k ch).chain = none → q.kind = .multicast rect off → q.state = .running →
    q.ssh = false → q.dsh = false →
    let cs := (rectOf rect).cores
    (∀ d ∈ q.localDies (q.left.map (·.1)), s.cutOff (k / 32) d = false ∧ s.routeHeld (k / 32) d = false ∧ (s.die d).resetEnd ≤ s.now) →
    (∀ c ∈ q.localCores (q.left.map (·.1)), clusterOf c = k ∨ s.fenced c = false) →
    ∃ t, exec (.transferComplete k ch.val) s = .next t ∧ (chan t k ch).queue.map (fun x => x.state) = .done 0 :: rest.map (fun x => x.state) ∧
      (∀ p, t.byteAt p =
        ((q.left.map (·.1)).foldl (fun u m => cs.foldl (fun v c => v.ulmWrite c q.launch (q.origin + m.dst.toNat) (match m.src with
          | some a => u.opmRead q.core q.launch q.origin a q.shape.es
          | none => List.replicate q.shape.es 0)) u) s).byteAt p) ∧
      ((∀ c, s.outRegion c q.launch = none) → ∀ c g, g < 16384 → ((t.core c).fe.getLsbD g = true ↔ (s.core c).fe.getLsbD g = true ∨
        (c ∈ cs ∧ ∃ m ∈ q.moves, ∃ j < q.shape.es, (q.origin + m.dst.toNat + j) / 16 = g)))) ∧
  (∀ (s : State) (c : Nat) (n : Fin 11) (len : Nat) (rd : SReg) (m : Multicast),
    let x := (s.core c).run
    let k := clusterOf c
    x.resident = true → (x.thread n).stall = some ⟨len, rd, .mcast m⟩ → s.mcastAhead c n.val x.launch m = false →
    s.allFree x.launch m.flag m.rect = true → ((s.cluster k).channel m.ch.toNat).queue.length < 16 →
    ∃ t q, exec (.multicastGrant c n.val) s = .next t ∧ SameMemory s t ∧
      (∀ d ∈ (rectOf m.rect).cores, ∀ y, t.ctxOf d x.launch = some y → y.bufFree.getLsbD m.flag.toNat = false) ∧
      ((t.cluster k).channel m.ch.toNat).queue = ((s.cluster k).channel m.ch.toNat).queue ++ [q] ∧
      q.no = ((s.cluster k).channel m.ch.toNat).lastNo + 1 ∧ q.src = m.src ∧ q.dst = m.off.setWidth 64 ∧ q.tag = m.off ∧ q.dsh = false ∧
      q.kind = .multicast m.rect m.off ∧ q.shape = shapeOf m.shape ∧
      (t.core c).run.thread n = ((x.thread n).setReg rd (BitVec.ofNat 64 q.no)).past len)

/-! ## The vector unit (R205–R225) -/

/-- The rounding mode that an RM field selects (R49, R105). -/
def roundingOf (s : State) : Rm → BitVec 2
  | .dyn => s.ctx.frm
  | .rne => 0
  | .rtz => 1
  | .rdn => 2
  | .rup => 3

/-- An XV instruction enters the queue of the running context with the scalars and the rounding mode of its issue; its scalar destination is
absent from then on. With 8 entries of the context queued it is not ready (R209). -/
def EntersXv (i : Instr) (s : State) (len : Nat) (rd : SReg) (rm : Rm) (op : XvOp) (a b : W64) : Prop :=
  (8 ≤ s.cur.vecOf.length → exec i s = .next { s with waiting := true }) ∧
  (s.cur.vecOf.length < 8 → ∃ t e, exec i s = .next t ∧ SameMemory s t ∧ t.th = (s.th.expect rd).past len ∧
    t.cur.vq = s.cur.vq ++ [e] ∧ e.op = op ∧ e.a = a ∧ e.b = b ∧ e.rm = roundingOf s rm ∧ e.ftz = s.ctx.ftz ∧ e.launch = s.ctx.launch ∧
    e.thr = s.thr.val ∧ e.inc = s.th.inc ∧ e.left = op.slices ∧ e.src = none ∧ t.ctx.vregs = s.ctx.vregs ∧ t.ctx.masks = s.ctx.masks)

/-- R209, R214, R216–R219, R223–R225: every XV instruction without a memory access enters the queue with its operands, RB or IMM32 or the
literal among them. -/
def Obligations.VectorIssue : Prop :=
  (∀ (s : State) (ty dst src : Ty) (rm : Rm) (sat : Bool) (vd va vb vc : VReg) (md ma mb mk : MReg) (p : BitVec 2),
    let e (i : Instr) (rm : Rm) (op : XvOp) : Prop := EntersXv i s 12 0 rm op 0 0
    e (.vadd ty rm sat vd va vb mk) rm (.bin .add ty sat vd va vb mk) ∧ e (.vsub ty rm sat vd va vb mk) rm (.bin .sub ty sat vd va vb mk) ∧
    e (.vmul ty rm sat vd va vb mk) rm (.bin .mul ty sat vd va vb mk) ∧
    e (.vfma ty rm sat vd va vb vc mk) rm (.fma false ty sat vd va vb vc mk) ∧
    e (.vfms ty rm sat vd va vb vc mk) rm (.fma true ty sat vd va vb vc mk) ∧
    e (.vmin ty vd va vb mk) .dyn (.bin .min ty false vd va vb mk) ∧ e (.vmax ty vd va vb mk) .dyn (.bin .max ty false vd va vb mk) ∧
    e (.vabs ty sat vd va mk) .dyn (.un true ty sat vd va mk) ∧ e (.vneg ty sat vd va mk) .dyn (.un false ty sat vd va mk) ∧
    e (.vrcp rm vd va mk) rm (.fn .rcp vd va mk) ∧ e (.vrsq rm vd va mk) rm (.fn .rsq vd va mk) ∧
    e (.vsqrt rm vd va mk) rm (.fn .sqrt vd va mk) ∧ e (.vexp2 rm vd va mk) rm (.fn .exp2 vd va mk) ∧
    e (.vlog2 rm vd va mk) rm (.fn .log2 vd va mk) ∧ e (.vcmpeq ty md va vb mk) .dyn (.cmp .eq ty md va vb mk) ∧
    e (.vcmplt ty md va vb mk) .dyn (.cmp .lt ty md va vb mk) ∧ e (.vcmple ty md va vb mk) .dyn (.cmp .le ty md va vb mk) ∧
    e (.vsel vd va vb mk) .dyn (.sel vd va vb mk) ∧ e (.vand vd va vb mk) .dyn (.logic .and vd va vb mk) ∧
    e (.vor vd va vb mk) .dyn (.logic .or vd va vb mk) ∧ e (.vxor vd va vb mk) .dyn (.logic .xor vd va vb mk) ∧
    e (.vshl ty vd va vb mk) .dyn (.bin .shl ty false vd va vb mk) ∧ e (.vshr ty vd va vb mk) .dyn (.bin .shr ty false vd va vb mk) ∧
    e (.vsra ty vd va vb mk) .dyn (.bin .sra ty false vd va vb mk) ∧ e (.vcvt dst src rm p vd va mk) rm (.cvt dst src p.toNat vd va mk) ∧
    e (.vmov vd va mk) .dyn (.mov vd va mk) ∧ e (.viota ty vd mk) .dyn (.iota ty vd mk) ∧
    e (.vperm ty vd va vb mk) .dyn (.perm ty vd va vb mk) ∧ e (.vredadd ty rm vd va mk) rm (.red .add ty vd va mk) ∧
    e (.vredmax ty vd va mk) .dyn (.red .max ty vd va mk) ∧ e (.vredmin ty vd va mk) .dyn (.red .min ty vd va mk) ∧
    e (.vscan ty rm vd va mk) rm (.scan ty vd va mk) ∧ e (.vhist vd va mk) .dyn (.hist vd va mk) ∧
    e (.kand md ma mb) .dyn (.kop false md ma mb) ∧ e (.kor md ma mb) .dyn (.kop true md ma mb) ∧ e (.knot md ma) .dyn (.knot md ma)) ∧
  (∀ (s : State) (ty : Ty) (rm : Rm) (vd va : VReg) (ma mk : MReg) (rd ra rb : SReg) (imm : BitVec 32) (lit : W64) (p : BitVec 3),
    (s.has [ra] = true → EntersXv (.vbcst ty vd ra imm mk) s 12 0 .dyn (.bcst ty vd mk) (s.reg ra + imm.signExtend 64) 0 ∧
      EntersXv (.vbcstLit ty vd ra lit mk) s 20 0 .dyn (.bcst ty vd mk) (s.reg ra + lit) 0) ∧
    (s.has [rb, rd] = true → EntersXv (.vext ty rd va rb) s 12 rd .dyn (.ext ty rd va) 0 (s.reg rb) ∧
      EntersXv (.vscale ty rd va rb) s 12 rd .dyn (.scale ty rd va) 0 (s.reg rb)) ∧
    (s.has [ra, rb] = true → EntersXv (.vins ty vd ra rb) s 12 0 .dyn (.ins ty vd) (s.reg ra) (s.reg rb)) ∧
    (s.has [rb] = true → EntersXv (.vdq ty p vd va rb mk) s 12 0 .dyn (.dq ty p.toNat vd va mk) 0 (s.reg rb) ∧
      EntersXv (.vqnt ty rm p vd va rb mk) s 12 0 rm (.qnt ty p.toNat vd va mk) 0 (s.reg rb)) ∧
    (s.has [rd] = true → EntersXv (.kpop rd ma) s 12 rd .dyn (.kpop rd ma) 0 0))

/-- The issuing context runs and is not switched out now, and nothing is queued on its core's vector unit. -/
def UnitIdle (s : State) : Prop :=
  s.ctx.resident = true ∧ s.th.live = true ∧ s.cur.vq = [] ∧ s.switchDue s.focus = false ∧ ∀ d ∈ unitCores s.focus, (s.core d).vecOf = []

/-- The instruction is issued, and the unit performs it: `u` is the state then. -/
def RunsXv (i : Instr) (s u : State) : Prop := ∃ t, exec i s = .next t ∧ exec (.xvComplete s.focus) t = .next u

/-- R225: what the mask instructions write; `m0` is written by none of them. -/
def Obligations.MaskInstructions : Prop :=
  ∀ (s : State) (md ma mb : MReg) (rd : SReg), UnitIdle s →
    let gives (i : Instr) (v : W64) : Prop := ∃ u, RunsXv i s u ∧ SameMemory s u ∧ u.ctx.vregs = s.ctx.vregs ∧
      (∀ m, u.ctx.mask m = if m = md ∧ md ≠ 0 then v else s.ctx.mask m) ∧ u.th = s.th.past 12
    gives (.kand md ma mb) (s.ctx.mask ma &&& s.ctx.mask mb) ∧ gives (.kor md ma mb) (s.ctx.mask ma ||| s.ctx.mask mb) ∧
    gives (.knot md ma) (~~~s.ctx.mask ma) ∧
    (s.th.has rd = true → ∃ u, RunsXv (.kpop rd ma) s u ∧ SameMemory s u ∧ u.ctx.vregs = s.ctx.vregs ∧ (∀ m, u.ctx.mask m = s.ctx.mask m) ∧
      u.th.has rd = true ∧
      u.reg rd = if rd = 0 then 0 else BitVec.ofNat 64 ((List.range 64).filter fun j => (s.ctx.mask ma).getLsbD j).length)

/-- R215–R218: the integer operations on 32-bit lanes, the lane-wise logic, the selections, the comparisons, VIOTA, VBCST, VEXT and VINS: an
inactive lane keeps its value (VSEL and VIOTA write every lane; a comparison clears its bit), and no flag changes. -/
def IntegerLanes : Prop :=
  let lane (v : VImage) (j : Nat) : W32 := v.extractLsb' (32 * j) 32
  let frame (s u : State) : Prop := SameMemory s u ∧ u.ctx.fflags = s.ctx.fflags ∧ u.th = s.th.past 12
  let gives (i : Instr) (s : State) (vd : VReg) (f : Nat → W32) : Prop := ∃ u, RunsXv i s u ∧ frame s u ∧ u.ctx.masks = s.ctx.masks ∧
    (∀ v, v ≠ vd → u.ctx.vreg v = s.ctx.vreg v) ∧ ∀ j < 64, lane (u.ctx.vreg vd) j = f j
  let sets (i : Instr) (s : State) (md : MReg) (f : Nat → Bool) : Prop := ∃ u, RunsXv i s u ∧ frame s u ∧ u.ctx.vregs = s.ctx.vregs ∧
    (∀ m, m ≠ md → u.ctx.mask m = s.ctx.mask m) ∧ (md ≠ 0 → ∀ j < 64, (u.ctx.mask md).getLsbD j = f j)
  ∀ (s : State) (rm : Rm) (vd va vb vc : VReg) (md mk : MReg), UnitIdle s →
    let on (j : Nat) : Bool := (s.ctx.mask mk).getLsbD j
    let old (j : Nat) : W32 := lane (s.ctx.vreg vd) j
    let a (j : Nat) : W32 := lane (s.ctx.vreg va) j
    let b (j : Nat) : W32 := lane (s.ctx.vreg vb) j
    let c (j : Nat) : W32 := lane (s.ctx.vreg vc) j
    let act (f : Nat → W32) (j : Nat) : W32 := if on j then f j else old j
    (∀ ty, ty = .i32 ∨ ty = .u32 →
      gives (.vadd ty rm false vd va vb mk) s vd (act fun j => a j + b j) ∧ gives (.vsub ty rm false vd va vb mk) s vd (act fun j => a j - b j) ∧
      gives (.vmul ty rm false vd va vb mk) s vd (act fun j => a j * b j) ∧
      gives (.vfma ty rm false vd va vb vc mk) s vd (act fun j => a j * b j + c j) ∧
      gives (.vfms ty rm false vd va vb vc mk) s vd (act fun j => a j * b j - c j) ∧
      gives (.vshl ty vd va vb mk) s vd (act fun j => a j <<< (b j).toNat) ∧ gives (.vshr ty vd va vb mk) s vd (act fun j => a j >>> (b j).toNat) ∧
      sets (.vcmpeq ty md va vb mk) s md (fun j => on j && decide (a j = b j))) ∧
    gives (.vmin .i32 vd va vb mk) s vd (act fun j => if (a j).toInt ≤ (b j).toInt then a j else b j) ∧
    gives (.vmax .i32 vd va vb mk) s vd (act fun j => if (a j).toInt ≤ (b j).toInt then b j else a j) ∧
    gives (.vmin .u32 vd va vb mk) s vd (act fun j => if (a j).toNat ≤ (b j).toNat then a j else b j) ∧
    gives (.vmax .u32 vd va vb mk) s vd (act fun j => if (a j).toNat ≤ (b j).toNat then b j else a j) ∧
    gives (.vabs .i32 false vd va mk) s vd (act fun j => if (a j).toInt < 0 then -(a j) else a j) ∧
    gives (.vneg .i32 false vd va mk) s vd (act fun j => -(a j)) ∧
    gives (.vsra .i32 vd va vb mk) s vd (act fun j => (a j).sshiftRight (b j).toNat) ∧
    sets (.vcmplt .i32 md va vb mk) s md (fun j => on j && decide ((a j).toInt < (b j).toInt)) ∧
    sets (.vcmple .i32 md va vb mk) s md (fun j => on j && decide ((a j).toInt ≤ (b j).toInt)) ∧
    sets (.vcmplt .u32 md va vb mk) s md (fun j => on j && decide ((a j).toNat < (b j).toNat)) ∧
    sets (.vcmple .u32 md va vb mk) s md (fun j => on j && decide ((a j).toNat ≤ (b j).toNat)) ∧
    gives (.vand vd va vb mk) s vd (act fun j => a j &&& b j) ∧ gives (.vor vd va vb mk) s vd (act fun j => a j ||| b j) ∧
    gives (.vxor vd va vb mk) s vd (act fun j => a j ^^^ b j) ∧ gives (.vmov vd va mk) s vd (act a) ∧
    gives (.vsel vd va vb mk) s vd (fun j => if on j then a j else b j) ∧
    gives (.viota .i32 vd mk) s vd (fun j => BitVec.ofNat 32 ((List.range j).filter fun i => on i).length) ∧
    (∀ (ra rb rd : SReg) (imm : BitVec 32) (n : Nat),
      (s.has [ra] = true → gives (.vbcst .i32 vd ra imm mk) s vd (act fun _ => (s.reg ra + imm.signExtend 64).setWidth 32)) ∧
      (s.has [rb, rd] = true → n = (s.reg rb).toNat % 64 → rd ≠ 0 →
        ∃ u, RunsXv (.vext .i32 rd va rb) s u ∧ SameMemory s u ∧ u.ctx.vregs = s.ctx.vregs ∧ u.th.has rd = true ∧
          u.reg rd = (a n).signExtend 64) ∧
      (s.has [ra, rb] = true → n = (s.reg rb).toNat % 64 →
        gives (.vins .i32 vd ra rb) s vd (fun j => if j = n then (s.reg ra).setWidth 32 else old j)))

/-- An element of a register, zero-extended (R205). -/
def elemAt (w : Nat) (v : VImage) (e : Nat) : W32 := (v.extractLsb' (w * e) w).setWidth 32

/-- Whether the lane of an element is active (R215). -/
def activeAt (w : Nat) (m : W64) (e : Nat) : Bool := m.getLsbD (e * w / 32)

/-- The unit performs an instruction that writes the vector register `vd` alone: `u` is the state then. -/
def WritesVreg (i : Instr) (s u : State) (vd : VReg) : Prop :=
  RunsXv i s u ∧ SameMemory s u ∧ u.th = s.th.past 12 ∧ u.ctx.masks = s.ctx.masks ∧ ∀ v, v ≠ vd → u.ctx.vreg v = s.ctx.vreg v

/-- `fflags` gains the flags that a list of operations raises (R197). -/
def Raises (s u : State) (l : List FFlags) : Prop :=
  ∀ j < 5, u.ctx.fflags.getLsbD j = (s.ctx.fflags.getLsbD j || l.any fun f => f.bits.getLsbD j)

/-- R215: `f` gives the elements of `w` bits that lie in active lanes, each with its flags; the others keep their values and raise none. -/
def GivesElems (i : Instr) (s : State) (vd : VReg) (mk : MReg) (w : Nat) (f : Nat → W32 × FFlags) : Prop :=
  let on := (List.range (2048 / w)).filter (activeAt w (s.ctx.mask mk))
  ∃ u, WritesVreg i s u vd ∧ Raises s u (on.map fun e => (f e).2) ∧
    ∀ e < 2048 / w, elemAt w (u.ctx.vreg vd) e =
      if activeAt w (s.ctx.mask mk) e then ((f e).1.setWidth w).setWidth 32 else elemAt w (s.ctx.vreg vd) e

/-- A float result (R196–R198): the exact number rounded once to the format, flushed to a zero when `frm.ftz` says so, with NV where the
operation is invalid. -/
def roundedTo (k : Fmt) (mode : BitVec 2) (ftz : Bool) (r : Machine.Num × Bool) : W32 × FFlags :=
  let x := k.roundNum mode r.1
  let y := if ftz && k.subnormal x.1 then (k.zero (k.negOf x.1), x.2.or ⟨false, false, false, true, true⟩) else x
  (y.1, y.2.or ⟨r.2, false, false, false, false⟩)

/-- The digits `q`·2^`ex` of a positive number that `below` compares: the largest multiple of 2^`ex` not above it, with at least 32 bits;
`cut`: it lies above them. -/
def Digits (below : ℚ → Prop) (exact : ℚ → Prop) (q : Nat) (ex : Int) (cut : Bool) : Prop :=
  2 ^ 32 ≤ q ∧ below (q * 2 ^ ex) ∧ ¬ below ((q + 1) * 2 ^ ex) ∧ (cut = false ↔ exact (q * 2 ^ ex))

/-- R194–R198, R208, R216, R217: the floating-point operations: every active element takes the exact result on the inputs after FTZ, rounded once in
the mode of the instruction, and `fflags` gains the flags of the active elements. VMIN, VMAX, VABS and VNEG round nothing. 1/x, 1/√x and √x
come from their digits with whatever is cut off; 2^x and log2 x from digits within 2^-150 of the exact number, relative to it, and within
2^-108 of it (log 115); the special cases of the five functions are those of the table. That VFMA and VFMS raise NV for zero times infinity
with a NaN addend, and that UF is judged after rounding, are the model's choices (log 60). -/
def FloatLanes : Prop :=
  ∀ (s : State) (rm : Rm) (vd va vb vc : VReg) (md mk : MReg), UnitIdle s →
    let mode := roundingOf s rm
    let ftz := s.ctx.ftz
    let none5 : FFlags := ⟨false, false, false, false, false⟩
    let invalid : FFlags := ⟨true, false, false, false, false⟩
    let divZero : FFlags := ⟨false, true, false, false, false⟩
    (∀ ty k, tyFmt ty = some k →
      let w := tyWidth ty
      let gives (i : Instr) (f : Nat → W32 × FFlags) : Prop := GivesElems i s vd mk w f
      let a (e : Nat) : Machine.Num := k.input ftz (elemAt w (s.ctx.vreg va) e)
      let b (e : Nat) : Machine.Num := k.input ftz (elemAt w (s.ctx.vreg vb) e)
      let c (e : Nat) : Machine.Num := k.input ftz (elemAt w (s.ctx.vreg vc) e)
      let fused (x y z : Machine.Num) : Machine.Num × Bool := let p := mulNum x y; let r := addNum mode p.1 z; (r.1, p.2 || r.2)
      let less (x y : Machine.Num) : Bool := if x.isZero && y.isZero then x.neg && !y.neg else ltNum x y
      let pick (p : Bool) (x y : Machine.Num) : W32 := if x = .nan ∨ y = .nan then k.nan else (k.roundNum 0 (if p then x else y)).1
      gives (.vadd ty rm false vd va vb mk) (fun e => roundedTo k mode ftz (addNum mode (a e) (b e))) ∧
      gives (.vsub ty rm false vd va vb mk) (fun e => roundedTo k mode ftz (addNum mode (a e) (b e).flip)) ∧
      gives (.vmul ty rm false vd va vb mk) (fun e => roundedTo k mode ftz (mulNum (a e) (b e))) ∧
      gives (.vfma ty rm false vd va vb vc mk) (fun e => roundedTo k mode ftz (fused (a e) (b e) (c e))) ∧
      gives (.vfms ty rm false vd va vb vc mk) (fun e => roundedTo k mode ftz (fused (a e) (b e) (c e).flip)) ∧
      gives (.vmin ty vd va vb mk) (fun e => (pick (less (a e) (b e)) (a e) (b e), none5)) ∧
      gives (.vmax ty vd va vb mk) (fun e => (pick (!less (a e) (b e)) (a e) (b e), none5)) ∧
      gives (.vabs ty false vd va mk) (fun e => ((k.roundNum 0 (if (a e).neg then (a e).flip else a e)).1, none5)) ∧
      gives (.vneg ty false vd va mk) (fun e => ((k.roundNum 0 (a e).flip).1, none5))) ∧
    (let a (j : Nat) : Machine.Num := fp32.input ftz (elemAt 32 (s.ctx.vreg va) j)
     let b (j : Nat) : Machine.Num := fp32.input ftz (elemAt 32 (s.ctx.vreg vb) j)
     let gives (i : Instr) (p : Machine.Num → W32 × FFlags → Prop) : Prop := ∃ f, GivesElems i s vd mk 32 f ∧ ∀ j < 64, p (a j) (f j)
     let nv : W32 × FFlags := (0x7FC00000, invalid)
     let inf (neg : Bool) : W32 := if neg then 0xFF800000 else 0x7F800000
     let zero (neg : Bool) : W32 := if neg then 0x80000000 else 0
     let rounds (neg : Bool) (q : Nat) (ex : Int) (cut : Bool) : W32 × FFlags :=
       let x := fp32.round mode neg q ex cut
       if ftz && fp32.subnormal x.1 then (fp32.zero (fp32.negOf x.1), x.2.or ⟨false, false, false, true, true⟩) else x
     let from_ (below exact : ℚ → Prop) (neg : Bool) (r : W32 × FFlags) : Prop :=
       ∃ q ex cut, Digits below exact q ex cut ∧ r = rounds neg q ex cut
     let val (m : Nat) (e : Int) : ℚ := m * 2 ^ e
     gives (.vrcp rm vd va mk) (fun x r => match x with
       | .nan => r = (0x7FC00000, none5)
       | .inf n => r = (zero n, none5)
       | .fin n 0 _ => r = (inf n, divZero)
       | .fin n m e => from_ (fun y => y * val m e ≤ 1) (fun y => y * val m e = 1) n r) ∧
     gives (.vrsq rm vd va mk) (fun x r => match x with
       | .nan => r = (0x7FC00000, none5)
       | .inf n => r = if n then nv else (0, none5)
       | .fin n 0 _ => r = (inf n, divZero)
       | .fin n m e => if n then r = nv else from_ (fun y => y * y * val m e ≤ 1) (fun y => y * y * val m e = 1) false r) ∧
     gives (.vsqrt rm vd va mk) (fun x r => match x with
       | .nan => r = (0x7FC00000, none5)
       | .inf n => r = if n then nv else (inf false, none5)
       | .fin n 0 _ => r = (zero n, none5)
       | .fin n m e => if n then r = nv else from_ (fun y => y * y ≤ val m e) (fun y => y * y = val m e) false r) ∧
     gives (.vexp2 rm vd va mk) (fun x r => match x with
       | .nan => r = (0x7FC00000, none5)
       | .inf n => r = (if n then 0 else inf false, none5)
       | .fin _ 0 _ => r = (0x3F800000, none5)
       | .fin n m e =>
         let x : ℚ := if n then -val m e else val m e
         (∀ z : Int, |z| < 2 ^ 20 → x = z → r = rounds false 1 z false) ∧
         (2 ^ 21 ≤ |x| → r = rounds false 1 (if n then -2000 else 2000) false) ∧
         (|x| < 2 ^ (-30 : Int) → r = rounds false (if n then 2 ^ 64 - 1 else 2 ^ 64) (-64) true) ∧
         (2 ^ (-30 : Int) ≤ |x| → |x| < 2 ^ 21 → (∀ z : Int, x ≠ z) → ∃ (q : Nat) (ex : Int), 2 ^ 32 ≤ q ∧ r = rounds false q ex true ∧
           |(((q * 2 ^ ex : ℚ) : ℝ)) - (2 : ℝ) ^ (x : ℝ)| ≤ 2 ^ (-150 : Int) * (2 : ℝ) ^ (x : ℝ))) ∧
     gives (.vlog2 rm vd va mk) (fun x r => match x with
       | .nan => r = (0x7FC00000, none5)
       | .inf n => r = if n then nv else (inf false, none5)
       | .fin _ 0 _ => r = (inf true, divZero)
       | .fin n m e => if n then r = nv else (∀ z : Int, val m e = 2 ^ z → r = rounds (decide (z < 0)) z.natAbs 0 false) ∧
         ((∀ z : Int, val m e ≠ 2 ^ z) → ∃ q : Nat, r = rounds (decide (val m e < 1)) q (-110) true ∧
           |(if val m e < 1 then -(q : ℝ) else q) * 2 ^ (-110 : Int) - Real.logb 2 ((val m e : ℚ) : ℝ)| ≤ 2 ^ (-108 : Int))) ∧
     ∀ (i : Instr) (holds : Machine.Num → Machine.Num → Bool) (quiet : Bool),
       (i = .vcmpeq .f32 md va vb mk ∧ holds = eqNum ∧ quiet = true ∨ i = .vcmplt .f32 md va vb mk ∧ holds = ltNum ∧ quiet = false ∨
         i = .vcmple .f32 md va vb mk ∧ holds = (fun x y => ltNum x y || eqNum x y) ∧ quiet = false) →
       ∃ u, RunsXv i s u ∧ SameMemory s u ∧ u.th = s.th.past 12 ∧ u.ctx.vregs = s.ctx.vregs ∧
         (∀ m, m ≠ md → u.ctx.mask m = s.ctx.mask m) ∧
         (md ≠ 0 → ∀ j < 64, (u.ctx.mask md).getLsbD j = ((s.ctx.mask mk).getLsbD j && holds (a j) (b j))) ∧
         Raises s u (((List.range 64).filter fun j => (s.ctx.mask mk).getLsbD j).map fun j =>
           ⟨!quiet && (a j == .nan || b j == .nan), false, false, false, false⟩))

/-- R199, R215–R217: the integer operations of every width, modulo 2^w or with `.sat` saturated, without a flag; and VCVT, which takes the block
that `p` names by the table of R199. -/
def TypedLanes : Prop :=
  ∀ (s : State) (rm : Rm) (vd va vb vc : VReg) (mk : MReg) (sat : Bool), UnitIdle s →
    let mode := roundingOf s rm
    let ftz := s.ctx.ftz
    let quiet (x : W32) : W32 × FFlags := (x, ⟨false, false, false, false, false⟩)
    let int (ty : Ty) (x : W32) : Int := if ty.isSigned then (x.setWidth (tyWidth ty)).toInt else (x.toNat % 2 ^ tyWidth ty : Nat)
    let lo (ty : Ty) : Int := if ty.isSigned then -2 ^ (tyWidth ty - 1) else 0
    let hi (ty : Ty) : Int := if ty.isSigned then 2 ^ (tyWidth ty - 1) - 1 else 2 ^ tyWidth ty - 1
    let clamp (ty : Ty) (v : Int) : W32 := BitVec.ofInt 32 (max (lo ty) (min (hi ty) v))
    (∀ ty : Ty, ty.isInt = true →
      let w := tyWidth ty
      let a (e : Nat) : Int := int ty (elemAt w (s.ctx.vreg va) e)
      let b (e : Nat) : Int := int ty (elemAt w (s.ctx.vreg vb) e)
      let c (e : Nat) : Int := int ty (elemAt w (s.ctx.vreg vc) e)
      let n (e : Nat) : Nat := (elemAt w (s.ctx.vreg vb) e).toNat
      let gives (i : Instr) (f : Nat → Int) : Prop := GivesElems i s vd mk w fun e => quiet (BitVec.ofInt 32 (f e))
      let givesSat (i : Instr) (f : Nat → Int) : Prop :=
        GivesElems i s vd mk w fun e => quiet (if sat then clamp ty (f e) else BitVec.ofInt 32 (f e))
      givesSat (.vadd ty rm sat vd va vb mk) (fun e => a e + b e) ∧ givesSat (.vsub ty rm sat vd va vb mk) (fun e => a e - b e) ∧
      givesSat (.vmul ty rm sat vd va vb mk) (fun e => a e * b e) ∧
      givesSat (.vfma ty rm sat vd va vb vc mk) (fun e => a e * b e + c e) ∧
      givesSat (.vfms ty rm sat vd va vb vc mk) (fun e => a e * b e - c e) ∧
      givesSat (.vabs ty sat vd va mk) (fun e => |a e|) ∧ givesSat (.vneg ty sat vd va mk) (fun e => -a e) ∧
      gives (.vmin ty vd va vb mk) (fun e => min (a e) (b e)) ∧ gives (.vmax ty vd va vb mk) (fun e => max (a e) (b e)) ∧
      gives (.vshl ty vd va vb mk) (fun e => if w ≤ n e then 0 else a e * 2 ^ n e) ∧
      gives (.vshr ty vd va vb mk) (fun e => if w ≤ n e then 0 else (elemAt w (s.ctx.vreg va) e).toNat / 2 ^ n e) ∧
      (ty.isSigned = true → gives (.vsra ty vd va vb mk) (fun e => if w ≤ n e then (if a e < 0 then -1 else 0) else a e / 2 ^ n e))) ∧
    (∀ ty : Ty, ty.isFloat = true ∨ ty.isInt = true →
      let w := tyWidth ty
      GivesElems (.vperm ty vd va vb mk) s vd mk w fun e =>
        quiet (elemAt w (s.ctx.vreg va) ((elemAt w (s.ctx.vreg vb) e).toNat % (2048 / w)))) ∧
    (∀ (dst src : Ty) (p : BitVec 2), (dst.isFloat = true ∨ dst.isInt = true) → (src.isFloat = true ∨ src.isInt = true) →
      let ws := tyWidth src
      let wd := tyWidth dst
      let cvt (x : W32) : W32 × FFlags := match tyFmt src, tyFmt dst with
        | some k, some l => roundedTo l mode ftz (k.input ftz x, false)
        | none, some l => roundedTo l mode ftz (.fin (decide (int src x < 0)) (int src x).natAbs 0, false)
        | none, none => quiet (clamp dst (int src x))
        | some k, none => match k.input ftz x with
          | .nan => (0, ⟨true, false, false, false, false⟩)
          | .inf neg => (clamp dst (if neg then lo dst else hi dst), ⟨true, false, false, false, false⟩)
          | .fin neg m e =>
            let v := roundInt mode neg m e false
            if v.1 < lo dst ∨ hi dst < v.1 then (clamp dst v.1, ⟨true, false, false, false, false⟩)
            else (BitVec.ofInt 32 v.1, ⟨false, false, false, false, v.2⟩)
      GivesElems (.vcvt dst src rm p vd va mk) s vd mk wd fun e =>
        if ws ≤ wd then cvt (elemAt ws (s.ctx.vreg va) (p.toNat * (2048 / wd) + e))
        else if p.toNat * (2048 / ws) ≤ e ∧ e < (p.toNat + 1) * (2048 / ws) then cvt (elemAt ws (s.ctx.vreg va) (e - p.toNat * (2048 / ws)))
        else quiet (elemAt wd (s.ctx.vreg vd) e))

/-- R208, R219: VREDADD sums the elements of the active lanes, widened, in the pairwise tree, VREDMAX and VREDMIN take the largest and the
smallest, into lane 0, and the other lanes become 0; VSCAN leaves the prefixes. That `frm.ftz` flushes every partial sum is the model's choice
(log 95). -/
def Reductions : Prop :=
  ∀ (s : State) (rm : Rm) (vd va : VReg) (mk : MReg) (ty : Ty), UnitIdle s → ty.isFloat = true ∨ ty.isInt = true →
    let mode := roundingOf s rm
    let ftz := s.ctx.ftz
    let w := tyWidth ty
    let n := 2048 / w
    let wide (x : W32) : W32 := match tyFmt ty with
      | some k => (fp32.roundNum 0 (k.input ftz x)).1
      | none => if ty.isSigned then (x.setWidth w).signExtend 32 else x
    let x (e : Nat) : Option W32 :=
      if activeAt w (s.ctx.mask mk) e then some (wide (elemAt w (s.ctx.vreg va) e)) else none
    let add (p q : Option W32) : Option W32 × FFlags := match p, q with
      | some a, some b => match tyFmt ty with
        | some _ =>
          let r := roundedTo fp32 mode ftz (addNum mode (fp32.input ftz a) (fp32.input ftz b))
          (some r.1, r.2)
        | none => (some (a + b), ⟨false, false, false, false, false⟩)
      | some a, none => (some a, ⟨false, false, false, false, false⟩)
      | none, q => (q, ⟨false, false, false, false, false⟩)
    let first (i : Instr) (r : Option W32) (l : List FFlags) : Prop := ∃ u, WritesVreg i s u vd ∧ Raises s u l ∧
      elemAt 32 (u.ctx.vreg vd) 0 = r.getD 0 ∧ ∀ j < 64, j ≠ 0 → elemAt 32 (u.ctx.vreg vd) j = 0
    let halves : List Nat := (List.range (Nat.log2 n)).map fun k => 2 ^ k
    (∃ level : Nat → Nat → Option W32,
      let sum (h e : Nat) : Option W32 × FFlags := add (level (2 * h) e) (level (2 * h) (e + h))
      (∀ e < n, level n e = x e) ∧ (∀ h ∈ halves, ∀ e < h, level h e = (sum h e).1) ∧
      first (.vredadd ty rm vd va mk) (level 1 0) (halves.flatMap fun h => (List.range h).map fun e => (sum h e).2)) ∧
    (ty.isInt = true → ∀ (i : Instr) (le : W32 → W32 → Prop),
      let num (v : W32) : Int := if ty.isSigned then v.toInt else v.toNat
      (i = .vredmax ty vd va mk ∧ le = (fun p q => num p ≤ num q) ∨ i = .vredmin ty vd va mk ∧ le = (fun p q => num q ≤ num p)) →
      ∃ r, first i r [] ∧ (r = none ↔ ∀ e < n, x e = none) ∧ ∀ v, r = some v → (∃ e < n, x e = some v) ∧ ∀ e < n, ∀ y, x e = some y → le y v) ∧
    (ty.isFloat = true → ∀ (i : Instr) (top : Bool),
      let less (p q : W32) : Bool :=
        let p := fp32.decode p; let q := fp32.decode q; if p.isZero && q.isZero then p.neg && !q.neg else ltNum p q
      (i = .vredmax ty vd va mk ∧ top = true ∨ i = .vredmin ty vd va mk ∧ top = false) → ∃ r, first i r [] ∧
      (r = none ↔ ∀ e < n, x e = none) ∧ ((∃ e < n, ∃ y, x e = some y ∧ fp32.decode y = .nan) → r = some 0x7FC00000) ∧
      ((∀ e < n, ∀ y, x e = some y → fp32.decode y ≠ .nan) → ∀ v, r = some v → (∃ e < n, x e = some v) ∧
        ∀ e < n, ∀ y, x e = some y → (if top then less v y else less y v) = false)) ∧
    (w = 32 → ∃ (u : State) (p : Nat → Option W32), WritesVreg (.vscan ty rm vd va mk) s u vd ∧ p 0 = x 0 ∧
      (∀ e < 63, p (e + 1) = if (x (e + 1)).isSome then (add (p e) (x (e + 1))).1 else p e) ∧
      Raises s u (((List.range 63).filter fun e => (x (e + 1)).isSome).map fun e => (add (p e) (x (e + 1))).2) ∧
      ∀ j < 64, elemAt 32 (u.ctx.vreg vd) j = (p j).getD 0)

/-- R200–R204, R223, R224: VDQ decodes the codes of block `p` in active lanes, FTZ following; VQNT encodes active lanes into block `p` and leaves
the other codes; VHIST adds to the bins, each saturating at 255; VSCALE gives the scale at the percentile that RB names. -/
def BlockLanes : Prop :=
  ∀ (s : State) (rm : Rm) (vd va : VReg) (rb : SReg) (mk : MReg) (p : BitVec 3), UnitIdle s → s.has [rb] = true →
    let mode := roundingOf s rm
    let ftz := s.ctx.ftz
    let b := s.reg rb
    let scale : W32 := b.setWidth 32
    let u := (b.extractLsb' 32 8).toNat
    let block : W32 := mulF32 (fp32.decode (mulF32 (fp32.decode scale) (.fin false u 0))) (fp32.decode 0x3B808081)
    let level (m : Nat) : Machine.Num := bf16.decode (([0x3D2C, 0x3E02, 0x3E5D, 0x3E9F, 0x3ED5, 0x3F0B, 0x3F35, 0x3F80][m]?).getD 0)
    let flushed (x : W32) : W32 × FFlags :=
      if ftz && fp32.subnormal x then (fp32.zero (fp32.negOf x), ⟨false, false, false, true, true⟩) else (x, ⟨false, false, false, false, false⟩)
    let code (w j : Nat) : W32 := elemAt w (s.ctx.vreg va) (64 * p.toNat + j)
    let int (v : Int) : Machine.Num := .fin (decide (v < 0)) v.natAbs 0
    GivesElems (.vdq .bq8s p vd va rb mk) s vd mk 32 (fun j =>
      let q : Int := ((code 8 j).setWidth 8).toInt
      flushed (mulF32 (int (if q = -128 then -127 else q)) (fp32.decode scale))) ∧
    GivesElems (.vdq .bq8u p vd va rb mk) s vd mk 32 (fun j => flushed (mulF32 (int ((code 8 j).toNat % 256 : Nat)) (fp32.decode scale))) ∧
    GivesElems (.vdq .nq4 p vd va rb mk) s vd mk 32 (fun j =>
      let c := code 4 j
      let v := mulF32 (fp32.decode block) (level (c.toNat % 8))
      flushed (if u = 0 then 0 else if fp32.decode scale = .nan then 0x7FC00000 else if c.getLsbD 3 then v ^^^ 0x80000000 else v)) ∧
    (∀ ty w, (ty = .bq8s ∧ w = 8 ∨ ty = .bq8u ∧ w = 8 ∨ ty = .nq4 ∧ w = 4) → (w = 8 → p.toNat < 4) →
      let on (j : Nat) : Bool := (s.ctx.mask mk).getLsbD j
      let x (j : Nat) : Machine.Num := fp32.input ftz (elemAt 32 (s.ctx.vreg va) j)
      ∃ (t : State) (f : Nat → W32 × FFlags), WritesVreg (.vqnt ty rm p vd va rb mk) s t vd ∧
        Raises s t (((List.range 64).filter on).map fun j => (f j).2) ∧
        (∀ e < 2048 / w, elemAt w (t.ctx.vreg vd) e =
          if 64 * p.toNat ≤ e ∧ e < 64 * p.toNat + 64 ∧ on (e - 64 * p.toNat) = true then ((f (e - 64 * p.toNat)).1.setWidth w).setWidth 32
          else elemAt w (s.ctx.vreg vd) e) ∧
        ∀ j < 64, (x j = .nan → f j = (0, ⟨true, false, false, false, false⟩)) ∧
          (ty = .nq4 → x j ≠ .nan → (f j).2 = ⟨false, false, false, false, false⟩ ∧ (f j).1.getLsbD 3 = (x j).neg ∧
            (∀ n d, fp32.decode block = .nan ∨ fp32.decode block = .inf n ∨ fp32.decode block = .fin n 0 d → (f j).1.toNat % 8 = 0) ∧
            (∀ n k l d, x j = .inf n → fp32.decode block = .fin k l d → l ≠ 0 → (f j).1.toNat % 8 = 7) ∧
            ∀ sx mx ex sb mb eb, x j = .fin sx mx ex → fp32.decode block = .fin sb mb eb → mb ≠ 0 →
              ∃ m < 8, (f j).1.toNat % 8 = m ∧ ∀ k < 8, ∀ sl ml el tl nl dl, level m = .fin sl ml el → level k = .fin tl nl dl →
                let y : ℚ := mx * 2 ^ ex / (mb * 2 ^ eb)
                let y := if sb then -y else y
                let dist (n : Nat) (d : Int) : ℚ := |y - n * 2 ^ d|
                dist ml el ≤ dist nl dl ∧ (k < m → dist ml el < dist nl dl)) ∧
          (ty ≠ .nq4 → x j ≠ .nan →
            let low : Int := if ty = .bq8s then -127 else 0
            let high : Int := if ty = .bq8s then 127 else 255
            let out (v : Int) (nv nx : Bool) : W32 × FFlags := (BitVec.ofInt 32 (v % 256), ⟨nv, false, false, false, nx⟩)
            (fp32.decode scale = .nan → f j = out 0 true false) ∧
            (∀ n, x j = .inf n → fp32.decode scale ≠ .nan → f j = out (if n = (fp32.decode scale).neg then high else low) true false) ∧
            (∀ n m e k, x j = .fin n m e → fp32.decode scale = .inf k → f j = out 0 false false) ∧
            (∀ n m e k d, x j = .fin n m e → fp32.decode scale = .fin k 0 d → f j = out 0 false false) ∧
            ∀ n m e k l d, x j = .fin n m e → fp32.decode scale = .fin k l d → l ≠ 0 →
              ∀ (v : Int) (cut : Bool), roundInt mode (n != k) (m * 2 ^ 400 / l) (e - d - 400) (decide (m * 2 ^ 400 % l ≠ 0)) = (v, cut) →
                f j = if v < low then out low true false else if high < v then out high true false else out v false cut)) ∧
    (∃ t, WritesVreg (.vhist vd va mk) s t vd ∧ t.ctx.fflags = s.ctx.fflags ∧ ∀ k < 256, (elemAt 8 (t.ctx.vreg vd) k).toNat =
      min 255 ((elemAt 8 (s.ctx.vreg vd) k).toNat + ((List.range 64).filter fun j => (s.ctx.mask mk).getLsbD j &&
        ((elemAt 32 (s.ctx.vreg va) j).extractLsb' 23 8).toNat == k).length)) ∧
    (∀ rd, s.th.has rd = true → rd ≠ 0 →
      let sum (k : Nat) : Nat := ((List.range k).map fun j => (elemAt 8 (s.ctx.vreg va) (j + 1)).toNat).sum
      let t : Nat := max 1 ((sum 254 * min (b.extractLsb' 0 11).toNat 1024 + 1023) / 1024)
      let gives (ty : Ty) (p : W64 → Prop) : Prop := ∃ z, RunsXv (.vscale ty rd va rb) s z ∧ SameMemory s z ∧ z.ctx.vregs = s.ctx.vregs ∧
        z.ctx.fflags = s.ctx.fflags ∧ z.th.has rd = true ∧ p (z.reg rd)
      (sum 254 = 0 → gives .bq8s (· = 0) ∧ gives .bq8u (· = 0) ∧ gives .nq4 (· = (b.extractLsb' 32 32).setWidth 64)) ∧
      ∀ e, 1 ≤ e → e ≤ 254 → t ≤ sum e → sum (e - 1) < t →
        let div (d : Nat) (v : W64) : Prop := ∃ q ex cut, Digits (fun y => y * d ≤ (2 : ℚ) ^ ((e : Int) - 126))
          (fun y => y * d = (2 : ℚ) ^ ((e : Int) - 126)) q ex cut ∧ v = ((fp32.round 0 false q ex cut).1).setWidth 64
        gives .bq8s (div 127) ∧ gives .bq8u (div 255) ∧
        gives .nq4 fun v => v.extractLsb' 0 32 = b.extractLsb' 32 32 ∧ v.extractLsb' 40 24 = 0 ∧
          match fp32.decode (b.extractLsb' 32 32) with
          | .fin false m d => if m = 0 then v.extractLsb' 32 8 = 0 else
            ((v.extractLsb' 32 8).toNat : Int) = min 255 ⌈(2 : ℚ) ^ ((e : Int) - 126) * 255 / (m * 2 ^ d)⌉
          | _ => v.extractLsb' 32 8 = 0)

/-- R194–R208, R215–R219, R223, R224: what the vector instructions leave in their destination and in `fflags`: the integer lanes, the floating-point
elements, the conversions and typed elements, the reductions and prefixes, and the block formats (`IntegerLanes`, `FloatLanes`, `TypedLanes`,
`Reductions`, `BlockLanes`). An inactive element keeps its value and raises nothing. Where the float clauses go beyond the spec's words they are
the model's: NV of VFMA and VFMS for zero times infinity with a NaN addend, and UF judged after rounding (log 60), a conversion to equal
width that rounds by `frm` and judges the range after rounding (log 61), FTZ of every partial sum (log 95), and the digits that VEXP2 and
VLOG2 round (log 115). -/
def Obligations.VectorResults : Prop := IntegerLanes ∧ FloatLanes ∧ TypedLanes ∧ Reductions ∧ BlockLanes

/-- R221: a shared vector store appends lane after lane, an address and a value each, as an SSTW would, and enters the queue with the sequence
numbers between which its records are: `c n` is the state after `n` lanes. -/
def StoresLanes (i : Instr) (s : State) (len : Nat) (k : XvAddr) (vs : VReg) (mk : MReg) (l : List (W64 × W32)) : Prop :=
  ∃ (t : State) (e : XvEntry) (c : Nat → State), exec i s = .next t ∧ t.th = s.th.past len ∧ t.cur.vq = s.cur.vq ++ [e] ∧
    e.op = .store true k vs mk ∧ (s.cur.buffered + l.length ≤ 2048 → SameMemory s t) ∧ t.ctx.vregs = s.ctx.vregs ∧
    c 0 = s ∧ SameMemory (c l.length) t ∧ t.cur.log = (c l.length).cur.log ∧ t.ctx = (c l.length).ctx ∧
    e.a = BitVec.ofNat 64 ((l.head?.bind fun x => s.mergeSeq (x.1.extractLsb' 4 44)).getD s.seq) ∧
    e.b = BitVec.ofNat 64 (c l.length).seq ∧
    ∀ n a w, l[n]? = some (a, w) →
      let u := c n
      let v := c (n + 1)
      let bad : Prop := 2 ^ 48 ≤ a.toNat ∨ a.toNat % 4 ≠ 0
      { v.ctx with fence := u.ctx.fence, lsn := u.ctx.lsn } = u.ctx ∧
      (bad → v.cur.log = u.cur.log ∧ v.ctx.fence = u.ctx.fence.fail a true false 1 ∧ v.ctx.lsn = u.ctx.lsn ∧ SameMemory u v) ∧
      (¬ bad → v.ctx.fence = u.ctx.fence ∧
        (u.mergeSeq (a.extractLsb' 4 44) = none → ∃ r, v.cur.log = u.cur.log ++ [r] ∧ MadeRecord u r 0 false none ∧
          HoldsBytes r a 4 (w.setWidth 64) ∧ v.ctx.lsn = u.ctx.lsn + 1 ∧ v.seq = u.seq + 1 ∧ SpillsTo u v r) ∧
        ∀ q, u.mergeSeq (a.extractLsb' 4 44) = some q →
          MergesBytes u v q a 4 (w.setWidth 64) ∧ v.ctx.lsn = u.ctx.lsn ∧ v.seq = u.seq ∧ SameMemory u v)

/-- R220, R221: a vector load or store whose base names another cluster, or with `.sh`, raises cause 6 in a compute phase; otherwise a load and
a local store enter the queue with their base and stride. A shared store goes on once every earlier XV instruction has completed and the log
has room for its lanes, which it takes with their values at issue, appends each as an SSTW would, and enters the queue, to complete when its
records are accepted; without room it stalls, and LOG_FULL raises cause 7. A lane of a shared load is performed as an SLDW, said of the last
that is left; what the others have read is kept with the entry.
R220: the unit performs a local vector load or store lane by lane, at ea + 4j, ea + j·b or ea plus the index of lane j: a lane that passes
the checks of a 4-byte access is read or written; a lane that fails loads 0xDEADDEAD, or stores nothing, and sets `xstat.ACCERR`; a loading
lane that no route reaches fails too (R313). Said of a lone entry that has run its slices and performed no lane yet, none of whose lanes waits
behind what its core has sent; of a store, that only the bytes of lanes that pass may change, and the bytes of a lone lane. That phase and mode
are those of the lane's own tick is the model's choice (log 95). -/
def Obligations.VectorMemory : Prop :=
  (let traps (i : Instr) (s : State) (sh : Bool) (ea : W64) : Prop := s.ctx.phase = .compute → (sh = true ∨ leavesCluster s.focus ea = true) →
     s.th.stall = none → s.cur.vecOf.length < 8 →
     exec i s = .next (trapEntry 6 (((encode i).headD 0).setWidth 64) s)
   let free (s : State) (sh : Bool) (ea : W64) : Prop := s.ctx.phase = .exchange ∨ (sh = false ∧ leavesCluster s.focus ea = false)
   let loads (i : Instr) (s : State) (len : Nat) (sh : Bool) (k : XvAddr) (vd : VReg) (ea b : W64) (mk : MReg) : Prop :=
     traps i s sh ea ∧ (free s sh ea → EntersXv i s len 0 .dyn (.load sh k vd mk) ea b ∧
       (s.cur.vecOf.length < 8 → ∃ t e, exec i s = .next t ∧ t.cur.vq = s.cur.vq ++ [e] ∧ e.seq = s.seq ∧ e.after = s.th.fenceL ∧
         e.ctxid = s.ctx.ctxid ∧ e.next = 0 ∧ e.got = [] ∧
         (sh = true → e.own = s.cur.log.filter fun r => r.launch == s.ctx.launch && r.kind == 0)))
   let stores (i : Instr) (s : State) (len : Nat) (sh : Bool) (k : XvAddr) (vs : VReg) (ea b : W64) (mk : MReg) : Prop :=
     traps i s sh ea ∧ (sh = false → free s sh ea → EntersXv i s len 0 .dyn (.store false k vs mk) ea b) ∧
     (sh = true → s.ctx.phase = .exchange → s.th.stall = none → s.cur.vecOf.length < 8 →
       let lanes := (List.range 64).filter fun j => (s.ctx.mask mk).getLsbD j
       (s.xvLeft s.seq = true → exec i s = .next { s with waiting := true }) ∧
       let lane (j : Nat) : W64 × W32 := (match k with
         | .unit => ea + BitVec.ofNat 64 (4 * j)
         | .stride => ea + BitVec.ofNat 64 j * b
         | .index vb => ea + ((s.ctx.vreg vb).extractLsb' (32 * j) 32).signExtend 64, (s.ctx.vreg vs).extractLsb' (32 * j) 32)
       (s.xvLeft s.seq = false → lanes.length ≤ s.logRoom → StoresLanes i s len k vs mk (lanes.map lane)) ∧
       (s.xvLeft s.seq = false → s.logRoom < lanes.length →
         if s.ctx.logcap = 0 then exec i s = .next (trapEntry 7 ea s)
         else exec i s = .next (s.setTh { s.th with stall := some ⟨len, 0, .log s.now ea (lanes.map lane)⟩ }))) ∧
     (sh = true → s.cur.vecOf.length < 8 → ∀ m q since a l, s.th.stall = some ⟨m, q, .log since a l⟩ → l.length ≤ s.logRoom →
       StoresLanes i s len k vs mk l)
   ∀ (s : State) (sh : Bool) (v vb : VReg) (ra rb : SReg) (imm : BitVec 32) (lit : W64) (mk : MReg),
     let ea := s.reg ra + imm.signExtend 64
     let el := s.reg ra + lit
     (s.has [ra] = true →
       loads (.vld sh v ra imm mk) s 12 sh .unit v ea 0 mk ∧ loads (.vldLit sh v ra lit mk) s 20 sh .unit v el 0 mk ∧
       stores (.vst sh v ra imm mk) s 12 sh .unit v ea 0 mk ∧ stores (.vstLit sh v ra lit mk) s 20 sh .unit v el 0 mk ∧
       loads (.vgth sh v ra vb imm mk) s 12 sh (.index vb) v ea 0 mk ∧ loads (.vgthLit sh v ra vb lit mk) s 20 sh (.index vb) v el 0 mk ∧
       stores (.vsct sh v ra vb imm mk) s 12 sh (.index vb) v ea 0 mk ∧ stores (.vsctLit sh v ra vb lit mk) s 20 sh (.index vb) v el 0 mk) ∧
     (s.has [ra, rb] = true →
       loads (.vlds sh v ra rb imm mk) s 12 sh .stride v ea (s.reg rb) mk ∧ loads (.vldsLit sh v ra rb lit mk) s 20 sh .stride v el (s.reg rb) mk ∧
       stores (.vsts sh v ra rb imm mk) s 12 sh .stride v ea (s.reg rb) mk ∧ stores (.vstsLit sh v ra rb lit mk) s 20 sh .stride v el (s.reg rb) mk)) ∧
  (∀ (s : State) (e : XvEntry) (k : XvAddr) (v : VReg) (mk : MReg), s.cur.vq = [e] → e.launch = s.ctx.launch → e.left = 0 →
     e.next = 0 → e.got = [] → s.ctx.resident = true →
     let x := e.view s.ctx
     let on (j : Nat) : Prop := j < 64 ∧ (x.mask mk).getLsbD j = true
     let ea (j : Nat) : W64 := match k with
       | .unit => e.a + BitVec.ofNat 64 (4 * j)
       | .stride => e.a + BitVec.ofNat 64 j * e.b
       | .index vb => e.a + ((x.vreg vb).extractLsb' (32 * j) 32).signExtend 64
     let pass (j : Nat) : Bool := (localCheck .hexit false false (ea j) 4 s).isNone
     let near (j : Nat) : Bool := pass j && !s.cutOff (dieOf s.focus) (opmDie (ea j))
     (∀ j, on j → localCheck .hexit false false (ea j) 4 s ≠ some .remote ∧ (pass j = true → s.behind (ea j) = false)) →
     (e.op = .load false k v mk → ∃ t, exec (.xvComplete s.focus) s = .next t ∧ SameMemory s t ∧ t.th = s.th ∧
       (∀ w, w ≠ v → t.ctx.vreg w = s.ctx.vreg w) ∧
       (∀ j, on j → (t.ctx.vreg v).extractLsb' (32 * j) 32 = if near j then (s.readLocal (ea j) 4).setWidth 32 else 0xDEADDEAD) ∧
       (∀ j < 64, ¬on j → (t.ctx.vreg v).extractLsb' (32 * j) 32 = (s.ctx.vreg v).extractLsb' (32 * j) 32) ∧
       ((∃ j, on j ∧ near j = false) → t.ctx.accerr = true)) ∧
     (e.op = .store false k v mk → s.memOk = true → (∀ j, on j → opmType (ea j) = 0 ∨ opmType (ea j) = 4 ∨ opmType (ea j) = 5 ∨ opmType (ea j) = 6) →
       ∃ t, exec (.xvComplete s.focus) s = .next t ∧ t.th = s.th ∧ t.ctx.vregs = s.ctx.vregs ∧
         (∀ p, (∀ j n, on j → pass j = true → n < 4 → placeOf s (ea j) n ≠ some p) → t.byteAt p = s.byteAt p) ∧
         ((∃ j, on j ∧ pass j = false) → t.ctx.accerr = true) ∧
         ∀ j, on j → (∀ i, on i → i = j) → pass j = true → ∀ n < 4, ∃ p, placeOf s (ea j) n = some p ∧
           t.byteAt p = (x.vreg v).extractLsb' (32 * j + 8 * n) 8)) ∧
  (∀ (s : State) (e : XvEntry) (k : XvAddr) (v : VReg) (mk : MReg), s.cur.vq = [e] → e.launch = s.ctx.launch → e.left = 0 →
     s.ctx.resident = true → e.op = .store true k v mk →
     let waits : Prop := ∃ r ∈ s.cur.log, r.launch = e.launch ∧ e.a.toNat ≤ r.seq ∧ r.seq < e.b.toNat ∧ r.homed = none
     ∃ t, exec (.xvComplete s.focus) s = .next t ∧ SameMemory s t ∧ t.th = s.th ∧ t.ctx = s.ctx ∧
       (waits → t.cur.vq = [e]) ∧ (¬ waits → t.cur.vq = [])) ∧
  ∀ (s : State) (e : XvEntry) (k : XvAddr) (v : VReg) (mk : MReg) (j : Nat), s.cur.vq = [e] → e.launch = s.ctx.launch → e.left = 0 →
     s.ctx.resident = true → e.op = .load true k v mk →
     ((List.range 64).filter fun j => ((e.view s.ctx).mask mk).getLsbD j).drop e.next = [j] →
     let a : W64 := match k with
       | .unit => e.a + BitVec.ofNat 64 (4 * j)
       | .stride => e.a + BitVec.ofNat 64 j * e.b
       | .index vb => e.a + (((e.view s.ctx).vreg vb).extractLsb' (32 * j) 32).signExtend 64
     let waits : Prop := ∃ t, exec (.xvComplete s.focus) s = .next t ∧ t.th = s.th ∧ t.ctx = s.ctx ∧ t.cur.vq = [e]
     let gives (fails : Bool) (w : W32) : Prop := ∃ t, exec (.xvComplete s.focus) s = .next t ∧ t.th = s.th ∧ t.cur.vq = [] ∧
       (∀ u, u ≠ v → t.ctx.vreg u = s.ctx.vreg u) ∧ (fails = true → t.ctx.accerr = true) ∧
       (t.ctx.vreg v).extractLsb' (32 * j) 32 = w ∧
       (∀ i < 64, i ≠ j → (t.ctx.vreg v).extractLsb' (32 * i) 32 =
         ((e.got.reverse.find? fun g => g.1 == i).map (·.2)).getD ((s.ctx.vreg v).extractLsb' (32 * i) 32)) ∧
       ((∀ p ∈ s.pubs, p.lagG = 0 ∧ p.lagD = 0) → SameMemory s t)
     let before := s.loadsBefore s.focus e.launch e.thr e.inc e.after
     let bad : Prop := 2 ^ 48 ≤ a.toNat ∨ a.toNat % 4 ≠ 0
     let x := s.translate s.clu (.core s.focus) e.seq e.ctxid e.launch .load a
     let fwd (n : Nat) : Option Byte := ((x.2.stillForward s.focus .sldw ((List.range 4).map fun n =>
       ((e.own.filter fun r => r.launch == e.launch && r.kind == 0 && r.gran.toNat == (a.toNat + n) / 16 &&
         r.mask.getLsbD ((a.toNat + n) % 16)).map fun r => (r.seq, r.byte ((a.toNat + n) % 16))).reverse))[n]?).getD none
     let word (f : Nat → Byte) (w : W32) : Prop := ∀ n < 4, w.extractLsb' (8 * n) 8 = f n
     (before = true → waits) ∧ (before = false → bad → gives true 0xDEADDEAD) ∧
     (before = false → ¬ bad →
       (x.1 = .denied → gives true 0xDEADDEAD) ∧ (x.1 = .waiting → waits) ∧
       ∀ m, x.1 = .hit m → (x.2.linkDown (dieOf s.focus) (m.key a.toNat) = true → gives true 0xDEADDEAD) ∧
         (x.2.linkDown (dieOf s.focus) (m.key a.toNat) = false → s.poison.contains (m.key (a.toNat / 64 * 64)) = false →
           (s.cluster s.clu).viewLines.length ≤ 32768 →
           let held (n : Nat) : Option ViewByte := (s.cluster s.clu).viewByte (viewKey (s.asidOf e.ctxid) a.toNat + n) (m.key a.toNat + n)
           let misses : Prop := ∃ n < 4, fwd n = none ∧ held n = none
           (¬ misses → ∃ w, word (fun n => (fwd n).getD (((held n).map (·.val)).getD 0)) w ∧ gives false w) ∧
           (misses → s.homeHeld (dieOf s.focus) (m.key a.toNat) = true → waits) ∧
           (misses → s.homeHeld (dieOf s.focus) (m.key a.toNat) = false → ∃ w, gives false w ∧ word (fun n =>
             let key := m.key a.toNat + n
             (fwd n).getD (newest ((s.cluster s.clu).copies key)
               ⟨s.home.read key, s.homeOrd (m.key (a.toNat / 64 * 64)) (m.mca || m.repl), key, m.size⟩).val) w)))

/-! ## The matrix unit and the ranking unit (R226–R263) -/

/-- R230, R235, R238, R239, R241–R244: a matrix command whose scalars are present finds the queue full and is not ready, or fails a check,
which sets `xstat.ACCERR` and records the first failing check's reason and nothing else, or enters the queue. The checks are TILE, OPND,
COUNT, FMT, NOWT and DRAIN, in that order; with `.v` a command waits until every earlier XV instruction of its context has completed. MWLD sets
the context's descriptor. That MRANK alone checks the alignment of the slice pitch (log 27), and that MMAI's own operands are checked without a
descriptor too (log 96), are the model's choices.
R245, R236: MWAIT and MSTAT wait for every earlier matrix command of the context; MSTAT then reads the status word, which operand 1 clears,
or a column sum, and answers poison with `xstat.ACCERR` to any other operand. -/
def Obligations.MatrixIssue : Prop :=
  (let first (l : List (Bool × Nat)) : Nat := ((l.find? fun x => !x.1).map fun x => x.2).getD 0
   let runs (i : Instr) (s : State) (checks : List (Bool × Nat)) (cmd : MxCmd) : Prop :=
     let m := s.ctx.mx.status
     (4 ≤ s.cur.mxOf.length → exec i s = .next { s with waiting := true }) ∧
     (s.cur.mxOf.length < 4 → first checks ≠ 0 → ∃ t, exec i s = .next t ∧ SameMemory s t ∧ t.th = s.th.past 12 ∧ t.ctx.accerr = true ∧
       t.ctx.mx = { s.ctx.mx with status := BitVec.ofNat 8 (first checks) ++ m.extractLsb' 0 56 } ∧ t.cur.mq = s.cur.mq) ∧
     (s.cur.mxOf.length < 4 → first checks = 0 → ∃ t e, exec i s = .next t ∧ SameMemory s t ∧ t.th = s.th.past 12 ∧
       t.ctx.accerr = s.ctx.accerr ∧ t.ctx.mx.status = m ∧ t.cur.mq = s.cur.mq ++ [e] ∧ e.cmd = cmd ∧ e.launch = s.ctx.launch)
   let tile (s : State) (td : TReg) : Bool × Nat := (s.ctx.mtiles.getLsbD td.toNat, 1)
   let upTo128 (n : Nat) : Bool := decide (1 ≤ n ∧ n ≤ 128)
   let idle (v : Bool) (s : State) : Prop := v = true → s.xvLeft s.seq = false
   let waits (i : Instr) (v : Bool) (s : State) : Prop :=
     v = true → s.xvLeft s.seq = true → exec i s = .next { s with waiting := true }
   ∀ (s : State) (ty : Ty) (v asg wsg rsm b sh z : Bool) (mode ch : BitVec 3) (td : TReg) (ra rb rc : SReg) (kr rows ring : BitVec 8)
       (n1 : BitVec 7) (sup trow scale tag : W32),
     let p0 := s.reg ra
     let p1 := s.reg (ra + 1)
     let d := s.ctx.mx.desc
     let count : Bool × Nat := (upTo128 rows.toNat && decide (trow.toNat + rows.toNat ≤ 128), 3)
     let some_ : Bool := decide (d.kr ≠ 0)
     let act (rb : Nat) : Bool := if some_ then actOk v ra p0 p1 rows.toNat rb else actBits v ra p0 p1
     let imgs (rb : Nat) : Option (List VImage) := if v then some (s.ctx.images ra (regsPerRow rb * rows.toNat)) else none
     let rbA : Nat := d.k * (tyWidth ty / 8)
     let k := kr.toNat * cellK ty
     (s.has [ra, ra + 1] = true →
       (let checks : List (Bool × Nat) := [(pairOk p0 p1 k (weightBytes ty (n1.toNat + 1)) 1 (if ty = .nq4 then 2 * k else 0), 2), (upTo128 kr.toNat, 3)]
        runs (.mwld ty ra kr n1 sup) s checks (.mwld ((s.ctx.mx.setDesc p0 p1 ty kr n1 sup).desc)) ∧
        (s.cur.mxOf.length < 4 → first checks = 0 → ∃ t, exec (.mwld ty ra kr n1 sup) s = .next t ∧
          t.ctx.mx = s.ctx.mx.setDesc p0 p1 ty kr n1 sup)) ∧
       runs (.mldacc b td ra rows trow) s [tile s td, (pairOk p0 p1 (if b then 1 else rows.toNat) 512 1 0, 2), count]
         (.mldacc b td p0 p1 rows.toNat trow.toNat)) ∧
     (waits (.mma v ty td ra rows trow) v s ∧
       (s.has [rb] = true → (rsm = true → s.has [rc] = true) → waits (.mmai v asg wsg rsm td ra rb rc rows trow) v s)) ∧
     (idle v s → (v = false → s.has [ra, ra + 1] = true) →
       runs (.mma v ty td ra rows trow) s [tile s td, (act rbA, 2), count, (!some_ || mmaFmt d.ty ty, 4), (some_, 5)]
         (.mma ty td p0 p1 (imgs rbA) rows.toNat trow.toNat d)) ∧
     (idle v s → (v = false → s.has [ra, ra + 1] = true) → s.has [rb] = true → (rsm = true → s.has [rc] = true) →
       let rs := (s.reg rc).toNat
       runs (.mmai v asg wsg rsm td ra rb rc rows trow) s
         [tile s td, (act d.k && (decide ((s.reg rb).toNat < 2 ^ 32) && (!rsm || decide (rs % 4 = 0 ∧ rs < 2 ^ 23 ∧ rs + 4 * rows.toNat ≤ 2 ^ 23))), 2), count,
           (!some_ || decide (d.ty = .i8 ∨ d.ty = .u8), 4), (some_, 5)]
         (.mmai asg wsg (if rsm then some (s.reg rc) else none) (s.reg rb) td p0 p1 (imgs d.k) rows.toNat trow.toNat d)) ∧
     runs (.mzero td) s [tile s td] (.mzero td) ∧
     (s.has [ra] = true → runs (.mrqp ra) s [(decide (p0.toNat % 16 = 0 ∧ p0.toNat + 1024 ≤ 2 ^ 23), 2)] (.mrqp p0)) ∧
     (s.has [ra, ra + 1, rb, rb + 1, rc] = true →
       let c := s.reg rc
       runs (.mrank ty td ra rb rc rows n1 scale) s [tile s td,
         (decide (c.toNat < 2 ^ 25 ∧ c.getLsbD 11 = false ∧ pairOk p0 p1 rows.toNat (2 * rkK c) 1 0 = true ∧ opTp (s.reg (rb + 1)) % 16 = 0 ∧
           pairOk (s.reg rb) (s.reg (rb + 1)) (128 * cellK ty) (weightBytes ty (n1.toNat + 1)) (rkSlices c) 0 = true), 2),
         (upTo128 rows.toNat && decide (1 ≤ rkSlices c ∧ rkSlices c ≤ 256 ∧ 1 ≤ rkK c ∧ rkK c ≤ 1024), 3)]
         (.mrank ty td p0 p1 (s.reg rb) (s.reg (rb + 1)) c rows.toNat (n1.toNat + 1) scale)) ∧
     (s.has [ra, rb] = true →
       let i : Instr := .mdrain mode sh z ch td ra rb ring tag
       let away : Prop := sh = true ∨ leavesCluster s.focus p0 = true ∨ leavesCluster s.focus (s.reg rb) = true
       let bad : Bool := !(decide (mode.toNat < 6) && s.ringOk s.clu ring.toNat && (sh || decide (mode ≠ 2 ∧ mode ≠ 3)))
       let checks := [tile s td, ((engineLoc s.focus s.ctx (s.reg rb) 96).isSome, 2), (!bad, 6)]
       s.cur.mxOf.length < 4 →
         (s.ctx.phase = .compute → s.th.stall = none → away → exec i s = .next (trapEntry 6 (((encode i).headD 0).setWidth 64) s)) ∧
         (s.ctx.phase = .exchange ∨ s.th.stall.isSome ∨ ¬away → first checks ≠ 0 → ∃ t, exec i s = .next t ∧ SameMemory s t ∧ t.th = s.th.past 12 ∧
           t.ctx.accerr = true ∧ t.ctx.mx.status.extractLsb' 56 8 = BitVec.ofNat 8 (first checks) ∧ t.cur.mq = s.cur.mq) ∧
         (s.ctx.phase = .exchange ∨ s.th.stall.isSome ∨ ¬away → first checks = 0 → ∃ t e q, exec i s = .next t ∧ SameMemory s t ∧ t.th = s.th.past 12 ∧
           t.cur.mq = s.cur.mq ++ [e] ∧ e.cmd = .mdrain td q ∧ q.dst = p0 ∧ q.dsh = sh ∧ q.dstr = true ∧ q.ring = ring.toNat ∧ q.tag = tag ∧
           q.ch = ch.toNat ∧ q.kind = .drain mode z td s.seq))) ∧
  (∀ (s : State) (rd ra : SReg),
     let a := (s.reg ra).toNat
     let m := s.ctx.mx
     let i : Instr := .mstat rd ra
     (s.mxLeft s.seq = true → s.th.stall = none → ∀ j : Instr, j = .mwait ∨ (j = i ∧ s.has [ra, rd] = true) →
       exec j s = .next (s.setTh { s.th with stall := some ⟨12, 0, .seq s.seq⟩ })) ∧
     (s.mxLeft s.seq = false → s.th.stall = none → exec .mwait s = .next (s.setTh (s.th.past 12)) ∧
       (s.has [ra, rd] = true →
         (a = 0 → GivesNow i s 12 rd m.status) ∧
         (a = 1 → ∃ t, exec i s = .next t ∧ SameMemory s t ∧ t.th = (s.th.setReg rd m.status).past 12 ∧
           t.ctx.mx.status.extractLsb' 56 8 = 0 ∧ t.ctx.mx.status.extractLsb' 0 48 = 0 ∧ { t.ctx.mx with status := m.status } = m) ∧
         (∀ n : Fin 128, a = 0x100 + n.val → GivesNow i s 12 rd (m.css[n].signExtend 64)) ∧
         (∀ n : Fin 128, a = 0x200 + n.val → GivesNow i s 12 rd (m.csu[n].signExtend 64)) ∧
         (2 ≤ a → (a < 0x100 ∨ 0x180 ≤ a) → (a < 0x200 ∨ 0x280 ≤ a) →
           exec i s = .next ((s.setCtx { s.ctx with accerr := true }).setTh ((s.th.setReg rd 0xDEADDEADDEADDEAD).past 12))))))


/-- RoundMat (R206): `x` plus `y` rounded once to FP32, a subnormal flushed; an exact zero is −0 only when `negs` says that every addend was. -/
def matSum (negs : Bool) (x y : Machine.Num) : Machine.Num :=
  match (addNum 0 x y).1 with
  | .fin _ 0 _ => .fin negs 0 0
  | z => fp32.input true (fp32.roundNum 0 z).1

/-- R206: the tile word that `old` becomes when the column sum of activations `a` and weights `w`, `p` of them in each of the 128 cells, is
rounded into it. -/
def SumsInto (p : Nat) (a w : Nat → Machine.Num) (old new : W32) : Prop :=
  let prod (i : Nat) : Machine.Num := (mulNum (a i) (w i)).1
  let negs (c : Nat) : Bool := (List.range (p * c)).all fun i => (prod i).isZero && (prod i).neg
  let cell (c : Nat) : Machine.Num := ((List.range p).map fun i => prod (p * c + i)).foldl (fun q x => (addNum 0 q x).1) (.fin false 0 0)
  let x := fp32.input true old
  ∃ ps : Nat → Machine.Num, ps 0 = .fin false 0 0 ∧ (∀ c < 128, ps (c + 1) = matSum (negs (c + 1)) (ps c) (cell c)) ∧
    new = (fp32.roundNum 0 (matSum (negs 128 && x.isZero && x.neg) x (ps 128))).1

/-- R236: the counts of a context's matrix status word go up by these numbers, each up to 65,535; its other bits are as before. -/
def Counts (s t : State) (c launch sat nan drop : Nat) : Prop := ∀ x, s.image c launch = some x → ∃ y, t.image c launch = some y ∧
  let field (z : Ctx) (lo : Nat) : Nat := (z.mx.status.extractLsb' lo 16).toNat
  field y 32 = min 65535 (field x 32 + sat) ∧ field y 16 = min 65535 (field x 16 + nan) ∧ field y 0 = min 65535 (field x 0 + drop) ∧
  y.mx.status.extractLsb' 48 16 = x.mx.status.extractLsb' 48 16

/-- R243: what a drain makes of a tile word in a column with the requantisation entry `q`, and whether that has saturated. -/
def DrainsTo (mode : BitVec 3) (q : W64) (x v : W32) (sat : Bool) : Prop :=
  let quantised (lo hi : Int) : Prop := ∃ n : Int,
    let y : ℚ := x.toInt * (q.extractLsb' 0 32).toInt * 2 ^ (-31 - (q.extractLsb' 32 8).toInt)
    |n - y| ≤ 1 / 2 ∧ (|n - y| = 1 / 2 → n % 2 = 0) ∧ v = BitVec.ofInt 32 (max lo (min hi (n + (q.extractLsb' 48 16).toInt))) ∧
      (sat = true ↔ n + (q.extractLsb' 48 16).toInt < lo ∨ hi < n + (q.extractLsb' 48 16).toInt)
  match mode.toNat with
  | 1 =>
    let r := (bf16.roundNum 0 (fp32.decode x)).1
    v = (if bf16.subnormal r then bf16.zero (bf16.negOf r) else r) ∧ sat = false
  | 4 => quantised (-128) 127
  | 5 => quantised 0 255
  | _ => v = x ∧ sat = false

/-- The offset of byte `b` of row `r` of a scratchpad operand with rows of `rb` bytes (R234). -/
def rowPlace (p0 p1 : W64) (rb r b : Nat) : Nat :=
  (p0.extractLsb' 0 23).toNat + r * (p0.extractLsb' 24 16).toNat +
    let rot := (p1.extractLsb' 24 3).toNat
    if rot = 0 then b else 16 * ((b / 16 + rot * r) % (rb / 16)) + b % 16

/-- R207, R239, R240: the tile word that MMAI makes of `old`: the products of a row and a column in cells of two, the correction of the zero
points, and the word, each addition modulo 2^32 or saturated; and whether any of them has saturated. -/
def integerSum (sat : Bool) (kr : Nat) (zp : W64) (cs : Int) (a w : Nat → Int) (old : W32) : W32 × Bool :=
  let add (x : Int × Bool) (v : Int) : Int × Bool :=
    if sat then (max (-2 ^ 31) (min (2 ^ 31 - 1) (x.1 + v)), x.2 || decide (x.1 + v < -2 ^ 31 ∨ 2 ^ 31 - 1 < x.1 + v))
    else ((BitVec.ofInt 32 (x.1 + v)).toInt, x.2)
  let za : Int := (zp.extractLsb' 0 16).toInt
  let zw : Int := (zp.extractLsb' 16 16).toInt
  let rs : Int := ((List.range (2 * kr)).map a).sum
  let ps := (List.range kr).foldl (fun x c => add x (a (2 * c) * w (2 * c) + a (2 * c + 1) * w (2 * c + 1))) (0, false)
  let corr := add (0, false) (-zw * rs - za * cs + (2 * kr : Nat) * za * zw)
  let ps := if zp = 0 then ps else add (ps.1, ps.2 || corr.2) corr.1
  let new := add (old.toInt, ps.2) ps.1
  (BitVec.ofInt 32 new.1, new.2)

/-- R231, R233, R234, R238–R242, R244: the arbiter grants the head of a core's queue, here of the one core that has any. MZERO clears the tile;
MLDACC loads its rows; MRQP reads the requantisation parameters; MWLD loads the array and forms the column sums; MMA and MMAI stream their
rows through the array, here as it is, or as if, reloaded at the grant, and MMAI owes its row sums; MRANK adds the rank-coded rows slice by
slice and leaves the array empty; a drain goes to its channel. No other byte of memory changes. The status word counts the elements that have
become the canonical NaN, of MMAI those that have saturated, and of MRANK the rank words beyond its slices (R236). -/
def MatrixGrants : Prop :=
  let coreOf (k p : Nat) : Nat := baseCore k + p / 4 * 16 + p % 4
  let word (m : Mem) (a : Nat) : W32 := m.readLE a 4 32
  let at_ (td : TReg) (r c : Nat) : Nat := td.toNat * 65536 + r * 512 + c * 4
  let plusZero : Machine.Num := .fin false 0 0
  let entry (ty : Ty) (x : W32) : Machine.Num := match tyFmt ty with
    | some f => f.input true x
    | none => let v : Int := if ty.isSigned then (x.setWidth (tyWidth ty)).toInt else x.toNat
      .fin (decide (v < 0)) v.natAbs 0
  let cellOf (ty : Ty) : Nat := match ty with | .bf16 | .f16 => 1 | .nq4 => 4 | _ => 2
  let wide (ty : Ty) (n : Nat) : Nat := match ty with | .bf16 | .f16 => 2 * n | .nq4 => (n + 1) / 2 | _ => n
  ∀ (s : State) (k p : Nat) (e : MxEntry) (rest : List MxEntry), p < 8 → k < 256 →
    let c := coreOf k p
    (s.core c).mxOf = e :: rest → (∀ q < 8, q ≠ p → (s.core (coreOf k q)).mxOf = []) → (s.cluster k).mxGranted = [] → s.memOk = true →
    let scratch := (s.cluster k).scratch
    let tile (td : TReg) (r j : Nat) : W32 := word (s.cluster k).tiles (at_ td r j)
    let granted (t : State) (sums : List (Nat × W32)) : Prop := exec (.matrixGrant k) s = .next t ∧
      (t.core c).mq = (s.core c).mq.filter (fun x => decide (x.seq ≠ e.seq)) ∧ (t.cluster k).mxGranted = [⟨c, e, sums⟩]
    let tiles (t : State) (td : TReg) (rows trow n : Nat) (f : Nat → Nat → W32 → Prop) : Prop :=
      (∀ r < rows, ∀ j < n, f r j (word (t.cluster k).tiles (at_ td (trow + r) j))) ∧
      ∀ q, (∀ r j b, r < rows → j < n → b < 4 → q ≠ .tiles k (at_ td (trow + r) j + b)) → t.byteAt q = s.byteAt q
    let act (imgs : Option (List VImage)) (p0 p1 : W64) (rb r b : Nat) : Byte := match imgs with
      | none => scratch.read (rowPlace p0 p1 rb r b)
      | some l => ((l[(rb + 255) / 256 * r + b / 256]?).getD 0).extractLsb' (8 * (b % 256)) 8
    let le (f : Nat → Byte) (w i : Nat) : W32 := BitVec.ofNat 32 (leNat ((List.range w).map fun b => f (i * w + b)))
    let weight (ty : Ty) (p0 p1 : W64) (off n i j : Nat) : Machine.Num :=
      entry ty (le (fun b => scratch.read (off + rowPlace p0 p1 (wide ty n) i b)) (tyWidth ty / 8) j)
    let num (sg : Bool) (b : Byte) : Int := if sg then b.toInt else b.toNat
    let nans (t : State) (td : TReg) (r n : Nat) : Nat :=
      ((List.range n).filter fun j => word (t.cluster k).tiles (at_ td r j) == 0x7FC00000).length
    (∀ td, e.cmd = .mzero td → ∃ t, granted t [] ∧ tiles t td 128 0 128 fun _ _ v => v = 0) ∧
    (∀ b td p0 p1 rows trow, e.cmd = .mldacc b td p0 p1 rows trow → trow + rows ≤ 128 → ∃ t, granted t [] ∧
      tiles t td rows trow 128 fun r j v => v = le (fun b' => scratch.read (rowPlace p0 p1 512 (if b then 0 else r) b')) 4 j) ∧
    (∀ a, e.cmd = .mrqp a → (s.core c).run.of e.launch = true → ∃ t, granted t [] ∧ SameMemory s t ∧
      ∀ j : Fin 128, (t.core c).run.mx.rq[j] = scratch.readLE (a.toNat + 8 * j.val) 8 64) ∧
    (∀ d, e.cmd = .mwld d → ∃ t, granted t [] ∧ SameMemory s t ∧ (t.cluster k).mxHeld = some (s.loaded k c e.launch d) ∧
      ((s.core c).run.of e.launch = true → d.n ≤ 128 →
        let sum (sg : Bool) (j : Nat) : W32 := if (d.ty = .i8 ∨ d.ty = .u8) ∧ j < d.n then
          BitVec.ofInt 32 ((List.range (2 * d.kr)).map fun i => num sg (scratch.read (rowPlace d.p0 d.p1 d.n i j))).sum else 0
        ∀ j : Fin 128, (t.core c).run.mx.css[j] = sum true j.val ∧ (t.core c).run.mx.csu[j] = sum false j.val)) ∧
    (∀ ty td p0 p1 imgs rows trow d, e.cmd = .mma ty td p0 p1 imgs rows trow d → trow + rows ≤ 128 → d.n ≤ 128 → d.kr ≤ 128 →
      mmaFmt d.ty ty = true → s.arrayFor k c e.launch d = s.loaded k c e.launch d →
      let kk := d.kr * cellOf d.ty
      let a (r i : Nat) : Machine.Num := if i < kk then entry ty (le (act imgs p0 p1 (kk * (tyWidth ty / 8)) r) (tyWidth ty / 8) i) else plusZero
      let w (j i : Nat) : Machine.Num :=
        if kk ≤ i then plusZero
        else if d.ty = .nq4 then
          let b := (scratch.read (rowPlace d.p0 d.p1 ((d.n + 1) / 2) i (j / 2))).toNat
          let u := (scratch.read ((d.p0.extractLsb' 0 23).toNat + kk * (d.p0.extractLsb' 24 16).toNat + 2 * i + j / 64)).toNat
          fp32.input true (decodeNq4 (BitVec.ofNat 32 (if j % 2 = 0 then b % 16 else b / 16)) d.s u)
        else weight d.ty d.p0 d.p1 0 d.n i j
      ∃ t, granted t [] ∧ (tiles t td rows trow d.n fun r j v => SumsInto (cellOf d.ty) (a r) (w j) (tile td (trow + r) j) v) ∧
        Counts s t c e.launch 0 ((List.range rows).map fun r => nans t td (trow + r) d.n).sum 0) ∧
    (∀ asg wsg rs zp td p0 p1 imgs rows trow d x, e.cmd = .mmai asg wsg rs zp td p0 p1 imgs rows trow d → trow + rows ≤ 128 → d.n ≤ 128 →
      d.ty = .i8 ∨ d.ty = .u8 → s.arrayFor k c e.launch d = s.loaded k c e.launch d → s.image c e.launch = some x →
      let a (r i : Nat) : Int := num asg (act imgs p0 p1 (2 * d.kr) r i)
      let w (j i : Nat) : Int := num wsg (scratch.read (rowPlace d.p0 d.p1 d.n i j))
      let cs (j : Nat) : Int := (((if wsg then x.mx.css else x.mx.csu)[j]?).getD 0).toInt
      ∃ t, granted t (match rs with
        | some o => (List.range rows).map fun r => (o.toNat + 4 * r, BitVec.ofInt 32 ((List.range (2 * d.kr)).map (a r)).sum)
        | none => []) ∧
        let made (r j : Nat) : W32 × Bool := integerSum x.accsat d.kr zp (cs j) (a r) (w j) (tile td (trow + r) j)
        (tiles t td rows trow d.n fun r j v => v = (made r j).1) ∧
        Counts s t c e.launch ((List.range rows).map fun r => ((List.range d.n).filter fun j => (made r j).2).length).sum 0 0) ∧
    (∀ ty td l0 l1 w0 w1 ctl rows n scale, e.cmd = .mrank ty td l0 l1 w0 w1 ctl rows n scale → rows ≤ 128 → n ≤ 128 →
      ty = .bf16 ∨ ty = .f16 ∨ ty = .e4m3 ∨ ty = .e5m2 →
      let kt := 128 * cellOf ty
      let words := (ctl.extractLsb' 0 11).toNat
      let ns := (ctl.extractLsb' 16 9).toNat
      let tab := (ctl.extractLsb' 12 4).toNat
      let rank (r j : Nat) : W32 := le (fun b => scratch.read (rowPlace l0 l1 (2 * words) r b)) 2 j
      let idx (r j : Nat) : Nat := (rank r j).toNat % 2 ^ 15
      let supplied (j : Nat) : Machine.Num := if j < (s.cluster k).tableLen.get tab 0 then
          fp32.input true (mulF32 (fp32.decode scale) (bf16.decode (le (fun b => (s.cluster k).tables.read (tab * 2048 + b)) 2 j)))
        else plusZero
      let arrives (r sl : Nat) : Prop := ∃ j < words, idx r j / kt = sl
      let last (r i j : Nat) : Prop := j < words ∧ idx r j = i ∧ ∀ m < words, j < m → idx r m ≠ i
      ∃ (t : State) (v : Nat → Nat → Nat → W32) (a : Nat → Nat → Machine.Num), granted t [] ∧ (t.cluster k).mxHeld = none ∧
        (∀ r i, (∀ j, last r i j → a r i = if (rank r j).getLsbD 15 then (supplied j).flip else supplied j) ∧
          ((∀ j < words, idx r j ≠ i) → a r i = plusZero)) ∧
        (∀ r j, v 0 r j = tile td r j) ∧
        (∀ sl < ns, ∀ r < rows, ∀ j < n, (¬arrives r sl → v (sl + 1) r j = v sl r j) ∧
          (arrives r sl → SumsInto (cellOf ty) (fun i => a r (sl * kt + i)) (fun i => weight ty w0 w1 (sl * (w1.extractLsb' 0 24).toNat) n i j)
            (v sl r j) (v (sl + 1) r j))) ∧
        (tiles t td rows 0 n fun r j x => x = v ns r j) ∧
        Counts s t c e.launch 0
          ((List.range rows).map fun r => if (List.range words).any fun j => decide (idx r j < ns * kt) then nans t td r n else 0).sum
          ((List.range rows).map fun r => ((List.range words).filter fun j => decide (ns * kt ≤ idx r j)).length).sum) ∧
    (∀ td q x, e.cmd = .mdrain td q → ∀ ch : Fin 8, q.ch = ch.val → ((s.cluster k).channel q.ch).queue.length < 16 → s.image c e.launch = some x →
      ∃ t, granted t [] ∧ SameMemory s t ∧ ((t.cluster k).channel q.ch).queue = ((s.cluster k).channel q.ch).queue ++
        [{ q with rq := x.mx.rq.toList, no := ((s.cluster k).channel q.ch).lastNo + 1 }])

/-- R178, R243: a running drain to a local destination reads its tile elements one after another in walk order; each is set to 0 under `.z` as
soon as it has been read, and what its mode makes of it goes to its destination; the status word counts the outputs that have saturated (R236).
Its matrix command is then complete. -/
def DrainsRun : Prop :=
  let chan (s : State) (k : Nat) (ch : Fin 8) : Channel := (s.cluster k).channel ch.val
  ∀ (s : State) (k : Nat) (ch : Fin 8) (q : Transfer) (rest : List Transfer) (mode : BitVec 3) (z : Bool) (td : TReg) (n : Nat),
    (chan s k ch).queue = q :: rest → (chan s k ch).chain = none → q.kind = .drain mode z td n → q.state = .running →
    q.ssh = false → q.dsh = false → (∀ d ∈ q.localDies (q.left.map (·.1)),
      s.cutOff (k / 32) d = false ∧ s.routeHeld (k / 32) d = false ∧ (s.die d).resetEnd ≤ s.now) →
    (∀ c ∈ q.localCores (q.left.map (·.1)), clusterOf c = k ∨ s.fenced c = false) →
    ∃ (t : State) (u : Nat → State) (v : Nat → W32) (sat : Nat → Bool), exec (.transferComplete k ch.val) s = .next t ∧ u 0 = s ∧
      (chan t k ch).queue.map (fun x => x.state) = .done 0 :: rest.map (fun x => x.state) ∧
      (∀ g ∈ (t.cluster k).mxGranted, g.entry.seq ≠ n) ∧ (∀ p, t.byteAt p = (u q.left.length).byteAt p) ∧
      Counts s t q.core q.launch ((List.range q.left.length).filter sat).length 0 0 ∧
      ∀ i (h : i < q.left.length),
        let m := (q.left[i]).1
        let col := m.idx.headD 0
        let a := td.toNat * 65536 + m.idx.tail.headD 0 * 512 + col * 4
        let x := (u i).cluster k
        let read : State := if z then (u i).setCluster k { x with tiles := x.tiles.writeLE a 4 (0 : W32) } else u i
        DrainsTo mode ((q.rq[col]?).getD 0) (x.tiles.readLE a 4 32) (v i) (sat i) ∧
        u (i + 1) = read.opmWrite q.core q.launch q.origin m.dst (leBytes (v i) q.shape.es)

/-- R232, R240, R350: of the granted commands that are no drains one completes: only one that is not MMA, MMAI or MRANK passes an
earlier-granted one, which is one of those (which of several, log 22); the row sums that it still owes are written. -/
def MatrixCompletes : Prop :=
  ∀ (s : State) (k : Nat), (∃ g ∈ (s.cluster k).mxGranted, g.entry.cmd.isDrain = false) →
    ∃ t pre g post, (s.cluster k).mxGranted = pre ++ g :: post ∧ g.entry.cmd.isDrain = false ∧
      (∀ h ∈ pre, h.entry.cmd.isDrain = true ∨ (h.entry.cmd.late = true ∧ g.entry.cmd.late = false)) ∧
      exec (.matrixComplete k) s = .next t ∧
      (t.cluster k).mxGranted = (s.cluster k).mxGranted.filter (fun h => decide (h.entry.seq ≠ g.entry.seq)) ∧
      (∀ q, (∀ x ∈ g.sums, ∀ b < 4, q ≠ .scratch k (x.1 + b)) → t.byteAt q = s.byteAt q) ∧
      (s.memOk = true → k < 256 → (∀ x ∈ g.sums, ∀ y ∈ g.sums, x = y ∨ x.1 + 4 ≤ y.1 ∨ y.1 + 4 ≤ x.1) →
        ∀ x ∈ g.sums, (t.cluster k).scratch.readLE x.1 4 32 = x.2)

/-- R178, R206, R207, R231–R234, R238–R244: what the matrix unit does with a command at its grant (`MatrixGrants`), with a drain (`DrainsRun`), and
at a completion (`MatrixCompletes`). That a command reads its operands and adds to its tile in one step, at its grant, is the model's choice: R350
leaves the ticks open (log 22). -/
def Obligations.MatrixCommands : Prop := MatrixGrants ∧ DrainsRun ∧ MatrixCompletes

/-- R252, R254, R255, R257–R259, R261: a ranking command is not ready with two of its context queued; an address or control word that fails OPND answers reason
1, a count out of range reason 2, with `xstat.ACCERR`; otherwise it is queued, and its destination is absent. RANK.v waits for every earlier XV instruction of its context. -/
def Obligations.RankIssue : Prop :=
  let runs (i : Instr) (s : State) (rd : SReg) (opnd count : Prop) (is : RkCmd → Prop) : Prop :=
    let fails (n : W64) : Prop := exec i s = .next ((s.setCtx { s.ctx with accerr := true }).setTh ((s.th.setReg rd (n <<< 56)).past 12))
    (2 ≤ s.cur.rkOf.length → exec i s = .next { s with waiting := true }) ∧
    (s.cur.rkOf.length < 2 → (¬opnd → fails 1) ∧ (opnd → ¬count → fails 2) ∧
      (opnd → count → ∃ t e, exec i s = .next t ∧ SameMemory s t ∧ t.th = (s.th.expect rd).past 12 ∧ t.cur.rq = s.cur.rq ++ [e] ∧
        e.launch = s.ctx.launch ∧ e.thr = s.thr.val ∧ e.inc = s.th.inc ∧ e.rd = rd ∧ is e.cmd))
  let loc (s : State) (a : W64) (n : Nat) : Option EngineLoc := engineLoc s.focus s.ctx a n
  let size (ty : Ty) : Nat := tyWidth ty / 8
  ∀ (s : State) (mag : Bool) (ty : Ty) (rd ra rb rc : SReg) (pitch scale : W32),
    let a := s.reg ra
    let b := s.reg rb
    let c := s.reg rc
    let n := (c.extractLsb' 0 16).toNat
    let k := (c.extractLsb' 16 11).toNat
    let cols := (c.extractLsb' 32 10).toNat
    let regs := (n * tyWidth ty + 2047) / 2048
    let counts : Prop := 1 ≤ n ∧ n ≤ 32768 ∧ 1 ≤ k ∧ k ≤ 1024
    (s.has [rd, ra, rb, rc] = true →
      runs (.rank false mag ty rd ra rb rc) s rd (loc s a (n * size ty) ≠ none ∧ loc s b (2 * k) ≠ none ∧ c.extractLsb' 27 37 = 0)
        (counts ∧ k ≤ n) (fun x => ∃ la lb, loc s a (n * size ty) = some la ∧ loc s b (2 * k) = some lb ∧ x = .rank mag ty none la lb n k) ∧
      runs (.rankc mag ty rd ra rb rc pitch) s rd
        (loc s a ((n - 1) * pitch.toNat + cols * size ty) ≠ none ∧ loc s b (2 * k * cols) ≠ none ∧ c.extractLsb' 27 5 = 0 ∧
          c.extractLsb' 42 22 = 0 ∧ pitch.toNat % size ty = 0 ∧ cols * size ty ≤ pitch.toNat)
        (counts ∧ k ≤ n ∧ 1 ≤ cols ∧ cols ≤ 512)
        (fun x => ∃ la lb, loc s a ((n - 1) * pitch.toNat + cols * size ty) = some la ∧ loc s b (2 * k * cols) = some lb ∧
          x = .rankc mag ty la lb n k cols pitch.toNat) ∧
      runs (.rkval ty rd ra rb rc scale) s rd
        (loc s a (2 * k) ≠ none ∧ loc s b (n * size ty) ≠ none ∧ c.extractLsb' 27 1 = 0 ∧ c.extractLsb' 32 32 = 0) counts
        (fun x => ∃ la lb, loc s a (2 * k) = some la ∧ loc s b (n * size ty) = some lb ∧ x = .rkval ty la lb n k (c.extractLsb' 28 4).toNat scale)) ∧
    (s.has [rd, rb, rc] = true → s.xvLeft s.seq = true → exec (.rank true mag ty rd ra rb rc) s = .next { s with waiting := true }) ∧
    (s.has [rd, rb, rc] = true → s.xvLeft s.seq = false →
      runs (.rank true mag ty rd ra rb rc) s rd (ra.toNat + regs ≤ 16 ∧ loc s b (2 * k) ≠ none ∧ c.extractLsb' 27 37 = 0)
        (counts ∧ k ≤ n) (fun x => ∃ la lb, loc s b (2 * k) = some lb ∧ x = .rank mag ty (some (s.ctx.images ra regs)) la lb n k)) ∧
    (s.has [rd, ra, rb] = true →
      let len := (b.extractLsb' 0 11).toNat
      runs (.rktab rd ra rb) s rd (loc s a (2 * len) ≠ none ∧ b.extractLsb' 11 5 = 0 ∧ b.extractLsb' 20 44 = 0) (len ≤ 1024)
        (fun x => ∃ la, loc s a (2 * len) = some la ∧ x = .rktab la len (b.extractLsb' 16 4).toNat))

/-- R251, R252, R255, R257–R259, R261: a grant takes the oldest command of the first core after the one served last, unless an RKTAB runs; RANK
writes the first `k` indices in rank order with their sign flags, so that no index that is left out stands before one that is named, and RANKC
does so for each column; RKTAB loads its table and sets the length; RKVAL writes the dense vector, a later word of an index replacing an
earlier one. The status word arrives, with reason 0, the NaN keys, the words dropped and the words written. No other byte of memory changes. -/
def Obligations.RankCommands : Prop :=
  (∀ (s : State) (k j : Nat) (e : RkEntry) (rest : List RkEntry), j < 8 → k < 256 →
    let coreOf (i : Nat) : Nat :=
      let p := ((s.cluster k).rkPtr + 1 + i) % 8
      baseCore k + p / 4 * 16 + p % 4
    let tabled : Prop := ∃ r ∈ (s.cluster k).rkRunning, ∃ a len tab, r.entry.cmd = .rktab a len tab
    (tabled → exec (.rankGrant k) s = .next s) ∧
    (¬tabled → (∀ i < j, (s.core (coreOf i)).rq = []) → (s.core (coreOf j)).rq = e :: rest → ∃ t, exec (.rankGrant k) s = .next t ∧ SameMemory s t ∧
      (t.cluster k).rkRunning = (s.cluster k).rkRunning ++ [⟨coreOf j, e, [], [], none, []⟩] ∧ (t.core (coreOf j)).rq = rest ∧
      (t.cluster k).rkPtr = ((s.cluster k).rkPtr + 1 + j) % 8)) ∧
  (∀ (s : State) (e : RkEntry), (s.cluster s.clu).rkRunning = [⟨s.focus, e, [], [], none, []⟩] →
    s.outRegion s.focus e.launch = none → s.ctx.of e.launch = true →
    e.thr = s.thr.val → s.th.live = true → s.th.inc = e.inc → e.rd ≠ 0 → s.memOk = true →
    let done (t : State) (nan drop count : Nat) : Prop := exec (.rankComplete s.clu) s = .next t ∧ (t.cluster s.clu).rkRunning = [] ∧
      t.th.has e.rd = true ∧ t.reg e.rd = (0 : BitVec 8) ++ BitVec.ofNat 16 (min 65535 nan) ++ BitVec.ofNat 16 (min 65535 drop) ++ BitVec.ofNat 24 count
    let place (l : EngineLoc) (i : Nat) : Place := match l with
      | .ulm o => .ulm s.focus (o + i)
      | .scratch o => .scratch s.clu (o + i)
    let le (l : EngineLoc) (o w : Nat) : W32 := BitVec.ofNat 32 (leNat ((List.range w).map fun m => s.byteAt (place l (o + m))))
    let nans (ty : Ty) (l : List W32) : Nat := (l.filter fun x => match tyFmt ty with | some f => f.decode x == .nan | none => false).length
    let ranks (mag : Bool) (ty : Ty) (n k : Nat) (raw : Nat → W32) (t : State) (b : EngineLoc) (o : Nat) : Prop :=
      let key (i : Nat) : Machine.Num × Nat := (keyOf mag ty (raw i), i)
      ∃ idx : List Nat, idx.length = k ∧ idx.Nodup ∧ (∀ i ∈ idx, i < n) ∧ idx.Pairwise (fun i j => rankBefore (key i) (key j) = true) ∧
        (∀ i ∈ idx, ∀ j < n, j ∉ idx → rankBefore (key i) (key j) = true) ∧
        ∀ r i, idx[r]? = some i → t.byteAt (place b (o + 2 * r)) = BitVec.ofNat 8 i ∧
          t.byteAt (place b (o + 2 * r + 1)) = BitVec.ofNat 8 (i / 256 + if mag && (raw i).getLsbD (tyWidth ty - 1) then 128 else 0)
    (∀ mag ty a b n k, e.cmd = .rank mag ty none a b n k → k ≤ n → n ≤ 32768 → ty = .f32 ∨ ty = .bf16 ∨ ty = .i32 →
      let w := tyWidth ty / 8
      let raw (i : Nat) : W32 := le a (i * w) w
      ∃ t, done t (nans ty ((List.range n).map raw)) 0 k ∧ ranks mag ty n k raw t b 0 ∧ SameBut (fun i => some (place b i)) (2 * k) s t) ∧
    (∀ mag ty imgs a b n k, e.cmd = .rank mag ty (some imgs) a b n k → k ≤ n → n ≤ 32768 → ty = .f32 ∨ ty = .bf16 ∨ ty = .i32 →
      let w := tyWidth ty / 8
      let byte (i : Nat) : Byte := ((imgs[i / 256]?).getD 0).extractLsb' (8 * (i % 256)) 8
      let raw (i : Nat) : W32 := BitVec.ofNat 32 (leNat ((List.range w).map fun m => byte (i * w + m)))
      ∃ t, done t (nans ty ((List.range n).map raw)) 0 k ∧ ranks mag ty n k raw t b 0 ∧ SameBut (fun i => some (place b i)) (2 * k) s t) ∧
    (∀ mag ty a b n k cols pitch, e.cmd = .rankc mag ty a b n k cols pitch → k ≤ n → n ≤ 32768 → ty = .f32 ∨ ty = .bf16 ∨ ty = .i32 →
      let w := tyWidth ty / 8
      let raw (c i : Nat) : W32 := le a (i * pitch + c * w) w
      ∃ t, done t ((List.range cols).map fun c => nans ty ((List.range n).map (raw c))).sum 0 (cols * k) ∧
        (∀ c < cols, ranks mag ty n k (raw c) t b (2 * k * c)) ∧ SameBut (fun i => some (place b i)) (2 * k * cols) s t) ∧
    (∀ a len tab, e.cmd = .rktab a len tab → ∃ t, done t 0 0 len ∧
      (∀ i < 2 * len, t.byteAt (.tables s.clu (tab * 2048 + i)) = s.byteAt (place a i)) ∧
      PMap.find? (t.cluster s.clu).tableLen tab = some len ∧ SameBut (fun i => some (.tables s.clu (tab * 2048 + i))) (2 * len) s t) ∧
    (∀ ty a b n k tab scale, e.cmd = .rkval ty a b n k tab scale → ty = .f32 ∨ ty = .bf16 →
      let w := tyWidth ty / 8
      let idx (j : Nat) : Nat := (le a (2 * j) 2).toNat % 2 ^ 15
      let table (j : Nat) : W32 := BitVec.ofNat 32 (leNat ((List.range 2).map fun m => s.byteAt (.tables s.clu (tab * 2048 + 2 * j + m))))
      let value (j : Nat) : Machine.Num :=
        let v := if j < (s.cluster s.clu).tableLen.get tab 0 then fp32.decode (mulF32 (fp32.decode scale) (bf16.decode (table j))) else .fin false 0 0
        if (le a (2 * j) 2).getLsbD 15 then v.flip else v
      let out (v : Machine.Num) : W32 := if ty = .bf16 then (bf16.roundNum 0 v).1 else (fp32.roundNum 0 v).1
      let holds (t : State) (i : Nat) (v : W32) : Prop := ∀ m < w, t.byteAt (place b (i * w + m)) = v.extractLsb' (8 * m) 8
      ∃ t, done t 0 ((List.range k).filter fun j => decide (n ≤ idx j)).length n ∧ SameBut (fun i => some (place b i)) (n * w) s t ∧
        ∀ i < n, ((∀ j < k, idx j ≠ i) → holds t i 0) ∧
          ∀ j < k, idx j = i → (∀ m < k, j < m → idx m ≠ i) → holds t i (out (value j))))

/-! ## The assignment engine (R269–R284) -/

/-- R270, R273–R275, R280: an AE command is not ready with 64 in the die's queue; it fails OPND, then OWNER, with `xstat.ACCERR` and its status
word (poison for AESTAT and AEWAIT, nothing more for AERUN); otherwise it is queued and its destination absent. The extent of AESC, AECAP and
AERD is checked at the start alone. AEWAIT is checked at its issue alone and answers the run word once no earlier command of its slot is left. That AEWAIT takes no place in the
queue (log 28), and that commands arrive in the order of their issue (log 86), are the model's choices. -/
def Obligations.AssignmentIssue : Prop :=
  let acc (s : State) : State := s.setCtx { s.ctx with accerr := true }
  let fails (i : Instr) (s : State) (rd : SReg) (v : W64) : Prop := exec i s = .next ((acc s).setTh ((s.th.setReg rd v).past 12))
  let engine (s : State) : Ae := (s.die (dieOf s.focus)).ae
  let mine (s : State) (o : PMap Owner) (n : Nat) : Prop :=
    s.ctx.mode = .supervisor ∨ (PMap.get o n Owner.reset).any = true ∨ (PMap.get o n Owner.reset).ctx = s.ctx.ctxid
  let runs (i : Instr) (s : State) (rd : SReg) (opnd owner : Prop) (v1 v3 : W64) (is : AeCmd → Prop) : Prop :=
    (64 ≤ (engine s).queue.length → exec i s = .next { s with waiting := true }) ∧
    ((engine s).queue.length < 64 → (¬opnd → fails i s rd v1) ∧ (opnd → ¬owner → fails i s rd v3) ∧
      (opnd → owner → ∃ t q, exec i s = .next t ∧ SameMemory s t ∧ t.th = (s.th.expect rd).past 12 ∧
        (engine t).queue = (engine s).queue ++ [q] ∧ q.core = s.focus ∧ q.launch = s.ctx.launch ∧ q.thr = s.thr.val ∧ q.inc = s.th.inc ∧
        q.rd = rd ∧ q.started = false ∧ q.seq = s.seq ∧ t.seq = s.seq + 1 ∧ is q.cmd))
  let loc (s : State) (a : W64) (n : Nat) : Option AeLoc := s.aeLoc a n
  let start (s : State) (a : W64) : Option AeLoc := s.aePlace a
  let r (n : Nat) : W64 := BitVec.ofNat 64 (n * 2 ^ 56)
  ∀ (s : State) (rd ra rb rc : SReg) (dflt : Bool),
    let n := (s.reg ra).toNat
    let b := s.reg rb
    let c := s.reg rc
    let slot : Prop := mine s (engine s).slotOwner n
    let bank : Prop := mine s (engine s).bankOwner n
    (s.has [rd, ra, rb] = true →
      runs (.aecfg rd ra rb) s rd (n ≤ 15 ∧ loc s b 64 ≠ none)
        (slot ∧ ∀ l, loc s b 64 = some l → mine s (engine s).bankOwner (recBank (s.aeRecord s.focus l.loc))) (r 1) (r 3)
        (fun x => ∃ l, loc s b 64 = some l ∧ x = .cfg n l) ∧
      runs (.aerd rd ra rb) s rd (n ≤ 15 ∧ start s b ≠ none) slot (r 1) (r 3) (fun x => ∃ l, start s b = some l ∧ x = .rd n l) ∧
      runs (.aepr rd ra rb) s rd (n ≤ 15 ∧ loc s b 2048 ≠ none) bank (r 1) (r 3) (fun x => ∃ l, loc s b 2048 = some l ∧ x = .pr n l) ∧
      runs (.aepw rd ra rb) s rd (n ≤ 15 ∧ loc s b 2048 ≠ none) bank (r 1) (r 3) (fun x => ∃ l, loc s b 2048 = some l ∧ x = .pw n l)) ∧
    (s.has [rd, ra, rb, rc] = true →
      runs (.aesc rd ra rb rc) s rd (n ≤ 15 ∧ start s b ≠ none ∧ start s c ≠ none) slot (r 1) (r 3)
        (fun x => ∃ l m, start s b = some l ∧ start s c = some m ∧ x = .sc n l m)) ∧
    ((dflt = true → s.has [rd, ra] = true) → (dflt = false → s.has [rd, ra, rb] = true) →
      runs (.aecap dflt rd ra rb) s rd (n ≤ 15 ∧ (dflt = false → start s b ≠ none)) slot (r 1) (r 3)
        (fun x => (dflt = true ∧ x = .cap n none) ∨ (dflt = false ∧ ∃ l, start s b = some l ∧ x = .cap n (some l)))) ∧
    (s.has [ra, rb] = true → runs (.aerun ra rb) s 0 (n ≤ 15) slot 0 0 (fun x => x = .run n b.toNat)) ∧
    (s.has [rd, ra] = true → runs (.aestat rd ra) s rd (n ≤ 15) slot 0xDEADDEADDEADDEAD 0xDEADDEADDEADDEAD (fun x => x = .stat n) ∧
      (¬(n ≤ 15 ∧ slot) → s.th.stall = none → fails (.aewait rd ra) s rd 0xDEADDEADDEADDEAD) ∧
      let left (n q : Nat) : Bool := (engine s).queue.any fun x => x.cmd.slot == some n && decide (x.seq < q)
      (n ≤ 15 → slot → s.th.stall = none →
        (left n s.seq = true → exec (.aewait rd ra) s = .next (s.setTh { s.th with stall := some ⟨12, 0, .ae n s.seq⟩ })) ∧
        (left n s.seq = false → GivesNow (.aewait rd ra) s 12 rd ((engine s).slot n).runWord)) ∧
      ∀ len d m q, s.th.stall = some ⟨len, d, .ae m q⟩ → (left m q = true → exec (.aewait rd ra) s = .next { s with waiting := true }) ∧
        (left m q = false → GivesNow (.aewait rd ra) s 12 rd ((engine s).slot m).runWord))

/-- R276: the score that a logit and a bias give, and whether it was clamped: 256 times the exact difference, rounded half to even and clamped to
`int16`; a NaN gives the least score. -/
def ScoreOf (logit bias : W32) (v : Int) (clamped : Bool) : Prop :=
  match (addNum 0 (fp32.decode logit) (fp32.decode bias).flip).1 with
  | .nan => v = -32768 ∧ clamped = true
  | .inf neg => v = (if neg then -32768 else 32767) ∧ clamped = true
  | .fin neg m e => ∃ n : Int,
    let y : ℚ := (if neg then -1 else 1) * m * 2 ^ (e + 8)
    |n - y| ≤ 1 / 2 ∧ (|n - y| = 1 / 2 → n % 2 = 0) ∧ v = max (-32768) (min 32767 n) ∧ (clamped = true ↔ n < -32768 ∨ 32767 < n)

/-- R279: the fill of the tokens that a run leaves without an expert, group by group and token by token: each goes, at no bid, to the free expert of
its group with the largest score less price, the lowest on a tie. `h` are the holders before, `k` those after. -/
def Fills (r : BitVec 512) (score : Nat → Nat → Int) (caps p : List Nat) (h k : List (Nat × Nat × Nat)) : Prop :=
  let pairs : List ((Nat × Nat) × Nat) := (recGroups r).flatMap fun g => (List.range (recT r)).map fun t => (g, t)
  ∃ f : Nat → List (Nat × Nat × Nat), f 0 = h ∧ f pairs.length = k ∧ ∀ i g t, pairs[i]? = some (g, t) →
    let free (e : Nat) : Prop := g.1 ≤ e ∧ e < g.2 ∧ ((f i).filter fun x => x.1 == e).length < (caps[e]?).getD 0
    let val (e : Nat) : Int := score t e - (priceAt p e : Int)
    (unassigned (f i) g t = false → f (i + 1) = f i) ∧
    (unassigned (f i) g t = true → ((∀ e, ¬free e) → f (i + 1) = f i) ∧
      ∀ e, free e → (∀ x, free x → val x ≤ val e ∧ (x < e → val x < val e)) → f (i + 1) = f i ++ [(e, t, 0)])

/-- R278: a round. Every unassigned (token, group) pair bids at the prices of the round's start: for the expert of its group that has capacity and
the largest score less price, the lowest on a tie, and by how much that beats the next best, plus eps. Each expert keeps the largest bids among
its holders and these, the lower token on a tie, and a full expert's price becomes the smallest bid that it keeps. `h`, `p`: holders and prices
before; `k`, `p'`: after. -/
def RoundOf (r : BitVec 512) (score : Nat → Nat → Int) (caps p : List Nat) (h k : List (Nat × Nat × Nat)) (p' : List Nat) : Prop :=
  let cap (e : Nat) : Nat := (caps[e]?).getD 0
  ∃ bid : Nat × Nat → Nat → Option (Nat × Nat × Nat),
    (∀ g ∈ recGroups r, ∀ t < recT r,
      let elig (e : Nat) : Prop := g.1 ≤ e ∧ e < g.2 ∧ 1 ≤ cap e
      let val (e : Nat) : Int := score t e - (priceAt p e : Int)
      (bid g t = none ↔ ∀ e, ¬ elig e) ∧
      ∀ e u b, bid g t = some (e, u, b) → u = t ∧ elig e ∧ (∀ x, elig x → val x ≤ val e ∧ (x < e → val x < val e)) ∧
        ∃ v2 : Int, ((∃ x, elig x ∧ x ≠ e ∧ val x = v2) ∨ ((∀ x, elig x → x = e) ∧ v2 = val e)) ∧ (∀ x, elig x → x ≠ e → val x ≤ v2) ∧
          (b : Int) = min (priceAt p e + (val e - v2) + recEps r) 0xFFFFFF) ∧
    let bids := (recGroups r).flatMap fun g => (List.range (recT r)).filterMap fun t => if unassigned h g t then bid g t else none
    (∀ x ∈ k, x.1 < recE r) ∧
    ∀ e < recE r,
      let pool := (h ++ bids).filter fun x => x.1 == e
      let kept := k.filter fun x => x.1 == e
      kept.Subperm pool ∧ kept.length = min (cap e) pool.length ∧
      (∀ x ∈ kept, ∀ y ∈ pool, kept.count y < pool.count y → y.2.2 < x.2.2 ∨ (y.2.2 = x.2.2 ∧ x.2.1 ≤ y.2.1)) ∧
      (kept.length < cap e ∨ cap e = 0 → priceAt p' e = priceAt p e) ∧
      (kept.length = cap e → cap e ≠ 0 → (∃ x ∈ kept, x.2.2 = priceAt p' e) ∧ ∀ x ∈ kept, priceAt p' e ≤ x.2.2)

/-- R274–R281: a command that none before it holds starts: AESTAT reads the run word, AERUN puts its slot into a run with the prices of each group rebased (R277), or a start check fails and its
reason goes into the run word or the result, and nothing else is done; an AECFG that starts has read the record that it configures its slot with.
AECFG, AESC, AECAP, AERD, AEPR and AEPW complete with what they configure, read or
write, and the count of bytes (modulo 2^24, the width of its field). A round is that of R278 (`RoundOf`) and gives no expert more tokens than its capacity; a run that is over leaves the state CONVERGED or FILLED,
its prices in the bank and in the results every token's expert, after the fill where it was filled. -/
def Obligations.AssignmentCommands : Prop :=
  let engine (s : State) (d : Nat) : Ae := (s.die d).ae
  ∀ s : State, let d := dieOf s.focus
    (∀ (pos : Nat) (q : AeEntry), (engine s d).queue[pos]? = some q → q.core = s.focus → s.ctx.of q.launch = true → q.thr = s.thr.val →
      s.th.live = true → s.th.inc = q.inc →
      let gone (t : State) : Prop := ∀ x ∈ (engine t d).queue, x.seq ≠ q.seq
      let answers (t : State) (v : W64) : Prop := gone t ∧ (q.rd ≠ 0 → t.reg q.rd = v ∧ t.th.has q.rd = true)
      let status (reason count : Nat) : W64 := BitVec.ofNat 64 (reason * 2 ^ 56 + count % 2 ^ 24)
      (q.started = false → s.aeFree d q = true → s.aeNext d q = true →
        (∀ n, q.cmd = .stat n → ∃ t, exec (.aeCommandStart d pos) s = .next t ∧ SameMemory s t ∧ answers t ((engine s d).slot n).runWord) ∧
        (∀ n dl, q.cmd = .run n dl →
          (s.aeStartFail d q = 0 → ∃ t, exec (.aeCommandStart d pos) s = .next t ∧ SameMemory s t ∧
            ((engine t d).slot n).state = 1 ∧ ((engine t d).slot n).rounds = 0 ∧ ((engine t d).slot n).holders = [] ∧
            ((engine t d).slot n).deadline = dl ∧
            (recOk ((engine s d).slot n).record = true → ∀ g ∈ recGroups ((engine s d).slot n).record,
              let price (e : Nat) : Nat := ((engine s d).price ((engine s d).slot n).bank e).toNat
              ∃ m, (∃ f, g.1 ≤ f ∧ f < g.2 ∧ price f = m) ∧ ∀ e, g.1 ≤ e → e < g.2 →
                m ≤ price e ∧ priceAt ((engine t d).slot n).prices e = price e - m)) ∧
          (s.aeStartFail d q ≠ 0 → ∃ t, exec (.aeCommandStart d pos) s = .next t ∧ SameMemory s t ∧ gone t ∧
            (engine t d).slot n = { (engine s d).slot n with reason := s.aeStartFail d q })) ∧
        ((∀ n, q.cmd ≠ .stat n) → (∀ n dl, q.cmd ≠ .run n dl) →
          (s.aeStartFail d q = 0 → ∃ t, exec (.aeCommandStart d pos) s = .next t ∧ SameMemory s t ∧
            (∀ x ∈ (engine t d).queue, x.seq = q.seq → x.started = true) ∧
            ∀ n l, q.cmd = .cfg n l → q.got = [] → s.outRegion s.focus q.launch = none →
              (∀ y ∈ (engine s d).queue, y.seq = q.seq → y = q) →
              ∃ x ∈ (engine t d).queue, x.seq = q.seq ∧ ∀ u : State, u.aeRead x l = s.aeRecord s.focus l.loc) ∧
          (s.aeStartFail d q ≠ 0 → ∃ t, exec (.aeCommandStart d pos) s = .next t ∧ SameMemory s t ∧
            answers t (status (s.aeStartFail d q) 0)))) ∧
      (q.started = true → s.aeServed d q = true → s.outRegion s.focus q.launch = none → s.memOk = true →
        let place (l : AeLoc) (i : Nat) : Place := match l.loc with
          | .ulm o => .ulm s.focus (o + i)
          | .scratch o => .scratch s.clu (o + i)
        let done (t : State) (count : Nat) : Prop := exec (.aeCommandComplete d pos) s = .next t ∧ answers t (status 0 count)
        (∀ n l, q.cmd = .cfg n l → ∃ t, done t 64 ∧ SameMemory s t ∧
          ((engine t d).slot n).record = (if (s.aeRead q l).getLsbD 0 then s.aeRead q l else 0) ∧
          ((engine t d).slot n).results = [] ∧ ((engine t d).slot n).hasScores = false ∧ ((engine t d).slot n).runWord = 0) ∧
        (∀ n, q.cmd = .cap n none → ∃ t, done t 0 ∧ SameMemory s t ∧
          ((engine t d).slot n).caps = defaultCaps ((engine s d).slot n).record) ∧
        (∀ n l, q.cmd = .cap n (some l) →
          let x := (engine s d).slot n
          let w := s.aeInput q l 0 (2 * recE x.record)
          ∃ t, done t (2 * recE x.record) ∧ SameMemory s t ∧ ((engine t d).slot n).caps =
            (List.range (recE x.record)).map fun e => ((w[2 * e]?).getD 0).toNat + 256 * ((w[2 * e + 1]?).getD 0).toNat) ∧
        (∀ n l b, q.cmd = .sc n l b → q.got = [] →
          let x := (engine s d).slot n
          let z := recT x.record * recE x.record
          let word (l : AeLoc) (i : Nat) : W32 := BitVec.ofNat 32 (leNat ((List.range 4).map fun m => s.byteAt (place l (4 * i + m))))
          ∃ (t : State) (v : Nat → Int) (cl : Nat → Bool), done t (4 * z + 4 * recE x.record) ∧
            SameBut (fun i => some (.scores d (recBase x.record + i))) (2 * z) s t ∧
            (∀ i < z, ScoreOf (word l i) (word b (i % recE x.record)) (v i) (cl i) ∧
              ((engine t d).scores.readLE (recBase x.record + 2 * i) 2 16 : BitVec 16).toInt = v i) ∧
            (engine t d).slot n = { x with hasScores := true, clamps := ((List.range z).filter cl).length }) ∧
        (∀ n l, q.cmd = .rd n l → q.put = [] →
          let x := (engine s d).slot n
          let r := if x.results = [] then List.replicate (recT x.record * recG x.record) 0xFFFF else x.results
          ∃ t, done t (2 * r.length) ∧ SameBut (fun i => some (place l i)) (2 * r.length) s t ∧
            ∀ i v, r[i]? = some v → t.byteAt (place l (2 * i)) = BitVec.ofNat 8 v ∧ t.byteAt (place l (2 * i + 1)) = BitVec.ofNat 8 (v / 256)) ∧
        (∀ b l, q.cmd = .pr b l → q.put = [] → ∃ t, done t 2048 ∧ SameBut (fun i => some (place l i)) 2048 s t ∧
          ∀ j < 512, t.byteAt (place l (4 * j)) = ((engine s d).price b j).extractLsb' 0 8 ∧
            t.byteAt (place l (4 * j + 1)) = ((engine s d).price b j).extractLsb' 8 8 ∧
            t.byteAt (place l (4 * j + 2)) = ((engine s d).price b j).extractLsb' 16 8 ∧ t.byteAt (place l (4 * j + 3)) = 0) ∧
        (∀ b l, q.cmd = .pw b l → q.got = [] → ∃ t, done t 2048 ∧ SameMemory s t ∧ ∀ j < 512, (engine t d).price b j =
          s.byteAt (place l (4 * j + 2)) ++ s.byteAt (place l (4 * j + 1)) ++ s.byteAt (place l (4 * j))))) ∧
    (∀ n, ((engine s d).slot n).state = 1 → ((engine s d).slot n).over s.now = false → (s.turnNow d).head? = some n →
      ∃ t, exec (.aeRound d n) s = .next t ∧ SameMemory s t ∧
        let x := (engine s d).slot n
        let y := (engine t d).slot n
        y.rounds = x.rounds + 1 ∧ y.record = x.record ∧ y.caps = x.caps ∧
        (∀ e, (y.holders.filter fun h => h.1 == e).length ≤ (x.caps[e]?).getD 0) ∧
        RoundOf x.record ((engine s d).score x.record) x.caps x.prices x.holders y.holders y.prices) ∧
    (∀ n, ((engine s d).slot n).state = 1 → ((engine s d).slot n).over s.now = true →
      ∃ t, exec (.aeRunEnd d n) s = .next t ∧ SameMemory s t ∧
        let x := (engine s d).slot n
        let y := (engine t d).slot n
        let all : Prop := allAssigned x.record x.holders = true
        (all → y.state = 2 ∧ y.filled = 0 ∧ y.results = resultsOf x.record x.holders) ∧
        (¬all → y.state = 3 ∧ ∃ k, Fills x.record ((engine s d).score x.record) x.caps x.prices x.holders k ∧
          y.results = resultsOf x.record k ∧ y.filled = k.length - x.holders.length) ∧ y.reason = 0 ∧
        (∀ j < x.prices.length, ((engine t d).price x.bank j).toNat = priceAt x.prices j % 2 ^ 24) ∧
        ∀ q ∈ (engine t d).queue, q.cmd.slot = some n → q.started = false)

/-! ## Collectives (R318–R326) -/

/-- R322–R324: COLL answers its handle and hands the descriptor over. Once no earlier hand-over of the group is being checked, it is checked: the
instance is refused with the first cause of NOTDL, GROUP, DUP, SEQ, BUSY, LAYOUT and DENY, and then nothing of the group changes, or is started,
and S is its number; while DENY waits for its translations neither happens (log 29). F's rise before that is free on a group of more than one
member (log 18). COLLW answers NONE for a handle that nobody has used, and otherwise the status of the most recent instance, for which it
waits. -/
def Obligations.CollectiveIssue : Prop :=
  let acc (s : State) : State := s.setCtx { s.ctx with accerr := true }
  let bad (i : Instr) (s : State) (rd : SReg) : Prop :=
    exec i s = .next ((acc s).setTh ((s.th.setReg rd 0xDEADDEADDEADDEAD).past 12))
  ∀ (s : State) (rd ra : SReg), s.has [ra, rd] = true →
    let i : Instr := .coll rd ra
    let w : Instr := .collw rd ra
    let a := s.reg ra
    (s.ctx.phase = .compute → s.th.stall = none → exec i s = .next (trapEntry 6 (((encode i).headD 0).setWidth 64) s) ∧
      exec w s = .next (trapEntry 6 (((encode w).headD 0).setWidth 64) s)) ∧
    (s.ctx.phase = .exchange →
      (engineLoc s.focus s.ctx a 64 = none → bad i s rd) ∧
      (∀ l, engineLoc s.focus s.ctx a 64 = some l →
        let d := BitVec.ofNat 512 (leNat (s.engineBytes s.focus l 64))
        let grp := d.extractLsb' 16 16
        let inst := d.extractLsb' 32 16
        let g := s.group grp
        let x : Instance := ⟨grp, inst, s.focus, s.ctx.launch, s.ctx.ctxid, d, s.relAfter s.focus s.ctx.launch, none, none, [], false, true, [], [],
          Group.reset⟩
        let u : State := { s with instances := s.instances ++ [x] }
        let issued (t : State) : Prop := exec i s = .next t ∧ SameMemory s t ∧ t.th = (s.th.setReg rd ((grp ++ inst).setWidth 64)).past 12
        let ahead : Prop := ∃ y ∈ s.instances, y.grp.extractLsb' 4 12 = grp.extractLsb' 4 12 ∧ y.started = false ∧ y.status = none
        let started (y : Instance) : Bool := y.current && y.started && y.grp == grp && y.inst == inst
        let dl : Prop := s.isAdmitted s.ctx.launch = true
        let mine : Prop := g.v = true ∧ g.gen = grp.extractLsb' 0 4 ∧ s.isMember g = true
        let refused (n : Nat) : Prop := ∃ t, issued t ∧ t.instances = s.instances ++ [{ x with status := some n }] ∧ t.groups = s.groups
        let good : Prop := ¬dl ∧ mine ∧ inst = g.s + 1 ∧ (inst - g.f).toNat ≤ 2 ∧ layoutOk d g.count.toNat = true
        s.membersLine g = none →
          (ahead → ∃ t, issued t ∧ t.instances.length = s.instances.length + 1 ∧ t.instances.getLast? = some x) ∧
          (¬ahead → (dl → refused 9) ∧ (¬dl → ¬mine → refused 2) ∧
            (¬dl → mine → inst ≠ g.s + 1 → refused (if s.instances.any started then 4 else 3)) ∧
            (¬dl → mine → inst = g.s + 1 → 2 < (inst - g.f).toNat → refused 1) ∧
            (¬dl → mine → inst = g.s + 1 → (inst - g.f).toNat ≤ 2 → layoutOk d g.count.toNat = false → refused 5) ∧
            (good → match (u.pages (clusterOf s.focus) (u.collUser x) x.accesses).1 with
              | .denied => refused 6
              | .waiting => ∃ t y, issued t ∧ t.instances = s.instances ++ [y] ∧ y.started = false ∧ y.status = none ∧ t.groups = s.groups
              | .ok => ∃ t y, issued t ∧ t.instances = s.instances ++ [y] ∧ y.started = true ∧ y.status = none ∧ y.inst = inst ∧
                y.grp = grp ∧ y.desc = d ∧ y.core = s.focus ∧ y.group = g ∧ t.group grp = { g with s := inst }))) ∧
      (2 ^ 32 ≤ a.toNat → bad w s rd) ∧
      (a.toNat < 2 ^ 32 →
        let mine := s.instances.filter fun x => x.grp == a.extractLsb' 16 16 && x.inst == a.extractLsb' 0 16
        let word (n : Nat) : W64 := BitVec.ofNat 64 (a.toNat % 65536 * 65536 + n)
        (mine = [] → GivesNow w s 12 rd (word 10)) ∧
        (∀ x n, mine.getLast? = some x → x.status = some n → n < 65536 → GivesNow w s 12 rd (word n)) ∧
        (∀ x, mine.getLast? = some x → x.status = none → s.th.stall = none →
          exec w s = .next (s.setTh { s.th with stall := some ⟨12, 0, .retry⟩ }))))

/-- R321: the value `v` of the element with the global index vector `x`, from the input shards: the copies are those of the members that hold it
and whose coordinate is 0 on every axis that neither shards a dimension nor is partial. Without a partial axis it is the copy; with one the
copies in rank order are folded: AddF32 of FP32, of widened BF16 with one rounding at the end, a sum modulo 2^32, or the largest or smallest
as VREDMAX and VREDMIN choose. That a single FP32 copy that is a NaN gives the canonical NaN is the model's choice (log 116). -/
def CollValue (d : BitVec 512) (count : Nat) (shard : Nat → List W32) (x : List Nat) (v : W32) : Prop :=
  let l := collIn d
  let at_ (j : Nat) : Nat := (x[j]?).getD 0
  let size (j : Nat) : Nat := localSize d l j
  let holds (r : Nat) : Prop := ∀ j < 4, ∀ k, layAxis l j = some k → at_ j / size j = meshCoord d r k
  let zero (r : Nat) : Prop := ∀ k < 4, layShards l k = false → layPart l k = false → meshCoord d r k = 0
  let place := ((List.range 4).map fun j => at_ j % size j * ((List.range j).map size).prod).sum
  ∃ copies : List Nat, copies.Pairwise (· < ·) ∧ (∀ r, r ∈ copies ↔ r < count ∧ holds r ∧ zero r) ∧
    let vals := copies.map fun r => ((shard r)[place]?).getD 0
    let wide : List W32 := if collTy d = 1 then vals.map fun z => (fp32.roundNum 0 (bf16.decode z)).1 else vals
    let narrow (w : W32) : W32 := if collTy d = 1 then (bf16.roundNum 0 (fp32.decode w)).1 else if fp32.decode w = .nan then 0x7FC00000 else w
    let less (p q : W32) : Bool :=
      let p := fp32.decode p; let q := fp32.decode q; if p.isZero && q.isZero then p.neg && !q.neg else ltNum p q
    ((∀ k < 4, layPart l k = false) → v = vals.headD 0) ∧
    ((∃ k < 4, layPart l k = true) → ∀ a rest, wide = a :: rest →
      (collTy d ≠ 5 → collOp d = 0 → v = narrow (rest.foldl addF32 a)) ∧ (collTy d = 5 → collOp d = 0 → v = vals.sum) ∧
      (collTy d = 5 → collOp d ≠ 0 → v ∈ vals ∧ ∀ y ∈ vals, if collOp d = 1 then y.toInt ≤ v.toInt else v.toInt ≤ y.toInt) ∧
      (collTy d ≠ 5 → collOp d ≠ 0 → ((∃ y ∈ wide, fp32.decode y = .nan) → v = narrow 0x7FC00000) ∧
        ((∀ y ∈ wide, fp32.decode y ≠ .nan) → ∃ w ∈ wide, v = narrow w ∧ ∀ y ∈ wide, (if collOp d = 1 then less w y else less y w) = false)))

/-- R318, R319, R323–R326: a chunk of an old generation is dropped and counted; one of an instance that has ended here is dropped; another takes a
slot of its processor, or is spilled to the pool behind what is there of that processor, or is held by its sender; the first spilled for a
processor with a free slot comes back. Of a group's oldest running instance: it completes with OK once its publication has been applied, and on
a group of one member F follows; it ends with DENY where its pages are refused, with LINK where a member cannot be reached or has lost its
part, and with LOST where a containment reset takes its core before its publication has a slot (R334). With its input and every other
member's here it makes the publication of its output, whose values are those of R321 (`CollValue`), over the group as it was when it
started. A chunk that its sender holds is dropped and counted as it comes in if its generation has gone. Which processor a chunk comes to is free, and a chunk is at most 1,024 elements (log 30). -/
def Obligations.CollectiveEvents : Prop :=
  (∀ (s : State) (grp inst : BitVec 16) (sender : Nat) (data : List W32),
    let i : Instr := .chunkArrival grp inst sender data
    ((s.group grp).gen ≠ grp.extractLsb' 0 4 →
      exec i s = .next { s with staleChunks := BitVec.ofNat 16 (min (s.staleChunks.toNat + 1) 65535) }) ∧
    ((s.group grp).gen = grp.extractLsb' 0 4 → s.overHere grp inst = true → exec i s = .next s) ∧
    ((s.group grp).gen = grp.extractLsb' 0 4 → s.overHere grp inst = false → ∃ p < 26,
      let here (x : ChunkPlace) : List Chunk := s.chunks.filter fun c => c.proc == p && c.place == x
      let pool : Nat := (s.chunks.filter fun c => c.place == .pool).length
      let goes (x : ChunkPlace) (n : BitVec 32) : Prop := exec i s = .next { s with
        chunks := s.chunks ++ [⟨grp, inst, sender, data.take 1024, p, x⟩], spillCount := n }
      let slot : Prop := (here .slot).length < 512 ∧ here .pool = []
      (here .sender ≠ [] → goes .sender s.spillCount) ∧ (here .sender = [] → slot → goes .slot s.spillCount) ∧
      (here .sender = [] → ¬slot → pool < s.poolChunks → goes .pool (BitVec.ofNat 32 (min (s.spillCount.toNat + 1) 4294967295))) ∧
      (here .sender = [] → ¬slot → s.poolChunks ≤ pool → goes .sender s.spillCount))) ∧
  (∀ s : State,
    let free (p : Nat) : Prop := (s.chunks.filter fun c => c.proc == p && c.place == .slot).length < 512
    (∀ (pre post : List Chunk) (c : Chunk), s.chunks = pre ++ c :: post → (∀ x ∈ pre, x.place = .pool → ¬free x.proc) → c.place = .pool →
      free c.proc → exec .spillRefetch s = .next { s with chunks := pre ++ { c with place := .slot } :: post }) ∧
    ((∀ c ∈ s.chunks, c.place = .pool → ¬free c.proc) → exec .spillRefetch s = .next s)) ∧
  (∀ (s : State) (pre post : List Instance) (x : Instance), s.instances = pre ++ x :: post → x.started = true → x.status = none →
    (∀ y ∈ pre, y.grp = x.grp → y.started = true → y.status ≠ none) →
    (∀ y ∈ s.instances, y.grp.extractLsb' 4 12 = x.grp.extractLsb' 4 12 → y.started = true ∨ y.status ≠ none) →
    let k := clusterOf x.core
    let ends (i : Instr) (n : Nat) : Prop := ∃ t, exec i s = .next t ∧ SameMemory s t ∧
      t.instances = pre ++ { x with status := some n } :: post ∧ t.chunks = s.chunks.filter fun c => !(c.grp == x.grp && c.inst == x.inst)
    let lost : Prop := ∃ t, s.act (.peerLost x.grp x.inst) = .next t ∧ SameMemory s t ∧
      t.instances = pre ++ { x with status := some 7 } :: post ∧ t.chunks = s.chunks.filter fun c => !(c.grp == x.grp && c.inst == x.inst)
    let i : Instr := .collInstanceComplete x.grp x.inst
    (∀ id, x.pub = some id → (∀ p ∈ s.pubs, p.id = id → p.applied = true) → ends i 0 ∧
      ((s.group x.grp).count = 1 → x.current = true → (∀ y ∈ post, y.grp.extractLsb' 4 12 = x.grp.extractLsb' 4 12 → y.status = none) →
        ∃ t, exec i s = .next t ∧ (t.group x.grp).f = x.inst)) ∧
    (x.pub = none → s.membersLine x.group = none → x.got = [] → x.trans = [] → s.ctxLine x.ctxid = none →
      (s.ctxRecord x.ctxid).getLsbD 0 = false → (s.cluster k).copyTlb.entries = [] →
      (∀ n, ((s.cluster k).sharedTlb.get n Tlb.reset).entries = []) → (∀ j < 4, localSize x.desc (collIn x.desc) j ≠ 0) → ends i 6) ∧
    (x.pub = none → s.membersLine x.group = none → (s.pages k (s.collUser x) x.accesses).1 = .denied → ends i 6) ∧
    (x.pub = none → s.membersLine x.group = none → (s.pages k (s.collUser x) x.accesses).1 = .ok → s.memberLost x.group = true → ends i 7) ∧
    (x.pub = none → lost) ∧
    (∀ y, x.pub = none → s.membersLine x.group = none → y = s.pages k (s.collUser x) x.accesses → y.1 = .ok →
      y.2.2.sideLost k y.2.1 x.accesses [] = false → y.2.2.sideHeld k y.2.1 x.accesses [] = false → s.memberLost x.group = false →
      x.after ≤ s.now → s.poison = [] → (∀ p ∈ s.pubs, p.lagG = 0) →
      let taken := (takeChunks x.grp x.inst s.chunks [] x.taken).1
      ({ x with taken := taken } : Instance).allChunks x.group = true →
      let rank := x.group.rank.toNat
      let es := collEs x.desc
      let word (a : W64) : W32 := match y.2.1.entry s.now .copyRead a with
        | some e => BitVec.ofNat 32 (leNat ((List.range es).map fun j => s.home.read (e.key a.toNat + j)))
        | none => 0
      let shard (r : Nat) : List W32 := if r = rank then x.got ++ x.unread.map word else taken.get r []
      let out := collOutput x.desc x.group.count.toNat rank shard
      let vals : List (W64 × List Byte) := out.zipIdx.map fun v =>
        (collDst x.desc + BitVec.ofNat 64 (v.2 * es), (List.range es).map fun j => v.1.extractLsb' (8 * j) 8)
      ∃ t p, exec i s = .next t ∧ SameMemory s t ∧
        t.instances = pre ++ { x with pub := some s.ids, got := [], taken := [], trans := [] } :: post ∧ t.pubs = s.pubs ++ [p] ∧
        p.id = s.ids ∧ p.engine = true ∧ p.sys = true ∧ p.obj = none ∧ p.core = x.core ∧ p.launch = x.launch ∧ p.ready = some s.now ∧
        p.app = none ∧ (out.length = shardLen x.desc (collOut x.desc) → (∀ v ∈ vals, v.1.toNat + v.2.length ≤ 2 ^ 48) →
          ShadowCovers vals p.records))) ∧
  (∀ (d : BitVec 512) (count rank : Nat) (shard : Nat → List W32), layoutOk d count = true → rank < count →
    let out := collOutput d count rank shard
    let size (j : Nat) : Nat := localSize d (collOut d) j
    let index (p j : Nat) : Nat := p / ((List.range j).map size).prod % size j +
      match layAxis (collOut d) j with | some k => meshCoord d rank k * size j | none => 0
    out.length = ((List.range 4).map size).prod ∧
    ∀ p < out.length, ∃ v, out[p]? = some v ∧ CollValue d count shard ((List.range 4).map (index p)) v) ∧
  (∀ (s : State) (c pos : Nat) (x : Instance),
    let r := s.rectAt c
    s.instances[pos]? = some x → ((s.die (dieOf c)).resetting.any fun m => m.1 == r.1) = false →
    let cut : Prop := (dieOf x.core = dieOf c ∧ r.2.covers x.core = true) ∧ x.status = none ∧
      ∀ id, x.pub = some id → ∃ p ∈ s.pubs, p.id = id ∧ p.app = none
    (cut → (s.consume c).instances[pos]? = some { x with status := some 8 }) ∧ (¬ cut → (s.consume c).instances[pos]? = some x)) ∧
  (∀ s : State,
    let old (c : Chunk) : Bool := c.place == .sender && (s.group c.grp).gen != c.grp.extractLsb' 0 4
    s.admitChunks.staleChunks.toNat = min 65535 (s.staleChunks.toNat + (s.chunks.filter old).length) ∧
    s.admitChunks.chunks.map (fun c => (c.grp, c.inst, c.sender, c.data)) =
      (s.chunks.filter fun c => !old c).map fun c => (c.grp, c.inst, c.sender, c.data))

/-! ## Queues, admission and dispatch (R293–R304) -/

/-- R293, R294, R297, R298: the scheduler reads a queue's tail at its home; a tail that went back, or that is further on than the ring is long,
stops the queue, with the error published; otherwise the next record is read and becomes a launch, with BADREC at once where it fails R296.
A stopped queue, the management request queue too, is reset with its control block cleared; a waiting queue takes a free slot, and its descriptor takes effect, or it takes the slot of
a queue whose head has stayed bound longest, as many as wait or may leave; and the
head that is first in the grant order of R298 is granted. Which queues are read, one record at a time (`mayConsume`), is the model's choice
(log 42). -/
def Obligations.Queues : Prop :=
  (∀ (s : State) (q : Nat) (bs : List Byte), q < 65536 → (s.queue q).err = 0 →
    let d := s.queueDesc q
    let x := s.queue q
    let i : Instr := .schedulerConsume q
    s.mgmtRead (qCtxid d) (qQcb d) 8 = some bs →
    let tail := leNat bs
    let size := 2 ^ (d.extractLsb' 275 5).toNat
    (∀ err rs, err = (if tail < x.tail then 2 else 1) → (tail < x.tail ∨ size < tail - x.head) →
      s.mgmtRecords (qCtxid d) (qQcb d + 16) (leBytes (BitVec.ofNat 64 err) 8) = some rs →
      ∃ t p, exec i s = .next t ∧ SameMemory s t ∧ t.queue q = { x with err := err } ∧ t.pubs = s.pubs ++ [p] ∧ p.engine = true ∧
        p.source = 2304 ∧ p.records = rs ∧ p.ready = some s.now ∧ t.launches = s.launches) ∧
    (x.tail ≤ tail → tail - x.head ≤ size → (tail ≤ x.head ∨ s.mayConsume q = false) →
      exec i s = .next (s.setQueue q { x with tail := tail })) ∧
    (x.tail ≤ tail → tail - x.head ≤ size → x.head < tail → s.mayConsume q = true →
      let u := (s.setQueue q { x with tail := tail }).mgmtSettle (qCtxid d) (qRbase d + BitVec.ofNat 64 (64 * (x.head % size))) 64
      ∀ r rs, u.mgmtRead (qCtxid d) (qRbase d + BitVec.ofNat 64 (64 * (x.head % size))) 64 = some r →
        u.mgmtRecords (qCtxid d) (qQcb d + 8) (leBytes (BitVec.ofNat 64 (x.head + 1)) 8) = some rs →
        ∃ t l, exec i s = .next t ∧ SameMemory u t ∧ ((∀ p ∈ s.pubs, p.lagG = 0) → SameMemory s t) ∧ (t.queue q).head = x.head + 1 ∧ (t.queue q).tail = tail ∧
          (t.queue q).since = (if (l.bad d || l.dl) && (u.headLaunch q).isNone then s.now else x.since) ∧
          t.launch? (s.ids + 2) = some l ∧ l.queue = q ∧ l.index = x.head ∧ l.record = BitVec.ofNat 512 (leNat r) ∧
          (l.bad d = true → l.state = .ended ∧ l.status = 5) ∧ (l.bad d = false → l.state = .queued ∧ l.status = 0))) ∧
  (∀ (s : State) (q : Nat) (rs : List LogRec), q ≠ 65536 → (s.queue q).err ≠ 0 →
    s.mgmtRecords (qCtxid (s.queueDesc q)) (qQcb (s.queueDesc q)) (List.replicate 24 0) = some rs →
    ∃ t p, exec (.queueReset q) s = .next t ∧ SameMemory s t ∧ (t.queue q).head = 0 ∧ (t.queue q).tail = 0 ∧ (t.queue q).err = 0 ∧
      (t.queue q).slot = (s.queue q).slot ∧ t.pubs = s.pubs ++ [p] ∧ p.records = rs) ∧
  (∀ (s : State) (rs : List LogRec), s.mreqQueue.err ≠ 0 → s.mgmtRecords (qCtxid s.mreq) (qQcb s.mreq) (List.replicate 24 0) = some rs →
    ∃ t p, exec (.queueReset 65536) s = .next t ∧ SameMemory s t ∧ t.mreqQueue.head = 0 ∧ t.mreqQueue.tail = 0 ∧ t.mreqQueue.err = 0 ∧
      t.queues = s.queues ∧ t.pubs = s.pubs ++ [p] ∧ p.records = rs) ∧
  (∀ (s : State) (q n : Nat), q < 65536 → (s.queue q).slot = none → s.queueWaits q = true → s.slotFree n = true →
    ∃ t, exec (.queueBind q n) s = .next t ∧ SameMemory s t ∧ (t.queue q).slot = some n ∧ (t.queue q).bound = s.now ∧
      t.queueDesc q = s.writtenDesc q ∧
      ∀ p, s.slotHolder n = some p → p ≠ q → (t.queue p).slot = none) ∧
  (∀ s : State, ∃ t, exec .queueRotate s = .next t ∧ SameMemory s t ∧
    ((∀ m < 256, s.slotFree m = false) → (s.queues.map (·.1)).Pairwise (· < ·) →
      (∀ p q n, (s.queue p).slot = some n → (s.queue q).slot = some n → p = q) →
      let waiting : List Nat := (s.queues.filter fun (k, z) => z.slot.isNone && s.queueWaits k).map (·.1)
      let bound : List Nat := (s.queues.filter fun (k, z) =>
        !z.dlSlot && z.slot.isSome && !(s.considered k).any fun l => l.bestEffort && l.state == .granted).map (·.1)
      ∃ pairs : List (Nat × Nat), pairs.length = min waiting.length bound.length ∧ (pairs.map (·.1)).Nodup ∧ (pairs.map (·.2)).Nodup ∧
        pairs.Pairwise (fun x y => s.waitsSince x.1 ≤ s.waitsSince y.1 ∧ s.boundSince x.2 ≤ s.boundSince y.2) ∧
        (∀ x ∈ pairs, x.1 ∈ waiting ∧ x.2 ∈ bound ∧ (∀ q ∈ waiting, q ∉ pairs.map (·.1) → s.waitsSince x.1 ≤ s.waitsSince q) ∧
          (∀ p ∈ bound, p ∉ pairs.map (·.2) → s.boundSince x.2 ≤ s.boundSince p) ∧
          (t.queue x.1).slot = (s.queue x.2).slot ∧ (t.queue x.2).slot = none) ∧
        ∀ k, k ∉ pairs.map (·.1) → k ∉ pairs.map (·.2) → t.queue k = s.queue k)) ∧
  (∀ (s : State) (q : Nat),
    s.boundSince q = max (s.queue q).bound (s.queue q).since ∧
    (∀ l, s.headLaunch q = some l → s.waitsSince q = if l.state = .queued then max l.arrival (s.queue l.queue).since else l.arrival)) ∧
  (∀ (s : State) (l : Launch),
    let arrival (m : Launch) : Nat := if m.state = .queued then max m.arrival (s.queue m.queue).since else m.arrival
    let age (m : Launch) : Nat := ((s.descOf m).extractLsb' 288 16).toNat + 1
    let eff (m : Launch) : Nat := min 7 (m.prio + (s.now - arrival m) / (1600 * age m))
    let slot (m : Launch) : Nat := (s.queue m.queue).slot.getD 256
    let before (m : Launch) : Prop := eff m < eff l ∨ (eff l = eff m ∧ (arrival l < arrival m ∨ (arrival l = arrival m ∧ slot l < slot m)))
    let heads := s.queues.filterMap fun (k, z) => if z.slot.isSome && z.err == 0 then s.headLaunch k else none
    l ∈ heads → (∀ m ∈ heads, m ≠ l → before m) → s.launch? l.id = some l →
    ∃ t, exec .arbiterGrant s = .next t ∧ SameMemory s t ∧
      t.launch? l.id = some { l with state := .granted, order := s.ids, arrival := arrival l } ∧ (t.queue l.queue).since = s.now)

/-- R298–R302: a best-effort launch that has run its slice has it noted; the oldest deadline record is admitted at a place whose cores lie in its
reservation, under the demand and the test of R300 for its reservation, or is refused with status 4; a used-up quota names a switch for its running admitted
launches, and a new period begins with nothing used; an overrun demotes its launch, whose misses are no priority misses any longer (R169), and
holds the notice for each of its contexts. -/
def Obligations.Admission : Prop :=
  (∀ (s : State) (n : Nat) (l : Launch), s.launch? n = some l → l.state = .running → l.bestEffort = true →
    l.sliceStart + ((((s.descOf l).extractLsb' 304 16).toNat + 1) * 1600) ≤ s.now →
    ∃ t, exec (.sliceEnd n) s = .next t ∧ SameMemory s t ∧ t.launch? n = some { l with sliceOver := true }) ∧
  (∀ (s : State) (l : Launch), s.launchList.find? (fun m => m.dl && !m.admitted && m.state == .queued) = some l → s.launch? l.id = some l →
    (l.places.findSome? s.admits = none →
      exec .admissionDecision s = .next (s.updLaunch l.id fun m => { m with state := .ended, status := 4, ptimeEnd := s.now })) ∧
    (l.places.findSome? s.admits ≠ none → ∃ t m, exec .admissionDecision s = .next t ∧ SameMemory s t ∧ t.launch? l.id = some m ∧
      m.admitted = true ∧ m.state = .granted ∧ m.record = l.record ∧ s.now + m.demand < m.deadline ∧
      ∀ c ∈ m.cores, (s.rsv (qRsv (s.descOf l))).covers c = true)) ∧
  (∀ (s : State) (l : Launch),
    let n := qRsv (s.descOf l)
    let r := s.rsv n
    let others := s.launchList.filter fun m => m.admitted && !m.demoted && m.state != .ended && m.state != .finished
    let up (a b : Nat) : Nat := (a + b - 1) / b
    let pshare := ((others.filter fun m => m.shares l).map (·.bPages)).sum
    let c := up l.bCycles l.count + up l.bBytes 32 + 42080 * l.bRounds + 2 * l.bRecords +
      (if 0 < l.bPages then 4800 * (l.bPages + pshare + 1) else 0) + 4100 + 2400 * up (l.deadline - s.now) 160000
    let new : Launch := { l with demand := c }
    let raised := others.map fun m => if m.shares l ∧ 0 < m.bPages then { m with demand := m.demand + 4800 * l.bPages } else m
    let set := new :: raised.filter fun m => qRsv (s.descOf m) == n
    let q : ℚ := r.q.toNat
    let p : ℚ := r.p.toNat
    let holds : Prop := s.now + c < l.deadline ∧
      (∀ k ∈ l.cores, r.dmask.getLsbD (dieOf k) = true ∧ (rectOf (r.rect.setWidth 64)).covers k = true) ∧ others.length < 256 ∧ r.p ≠ 0 ∧
      (l.bRounds ≠ 0 → ∀ d ∈ l.dies, (others.filter fun m => m.bRounds != 0 && m.dies.contains d).length < 4) ∧
      ∀ j ∈ set, ((((set.filter fun i => decide (i.deadline ≤ j.deadline)).map fun i => i.demand - i.served).sum : ℕ) : ℚ) ≤
        max 0 (q * ((j.deadline : ℚ) - s.now - 2 * (p - q)) / p)
    (holds → s.admits l = some (new, raised)) ∧ (¬ holds → s.admits l = none)) ∧
  (∀ (s : State) (n : Nat), (s.rsv n).q.toNat ≤ (s.rsv n).used → ∃ t, exec (.reservationQuotaEnd n) s = .next t ∧ SameMemory s t ∧
    ∀ l ∈ s.admittedList, qRsv (s.descOf l) = n → l.state = .running → ∀ c ∈ l.cores, (s.core c).run.of l.id = true →
      (t.core c).switch ≠ none) ∧
  (∀ (s : State) (n : Nat), n < 16 → (s.rsv n).p ≠ 0 → (s.rsv n).period + (s.rsv n).p.toNat ≤ s.now →
    ∃ t, exec (.reservationPeriod n) s = .next t ∧ SameMemory s t ∧ (t.rsv n).used = 0 ∧ (t.rsv n).p = (s.rsv n).p ∧
      (t.rsv n).period ≤ s.now ∧ s.now < (t.rsv n).period + (s.rsv n).p.toNat) ∧
  (∀ (s : State) (n : Nat) (l : Launch), s.launch? n = some l → l.admitted = true → l.demoted = false → l.overrun ≠ 0 → l.state ≠ .ended → l.state ≠ .finished →
    ∃ t m, exec (.budgetOverrun n) s = .next t ∧ SameMemory s t ∧ t.launch? n = some m ∧ m.demoted = true ∧ m.record = l.record ∧
      (∀ k ∈ t.clusters, ∀ y ∈ k.2.misses, y.launch = n → y.priority = false) ∧
      ∀ c ∈ l.cores, ∀ x, t.ctxOf c n = some x → x.notice = l.overrun)

/-- R63, R73–R75, R303, R304: a dispatched spread has its contexts made, each core's switch named 2 µs ahead (R303 says at least 2 µs where streaming is needed; exactly that in every case is the model's choice, log 40); once every image load has ended with OK
the launch runs, unless it has lost its cores meanwhile, and after a failed one it ends; at its tick a switch brings in the waiting context, or takes the running one out, with its arrival at that tick in every case (log 38), which first takes a trap that is due, that of a store whose wait for log space is over, with too little room still, before all; second word accesses under way are made first
(R114, log 85); the streaming
slot moves a context between shadow slot and save area; an ended launch, of its queue the one whose cause arose first, has its completion record
published (R304). A client outside writes only what management has registered, and waits behind what its source has waiting and for an absent page
(R317, R346, R170). In a save area (R78, R142, R246) the registers, masks, PCs, `cstate` and CSRs, the spill descriptor and the matrix state block have
the bytes that the rules give; that State holds a context that is out as fields is the model's choice (log 31). -/
def Obligations.Dispatching : Prop :=
  (∀ (s : State) (n : Nat) (l : Launch) (dies : List Nat) (cr cc : Nat), s.launch? n = some l → l.admitted = false → l.loaded = [] →
    let m : Launch := { l with dies := dies, cr := cr, cc := cc }
    s.fits l m = true → ∃ t y, exec (.dispatch n dies cr cc) s = .next t ∧ SameMemory s t ∧ t.launch? n = some y ∧ y.state = .loading ∧
      y.dies = dies ∧ y.cr = cr ∧ y.cc = cc ∧ t.saved.length = s.saved.length + m.cores.length ∧ t.saveAreas = s.saveAreas - m.count ∧
      ∀ c ∈ m.cores, (t.core c).switch = some ⟨s.now + 3200, some n, some n⟩ ∧ (t.core c).run = (s.core c).run) ∧
  (∀ (l : Launch) (d : BitVec 512) (c k : Nat),
    let x := startCtx l d c k
    let t := x.thread 0
    t.live = true ∧ t.pc = (l.record.extractLsb' 64 18).setWidth 64 ∧ t.reg 2 = l.record.extractLsb' 0 64 ∧ t.reg 3 = BitVec.ofNat 64 k ∧
      (∀ r, r ≠ 2 → r ≠ 3 → t.reg r = 0) ∧ (∀ r, t.has r = true) ∧ x.phase = .exchange ∧ x.mode = .user ∧ x.inh = false ∧
      ∀ n, n ≠ 0 → (x.thread n).live = false) ∧
  (∀ (s : State) (n : Nat) (l : Launch), s.launch? n = some l → l.state = .loading →
    (l.status < 5 → (∀ c ∈ l.cores, c ∈ l.loaded) →
      exec (.imageLoadComplete n) s = .next (s.updLaunch n fun m => { m with
        state := if l.cores.any fun c => (s.core c).switch.any fun w => decide (w.waits = some n) then .running else .preempted
        sliceStart := max m.sliceStart s.now })) ∧
    (5 ≤ l.status → ∃ t m, exec (.imageLoadComplete n) s = .next t ∧ SameMemory s t ∧ t.launch? n = some m ∧ m.state = .ended ∧
      ∀ a ∈ t.saved, a.ctx.of n = false)) ∧
  (∀ (s : State) (c n a : Nat) (l : Launch) (i : Saved), (s.core c).switch = some ⟨a, some n, some n⟩ → a ≤ s.now → s.launch? n = some l →
    l.state = .running → (s.core c).run.resident = false → s.incoming c n = some i → i.region = none →
    ∃ t, exec (.switchTick c) s = .next t ∧ SameMemory (s.makeHalves fun _ _ _ => true) t ∧ (t.core c).run = i.ctx.resume s.now ∧
      (t.core c).switch = none) ∧
  (∀ (s : State) (c a : Nat), (s.core c).switch = some ⟨a, none, none⟩ → a ≤ s.now → (s.core c).run.resident = true →
    (s.core c).shadow.resident = false →
    let v := ({ s with freed := true } : State).makeHalves fun _ _ _ => true
    let room := ({ s with focus := c } : State).logRoom
    let u := ((v.preempted (s.core c).run.launch).boundaryTrap c).abandon c
    ∃ t, exec (.switchTick c) s = .next t ∧ SameMemory v t ∧ (t.core c).run = Ctx.reset ∧ (t.core c).switch = none ∧
      (t.core c).shadow = (u.core c).run.suspend s.now (u.core c).port ∧
      ((s.core c).run.notice = 0 → (s.core c).run.checks = false → (∀ n, ((s.core c).run.thread n).sigBad = none) →
        (∀ n, ((s.core c).run.thread n).half = none ∧ ((s.core c).run.thread n).logOver (s.core c).run room s.now = false) →
        (∀ p ∈ s.packets, p.core = c → p.state ≠ .refused) → (u.core c).run = (s.core c).run) ∧
      ((s.core c).run.inh = false → (s.core c).run.ended = false →
        ∀ n, ((s.core c).run.thread n).live = true → ((s.core c).run.thread n).logOver (s.core c).run room s.now = true →
        (u.core c).run.xcause.setWidth 8 = (7 : BitVec 8) ∧ (u.core c).run.inh = true) ∧
      (∀ len rd since ea l, ((s.core c).run.thread 0).stall = some ⟨len, rd, .log since ea l⟩ →
        (((s.core c).run.thread 0).logOver (s.core c).run room s.now = true ↔
          since + (s.core c).run.logcap.toNat ≤ s.now ∧ room < l.length)) ∧
      ∀ l, s.launch? (s.core c).run.launch = some l → l.state = .running →
        t.launch? (s.core c).run.launch = some { l with state := .preempted, arrival := s.now }) ∧
  (∀ (s : State) (c n : Nat),
    ((s.core c).shadow.of n = true → ∃ t, exec (.contextStream c n) s = .next t ∧ SameMemory s t ∧ (t.core c).shadow = Ctx.reset ∧
      t.saved = s.saved ++ [⟨c, (s.core c).shadow, none, s.now⟩] ∧ (t.core c).run = (s.core c).run) ∧
    (∀ a, (s.core c).shadow.resident = false → s.saved.find? (fun b => b.core == c && b.ctx.of n) = some a → a.region = none →
      ((s.core c).run.resident = true → (s.core c).run.ctxid ≠ a.ctx.ctxid) →
      ∃ t, exec (.contextStream c n) s = .next t ∧ SameMemory s t ∧ (t.core c).shadow = a.ctx ∧ (t.core c).run = (s.core c).run)) ∧
  (∀ (s : State) (n : Nat) (l : Launch) (rs : List LogRec), s.launch? n = some l → l.state = .ended → (s.queue l.queue).err = 0 →
    (∀ m ∈ s.launchList, m.state = .ended → m.queue = l.queue → l.ptimeEnd ≤ m.ptimeEnd) →
    let d := s.descOf l
    let size := 2 ^ (d.extractLsb' 275 5).toNat
    s.mgmtRecords (qCtxid d) (d.extractLsb' 448 64 + BitVec.ofNat 64 (16 * (l.index % size)))
      (leBytes (l.completion (l.finalStatus s.nextApp)) 16) = some rs →
    ∃ t p, exec (.completionRecord n) s = .next t ∧ SameMemory s t ∧ t.launch? n = some { l with state := .finished } ∧
      t.pubs = s.pubs ++ [p] ∧ p.engine = true ∧ p.source = 2304 ∧ p.records = rs) ∧
  (∀ (s : State) (port ctxid : Nat) (va : W64) (data : List Byte), data ≠ [] →
    let asid := BitVec.ofNat 16 ctxid
    let waits : Bool := s.mgmtAbsent asid .copyWrite va data.length
    let writes (i : Instr) (host : Bool) (source : Nat) : Prop :=
      (s.openTo host asid va data.length = false → exec i s = .next s) ∧
      (s.openTo host asid va data.length = true →
        ((waits = true ∨ ∃ w ∈ s.heldWrites, w.source = source) →
          exec i s = .next { s with heldWrites := s.heldWrites ++ [⟨source, host, asid, va, data⟩] }) ∧
        (waits = false → (∀ w ∈ s.heldWrites, w.source ≠ source) → ∀ rs, s.mgmtRecords asid va data = some rs →
          ∃ t p, exec i s = .next t ∧ SameMemory s t ∧ t.pubs = s.pubs ++ [p] ∧
            p.records = rs ∧ p.obj = none ∧ p.ready = some s.now ∧ p.source = source))
    (port < 10 → writes (.rdmaWrite port ctxid va data) false (2320 + portProcessor port)) ∧
    (port < 2 → writes (.cxlWrite port ctxid va data) true (2352 + port))) ∧
  (∀ (s : State) (x : Saved),
      let word (o : Nat) : W64 := BitVec.ofNat 64 (leNat ((List.range 8).map fun j => s.areaByte x (o + j)))
      let half (o : Nat) : W32 := BitVec.ofNat 32 (leNat ((List.range 4).map fun j => s.areaByte x (o + j)))
      (∀ (t : Fin 11) (r : Fin 32), word (8 * (32 * t.val + r.val)) = (x.ctx.thread t).regs[r]) ∧
      (∀ (n : Fin 16) (j : Nat), j < 256 → s.areaByte x (0xB00 + 256 * n.val + j) = x.ctx.vregs[n].extractLsb' (8 * j) 8) ∧
      (∀ n : Fin 8, word (0x1B00 + 8 * n.val) = if n = 0 then BitVec.allOnes 64 else x.ctx.masks[n]) ∧
      (∀ t : Fin 11, half (0x1B40 + 4 * t.val) = (x.ctx.thread t).present ∧ word (0x1B80 + 8 * t.val) = (x.ctx.thread t).pc) ∧
      word 0x1C00 = x.ctx.cstate ∧
      (∀ (n : Nat) (k : Csr), n < 19 → Csr.ofBits (BitVec.ofNat 5 n) = some k →
        word (0x1C08 + 8 * n) = csrValue x.tick x.core (s.core x.core) false x.ctx k) ∧
      (x.ctx.inbox.length ≤ 8 → let m := x.ctx.mx
        word 0x2000 = x.ctx.spillSize.setWidth 64 ∧ word 0x2008 = x.ctx.spillBase.setWidth 64 ∧
        word 0x2100 = m.wpair0 ∧ word 0x2108 = m.wpair1 ∧ word 0x2110 = m.wfmt ∧ word 0x2118 = m.status ∧
        ∀ j : Fin 128, half (0x2120 + 4 * j.val) = m.css[j] ∧ half (0x2320 + 4 * j.val) = m.csu[j] ∧ word (0x2520 + 8 * j.val) = m.rq[j]))

/-! ## Boundaries, dies and errors (R309–R316, R329–R338, R340) -/

/-- R309, R310, R312, R313, R315: at a step tick every boundary moves by its occupancy within ceiling and floor, and one that changes step opens
its retraining window; a boundary with too few live ports is declared dead, until routes that avoid it are installed; packets of a dead port
are sent again; a packet, or the answer to one, older than 64,000 ticks is dropped and counted; a die's reset clears its state and takes its incarnation number up;
with G-die 8's the management registers reset, and its map is the reset map again (R333); a device that leaves the domain has lost its links to the
others; another device that does is out of reach from then on, and a dead Zhevlink port is used no more (R316), what it held counting as hit (R314; whose
it held: log 9). The model's choices: how limits are
reached in one tick (log 47), a reset that lasts exactly 160,000 ticks (log 48), and which packets are dropped for their age (log 49). -/
def Obligations.Boundaries : Prop :=
  (∀ (s : State) (busy idle : BitVec 18), s.now % 160000 = 0 → s.stepAt ≠ s.now →
    ∃ t, exec (.stepTick busy idle) s = .next t ∧ { t with boundaries := s.boundaries, stepAt := s.stepAt } = s ∧ t.stepAt = s.now ∧
      ∀ b < 18, let x := s.boundary b
        let top := min 5 x.ceil.toNat
        let want := if busy.getLsbD b then x.step.toNat + 1 else if idle.getLsbD b then x.step.toNat - 1 else x.step.toNat
        let n := if top < x.floor.toNat then top else max x.floor.toNat (min top want)
        (n = x.step.toNat → t.boundary b = x) ∧
        (n ≠ x.step.toNat → (t.boundary b).step.toNat = n ∧ (t.boundary b).retrain = some (s.now + 2400) ∧
          { t.boundary b with step := x.step, retrain := x.retrain } = x)) ∧
  (∀ (s : State) (b : Nat), b < 18 →
    let x := s.boundary b
    exec (.retrainEnd b) s = .next (s.setBoundary b { x with retrain := none }) ∧
    (x.dead = true → exec (.escapeRouteInstall b) s = .next (s.setBoundary b { x with escape := true })) ∧
    exec (.nackResend b) s =
      .next { s with packets := s.packets.map fun p => if p.nacked = some b then { p with nacked := none, sent := s.now } else p } ∧
    (x.live ≠ 0 → ∃ t, exec (.portDead b) s = .next t ∧ SameMemory s t ∧ t.packets.length = s.packets.length ∧
      (t.boundary b).live = x.live - 1 ∧ (t.boundary b).step = x.step ∧
      (t.boundary b).dead = (x.dead || decide ((x.live - 1).toNat < if b < 10 then 16 else 8)) ∧
      (∀ (n : Nat) (p q : Packet), s.packets[n]? = some p → t.packets[n]? = some q →
        q = p ∨ q = { p with nacked := some b } ∧ p.state = .flying ∧ p.nacked = none ∧ routeCrosses b (dieOf p.core) (dieOf p.target) = true) ∧
      ∀ c k, (c, k) ∈ s.cores → k.run.resident = true → k.run.snapArm = true → k.run.snapEvent = 0x21 ∨ k.run.snapEvent = 0x22 →
        s.snapHeld = false → s.snapPending = none → t.snapPending = some (s.now, 3))) ∧
  (∀ (s : State) (d : Nat) (p : Packet) (rest : List Packet), s.packets = p :: rest → p.nacked = none → p.sent + 64000 < s.now →
    (p.state = .flying ∧ dieOf p.target = d) ∨ (p.state ≠ .flying ∧ dieOf p.core = d ∧ (s.core p.core).run.of p.launch = true) → ∃ t, exec (.packetAgeDrop d) s = .next t ∧ SameMemory s t ∧ t.packets = rest ∧
      (t.die d).aged.toNat = min (2 ^ 24 - 1) ((s.die d).aged.toNat + 1) ∧ t.cores = s.cores) ∧
  (∀ (s : State) (d : Nat), d < 12 → ∃ t, exec (.dieReset d) s = .next t ∧ ((∀ p ∈ s.pubs, p.lagG = 0) → t.home = s.home) ∧
    t.loads = s.loads.filter (fun l => !(dieOf l.core == d && l.inc8 == (s.die d).inc + 1)) ∧
    t.die d = { Die.reset with inc := (s.die d).inc + 1, resetEnd := s.now + 160000 } ∧ (t.die d).rects.length = 32 ∧
    (∀ e, e ≠ d → t.die e = s.die e) ∧
    (∀ c, dieOf c = d → d < 8 → t.core c = { Core.reset with cyc := BitVec.ofNat 64 (s.now + 160000) }) ∧ (8 ≤ d → t.cores = s.cores ∧ t.clusters = s.clusters) ∧
    (d = 8 → t.boundaries = State.reset.boundaries ∧ t.reservations = State.reset.reservations ∧ t.qdesc = [] ∧ t.ras = [] ∧ t.invDone = State.reset.invDone)) ∧
  (∀ s : State, exec .domainTimeLoss s = .next { s with domainLost := true }) ∧
  (∀ (s : State) (d : Nat) (l : SharedLoad), (∀ p ∈ s.packets, p.boundFor = d → s.agedPacket p = false) → dieOf l.core = d → s.loads.head? = some l →
    l.aged s.now = true → ∃ t, exec (.packetAgeDrop d) s = .next t ∧ SameMemory s t ∧ t.loads = s.loads.tail ∧
      (t.die d).aged.toNat = min (2 ^ 24 - 1) ((s.die d).aged.toNat + 1) ∧ t.cores = s.cores) ∧
  (∀ (s : State) (p : Fin 16), (∀ n l, s.launch? n = some l → l.id = n) →
    ∃ t, s.act (.zhevDead p) = .next t ∧ { t with zhevDead := s.zhevDead, launches := s.launches } = s ∧
      (∀ n : Fin 16, t.zhevDead.getLsbD n.val = (s.zhevDead.getLsbD n.val || n == p)) ∧
      ∀ n l, s.launch? n = some l → ∃ m, t.launch? n = some m ∧ { m with hit := l.hit } = l ∧ (l.hit = true → m.hit = true) ∧
        (m.hit = true → l.hit = true ∨ (l.admitted = true ∧ l.demoted = false ∧ (l.state = .running ∨ l.state = .loading ∨ l.state = .preempted)))) ∧
  (∀ (s : State) (d : Nat), ∃ t, s.act (.deviceGone d) = .next t ∧ d ∈ t.goneDevices ∧ (∀ e ∈ s.goneDevices, e ∈ t.goneDevices) ∧
    { t with goneDevices := s.goneDevices } = s)

/-- R329, R330, R332–R334: an error is logged with its kind, unit and place; what memory can not correct poisons its line; a consumed error resets
its containment rectangle: its cores are out of reset, the launches with a context resident there are to end, and the rectangle is fenced
until its reset is over, the answers to what its cores have sent being dropped; and it is event 0x20 (R336). The launch hit ends with a status no better than FAULT. A map that covers each core once comes into force. A read that
meets a poisoned line is logged with the kind of its reason (R331), and the scrubber has to read a bad line within its interval (R332). The unit and
the place of the reset's own entry are the model's choice (log 99), and so is the clipping of a map's rectangle to its die (log 89). -/
def Obligations.ErrorsAndContainment : Prop :=
  let entry (s : State) (kind : BitVec 8) (unit : BitVec 12) (place : BitVec 44) : BitVec 128 := BitVec.ofNat 64 s.now ++ kind ++ unit ++ place
  let logged (s t : State) (kind : BitVec 8) (unit : BitVec 12) (place : BitVec 44) : Prop :=
    t.ras = (s.ras ++ [entry s kind unit place]).drop (if s.ras.length < 4096 then 0 else 1)
  let onlyLog (s t : State) : Prop := { t with ras := s.ras, rasOverflow := s.rasOverflow } = s
  let marks (s t : State) (pa : Nat) (tag : Bool) : Prop :=
    { t with ras := s.ras, rasOverflow := s.rasOverflow, poison := s.poison, tagged := s.tagged, latent := s.latent } = s ∧
    homeKey pa / 64 * 64 ∈ t.poison ∧ (∀ l ∈ s.poison, l ∈ t.poison) ∧ (∀ l ∈ s.tagged, l ∈ t.tagged) ∧
    (tag = true → homeKey pa / 64 * 64 ∈ t.tagged) ∧ (tag = false → t.tagged = s.tagged)
  let poisons (s t : State) (pa : Nat) (tag : Bool) : Prop := marks s t pa tag ∧
    t.latent = s.latent.filter (fun (l, _) => l != homeKey pa / 64 * 64)
  let resets (s t : State) (c : Nat) (e : BitVec 128) : Prop :=
    let corner := coreAt (dieOf c) (s.rectAt c).2.row (s.rectAt c).2.col
    let inside (c' : Nat) : Bool := dieOf c' == dieOf c && (s.rectAt c).2.covers c'
    (∀ n k, (n, k) ∈ s.cores → k.run.resident = true → k.run.snapArm = true → k.run.snapEvent = 0x20 → s.snapHeld = false →
      s.snapPending = none → t.snapPending = some (s.now, 3)) ∧
    ((s.die (dieOf c)).resetting.any (fun (m, _) => m == (s.rectAt c).1) = false →
      [e, entry s 8 (BitVec.ofNat 12 corner) (opmPlace corner 0 0)] <:+ t.ras ∧
      (∀ e, dieOf e = dieOf c → (s.rectAt c).2.covers e = true →
        t.core e = { Core.reset with cyc := BitVec.ofNat 64 (s.die (dieOf c)).resetEnd }) ∧
      ((s.rectAt c).1, s.now) ∈ (t.die (dieOf c)).resetting ∧ ((∀ p ∈ s.pubs, p.lagG = 0) → t.home = s.home) ∧
      ∀ e n l, dieOf e = dieOf c → (s.rectAt c).2.covers e = true → (s.core e).run.of n = true → s.launch? n = some l →
        ∃ m, t.launch? n = some m ∧ m.doomed = true) ∧
    ((s.die (dieOf c)).resetting.any (fun (m, _) => m == (s.rectAt c).1) = false → t.packets =
      (s.packets.filter fun p => !inside p.core || p.state == .flying).map fun p => if inside p.core then { p with lost := true } else p)
  (∀ (s : State) (c : Nat) (a : BitVec 44),
    (∃ t, exec (.correctedError (.local_ c a)) s = .next t ∧ onlyLog s t ∧ logged s t 1 (BitVec.ofNat 12 c) a) ∧
    (∃ t, exec (.latentError (.local_ c a)) s = .next t ∧ onlyLog s t ∧ logged s t 3 (BitVec.ofNat 12 c) a) ∧
    ∃ t, exec (.consumedError (.local_ c a)) s = .next t ∧ resets s t (errorCore c a) (entry s 5 (BitVec.ofNat 12 c) a)) ∧
  (∀ (s : State) (pa c : Nat) (tag : Bool),
    (∃ t, exec (.correctedError (.mem pa c tag)) s = .next t ∧ onlyLog s t ∧ logged s t 2 (memUnit pa) (memPlace pa)) ∧
    (∃ t, exec (.latentError (.mem pa c tag)) s = .next t ∧ poisons s t pa tag ∧ logged s t (if tag then 6 else 4) (memUnit pa) (memPlace pa)) ∧
    (∃ t, exec (.consumedError (.mem pa c tag)) s = .next t ∧
      resets s t c (entry s (if tag then 6 else 5) (memUnit pa) (memPlace pa))) ∧
    exec (.scrubLine pa .good) s = .next s ∧
    (∃ t, exec (.scrubLine pa .corrected) s = .next t ∧ onlyLog s t ∧ logged s t 2 (memUnit pa) (memPlace pa)) ∧
    (∃ t, exec (.scrubLine pa .uncorrectable) s = .next t ∧ poisons s t pa false ∧ logged s t 4 (memUnit pa) (memPlace pa)) ∧
    ∃ t, exec (.scrubLine pa .tagFail) s = .next t ∧ poisons s t pa true ∧ logged s t 6 (memUnit pa) (memPlace pa)) ∧
  (∀ (s : State) (pa c : Nat) (tag : Bool),
    (∃ t, s.act (.memFault pa tag) = .next t ∧ marks s t pa tag ∧ (homeKey pa / 64 * 64, s.now) ∈ t.latent ∧ t.ras = s.ras) ∧
    (∀ k, (homeKey pa / 64 * 64, k) ∈ s.latent → k + s.scrubEvery ≤ s.now →
      ∃ b, (homeKey pa / 64 * 64, b) ∈ s.scrubDue ∧ (b = true ↔ homeKey pa / 64 * 64 ∈ s.tagged)) ∧
    ∃ t, s.act (.consume c pa) = .next t ∧
      resets s t c (entry s (if pa / 64 * 64 ∈ s.tagged then 6 else 5) (memUnit pa) (memPlace pa))) ∧
  (∀ (s : State) (n : Nat) (l : Launch), s.launch? n = some l → l.doomed = true → l.state ≠ .ended → l.state ≠ .finished →
    ∃ t m, exec (.containmentLaunchFault n) s = .next t ∧ t.home = s.home ∧ t.launch? n = some m ∧ m.state = .ended ∧ 2 ≤ m.status ∧
      m.record = l.record ∧ ∀ c, (t.core c).run.of n = false ∧ (t.core c).shadow.of n = false) ∧
  (∀ (s : State) (d r : Nat), d < 8 → exec (.containmentEnd d r) s =
    .next (s.setDie d { s.die d with resetting := (s.die d).resetting.filter fun (n, _) => n != r })) ∧
  (∀ (s : State) (d : Nat) (l : List W64), d < 8 → s.cmapStage.find? d = some l → l.length = 32 →
    ((∀ c < 256, (l.filter fun w => (rectOf w).covers c).length = 1) → exec (.mapCommit d) s = .next (s.setDie d { s.die d with cmap := l })) ∧
    ((∃ c < 256, (l.filter fun w => (rectOf w).covers c).length ≠ 1) → exec (.mapCommit d) s = .next s))

/-- R336, R338, R340: an edge of SNAP_IN triggers a snapshot, or is counted while one is held or about to be; 64 ticks after the trigger the
snapshot registers latch the state, and every resident context finds `snapctl.fired` set; a release drops the snapshot, after
which `snapSrc` reads 0 (the model's choice, log 50); a thermal warning is logged, and the limit powers the module off. -/
def Obligations.SnapshotsAndPower : Prop :=
  (∀ s : State, ∃ t, exec .snapinEdge s = .next t ∧ { t with snapPending := s.snapPending, snapMissed := s.snapMissed } = s ∧
    (s.snapHeld = false → s.snapPending = none → t.snapPending = some (s.now, 2) ∧ t.snapMissed = s.snapMissed) ∧
    (s.snapHeld = true ∨ s.snapPending ≠ none → t.snapPending = s.snapPending ∧
      t.snapMissed.toNat = min 0xFFFF (s.snapMissed.toNat + 1))) ∧
  (∀ (s : State) (a : Nat) (src : BitVec 4), s.snapPending = some (a, src) →
    (s.now < a + 64 → exec .snapshotLatch s = .next s) ∧
    (a + 64 ≤ s.now → ∃ t i, exec .snapshotLatch s = .next t ∧ SameMemory s t ∧ t.snapPending = none ∧ t.snapHeld = true ∧ t.snapSrc = src ∧
      t.snapImage = some i ∧ i.tick = s.now ∧ i.cores = s.cores ∧ i.clusters = s.clusters ∧ i.dies = s.dies ∧ i.boundaries = s.boundaries ∧
      ∀ c, (s.core c).run.resident = true → (t.core c).run = { (s.core c).run with snapFired := true })) ∧
  (∀ s : State, exec .snapshotRelease s = .next { s with snapHeld := false, snapSrc := 0, snapImage := none } ∧
    exec .thermalPoweroff s = .next { s with off := true } ∧
    ∃ t place, exec .thermalWarning s = .next t ∧ { t with ras := s.ras, rasOverflow := s.rasOverflow } = s ∧
      t.ras = (s.ras ++ [BitVec.ofNat 64 s.now ++ (8 : BitVec 8) ++ (0xFFF : BitVec 12) ++ (place : BitVec 44)]).drop
        (if s.ras.length < 4096 then 0 else 1))

/-! ## Management and boot (R341–R348) -/

/-- The oldest request `q` has its record `r` read, of the given operation; its reply address may be written, and it holds the right it needs. -/
structure Served (s : State) (q : Request) (rest : List Request) (r : BitVec 512) (op : Nat) : Prop where
  first : s.requests = q :: rest
  read : q.record = some r
  op : reqOp r = op
  reach : ∃ e, s.reach q.ctxid .copyWrite (s.replyAt q r) = .entry e
  aligned : (s.replyAt q r).toNat % 16 = 0
  right : s.permitted q r = true

/-- From `u`, the state with the request's effect, the reply is published as an engine publication of device class of the management complex, a
message with the reply address is held for a core's context until that has been applied (R157), and the request is done. -/
def Replies (u t : State) (q : Request) (r : BitVec 512) (status : BitVec 8) (value : W64) : Prop :=
  ∀ rs, u.mgmtRecords q.ctxid (u.replyAt q r) (leBytes (value ++ r.extractLsb' 32 32 ++ (0 : BitVec 24) ++ status) 16) = some rs →
    ∃ p, t.pubs = u.pubs ++ [p] ∧ p.records = rs ∧ p.engine = true ∧ p.sys = false ∧ p.source = 2304 ∧ t.requests = u.requests.drop 1 ∧
      (q.host = true → t.packets = u.packets) ∧
      (q.host = false → ∃ m, t.packets = u.packets ++ [m] ∧ m.msg = true ∧ m.target = q.core ∧ m.launch = q.launch ∧ m.val = u.replyAt q r ∧
        p.id = u.ids ∧ m.state = .held u.ids) ∧
      { t with ids := u.ids, pubs := u.pubs, requests := u.requests, packets := u.packets, seq := u.seq } = u

/-- R299, R310, R318, R319, R330, R333, R338, R345, R348: each request of management has its effect and its reply; arguments that it does not take are
answered BADARG with no other effect, a reservation in use and a full group table BUSY, a request without its right DENIED. What is read of shared memory has caught up at its home first,
and a request whose argument lies on an absent page waits (R170). A record on a poisoned line is lost, and the error consumed for the core that sent it
(R333), or, of the host, by the device alone (log 94). The message of a reply is held until the reply is applied. The model's choices: the lowest free entry of the group table (log 51), RAS
copies the log oldest first (log 88). -/
def Obligations.ManagementRequests : Prop :=
  (∀ (s : State) (q : Request) (rest : List Request) (r : BitVec 512),
    let gives (i : Instr) (u : State) (status : BitVec 8) (value : W64) : Prop :=
      ∃ t, exec i s = .next t ∧ SameMemory s t ∧ Replies u t q r status value
    let settled (v : State) (i : Instr) (u : State) (status : BitVec 8) (value : W64) : Prop :=
      ∃ t, exec i s = .next t ∧ SameMemory v t ∧ ((∀ p ∈ s.pubs, p.lagG = 0) → SameMemory s t) ∧ Replies u t q r status value
    (Served s q rest r 2 →
      let n := (r.extractLsb' 128 8).toNat
      let w := r.extractLsb' 256 128
      (15 < n → gives .resv s 2 0) ∧
      (n ≤ 15 → s.rsvBusy n = true → gives .resv s 3 0) ∧
      (n ≤ 15 → s.rsvBusy n = false → (w.extractLsb' 96 32).toNat * 4 < (w.extractLsb' 64 32).toNat * 5 → gives .resv s 2 0) ∧
      (n ≤ 15 → s.rsvBusy n = false → (w.extractLsb' 64 32).toNat * 5 ≤ (w.extractLsb' 96 32).toNat * 4 → 1600 ≤ (w.extractLsb' 96 32).toNat →
        gives .resv (s.setRsv n ⟨w.extractLsb' 96 32, w.extractLsb' 64 32, w.extractLsb' 20 8, w.extractLsb' 0 20, 0, s.now⟩) 0 0)) ∧
    (Served s q rest r 3 → let v := s.mgmtSettle q.ctxid (r.extractLsb' 192 64) 256
      (s.mgmtAbsent q.ctxid .copyRead (r.extractLsb' 192 64) 256 = true → exec .cmap s = .next s) ∧
      (s.mgmtAbsent q.ctxid .copyRead (r.extractLsb' 192 64) 256 = false → ∀ l, v.mgmtWords q.ctxid (r.extractLsb' 192 64) 32 = some l →
      let d := (r.extractLsb' 128 8).toNat
      let whole : Prop := d < 8 ∧ ∀ c < 256, (l.filter fun w => (rectOf w).covers c).length = 1
      (whole → settled v .cmap (v.setDie d { v.die d with cmap := l.map (· &&& 0xFFFFF) }) 0 0) ∧ (¬ whole → settled v .cmap v 2 0))) ∧
    (Served s q rest r 4 →
      let count := r.extractLsb' 192 32
      let rank := r.extractLsb' 224 32
      (count = 0 ∨ 524288 < count.toNat ∨ count.toNat ≤ rank.toNat → gives .grpalloc s 2 0) ∧
      (0 < count.toNat → count.toNat ≤ 524288 → rank.toNat < count.toNat → let v := s.settleHomes fun _ => true
        (s.mgmtAbsent q.ctxid .copyRead (r.extractLsb' 128 64) (8 * count.toNat) = true → exec .grpalloc s = .next s) ∧
        (s.mgmtAbsent q.ctxid .copyRead (r.extractLsb' 128 64) (8 * count.toNat) = false → ∀ l, v.mgmtWords q.ctxid (r.extractLsb' 128 64) count.toNat = some l →
        ((∀ id < 4096, (s.groupAt id).v = true) → settled v .grpalloc v 3 0) ∧
        ∀ id, id < 4096 → (s.groupAt id).v = false → (∀ j < id, (s.groupAt j).v = true) → ∃ (g : Group) (value : W64),
          settled v .grpalloc { v with groups := v.groups.put id g } 0 value ∧ g.v = true ∧ g.count = count ∧ g.rank = rank ∧ g.array = l ∧
            g.gen = (s.groupAt id).gen ∧ value.toNat = 16 * id + g.gen.toNat))) ∧
    (Served s q rest r 5 →
      let w := r.extractLsb' 128 16
      let id := (w.extractLsb' 4 12).toNat
      let g := s.groupAt id
      (g.v = false ∨ g.gen ≠ w.extractLsb' 0 4 → gives .grpfree s 2 0) ∧
      (g.v = true → g.gen = w.extractLsb' 0 4 →
        let v : State := { s with
          groups := s.groups.put id { g with v := false, gen := g.gen + 1, f := 0xFFFF, s := 0xFFFF }
          instances := s.instances.map fun i => if groupId i.grp = id then { i with current := false } else i }
        let gone (c : Chunk) : Bool := c.place != .sender && (v.group c.grp).gen != c.grp.extractLsb' 0 4 &&
          !(v.instances.any fun i => i.started && i.status.isNone && i.grp == c.grp && i.inst == c.inst)
        ∃ u, gives .grpfree u 0 0 ∧ { u with chunks := s.chunks, staleChunks := s.staleChunks } = v ∧
          u.chunks = s.chunks.filter (fun c => !gone c) ∧
          u.staleChunks.toNat = min 65535 (s.staleChunks.toNat + (s.chunks.filter gone).length))) ∧
    (Served s q rest r 6 → ∀ x, s.image q.core q.launch = some x →
      let n := r.extractLsb' 128 16
      (q.host = true ∨ n.toNat < x.spillSize.toNat → gives .spill s 2 0) ∧
      (q.host = false → x.spillSize.toNat ≤ n.toNat → ∃ u y, gives .spill u 0 0 ∧ u.image q.core q.launch = some y ∧
        y = { x with spillSize := n })) ∧
    (Served s q rest r 7 →
      let b := (r.extractLsb' 128 8).toNat
      let v := r.extractLsb' 192 64
      (17 < b → gives .bnd s 2 0) ∧
      (b ≤ 17 → gives .bnd (s.setBoundary b { s.boundary b with
        nack := (s.boundary b).nack &&& ~~~(v.extractLsb' 56 8), ceil := v.extractLsb' 4 3, floor := v.extractLsb' 0 3 }) 0 0)) ∧
    (Served s q rest r 10 → gives .status s 0 s.bootStat) ∧
    (s.requests = q :: rest → q.record = some r → (∃ e, s.reach q.ctxid .copyWrite (s.replyAt q r) = .entry e) →
      (s.replyAt q r).toNat % 16 = 0 → reqOp r = 0 ∨ 12 ≤ reqOp r → gives .requestBadarg s 2 0) ∧
    (s.requests = q :: rest → q.record = some r → (∃ e, s.reach q.ctxid .copyWrite (s.replyAt q r) = .entry e) →
      (s.replyAt q r).toNat % 16 = 0 → s.permitted q r = false →
      (reqOp r = 2 → gives .resv s 1 0) ∧ (reqOp r = 3 → gives .cmap s 1 0) ∧ (reqOp r = 4 → gives .grpalloc s 1 0) ∧
      (reqOp r = 5 → gives .grpfree s 1 0) ∧ (reqOp r = 7 → gives .bnd s 1 0) ∧ (reqOp r = 8 → gives .snapRequest s 1 0) ∧
      (reqOp r = 11 → gives .ras s 1 0) ∧ (reqOp r = 1 → gives .inval s 1 0))) ∧
  (∀ (s : State) (q : Request) (rest : List Request) (r : BitVec 512),
    let sends (i : Instr) (u : State) (va : W64) (bs : List Byte) (value : W64) : Prop :=
      (s.mgmtAbsent q.ctxid .copyWrite va bs.length = true → exec i s = .next s) ∧
      (s.mgmtAbsent q.ctxid .copyWrite va bs.length = false → ∀ rs, s.mgmtRecords q.ctxid va bs = some rs →
      ∃ t, exec i s = .next t ∧ SameMemory s t ∧
        ∃ p v, p.records = rs ∧ p.engine = true ∧ p.sys = false ∧ p.source = 2304 ∧ v.pubs = s.pubs ++ [p] ∧
          { v with ids := u.ids, pubs := u.pubs } = u ∧ Replies v t q r 0 value)
    (Served s q rest r 8 →
      let n := r.extractLsb' 192 32
      0 < n.toNat → n.toNat % 8 = 0 →
      let u : State := if r.extractLsb' 224 8 = 1 then { s with snapHeld := false, snapSrc := 0, snapImage := none } else s
      sends .snapRequest u (r.extractLsb' 128 64) ((List.range (n.toNat / 8)).flatMap fun j => leBytes (s.snapWord (8 * j)) 8) (n.setWidth 64)) ∧
    (Served s q rest r 9 →
      let body := leBytes (s.report (r.extractLsb' 128 256)) 416
      sends .attest s (r.extractLsb' 384 64)
        (body ++ leBytes (Config.ecdsaSign body).1 48 ++ leBytes (Config.ecdsaSign body).2 48) 0) ∧
    (Served s q rest r 11 → s.ras ≠ [] →
      sends .ras s (r.extractLsb' 128 64) (s.ras.flatMap fun e => leBytes e 16) (BitVec.ofNat 64 s.ras.length))) ∧
  (∀ (s : State) (q : Request) (rest : List Request) (r : BitVec 512), Served s q rest r 1 →
    (q.going = false → s.invDone = true → (r.extractLsb' 128 2 : BitVec 2) ≠ 3 → ∃ t, exec .inval s = .next t ∧ SameMemory s t ∧ t.invDone = false ∧
      t.invAsid = r.extractLsb' 192 12 ∧ t.invAddr.extractLsb' 16 32 = r.extractLsb' 144 32 ∧ t.invAddr.extractLsb' 0 2 = r.extractLsb' 128 2 ∧
      t.invAcks = List.range 256 ∧ t.requests = { q with going := true } :: rest) ∧
    (q.going = true → s.invDone = false → exec .inval s = .next s) ∧
    (q.going = true → s.invDone = true → ∃ t, exec .inval s = .next t ∧ Replies s t q r 0 s.invCtl)) ∧
  (∀ (s : State) (q : Request) (rest : List Request) (key : Nat), s.requests = q :: rest → s.fetchRecord q = .lost →
    s.mgmtLine q.ctxid q.va 64 = some key →
    ∀ i ∈ ([.inval, .resv, .cmap, .grpalloc, .grpfree, .spill, .bnd, .snapRequest, .attest, .status, .ras, .requestBadarg] : List Instr),
      (q.host = false → ∃ t, s.act (.consume q.core key) = .next t ∧ exec i s = .next { t with requests := rest }) ∧
      (q.host = true → ∃ t, exec i s = .next t ∧ t.requests = rest ∧ t.cores = s.cores ∧
        ∀ c k, (c, k) ∈ s.cores → k.run.resident = true → k.run.snapArm = true → k.run.snapEvent = 0x20 → s.snapHeld = false →
          s.snapPending = none → t.snapPending = some (s.now, 3))) ∧
  (∀ (s : State) (n id : Nat) (p : Packet), s.packets[n]? = some p → p.state = .held id →
    ((∃ q ∈ s.pubs, q.id = id ∧ q.applied = false) → s.sendReplies.packets[n]? = some p) ∧
    ((∀ q ∈ s.pubs, q.id = id → q.applied = true) →
      ∃ k, s.sendReplies.packets[n]? = some { p with state := .flying, sent := s.now, seq := k }))

/-- R4, R172, R310, R315, R319, R326, R338, R347: a write of a word of the management map has the effect that the word's rule gives it; words that are
read only, and offsets where nothing is listed, ignore it. The model's choices: `snapSrc` reads 0 after a release (log 50), and a write of INVADDR or of
the asid leaves a running request as it is (log 46). -/
def Obligations.ManagementMap : Prop :=
  ∀ (s : State) (v : W64),
    let puts (o : Nat) (t : State) : Prop := exec (.registerWrite o v) s = .next t
    puts 0 { s with invAddr := ((v.extractLsb' 16 32 ++ (0 : BitVec 14) ++ v.extractLsb' 0 2 : BitVec 48)).setWidth 64 } ∧
    (v.getLsbD 0 = false → puts 8 { s with invAsid := v.extractLsb' 16 12 }) ∧
    (v.getLsbD 0 = true → s.invDone = true → s.invAddr.extractLsb' 0 2 ≠ 3 →
      puts 8 { s with invAsid := v.extractLsb' 16 12, invDone := false, invAcks := List.range 256, invReq := (s.invAddr, v.extractLsb' 16 12) }) ∧
    (∀ b < 18, let x := s.boundary b
      puts (0x10000 + 8 * b) (s.setBoundary b { x with nack := x.nack &&& ~~~(v.extractLsb' 56 8), ceil := v.extractLsb' 4 3, floor := v.extractLsb' 0 3 })) ∧
    (∀ d < 12, let x := s.die d
      puts (0x20000 + 8 * d) (s.setDie d { x with aged := x.aged &&& ~~~(v.extractLsb' 32 24), stale := x.stale &&& ~~~(v.extractLsb' 8 24) })) ∧
    puts 0x30000 { s with spillCount := s.spillCount &&& ~~~(v.extractLsb' 32 32), staleChunks := s.staleChunks &&& ~~~(v.extractLsb' 0 16) } ∧
    (v.getLsbD 0 = true → puts 0x30008 { s with
      snapMissed := s.snapMissed &&& ~~~(v.extractLsb' 48 16), snapHeld := false, snapSrc := 0, snapImage := none }) ∧
    (∀ q < 65536, ∃ t, puts (0x70000 + 2 * q) t ∧ { t with rights := s.rights } = s ∧ t.rightsOf q = v.setWidth 16 ∧
      ∀ k, k ≠ q → t.rightsOf k = s.rightsOf k) ∧
    (∀ n < 16, s.rsvBusy n = false → ∀ h : Bool, let w : BitVec 128 := if h then v ++ (s.rsv n).word.setWidth 64 else (s.rsv n).word.extractLsb' 64 64 ++ v
      ((w.extractLsb' 64 32).toNat * 5 ≤ (w.extractLsb' 96 32).toNat * 4 → 1600 ≤ (w.extractLsb' 96 32).toNat →
        puts (0x40000 + 16 * n + if h then 8 else 0) (s.setRsv n ⟨w.extractLsb' 96 32, w.extractLsb' 64 32, w.extractLsb' 20 8, w.extractLsb' 0 20, 0, s.now⟩))) ∧
    (∀ q < 65536, ∀ j < 8, ∃ t, puts (0x1000000 + 64 * q + 8 * j) t ∧ { t with qdesc := s.qdesc } = s ∧
      (∀ k, k ≠ q → t.writtenDesc k = s.writtenDesc k) ∧
      wordAt (t.writtenDesc q) (8 * j) = v &&& wordAt (descMask (BitVec.allOnes 512)) (8 * j) ∧
      ∀ m < 8, m ≠ j → wordAt (t.writtenDesc q) (8 * m) = wordAt (descMask (s.writtenDesc q)) (8 * m)) ∧
    (∀ d < 8, ∃ t, puts (0x60000 + 8 * d) t ∧ { t with repOff := s.repOff } = s ∧ t.repOff[d]? = some (v.extractLsb' 30 11) ∧
      ∀ e, e ≠ d → t.repOff[e]? = s.repOff[e]?) ∧
    (∀ d < 8, ∀ j < 32, ∃ t, puts (0x50000 + 256 * d + 8 * j) t ∧ { t with cmapStage := s.cmapStage } = s ∧
      t.cmapStage.find? d = some ((s.cmapStage.get d (s.die d).mapWords).set j (v &&& 0xFFFFF))) ∧
    (∀ o, o % 8 ≠ 0 → (o % 2 ≠ 0 ∨ o < 0x70000 ∨ 0x90000 ≤ o) → puts o s) ∧
    (∀ id < 4096, ∃ t, puts (0x200000 + 64 * id) t ∧ { t with groups := s.groups } = s ∧ (t.groupAt id).count = v.extractLsb' 32 32 ∧
      (t.groupAt id).v = v.getLsbD 4 ∧ (t.groupAt id).gen = (s.groupAt id).gen ∧ ∀ k, k ≠ id → t.groupAt k = s.groupAt k) ∧
    (∀ o, o = 0x61000 ∨ (0x100000 ≤ o ∧ o < 0x110000) ∨ 0x10000000 ≤ o → puts o s)

/-- R341–R345: boot tries its sources in the order that BOOTSEL gives; the first whose images verify gives the boot status, the digests and the
security versions, and the fuse counter never goes down; each source that fails before it, or is not there, sets its bit; with none left the module
halts. The C-dies leave reset, and their cores' cycle counters count from there (R4, R106): the first time. -/
def Obligations.Boot : Prop :=
  let order (s : State) : List Nat := if s.bootSel then [3, 1, 2] else [1, 2, 3]
  let fails (s : State) (l : List Nat) : BitVec 3 := l.foldl (fun f n => f ||| BitVec.twoPow 3 (n - 1)) s.bootFail
  (∀ (s : State) (imgs : List BootImage) (bad more : List Nat) (i : BootImage), s.bootStage = 0 → s.bootHalted = false →
    order s = bad ++ i.source :: more → (∀ n ∈ bad, ∀ b ∈ imgs, b.source = n → s.imageOk b = false) →
    imgs.find? (fun b => b.source == i.source && s.imageOk b) = some i →
    ∃ t, exec (.boot imgs) s = .next t ∧ t.bootStage = 2 ∧ t.bootSrc = BitVec.ofNat 8 i.source ∧ t.bootHalted = false ∧
      t.bootFail = fails s bad ∧ t.released = true ∧
      t.digest1 = BitVec.ofNat 384 (fieldAt i.header1 112 48) ∧ t.svn1 = BitVec.ofNat 32 (fieldAt i.header1 8 4) ∧
      s.fuseCount ≤ t.fuseCount ∧ t.keyDigest = s.keyDigest ∧ t.serial = s.serial ∧ t.home = s.home ∧
      (s.released = true → t.cores = s.cores) ∧
      (s.released = false → ∀ c < 2048, t.core c = { s.core c with cyc := BitVec.ofNat 64 s.now })) ∧
  (∀ (s : State) (imgs : List BootImage), s.bootStage = 0 → s.bootHalted = false →
    (∀ b ∈ imgs, b.source = 1 ∨ b.source = 2 ∨ b.source = 3 → s.imageOk b = false) →
    exec (.boot imgs) s = .next { s with bootHalted := true, bootFail := fails s (order s) }) ∧
  (∀ (s : State) (l : List BootImage), s.bootStage ≠ 0 ∨ s.bootHalted = true → exec (.boot l) s = .next s)


/-! ## Decoding and the step -/

/-- R47, R53–R56: decoding the words of a well-formed instruction gives it back, with every operand, and its length. -/
def Obligations.DecodeEncode : Prop :=
  ∀ (i : Instr) (rest : List W32), i.wf = true → encode i ≠ [] → decode (encode i ++ rest) = .ok i (4 * (encode i).length)

/-- The words that the manual writes out for instructions of several families decode to them, and the words that it calls illegal are illegal for
the reason that it gives (R57). -/
def Obligations.DecodeWords : Prop :=
  decode [0x00000008] = .ok (.addi 0 0 0) 4 ∧
  decode [0x00000509, 0x00000000, 0x00000001] = .ok (.addiLit 5 0 0x100000000) 12 ∧
  decode [0x0225072C] = .ok (.div 7 8 9) 4 ∧
  decode [0x000C8588] = .ok (.beq 4 5 3) 4 ∧
  decode [0x00206544] = .ok (.ldw 5 3 8) 4 ∧
  decode [0x00206558] = .ok (.stw 5 3 8) 4 ∧
  decode [0x008007B0] = .ok (.pclr 7) 4 ∧
  decode [0x00206668] = .ok (.sld 6 3 8) 4 ∧
  decode [0x01080580] = .ok (.fence .dev 5) 4 ∧
  decode [0x048000B4] = .ok .snap 4 ∧
  decode [0x0B9CC5FE, 0x03208008, 0x00000041] = .ok (.cpy true false false false false 2 5 6 7 8 3 0x41) 12 ∧
  decode [0x1000C5FE, 0, 0] = .ok (.coll 5 6) 12 ∧
  decode [0x00000000] = .illegal 1 0 ∧
  decode [0x0000000A] = .illegal 2 0x0000000A ∧
  decode [0x000000B8] = .illegal 3 0x000000B8 ∧
  decode [0x0A000004] = .illegal 4 0x0A000004 ∧
  decode [0x00000021, 0, 0] = .illegal 6 0x00000021 ∧
  decode [0x000000FF, 0, 0, 0, 0] = .illegal 6 0x000000FF ∧
  decode [0x000000FA] = .illegal 5 0x000000FA ∧
  decode [0x01006320] = .illegal 7 0x01006320 ∧
  decode [0x004C03B4] = .illegal 8 0x004C03B4

/-- R57, R62, R68, R72, R88, R91, R96, R327: a step whose turn is a thread's issue runs the instruction that the words at its PC, or of an attached
follower the words at the front of its forward buffer, decode to: the state after `exec`, with the bookkeeping of an issue (`State.issued`) and the
passing of time (`State.settle`) added; an instruction that can not go on yet only lets time pass, and so does one that an engine has written in part. Before it the thread's last access
is made whole, and stores of 8 bytes under way to its words (R46, R91; log 85), a follower is at its leader's PC, and a block that the PC has left is compared. Words that are illegal, a PC outside the region, a mismatch and a notice
take their traps. The turn is an issue when it heads the agenda, or when nothing is due and it is the free choice among what may happen (the model's
choice of order: log entries 3 and 5; which thread takes a notice: log 75). -/
def Obligations.StepRunsDecoded : Prop :=
  (∀ (s : State) (c t : Nat), s.off = false →
    let after (f : State → State) (o : Out) (v : Out) : Prop := o = match v with
      | .next v => .next ((if v.waiting then v else f v).settle)
      | .fault e => .fault e
      | .refused r => .refused r
    let runs (o : Out) (u : State) (ws : List W32) (from_ : Option Fwd) : Prop :=
      (∀ k w0, decode ws = .illegal k w0 → after id o (exec (.illegalInstruction (BitVec.ofNat 8 k) w0) u)) ∧
      ∀ i n, decode ws = .ok i n → after (fun v => v.issued u i (ws.take (n / 4)) from_ (isHalt i)) o (exec i u)
    let turn (o : Out) (w : State) : Prop :=
      let w := w.focusOn c t
      w.mayIssue = true → w.th.stall = none →
      let u := w.beforeIssue
      ((u.th.sigBad ≠ none → u.ctx.inh = false → after id o (exec .signatureMismatch u)) ∧
      (u.th.sigBad = none ∨ u.ctx.inh = true →
        (u.ctx.notice ≠ 0 → u.ctx.inh = false → after id o (noticeTrap u)) ∧
        (u.ctx.notice = 0 ∨ u.ctx.inh = true →
          (u.follows = true → (u.ctx.nextFwd u.thr = none → after id o (wait u)) ∧
            ∀ f, u.ctx.nextFwd u.thr = some f → runs o u f.words (some f)) ∧
          (u.follows = false → u.ctx.region ≤ u.th.pc.toNat → after id o (exec .fetchBound u)) ∧
          (u.follows = false → u.th.pc.toNat < u.ctx.region →
            let ws := u.fetch u.focus u.ctx u.th
            (u.th.ibSeq.words = [] → u.th.ibTgt.words = [] → ws = u.codeWords u.focus u.ctx u.th.pc.toNat 5) ∧
            (u.fetchWaits u.focus u.ctx u.th = true → after id o (wait u)) ∧ (u.fetchWaits u.focus u.ctx u.th = false → runs o u ws none)))))
    (∀ rest, s.agenda = .issue c t :: rest → turn (step s) { s.deliver with agenda := rest }) ∧
    (s.agenda = [] → s.deliver.due = [] → pick (s.freeNat 0) s.deliver.choices = some (.issue c t) → turn (step s) s.deliver)) ∧
  (∀ w : State, w.th.half = none → w.follows = false →
    w.beforeIssue = (let w := w.landStores w.focus (w.ctx.origin + w.th.pc.toNat) 20; let w := w.setTh w.th; if w.ctx.checks then w.setTh w.th.sigLeave else w)) ∧
  (∀ (w : State) (c a n : Nat) (x : Ctx) (t : Thread),
    ((∀ a n, w.torn c x.launch a n = false) → w.fetchWaits c x t = false) ∧
    ((∀ k y m h, (k, y) ∈ w.cores → (y.run.thread m).half = some h → h.scratch = true ∨ h.unit ≠ c ∨ h.store = none) → w.landStores c a n = w)) ∧
  ∀ (w : State) (f : Fwd), w.th.half = none → w.ctx.nextFwd w.thr = some f → w.beforeIssue.th.pc = f.pc ∧ w.beforeIssue.home = w.home

/-- R340: the only stop of the machine is a module that has powered off: a step of it is a fault, and from every other state a step answers a
next state, whatever it runs. -/
def Obligations.GoesOnUntilPowerOff : Prop :=
  (∀ s : State, s.off = true → step s = .fault .poweredOff) ∧ ∀ s : State, s.off = false → ∃ t, step s = .next t

/-- R341, R343–R345: what boot and attestation rest on never changes: no step alters the digest of the key block in the fuses or the serial
number, and none lowers the fuse counter. -/
def Obligations.FusesKept : Prop :=
  ∀ (d : BitVec 384) (n : W64) (f : W32), Kept fun s => s.keyDigest = d ∧ s.serial = n ∧ f ≤ s.fuseCount

/-- Every step keeps home memory and management's walk store in their one canonical form (strictly rising addresses, no byte listed that an unlisted
address reads as), so that equal memories are equal data. The form is the model's (log entry 2). -/
def Obligations.MemoryCanonical : Prop := Kept fun s => Mem.wf s.home = true ∧ Mem.wf s.walkStore = true

/-- R63, R115, R122, R163, R172, R259, R295, R310, R315, R319, R332, R338, R344: the machine out of reset. The values are the manual's reset values; where
package time and the log begin and what memories read as is the model's choice (log entries 1 and 2). -/
def Obligations.ResetState : Prop :=
  State.reset.memOk = true ∧ State.reset.now = 0 ∧ State.reset.off = false ∧ State.reset.invDone = true ∧ State.reset.invAddr = 0 ∧
  State.reset.invCtl = 2 ∧ State.reset.bootStat = 0 ∧ State.reset.snapStat = 0 ∧ State.reset.ras = [] ∧ State.reset.launches = [] ∧
  (∀ b < 18, (State.reset.boundary b).live = (if b < 10 then 32 else 16) ∧ (State.reset.boundary b).ceil = 5 ∧ (State.reset.boundary b).floor = 0 ∧
    (State.reset.boundary b).dead = false ∧ (State.reset.boundary b).nack = 0) ∧
  (∀ id < 4096, (State.reset.groupAt id).v = false ∧ (State.reset.groupAt id).f = 0xFFFF ∧ (State.reset.groupAt id).s = 0xFFFF) ∧
  (∀ q < 65536, State.reset.queueDesc q = 64 <<< 48) ∧ (∀ n < 16, (State.reset.rsv n).word = 0) ∧
  (∀ c < 2048, (State.reset.core c).run.resident = false ∧ (State.reset.core c).shadow.resident = false ∧ (State.reset.core c).log = [] ∧
    (State.reset.core c).fe = 0) ∧
  (∀ k < 256, (State.reset.cluster k).rkPtr = 7 ∧ (State.reset.cluster k).locks = [] ∧ (State.reset.cluster k).view = []) ∧
  (∀ d < 12, (State.reset.die d).aged = 0 ∧ (State.reset.die d).stale = 0) ∧
  State.reset.scrubEvery = 24 * 3600 * 1600000000 ∧ State.reset.zhevDead = 0 ∧ State.reset.goneDevices = [] ∧
  State.reset.goneEndpoints = [] ∧ State.reset.released = false
end

