-- ==== Sys2Proof/Laws/Encoding.lean ====
section
/-!
SUPPORT. The small laws of the encoding: fields read back from the words that hold them, and what the decoder answers on
the words of each form.
-/

namespace Sys2Proof.Laws

open Sys2Proof

/-! ## Fields -/

theorem W0.unpack_pack (f : W0) : W0.unpack f.pack = f := by
  obtain ⟨fn, rb, ra, rd, maj, len⟩ := f
  simp only [W0.unpack, W0.pack, W0.mk.injEq]
  refine ⟨?_, ?_, ?_, ?_, ?_, ?_⟩ <;>
  · apply BitVec.eq_of_getLsbD_eq
    intro i hi
    simp only [BitVec.getLsbD_extractLsb', BitVec.getLsbD_append]
    simp only [hi, decide_true, Bool.true_and]
    repeat' split
    all_goals first | omega | (congr 1; omega)

theorem W1.unpack_pack (f : W1) : W1.unpack f.pack = f := by
  obtain ⟨imm8, fl, rm, ty, msk, rc⟩ := f
  simp only [W1.unpack, W1.pack, W1.mk.injEq]
  refine ⟨?_, ?_, ?_, ?_, ?_, ?_⟩ <;>
  · apply BitVec.eq_of_getLsbD_eq
    intro i hi
    simp only [BitVec.getLsbD_extractLsb', BitVec.getLsbD_append]
    simp only [hi, decide_true, Bool.true_and]
    repeat' split
    all_goals first | omega | (congr 1; omega)

theorem W0.pack_ne_zero (f : W0) (h : f.maj ≠ 0) : f.pack ≠ 0 := by
  intro e
  apply h
  have := congrArg W0.maj (W0.unpack_pack f)
  rw [e] at this
  rw [← this]
  decide

theorem litOf_split (lit : W64) : litOf (lit.extractLsb' 0 32) (lit.extractLsb' 32 32) = lit := by
  apply BitVec.eq_of_getLsbD_eq
  intro i hi
  simp only [litOf, BitVec.getLsbD_extractLsb', BitVec.getLsbD_append]
  split
  · simp [*]
  · have : i - 32 < 32 := by omega
    simp only [this, decide_true, Bool.true_and]
    congr 1; omega

theorem imm14_split (imm : BitVec 14) : imm.extractLsb' 5 9 ++ imm.extractLsb' 0 5 = imm := by
  apply BitVec.eq_of_getLsbD_eq
  intro i hi
  simp only [BitVec.getLsbD_extractLsb', BitVec.getLsbD_append]
  split
  · simp [*]
  · have : i - 5 < 9 := by omega
    simp only [this, decide_true, Bool.true_and]
    congr 1; omega

theorem off24_split (off : BitVec 24) :
    off.extractLsb' 15 9 ++ off.extractLsb' 10 5 ++ off.extractLsb' 5 5 ++ off.extractLsb' 0 5 = off := by
  apply BitVec.eq_of_getLsbD_eq
  intro i hi
  simp only [BitVec.getLsbD_extractLsb', BitVec.getLsbD_append]
  split
  · simp [*]
  · split
    · have : i - 5 < 5 := by omega
      simp only [this, decide_true, Bool.true_and]
      congr 1; omega
    · split
      · have : i - 5 - 5 < 5 := by omega
        simp only [this, decide_true, Bool.true_and]
        congr 1; omega
      · have : i - 5 - 5 - 5 < 9 := by omega
        simp only [this, decide_true, Bool.true_and]
        congr 1; omega

theorem vOk_vField (v : BitVec 4) : vOk (vField v) = true := by revert v; decide
theorem vField_low (v : BitVec 4) : (vField v).extractLsb' 0 4 = v := by revert v; decide
theorem mOk_mField (m : BitVec 3) : mOk (mField m) = true := by revert m; decide
theorem mField_low (m : BitVec 3) : (mField m).extractLsb' 0 3 = m := by revert m; decide
theorem Ty.ofBits_toBits (t : Ty) : Ty.ofBits t.toBits = some t := by cases t <;> rfl
theorem Rm.ofBits_toBits (r : Rm) : Rm.ofBits r.toBits = some r := by cases r <;> rfl

/-! ## The decoder on the words of each form -/

/-- A major with an encoding. -/
def majorOk (maj : BitVec 6) (x : Bool) : Bool := maj != 0 && !reservedMajor maj && ((0x3E ≤ maj.toNat) == x)

/-- The decoder on a first word with its fields known. -/
theorem decode_pack (f : W0) (rest : List W32) (i : Instr) (hm : majorOk f.maj (2 ≤ f.len.toNat) = true)
    (hl : wordsOf f.len = rest.length + 1) (h : decodeWith f rest = some (.ok i)) :
    decode (f.pack :: rest) = .ok i (4 * wordsOf f.len) := by
  simp only [majorOk, Bool.and_eq_true, bne_iff_ne, ne_eq, Bool.not_eq_true', beq_iff_eq] at hm
  obtain ⟨⟨hz, hr⟩, hx⟩ := hm
  have h0 : (f.pack == 0) = false := by simpa using W0.pack_ne_zero f hz
  simp only [decode, W0.unpack_pack, h0, hr, hx, h, hl, List.length_cons]
  simp

theorem decode_encA {maj : BitVec 6} {fn : BitVec 9} {rb ra rd : BitVec 5} {i : Instr}
    (hm : majorOk maj false = true) (h : decodeWith ⟨fn, rb, ra, rd, maj, 0⟩ [] = some (.ok i)) :
    decode (encA maj fn rb ra rd) = .ok i 4 :=
  decode_pack ⟨fn, rb, ra, rd, maj, 0⟩ [] i hm rfl h

theorem decode_encA_of {maj : BitVec 6} {fn : BitVec 9} {rb ra rd : BitVec 5} {i : Instr} {z : Bool} {j : Option Instr}
    (hm : majorOk maj false = true) (h : decodeWith ⟨fn, rb, ra, rd, maj, 0⟩ [] = some (checked z j)) (hz : z = true)
    (hj : j = some i) : decode (encA maj fn rb ra rd) = .ok i 4 :=
  decode_encA hm (by rw [h, hz, hj]; rfl)

theorem scope_high (sc : Scope) : ((sc.toBits.setWidth 5).extractLsb' 2 3 == 0) = true := by cases sc <;> decide
theorem scope_low (sc : Scope) : Scope.ofBits ((sc.toBits.setWidth 5).extractLsb' 0 2) = sc := by cases sc <;> decide
theorem scope_imm_high (sc : Scope) : ((sc.toBits.setWidth 14).extractLsb' 2 12 == 0) = true := by cases sc <;> decide
theorem scope_imm_low (sc : Scope) : Scope.ofBits ((sc.toBits.setWidth 14).extractLsb' 0 2) = sc := by
  cases sc <;> decide
theorem level_high (lv : Level) : ((lv.toBits.setWidth 5).extractLsb' 2 3 == 0) = true := by cases lv <;> decide
theorem level_low (lv : Level) : Level.ofBits ((lv.toBits.setWidth 5).extractLsb' 0 2) = some lv := by cases lv <;> decide
theorem csr_code (c : Csr) : Csr.ofBits c.toBits = some c := by cases c <;> decide

theorem decode_encALit {maj : BitVec 6} {fn : BitVec 9} {rb ra rd : BitVec 5} {lit : W64} {mk : W64 → Instr}
    (hm : majorOk maj false = true)
    (h : ∀ lo hi, decodeWith ⟨fn, rb, ra, rd, maj, 1⟩ [lo, hi] = some (.ok (mk (litOf lo hi)))) :
    decode (encALit maj fn rb ra rd lit) = .ok (mk lit) 12 := by
  have := decode_pack ⟨fn, rb, ra, rd, maj, 1⟩ [lit.extractLsb' 0 32, lit.extractLsb' 32 32] _ hm rfl (h _ _)
  rwa [litOf_split] at this

theorem decode_encB {maj : BitVec 6} {imm : BitVec 14} {ra rd : BitVec 5} {mk : BitVec 14 → Instr}
    (hm : majorOk maj false = true)
    (h : ∀ fn rb, decodeWith ⟨fn, rb, ra, rd, maj, 0⟩ [] = some (.ok (mk (fn ++ rb)))) :
    decode (encB maj imm ra rd) = .ok (mk imm) 4 := by
  have := decode_pack ⟨imm.extractLsb' 5 9, imm.extractLsb' 0 5, ra, rd, maj, 0⟩ [] _ hm rfl (h _ _)
  rwa [imm14_split] at this

theorem decode_encB_of {maj : BitVec 6} {imm : BitVec 14} {ra rd : BitVec 5} {i : Instr}
    (g : BitVec 14 → Option (Except Nat Instr)) (hm : majorOk maj false = true)
    (h : ∀ fn rb, decodeWith ⟨fn, rb, ra, rd, maj, 0⟩ [] = g (fn ++ rb)) (hg : g imm = some (.ok i)) :
    decode (encB maj imm ra rd) = .ok i 4 :=
  decode_pack ⟨imm.extractLsb' 5 9, imm.extractLsb' 0 5, ra, rd, maj, 0⟩ [] i hm rfl (by rw [h, imm14_split, hg])

theorem decode_encBLit {maj : BitVec 6} {ra rd : BitVec 5} {lit : W64} {mk : W64 → Instr}
    (hm : majorOk maj false = true)
    (h : ∀ lo hi, decodeWith ⟨0, 0, ra, rd, maj, 1⟩ [lo, hi] = some (.ok (mk (litOf lo hi)))) :
    decode (encBLit maj ra rd lit) = .ok (mk lit) 12 := by
  have := decode_pack ⟨0, 0, ra, rd, maj, 1⟩ [lit.extractLsb' 0 32, lit.extractLsb' 32 32] _ hm rfl (h _ _)
  rwa [litOf_split] at this

theorem decode_encJ {maj : BitVec 6} {off : BitVec 24} {mk : BitVec 24 → Instr} (hm : majorOk maj false = true)
    (h : ∀ a b c d, decodeWith ⟨a, b, c, d, maj, 0⟩ [] = some (.ok (mk (a ++ b ++ c ++ d)))) :
    decode (encJ maj off) = .ok (mk off) 4 := by
  have := decode_pack ⟨off.extractLsb' 15 9, off.extractLsb' 10 5, off.extractLsb' 5 5, off.extractLsb' 0 5, maj, 0⟩ [] _
    hm rfl (h _ _ _ _)
  rwa [off24_split] at this

/-- The group of form X by its major. -/
noncomputable def decodeX (maj : BitVec 6) (xop : Nat) (x : X) (l : Option W64) : Option (Except Nat Instr) :=
  if maj = 0x3E then decodeXv xop x l else decodeXe xop x l

theorem decode_encX {maj : BitVec 6} {xop : BitVec 9} {rb ra rd : BitVec 5} {imm8 : BitVec 8} {fl : BitVec 9}
    {rm : BitVec 3} {ty : BitVec 4} {msk : BitVec 3} {rc : BitVec 5} {imm32 : W32} {i : Instr}
    (hm : maj = 0x3E ∨ maj = 0x3F)
    (h : decodeX maj xop.toNat ⟨rb, ra, rd, imm8, fl, rm, ty, msk, rc, imm32⟩ none = some (.ok i)) :
    decode (encX maj xop rb ra rd imm8 fl rm ty msk rc imm32) = .ok i 12 := by
  refine decode_pack ⟨xop, rb, ra, rd, maj, 2⟩ [W1.pack ⟨imm8, fl, rm, ty, msk, rc⟩, imm32] i ?_ rfl ?_
  · obtain rfl | rfl := hm <;> rfl
  · obtain rfl | rfl := hm <;> rw [← h] <;>
      simp [decodeWith, decodeX, X.unpack, W1.unpack_pack]

theorem decode_encXLit {maj : BitVec 6} {xop : BitVec 9} {rb ra rd : BitVec 5} {imm8 : BitVec 8} {fl : BitVec 9}
    {rm : BitVec 3} {ty : BitVec 4} {msk : BitVec 3} {rc : BitVec 5} {imm32 : W32} {lit : W64} {i : Instr}
    (hm : maj = 0x3E ∨ maj = 0x3F)
    (h : decodeX maj xop.toNat ⟨rb, ra, rd, imm8, fl, rm, ty, msk, rc, imm32⟩ (some lit) = some (.ok i)) :
    decode (encXLit maj xop rb ra rd imm8 fl rm ty msk rc imm32 lit) = .ok i 20 := by
  refine decode_pack ⟨xop, rb, ra, rd, maj, 3⟩ [W1.pack ⟨imm8, fl, rm, ty, msk, rc⟩, imm32, lit.extractLsb' 0 32,
    lit.extractLsb' 32 32] i ?_ rfl ?_
  · obtain rfl | rfl := hm <;> rfl
  · obtain rfl | rfl := hm <;> rw [← h] <;>
      simp [decodeWith, decodeX, X.unpack, W1.unpack_pack, litOf_split]

/-! ## Form X -/

theorem row_plain {x : X} {z c : Bool} {i i' : Instr} (hz : z = true) (hc : c = true) (hi : i = i') :
    some (x.plain none z c i) = some (Except.ok i') := by simp [X.plain, checked, hz, hc, hi]

theorem row_both {x : X} {z c : Bool} {i i' : Instr} {il : W64 → Instr} (hz : z = true) (hc : c = true) (hi : i = i') :
    some (x.both none z c i il) = some (Except.ok i') := by simp [X.both, checked, hz, hc, hi]

theorem row_lit {x : X} {z c : Bool} {i i' : Instr} {il : W64 → Instr} {lit : W64} (hz : z = true) (h32 : x.imm32 = 0)
    (hc : c = true) (hi : il lit = i') : some (x.both (some lit) z c i il) = some (Except.ok i') := by
  simp [X.both, checked, hz, hc, hi, h32]

theorem flag_get (b : Bool) : (flag b 0).getLsbD 0 = b := by cases b <;> rfl
theorem flag_get1 (b c : Bool) : (flag b 0 ||| flag c 1).getLsbD 0 = b ∧ (flag b 0 ||| flag c 1).getLsbD 1 = c := by
  cases b <;> cases c <;> decide
theorem flag_only1 (b : Bool) : (flag b 1).getLsbD 1 = b := by cases b <;> rfl
theorem fl_none : ((0 : BitVec 9) &&& ~~~(0 : BitVec 9) == 0) = true := by decide
theorem flag_in (b : Bool) : (flag b 0 &&& ~~~(1 : BitVec 9) == 0) = true := by cases b <;> rfl
theorem flag1_in (b : Bool) : (flag b 1 &&& ~~~(2 : BitVec 9) == 0) = true := by cases b <;> rfl
theorem flag2_in (b c : Bool) : ((flag b 0 ||| flag c 1) &&& ~~~(3 : BitVec 9) == 0) = true := by
  cases b <;> cases c <;> rfl
theorem n1_get (n : BitVec 7) : (field n 0).extractLsb' 0 7 = n := by revert n; decide
theorem n1_in (n : BitVec 7) : (field n 0 &&& ~~~(127 : BitVec 9) == 0) = true := by revert n; decide
theorem p2_get (p : BitVec 2) : (field p 0).extractLsb' 0 2 = p := by revert p; decide
theorem p3_get (p : BitVec 3) : (field p 0).extractLsb' 0 3 = p := by revert p; decide

/-- FL of MMAI. -/
theorem mmai_fl (a b c d : Bool) : let f := flag a 0 ||| flag b 1 ||| flag c 2 ||| flag d 3
    f.getLsbD 0 = a ∧ f.getLsbD 1 = b ∧ f.getLsbD 2 = c ∧ f.getLsbD 3 = d ∧ (f &&& ~~~(15 : BitVec 9) == 0) = true := by
  revert a b c d; decide

/-- FL of MDRAIN. -/
theorem mdrain_fl (m : BitVec 3) (a b : Bool) (h : BitVec 3) :
    let f := field m 0 ||| flag a 3 ||| flag b 4 ||| field h 5
    f.extractLsb' 0 3 = m ∧ f.getLsbD 3 = a ∧ f.getLsbD 4 = b ∧ f.extractLsb' 5 3 = h ∧
      (f &&& ~~~(255 : BitVec 9) == 0) = true := by
  revert m a b h; decide

/-- FL of CPY. -/
theorem cpy_fl (a b c d e : Bool) (h : BitVec 3) :
    let f := flag a 0 ||| flag b 1 ||| flag c 2 ||| flag d 3 ||| flag e 4 ||| field h 5
    f.getLsbD 0 = a ∧ f.getLsbD 1 = b ∧ f.getLsbD 2 = c ∧ f.getLsbD 3 = d ∧ f.getLsbD 4 = e ∧ f.extractLsb' 5 3 = h ∧
      (f &&& ~~~(255 : BitVec 9) == 0) = true := by
  revert a b c d e h; decide

/-- FL of CPYM. -/
theorem cpym_fl (a b : Bool) (g : BitVec 2) (h : BitVec 3) :
    let f := flag a 0 ||| flag b 2 ||| field g 3 ||| field h 5
    f.getLsbD 0 = a ∧ f.getLsbD 2 = b ∧ f.extractLsb' 3 2 = g ∧ f.extractLsb' 5 3 = h ∧
      (f &&& ~~~(253 : BitVec 9) == 0) = true := by
  revert a b g h; decide

/-- FL of CPYCH. -/
theorem cpych_fl (a : Bool) (h : BitVec 3) : let f := flag a 0 ||| field h 5
    f.getLsbD 0 = a ∧ f.extractLsb' 5 3 = h ∧ (f &&& ~~~(225 : BitVec 9) == 0) = true := by
  revert a h; decide

/-! ## Types -/

theorem rm_known (r : Rm) : decide (r.toBits.toNat ≤ 4) = true := by cases r <;> rfl
theorem ty_plain {t : Ty} (h : t.isPlain = true) : [0, 1, 2, 3, 4, 5, 6, 7, 8, 9].contains t.toBits.toNat = true := by
  revert h; cases t <;> decide
theorem ty_word {t : Ty} (h : t.isWord = true) : [0, 5, 6].contains t.toBits.toNat = true := by revert h; cases t <;> decide
theorem ty_int {t : Ty} (h : t.isInt = true) : [5, 6, 7, 8, 9].contains t.toBits.toNat = true := by
  revert h; cases t <;> decide
theorem ty_signed {t : Ty} (h : t.isSigned = true) : [5, 7, 8].contains t.toBits.toNat = true := by
  revert h; cases t <;> decide
theorem ty_neg {t : Ty} (h : (t.isFloat || t.isSigned) = true) :
    [0, 1, 2, 3, 4, 5, 7, 8].contains t.toBits.toNat = true := by revert h; cases t <;> decide
theorem ty_iota {t : Ty} (h : (t == .i32 || t == .u32) = true) : [5, 6].contains t.toBits.toNat = true := by
  revert h; cases t <;> decide
theorem ty_block {t : Ty} (h : t.isBlock = true) : [10, 11, 12].contains t.toBits.toNat = true := by
  revert h; cases t <;> decide
theorem ty_weight {t : Ty} (h : t.isWeight = true) : [1, 2, 3, 4, 8, 9, 10].contains t.toBits.toNat = true := by
  revert h; cases t <;> decide
theorem ty_activation {t : Ty} (h : t.isActivation = true) : [1, 2, 3, 4, 8, 9].contains t.toBits.toNat = true := by
  revert h; cases t <;> decide
theorem ty_narrow {t : Ty} (h : t.isNarrowFloat = true) : [1, 2, 3, 4].contains t.toBits.toNat = true := by
  revert h; cases t <;> decide
theorem ty_key {t : Ty} (h : t.isKey = true) : [0, 1, 5].contains t.toBits.toNat = true := by revert h; cases t <;> decide
theorem ty_rkval {t : Ty} (h : (t == .f32 || t == .bf16) = true) : [0, 1].contains t.toBits.toNat = true := by
  revert h; cases t <;> decide
theorem rm_float {t : Ty} {r : Rm} (hp : t.isPlain = true) (h : rmOk t r = true) :
    (!(decide (5 ≤ t.toBits.toNat) && decide (t.toBits.toNat ≤ 9)) || r.toBits == 0) = true := by
  revert hp h; cases t <;> cases r <;> decide
theorem rm_word {t : Ty} {r : Rm} (hp : t.isWord = true) (h : rmOk t r = true) :
    (!(decide (5 ≤ t.toBits.toNat) && decide (t.toBits.toNat ≤ 9)) || r.toBits == 0) = true := by
  revert hp h; cases t <;> cases r <;> decide
theorem rm_quant {t : Ty} {r : Rm} (h : (t != .nq4 || r == .dyn) = true) :
    (!(t.toBits == 10) || r.toBits == 0) = true := by
  revert h; cases t <;> cases r <;> decide
theorem sat_in {t : Ty} {s : Bool} (hp : t.isPlain = true) (h : satOk t s = true) :
    (flag s 0 &&& ~~~(if 5 ≤ t.toBits.toNat && t.toBits.toNat ≤ 9 then 1 else 0 : BitVec 9) == 0) = true := by
  revert hp h; cases t <;> cases s <;> decide
theorem sat_neg {t : Ty} {s : Bool} (hp : (t.isFloat || t.isSigned) = true) (h : satOk t s = true) :
    (flag s 0 &&& ~~~(if 5 ≤ t.toBits.toNat && t.toBits.toNat ≤ 9 then 1 else 0 : BitVec 9) == 0) = true := by
  revert hp h; cases t <;> cases s <;> decide
theorem block_in {t : Ty} {p : BitVec 3} (hb : t.isBlock = true) (h : blockOk t p = true) :
    (field p 0 &&& ~~~(if t.toBits == 11 || t.toBits == 12 then 3 else 7 : BitVec 9) == 0) = true := by
  revert hb h; cases t <;> revert p <;> decide
theorem vec_ok {v : Bool} {r : SReg} (h : vecOk v r = true) : (!v || vOk r) = true := h
theorem src_low (t : Ty) : (t.toBits.setWidth 8).extractLsb' 0 4 = t.toBits := by cases t <;> rfl
theorem src_high (t : Ty) : ((t.toBits.setWidth 8).extractLsb' 4 4 == 0) = true := by cases t <;> rfl
theorem ty_nine {t : Ty} (h : t.isPlain = true) : decide (t.toBits.toNat ≤ 9) = true := by revert h; cases t <;> decide
theorem rm_dyn {b : Bool} {r : Rm} (h : (!b || r == .dyn) = true) : (!b || r.toBits == 0) = true := by
  revert h; cases b <;> cases r <;> decide
theorem rm_zero {r : Rm} (h : (r == .dyn) = true) : (r.toBits == 0) = true := by revert h; cases r <;> decide
/-- The checks of VCVT that join its two types (R217). -/
theorem cvt_known {x : X} {d s : Ty} (hd : d.isPlain = true) (hs : s.isPlain = true) (h1 : x.tyc = d.toBits)
    (h2 : x.imm8 = s.toBits.setWidth 8) : x.cvtKnown = true ∧ x.srcKnown = true ∧ x.ty = d ∧ x.src = s := by
  simp only [X.cvtKnown, X.srcKnown, X.ty, X.src, h1, h2, src_low, ty_nine hd, ty_nine hs, Ty.ofBits_toBits,
    Option.getD_some, Bool.and_self, and_self]

theorem cvt_rm {x : X} {d s : Ty} {r : Rm} (hd : d.isPlain = true) (hs : s.isPlain = true) (h1 : x.tyc = d.toBits)
    (h2 : x.imm8 = s.toBits.setWidth 8) (h3 : x.rmc = r.toBits) (h : (!cvtExact d s || r == .dyn) = true) :
    x.rmCvt = true := by
  obtain ⟨hk, -, ht, hu⟩ := cvt_known hd hs h1 h2
  simp only [X.rmCvt, hk, ht, hu, h3, Bool.true_and]
  exact rm_dyn h

theorem cvt_fl {x : X} {d s : Ty} {p : BitVec 2} (hd : d.isPlain = true) (hs : s.isPlain = true) (h1 : x.tyc = d.toBits)
    (h2 : x.imm8 = s.toBits.setWidth 8) (h3 : x.fl = field p 0)
    (h : (p.setWidth 9 &&& ~~~cvtPMask d s == 0) = true) : x.flIn x.cvtMask = true := by
  obtain ⟨hk, -, ht, hu⟩ := cvt_known hd hs h1 h2
  simp only [X.flIn, X.cvtMask, hk, ht, hu, h3, if_true]
  simpa [field] using h

theorem vec_flag {v : Bool} {r : SReg} (h : vecOk v r = true) : (!(flag v 0).getLsbD 0 || vOk r) = true := by
  rw [flag_get]; exact h

theorem vec_mmai {v a b c : Bool} {r : SReg} (h : vecOk v r = true) :
    (!(flag v 0 ||| flag a 1 ||| flag b 2 ||| flag c 3).getLsbD 0 || vOk r) = true := by
  rw [(mmai_fl v a b c).1]; exact h

theorem vec_rank {v m : Bool} {r : SReg} (h : vecOk v r = true) :
    (!(flag v 0 ||| flag m 1).getLsbD 0 || vOk r) = true := by
  rw [(flag_get1 v m).1]; exact h

theorem rsm_mmai {v a b c : Bool} {r : SReg} (h : (c || r == 0) = true) :
    ((flag v 0 ||| flag a 1 ||| flag b 2 ||| flag c 3).getLsbD 3 || r == 0) = true := by
  rw [(mmai_fl v a b c).2.2.2.1]; exact h

theorem dflt_flag {v : Bool} {r : SReg} (h : (!v || r == 0) = true) : (!(flag v 0).getLsbD 0 || r == 0) = true := by
  rw [flag_get]; exact h

theorem sup_zero {t : Ty} {sup : W32} (h : (t == .nq4 || sup == 0) = true) : (t.toBits == 10 || sup == 0) = true := by
  revert h; cases t <;> exact id


end Sys2Proof.Laws
end

