-- ==== Sys2Proof/Laws/Fabric.lean ====
section
/-!
SUPPORT. What is certain of the boundaries, whichever number joins which two dies (log 9): the 18 numbers stand for the 18 pairs of the layout,
each for one.
-/

namespace Sys2Proof.Machine

open Sys2Proof

/-- A whole list in a chosen order holds what the list holds. -/
theorem arranged_perm {α : Type} (f : Nat → Nat) : ∀ (n : Nat) (l : List α), n = l.length → (arranged f n l).Perm l
  | 0, [], _ => List.Perm.refl _
  | n + 1, a :: l, h => by
    have k : f n % (a :: l).length < (a :: l).length := Nat.mod_lt _ (by simp)
    have e : (a :: l)[f n % (a :: l).length]? = some ((a :: l)[f n % (a :: l).length]) := List.getElem?_eq_getElem k
    have r := arranged_perm f n ((a :: l).eraseIdx (f n % (a :: l).length)) (by rw [List.length_eraseIdx_of_lt k]; simp at h ⊢; exact h)
    unfold arranged
    rw [e]
    exact (r.cons _).trans (List.getElem_cons_eraseIdx_perm k)

theorem boundaryEnds_perm : boundaryEnds.Perm (cEdges ++ gEdges) :=
  (arranged_perm _ 10 cEdges rfl).append (arranged_perm _ 8 gEdges rfl)

theorem boundaryEnds_length : boundaryEnds.length = 18 := boundaryEnds_perm.length_eq

/-- Neighbours have a boundary. -/
theorem boundary_of_edge {e : Nat × Nat} (h : e ∈ cEdges ++ gEdges) : ∃ n < 18, boundaryEnds[n]? = some e := by
  obtain ⟨n, k, q⟩ := List.getElem_of_mem (boundaryEnds_perm.mem_iff.mpr h)
  exact ⟨n, boundaryEnds_length ▸ k, by rw [List.getElem?_eq_getElem k, q]⟩

/-- With every boundary dead no route leads from one die to another (R313). -/
theorem cutOff_of_all_dead (s : State) (a b : Nat) (h : a ≠ b) (ha : a < 12)
    (k : ∀ n < 18, ∃ x, (n, x) ∈ s.boundaries ∧ x.dead = true) : s.cutOff a b = true := by
  have dead (n : Nat) (hn : n < 18) : n ∈ (s.boundaries.filter fun (_, x) => x.dead).map (·.1) := by
    obtain ⟨x, m, d⟩ := k n hn
    exact List.mem_map.mpr ⟨(n, x), List.mem_filter.mpr ⟨m, d⟩, rfl⟩
  have none : (boundaryEnds.zipIdx.filter fun (_, n) => !((s.boundaries.filter fun (_, x) => x.dead).map (·.1)).contains n) = [] := by
    refine List.filter_eq_nil_iff.mpr fun p hp => ?_
    have q : p.2 < 18 := by
      have := (List.mem_zipIdx hp).2.1
      simpa [boundaryEnds_length] using this
    simp only [Bool.not_eq_true, Bool.not_eq_false']
    exact List.contains_iff_mem.mpr (dead p.2 q)
  have stays : ∀ n, reached [] n [a] = [a] := by
    intro n
    induction n with
    | zero => rfl
    | succ n ih =>
      have e : (List.range 12).filter (fun d => [a].contains d || [a].any fun c => ([] : List (Nat × Nat)).any fun e => joins e c d) = [a] := by
        interval_cases a <;> decide
      unfold reached
      rw [e, ih]
  unfold State.cutOff
  dsimp only
  rw [none, List.map_nil, stays]
  have ne : ((s.boundaries.filter fun (_, x) => x.dead).map (·.1)).isEmpty = false := by
    cases q : (s.boundaries.filter fun (_, x) => x.dead).map (·.1) with
    | nil => exact absurd (dead 0 (by decide)) (by rw [q]; simp)
    | cons _ _ => rfl
  simp [ne, h, Ne.symm h]

/-- Packets between neighbours wait while every boundary does (R309). -/
theorem routeHeld_of_all_held (s : State) (a b : Nat) (e : (a, b) ∈ cEdges ++ gEdges) (h : a ≠ b)
    (k : ∀ n < 18, ∃ x, (n, x) ∈ s.boundaries ∧ (x.retrain.isSome || (x.dead && !x.escape)) = true) : s.routeHeld a b = true := by
  obtain ⟨n, hn, q⟩ := boundary_of_edge e
  obtain ⟨x, m, d⟩ := k n hn
  have near : ((cEdges ++ gEdges).any fun e => joins e a b) = true := List.any_eq_true.mpr ⟨(a, b), e, by simp [joins]⟩
  have cross : routeCrosses n a b = true := by
    unfold routeCrosses
    rw [near, q]
    simp [joins]
  unfold State.routeHeld
  simp only [Bool.and_eq_true, bne_iff_ne, ne_eq, List.any_eq_true]
  exact ⟨h, (n, x), m, d, cross⟩

end Sys2Proof.Machine
end

