-- ==== Sys2Proof/Laws/Memory.lean ====
section
/-!
SUPPORT. The laws of byte memories and sparse tables: what a read gives after a write, and that every operation keeps the canonical
form.
-/

namespace Sys2Proof.Laws

open Sys2Proof Sys2Proof.Machine

/-! ## Sparse tables -/

section
variable {α : Type} (m : PMap α)

theorem PMap.find?_put_same (a : Nat) (x : α) : PMap.find? (PMap.put m a x) a = some x := by
  induction m with
  | nil => simp [PMap.put, PMap.find?]
  | cons e m ih =>
    obtain ⟨k, v⟩ := e
    simp only [PMap.put]
    split
    · simp [PMap.find?]
    · split
      · simp [PMap.find?]
      · rename_i h1 h2
        simp [PMap.find?, h2, ih]

theorem PMap.find?_put_other {a b : Nat} (h : b ≠ a) (x : α) : PMap.find? (PMap.put m a x) b = PMap.find? m b := by
  induction m with
  | nil => simp [PMap.put, PMap.find?, Ne.symm h]
  | cons e m ih =>
    obtain ⟨k, v⟩ := e
    simp only [PMap.put]
    split
    · simp only [PMap.find?, Ne.symm h, if_false]
    · split
      · rename_i h1 h2
        subst h2
        simp only [PMap.find?, Ne.symm h, if_false]
      · simp only [PMap.find?, ih]

theorem PMap.find?_del_same (a : Nat) : PMap.find? (PMap.del m a) a = none := by
  induction m with
  | nil => rfl
  | cons e m ih =>
    obtain ⟨k, v⟩ := e
    by_cases h : k = a
    · simpa [PMap.del, h] using ih
    · simpa [PMap.del, h, PMap.find?] using ih

theorem PMap.find?_del_other {a b : Nat} (h : b ≠ a) : PMap.find? (PMap.del m a) b = PMap.find? m b := by
  induction m with
  | nil => rfl
  | cons e m ih =>
    obtain ⟨k, v⟩ := e
    by_cases hk : k = a
    · subst hk
      simpa [PMap.del, PMap.find?, Ne.symm h] using ih
    · by_cases hb : k = b
      · subst hb
        simp [PMap.del, PMap.find?, h]
      · simpa [PMap.del, PMap.find?, hk, hb] using ih

theorem PMap.find?_mapVal (f : Nat → α → α) (a : Nat) : PMap.find? (PMap.mapVal f m) a = (PMap.find? m a).map (f a) := by
  induction m with
  | nil => rfl
  | cons e m ih =>
    obtain ⟨k, v⟩ := e
    by_cases h : k = a
    · subst h
      simp [PMap.mapVal, PMap.find?]
    · simpa [PMap.mapVal, PMap.find?, h] using ih

theorem PMap.get_put_same (a : Nat) (x d : α) : PMap.get (PMap.put m a x) a d = x := by
  simp [PMap.get, PMap.find?_put_same]

theorem PMap.get_put_other {a b : Nat} (h : b ≠ a) (x d : α) : PMap.get (PMap.put m a x) b d = PMap.get m b d := by
  simp [PMap.get, PMap.find?_put_other m h]

end

/-! ## Byte memories -/

/-- Every address of a canonical memory lies above what `lo` bounds. -/
def Mem.above (lo : Nat) : Mem → Bool
  | [] => true
  | (k, _) :: _ => decide (lo < k)

theorem Mem.wf_cons {k : Nat} {b : Byte} {m : Mem} :
    Mem.wf ((k, b) :: m) = true ↔ b ≠ Mem.unlisted ∧ Mem.above k m = true ∧ Mem.wf m = true := by
  cases m with
  | nil => simp [Mem.wf, Mem.above]
  | cons e m => obtain ⟨k', b'⟩ := e; simp [Mem.wf, Mem.above, and_assoc]

theorem Mem.above_trans {a b : Nat} {m : Mem} (h : a ≤ b) (hm : Mem.above b m = true) : Mem.above a m = true := by
  cases m with
  | nil => rfl
  | cons e m => simp only [Mem.above, decide_eq_true_eq] at *; omega

theorem Mem.read_above {a : Nat} {m : Mem} (h : Mem.above a m = true) : Mem.read m a = Mem.unlisted := by
  cases m with
  | nil => rfl
  | cons e m =>
    simp only [Mem.above, decide_eq_true_eq] at h
    simp [Mem.read, show ¬ e.1 = a by omega, h]

theorem Mem.above_cons {a k : Nat} {b : Byte} {m : Mem} (h : a < k) (hm : Mem.above a m = true) :
    Mem.above a (Mem.cons k b m) = true := by
  simp only [Mem.cons]; split
  · exact hm
  · simpa [Mem.above] using h

theorem Mem.above_write {lo a : Nat} {b : Byte} {m : Mem} (h : lo < a) (hm : Mem.above lo m = true) (hw : Mem.wf m = true) :
    Mem.above lo (Mem.write m a b) = true := by
  cases m with
  | nil => exact Mem.above_cons h rfl
  | cons e m =>
    obtain ⟨k, c⟩ := e
    have hk : lo < k := by simpa [Mem.above] using hm
    obtain ⟨-, h2, -⟩ := Mem.wf_cons.mp hw
    simp only [Mem.write]
    split
    · exact Mem.above_cons h hm
    · split
      · exact Mem.above_cons h (Mem.above_trans (by omega) h2)
      · simpa [Mem.above] using hk

theorem Mem.wf_cons' {a : Nat} {b : Byte} {m : Mem} (hm : Mem.above a m = true) (hw : Mem.wf m = true) :
    Mem.wf (Mem.cons a b m) = true := by
  simp only [Mem.cons]; split
  · exact hw
  · exact Mem.wf_cons.mpr ⟨by assumption, hm, hw⟩

/-- A write keeps the canonical form. -/
theorem Mem.wf_write {m : Mem} (hw : Mem.wf m = true) (a : Nat) (b : Byte) : Mem.wf (Mem.write m a b) = true := by
  induction m with
  | nil => exact Mem.wf_cons' rfl rfl
  | cons e m ih =>
    obtain ⟨k, c⟩ := e
    obtain ⟨h1, h2, h3⟩ := Mem.wf_cons.mp hw
    simp only [Mem.write]
    split
    · exact Mem.wf_cons' (by simpa [Mem.above]) hw
    · split
      · exact Mem.wf_cons' (by subst_vars; exact h2) h3
      · exact Mem.wf_cons.mpr ⟨h1, Mem.above_write (by omega) h2 h3, ih h3⟩

/-- The byte written is read back. -/
theorem Mem.read_write_same {m : Mem} (hw : Mem.wf m = true) (a : Nat) (b : Byte) : Mem.read (Mem.write m a b) a = b := by
  have hc {x : Mem} (hx : Mem.above a x = true) : Mem.read (Mem.cons a b x) a = b := by
    simp only [Mem.cons]; split
    · rw [Mem.read_above hx]; symm; assumption
    · simp [Mem.read]
  induction m with
  | nil => exact hc rfl
  | cons e m ih =>
    obtain ⟨k, c⟩ := e
    obtain ⟨-, h2, h3⟩ := Mem.wf_cons.mp hw
    simp only [Mem.write]
    split
    · exact hc (by simpa [Mem.above])
    · split
      · exact hc (by subst_vars; exact h2)
      · rename_i h4 h5
        simp [Mem.read, h4, h5, ih h3]

/-- Every other byte reads as before. -/
theorem Mem.read_write_other {m : Mem} (hw : Mem.wf m = true) {a x : Nat} (h : x ≠ a) (b : Byte) :
    Mem.read (Mem.write m a b) x = Mem.read m x := by
  have hc {y : Mem} (hy : Mem.above a y = true) : Mem.read (Mem.cons a b y) x = Mem.read y x := by
    simp only [Mem.cons]; split
    · rfl
    · simp only [Mem.read, Ne.symm h, if_false]
      split
      · rw [Mem.read_above (Mem.above_trans (by omega) hy)]
      · rfl
  induction m with
  | nil => exact hc rfl
  | cons e m ih =>
    obtain ⟨k, c⟩ := e
    obtain ⟨-, h2, h3⟩ := Mem.wf_cons.mp hw
    simp only [Mem.write]
    split
    · exact hc (by simpa [Mem.above])
    · split
      · subst_vars
        rw [hc h2]
        simp only [Mem.read, Ne.symm h, if_false]
        split
        · rw [Mem.read_above (Mem.above_trans (by omega) h2)]
        · rfl
      · simp only [Mem.read, ih h3]

theorem Mem.wf_writeBytes {m : Mem} (hw : Mem.wf m = true) (a : Nat) (bs : List Byte) :
    Mem.wf (Mem.writeBytes m a bs) = true := by
  induction bs generalizing m a with
  | nil => exact hw
  | cons b bs ih => exact ih (Mem.wf_write hw a b) (a + 1)

/-- Bytes outside those written read as before. -/
theorem Mem.read_writeBytes_other {m : Mem} (hw : Mem.wf m = true) {a x : Nat} (bs : List Byte)
    (h : x < a ∨ a + bs.length ≤ x) : Mem.read (Mem.writeBytes m a bs) x = Mem.read m x := by
  induction bs generalizing m a with
  | nil => rfl
  | cons b bs ih =>
    simp only [List.length_cons] at h
    simp only [Mem.writeBytes]
    rw [ih (Mem.wf_write hw a b) (by omega), Mem.read_write_other hw (by omega)]

/-- The bytes written are read back. -/
theorem Mem.bytes_writeBytes {m : Mem} (hw : Mem.wf m = true) (a : Nat) (bs : List Byte) :
    Mem.bytes (Mem.writeBytes m a bs) a bs.length = bs := by
  induction bs generalizing m a with
  | nil => rfl
  | cons b bs ih =>
    have hw' := Mem.wf_write hw a b
    simp only [List.length_cons, Mem.bytes, Mem.writeBytes]
    rw [Mem.read_writeBytes_other hw' bs (by omega), Mem.read_write_same hw, ih hw']

theorem Mem.wf_writeLE {w : Nat} {m : Mem} (hw : Mem.wf m = true) (a n : Nat) (v : BitVec w) :
    Mem.wf (Mem.writeLE m a n v) = true := Mem.wf_writeBytes hw a _

theorem leBytes_length {w : Nat} (v : BitVec w) (n : Nat) : (leBytes v n).length = n := by
  induction n generalizing v with
  | zero => rfl
  | succ n ih => simp [leBytes, ih]

theorem Mem.read_writeLE_other {w : Nat} {m : Mem} (hw : Mem.wf m = true) {a n x : Nat} (v : BitVec w)
    (h : x < a ∨ a + n ≤ x) : Mem.read (Mem.writeLE m a n v) x = Mem.read m x :=
  Mem.read_writeBytes_other hw _ (by rw [leBytes_length]; exact h)

end Sys2Proof.Laws
end

