-- ==== Sys2Proof/Laws/PerInstr.lean ====
section
/-!
SUPPORT. The laws stated for every instruction, one lemma a constructor (LAWS.json): decoding gives back what was encoded.
-/

namespace Sys2Proof.Laws

open Sys2Proof

/-- The words of a well-formed instruction that has an encoding decode to it, and to its length. -/
def RoundTrip.Statement (i : Instr) : Prop :=
  i.wf = true → encode i ≠ [] → decode (encode i) = .ok i (4 * (encode i).length)

theorem RoundTrip.of {i : Instr} {n : Nat} (h : decode (encode i) = .ok i n) (hn : n = 4 * (encode i).length) :
    RoundTrip.Statement i := fun _ _ => hn ▸ h

theorem and_ok {a b : Bool} (ha : a = true) (hb : b = true) : (a && b) = true := by rw [ha, hb]; rfl

theorem RoundTrip.event {i : Instr} (h : encode i = []) : RoundTrip.Statement i := fun _ hn => absurd h hn

theorem sh_high (sh : BitVec 6) : ((sh.setWidth 14).extractLsb' 6 8 == 0) = true := by revert sh; decide

theorem sh_low (sh : BitVec 6) : (sh.setWidth 14).extractLsb' 0 6 = sh := by revert sh; decide

theorem lit_form (i : Instr) :
    some (checked (true && ((0 : BitVec 9) ++ (0 : BitVec 5) : BitVec 14) == 0) (some i)) = some (Except.ok i) := by
  rw [show (((0 : BitVec 9) ++ (0 : BitVec 5) : BitVec 14) == 0) = true from by decide]; rfl

theorem RoundTrip.add (rd : SReg) (ra : SReg) (rb : SReg) : RoundTrip.Statement (.add rd ra rb) := RoundTrip.of (decode_encA rfl rfl) rfl

theorem RoundTrip.addLit (rd : SReg) (ra : SReg) (lit : W64) : RoundTrip.Statement (.addLit rd ra lit) := RoundTrip.of (decode_encALit (mk := fun lit => .addLit rd ra lit) rfl fun _ _ => rfl) rfl

theorem RoundTrip.sub (rd : SReg) (ra : SReg) (rb : SReg) : RoundTrip.Statement (.sub rd ra rb) := RoundTrip.of (decode_encA rfl rfl) rfl

theorem RoundTrip.subLit (rd : SReg) (ra : SReg) (lit : W64) : RoundTrip.Statement (.subLit rd ra lit) := RoundTrip.of (decode_encALit (mk := fun lit => .subLit rd ra lit) rfl fun _ _ => rfl) rfl

theorem RoundTrip.and (rd : SReg) (ra : SReg) (rb : SReg) : RoundTrip.Statement (.and rd ra rb) := RoundTrip.of (decode_encA rfl rfl) rfl

theorem RoundTrip.andLit (rd : SReg) (ra : SReg) (lit : W64) : RoundTrip.Statement (.andLit rd ra lit) := RoundTrip.of (decode_encALit (mk := fun lit => .andLit rd ra lit) rfl fun _ _ => rfl) rfl

theorem RoundTrip.or (rd : SReg) (ra : SReg) (rb : SReg) : RoundTrip.Statement (.or rd ra rb) := RoundTrip.of (decode_encA rfl rfl) rfl

theorem RoundTrip.orLit (rd : SReg) (ra : SReg) (lit : W64) : RoundTrip.Statement (.orLit rd ra lit) := RoundTrip.of (decode_encALit (mk := fun lit => .orLit rd ra lit) rfl fun _ _ => rfl) rfl

theorem RoundTrip.xor (rd : SReg) (ra : SReg) (rb : SReg) : RoundTrip.Statement (.xor rd ra rb) := RoundTrip.of (decode_encA rfl rfl) rfl

theorem RoundTrip.xorLit (rd : SReg) (ra : SReg) (lit : W64) : RoundTrip.Statement (.xorLit rd ra lit) := RoundTrip.of (decode_encALit (mk := fun lit => .xorLit rd ra lit) rfl fun _ _ => rfl) rfl

theorem RoundTrip.andn (rd : SReg) (ra : SReg) (rb : SReg) : RoundTrip.Statement (.andn rd ra rb) := RoundTrip.of (decode_encA rfl rfl) rfl

theorem RoundTrip.andnLit (rd : SReg) (ra : SReg) (lit : W64) : RoundTrip.Statement (.andnLit rd ra lit) := RoundTrip.of (decode_encALit (mk := fun lit => .andnLit rd ra lit) rfl fun _ _ => rfl) rfl

theorem RoundTrip.shl (rd : SReg) (ra : SReg) (rb : SReg) : RoundTrip.Statement (.shl rd ra rb) := RoundTrip.of (decode_encA rfl rfl) rfl

theorem RoundTrip.shlLit (rd : SReg) (ra : SReg) (lit : W64) : RoundTrip.Statement (.shlLit rd ra lit) := RoundTrip.of (decode_encALit (mk := fun lit => .shlLit rd ra lit) rfl fun _ _ => rfl) rfl

theorem RoundTrip.shr (rd : SReg) (ra : SReg) (rb : SReg) : RoundTrip.Statement (.shr rd ra rb) := RoundTrip.of (decode_encA rfl rfl) rfl

theorem RoundTrip.shrLit (rd : SReg) (ra : SReg) (lit : W64) : RoundTrip.Statement (.shrLit rd ra lit) := RoundTrip.of (decode_encALit (mk := fun lit => .shrLit rd ra lit) rfl fun _ _ => rfl) rfl

theorem RoundTrip.sra (rd : SReg) (ra : SReg) (rb : SReg) : RoundTrip.Statement (.sra rd ra rb) := RoundTrip.of (decode_encA rfl rfl) rfl

theorem RoundTrip.sraLit (rd : SReg) (ra : SReg) (lit : W64) : RoundTrip.Statement (.sraLit rd ra lit) := RoundTrip.of (decode_encALit (mk := fun lit => .sraLit rd ra lit) rfl fun _ _ => rfl) rfl

theorem RoundTrip.slt (rd : SReg) (ra : SReg) (rb : SReg) : RoundTrip.Statement (.slt rd ra rb) := RoundTrip.of (decode_encA rfl rfl) rfl

theorem RoundTrip.sltLit (rd : SReg) (ra : SReg) (lit : W64) : RoundTrip.Statement (.sltLit rd ra lit) := RoundTrip.of (decode_encALit (mk := fun lit => .sltLit rd ra lit) rfl fun _ _ => rfl) rfl

theorem RoundTrip.sltu (rd : SReg) (ra : SReg) (rb : SReg) : RoundTrip.Statement (.sltu rd ra rb) := RoundTrip.of (decode_encA rfl rfl) rfl

theorem RoundTrip.sltuLit (rd : SReg) (ra : SReg) (lit : W64) : RoundTrip.Statement (.sltuLit rd ra lit) := RoundTrip.of (decode_encALit (mk := fun lit => .sltuLit rd ra lit) rfl fun _ _ => rfl) rfl

theorem RoundTrip.min (rd : SReg) (ra : SReg) (rb : SReg) : RoundTrip.Statement (.min rd ra rb) := RoundTrip.of (decode_encA rfl rfl) rfl

theorem RoundTrip.minLit (rd : SReg) (ra : SReg) (lit : W64) : RoundTrip.Statement (.minLit rd ra lit) := RoundTrip.of (decode_encALit (mk := fun lit => .minLit rd ra lit) rfl fun _ _ => rfl) rfl

theorem RoundTrip.max (rd : SReg) (ra : SReg) (rb : SReg) : RoundTrip.Statement (.max rd ra rb) := RoundTrip.of (decode_encA rfl rfl) rfl

theorem RoundTrip.maxLit (rd : SReg) (ra : SReg) (lit : W64) : RoundTrip.Statement (.maxLit rd ra lit) := RoundTrip.of (decode_encALit (mk := fun lit => .maxLit rd ra lit) rfl fun _ _ => rfl) rfl

theorem RoundTrip.minu (rd : SReg) (ra : SReg) (rb : SReg) : RoundTrip.Statement (.minu rd ra rb) := RoundTrip.of (decode_encA rfl rfl) rfl

theorem RoundTrip.minuLit (rd : SReg) (ra : SReg) (lit : W64) : RoundTrip.Statement (.minuLit rd ra lit) := RoundTrip.of (decode_encALit (mk := fun lit => .minuLit rd ra lit) rfl fun _ _ => rfl) rfl

theorem RoundTrip.maxu (rd : SReg) (ra : SReg) (rb : SReg) : RoundTrip.Statement (.maxu rd ra rb) := RoundTrip.of (decode_encA rfl rfl) rfl

theorem RoundTrip.maxuLit (rd : SReg) (ra : SReg) (lit : W64) : RoundTrip.Statement (.maxuLit rd ra lit) := RoundTrip.of (decode_encALit (mk := fun lit => .maxuLit rd ra lit) rfl fun _ _ => rfl) rfl

theorem RoundTrip.addw (rd : SReg) (ra : SReg) (rb : SReg) : RoundTrip.Statement (.addw rd ra rb) := RoundTrip.of (decode_encA rfl rfl) rfl

theorem RoundTrip.addwLit (rd : SReg) (ra : SReg) (lit : W64) : RoundTrip.Statement (.addwLit rd ra lit) := RoundTrip.of (decode_encALit (mk := fun lit => .addwLit rd ra lit) rfl fun _ _ => rfl) rfl

theorem RoundTrip.subw (rd : SReg) (ra : SReg) (rb : SReg) : RoundTrip.Statement (.subw rd ra rb) := RoundTrip.of (decode_encA rfl rfl) rfl

theorem RoundTrip.subwLit (rd : SReg) (ra : SReg) (lit : W64) : RoundTrip.Statement (.subwLit rd ra lit) := RoundTrip.of (decode_encALit (mk := fun lit => .subwLit rd ra lit) rfl fun _ _ => rfl) rfl

theorem RoundTrip.addx1 (rd : SReg) (ra : SReg) (rb : SReg) : RoundTrip.Statement (.addx1 rd ra rb) := RoundTrip.of (decode_encA rfl rfl) rfl

theorem RoundTrip.addx1Lit (rd : SReg) (ra : SReg) (lit : W64) : RoundTrip.Statement (.addx1Lit rd ra lit) := RoundTrip.of (decode_encALit (mk := fun lit => .addx1Lit rd ra lit) rfl fun _ _ => rfl) rfl

theorem RoundTrip.addx2 (rd : SReg) (ra : SReg) (rb : SReg) : RoundTrip.Statement (.addx2 rd ra rb) := RoundTrip.of (decode_encA rfl rfl) rfl

theorem RoundTrip.addx2Lit (rd : SReg) (ra : SReg) (lit : W64) : RoundTrip.Statement (.addx2Lit rd ra lit) := RoundTrip.of (decode_encALit (mk := fun lit => .addx2Lit rd ra lit) rfl fun _ _ => rfl) rfl

theorem RoundTrip.addx3 (rd : SReg) (ra : SReg) (rb : SReg) : RoundTrip.Statement (.addx3 rd ra rb) := RoundTrip.of (decode_encA rfl rfl) rfl

theorem RoundTrip.addx3Lit (rd : SReg) (ra : SReg) (lit : W64) : RoundTrip.Statement (.addx3Lit rd ra lit) := RoundTrip.of (decode_encALit (mk := fun lit => .addx3Lit rd ra lit) rfl fun _ _ => rfl) rfl

theorem RoundTrip.addi (rd : SReg) (ra : SReg) (imm : BitVec 14) : RoundTrip.Statement (.addi rd ra imm) := RoundTrip.of (decode_encB (mk := fun x => .addi rd ra x) rfl fun _ _ => rfl) rfl

theorem RoundTrip.addiLit (rd : SReg) (ra : SReg) (lit : W64) : RoundTrip.Statement (.addiLit rd ra lit) :=
  RoundTrip.of (decode_encBLit (mk := fun lit => .addiLit rd ra lit) rfl fun _ _ => lit_form _) rfl

theorem RoundTrip.andi (rd : SReg) (ra : SReg) (imm : BitVec 14) : RoundTrip.Statement (.andi rd ra imm) := RoundTrip.of (decode_encB (mk := fun x => .andi rd ra x) rfl fun _ _ => rfl) rfl

theorem RoundTrip.andiLit (rd : SReg) (ra : SReg) (lit : W64) : RoundTrip.Statement (.andiLit rd ra lit) :=
  RoundTrip.of (decode_encBLit (mk := fun lit => .andiLit rd ra lit) rfl fun _ _ => lit_form _) rfl

theorem RoundTrip.ori (rd : SReg) (ra : SReg) (imm : BitVec 14) : RoundTrip.Statement (.ori rd ra imm) := RoundTrip.of (decode_encB (mk := fun x => .ori rd ra x) rfl fun _ _ => rfl) rfl

theorem RoundTrip.oriLit (rd : SReg) (ra : SReg) (lit : W64) : RoundTrip.Statement (.oriLit rd ra lit) :=
  RoundTrip.of (decode_encBLit (mk := fun lit => .oriLit rd ra lit) rfl fun _ _ => lit_form _) rfl

theorem RoundTrip.xori (rd : SReg) (ra : SReg) (imm : BitVec 14) : RoundTrip.Statement (.xori rd ra imm) := RoundTrip.of (decode_encB (mk := fun x => .xori rd ra x) rfl fun _ _ => rfl) rfl

theorem RoundTrip.xoriLit (rd : SReg) (ra : SReg) (lit : W64) : RoundTrip.Statement (.xoriLit rd ra lit) :=
  RoundTrip.of (decode_encBLit (mk := fun lit => .xoriLit rd ra lit) rfl fun _ _ => lit_form _) rfl

theorem RoundTrip.slti (rd : SReg) (ra : SReg) (imm : BitVec 14) : RoundTrip.Statement (.slti rd ra imm) := RoundTrip.of (decode_encB (mk := fun x => .slti rd ra x) rfl fun _ _ => rfl) rfl

theorem RoundTrip.sltiLit (rd : SReg) (ra : SReg) (lit : W64) : RoundTrip.Statement (.sltiLit rd ra lit) :=
  RoundTrip.of (decode_encBLit (mk := fun lit => .sltiLit rd ra lit) rfl fun _ _ => lit_form _) rfl

theorem RoundTrip.sltiu (rd : SReg) (ra : SReg) (imm : BitVec 14) : RoundTrip.Statement (.sltiu rd ra imm) := RoundTrip.of (decode_encB (mk := fun x => .sltiu rd ra x) rfl fun _ _ => rfl) rfl

theorem RoundTrip.sltiuLit (rd : SReg) (ra : SReg) (lit : W64) : RoundTrip.Statement (.sltiuLit rd ra lit) :=
  RoundTrip.of (decode_encBLit (mk := fun lit => .sltiuLit rd ra lit) rfl fun _ _ => lit_form _) rfl

theorem RoundTrip.shli (rd : SReg) (ra : SReg) (sh : BitVec 6) : RoundTrip.Statement (.shli rd ra sh) :=
  RoundTrip.of (decode_encB_of (fun m => some (checked (m.extractLsb' 6 8 == 0) (some (.shli rd ra (m.extractLsb' 0 6))))) rfl
    (fun _ _ => rfl) (by rw [sh_high, sh_low]; rfl)) rfl

theorem RoundTrip.shri (rd : SReg) (ra : SReg) (sh : BitVec 6) : RoundTrip.Statement (.shri rd ra sh) :=
  RoundTrip.of (decode_encB_of (fun m => some (checked (m.extractLsb' 6 8 == 0) (some (.shri rd ra (m.extractLsb' 0 6))))) rfl
    (fun _ _ => rfl) (by rw [sh_high, sh_low]; rfl)) rfl

theorem RoundTrip.srai (rd : SReg) (ra : SReg) (sh : BitVec 6) : RoundTrip.Statement (.srai rd ra sh) :=
  RoundTrip.of (decode_encB_of (fun m => some (checked (m.extractLsb' 6 8 == 0) (some (.srai rd ra (m.extractLsb' 0 6))))) rfl
    (fun _ _ => rfl) (by rw [sh_high, sh_low]; rfl)) rfl

theorem RoundTrip.mul (rd : SReg) (ra : SReg) (rb : SReg) : RoundTrip.Statement (.mul rd ra rb) := RoundTrip.of (decode_encA rfl rfl) rfl

theorem RoundTrip.mulLit (rd : SReg) (ra : SReg) (lit : W64) : RoundTrip.Statement (.mulLit rd ra lit) := RoundTrip.of (decode_encALit (mk := fun lit => .mulLit rd ra lit) rfl fun _ _ => rfl) rfl

theorem RoundTrip.mulh (rd : SReg) (ra : SReg) (rb : SReg) : RoundTrip.Statement (.mulh rd ra rb) := RoundTrip.of (decode_encA rfl rfl) rfl

theorem RoundTrip.mulhLit (rd : SReg) (ra : SReg) (lit : W64) : RoundTrip.Statement (.mulhLit rd ra lit) := RoundTrip.of (decode_encALit (mk := fun lit => .mulhLit rd ra lit) rfl fun _ _ => rfl) rfl

theorem RoundTrip.mulhu (rd : SReg) (ra : SReg) (rb : SReg) : RoundTrip.Statement (.mulhu rd ra rb) := RoundTrip.of (decode_encA rfl rfl) rfl

theorem RoundTrip.mulhuLit (rd : SReg) (ra : SReg) (lit : W64) : RoundTrip.Statement (.mulhuLit rd ra lit) := RoundTrip.of (decode_encALit (mk := fun lit => .mulhuLit rd ra lit) rfl fun _ _ => rfl) rfl

theorem RoundTrip.mulw (rd : SReg) (ra : SReg) (rb : SReg) : RoundTrip.Statement (.mulw rd ra rb) := RoundTrip.of (decode_encA rfl rfl) rfl

theorem RoundTrip.mulwLit (rd : SReg) (ra : SReg) (lit : W64) : RoundTrip.Statement (.mulwLit rd ra lit) := RoundTrip.of (decode_encALit (mk := fun lit => .mulwLit rd ra lit) rfl fun _ _ => rfl) rfl

theorem RoundTrip.div (rd : SReg) (ra : SReg) (rb : SReg) : RoundTrip.Statement (.div rd ra rb) := RoundTrip.of (decode_encA rfl rfl) rfl

theorem RoundTrip.divLit (rd : SReg) (ra : SReg) (lit : W64) : RoundTrip.Statement (.divLit rd ra lit) := RoundTrip.of (decode_encALit (mk := fun lit => .divLit rd ra lit) rfl fun _ _ => rfl) rfl

theorem RoundTrip.divu (rd : SReg) (ra : SReg) (rb : SReg) : RoundTrip.Statement (.divu rd ra rb) := RoundTrip.of (decode_encA rfl rfl) rfl

theorem RoundTrip.divuLit (rd : SReg) (ra : SReg) (lit : W64) : RoundTrip.Statement (.divuLit rd ra lit) := RoundTrip.of (decode_encALit (mk := fun lit => .divuLit rd ra lit) rfl fun _ _ => rfl) rfl

theorem RoundTrip.rem (rd : SReg) (ra : SReg) (rb : SReg) : RoundTrip.Statement (.rem rd ra rb) := RoundTrip.of (decode_encA rfl rfl) rfl

theorem RoundTrip.remLit (rd : SReg) (ra : SReg) (lit : W64) : RoundTrip.Statement (.remLit rd ra lit) := RoundTrip.of (decode_encALit (mk := fun lit => .remLit rd ra lit) rfl fun _ _ => rfl) rfl

theorem RoundTrip.remu (rd : SReg) (ra : SReg) (rb : SReg) : RoundTrip.Statement (.remu rd ra rb) := RoundTrip.of (decode_encA rfl rfl) rfl

theorem RoundTrip.remuLit (rd : SReg) (ra : SReg) (lit : W64) : RoundTrip.Statement (.remuLit rd ra lit) := RoundTrip.of (decode_encALit (mk := fun lit => .remuLit rd ra lit) rfl fun _ _ => rfl) rfl

theorem RoundTrip.clz (rd : SReg) (ra : SReg) : RoundTrip.Statement (.clz rd ra) := RoundTrip.of (decode_encA rfl rfl) rfl

theorem RoundTrip.ctz (rd : SReg) (ra : SReg) : RoundTrip.Statement (.ctz rd ra) := RoundTrip.of (decode_encA rfl rfl) rfl

theorem RoundTrip.popc (rd : SReg) (ra : SReg) : RoundTrip.Statement (.popc rd ra) := RoundTrip.of (decode_encA rfl rfl) rfl

theorem RoundTrip.bext (rd : SReg) (ra : SReg) (rb : SReg) : RoundTrip.Statement (.bext rd ra rb) := RoundTrip.of (decode_encA rfl rfl) rfl

theorem RoundTrip.bextLit (rd : SReg) (ra : SReg) (lit : W64) : RoundTrip.Statement (.bextLit rd ra lit) := RoundTrip.of (decode_encALit (mk := fun lit => .bextLit rd ra lit) rfl fun _ _ => rfl) rfl

theorem RoundTrip.bins (rd : SReg) (ra : SReg) (rb : SReg) : RoundTrip.Statement (.bins rd ra rb) := RoundTrip.of (decode_encA rfl rfl) rfl

theorem RoundTrip.binsLit (rd : SReg) (ra : SReg) (lit : W64) : RoundTrip.Statement (.binsLit rd ra lit) := RoundTrip.of (decode_encALit (mk := fun lit => .binsLit rd ra lit) rfl fun _ _ => rfl) rfl

theorem RoundTrip.brev (rd : SReg) (ra : SReg) : RoundTrip.Statement (.brev rd ra) := RoundTrip.of (decode_encA rfl rfl) rfl

theorem RoundTrip.bswap (rd : SReg) (ra : SReg) : RoundTrip.Statement (.bswap rd ra) := RoundTrip.of (decode_encA rfl rfl) rfl

theorem RoundTrip.beq (ra : SReg) (rs : SReg) (imm : BitVec 14) : RoundTrip.Statement (.beq ra rs imm) := RoundTrip.of (decode_encB (mk := fun x => .beq ra rs x) rfl fun _ _ => rfl) rfl

theorem RoundTrip.bne (ra : SReg) (rs : SReg) (imm : BitVec 14) : RoundTrip.Statement (.bne ra rs imm) := RoundTrip.of (decode_encB (mk := fun x => .bne ra rs x) rfl fun _ _ => rfl) rfl

theorem RoundTrip.blt (ra : SReg) (rs : SReg) (imm : BitVec 14) : RoundTrip.Statement (.blt ra rs imm) := RoundTrip.of (decode_encB (mk := fun x => .blt ra rs x) rfl fun _ _ => rfl) rfl

theorem RoundTrip.bge (ra : SReg) (rs : SReg) (imm : BitVec 14) : RoundTrip.Statement (.bge ra rs imm) := RoundTrip.of (decode_encB (mk := fun x => .bge ra rs x) rfl fun _ _ => rfl) rfl

theorem RoundTrip.bltu (ra : SReg) (rs : SReg) (imm : BitVec 14) : RoundTrip.Statement (.bltu ra rs imm) := RoundTrip.of (decode_encB (mk := fun x => .bltu ra rs x) rfl fun _ _ => rfl) rfl

theorem RoundTrip.bgeu (ra : SReg) (rs : SReg) (imm : BitVec 14) : RoundTrip.Statement (.bgeu ra rs imm) := RoundTrip.of (decode_encB (mk := fun x => .bgeu ra rs x) rfl fun _ _ => rfl) rfl

theorem RoundTrip.j (off : BitVec 24) : RoundTrip.Statement (.j off) := RoundTrip.of (decode_encJ (mk := fun x => .j x) rfl fun _ _ _ _ => rfl) rfl

theorem RoundTrip.jal (off : BitVec 24) : RoundTrip.Statement (.jal off) := RoundTrip.of (decode_encJ (mk := fun x => .jal x) rfl fun _ _ _ _ => rfl) rfl

theorem RoundTrip.jalr (ra : SReg) (imm : BitVec 14) : RoundTrip.Statement (.jalr ra imm) := RoundTrip.of (decode_encB (mk := fun x => .jalr ra x) rfl fun _ _ => rfl) rfl

theorem RoundTrip.jalrLit (ra : SReg) (lit : W64) : RoundTrip.Statement (.jalrLit ra lit) :=
  RoundTrip.of (decode_encBLit (mk := fun lit => .jalrLit ra lit) rfl fun _ _ => lit_form _) rfl

theorem RoundTrip.ldb (rd : SReg) (ra : SReg) (imm : BitVec 14) : RoundTrip.Statement (.ldb rd ra imm) := RoundTrip.of (decode_encB (mk := fun x => .ldb rd ra x) rfl fun _ _ => rfl) rfl

theorem RoundTrip.ldbLit (rd : SReg) (ra : SReg) (lit : W64) : RoundTrip.Statement (.ldbLit rd ra lit) :=
  RoundTrip.of (decode_encBLit (mk := fun lit => .ldbLit rd ra lit) rfl fun _ _ => lit_form _) rfl

theorem RoundTrip.ldbu (rd : SReg) (ra : SReg) (imm : BitVec 14) : RoundTrip.Statement (.ldbu rd ra imm) := RoundTrip.of (decode_encB (mk := fun x => .ldbu rd ra x) rfl fun _ _ => rfl) rfl

theorem RoundTrip.ldbuLit (rd : SReg) (ra : SReg) (lit : W64) : RoundTrip.Statement (.ldbuLit rd ra lit) :=
  RoundTrip.of (decode_encBLit (mk := fun lit => .ldbuLit rd ra lit) rfl fun _ _ => lit_form _) rfl

theorem RoundTrip.ldh (rd : SReg) (ra : SReg) (imm : BitVec 14) : RoundTrip.Statement (.ldh rd ra imm) := RoundTrip.of (decode_encB (mk := fun x => .ldh rd ra x) rfl fun _ _ => rfl) rfl

theorem RoundTrip.ldhLit (rd : SReg) (ra : SReg) (lit : W64) : RoundTrip.Statement (.ldhLit rd ra lit) :=
  RoundTrip.of (decode_encBLit (mk := fun lit => .ldhLit rd ra lit) rfl fun _ _ => lit_form _) rfl

theorem RoundTrip.ldhu (rd : SReg) (ra : SReg) (imm : BitVec 14) : RoundTrip.Statement (.ldhu rd ra imm) := RoundTrip.of (decode_encB (mk := fun x => .ldhu rd ra x) rfl fun _ _ => rfl) rfl

theorem RoundTrip.ldhuLit (rd : SReg) (ra : SReg) (lit : W64) : RoundTrip.Statement (.ldhuLit rd ra lit) :=
  RoundTrip.of (decode_encBLit (mk := fun lit => .ldhuLit rd ra lit) rfl fun _ _ => lit_form _) rfl

theorem RoundTrip.ldw (rd : SReg) (ra : SReg) (imm : BitVec 14) : RoundTrip.Statement (.ldw rd ra imm) := RoundTrip.of (decode_encB (mk := fun x => .ldw rd ra x) rfl fun _ _ => rfl) rfl

theorem RoundTrip.ldwLit (rd : SReg) (ra : SReg) (lit : W64) : RoundTrip.Statement (.ldwLit rd ra lit) :=
  RoundTrip.of (decode_encBLit (mk := fun lit => .ldwLit rd ra lit) rfl fun _ _ => lit_form _) rfl

theorem RoundTrip.ldwu (rd : SReg) (ra : SReg) (imm : BitVec 14) : RoundTrip.Statement (.ldwu rd ra imm) := RoundTrip.of (decode_encB (mk := fun x => .ldwu rd ra x) rfl fun _ _ => rfl) rfl

theorem RoundTrip.ldwuLit (rd : SReg) (ra : SReg) (lit : W64) : RoundTrip.Statement (.ldwuLit rd ra lit) :=
  RoundTrip.of (decode_encBLit (mk := fun lit => .ldwuLit rd ra lit) rfl fun _ _ => lit_form _) rfl

theorem RoundTrip.ldd (rd : SReg) (ra : SReg) (imm : BitVec 14) : RoundTrip.Statement (.ldd rd ra imm) := RoundTrip.of (decode_encB (mk := fun x => .ldd rd ra x) rfl fun _ _ => rfl) rfl

theorem RoundTrip.lddLit (rd : SReg) (ra : SReg) (lit : W64) : RoundTrip.Statement (.lddLit rd ra lit) :=
  RoundTrip.of (decode_encBLit (mk := fun lit => .lddLit rd ra lit) rfl fun _ _ => lit_form _) rfl

theorem RoundTrip.stb (rs : SReg) (ra : SReg) (imm : BitVec 14) : RoundTrip.Statement (.stb rs ra imm) := RoundTrip.of (decode_encB (mk := fun x => .stb rs ra x) rfl fun _ _ => rfl) rfl

theorem RoundTrip.stbLit (rs : SReg) (ra : SReg) (lit : W64) : RoundTrip.Statement (.stbLit rs ra lit) :=
  RoundTrip.of (decode_encBLit (mk := fun lit => .stbLit rs ra lit) rfl fun _ _ => lit_form _) rfl

theorem RoundTrip.sth (rs : SReg) (ra : SReg) (imm : BitVec 14) : RoundTrip.Statement (.sth rs ra imm) := RoundTrip.of (decode_encB (mk := fun x => .sth rs ra x) rfl fun _ _ => rfl) rfl

theorem RoundTrip.sthLit (rs : SReg) (ra : SReg) (lit : W64) : RoundTrip.Statement (.sthLit rs ra lit) :=
  RoundTrip.of (decode_encBLit (mk := fun lit => .sthLit rs ra lit) rfl fun _ _ => lit_form _) rfl

theorem RoundTrip.stw (rs : SReg) (ra : SReg) (imm : BitVec 14) : RoundTrip.Statement (.stw rs ra imm) := RoundTrip.of (decode_encB (mk := fun x => .stw rs ra x) rfl fun _ _ => rfl) rfl

theorem RoundTrip.stwLit (rs : SReg) (ra : SReg) (lit : W64) : RoundTrip.Statement (.stwLit rs ra lit) :=
  RoundTrip.of (decode_encBLit (mk := fun lit => .stwLit rs ra lit) rfl fun _ _ => lit_form _) rfl

theorem RoundTrip.std (rs : SReg) (ra : SReg) (imm : BitVec 14) : RoundTrip.Statement (.std rs ra imm) := RoundTrip.of (decode_encB (mk := fun x => .std rs ra x) rfl fun _ _ => rfl) rfl

theorem RoundTrip.stdLit (rs : SReg) (ra : SReg) (lit : W64) : RoundTrip.Statement (.stdLit rs ra lit) :=
  RoundTrip.of (decode_encBLit (mk := fun lit => .stdLit rs ra lit) rfl fun _ _ => lit_form _) rfl

theorem RoundTrip.ldfe (rd : SReg) (ra : SReg) : RoundTrip.Statement (.ldfe rd ra) := RoundTrip.of (decode_encA rfl rfl) rfl

theorem RoundTrip.ldfeLit (rd : SReg) (ra : SReg) (lit : W64) : RoundTrip.Statement (.ldfeLit rd ra lit) := RoundTrip.of (decode_encALit (mk := fun lit => .ldfeLit rd ra lit) rfl fun _ _ => rfl) rfl

theorem RoundTrip.ldfec (rd : SReg) (ra : SReg) : RoundTrip.Statement (.ldfec rd ra) := RoundTrip.of (decode_encA rfl rfl) rfl

theorem RoundTrip.ldfecLit (rd : SReg) (ra : SReg) (lit : W64) : RoundTrip.Statement (.ldfecLit rd ra lit) := RoundTrip.of (decode_encALit (mk := fun lit => .ldfecLit rd ra lit) rfl fun _ _ => rfl) rfl

theorem RoundTrip.stfe (rd : SReg) (ra : SReg) : RoundTrip.Statement (.stfe rd ra) := RoundTrip.of (decode_encA rfl rfl) rfl

theorem RoundTrip.stfeLit (rd : SReg) (ra : SReg) (lit : W64) : RoundTrip.Statement (.stfeLit rd ra lit) := RoundTrip.of (decode_encALit (mk := fun lit => .stfeLit rd ra lit) rfl fun _ _ => rfl) rfl

theorem RoundTrip.stfew (rd : SReg) (ra : SReg) : RoundTrip.Statement (.stfew rd ra) := RoundTrip.of (decode_encA rfl rfl) rfl

theorem RoundTrip.stfewLit (rd : SReg) (ra : SReg) (lit : W64) : RoundTrip.Statement (.stfewLit rd ra lit) := RoundTrip.of (decode_encALit (mk := fun lit => .stfewLit rd ra lit) rfl fun _ _ => rfl) rfl

theorem RoundTrip.feset (ra : SReg) : RoundTrip.Statement (.feset ra) := RoundTrip.of (decode_encA rfl rfl) rfl

theorem RoundTrip.fesetLit (ra : SReg) (lit : W64) : RoundTrip.Statement (.fesetLit ra lit) := RoundTrip.of (decode_encALit (mk := fun lit => .fesetLit ra lit) rfl fun _ _ => rfl) rfl

theorem RoundTrip.feclr (ra : SReg) : RoundTrip.Statement (.feclr ra) := RoundTrip.of (decode_encA rfl rfl) rfl

theorem RoundTrip.feclrLit (ra : SReg) (lit : W64) : RoundTrip.Statement (.feclrLit ra lit) := RoundTrip.of (decode_encALit (mk := fun lit => .feclrLit ra lit) rfl fun _ _ => rfl) rfl

theorem RoundTrip.fetst (rd : SReg) (ra : SReg) : RoundTrip.Statement (.fetst rd ra) := RoundTrip.of (decode_encA rfl rfl) rfl

theorem RoundTrip.fetstLit (rd : SReg) (ra : SReg) (lit : W64) : RoundTrip.Statement (.fetstLit rd ra lit) := RoundTrip.of (decode_encALit (mk := fun lit => .fetstLit rd ra lit) rfl fun _ _ => rfl) rfl

theorem RoundTrip.ldl (rd : SReg) (ra : SReg) : RoundTrip.Statement (.ldl rd ra) := RoundTrip.of (decode_encA rfl rfl) rfl

theorem RoundTrip.ldlLit (rd : SReg) (ra : SReg) (lit : W64) : RoundTrip.Statement (.ldlLit rd ra lit) := RoundTrip.of (decode_encALit (mk := fun lit => .ldlLit rd ra lit) rfl fun _ _ => rfl) rfl

theorem RoundTrip.stu (rd : SReg) (ra : SReg) (rb : SReg) : RoundTrip.Statement (.stu rd ra rb) := RoundTrip.of (decode_encA rfl rfl) rfl

theorem RoundTrip.ulk (ra : SReg) : RoundTrip.Statement (.ulk ra) := RoundTrip.of (decode_encA rfl rfl) rfl

theorem RoundTrip.ulkLit (ra : SReg) (lit : W64) : RoundTrip.Statement (.ulkLit ra lit) := RoundTrip.of (decode_encALit (mk := fun lit => .ulkLit ra lit) rfl fun _ _ => rfl) rfl

theorem RoundTrip.sld (rd : SReg) (ra : SReg) (imm : BitVec 14) : RoundTrip.Statement (.sld rd ra imm) := RoundTrip.of (decode_encB (mk := fun x => .sld rd ra x) rfl fun _ _ => rfl) rfl

theorem RoundTrip.sldLit (rd : SReg) (ra : SReg) (lit : W64) : RoundTrip.Statement (.sldLit rd ra lit) :=
  RoundTrip.of (decode_encBLit (mk := fun lit => .sldLit rd ra lit) rfl fun _ _ => lit_form _) rfl

theorem RoundTrip.sldw (rd : SReg) (ra : SReg) (imm : BitVec 14) : RoundTrip.Statement (.sldw rd ra imm) := RoundTrip.of (decode_encB (mk := fun x => .sldw rd ra x) rfl fun _ _ => rfl) rfl

theorem RoundTrip.sldwLit (rd : SReg) (ra : SReg) (lit : W64) : RoundTrip.Statement (.sldwLit rd ra lit) :=
  RoundTrip.of (decode_encBLit (mk := fun lit => .sldwLit rd ra lit) rfl fun _ _ => lit_form _) rfl

theorem RoundTrip.sldh (rd : SReg) (ra : SReg) (imm : BitVec 14) : RoundTrip.Statement (.sldh rd ra imm) := RoundTrip.of (decode_encB (mk := fun x => .sldh rd ra x) rfl fun _ _ => rfl) rfl

theorem RoundTrip.sldhLit (rd : SReg) (ra : SReg) (lit : W64) : RoundTrip.Statement (.sldhLit rd ra lit) :=
  RoundTrip.of (decode_encBLit (mk := fun lit => .sldhLit rd ra lit) rfl fun _ _ => lit_form _) rfl

theorem RoundTrip.sst (rs : SReg) (ra : SReg) (imm : BitVec 14) : RoundTrip.Statement (.sst rs ra imm) := RoundTrip.of (decode_encB (mk := fun x => .sst rs ra x) rfl fun _ _ => rfl) rfl

theorem RoundTrip.sstLit (rs : SReg) (ra : SReg) (lit : W64) : RoundTrip.Statement (.sstLit rs ra lit) :=
  RoundTrip.of (decode_encBLit (mk := fun lit => .sstLit rs ra lit) rfl fun _ _ => lit_form _) rfl

theorem RoundTrip.sstw (rs : SReg) (ra : SReg) (imm : BitVec 14) : RoundTrip.Statement (.sstw rs ra imm) := RoundTrip.of (decode_encB (mk := fun x => .sstw rs ra x) rfl fun _ _ => rfl) rfl

theorem RoundTrip.sstwLit (rs : SReg) (ra : SReg) (lit : W64) : RoundTrip.Statement (.sstwLit rs ra lit) :=
  RoundTrip.of (decode_encBLit (mk := fun lit => .sstwLit rs ra lit) rfl fun _ _ => lit_form _) rfl

theorem RoundTrip.sstb (rs : SReg) (ra : SReg) (imm : BitVec 14) : RoundTrip.Statement (.sstb rs ra imm) := RoundTrip.of (decode_encB (mk := fun x => .sstb rs ra x) rfl fun _ _ => rfl) rfl

theorem RoundTrip.sstbLit (rs : SReg) (ra : SReg) (lit : W64) : RoundTrip.Statement (.sstbLit rs ra lit) :=
  RoundTrip.of (decode_encBLit (mk := fun lit => .sstbLit rs ra lit) rfl fun _ _ => lit_form _) rfl

theorem RoundTrip.sstp (sc : Scope) (rs : SReg) (ra : SReg) : RoundTrip.Statement (.sstp sc rs ra) :=
  RoundTrip.of (decode_encB_of
    (fun m => some (checked (m.extractLsb' 2 12 == 0) (some (.sstp (Scope.ofBits (m.extractLsb' 0 2)) rs ra)))) rfl
    (fun _ _ => rfl) (by rw [scope_imm_high, scope_imm_low]; rfl)) rfl

theorem RoundTrip.acq (sc : Scope) (ra : SReg) : RoundTrip.Statement (.acq sc ra) :=
  RoundTrip.of (decode_encA_of rfl rfl (and_ok rfl (scope_high sc)) (by simp only [W0.scope, scope_low])) rfl

theorem RoundTrip.rel (sc : Scope) (ra : SReg) : RoundTrip.Statement (.rel sc ra) :=
  RoundTrip.of (decode_encA_of rfl rfl (and_ok rfl (scope_high sc)) (by simp only [W0.scope, scope_low])) rfl

theorem RoundTrip.fence (sc : Scope) (rd : SReg) : RoundTrip.Statement (.fence sc rd) :=
  RoundTrip.of (decode_encA_of rfl rfl (and_ok rfl (scope_high sc)) (by simp only [W0.scope, scope_low])) rfl

theorem RoundTrip.fencel (sc : Scope) : RoundTrip.Statement (.fencel sc) :=
  RoundTrip.of (decode_encA_of rfl rfl (and_ok rfl (scope_high sc)) (by simp only [W0.scope, scope_low])) rfl

theorem RoundTrip.sobind (rd : SReg) (ra : SReg) (rb : SReg) : RoundTrip.Statement (.sobind rd ra rb) := RoundTrip.of (decode_encA rfl rfl) rfl

theorem RoundTrip.sounb (ra : SReg) : RoundTrip.Statement (.sounb ra) := RoundTrip.of (decode_encA rfl rfl) rfl

theorem RoundTrip.syadd (rd : SReg) (ra : SReg) (rb : SReg) : RoundTrip.Statement (.syadd rd ra rb) := RoundTrip.of (decode_encA rfl rfl) rfl

theorem RoundTrip.syaddLit (rd : SReg) (ra : SReg) (lit : W64) : RoundTrip.Statement (.syaddLit rd ra lit) := RoundTrip.of (decode_encALit (mk := fun lit => .syaddLit rd ra lit) rfl fun _ _ => rfl) rfl

theorem RoundTrip.sycas (rd : SReg) (ra : SReg) (rb : SReg) : RoundTrip.Statement (.sycas rd ra rb) := RoundTrip.of (decode_encA rfl rfl) rfl

theorem RoundTrip.sycasLit (rd : SReg) (ra : SReg) (lit : W64) : RoundTrip.Statement (.sycasLit rd ra lit) := RoundTrip.of (decode_encALit (mk := fun lit => .sycasLit rd ra lit) rfl fun _ _ => rfl) rfl

theorem RoundTrip.syswp (rd : SReg) (ra : SReg) (rb : SReg) : RoundTrip.Statement (.syswp rd ra rb) := RoundTrip.of (decode_encA rfl rfl) rfl

theorem RoundTrip.syswpLit (rd : SReg) (ra : SReg) (lit : W64) : RoundTrip.Statement (.syswpLit rd ra lit) := RoundTrip.of (decode_encALit (mk := fun lit => .syswpLit rd ra lit) rfl fun _ _ => rfl) rfl

theorem RoundTrip.syld (rd : SReg) (ra : SReg) : RoundTrip.Statement (.syld rd ra) := RoundTrip.of (decode_encA rfl rfl) rfl

theorem RoundTrip.logadd (ra : SReg) (rb : SReg) : RoundTrip.Statement (.logadd ra rb) := RoundTrip.of (decode_encA rfl rfl) rfl

theorem RoundTrip.logaddLit (ra : SReg) (lit : W64) : RoundTrip.Statement (.logaddLit ra lit) := RoundTrip.of (decode_encALit (mk := fun lit => .logaddLit ra lit) rfl fun _ _ => rfl) rfl

theorem RoundTrip.logfadd (ra : SReg) (rb : SReg) : RoundTrip.Statement (.logfadd ra rb) := RoundTrip.of (decode_encA rfl rfl) rfl

theorem RoundTrip.logfaddLit (ra : SReg) (lit : W64) : RoundTrip.Statement (.logfaddLit ra lit) := RoundTrip.of (decode_encALit (mk := fun lit => .logfaddLit ra lit) rfl fun _ _ => rfl) rfl

theorem RoundTrip.hstart (rd : SReg) (ra : SReg) (rb : SReg) : RoundTrip.Statement (.hstart rd ra rb) := RoundTrip.of (decode_encA rfl rfl) rfl

theorem RoundTrip.hstartLit (rd : SReg) (ra : SReg) (lit : W64) : RoundTrip.Statement (.hstartLit rd ra lit) := RoundTrip.of (decode_encALit (mk := fun lit => .hstartLit rd ra lit) rfl fun _ _ => rfl) rfl

theorem RoundTrip.hjoin (ra : SReg) : RoundTrip.Statement (.hjoin ra) := RoundTrip.of (decode_encA rfl rfl) rfl

theorem RoundTrip.hexit : RoundTrip.Statement (.hexit) := RoundTrip.of (decode_encA rfl rfl) rfl

theorem RoundTrip.hstat (rd : SReg) : RoundTrip.Statement (.hstat rd) := RoundTrip.of (decode_encA rfl rfl) rfl

theorem RoundTrip.yield : RoundTrip.Statement (.yield) := RoundTrip.of (decode_encA rfl rfl) rfl

theorem RoundTrip.gang (ra : SReg) : RoundTrip.Statement (.gang ra) := RoundTrip.of (decode_encA rfl rfl) rfl

theorem RoundTrip.detach : RoundTrip.Statement (.detach) := RoundTrip.of (decode_encA rfl rfl) rfl

theorem RoundTrip.rejoin : RoundTrip.Statement (.rejoin) := RoundTrip.of (decode_encA rfl rfl) rfl

theorem RoundTrip.bar (lv : Level) : RoundTrip.Statement (.bar lv) :=
  RoundTrip.of (decode_encA_of rfl rfl (and_ok rfl (level_high lv)) (by simp only [W0.level, level_low, Option.map_some])) rfl

theorem RoundTrip.signal (ra : SReg) : RoundTrip.Statement (.signal ra) := RoundTrip.of (decode_encA rfl rfl) rfl

theorem RoundTrip.phasec : RoundTrip.Statement (.phasec) := RoundTrip.of (decode_encA rfl rfl) rfl

theorem RoundTrip.phasex : RoundTrip.Statement (.phasex) := RoundTrip.of (decode_encA rfl rfl) rfl

theorem RoundTrip.waitc (rb : SReg) : RoundTrip.Statement (.waitc rb) := RoundTrip.of (decode_encA rfl rfl) rfl

theorem RoundTrip.waitcLit (lit : W64) : RoundTrip.Statement (.waitcLit lit) := RoundTrip.of (decode_encALit (mk := fun lit => .waitcLit lit) rfl fun _ _ => rfl) rfl

theorem RoundTrip.bany (rd : SReg) (ra : SReg) : RoundTrip.Statement (.bany rd ra) := RoundTrip.of (decode_encA rfl rfl) rfl

theorem RoundTrip.ball (rd : SReg) (ra : SReg) : RoundTrip.Statement (.ball rd ra) := RoundTrip.of (decode_encA rfl rfl) rfl

theorem RoundTrip.rset (idx : BitVec 5) (ra : SReg) (rb : SReg) : RoundTrip.Statement (.rset idx ra rb) := RoundTrip.of (decode_encA rfl rfl) rfl

theorem RoundTrip.rsetLit (idx : BitVec 5) (ra : SReg) (lit : W64) : RoundTrip.Statement (.rsetLit idx ra lit) := RoundTrip.of (decode_encALit (mk := fun lit => .rsetLit idx ra lit) rfl fun _ _ => rfl) rfl

theorem RoundTrip.pclr (idx : BitVec 5) : RoundTrip.Statement (.pclr idx) := RoundTrip.of (decode_encA rfl rfl) rfl

theorem RoundTrip.pset (idx : BitVec 5) : RoundTrip.Statement (.pset idx) := RoundTrip.of (decode_encA rfl rfl) rfl

theorem RoundTrip.ptst (rd : SReg) (idx : BitVec 5) : RoundTrip.Statement (.ptst rd idx) := RoundTrip.of (decode_encA rfl rfl) rfl

theorem RoundTrip.sopen (ra : SReg) : RoundTrip.Statement (.sopen ra) := RoundTrip.of (decode_encA rfl rfl) rfl

theorem RoundTrip.sput (rb : SReg) : RoundTrip.Statement (.sput rb) := RoundTrip.of (decode_encA rfl rfl) rfl

theorem RoundTrip.sputLit (lit : W64) : RoundTrip.Statement (.sputLit lit) := RoundTrip.of (decode_encALit (mk := fun lit => .sputLit lit) rfl fun _ _ => rfl) rfl

theorem RoundTrip.sget (rd : SReg) : RoundTrip.Statement (.sget rd) := RoundTrip.of (decode_encA rfl rfl) rfl

theorem RoundTrip.sclose : RoundTrip.Statement (.sclose) := RoundTrip.of (decode_encA rfl rfl) rfl

theorem RoundTrip.msg (ra : SReg) (rb : SReg) : RoundTrip.Statement (.msg ra rb) := RoundTrip.of (decode_encA rfl rfl) rfl

theorem RoundTrip.msgLit (ra : SReg) (lit : W64) : RoundTrip.Statement (.msgLit ra lit) := RoundTrip.of (decode_encALit (mk := fun lit => .msgLit ra lit) rfl fun _ _ => rfl) rfl

theorem RoundTrip.msgrd (rd : SReg) : RoundTrip.Statement (.msgrd rd) := RoundTrip.of (decode_encA rfl rfl) rfl

theorem RoundTrip.csrr (rd : SReg) (csr : Csr) : RoundTrip.Statement (.csrr rd csr) :=
  RoundTrip.of (decode_encA_of rfl rfl rfl (by simp only [W0.csr, csr_code, Option.map_some])) rfl

theorem RoundTrip.csrw (csr : Csr) (ra : SReg) : RoundTrip.Statement (.csrw csr ra) :=
  RoundTrip.of (decode_encA_of rfl rfl rfl (by simp only [W0.csr, csr_code, Option.map_some])) rfl

theorem RoundTrip.csrs (csr : Csr) (ra : SReg) : RoundTrip.Statement (.csrs csr ra) :=
  RoundTrip.of (decode_encA_of rfl rfl rfl (by simp only [W0.csr, csr_code, Option.map_some])) rfl

theorem RoundTrip.csrc (csr : Csr) (ra : SReg) : RoundTrip.Statement (.csrc csr ra) :=
  RoundTrip.of (decode_encA_of rfl rfl rfl (by simp only [W0.csr, csr_code, Option.map_some])) rfl

theorem RoundTrip.trap (ra : SReg) : RoundTrip.Statement (.trap ra) := RoundTrip.of (decode_encA rfl rfl) rfl

theorem RoundTrip.rte : RoundTrip.Statement (.rte) := RoundTrip.of (decode_encA rfl rfl) rfl

theorem RoundTrip.wfi : RoundTrip.Statement (.wfi) := RoundTrip.of (decode_encA rfl rfl) rfl

theorem RoundTrip.ifence : RoundTrip.Statement (.ifence) := RoundTrip.of (decode_encA rfl rfl) rfl

theorem RoundTrip.tlbi (ra : SReg) : RoundTrip.Statement (.tlbi ra) := RoundTrip.of (decode_encA rfl rfl) rfl

theorem RoundTrip.snap : RoundTrip.Statement (.snap) := RoundTrip.of (decode_encA rfl rfl) rfl

theorem RoundTrip.halt : RoundTrip.Statement (.halt) := RoundTrip.of (decode_encA rfl rfl) rfl

theorem RoundTrip.signatureMismatch : RoundTrip.Statement (.signatureMismatch) := RoundTrip.event rfl

theorem RoundTrip.logFull : RoundTrip.Statement (.logFull) := RoundTrip.event rfl

theorem RoundTrip.budgetOverrun (launch : Nat) : RoundTrip.Statement (.budgetOverrun launch) := RoundTrip.event rfl

theorem RoundTrip.switchTick (core : Nat) : RoundTrip.Statement (.switchTick core) := RoundTrip.event rfl

theorem RoundTrip.contextStream (core : Nat) (launch : Nat) : RoundTrip.Statement (.contextStream core launch) := RoundTrip.event rfl

theorem RoundTrip.dispatch (launch : Nat) (dies : List Nat) (cr : Nat) (cc : Nat) : RoundTrip.Statement (.dispatch launch dies cr cc) := RoundTrip.event rfl

theorem RoundTrip.imageLoadComplete (launch : Nat) : RoundTrip.Statement (.imageLoadComplete launch) := RoundTrip.event rfl

theorem RoundTrip.contextEnd (core : Nat) : RoundTrip.Statement (.contextEnd core) := RoundTrip.event rfl

theorem RoundTrip.completionRecord (launch : Nat) : RoundTrip.Statement (.completionRecord launch) := RoundTrip.event rfl

theorem RoundTrip.remoteWriteArrival (core : Nat) : RoundTrip.Statement (.remoteWriteArrival core) := RoundTrip.event rfl

theorem RoundTrip.rsetAcceptance (core : Nat) (thr : Nat) : RoundTrip.Statement (.rsetAcceptance core thr) := RoundTrip.event rfl

theorem RoundTrip.rsetRetry (core : Nat) (thr : Nat) : RoundTrip.Statement (.rsetRetry core thr) := RoundTrip.event rfl

theorem RoundTrip.remoteAccessRetry (core : Nat) (thr : Nat) : RoundTrip.Statement (.remoteAccessRetry core thr) := RoundTrip.event rfl

theorem RoundTrip.localLoadReturn (pos : Nat) : RoundTrip.Statement (.localLoadReturn pos) := RoundTrip.event rfl

theorem RoundTrip.messageArrival (core : Nat) : RoundTrip.Statement (.messageArrival core) := RoundTrip.event rfl

theorem RoundTrip.streamPortGrant (core : Nat) : RoundTrip.Statement (.streamPortGrant core) := RoundTrip.event rfl

theorem RoundTrip.streamEntryArrival (core : Nat) : RoundTrip.Statement (.streamEntryArrival core) := RoundTrip.event rfl

theorem RoundTrip.lockGrant (cluster : Nat) (bank : Nat) (k : Nat) : RoundTrip.Statement (.lockGrant cluster bank k) := RoundTrip.event rfl

theorem RoundTrip.lockTimeout (cluster : Nat) : RoundTrip.Statement (.lockTimeout cluster) := RoundTrip.event rfl

theorem RoundTrip.feWaitComplete (core : Nat) (granule : Nat) : RoundTrip.Statement (.feWaitComplete core granule) := RoundTrip.event rfl

theorem RoundTrip.gangFormed (core : Nat) : RoundTrip.Statement (.gangFormed core) := RoundTrip.event rfl

theorem RoundTrip.forwardArrival (core : Nat) : RoundTrip.Statement (.forwardArrival core) := RoundTrip.event rfl

theorem RoundTrip.barrierRelease (launch : Nat) (lv : Level) (leader : Nat) : RoundTrip.Statement (.barrierRelease launch lv leader) := RoundTrip.event rfl

theorem RoundTrip.waitcExpiry (core : Nat) (thr : Nat) : RoundTrip.Statement (.waitcExpiry core thr) := RoundTrip.event rfl

theorem RoundTrip.yieldExpiry (core : Nat) (thr : Nat) : RoundTrip.Statement (.yieldExpiry core thr) := RoundTrip.event rfl

theorem RoundTrip.recordDrift (core : Nat) : RoundTrip.Statement (.recordDrift core) := RoundTrip.event rfl

theorem RoundTrip.callWindow (sys : Bool) : RoundTrip.Statement (.callWindow sys) := RoundTrip.event rfl

theorem RoundTrip.publicationApply (lag : BitVec 4) : RoundTrip.Statement (.publicationApply lag) := RoundTrip.event rfl

theorem RoundTrip.replicaApply (die : Nat) : RoundTrip.Statement (.replicaApply die) := RoundTrip.event rfl

theorem RoundTrip.sharedLoadReturn (pos : Nat) : RoundTrip.Statement (.sharedLoadReturn pos) := RoundTrip.event rfl

theorem RoundTrip.relComplete (core : Nat) (thr : Nat) : RoundTrip.Statement (.relComplete core thr) := RoundTrip.event rfl

theorem RoundTrip.acqComplete (core : Nat) (thr : Nat) : RoundTrip.Statement (.acqComplete core thr) := RoundTrip.event rfl

theorem RoundTrip.syncOpComplete (core : Nat) (thr : Nat) : RoundTrip.Statement (.syncOpComplete core thr) := RoundTrip.event rfl

theorem RoundTrip.fenceComplete (core : Nat) (thr : Nat) : RoundTrip.Statement (.fenceComplete core thr) := RoundTrip.event rfl

theorem RoundTrip.segmentReclaim : RoundTrip.Statement (.segmentReclaim) := RoundTrip.event rfl

theorem RoundTrip.tscWalk (cluster : Nat) : RoundTrip.Statement (.tscWalk cluster) := RoundTrip.event rfl

theorem RoundTrip.tlbFill (cluster : Nat) : RoundTrip.Statement (.tlbFill cluster) := RoundTrip.event rfl

theorem RoundTrip.absentRewalk (cluster : Nat) : RoundTrip.Statement (.absentRewalk cluster) := RoundTrip.event rfl

theorem RoundTrip.denyRewalk (cluster : Nat) : RoundTrip.Statement (.denyRewalk cluster) := RoundTrip.event rfl

theorem RoundTrip.tlbSweep (cluster : Nat) : RoundTrip.Statement (.tlbSweep cluster) := RoundTrip.event rfl

theorem RoundTrip.invalVa (vpn : BitVec 32) (asid : BitVec 12) : RoundTrip.Statement (.invalVa vpn asid) := RoundTrip.event rfl

theorem RoundTrip.invalAsid (asid : BitVec 12) : RoundTrip.Statement (.invalAsid asid) := RoundTrip.event rfl

theorem RoundTrip.invalAll : RoundTrip.Statement (.invalAll) := RoundTrip.event rfl

theorem RoundTrip.tscAcknowledge (cluster : Nat) : RoundTrip.Statement (.tscAcknowledge cluster) := RoundTrip.event rfl

theorem RoundTrip.invalDone : RoundTrip.Statement (.invalDone) := RoundTrip.event rfl

theorem RoundTrip.transferStart (cluster : Nat) (ch : Nat) : RoundTrip.Statement (.transferStart cluster ch) := RoundTrip.event rfl

theorem RoundTrip.transferComplete (cluster : Nat) (ch : Nat) : RoundTrip.Statement (.transferComplete cluster ch) := RoundTrip.event rfl

theorem RoundTrip.chainRecordFetch (cluster : Nat) (ch : Nat) : RoundTrip.Statement (.chainRecordFetch cluster ch) := RoundTrip.event rfl

theorem RoundTrip.multicastGrant (core : Nat) (thr : Nat) : RoundTrip.Statement (.multicastGrant core thr) := RoundTrip.event rfl

theorem RoundTrip.xvComplete (core : Nat) : RoundTrip.Statement (.xvComplete core) := RoundTrip.event rfl

theorem RoundTrip.matrixGrant (cluster : Nat) : RoundTrip.Statement (.matrixGrant cluster) := RoundTrip.event rfl

theorem RoundTrip.matrixComplete (cluster : Nat) : RoundTrip.Statement (.matrixComplete cluster) := RoundTrip.event rfl

theorem RoundTrip.rankGrant (cluster : Nat) : RoundTrip.Statement (.rankGrant cluster) := RoundTrip.event rfl

theorem RoundTrip.rankComplete (cluster : Nat) : RoundTrip.Statement (.rankComplete cluster) := RoundTrip.event rfl

theorem RoundTrip.aeCommandStart (die : Nat) (pos : Nat) : RoundTrip.Statement (.aeCommandStart die pos) := RoundTrip.event rfl

theorem RoundTrip.aeCommandComplete (die : Nat) (pos : Nat) : RoundTrip.Statement (.aeCommandComplete die pos) := RoundTrip.event rfl

theorem RoundTrip.aeRound (die : Nat) (slot : Nat) : RoundTrip.Statement (.aeRound die slot) := RoundTrip.event rfl

theorem RoundTrip.aeRunEnd (die : Nat) (slot : Nat) : RoundTrip.Statement (.aeRunEnd die slot) := RoundTrip.event rfl

theorem RoundTrip.schedulerConsume (queue : Nat) : RoundTrip.Statement (.schedulerConsume queue) := RoundTrip.event rfl

theorem RoundTrip.queueBind (queue : Nat) (slot : Nat) : RoundTrip.Statement (.queueBind queue slot) := RoundTrip.event rfl

theorem RoundTrip.queueRotate : RoundTrip.Statement (.queueRotate) := RoundTrip.event rfl

theorem RoundTrip.arbiterGrant : RoundTrip.Statement (.arbiterGrant) := RoundTrip.event rfl

theorem RoundTrip.sliceEnd (launch : Nat) : RoundTrip.Statement (.sliceEnd launch) := RoundTrip.event rfl

theorem RoundTrip.admissionDecision : RoundTrip.Statement (.admissionDecision) := RoundTrip.event rfl

theorem RoundTrip.reservationQuotaEnd (rsv : Nat) : RoundTrip.Statement (.reservationQuotaEnd rsv) := RoundTrip.event rfl

theorem RoundTrip.reservationPeriod (rsv : Nat) : RoundTrip.Statement (.reservationPeriod rsv) := RoundTrip.event rfl

theorem RoundTrip.stepTick (busy : BitVec 18) (idle : BitVec 18) : RoundTrip.Statement (.stepTick busy idle) := RoundTrip.event rfl

theorem RoundTrip.retrainEnd (boundary : Nat) : RoundTrip.Statement (.retrainEnd boundary) := RoundTrip.event rfl

theorem RoundTrip.portDead (boundary : Nat) : RoundTrip.Statement (.portDead boundary) := RoundTrip.event rfl

theorem RoundTrip.escapeRouteInstall (boundary : Nat) : RoundTrip.Statement (.escapeRouteInstall boundary) := RoundTrip.event rfl

theorem RoundTrip.nackResend (boundary : Nat) : RoundTrip.Statement (.nackResend boundary) := RoundTrip.event rfl

theorem RoundTrip.packetAgeDrop (die : Nat) : RoundTrip.Statement (.packetAgeDrop die) := RoundTrip.event rfl

theorem RoundTrip.dieReset (die : Nat) : RoundTrip.Statement (.dieReset die) := RoundTrip.event rfl

theorem RoundTrip.domainTimeLoss : RoundTrip.Statement .domainTimeLoss := RoundTrip.event rfl

theorem RoundTrip.chunkArrival (grp : BitVec 16) (inst : BitVec 16) (sender : Nat) (data : List W32) : RoundTrip.Statement (.chunkArrival grp inst sender data) := RoundTrip.event rfl

theorem RoundTrip.spillRefetch : RoundTrip.Statement (.spillRefetch) := RoundTrip.event rfl

theorem RoundTrip.collInstanceComplete (grp : BitVec 16) (inst : BitVec 16) : RoundTrip.Statement (.collInstanceComplete grp inst) := RoundTrip.event rfl

theorem RoundTrip.correctedError (err : ErrSite) : RoundTrip.Statement (.correctedError err) := RoundTrip.event rfl

theorem RoundTrip.latentError (err : ErrSite) : RoundTrip.Statement (.latentError err) := RoundTrip.event rfl

theorem RoundTrip.consumedError (err : ErrSite) : RoundTrip.Statement (.consumedError err) := RoundTrip.event rfl

theorem RoundTrip.containmentLaunchFault (launch : Nat) : RoundTrip.Statement (.containmentLaunchFault launch) := RoundTrip.event rfl

theorem RoundTrip.containmentEnd (die : Nat) (rect : Nat) : RoundTrip.Statement (.containmentEnd die rect) := RoundTrip.event rfl

theorem RoundTrip.scrubLine (pa : Nat) (res : ScrubResult) : RoundTrip.Statement (.scrubLine pa res) := RoundTrip.event rfl

theorem RoundTrip.snapinEdge : RoundTrip.Statement (.snapinEdge) := RoundTrip.event rfl

theorem RoundTrip.snapshotLatch : RoundTrip.Statement (.snapshotLatch) := RoundTrip.event rfl

theorem RoundTrip.snapshotRelease : RoundTrip.Statement (.snapshotRelease) := RoundTrip.event rfl

theorem RoundTrip.mapCommit (die : Nat) : RoundTrip.Statement (.mapCommit die) := RoundTrip.event rfl

theorem RoundTrip.registerWrite (off : Nat) (val : W64) : RoundTrip.Statement (.registerWrite off val) := RoundTrip.event rfl

theorem RoundTrip.thermalWarning : RoundTrip.Statement (.thermalWarning) := RoundTrip.event rfl

theorem RoundTrip.thermalPoweroff : RoundTrip.Statement (.thermalPoweroff) := RoundTrip.event rfl

theorem RoundTrip.boot (imgs : List BootImage) : RoundTrip.Statement (.boot imgs) := RoundTrip.event rfl

theorem RoundTrip.inval : RoundTrip.Statement (.inval) := RoundTrip.event rfl

theorem RoundTrip.resv : RoundTrip.Statement (.resv) := RoundTrip.event rfl

theorem RoundTrip.cmap : RoundTrip.Statement (.cmap) := RoundTrip.event rfl

theorem RoundTrip.grpalloc : RoundTrip.Statement (.grpalloc) := RoundTrip.event rfl

theorem RoundTrip.grpfree : RoundTrip.Statement (.grpfree) := RoundTrip.event rfl

theorem RoundTrip.spill : RoundTrip.Statement (.spill) := RoundTrip.event rfl

theorem RoundTrip.bnd : RoundTrip.Statement (.bnd) := RoundTrip.event rfl

theorem RoundTrip.snapRequest : RoundTrip.Statement (.snapRequest) := RoundTrip.event rfl

theorem RoundTrip.attest : RoundTrip.Statement (.attest) := RoundTrip.event rfl

theorem RoundTrip.status : RoundTrip.Statement (.status) := RoundTrip.event rfl

theorem RoundTrip.ras : RoundTrip.Statement (.ras) := RoundTrip.event rfl

theorem RoundTrip.requestBadarg : RoundTrip.Statement (.requestBadarg) := RoundTrip.event rfl

theorem RoundTrip.illegalInstruction (reason : BitVec 8) (w0 : BitVec 32) : RoundTrip.Statement (.illegalInstruction reason w0) := RoundTrip.event rfl

theorem RoundTrip.fetchBound : RoundTrip.Statement (.fetchBound) := RoundTrip.event rfl

theorem RoundTrip.queueReset (queue : Nat) : RoundTrip.Statement (.queueReset queue) := RoundTrip.event rfl

theorem RoundTrip.rdmaWrite (port : Nat) (ctxid : Nat) (va : W64) (data : List Byte) : RoundTrip.Statement (.rdmaWrite port ctxid va data) := RoundTrip.event rfl

theorem RoundTrip.cxlWrite (port : Nat) (ctxid : Nat) (va : W64) (data : List Byte) : RoundTrip.Statement (.cxlWrite port ctxid va data) := RoundTrip.event rfl

theorem RoundTrip.msgRetry (core : Nat) (thr : Nat) : RoundTrip.Statement (.msgRetry core thr) := RoundTrip.event rfl

theorem RoundTrip.vadd (ty : Ty) (rm : Rm) (sat : Bool) (vd : VReg) (va : VReg) (vb : VReg) (mk : MReg) : RoundTrip.Statement (.vadd ty rm sat vd va vb mk) := fun hw _ => by
  simp only [Instr.wf, Bool.and_eq_true] at hw
  obtain ⟨⟨h0, h1⟩, h2⟩ := hw
  exact decode_encX (.inl rfl) (row_plain (and_ok (and_ok (and_ok (and_ok (and_ok (and_ok (and_ok (vOk_vField _) (vOk_vField _)) (vOk_vField _)) rfl) rfl) rfl) (rm_float h0 h1)) (sat_in h0 h2)) (and_ok (ty_plain h0) (rm_known _)) (by simp only [X.ty, Ty.ofBits_toBits, Option.getD_some, X.rm, Rm.ofBits_toBits, X.vd, vField_low, X.va, X.vb, X.msel, X.fb, flag_get]))

theorem RoundTrip.vsub (ty : Ty) (rm : Rm) (sat : Bool) (vd : VReg) (va : VReg) (vb : VReg) (mk : MReg) : RoundTrip.Statement (.vsub ty rm sat vd va vb mk) := fun hw _ => by
  simp only [Instr.wf, Bool.and_eq_true] at hw
  obtain ⟨⟨h0, h1⟩, h2⟩ := hw
  exact decode_encX (.inl rfl) (row_plain (and_ok (and_ok (and_ok (and_ok (and_ok (and_ok (and_ok (vOk_vField _) (vOk_vField _)) (vOk_vField _)) rfl) rfl) rfl) (rm_float h0 h1)) (sat_in h0 h2)) (and_ok (ty_plain h0) (rm_known _)) (by simp only [X.ty, Ty.ofBits_toBits, Option.getD_some, X.rm, Rm.ofBits_toBits, X.vd, vField_low, X.va, X.vb, X.msel, X.fb, flag_get]))

theorem RoundTrip.vmul (ty : Ty) (rm : Rm) (sat : Bool) (vd : VReg) (va : VReg) (vb : VReg) (mk : MReg) : RoundTrip.Statement (.vmul ty rm sat vd va vb mk) := fun hw _ => by
  simp only [Instr.wf, Bool.and_eq_true] at hw
  obtain ⟨⟨h0, h1⟩, h2⟩ := hw
  exact decode_encX (.inl rfl) (row_plain (and_ok (and_ok (and_ok (and_ok (and_ok (and_ok (and_ok (vOk_vField _) (vOk_vField _)) (vOk_vField _)) rfl) rfl) rfl) (rm_float h0 h1)) (sat_in h0 h2)) (and_ok (ty_plain h0) (rm_known _)) (by simp only [X.ty, Ty.ofBits_toBits, Option.getD_some, X.rm, Rm.ofBits_toBits, X.vd, vField_low, X.va, X.vb, X.msel, X.fb, flag_get]))

theorem RoundTrip.vfma (ty : Ty) (rm : Rm) (sat : Bool) (vd : VReg) (va : VReg) (vb : VReg) (vc : VReg) (mk : MReg) : RoundTrip.Statement (.vfma ty rm sat vd va vb vc mk) := fun hw _ => by
  simp only [Instr.wf, Bool.and_eq_true] at hw
  obtain ⟨⟨h0, h1⟩, h2⟩ := hw
  exact decode_encX (.inl rfl) (row_plain (and_ok (and_ok (and_ok (and_ok (and_ok (and_ok (and_ok (vOk_vField _) (vOk_vField _)) (vOk_vField _)) (vOk_vField _)) rfl) rfl) (rm_float h0 h1)) (sat_in h0 h2)) (and_ok (ty_plain h0) (rm_known _)) (by simp only [X.ty, Ty.ofBits_toBits, Option.getD_some, X.rm, Rm.ofBits_toBits, X.vd, vField_low, X.va, X.vb, X.vc, X.msel, X.fb, flag_get]))

theorem RoundTrip.vfms (ty : Ty) (rm : Rm) (sat : Bool) (vd : VReg) (va : VReg) (vb : VReg) (vc : VReg) (mk : MReg) : RoundTrip.Statement (.vfms ty rm sat vd va vb vc mk) := fun hw _ => by
  simp only [Instr.wf, Bool.and_eq_true] at hw
  obtain ⟨⟨h0, h1⟩, h2⟩ := hw
  exact decode_encX (.inl rfl) (row_plain (and_ok (and_ok (and_ok (and_ok (and_ok (and_ok (and_ok (vOk_vField _) (vOk_vField _)) (vOk_vField _)) (vOk_vField _)) rfl) rfl) (rm_float h0 h1)) (sat_in h0 h2)) (and_ok (ty_plain h0) (rm_known _)) (by simp only [X.ty, Ty.ofBits_toBits, Option.getD_some, X.rm, Rm.ofBits_toBits, X.vd, vField_low, X.va, X.vb, X.vc, X.msel, X.fb, flag_get]))

theorem RoundTrip.vmin (ty : Ty) (vd : VReg) (va : VReg) (vb : VReg) (mk : MReg) : RoundTrip.Statement (.vmin ty vd va vb mk) := fun hw _ => by
  have h0 := hw
  exact decode_encX (.inl rfl) (row_plain (and_ok (and_ok (and_ok (and_ok (and_ok (and_ok (and_ok (vOk_vField _) (vOk_vField _)) (vOk_vField _)) rfl) rfl) rfl) rfl) fl_none) (ty_plain h0) (by simp only [X.ty, Ty.ofBits_toBits, Option.getD_some, X.vd, vField_low, X.va, X.vb, X.msel]))

theorem RoundTrip.vmax (ty : Ty) (vd : VReg) (va : VReg) (vb : VReg) (mk : MReg) : RoundTrip.Statement (.vmax ty vd va vb mk) := fun hw _ => by
  have h0 := hw
  exact decode_encX (.inl rfl) (row_plain (and_ok (and_ok (and_ok (and_ok (and_ok (and_ok (and_ok (vOk_vField _) (vOk_vField _)) (vOk_vField _)) rfl) rfl) rfl) rfl) fl_none) (ty_plain h0) (by simp only [X.ty, Ty.ofBits_toBits, Option.getD_some, X.vd, vField_low, X.va, X.vb, X.msel]))

theorem RoundTrip.vabs (ty : Ty) (sat : Bool) (vd : VReg) (va : VReg) (mk : MReg) : RoundTrip.Statement (.vabs ty sat vd va mk) := fun hw _ => by
  simp only [Instr.wf, Bool.and_eq_true] at hw
  obtain ⟨h0, h1⟩ := hw
  exact decode_encX (.inl rfl) (row_plain (and_ok (and_ok (and_ok (and_ok (and_ok (and_ok (and_ok (vOk_vField _) (vOk_vField _)) rfl) rfl) rfl) rfl) rfl) (sat_neg h0 h1)) (ty_neg h0) (by simp only [X.ty, Ty.ofBits_toBits, Option.getD_some, X.vd, vField_low, X.va, X.msel, X.fb, flag_get]))

theorem RoundTrip.vneg (ty : Ty) (sat : Bool) (vd : VReg) (va : VReg) (mk : MReg) : RoundTrip.Statement (.vneg ty sat vd va mk) := fun hw _ => by
  simp only [Instr.wf, Bool.and_eq_true] at hw
  obtain ⟨h0, h1⟩ := hw
  exact decode_encX (.inl rfl) (row_plain (and_ok (and_ok (and_ok (and_ok (and_ok (and_ok (and_ok (vOk_vField _) (vOk_vField _)) rfl) rfl) rfl) rfl) rfl) (sat_neg h0 h1)) (ty_neg h0) (by simp only [X.ty, Ty.ofBits_toBits, Option.getD_some, X.vd, vField_low, X.va, X.msel, X.fb, flag_get]))

theorem RoundTrip.vrcp (rm : Rm) (vd : VReg) (va : VReg) (mk : MReg) : RoundTrip.Statement (.vrcp rm vd va mk) := fun _ _ => by
  exact decode_encX (.inl rfl) (row_plain (and_ok (and_ok (and_ok (and_ok (and_ok (and_ok (and_ok (vOk_vField _) (vOk_vField _)) rfl) rfl) rfl) rfl) rfl) fl_none) (and_ok rfl (rm_known _)) (by simp only [X.rm, Rm.ofBits_toBits, Option.getD_some, X.vd, vField_low, X.va, X.msel]))

theorem RoundTrip.vrsq (rm : Rm) (vd : VReg) (va : VReg) (mk : MReg) : RoundTrip.Statement (.vrsq rm vd va mk) := fun _ _ => by
  exact decode_encX (.inl rfl) (row_plain (and_ok (and_ok (and_ok (and_ok (and_ok (and_ok (and_ok (vOk_vField _) (vOk_vField _)) rfl) rfl) rfl) rfl) rfl) fl_none) (and_ok rfl (rm_known _)) (by simp only [X.rm, Rm.ofBits_toBits, Option.getD_some, X.vd, vField_low, X.va, X.msel]))

theorem RoundTrip.vsqrt (rm : Rm) (vd : VReg) (va : VReg) (mk : MReg) : RoundTrip.Statement (.vsqrt rm vd va mk) := fun _ _ => by
  exact decode_encX (.inl rfl) (row_plain (and_ok (and_ok (and_ok (and_ok (and_ok (and_ok (and_ok (vOk_vField _) (vOk_vField _)) rfl) rfl) rfl) rfl) rfl) fl_none) (and_ok rfl (rm_known _)) (by simp only [X.rm, Rm.ofBits_toBits, Option.getD_some, X.vd, vField_low, X.va, X.msel]))

theorem RoundTrip.vexp2 (rm : Rm) (vd : VReg) (va : VReg) (mk : MReg) : RoundTrip.Statement (.vexp2 rm vd va mk) := fun _ _ => by
  exact decode_encX (.inl rfl) (row_plain (and_ok (and_ok (and_ok (and_ok (and_ok (and_ok (and_ok (vOk_vField _) (vOk_vField _)) rfl) rfl) rfl) rfl) rfl) fl_none) (and_ok rfl (rm_known _)) (by simp only [X.rm, Rm.ofBits_toBits, Option.getD_some, X.vd, vField_low, X.va, X.msel]))

theorem RoundTrip.vlog2 (rm : Rm) (vd : VReg) (va : VReg) (mk : MReg) : RoundTrip.Statement (.vlog2 rm vd va mk) := fun _ _ => by
  exact decode_encX (.inl rfl) (row_plain (and_ok (and_ok (and_ok (and_ok (and_ok (and_ok (and_ok (vOk_vField _) (vOk_vField _)) rfl) rfl) rfl) rfl) rfl) fl_none) (and_ok rfl (rm_known _)) (by simp only [X.rm, Rm.ofBits_toBits, Option.getD_some, X.vd, vField_low, X.va, X.msel]))

theorem RoundTrip.vcmpeq (ty : Ty) (md : MReg) (va : VReg) (vb : VReg) (mk : MReg) : RoundTrip.Statement (.vcmpeq ty md va vb mk) := fun hw _ => by
  have h0 := hw
  exact decode_encX (.inl rfl) (row_plain (and_ok (and_ok (and_ok (and_ok (and_ok (and_ok (and_ok (mOk_mField _) (vOk_vField _)) (vOk_vField _)) rfl) rfl) rfl) rfl) fl_none) (ty_word h0) (by simp only [X.ty, Ty.ofBits_toBits, Option.getD_some, X.va, vField_low, X.vb, X.md, mField_low, X.msel]))

theorem RoundTrip.vcmplt (ty : Ty) (md : MReg) (va : VReg) (vb : VReg) (mk : MReg) : RoundTrip.Statement (.vcmplt ty md va vb mk) := fun hw _ => by
  have h0 := hw
  exact decode_encX (.inl rfl) (row_plain (and_ok (and_ok (and_ok (and_ok (and_ok (and_ok (and_ok (mOk_mField _) (vOk_vField _)) (vOk_vField _)) rfl) rfl) rfl) rfl) fl_none) (ty_word h0) (by simp only [X.ty, Ty.ofBits_toBits, Option.getD_some, X.va, vField_low, X.vb, X.md, mField_low, X.msel]))

theorem RoundTrip.vcmple (ty : Ty) (md : MReg) (va : VReg) (vb : VReg) (mk : MReg) : RoundTrip.Statement (.vcmple ty md va vb mk) := fun hw _ => by
  have h0 := hw
  exact decode_encX (.inl rfl) (row_plain (and_ok (and_ok (and_ok (and_ok (and_ok (and_ok (and_ok (mOk_mField _) (vOk_vField _)) (vOk_vField _)) rfl) rfl) rfl) rfl) fl_none) (ty_word h0) (by simp only [X.ty, Ty.ofBits_toBits, Option.getD_some, X.va, vField_low, X.vb, X.md, mField_low, X.msel]))

theorem RoundTrip.vsel (vd : VReg) (va : VReg) (vb : VReg) (mk : MReg) : RoundTrip.Statement (.vsel vd va vb mk) := fun _ _ => by
  exact decode_encX (.inl rfl) (row_plain (and_ok (and_ok (and_ok (and_ok (and_ok (and_ok (and_ok (and_ok (vOk_vField _) (vOk_vField _)) (vOk_vField _)) rfl) rfl) rfl) rfl) rfl) fl_none) rfl (by simp only [X.vd, vField_low, X.va, X.vb, X.msel]))

theorem RoundTrip.vand (vd : VReg) (va : VReg) (vb : VReg) (mk : MReg) : RoundTrip.Statement (.vand vd va vb mk) := fun _ _ => by
  exact decode_encX (.inl rfl) (row_plain (and_ok (and_ok (and_ok (and_ok (and_ok (and_ok (and_ok (and_ok (vOk_vField _) (vOk_vField _)) (vOk_vField _)) rfl) rfl) rfl) rfl) rfl) fl_none) rfl (by simp only [X.vd, vField_low, X.va, X.vb, X.msel]))

theorem RoundTrip.vor (vd : VReg) (va : VReg) (vb : VReg) (mk : MReg) : RoundTrip.Statement (.vor vd va vb mk) := fun _ _ => by
  exact decode_encX (.inl rfl) (row_plain (and_ok (and_ok (and_ok (and_ok (and_ok (and_ok (and_ok (and_ok (vOk_vField _) (vOk_vField _)) (vOk_vField _)) rfl) rfl) rfl) rfl) rfl) fl_none) rfl (by simp only [X.vd, vField_low, X.va, X.vb, X.msel]))

theorem RoundTrip.vxor (vd : VReg) (va : VReg) (vb : VReg) (mk : MReg) : RoundTrip.Statement (.vxor vd va vb mk) := fun _ _ => by
  exact decode_encX (.inl rfl) (row_plain (and_ok (and_ok (and_ok (and_ok (and_ok (and_ok (and_ok (and_ok (vOk_vField _) (vOk_vField _)) (vOk_vField _)) rfl) rfl) rfl) rfl) rfl) fl_none) rfl (by simp only [X.vd, vField_low, X.va, X.vb, X.msel]))

theorem RoundTrip.vshl (ty : Ty) (vd : VReg) (va : VReg) (vb : VReg) (mk : MReg) : RoundTrip.Statement (.vshl ty vd va vb mk) := fun hw _ => by
  have h0 := hw
  exact decode_encX (.inl rfl) (row_plain (and_ok (and_ok (and_ok (and_ok (and_ok (and_ok (and_ok (vOk_vField _) (vOk_vField _)) (vOk_vField _)) rfl) rfl) rfl) rfl) fl_none) (ty_int h0) (by simp only [X.ty, Ty.ofBits_toBits, Option.getD_some, X.vd, vField_low, X.va, X.vb, X.msel]))

theorem RoundTrip.vshr (ty : Ty) (vd : VReg) (va : VReg) (vb : VReg) (mk : MReg) : RoundTrip.Statement (.vshr ty vd va vb mk) := fun hw _ => by
  have h0 := hw
  exact decode_encX (.inl rfl) (row_plain (and_ok (and_ok (and_ok (and_ok (and_ok (and_ok (and_ok (vOk_vField _) (vOk_vField _)) (vOk_vField _)) rfl) rfl) rfl) rfl) fl_none) (ty_int h0) (by simp only [X.ty, Ty.ofBits_toBits, Option.getD_some, X.vd, vField_low, X.va, X.vb, X.msel]))

theorem RoundTrip.vsra (ty : Ty) (vd : VReg) (va : VReg) (vb : VReg) (mk : MReg) : RoundTrip.Statement (.vsra ty vd va vb mk) := fun hw _ => by
  have h0 := hw
  exact decode_encX (.inl rfl) (row_plain (and_ok (and_ok (and_ok (and_ok (and_ok (and_ok (and_ok (vOk_vField _) (vOk_vField _)) (vOk_vField _)) rfl) rfl) rfl) rfl) fl_none) (ty_signed h0) (by simp only [X.ty, Ty.ofBits_toBits, Option.getD_some, X.vd, vField_low, X.va, X.vb, X.msel]))

theorem RoundTrip.vcvt (dst : Ty) (src : Ty) (rm : Rm) (p : BitVec 2) (vd : VReg) (va : VReg) (mk : MReg) : RoundTrip.Statement (.vcvt dst src rm p vd va mk) := fun hw _ => by
  simp only [Instr.wf, Bool.and_eq_true] at hw
  obtain ⟨⟨⟨h0, h1⟩, h2⟩, h3⟩ := hw
  exact decode_encX (.inl rfl) (row_plain (and_ok (and_ok (and_ok (and_ok (and_ok (and_ok (and_ok (vOk_vField _) (vOk_vField _)) rfl) rfl) (src_high _)) rfl) (cvt_rm h0 h1 rfl rfl rfl h2)) (cvt_fl h0 h1 rfl rfl rfl h3)) (and_ok (and_ok (ty_plain h0) (rm_known _)) (cvt_known h0 h1 rfl rfl).2.1) (by simp only [X.ty, Ty.ofBits_toBits, Option.getD_some, X.rm, Rm.ofBits_toBits, X.src, src_low, X.vd, vField_low, X.va, X.p2, p2_get, X.msel]))

theorem RoundTrip.vmov (vd : VReg) (va : VReg) (mk : MReg) : RoundTrip.Statement (.vmov vd va mk) := fun _ _ => by
  exact decode_encX (.inl rfl) (row_plain (and_ok (and_ok (and_ok (and_ok (and_ok (and_ok (and_ok (and_ok (vOk_vField _) (vOk_vField _)) rfl) rfl) rfl) rfl) rfl) rfl) fl_none) rfl (by simp only [X.vd, vField_low, X.va, X.msel]))

theorem RoundTrip.vbcst (ty : Ty) (vd : VReg) (ra : SReg) (imm : BitVec 32) (mk : MReg) : RoundTrip.Statement (.vbcst ty vd ra imm mk) := fun hw _ => by
  have h0 := hw
  exact decode_encX (.inl rfl) (row_both (and_ok (and_ok (and_ok (and_ok (and_ok (vOk_vField _) rfl) rfl) rfl) rfl) fl_none) (ty_plain h0) (by simp only [X.ty, Ty.ofBits_toBits, Option.getD_some, X.vd, vField_low, X.msel]))

theorem RoundTrip.vbcstLit (ty : Ty) (vd : VReg) (ra : SReg) (lit : W64) (mk : MReg) : RoundTrip.Statement (.vbcstLit ty vd ra lit mk) := fun hw _ => by
  have h0 := hw
  exact decode_encXLit (.inl rfl) (row_lit (and_ok (and_ok (and_ok (and_ok (and_ok (vOk_vField _) rfl) rfl) rfl) rfl) fl_none) rfl (ty_plain h0) (by simp only [X.ty, Ty.ofBits_toBits, Option.getD_some, X.vd, vField_low, X.msel]))

theorem RoundTrip.vext (ty : Ty) (rd : SReg) (va : VReg) (rb : SReg) : RoundTrip.Statement (.vext ty rd va rb) := fun hw _ => by
  have h0 := hw
  exact decode_encX (.inl rfl) (row_plain (and_ok (and_ok (and_ok (and_ok (and_ok (and_ok (vOk_vField _) rfl) rfl) rfl) rfl) rfl) fl_none) (ty_plain h0) (by simp only [X.ty, Ty.ofBits_toBits, Option.getD_some, X.va, vField_low]))

theorem RoundTrip.vins (ty : Ty) (vd : VReg) (ra : SReg) (rb : SReg) : RoundTrip.Statement (.vins ty vd ra rb) := fun hw _ => by
  have h0 := hw
  exact decode_encX (.inl rfl) (row_plain (and_ok (and_ok (and_ok (and_ok (and_ok (and_ok (vOk_vField _) rfl) rfl) rfl) rfl) rfl) fl_none) (ty_plain h0) (by simp only [X.ty, Ty.ofBits_toBits, Option.getD_some, X.vd, vField_low]))

theorem RoundTrip.viota (ty : Ty) (vd : VReg) (mk : MReg) : RoundTrip.Statement (.viota ty vd mk) := fun hw _ => by
  have h0 := hw
  exact decode_encX (.inl rfl) (row_plain (and_ok (and_ok (and_ok (and_ok (and_ok (and_ok (and_ok (vOk_vField _) rfl) rfl) rfl) rfl) rfl) rfl) fl_none) (ty_iota h0) (by simp only [X.ty, Ty.ofBits_toBits, Option.getD_some, X.vd, vField_low, X.msel]))

theorem RoundTrip.vperm (ty : Ty) (vd : VReg) (va : VReg) (vb : VReg) (mk : MReg) : RoundTrip.Statement (.vperm ty vd va vb mk) := fun hw _ => by
  have h0 := hw
  exact decode_encX (.inl rfl) (row_plain (and_ok (and_ok (and_ok (and_ok (and_ok (and_ok (and_ok (vOk_vField _) (vOk_vField _)) (vOk_vField _)) rfl) rfl) rfl) rfl) fl_none) (ty_plain h0) (by simp only [X.ty, Ty.ofBits_toBits, Option.getD_some, X.vd, vField_low, X.va, X.vb, X.msel]))

theorem RoundTrip.vredadd (ty : Ty) (rm : Rm) (vd : VReg) (va : VReg) (mk : MReg) : RoundTrip.Statement (.vredadd ty rm vd va mk) := fun hw _ => by
  simp only [Instr.wf, Bool.and_eq_true] at hw
  obtain ⟨h0, h1⟩ := hw
  exact decode_encX (.inl rfl) (row_plain (and_ok (and_ok (and_ok (and_ok (and_ok (and_ok (and_ok (vOk_vField _) (vOk_vField _)) rfl) rfl) rfl) rfl) (rm_float h0 h1)) fl_none) (and_ok (ty_plain h0) (rm_known _)) (by simp only [X.ty, Ty.ofBits_toBits, Option.getD_some, X.rm, Rm.ofBits_toBits, X.vd, vField_low, X.va, X.msel]))

theorem RoundTrip.vredmax (ty : Ty) (vd : VReg) (va : VReg) (mk : MReg) : RoundTrip.Statement (.vredmax ty vd va mk) := fun hw _ => by
  have h0 := hw
  exact decode_encX (.inl rfl) (row_plain (and_ok (and_ok (and_ok (and_ok (and_ok (and_ok (and_ok (vOk_vField _) (vOk_vField _)) rfl) rfl) rfl) rfl) rfl) fl_none) (ty_plain h0) (by simp only [X.ty, Ty.ofBits_toBits, Option.getD_some, X.vd, vField_low, X.va, X.msel]))

theorem RoundTrip.vredmin (ty : Ty) (vd : VReg) (va : VReg) (mk : MReg) : RoundTrip.Statement (.vredmin ty vd va mk) := fun hw _ => by
  have h0 := hw
  exact decode_encX (.inl rfl) (row_plain (and_ok (and_ok (and_ok (and_ok (and_ok (and_ok (and_ok (vOk_vField _) (vOk_vField _)) rfl) rfl) rfl) rfl) rfl) fl_none) (ty_plain h0) (by simp only [X.ty, Ty.ofBits_toBits, Option.getD_some, X.vd, vField_low, X.va, X.msel]))

theorem RoundTrip.vscan (ty : Ty) (rm : Rm) (vd : VReg) (va : VReg) (mk : MReg) : RoundTrip.Statement (.vscan ty rm vd va mk) := fun hw _ => by
  simp only [Instr.wf, Bool.and_eq_true] at hw
  obtain ⟨h0, h1⟩ := hw
  exact decode_encX (.inl rfl) (row_plain (and_ok (and_ok (and_ok (and_ok (and_ok (and_ok (and_ok (vOk_vField _) (vOk_vField _)) rfl) rfl) rfl) rfl) (rm_word h0 h1)) fl_none) (and_ok (ty_word h0) (rm_known _)) (by simp only [X.ty, Ty.ofBits_toBits, Option.getD_some, X.rm, Rm.ofBits_toBits, X.vd, vField_low, X.va, X.msel]))

theorem RoundTrip.vld (sh : Bool) (vd : VReg) (ra : SReg) (imm : BitVec 32) (mk : MReg) : RoundTrip.Statement (.vld sh vd ra imm mk) := fun _ _ => by
  exact decode_encX (.inl rfl) (row_both (and_ok (and_ok (and_ok (and_ok (and_ok (and_ok (vOk_vField _) rfl) rfl) rfl) rfl) rfl) (flag_in _)) rfl (by simp only [X.vd, vField_low, X.msel, X.fb, flag_get]))

theorem RoundTrip.vldLit (sh : Bool) (vd : VReg) (ra : SReg) (lit : W64) (mk : MReg) : RoundTrip.Statement (.vldLit sh vd ra lit mk) := fun _ _ => by
  exact decode_encXLit (.inl rfl) (row_lit (and_ok (and_ok (and_ok (and_ok (and_ok (and_ok (vOk_vField _) rfl) rfl) rfl) rfl) rfl) (flag_in _)) rfl rfl (by simp only [X.vd, vField_low, X.msel, X.fb, flag_get]))

theorem RoundTrip.vst (sh : Bool) (vs : VReg) (ra : SReg) (imm : BitVec 32) (mk : MReg) : RoundTrip.Statement (.vst sh vs ra imm mk) := fun _ _ => by
  exact decode_encX (.inl rfl) (row_both (and_ok (and_ok (and_ok (and_ok (and_ok (and_ok (vOk_vField _) rfl) rfl) rfl) rfl) rfl) (flag_in _)) rfl (by simp only [X.vd, vField_low, X.msel, X.fb, flag_get]))

theorem RoundTrip.vstLit (sh : Bool) (vs : VReg) (ra : SReg) (lit : W64) (mk : MReg) : RoundTrip.Statement (.vstLit sh vs ra lit mk) := fun _ _ => by
  exact decode_encXLit (.inl rfl) (row_lit (and_ok (and_ok (and_ok (and_ok (and_ok (and_ok (vOk_vField _) rfl) rfl) rfl) rfl) rfl) (flag_in _)) rfl rfl (by simp only [X.vd, vField_low, X.msel, X.fb, flag_get]))

theorem RoundTrip.vlds (sh : Bool) (vd : VReg) (ra : SReg) (rb : SReg) (imm : BitVec 32) (mk : MReg) : RoundTrip.Statement (.vlds sh vd ra rb imm mk) := fun _ _ => by
  exact decode_encX (.inl rfl) (row_both (and_ok (and_ok (and_ok (and_ok (and_ok (vOk_vField _) rfl) rfl) rfl) rfl) (flag_in _)) rfl (by simp only [X.vd, vField_low, X.msel, X.fb, flag_get]))

theorem RoundTrip.vldsLit (sh : Bool) (vd : VReg) (ra : SReg) (rb : SReg) (lit : W64) (mk : MReg) : RoundTrip.Statement (.vldsLit sh vd ra rb lit mk) := fun _ _ => by
  exact decode_encXLit (.inl rfl) (row_lit (and_ok (and_ok (and_ok (and_ok (and_ok (vOk_vField _) rfl) rfl) rfl) rfl) (flag_in _)) rfl rfl (by simp only [X.vd, vField_low, X.msel, X.fb, flag_get]))

theorem RoundTrip.vsts (sh : Bool) (vs : VReg) (ra : SReg) (rb : SReg) (imm : BitVec 32) (mk : MReg) : RoundTrip.Statement (.vsts sh vs ra rb imm mk) := fun _ _ => by
  exact decode_encX (.inl rfl) (row_both (and_ok (and_ok (and_ok (and_ok (and_ok (vOk_vField _) rfl) rfl) rfl) rfl) (flag_in _)) rfl (by simp only [X.vd, vField_low, X.msel, X.fb, flag_get]))

theorem RoundTrip.vstsLit (sh : Bool) (vs : VReg) (ra : SReg) (rb : SReg) (lit : W64) (mk : MReg) : RoundTrip.Statement (.vstsLit sh vs ra rb lit mk) := fun _ _ => by
  exact decode_encXLit (.inl rfl) (row_lit (and_ok (and_ok (and_ok (and_ok (and_ok (vOk_vField _) rfl) rfl) rfl) rfl) (flag_in _)) rfl rfl (by simp only [X.vd, vField_low, X.msel, X.fb, flag_get]))

theorem RoundTrip.vgth (sh : Bool) (vd : VReg) (ra : SReg) (vb : VReg) (imm : BitVec 32) (mk : MReg) : RoundTrip.Statement (.vgth sh vd ra vb imm mk) := fun _ _ => by
  exact decode_encX (.inl rfl) (row_both (and_ok (and_ok (and_ok (and_ok (and_ok (and_ok (vOk_vField _) (vOk_vField _)) rfl) rfl) rfl) rfl) (flag_in _)) rfl (by simp only [X.vd, vField_low, X.vb, X.msel, X.fb, flag_get]))

theorem RoundTrip.vgthLit (sh : Bool) (vd : VReg) (ra : SReg) (vb : VReg) (lit : W64) (mk : MReg) : RoundTrip.Statement (.vgthLit sh vd ra vb lit mk) := fun _ _ => by
  exact decode_encXLit (.inl rfl) (row_lit (and_ok (and_ok (and_ok (and_ok (and_ok (and_ok (vOk_vField _) (vOk_vField _)) rfl) rfl) rfl) rfl) (flag_in _)) rfl rfl (by simp only [X.vd, vField_low, X.vb, X.msel, X.fb, flag_get]))

theorem RoundTrip.vsct (sh : Bool) (vs : VReg) (ra : SReg) (vb : VReg) (imm : BitVec 32) (mk : MReg) : RoundTrip.Statement (.vsct sh vs ra vb imm mk) := fun _ _ => by
  exact decode_encX (.inl rfl) (row_both (and_ok (and_ok (and_ok (and_ok (and_ok (and_ok (vOk_vField _) (vOk_vField _)) rfl) rfl) rfl) rfl) (flag_in _)) rfl (by simp only [X.vd, vField_low, X.vb, X.msel, X.fb, flag_get]))

theorem RoundTrip.vsctLit (sh : Bool) (vs : VReg) (ra : SReg) (vb : VReg) (lit : W64) (mk : MReg) : RoundTrip.Statement (.vsctLit sh vs ra vb lit mk) := fun _ _ => by
  exact decode_encXLit (.inl rfl) (row_lit (and_ok (and_ok (and_ok (and_ok (and_ok (and_ok (vOk_vField _) (vOk_vField _)) rfl) rfl) rfl) rfl) (flag_in _)) rfl rfl (by simp only [X.vd, vField_low, X.vb, X.msel, X.fb, flag_get]))

theorem RoundTrip.vdq (ty : Ty) (p : BitVec 3) (vd : VReg) (va : VReg) (rb : SReg) (mk : MReg) : RoundTrip.Statement (.vdq ty p vd va rb mk) := fun hw _ => by
  simp only [Instr.wf, Bool.and_eq_true] at hw
  obtain ⟨h0, h1⟩ := hw
  exact decode_encX (.inl rfl) (row_plain (and_ok (and_ok (and_ok (and_ok (and_ok (and_ok (vOk_vField _) (vOk_vField _)) rfl) rfl) rfl) rfl) (block_in h0 h1)) (ty_block h0) (by simp only [X.ty, Ty.ofBits_toBits, Option.getD_some, X.vd, vField_low, X.va, X.p3, p3_get, X.msel]))

theorem RoundTrip.vqnt (ty : Ty) (rm : Rm) (p : BitVec 3) (vd : VReg) (va : VReg) (rb : SReg) (mk : MReg) : RoundTrip.Statement (.vqnt ty rm p vd va rb mk) := fun hw _ => by
  simp only [Instr.wf, Bool.and_eq_true] at hw
  obtain ⟨⟨h0, h1⟩, h2⟩ := hw
  exact decode_encX (.inl rfl) (row_plain (and_ok (and_ok (and_ok (and_ok (and_ok (and_ok (vOk_vField _) (vOk_vField _)) rfl) rfl) rfl) (rm_quant h2)) (block_in h0 h1)) (and_ok (ty_block h0) (rm_known _)) (by simp only [X.ty, Ty.ofBits_toBits, Option.getD_some, X.rm, Rm.ofBits_toBits, X.vd, vField_low, X.va, X.p3, p3_get, X.msel]))

theorem RoundTrip.vhist (vd : VReg) (va : VReg) (mk : MReg) : RoundTrip.Statement (.vhist vd va mk) := fun _ _ => by
  exact decode_encX (.inl rfl) (row_plain (and_ok (and_ok (and_ok (and_ok (and_ok (and_ok (and_ok (and_ok (vOk_vField _) (vOk_vField _)) rfl) rfl) rfl) rfl) rfl) rfl) fl_none) rfl (by simp only [X.vd, vField_low, X.va, X.msel]))

theorem RoundTrip.vscale (ty : Ty) (rd : SReg) (va : VReg) (rb : SReg) : RoundTrip.Statement (.vscale ty rd va rb) := fun hw _ => by
  have h0 := hw
  exact decode_encX (.inl rfl) (row_plain (and_ok (and_ok (and_ok (and_ok (and_ok (and_ok (vOk_vField _) rfl) rfl) rfl) rfl) rfl) fl_none) (ty_block h0) (by simp only [X.ty, Ty.ofBits_toBits, Option.getD_some, X.va, vField_low]))

theorem RoundTrip.kand (md : MReg) (ma : MReg) (mb : MReg) : RoundTrip.Statement (.kand md ma mb) := fun _ _ => by
  exact decode_encX (.inl rfl) (row_plain (and_ok (and_ok (and_ok (and_ok (and_ok (and_ok (and_ok (and_ok (and_ok (mOk_mField _) (mOk_mField _)) (mOk_mField _)) rfl) rfl) rfl) rfl) rfl) rfl) fl_none) rfl (by simp only [X.md, mField_low, X.ma, X.mb]))

theorem RoundTrip.kor (md : MReg) (ma : MReg) (mb : MReg) : RoundTrip.Statement (.kor md ma mb) := fun _ _ => by
  exact decode_encX (.inl rfl) (row_plain (and_ok (and_ok (and_ok (and_ok (and_ok (and_ok (and_ok (and_ok (and_ok (mOk_mField _) (mOk_mField _)) (mOk_mField _)) rfl) rfl) rfl) rfl) rfl) rfl) fl_none) rfl (by simp only [X.md, mField_low, X.ma, X.mb]))

theorem RoundTrip.knot (md : MReg) (ma : MReg) : RoundTrip.Statement (.knot md ma) := fun _ _ => by
  exact decode_encX (.inl rfl) (row_plain (and_ok (and_ok (and_ok (and_ok (and_ok (and_ok (and_ok (and_ok (and_ok (mOk_mField _) (mOk_mField _)) rfl) rfl) rfl) rfl) rfl) rfl) rfl) fl_none) rfl (by simp only [X.md, mField_low, X.ma]))

theorem RoundTrip.kpop (rd : SReg) (ma : MReg) : RoundTrip.Statement (.kpop rd ma) := fun _ _ => by
  exact decode_encX (.inl rfl) (row_plain (and_ok (and_ok (and_ok (and_ok (and_ok (and_ok (and_ok (and_ok (mOk_mField _) rfl) rfl) rfl) rfl) rfl) rfl) rfl) fl_none) rfl (by simp only [X.ma, mField_low]))

theorem RoundTrip.mwld (ty : Ty) (ra : SReg) (kr : BitVec 8) (n1 : BitVec 7) (sup : BitVec 32) : RoundTrip.Statement (.mwld ty ra kr n1 sup) := fun hw _ => by
  simp only [Instr.wf, Bool.and_eq_true] at hw
  obtain ⟨h0, h1⟩ := hw
  exact decode_encX (.inr rfl) (row_plain (and_ok (and_ok (and_ok (and_ok (and_ok (and_ok rfl rfl) rfl) rfl) rfl) (sup_zero h1)) (n1_in _)) (ty_weight h0) (by simp only [X.ty, Ty.ofBits_toBits, Option.getD_some, n1_get]))

theorem RoundTrip.mma (v : Bool) (ty : Ty) (td : TReg) (ra : SReg) (rows : BitVec 8) (trow : BitVec 32) : RoundTrip.Statement (.mma v ty td ra rows trow) := fun hw _ => by
  simp only [Instr.wf, Bool.and_eq_true] at hw
  obtain ⟨h0, h1⟩ := hw
  exact decode_encX (.inr rfl) (row_plain (and_ok (and_ok (and_ok (and_ok (and_ok (and_ok (vOk_vField _) (vec_flag h1)) rfl) rfl) rfl) rfl) (flag_in _)) (ty_activation h0) (by simp only [X.ty, Ty.ofBits_toBits, Option.getD_some, X.td, vField_low, X.fb, flag_get]))

theorem RoundTrip.mmai (v : Bool) (asg : Bool) (wsg : Bool) (rsm : Bool) (td : TReg) (ra : SReg) (rb : SReg) (rc : SReg) (rows : BitVec 8) (trow : BitVec 32) : RoundTrip.Statement (.mmai v asg wsg rsm td ra rb rc rows trow) := fun hw _ => by
  simp only [Instr.wf, Bool.and_eq_true] at hw
  obtain ⟨h0, h1⟩ := hw
  exact decode_encX (.inr rfl) (row_plain (and_ok (and_ok (and_ok (and_ok (and_ok (and_ok (vOk_vField _) (vec_mmai h0)) (rsm_mmai h1)) rfl) rfl) rfl) (mmai_fl _ _ _ _).2.2.2.2) rfl (by simp only [X.td, vField_low, X.fb, mmai_fl]))

theorem RoundTrip.mzero (td : TReg) : RoundTrip.Statement (.mzero td) := fun _ _ => by
  exact decode_encX (.inr rfl) (row_plain (and_ok (and_ok (and_ok (and_ok (and_ok (and_ok (and_ok (and_ok (and_ok (vOk_vField _) rfl) rfl) rfl) rfl) rfl) rfl) rfl) rfl) fl_none) rfl (by simp only [X.td, vField_low]))

theorem RoundTrip.mldacc (b : Bool) (td : TReg) (ra : SReg) (rows : BitVec 8) (trow : BitVec 32) : RoundTrip.Statement (.mldacc b td ra rows trow) := fun _ _ => by
  exact decode_encX (.inr rfl) (row_plain (and_ok (and_ok (and_ok (and_ok (and_ok (and_ok (vOk_vField _) rfl) rfl) rfl) rfl) rfl) (flag_in _)) rfl (by simp only [X.td, vField_low, X.fb, flag_get]))

theorem RoundTrip.mdrain (mode : BitVec 3) (sh : Bool) (z : Bool) (ch : BitVec 3) (td : TReg) (ra : SReg) (rb : SReg) (ring : BitVec 8) (tag : BitVec 32) : RoundTrip.Statement (.mdrain mode sh z ch td ra rb ring tag) := fun hw _ => by
  have h0 := hw
  exact decode_encX (.inr rfl) (row_plain (and_ok (and_ok (and_ok (and_ok (and_ok (vOk_vField _) rfl) rfl) rfl) rfl) (mdrain_fl _ _ _ _).2.2.2.2) rfl (by simp only [X.td, vField_low, X.fb, mdrain_fl]))

theorem RoundTrip.mrqp (ra : SReg) : RoundTrip.Statement (.mrqp ra) := fun _ _ => by
  exact decode_encX (.inr rfl) (row_plain (and_ok (and_ok (and_ok (and_ok (and_ok (and_ok (and_ok (and_ok rfl rfl) rfl) rfl) rfl) rfl) rfl) rfl) fl_none) rfl rfl)

theorem RoundTrip.mrank (ty : Ty) (td : TReg) (ra : SReg) (rb : SReg) (rc : SReg) (rows : BitVec 8) (n1 : BitVec 7) (scale : BitVec 32) : RoundTrip.Statement (.mrank ty td ra rb rc rows n1 scale) := fun hw _ => by
  have h0 := hw
  exact decode_encX (.inr rfl) (row_plain (and_ok (and_ok (and_ok (vOk_vField _) rfl) rfl) (n1_in _)) (ty_narrow h0) (by simp only [X.ty, Ty.ofBits_toBits, Option.getD_some, X.td, vField_low, n1_get]))

theorem RoundTrip.mwait : RoundTrip.Statement (.mwait) := fun _ _ => by
  exact decode_encX (.inr rfl) (row_plain (and_ok (and_ok (and_ok (and_ok (and_ok (and_ok (and_ok (and_ok (and_ok rfl rfl) rfl) rfl) rfl) rfl) rfl) rfl) rfl) fl_none) rfl rfl)

theorem RoundTrip.mstat (rd : SReg) (ra : SReg) : RoundTrip.Statement (.mstat rd ra) := fun _ _ => by
  exact decode_encX (.inr rfl) (row_plain (and_ok (and_ok (and_ok (and_ok (and_ok (and_ok (and_ok rfl rfl) rfl) rfl) rfl) rfl) rfl) fl_none) rfl rfl)

theorem RoundTrip.rank (v : Bool) (mag : Bool) (ty : Ty) (rd : SReg) (ra : SReg) (rb : SReg) (rc : SReg) : RoundTrip.Statement (.rank v mag ty rd ra rb rc) := fun hw _ => by
  simp only [Instr.wf, Bool.and_eq_true] at hw
  obtain ⟨h0, h1⟩ := hw
  exact decode_encX (.inr rfl) (row_plain (and_ok (and_ok (and_ok (and_ok (and_ok (vec_rank h1) rfl) rfl) rfl) rfl) (flag2_in _ _)) (ty_key h0) (by simp only [X.ty, Ty.ofBits_toBits, Option.getD_some, X.fb, flag_get1]))

theorem RoundTrip.rankc (mag : Bool) (ty : Ty) (rd : SReg) (ra : SReg) (rb : SReg) (rc : SReg) (pitch : BitVec 32) : RoundTrip.Statement (.rankc mag ty rd ra rb rc pitch) := fun hw _ => by
  have h0 := hw
  exact decode_encX (.inr rfl) (row_plain (and_ok (and_ok (and_ok rfl rfl) rfl) (flag1_in _)) (ty_key h0) (by simp only [X.ty, Ty.ofBits_toBits, Option.getD_some, X.fb, flag_only1]))

theorem RoundTrip.rktab (rd : SReg) (ra : SReg) (rb : SReg) : RoundTrip.Statement (.rktab rd ra rb) := fun _ _ => by
  exact decode_encX (.inr rfl) (row_plain (and_ok (and_ok (and_ok (and_ok (and_ok (and_ok rfl rfl) rfl) rfl) rfl) rfl) fl_none) rfl rfl)

theorem RoundTrip.rkval (ty : Ty) (rd : SReg) (ra : SReg) (rb : SReg) (rc : SReg) (scale : BitVec 32) : RoundTrip.Statement (.rkval ty rd ra rb rc scale) := fun hw _ => by
  have h0 := hw
  exact decode_encX (.inr rfl) (row_plain (and_ok (and_ok (and_ok rfl rfl) rfl) fl_none) (ty_rkval h0) (by simp only [X.ty, Ty.ofBits_toBits, Option.getD_some]))

theorem RoundTrip.aecfg (rd : SReg) (ra : SReg) (rb : SReg) : RoundTrip.Statement (.aecfg rd ra rb) := fun _ _ => by
  exact decode_encX (.inr rfl) (row_plain (and_ok (and_ok (and_ok (and_ok (and_ok (and_ok rfl rfl) rfl) rfl) rfl) rfl) fl_none) rfl rfl)

theorem RoundTrip.aesc (rd : SReg) (ra : SReg) (rb : SReg) (rc : SReg) : RoundTrip.Statement (.aesc rd ra rb rc) := fun _ _ => by
  exact decode_encX (.inr rfl) (row_plain (and_ok (and_ok (and_ok (and_ok (and_ok rfl rfl) rfl) rfl) rfl) fl_none) rfl rfl)

theorem RoundTrip.aecap (dflt : Bool) (rd : SReg) (ra : SReg) (rb : SReg) : RoundTrip.Statement (.aecap dflt rd ra rb) := fun hw _ => by
  have h0 := hw
  exact decode_encX (.inr rfl) (row_plain (and_ok (and_ok (and_ok (and_ok (and_ok (and_ok (and_ok (dflt_flag h0) rfl) rfl) rfl) rfl) rfl) rfl) (flag_in _)) rfl (by simp only [X.fb, flag_get]))

theorem RoundTrip.aerun (ra : SReg) (rb : SReg) : RoundTrip.Statement (.aerun ra rb) := fun _ _ => by
  exact decode_encX (.inr rfl) (row_plain (and_ok (and_ok (and_ok (and_ok (and_ok (and_ok (and_ok rfl rfl) rfl) rfl) rfl) rfl) rfl) fl_none) rfl rfl)

theorem RoundTrip.aewait (rd : SReg) (ra : SReg) : RoundTrip.Statement (.aewait rd ra) := fun _ _ => by
  exact decode_encX (.inr rfl) (row_plain (and_ok (and_ok (and_ok (and_ok (and_ok (and_ok (and_ok rfl rfl) rfl) rfl) rfl) rfl) rfl) fl_none) rfl rfl)

theorem RoundTrip.aerd (rd : SReg) (ra : SReg) (rb : SReg) : RoundTrip.Statement (.aerd rd ra rb) := fun _ _ => by
  exact decode_encX (.inr rfl) (row_plain (and_ok (and_ok (and_ok (and_ok (and_ok (and_ok rfl rfl) rfl) rfl) rfl) rfl) fl_none) rfl rfl)

theorem RoundTrip.aepr (rd : SReg) (ra : SReg) (rb : SReg) : RoundTrip.Statement (.aepr rd ra rb) := fun _ _ => by
  exact decode_encX (.inr rfl) (row_plain (and_ok (and_ok (and_ok (and_ok (and_ok (and_ok rfl rfl) rfl) rfl) rfl) rfl) fl_none) rfl rfl)

theorem RoundTrip.aepw (rd : SReg) (ra : SReg) (rb : SReg) : RoundTrip.Statement (.aepw rd ra rb) := fun _ _ => by
  exact decode_encX (.inr rfl) (row_plain (and_ok (and_ok (and_ok (and_ok (and_ok (and_ok rfl rfl) rfl) rfl) rfl) rfl) fl_none) rfl rfl)

theorem RoundTrip.aestat (rd : SReg) (ra : SReg) : RoundTrip.Statement (.aestat rd ra) := fun _ _ => by
  exact decode_encX (.inr rfl) (row_plain (and_ok (and_ok (and_ok (and_ok (and_ok (and_ok (and_ok rfl rfl) rfl) rfl) rfl) rfl) rfl) fl_none) rfl rfl)

theorem RoundTrip.cpy (ssh : Bool) (dsh : Bool) (dstr : Bool) (defer : Bool) (code : Bool) (ch : BitVec 3) (rd : SReg) (ra : SReg) (rb : SReg) (rc : SReg) (ring : BitVec 8) (tag : BitVec 32) : RoundTrip.Statement (.cpy ssh dsh dstr defer code ch rd ra rb rc ring tag) := fun _ _ => by
  exact decode_encX (.inr rfl) (row_plain (and_ok (and_ok (and_ok rfl rfl) rfl) (cpy_fl _ _ _ _ _ _).2.2.2.2.2.2) rfl (by simp only [X.fb, cpy_fl]))

theorem RoundTrip.cpym (ssh : Bool) (dstr : Bool) (flag : BitVec 2) (ch : BitVec 3) (rd : SReg) (ra : SReg) (rb : SReg) (rc : SReg) (ring : BitVec 8) (off : BitVec 32) : RoundTrip.Statement (.cpym ssh dstr flag ch rd ra rb rc ring off) := fun _ _ => by
  exact decode_encX (.inr rfl) (row_plain (and_ok (and_ok (and_ok rfl rfl) rfl) (cpym_fl _ _ _ _).2.2.2.2) rfl (by simp only [X.fb, cpym_fl]))

theorem RoundTrip.cpych (sh : Bool) (ch : BitVec 3) (ra : SReg) (ring : BitVec 8) : RoundTrip.Statement (.cpych sh ch ra ring) := fun _ _ => by
  exact decode_encX (.inr rfl) (row_plain (and_ok (and_ok (and_ok (and_ok (and_ok (and_ok (and_ok rfl rfl) rfl) rfl) rfl) rfl) rfl) (cpych_fl _ _).2.2) rfl (by simp only [X.fb, cpych_fl]))

theorem RoundTrip.cring (ra : SReg) (rb : SReg) : RoundTrip.Statement (.cring ra rb) := fun _ _ => by
  exact decode_encX (.inr rfl) (row_plain (and_ok (and_ok (and_ok (and_ok (and_ok (and_ok (and_ok rfl rfl) rfl) rfl) rfl) rfl) rfl) fl_none) rfl rfl)

theorem RoundTrip.cawait (seq : Bool) (rd : SReg) (ra : SReg) : RoundTrip.Statement (.cawait seq rd ra) := fun _ _ => by
  exact decode_encX (.inr rfl) (row_plain (and_ok (and_ok (and_ok (and_ok (and_ok (and_ok (and_ok rfl rfl) rfl) rfl) rfl) rfl) rfl) (flag_in _)) rfl (by simp only [X.fb, flag_get]))

theorem RoundTrip.crel (ra : SReg) : RoundTrip.Statement (.crel ra) := fun _ _ => by
  exact decode_encX (.inr rfl) (row_plain (and_ok (and_ok (and_ok (and_ok (and_ok (and_ok (and_ok (and_ok rfl rfl) rfl) rfl) rfl) rfl) rfl) rfl) fl_none) rfl rfl)

theorem RoundTrip.cseq (rd : SReg) (ra : SReg) : RoundTrip.Statement (.cseq rd ra) := fun _ _ => by
  exact decode_encX (.inr rfl) (row_plain (and_ok (and_ok (and_ok (and_ok (and_ok (and_ok (and_ok rfl rfl) rfl) rfl) rfl) rfl) rfl) fl_none) rfl rfl)

theorem RoundTrip.bfree (ra : SReg) : RoundTrip.Statement (.bfree ra) := fun _ _ => by
  exact decode_encX (.inr rfl) (row_plain (and_ok (and_ok (and_ok (and_ok (and_ok (and_ok (and_ok (and_ok rfl rfl) rfl) rfl) rfl) rfl) rfl) rfl) fl_none) rfl rfl)

theorem RoundTrip.publish (rd : SReg) (ra : SReg) : RoundTrip.Statement (.publish rd ra) := fun _ _ => by
  exact decode_encX (.inr rfl) (row_plain (and_ok (and_ok (and_ok (and_ok (and_ok (and_ok (and_ok rfl rfl) rfl) rfl) rfl) rfl) rfl) fl_none) rfl rfl)

theorem RoundTrip.coll (rd : SReg) (ra : SReg) : RoundTrip.Statement (.coll rd ra) := fun _ _ => by
  exact decode_encX (.inr rfl) (row_plain (and_ok (and_ok (and_ok (and_ok (and_ok (and_ok (and_ok rfl rfl) rfl) rfl) rfl) rfl) rfl) fl_none) rfl rfl)

theorem RoundTrip.collw (rd : SReg) (ra : SReg) : RoundTrip.Statement (.collw rd ra) := fun _ _ => by
  exact decode_encX (.inr rfl) (row_plain (and_ok (and_ok (and_ok (and_ok (and_ok (and_ok (and_ok rfl rfl) rfl) rfl) rfl) rfl) rfl) fl_none) rfl rfl)

end Sys2Proof.Laws
end

