-- ==== Sys2Proof/Laws/State.lean ====
section
/-!
SUPPORT. The laws of the state: one lemma a field an update, and what the accessors read after an update.
-/

namespace Sys2Proof.Laws

open Sys2Proof Sys2Proof.Machine

/-! ## One lemma a field an update -/

section
variable (s : State) (c k d b len : Nat) (x : Core) (y : Ctx) (h : Thread) (z : Cluster) (e : Die) (g : Boundary) (rd : SReg) (w : Wait)

@[simp] theorem setCore_now : (s.setCore c x).now = s.now := rfl
@[simp] theorem setCore_off : (s.setCore c x).off = s.off := rfl
@[simp] theorem setCore_saved : (s.setCore c x).saved = s.saved := rfl
@[simp] theorem setCore_clusters : (s.setCore c x).clusters = s.clusters := rfl
@[simp] theorem setCore_dies : (s.setCore c x).dies = s.dies := rfl
@[simp] theorem setCore_home : (s.setCore c x).home = s.home := rfl
@[simp] theorem setCore_ids : (s.setCore c x).ids = s.ids := rfl
@[simp] theorem setCore_applied : (s.setCore c x).applied = s.applied := rfl
@[simp] theorem setCore_pubs : (s.setCore c x).pubs = s.pubs := rfl
@[simp] theorem setCore_winDev : (s.setCore c x).winDev = s.winDev := rfl
@[simp] theorem setCore_winSys : (s.setCore c x).winSys = s.winSys := rfl
@[simp] theorem setCore_seq : (s.setCore c x).seq = s.seq := rfl
@[simp] theorem setCore_loads : (s.setCore c x).loads = s.loads := rfl
@[simp] theorem setCore_locals : (s.setCore c x).locals = s.locals := rfl
@[simp] theorem setCore_packets : (s.setCore c x).packets = s.packets := rfl
@[simp] theorem setCore_invAddr : (s.setCore c x).invAddr = s.invAddr := rfl
@[simp] theorem setCore_invAsid : (s.setCore c x).invAsid = s.invAsid := rfl
@[simp] theorem setCore_invReq : (s.setCore c x).invReq = s.invReq := rfl
@[simp] theorem setCore_invPend : (s.setCore c x).invPend = s.invPend := rfl
@[simp] theorem setCore_invDone : (s.setCore c x).invDone = s.invDone := rfl
@[simp] theorem setCore_invAcks : (s.setCore c x).invAcks = s.invAcks := rfl
@[simp] theorem setCore_ctxTable : (s.setCore c x).ctxTable = s.ctxTable := rfl
@[simp] theorem setCore_walkStore : (s.setCore c x).walkStore = s.walkStore := rfl
@[simp] theorem setCore_shadowPool : (s.setCore c x).shadowPool = s.shadowPool := rfl
@[simp] theorem setCore_repOff : (s.setCore c x).repOff = s.repOff := rfl
@[simp] theorem setCore_qdesc : (s.setCore c x).qdesc = s.qdesc := rfl
@[simp] theorem setCore_queues : (s.setCore c x).queues = s.queues := rfl
@[simp] theorem setCore_launches : (s.setCore c x).launches = s.launches := rfl
@[simp] theorem setCore_reservations : (s.setCore c x).reservations = s.reservations := rfl
@[simp] theorem setCore_arbAt : (s.setCore c x).arbAt = s.arbAt := rfl
@[simp] theorem setCore_freed : (s.setCore c x).freed = s.freed := rfl
@[simp] theorem setCore_rotateAt : (s.setCore c x).rotateAt = s.rotateAt := rfl
@[simp] theorem setCore_saveAreas : (s.setCore c x).saveAreas = s.saveAreas := rfl
@[simp] theorem setCore_boundaries : (s.setCore c x).boundaries = s.boundaries := rfl
@[simp] theorem setCore_stepAt : (s.setCore c x).stepAt = s.stepAt := rfl
@[simp] theorem setCore_domainLost : (s.setCore c x).domainLost = s.domainLost := rfl
@[simp] theorem setCore_goneDevices : (s.setCore c x).goneDevices = s.goneDevices := rfl
@[simp] theorem setCore_goneEndpoints : (s.setCore c x).goneEndpoints = s.goneEndpoints := rfl
@[simp] theorem setCore_groups : (s.setCore c x).groups = s.groups := rfl
@[simp] theorem setCore_instances : (s.setCore c x).instances = s.instances := rfl
@[simp] theorem setCore_chunks : (s.setCore c x).chunks = s.chunks := rfl
@[simp] theorem setCore_poolChunks : (s.setCore c x).poolChunks = s.poolChunks := rfl
@[simp] theorem setCore_spillCount : (s.setCore c x).spillCount = s.spillCount := rfl
@[simp] theorem setCore_staleChunks : (s.setCore c x).staleChunks = s.staleChunks := rfl
@[simp] theorem setCore_ras : (s.setCore c x).ras = s.ras := rfl
@[simp] theorem setCore_rasOverflow : (s.setCore c x).rasOverflow = s.rasOverflow := rfl
@[simp] theorem setCore_poison : (s.setCore c x).poison = s.poison := rfl
@[simp] theorem setCore_cover : (s.setCore c x).cover = s.cover := rfl
@[simp] theorem setCore_snapHeld : (s.setCore c x).snapHeld = s.snapHeld := rfl
@[simp] theorem setCore_snapSrc : (s.setCore c x).snapSrc = s.snapSrc := rfl
@[simp] theorem setCore_snapMissed : (s.setCore c x).snapMissed = s.snapMissed := rfl
@[simp] theorem setCore_snapPending : (s.setCore c x).snapPending = s.snapPending := rfl
@[simp] theorem setCore_snapImage : (s.setCore c x).snapImage = s.snapImage := rfl
@[simp] theorem setCore_readyNow : (s.setCore c x).readyNow = s.readyNow := rfl
@[simp] theorem setCore_cmapStage : (s.setCore c x).cmapStage = s.cmapStage := rfl
@[simp] theorem setCore_bootStage : (s.setCore c x).bootStage = s.bootStage := rfl
@[simp] theorem setCore_bootSrc : (s.setCore c x).bootSrc = s.bootSrc := rfl
@[simp] theorem setCore_bootFail : (s.setCore c x).bootFail = s.bootFail := rfl
@[simp] theorem setCore_bootHalted : (s.setCore c x).bootHalted = s.bootHalted := rfl
@[simp] theorem setCore_fuseCount : (s.setCore c x).fuseCount = s.fuseCount := rfl
@[simp] theorem setCore_keyDigest : (s.setCore c x).keyDigest = s.keyDigest := rfl
@[simp] theorem setCore_serial : (s.setCore c x).serial = s.serial := rfl
@[simp] theorem setCore_digest1 : (s.setCore c x).digest1 = s.digest1 := rfl
@[simp] theorem setCore_svn1 : (s.setCore c x).svn1 = s.svn1 := rfl
@[simp] theorem setCore_digest2 : (s.setCore c x).digest2 = s.digest2 := rfl
@[simp] theorem setCore_svn2 : (s.setCore c x).svn2 = s.svn2 := rfl
@[simp] theorem setCore_mreq : (s.setCore c x).mreq = s.mreq := rfl
@[simp] theorem setCore_mreqQueue : (s.setCore c x).mreqQueue = s.mreqQueue := rfl
@[simp] theorem setCore_rights : (s.setCore c x).rights = s.rights := rfl
@[simp] theorem setCore_requests : (s.setCore c x).requests = s.requests := rfl
@[simp] theorem setCore_focus : (s.setCore c x).focus = s.focus := rfl
@[simp] theorem setCore_thr : (s.setCore c x).thr = s.thr := rfl
@[simp] theorem setCore_agenda : (s.setCore c x).agenda = s.agenda := rfl
@[simp] theorem setCore_waiting : (s.setCore c x).waiting = s.waiting := rfl
@[simp] theorem setCore_fresh : (s.setCore c x).fresh = s.fresh := rfl
@[simp] theorem setCore_tagged : (s.setCore c x).tagged = s.tagged := rfl
@[simp] theorem setCore_latent : (s.setCore c x).latent = s.latent := rfl
@[simp] theorem setCore_scrubEvery : (s.setCore c x).scrubEvery = s.scrubEvery := rfl
@[simp] theorem setCore_zhevDead : (s.setCore c x).zhevDead = s.zhevDead := rfl
@[simp] theorem setCore_regions : (s.setCore c x).regions = s.regions := rfl
@[simp] theorem setCore_heldWrites : (s.setCore c x).heldWrites = s.heldWrites := rfl
@[simp] theorem setCore_unreliable : (s.setCore c x).unreliable = s.unreliable := rfl
@[simp] theorem setCore_bootSel : (s.setCore c x).bootSel = s.bootSel := rfl
@[simp] theorem setCore_released : (s.setCore c x).released = s.released := rfl

@[simp] theorem setCtx_now : (s.setCtx y).now = s.now := rfl
@[simp] theorem setCtx_off : (s.setCtx y).off = s.off := rfl
@[simp] theorem setCtx_saved : (s.setCtx y).saved = s.saved := rfl
@[simp] theorem setCtx_clusters : (s.setCtx y).clusters = s.clusters := rfl
@[simp] theorem setCtx_dies : (s.setCtx y).dies = s.dies := rfl
@[simp] theorem setCtx_home : (s.setCtx y).home = s.home := rfl
@[simp] theorem setCtx_ids : (s.setCtx y).ids = s.ids := rfl
@[simp] theorem setCtx_applied : (s.setCtx y).applied = s.applied := rfl
@[simp] theorem setCtx_pubs : (s.setCtx y).pubs = s.pubs := rfl
@[simp] theorem setCtx_winDev : (s.setCtx y).winDev = s.winDev := rfl
@[simp] theorem setCtx_winSys : (s.setCtx y).winSys = s.winSys := rfl
@[simp] theorem setCtx_seq : (s.setCtx y).seq = s.seq := rfl
@[simp] theorem setCtx_loads : (s.setCtx y).loads = s.loads := rfl
@[simp] theorem setCtx_locals : (s.setCtx y).locals = s.locals := rfl
@[simp] theorem setCtx_packets : (s.setCtx y).packets = s.packets := rfl
@[simp] theorem setCtx_invAddr : (s.setCtx y).invAddr = s.invAddr := rfl
@[simp] theorem setCtx_invAsid : (s.setCtx y).invAsid = s.invAsid := rfl
@[simp] theorem setCtx_invReq : (s.setCtx y).invReq = s.invReq := rfl
@[simp] theorem setCtx_invPend : (s.setCtx y).invPend = s.invPend := rfl
@[simp] theorem setCtx_invDone : (s.setCtx y).invDone = s.invDone := rfl
@[simp] theorem setCtx_invAcks : (s.setCtx y).invAcks = s.invAcks := rfl
@[simp] theorem setCtx_ctxTable : (s.setCtx y).ctxTable = s.ctxTable := rfl
@[simp] theorem setCtx_walkStore : (s.setCtx y).walkStore = s.walkStore := rfl
@[simp] theorem setCtx_shadowPool : (s.setCtx y).shadowPool = s.shadowPool := rfl
@[simp] theorem setCtx_repOff : (s.setCtx y).repOff = s.repOff := rfl
@[simp] theorem setCtx_qdesc : (s.setCtx y).qdesc = s.qdesc := rfl
@[simp] theorem setCtx_queues : (s.setCtx y).queues = s.queues := rfl
@[simp] theorem setCtx_launches : (s.setCtx y).launches = s.launches := rfl
@[simp] theorem setCtx_reservations : (s.setCtx y).reservations = s.reservations := rfl
@[simp] theorem setCtx_arbAt : (s.setCtx y).arbAt = s.arbAt := rfl
@[simp] theorem setCtx_freed : (s.setCtx y).freed = s.freed := rfl
@[simp] theorem setCtx_rotateAt : (s.setCtx y).rotateAt = s.rotateAt := rfl
@[simp] theorem setCtx_saveAreas : (s.setCtx y).saveAreas = s.saveAreas := rfl
@[simp] theorem setCtx_boundaries : (s.setCtx y).boundaries = s.boundaries := rfl
@[simp] theorem setCtx_stepAt : (s.setCtx y).stepAt = s.stepAt := rfl
@[simp] theorem setCtx_domainLost : (s.setCtx y).domainLost = s.domainLost := rfl
@[simp] theorem setCtx_goneDevices : (s.setCtx y).goneDevices = s.goneDevices := rfl
@[simp] theorem setCtx_goneEndpoints : (s.setCtx y).goneEndpoints = s.goneEndpoints := rfl
@[simp] theorem setCtx_groups : (s.setCtx y).groups = s.groups := rfl
@[simp] theorem setCtx_instances : (s.setCtx y).instances = s.instances := rfl
@[simp] theorem setCtx_chunks : (s.setCtx y).chunks = s.chunks := rfl
@[simp] theorem setCtx_poolChunks : (s.setCtx y).poolChunks = s.poolChunks := rfl
@[simp] theorem setCtx_spillCount : (s.setCtx y).spillCount = s.spillCount := rfl
@[simp] theorem setCtx_staleChunks : (s.setCtx y).staleChunks = s.staleChunks := rfl
@[simp] theorem setCtx_ras : (s.setCtx y).ras = s.ras := rfl
@[simp] theorem setCtx_rasOverflow : (s.setCtx y).rasOverflow = s.rasOverflow := rfl
@[simp] theorem setCtx_poison : (s.setCtx y).poison = s.poison := rfl
@[simp] theorem setCtx_cover : (s.setCtx y).cover = s.cover := rfl
@[simp] theorem setCtx_snapHeld : (s.setCtx y).snapHeld = s.snapHeld := rfl
@[simp] theorem setCtx_snapSrc : (s.setCtx y).snapSrc = s.snapSrc := rfl
@[simp] theorem setCtx_snapMissed : (s.setCtx y).snapMissed = s.snapMissed := rfl
@[simp] theorem setCtx_snapPending : (s.setCtx y).snapPending = s.snapPending := rfl
@[simp] theorem setCtx_snapImage : (s.setCtx y).snapImage = s.snapImage := rfl
@[simp] theorem setCtx_readyNow : (s.setCtx y).readyNow = s.readyNow := rfl
@[simp] theorem setCtx_cmapStage : (s.setCtx y).cmapStage = s.cmapStage := rfl
@[simp] theorem setCtx_bootStage : (s.setCtx y).bootStage = s.bootStage := rfl
@[simp] theorem setCtx_bootSrc : (s.setCtx y).bootSrc = s.bootSrc := rfl
@[simp] theorem setCtx_bootFail : (s.setCtx y).bootFail = s.bootFail := rfl
@[simp] theorem setCtx_bootHalted : (s.setCtx y).bootHalted = s.bootHalted := rfl
@[simp] theorem setCtx_fuseCount : (s.setCtx y).fuseCount = s.fuseCount := rfl
@[simp] theorem setCtx_keyDigest : (s.setCtx y).keyDigest = s.keyDigest := rfl
@[simp] theorem setCtx_serial : (s.setCtx y).serial = s.serial := rfl
@[simp] theorem setCtx_digest1 : (s.setCtx y).digest1 = s.digest1 := rfl
@[simp] theorem setCtx_svn1 : (s.setCtx y).svn1 = s.svn1 := rfl
@[simp] theorem setCtx_digest2 : (s.setCtx y).digest2 = s.digest2 := rfl
@[simp] theorem setCtx_svn2 : (s.setCtx y).svn2 = s.svn2 := rfl
@[simp] theorem setCtx_mreq : (s.setCtx y).mreq = s.mreq := rfl
@[simp] theorem setCtx_mreqQueue : (s.setCtx y).mreqQueue = s.mreqQueue := rfl
@[simp] theorem setCtx_rights : (s.setCtx y).rights = s.rights := rfl
@[simp] theorem setCtx_requests : (s.setCtx y).requests = s.requests := rfl
@[simp] theorem setCtx_focus : (s.setCtx y).focus = s.focus := rfl
@[simp] theorem setCtx_thr : (s.setCtx y).thr = s.thr := rfl
@[simp] theorem setCtx_agenda : (s.setCtx y).agenda = s.agenda := rfl
@[simp] theorem setCtx_waiting : (s.setCtx y).waiting = s.waiting := rfl
@[simp] theorem setCtx_fresh : (s.setCtx y).fresh = s.fresh := rfl
@[simp] theorem setCtx_tagged : (s.setCtx y).tagged = s.tagged := rfl
@[simp] theorem setCtx_latent : (s.setCtx y).latent = s.latent := rfl
@[simp] theorem setCtx_scrubEvery : (s.setCtx y).scrubEvery = s.scrubEvery := rfl
@[simp] theorem setCtx_zhevDead : (s.setCtx y).zhevDead = s.zhevDead := rfl
@[simp] theorem setCtx_regions : (s.setCtx y).regions = s.regions := rfl
@[simp] theorem setCtx_heldWrites : (s.setCtx y).heldWrites = s.heldWrites := rfl
@[simp] theorem setCtx_unreliable : (s.setCtx y).unreliable = s.unreliable := rfl
@[simp] theorem setCtx_bootSel : (s.setCtx y).bootSel = s.bootSel := rfl
@[simp] theorem setCtx_released : (s.setCtx y).released = s.released := rfl

@[simp] theorem setTh_now : (s.setTh h).now = s.now := rfl
@[simp] theorem setTh_off : (s.setTh h).off = s.off := rfl
@[simp] theorem setTh_saved : (s.setTh h).saved = s.saved := rfl
@[simp] theorem setTh_clusters : (s.setTh h).clusters = s.clusters := rfl
@[simp] theorem setTh_dies : (s.setTh h).dies = s.dies := rfl
@[simp] theorem setTh_home : (s.setTh h).home = s.home := rfl
@[simp] theorem setTh_ids : (s.setTh h).ids = s.ids := rfl
@[simp] theorem setTh_applied : (s.setTh h).applied = s.applied := rfl
@[simp] theorem setTh_pubs : (s.setTh h).pubs = s.pubs := rfl
@[simp] theorem setTh_winDev : (s.setTh h).winDev = s.winDev := rfl
@[simp] theorem setTh_winSys : (s.setTh h).winSys = s.winSys := rfl
@[simp] theorem setTh_seq : (s.setTh h).seq = s.seq := rfl
@[simp] theorem setTh_loads : (s.setTh h).loads = s.loads := rfl
@[simp] theorem setTh_locals : (s.setTh h).locals = s.locals := rfl
@[simp] theorem setTh_packets : (s.setTh h).packets = s.packets := rfl
@[simp] theorem setTh_invAddr : (s.setTh h).invAddr = s.invAddr := rfl
@[simp] theorem setTh_invAsid : (s.setTh h).invAsid = s.invAsid := rfl
@[simp] theorem setTh_invReq : (s.setTh h).invReq = s.invReq := rfl
@[simp] theorem setTh_invPend : (s.setTh h).invPend = s.invPend := rfl
@[simp] theorem setTh_invDone : (s.setTh h).invDone = s.invDone := rfl
@[simp] theorem setTh_invAcks : (s.setTh h).invAcks = s.invAcks := rfl
@[simp] theorem setTh_ctxTable : (s.setTh h).ctxTable = s.ctxTable := rfl
@[simp] theorem setTh_walkStore : (s.setTh h).walkStore = s.walkStore := rfl
@[simp] theorem setTh_shadowPool : (s.setTh h).shadowPool = s.shadowPool := rfl
@[simp] theorem setTh_repOff : (s.setTh h).repOff = s.repOff := rfl
@[simp] theorem setTh_qdesc : (s.setTh h).qdesc = s.qdesc := rfl
@[simp] theorem setTh_queues : (s.setTh h).queues = s.queues := rfl
@[simp] theorem setTh_launches : (s.setTh h).launches = s.launches := rfl
@[simp] theorem setTh_reservations : (s.setTh h).reservations = s.reservations := rfl
@[simp] theorem setTh_arbAt : (s.setTh h).arbAt = s.arbAt := rfl
@[simp] theorem setTh_freed : (s.setTh h).freed = s.freed := rfl
@[simp] theorem setTh_rotateAt : (s.setTh h).rotateAt = s.rotateAt := rfl
@[simp] theorem setTh_saveAreas : (s.setTh h).saveAreas = s.saveAreas := rfl
@[simp] theorem setTh_boundaries : (s.setTh h).boundaries = s.boundaries := rfl
@[simp] theorem setTh_stepAt : (s.setTh h).stepAt = s.stepAt := rfl
@[simp] theorem setTh_domainLost : (s.setTh h).domainLost = s.domainLost := rfl
@[simp] theorem setTh_goneDevices : (s.setTh h).goneDevices = s.goneDevices := rfl
@[simp] theorem setTh_goneEndpoints : (s.setTh h).goneEndpoints = s.goneEndpoints := rfl
@[simp] theorem setTh_groups : (s.setTh h).groups = s.groups := rfl
@[simp] theorem setTh_instances : (s.setTh h).instances = s.instances := rfl
@[simp] theorem setTh_chunks : (s.setTh h).chunks = s.chunks := rfl
@[simp] theorem setTh_poolChunks : (s.setTh h).poolChunks = s.poolChunks := rfl
@[simp] theorem setTh_spillCount : (s.setTh h).spillCount = s.spillCount := rfl
@[simp] theorem setTh_staleChunks : (s.setTh h).staleChunks = s.staleChunks := rfl
@[simp] theorem setTh_ras : (s.setTh h).ras = s.ras := rfl
@[simp] theorem setTh_rasOverflow : (s.setTh h).rasOverflow = s.rasOverflow := rfl
@[simp] theorem setTh_poison : (s.setTh h).poison = s.poison := rfl
@[simp] theorem setTh_cover : (s.setTh h).cover = s.cover := rfl
@[simp] theorem setTh_snapHeld : (s.setTh h).snapHeld = s.snapHeld := rfl
@[simp] theorem setTh_snapSrc : (s.setTh h).snapSrc = s.snapSrc := rfl
@[simp] theorem setTh_snapMissed : (s.setTh h).snapMissed = s.snapMissed := rfl
@[simp] theorem setTh_snapPending : (s.setTh h).snapPending = s.snapPending := rfl
@[simp] theorem setTh_snapImage : (s.setTh h).snapImage = s.snapImage := rfl
@[simp] theorem setTh_readyNow : (s.setTh h).readyNow = s.readyNow := rfl
@[simp] theorem setTh_cmapStage : (s.setTh h).cmapStage = s.cmapStage := rfl
@[simp] theorem setTh_bootStage : (s.setTh h).bootStage = s.bootStage := rfl
@[simp] theorem setTh_bootSrc : (s.setTh h).bootSrc = s.bootSrc := rfl
@[simp] theorem setTh_bootFail : (s.setTh h).bootFail = s.bootFail := rfl
@[simp] theorem setTh_bootHalted : (s.setTh h).bootHalted = s.bootHalted := rfl
@[simp] theorem setTh_fuseCount : (s.setTh h).fuseCount = s.fuseCount := rfl
@[simp] theorem setTh_keyDigest : (s.setTh h).keyDigest = s.keyDigest := rfl
@[simp] theorem setTh_serial : (s.setTh h).serial = s.serial := rfl
@[simp] theorem setTh_digest1 : (s.setTh h).digest1 = s.digest1 := rfl
@[simp] theorem setTh_svn1 : (s.setTh h).svn1 = s.svn1 := rfl
@[simp] theorem setTh_digest2 : (s.setTh h).digest2 = s.digest2 := rfl
@[simp] theorem setTh_svn2 : (s.setTh h).svn2 = s.svn2 := rfl
@[simp] theorem setTh_mreq : (s.setTh h).mreq = s.mreq := rfl
@[simp] theorem setTh_mreqQueue : (s.setTh h).mreqQueue = s.mreqQueue := rfl
@[simp] theorem setTh_rights : (s.setTh h).rights = s.rights := rfl
@[simp] theorem setTh_requests : (s.setTh h).requests = s.requests := rfl
@[simp] theorem setTh_focus : (s.setTh h).focus = s.focus := rfl
@[simp] theorem setTh_thr : (s.setTh h).thr = s.thr := rfl
@[simp] theorem setTh_agenda : (s.setTh h).agenda = s.agenda := rfl
@[simp] theorem setTh_waiting : (s.setTh h).waiting = s.waiting := rfl
@[simp] theorem setTh_fresh : (s.setTh h).fresh = s.fresh := rfl
@[simp] theorem setTh_tagged : (s.setTh h).tagged = s.tagged := rfl
@[simp] theorem setTh_latent : (s.setTh h).latent = s.latent := rfl
@[simp] theorem setTh_scrubEvery : (s.setTh h).scrubEvery = s.scrubEvery := rfl
@[simp] theorem setTh_zhevDead : (s.setTh h).zhevDead = s.zhevDead := rfl
@[simp] theorem setTh_regions : (s.setTh h).regions = s.regions := rfl
@[simp] theorem setTh_heldWrites : (s.setTh h).heldWrites = s.heldWrites := rfl
@[simp] theorem setTh_unreliable : (s.setTh h).unreliable = s.unreliable := rfl
@[simp] theorem setTh_bootSel : (s.setTh h).bootSel = s.bootSel := rfl
@[simp] theorem setTh_released : (s.setTh h).released = s.released := rfl

@[simp] theorem past_now : (s.past len).now = s.now := rfl
@[simp] theorem past_off : (s.past len).off = s.off := rfl
@[simp] theorem past_saved : (s.past len).saved = s.saved := rfl
@[simp] theorem past_clusters : (s.past len).clusters = s.clusters := rfl
@[simp] theorem past_dies : (s.past len).dies = s.dies := rfl
@[simp] theorem past_home : (s.past len).home = s.home := rfl
@[simp] theorem past_ids : (s.past len).ids = s.ids := rfl
@[simp] theorem past_applied : (s.past len).applied = s.applied := rfl
@[simp] theorem past_pubs : (s.past len).pubs = s.pubs := rfl
@[simp] theorem past_winDev : (s.past len).winDev = s.winDev := rfl
@[simp] theorem past_winSys : (s.past len).winSys = s.winSys := rfl
@[simp] theorem past_seq : (s.past len).seq = s.seq := rfl
@[simp] theorem past_loads : (s.past len).loads = s.loads := rfl
@[simp] theorem past_locals : (s.past len).locals = s.locals := rfl
@[simp] theorem past_packets : (s.past len).packets = s.packets := rfl
@[simp] theorem past_invAddr : (s.past len).invAddr = s.invAddr := rfl
@[simp] theorem past_invAsid : (s.past len).invAsid = s.invAsid := rfl
@[simp] theorem past_invReq : (s.past len).invReq = s.invReq := rfl
@[simp] theorem past_invPend : (s.past len).invPend = s.invPend := rfl
@[simp] theorem past_invDone : (s.past len).invDone = s.invDone := rfl
@[simp] theorem past_invAcks : (s.past len).invAcks = s.invAcks := rfl
@[simp] theorem past_ctxTable : (s.past len).ctxTable = s.ctxTable := rfl
@[simp] theorem past_walkStore : (s.past len).walkStore = s.walkStore := rfl
@[simp] theorem past_shadowPool : (s.past len).shadowPool = s.shadowPool := rfl
@[simp] theorem past_repOff : (s.past len).repOff = s.repOff := rfl
@[simp] theorem past_qdesc : (s.past len).qdesc = s.qdesc := rfl
@[simp] theorem past_queues : (s.past len).queues = s.queues := rfl
@[simp] theorem past_launches : (s.past len).launches = s.launches := rfl
@[simp] theorem past_reservations : (s.past len).reservations = s.reservations := rfl
@[simp] theorem past_arbAt : (s.past len).arbAt = s.arbAt := rfl
@[simp] theorem past_freed : (s.past len).freed = s.freed := rfl
@[simp] theorem past_rotateAt : (s.past len).rotateAt = s.rotateAt := rfl
@[simp] theorem past_saveAreas : (s.past len).saveAreas = s.saveAreas := rfl
@[simp] theorem past_boundaries : (s.past len).boundaries = s.boundaries := rfl
@[simp] theorem past_stepAt : (s.past len).stepAt = s.stepAt := rfl
@[simp] theorem past_domainLost : (s.past len).domainLost = s.domainLost := rfl
@[simp] theorem past_goneDevices : (s.past len).goneDevices = s.goneDevices := rfl
@[simp] theorem past_goneEndpoints : (s.past len).goneEndpoints = s.goneEndpoints := rfl
@[simp] theorem past_groups : (s.past len).groups = s.groups := rfl
@[simp] theorem past_instances : (s.past len).instances = s.instances := rfl
@[simp] theorem past_chunks : (s.past len).chunks = s.chunks := rfl
@[simp] theorem past_poolChunks : (s.past len).poolChunks = s.poolChunks := rfl
@[simp] theorem past_spillCount : (s.past len).spillCount = s.spillCount := rfl
@[simp] theorem past_staleChunks : (s.past len).staleChunks = s.staleChunks := rfl
@[simp] theorem past_ras : (s.past len).ras = s.ras := rfl
@[simp] theorem past_rasOverflow : (s.past len).rasOverflow = s.rasOverflow := rfl
@[simp] theorem past_poison : (s.past len).poison = s.poison := rfl
@[simp] theorem past_cover : (s.past len).cover = s.cover := rfl
@[simp] theorem past_snapHeld : (s.past len).snapHeld = s.snapHeld := rfl
@[simp] theorem past_snapSrc : (s.past len).snapSrc = s.snapSrc := rfl
@[simp] theorem past_snapMissed : (s.past len).snapMissed = s.snapMissed := rfl
@[simp] theorem past_snapPending : (s.past len).snapPending = s.snapPending := rfl
@[simp] theorem past_snapImage : (s.past len).snapImage = s.snapImage := rfl
@[simp] theorem past_readyNow : (s.past len).readyNow = s.readyNow := rfl
@[simp] theorem past_cmapStage : (s.past len).cmapStage = s.cmapStage := rfl
@[simp] theorem past_bootStage : (s.past len).bootStage = s.bootStage := rfl
@[simp] theorem past_bootSrc : (s.past len).bootSrc = s.bootSrc := rfl
@[simp] theorem past_bootFail : (s.past len).bootFail = s.bootFail := rfl
@[simp] theorem past_bootHalted : (s.past len).bootHalted = s.bootHalted := rfl
@[simp] theorem past_fuseCount : (s.past len).fuseCount = s.fuseCount := rfl
@[simp] theorem past_keyDigest : (s.past len).keyDigest = s.keyDigest := rfl
@[simp] theorem past_serial : (s.past len).serial = s.serial := rfl
@[simp] theorem past_digest1 : (s.past len).digest1 = s.digest1 := rfl
@[simp] theorem past_svn1 : (s.past len).svn1 = s.svn1 := rfl
@[simp] theorem past_digest2 : (s.past len).digest2 = s.digest2 := rfl
@[simp] theorem past_svn2 : (s.past len).svn2 = s.svn2 := rfl
@[simp] theorem past_mreq : (s.past len).mreq = s.mreq := rfl
@[simp] theorem past_mreqQueue : (s.past len).mreqQueue = s.mreqQueue := rfl
@[simp] theorem past_rights : (s.past len).rights = s.rights := rfl
@[simp] theorem past_requests : (s.past len).requests = s.requests := rfl
@[simp] theorem past_focus : (s.past len).focus = s.focus := rfl
@[simp] theorem past_thr : (s.past len).thr = s.thr := rfl
@[simp] theorem past_agenda : (s.past len).agenda = s.agenda := rfl
@[simp] theorem past_waiting : (s.past len).waiting = s.waiting := rfl
@[simp] theorem past_fresh : (s.past len).fresh = s.fresh := rfl
@[simp] theorem past_tagged : (s.past len).tagged = s.tagged := rfl
@[simp] theorem past_latent : (s.past len).latent = s.latent := rfl
@[simp] theorem past_scrubEvery : (s.past len).scrubEvery = s.scrubEvery := rfl
@[simp] theorem past_zhevDead : (s.past len).zhevDead = s.zhevDead := rfl
@[simp] theorem past_regions : (s.past len).regions = s.regions := rfl
@[simp] theorem past_heldWrites : (s.past len).heldWrites = s.heldWrites := rfl
@[simp] theorem past_unreliable : (s.past len).unreliable = s.unreliable := rfl
@[simp] theorem past_bootSel : (s.past len).bootSel = s.bootSel := rfl
@[simp] theorem past_released : (s.past len).released = s.released := rfl

@[simp] theorem stall_now : (s.stall len rd w).now = s.now := rfl
@[simp] theorem stall_off : (s.stall len rd w).off = s.off := rfl
@[simp] theorem stall_saved : (s.stall len rd w).saved = s.saved := rfl
@[simp] theorem stall_clusters : (s.stall len rd w).clusters = s.clusters := rfl
@[simp] theorem stall_dies : (s.stall len rd w).dies = s.dies := rfl
@[simp] theorem stall_home : (s.stall len rd w).home = s.home := rfl
@[simp] theorem stall_ids : (s.stall len rd w).ids = s.ids := rfl
@[simp] theorem stall_applied : (s.stall len rd w).applied = s.applied := rfl
@[simp] theorem stall_pubs : (s.stall len rd w).pubs = s.pubs := rfl
@[simp] theorem stall_winDev : (s.stall len rd w).winDev = s.winDev := rfl
@[simp] theorem stall_winSys : (s.stall len rd w).winSys = s.winSys := rfl
@[simp] theorem stall_seq : (s.stall len rd w).seq = s.seq := rfl
@[simp] theorem stall_loads : (s.stall len rd w).loads = s.loads := rfl
@[simp] theorem stall_locals : (s.stall len rd w).locals = s.locals := rfl
@[simp] theorem stall_packets : (s.stall len rd w).packets = s.packets := rfl
@[simp] theorem stall_invAddr : (s.stall len rd w).invAddr = s.invAddr := rfl
@[simp] theorem stall_invAsid : (s.stall len rd w).invAsid = s.invAsid := rfl
@[simp] theorem stall_invReq : (s.stall len rd w).invReq = s.invReq := rfl
@[simp] theorem stall_invPend : (s.stall len rd w).invPend = s.invPend := rfl
@[simp] theorem stall_invDone : (s.stall len rd w).invDone = s.invDone := rfl
@[simp] theorem stall_invAcks : (s.stall len rd w).invAcks = s.invAcks := rfl
@[simp] theorem stall_ctxTable : (s.stall len rd w).ctxTable = s.ctxTable := rfl
@[simp] theorem stall_walkStore : (s.stall len rd w).walkStore = s.walkStore := rfl
@[simp] theorem stall_shadowPool : (s.stall len rd w).shadowPool = s.shadowPool := rfl
@[simp] theorem stall_repOff : (s.stall len rd w).repOff = s.repOff := rfl
@[simp] theorem stall_qdesc : (s.stall len rd w).qdesc = s.qdesc := rfl
@[simp] theorem stall_queues : (s.stall len rd w).queues = s.queues := rfl
@[simp] theorem stall_launches : (s.stall len rd w).launches = s.launches := rfl
@[simp] theorem stall_reservations : (s.stall len rd w).reservations = s.reservations := rfl
@[simp] theorem stall_arbAt : (s.stall len rd w).arbAt = s.arbAt := rfl
@[simp] theorem stall_freed : (s.stall len rd w).freed = s.freed := rfl
@[simp] theorem stall_rotateAt : (s.stall len rd w).rotateAt = s.rotateAt := rfl
@[simp] theorem stall_saveAreas : (s.stall len rd w).saveAreas = s.saveAreas := rfl
@[simp] theorem stall_boundaries : (s.stall len rd w).boundaries = s.boundaries := rfl
@[simp] theorem stall_stepAt : (s.stall len rd w).stepAt = s.stepAt := rfl
@[simp] theorem stall_domainLost : (s.stall len rd w).domainLost = s.domainLost := rfl
@[simp] theorem stall_goneDevices : (s.stall len rd w).goneDevices = s.goneDevices := rfl
@[simp] theorem stall_goneEndpoints : (s.stall len rd w).goneEndpoints = s.goneEndpoints := rfl
@[simp] theorem stall_groups : (s.stall len rd w).groups = s.groups := rfl
@[simp] theorem stall_instances : (s.stall len rd w).instances = s.instances := rfl
@[simp] theorem stall_chunks : (s.stall len rd w).chunks = s.chunks := rfl
@[simp] theorem stall_poolChunks : (s.stall len rd w).poolChunks = s.poolChunks := rfl
@[simp] theorem stall_spillCount : (s.stall len rd w).spillCount = s.spillCount := rfl
@[simp] theorem stall_staleChunks : (s.stall len rd w).staleChunks = s.staleChunks := rfl
@[simp] theorem stall_ras : (s.stall len rd w).ras = s.ras := rfl
@[simp] theorem stall_rasOverflow : (s.stall len rd w).rasOverflow = s.rasOverflow := rfl
@[simp] theorem stall_poison : (s.stall len rd w).poison = s.poison := rfl
@[simp] theorem stall_cover : (s.stall len rd w).cover = s.cover := rfl
@[simp] theorem stall_snapHeld : (s.stall len rd w).snapHeld = s.snapHeld := rfl
@[simp] theorem stall_snapSrc : (s.stall len rd w).snapSrc = s.snapSrc := rfl
@[simp] theorem stall_snapMissed : (s.stall len rd w).snapMissed = s.snapMissed := rfl
@[simp] theorem stall_snapPending : (s.stall len rd w).snapPending = s.snapPending := rfl
@[simp] theorem stall_snapImage : (s.stall len rd w).snapImage = s.snapImage := rfl
@[simp] theorem stall_readyNow : (s.stall len rd w).readyNow = s.readyNow := rfl
@[simp] theorem stall_cmapStage : (s.stall len rd w).cmapStage = s.cmapStage := rfl
@[simp] theorem stall_bootStage : (s.stall len rd w).bootStage = s.bootStage := rfl
@[simp] theorem stall_bootSrc : (s.stall len rd w).bootSrc = s.bootSrc := rfl
@[simp] theorem stall_bootFail : (s.stall len rd w).bootFail = s.bootFail := rfl
@[simp] theorem stall_bootHalted : (s.stall len rd w).bootHalted = s.bootHalted := rfl
@[simp] theorem stall_fuseCount : (s.stall len rd w).fuseCount = s.fuseCount := rfl
@[simp] theorem stall_keyDigest : (s.stall len rd w).keyDigest = s.keyDigest := rfl
@[simp] theorem stall_serial : (s.stall len rd w).serial = s.serial := rfl
@[simp] theorem stall_digest1 : (s.stall len rd w).digest1 = s.digest1 := rfl
@[simp] theorem stall_svn1 : (s.stall len rd w).svn1 = s.svn1 := rfl
@[simp] theorem stall_digest2 : (s.stall len rd w).digest2 = s.digest2 := rfl
@[simp] theorem stall_svn2 : (s.stall len rd w).svn2 = s.svn2 := rfl
@[simp] theorem stall_mreq : (s.stall len rd w).mreq = s.mreq := rfl
@[simp] theorem stall_mreqQueue : (s.stall len rd w).mreqQueue = s.mreqQueue := rfl
@[simp] theorem stall_rights : (s.stall len rd w).rights = s.rights := rfl
@[simp] theorem stall_requests : (s.stall len rd w).requests = s.requests := rfl
@[simp] theorem stall_focus : (s.stall len rd w).focus = s.focus := rfl
@[simp] theorem stall_thr : (s.stall len rd w).thr = s.thr := rfl
@[simp] theorem stall_agenda : (s.stall len rd w).agenda = s.agenda := rfl
@[simp] theorem stall_waiting : (s.stall len rd w).waiting = s.waiting := rfl
@[simp] theorem stall_fresh : (s.stall len rd w).fresh = s.fresh := rfl
@[simp] theorem stall_tagged : (s.stall len rd w).tagged = s.tagged := rfl
@[simp] theorem stall_latent : (s.stall len rd w).latent = s.latent := rfl
@[simp] theorem stall_scrubEvery : (s.stall len rd w).scrubEvery = s.scrubEvery := rfl
@[simp] theorem stall_zhevDead : (s.stall len rd w).zhevDead = s.zhevDead := rfl
@[simp] theorem stall_regions : (s.stall len rd w).regions = s.regions := rfl
@[simp] theorem stall_heldWrites : (s.stall len rd w).heldWrites = s.heldWrites := rfl
@[simp] theorem stall_unreliable : (s.stall len rd w).unreliable = s.unreliable := rfl
@[simp] theorem stall_bootSel : (s.stall len rd w).bootSel = s.bootSel := rfl
@[simp] theorem stall_released : (s.stall len rd w).released = s.released := rfl

@[simp] theorem setCluster_now : (s.setCluster k z).now = s.now := rfl
@[simp] theorem setCluster_off : (s.setCluster k z).off = s.off := rfl
@[simp] theorem setCluster_cores : (s.setCluster k z).cores = s.cores := rfl
@[simp] theorem setCluster_saved : (s.setCluster k z).saved = s.saved := rfl
@[simp] theorem setCluster_dies : (s.setCluster k z).dies = s.dies := rfl
@[simp] theorem setCluster_home : (s.setCluster k z).home = s.home := rfl
@[simp] theorem setCluster_ids : (s.setCluster k z).ids = s.ids := rfl
@[simp] theorem setCluster_applied : (s.setCluster k z).applied = s.applied := rfl
@[simp] theorem setCluster_pubs : (s.setCluster k z).pubs = s.pubs := rfl
@[simp] theorem setCluster_winDev : (s.setCluster k z).winDev = s.winDev := rfl
@[simp] theorem setCluster_winSys : (s.setCluster k z).winSys = s.winSys := rfl
@[simp] theorem setCluster_seq : (s.setCluster k z).seq = s.seq := rfl
@[simp] theorem setCluster_loads : (s.setCluster k z).loads = s.loads := rfl
@[simp] theorem setCluster_locals : (s.setCluster k z).locals = s.locals := rfl
@[simp] theorem setCluster_packets : (s.setCluster k z).packets = s.packets := rfl
@[simp] theorem setCluster_invAddr : (s.setCluster k z).invAddr = s.invAddr := rfl
@[simp] theorem setCluster_invAsid : (s.setCluster k z).invAsid = s.invAsid := rfl
@[simp] theorem setCluster_invReq : (s.setCluster k z).invReq = s.invReq := rfl
@[simp] theorem setCluster_invPend : (s.setCluster k z).invPend = s.invPend := rfl
@[simp] theorem setCluster_invDone : (s.setCluster k z).invDone = s.invDone := rfl
@[simp] theorem setCluster_invAcks : (s.setCluster k z).invAcks = s.invAcks := rfl
@[simp] theorem setCluster_ctxTable : (s.setCluster k z).ctxTable = s.ctxTable := rfl
@[simp] theorem setCluster_walkStore : (s.setCluster k z).walkStore = s.walkStore := rfl
@[simp] theorem setCluster_shadowPool : (s.setCluster k z).shadowPool = s.shadowPool := rfl
@[simp] theorem setCluster_repOff : (s.setCluster k z).repOff = s.repOff := rfl
@[simp] theorem setCluster_qdesc : (s.setCluster k z).qdesc = s.qdesc := rfl
@[simp] theorem setCluster_queues : (s.setCluster k z).queues = s.queues := rfl
@[simp] theorem setCluster_launches : (s.setCluster k z).launches = s.launches := rfl
@[simp] theorem setCluster_reservations : (s.setCluster k z).reservations = s.reservations := rfl
@[simp] theorem setCluster_arbAt : (s.setCluster k z).arbAt = s.arbAt := rfl
@[simp] theorem setCluster_freed : (s.setCluster k z).freed = s.freed := rfl
@[simp] theorem setCluster_rotateAt : (s.setCluster k z).rotateAt = s.rotateAt := rfl
@[simp] theorem setCluster_saveAreas : (s.setCluster k z).saveAreas = s.saveAreas := rfl
@[simp] theorem setCluster_boundaries : (s.setCluster k z).boundaries = s.boundaries := rfl
@[simp] theorem setCluster_stepAt : (s.setCluster k z).stepAt = s.stepAt := rfl
@[simp] theorem setCluster_domainLost : (s.setCluster k z).domainLost = s.domainLost := rfl
@[simp] theorem setCluster_goneDevices : (s.setCluster k z).goneDevices = s.goneDevices := rfl
@[simp] theorem setCluster_goneEndpoints : (s.setCluster k z).goneEndpoints = s.goneEndpoints := rfl
@[simp] theorem setCluster_groups : (s.setCluster k z).groups = s.groups := rfl
@[simp] theorem setCluster_instances : (s.setCluster k z).instances = s.instances := rfl
@[simp] theorem setCluster_chunks : (s.setCluster k z).chunks = s.chunks := rfl
@[simp] theorem setCluster_poolChunks : (s.setCluster k z).poolChunks = s.poolChunks := rfl
@[simp] theorem setCluster_spillCount : (s.setCluster k z).spillCount = s.spillCount := rfl
@[simp] theorem setCluster_staleChunks : (s.setCluster k z).staleChunks = s.staleChunks := rfl
@[simp] theorem setCluster_ras : (s.setCluster k z).ras = s.ras := rfl
@[simp] theorem setCluster_rasOverflow : (s.setCluster k z).rasOverflow = s.rasOverflow := rfl
@[simp] theorem setCluster_poison : (s.setCluster k z).poison = s.poison := rfl
@[simp] theorem setCluster_cover : (s.setCluster k z).cover = s.cover := rfl
@[simp] theorem setCluster_snapHeld : (s.setCluster k z).snapHeld = s.snapHeld := rfl
@[simp] theorem setCluster_snapSrc : (s.setCluster k z).snapSrc = s.snapSrc := rfl
@[simp] theorem setCluster_snapMissed : (s.setCluster k z).snapMissed = s.snapMissed := rfl
@[simp] theorem setCluster_snapPending : (s.setCluster k z).snapPending = s.snapPending := rfl
@[simp] theorem setCluster_snapImage : (s.setCluster k z).snapImage = s.snapImage := rfl
@[simp] theorem setCluster_readyNow : (s.setCluster k z).readyNow = s.readyNow := rfl
@[simp] theorem setCluster_cmapStage : (s.setCluster k z).cmapStage = s.cmapStage := rfl
@[simp] theorem setCluster_bootStage : (s.setCluster k z).bootStage = s.bootStage := rfl
@[simp] theorem setCluster_bootSrc : (s.setCluster k z).bootSrc = s.bootSrc := rfl
@[simp] theorem setCluster_bootFail : (s.setCluster k z).bootFail = s.bootFail := rfl
@[simp] theorem setCluster_bootHalted : (s.setCluster k z).bootHalted = s.bootHalted := rfl
@[simp] theorem setCluster_fuseCount : (s.setCluster k z).fuseCount = s.fuseCount := rfl
@[simp] theorem setCluster_keyDigest : (s.setCluster k z).keyDigest = s.keyDigest := rfl
@[simp] theorem setCluster_serial : (s.setCluster k z).serial = s.serial := rfl
@[simp] theorem setCluster_digest1 : (s.setCluster k z).digest1 = s.digest1 := rfl
@[simp] theorem setCluster_svn1 : (s.setCluster k z).svn1 = s.svn1 := rfl
@[simp] theorem setCluster_digest2 : (s.setCluster k z).digest2 = s.digest2 := rfl
@[simp] theorem setCluster_svn2 : (s.setCluster k z).svn2 = s.svn2 := rfl
@[simp] theorem setCluster_mreq : (s.setCluster k z).mreq = s.mreq := rfl
@[simp] theorem setCluster_mreqQueue : (s.setCluster k z).mreqQueue = s.mreqQueue := rfl
@[simp] theorem setCluster_rights : (s.setCluster k z).rights = s.rights := rfl
@[simp] theorem setCluster_requests : (s.setCluster k z).requests = s.requests := rfl
@[simp] theorem setCluster_focus : (s.setCluster k z).focus = s.focus := rfl
@[simp] theorem setCluster_thr : (s.setCluster k z).thr = s.thr := rfl
@[simp] theorem setCluster_agenda : (s.setCluster k z).agenda = s.agenda := rfl
@[simp] theorem setCluster_waiting : (s.setCluster k z).waiting = s.waiting := rfl
@[simp] theorem setCluster_fresh : (s.setCluster k z).fresh = s.fresh := rfl
@[simp] theorem setCluster_tagged : (s.setCluster k z).tagged = s.tagged := rfl
@[simp] theorem setCluster_latent : (s.setCluster k z).latent = s.latent := rfl
@[simp] theorem setCluster_scrubEvery : (s.setCluster k z).scrubEvery = s.scrubEvery := rfl
@[simp] theorem setCluster_zhevDead : (s.setCluster k z).zhevDead = s.zhevDead := rfl
@[simp] theorem setCluster_regions : (s.setCluster k z).regions = s.regions := rfl
@[simp] theorem setCluster_heldWrites : (s.setCluster k z).heldWrites = s.heldWrites := rfl
@[simp] theorem setCluster_unreliable : (s.setCluster k z).unreliable = s.unreliable := rfl
@[simp] theorem setCluster_bootSel : (s.setCluster k z).bootSel = s.bootSel := rfl
@[simp] theorem setCluster_released : (s.setCluster k z).released = s.released := rfl

@[simp] theorem setDie_now : (s.setDie d e).now = s.now := rfl
@[simp] theorem setDie_off : (s.setDie d e).off = s.off := rfl
@[simp] theorem setDie_cores : (s.setDie d e).cores = s.cores := rfl
@[simp] theorem setDie_saved : (s.setDie d e).saved = s.saved := rfl
@[simp] theorem setDie_clusters : (s.setDie d e).clusters = s.clusters := rfl
@[simp] theorem setDie_home : (s.setDie d e).home = s.home := rfl
@[simp] theorem setDie_ids : (s.setDie d e).ids = s.ids := rfl
@[simp] theorem setDie_applied : (s.setDie d e).applied = s.applied := rfl
@[simp] theorem setDie_pubs : (s.setDie d e).pubs = s.pubs := rfl
@[simp] theorem setDie_winDev : (s.setDie d e).winDev = s.winDev := rfl
@[simp] theorem setDie_winSys : (s.setDie d e).winSys = s.winSys := rfl
@[simp] theorem setDie_seq : (s.setDie d e).seq = s.seq := rfl
@[simp] theorem setDie_loads : (s.setDie d e).loads = s.loads := rfl
@[simp] theorem setDie_locals : (s.setDie d e).locals = s.locals := rfl
@[simp] theorem setDie_packets : (s.setDie d e).packets = s.packets := rfl
@[simp] theorem setDie_invAddr : (s.setDie d e).invAddr = s.invAddr := rfl
@[simp] theorem setDie_invAsid : (s.setDie d e).invAsid = s.invAsid := rfl
@[simp] theorem setDie_invReq : (s.setDie d e).invReq = s.invReq := rfl
@[simp] theorem setDie_invPend : (s.setDie d e).invPend = s.invPend := rfl
@[simp] theorem setDie_invDone : (s.setDie d e).invDone = s.invDone := rfl
@[simp] theorem setDie_invAcks : (s.setDie d e).invAcks = s.invAcks := rfl
@[simp] theorem setDie_ctxTable : (s.setDie d e).ctxTable = s.ctxTable := rfl
@[simp] theorem setDie_walkStore : (s.setDie d e).walkStore = s.walkStore := rfl
@[simp] theorem setDie_shadowPool : (s.setDie d e).shadowPool = s.shadowPool := rfl
@[simp] theorem setDie_repOff : (s.setDie d e).repOff = s.repOff := rfl
@[simp] theorem setDie_qdesc : (s.setDie d e).qdesc = s.qdesc := rfl
@[simp] theorem setDie_queues : (s.setDie d e).queues = s.queues := rfl
@[simp] theorem setDie_launches : (s.setDie d e).launches = s.launches := rfl
@[simp] theorem setDie_reservations : (s.setDie d e).reservations = s.reservations := rfl
@[simp] theorem setDie_arbAt : (s.setDie d e).arbAt = s.arbAt := rfl
@[simp] theorem setDie_freed : (s.setDie d e).freed = s.freed := rfl
@[simp] theorem setDie_rotateAt : (s.setDie d e).rotateAt = s.rotateAt := rfl
@[simp] theorem setDie_saveAreas : (s.setDie d e).saveAreas = s.saveAreas := rfl
@[simp] theorem setDie_boundaries : (s.setDie d e).boundaries = s.boundaries := rfl
@[simp] theorem setDie_stepAt : (s.setDie d e).stepAt = s.stepAt := rfl
@[simp] theorem setDie_domainLost : (s.setDie d e).domainLost = s.domainLost := rfl
@[simp] theorem setDie_goneDevices : (s.setDie d e).goneDevices = s.goneDevices := rfl
@[simp] theorem setDie_goneEndpoints : (s.setDie d e).goneEndpoints = s.goneEndpoints := rfl
@[simp] theorem setDie_groups : (s.setDie d e).groups = s.groups := rfl
@[simp] theorem setDie_instances : (s.setDie d e).instances = s.instances := rfl
@[simp] theorem setDie_chunks : (s.setDie d e).chunks = s.chunks := rfl
@[simp] theorem setDie_poolChunks : (s.setDie d e).poolChunks = s.poolChunks := rfl
@[simp] theorem setDie_spillCount : (s.setDie d e).spillCount = s.spillCount := rfl
@[simp] theorem setDie_staleChunks : (s.setDie d e).staleChunks = s.staleChunks := rfl
@[simp] theorem setDie_ras : (s.setDie d e).ras = s.ras := rfl
@[simp] theorem setDie_rasOverflow : (s.setDie d e).rasOverflow = s.rasOverflow := rfl
@[simp] theorem setDie_poison : (s.setDie d e).poison = s.poison := rfl
@[simp] theorem setDie_cover : (s.setDie d e).cover = s.cover := rfl
@[simp] theorem setDie_snapHeld : (s.setDie d e).snapHeld = s.snapHeld := rfl
@[simp] theorem setDie_snapSrc : (s.setDie d e).snapSrc = s.snapSrc := rfl
@[simp] theorem setDie_snapMissed : (s.setDie d e).snapMissed = s.snapMissed := rfl
@[simp] theorem setDie_snapPending : (s.setDie d e).snapPending = s.snapPending := rfl
@[simp] theorem setDie_snapImage : (s.setDie d e).snapImage = s.snapImage := rfl
@[simp] theorem setDie_readyNow : (s.setDie d e).readyNow = s.readyNow := rfl
@[simp] theorem setDie_cmapStage : (s.setDie d e).cmapStage = s.cmapStage := rfl
@[simp] theorem setDie_bootStage : (s.setDie d e).bootStage = s.bootStage := rfl
@[simp] theorem setDie_bootSrc : (s.setDie d e).bootSrc = s.bootSrc := rfl
@[simp] theorem setDie_bootFail : (s.setDie d e).bootFail = s.bootFail := rfl
@[simp] theorem setDie_bootHalted : (s.setDie d e).bootHalted = s.bootHalted := rfl
@[simp] theorem setDie_fuseCount : (s.setDie d e).fuseCount = s.fuseCount := rfl
@[simp] theorem setDie_keyDigest : (s.setDie d e).keyDigest = s.keyDigest := rfl
@[simp] theorem setDie_serial : (s.setDie d e).serial = s.serial := rfl
@[simp] theorem setDie_digest1 : (s.setDie d e).digest1 = s.digest1 := rfl
@[simp] theorem setDie_svn1 : (s.setDie d e).svn1 = s.svn1 := rfl
@[simp] theorem setDie_digest2 : (s.setDie d e).digest2 = s.digest2 := rfl
@[simp] theorem setDie_svn2 : (s.setDie d e).svn2 = s.svn2 := rfl
@[simp] theorem setDie_mreq : (s.setDie d e).mreq = s.mreq := rfl
@[simp] theorem setDie_mreqQueue : (s.setDie d e).mreqQueue = s.mreqQueue := rfl
@[simp] theorem setDie_rights : (s.setDie d e).rights = s.rights := rfl
@[simp] theorem setDie_requests : (s.setDie d e).requests = s.requests := rfl
@[simp] theorem setDie_focus : (s.setDie d e).focus = s.focus := rfl
@[simp] theorem setDie_thr : (s.setDie d e).thr = s.thr := rfl
@[simp] theorem setDie_agenda : (s.setDie d e).agenda = s.agenda := rfl
@[simp] theorem setDie_waiting : (s.setDie d e).waiting = s.waiting := rfl
@[simp] theorem setDie_fresh : (s.setDie d e).fresh = s.fresh := rfl
@[simp] theorem setDie_tagged : (s.setDie d e).tagged = s.tagged := rfl
@[simp] theorem setDie_latent : (s.setDie d e).latent = s.latent := rfl
@[simp] theorem setDie_scrubEvery : (s.setDie d e).scrubEvery = s.scrubEvery := rfl
@[simp] theorem setDie_zhevDead : (s.setDie d e).zhevDead = s.zhevDead := rfl
@[simp] theorem setDie_regions : (s.setDie d e).regions = s.regions := rfl
@[simp] theorem setDie_heldWrites : (s.setDie d e).heldWrites = s.heldWrites := rfl
@[simp] theorem setDie_unreliable : (s.setDie d e).unreliable = s.unreliable := rfl
@[simp] theorem setDie_bootSel : (s.setDie d e).bootSel = s.bootSel := rfl
@[simp] theorem setDie_released : (s.setDie d e).released = s.released := rfl

@[simp] theorem setBoundary_now : (s.setBoundary b g).now = s.now := rfl
@[simp] theorem setBoundary_off : (s.setBoundary b g).off = s.off := rfl
@[simp] theorem setBoundary_cores : (s.setBoundary b g).cores = s.cores := rfl
@[simp] theorem setBoundary_saved : (s.setBoundary b g).saved = s.saved := rfl
@[simp] theorem setBoundary_clusters : (s.setBoundary b g).clusters = s.clusters := rfl
@[simp] theorem setBoundary_dies : (s.setBoundary b g).dies = s.dies := rfl
@[simp] theorem setBoundary_home : (s.setBoundary b g).home = s.home := rfl
@[simp] theorem setBoundary_ids : (s.setBoundary b g).ids = s.ids := rfl
@[simp] theorem setBoundary_applied : (s.setBoundary b g).applied = s.applied := rfl
@[simp] theorem setBoundary_pubs : (s.setBoundary b g).pubs = s.pubs := rfl
@[simp] theorem setBoundary_winDev : (s.setBoundary b g).winDev = s.winDev := rfl
@[simp] theorem setBoundary_winSys : (s.setBoundary b g).winSys = s.winSys := rfl
@[simp] theorem setBoundary_seq : (s.setBoundary b g).seq = s.seq := rfl
@[simp] theorem setBoundary_loads : (s.setBoundary b g).loads = s.loads := rfl
@[simp] theorem setBoundary_locals : (s.setBoundary b g).locals = s.locals := rfl
@[simp] theorem setBoundary_packets : (s.setBoundary b g).packets = s.packets := rfl
@[simp] theorem setBoundary_invAddr : (s.setBoundary b g).invAddr = s.invAddr := rfl
@[simp] theorem setBoundary_invAsid : (s.setBoundary b g).invAsid = s.invAsid := rfl
@[simp] theorem setBoundary_invReq : (s.setBoundary b g).invReq = s.invReq := rfl
@[simp] theorem setBoundary_invPend : (s.setBoundary b g).invPend = s.invPend := rfl
@[simp] theorem setBoundary_invDone : (s.setBoundary b g).invDone = s.invDone := rfl
@[simp] theorem setBoundary_invAcks : (s.setBoundary b g).invAcks = s.invAcks := rfl
@[simp] theorem setBoundary_ctxTable : (s.setBoundary b g).ctxTable = s.ctxTable := rfl
@[simp] theorem setBoundary_walkStore : (s.setBoundary b g).walkStore = s.walkStore := rfl
@[simp] theorem setBoundary_shadowPool : (s.setBoundary b g).shadowPool = s.shadowPool := rfl
@[simp] theorem setBoundary_repOff : (s.setBoundary b g).repOff = s.repOff := rfl
@[simp] theorem setBoundary_qdesc : (s.setBoundary b g).qdesc = s.qdesc := rfl
@[simp] theorem setBoundary_queues : (s.setBoundary b g).queues = s.queues := rfl
@[simp] theorem setBoundary_launches : (s.setBoundary b g).launches = s.launches := rfl
@[simp] theorem setBoundary_reservations : (s.setBoundary b g).reservations = s.reservations := rfl
@[simp] theorem setBoundary_arbAt : (s.setBoundary b g).arbAt = s.arbAt := rfl
@[simp] theorem setBoundary_freed : (s.setBoundary b g).freed = s.freed := rfl
@[simp] theorem setBoundary_rotateAt : (s.setBoundary b g).rotateAt = s.rotateAt := rfl
@[simp] theorem setBoundary_saveAreas : (s.setBoundary b g).saveAreas = s.saveAreas := rfl
@[simp] theorem setBoundary_stepAt : (s.setBoundary b g).stepAt = s.stepAt := rfl
@[simp] theorem setBoundary_domainLost : (s.setBoundary b g).domainLost = s.domainLost := rfl
@[simp] theorem setBoundary_goneDevices : (s.setBoundary b g).goneDevices = s.goneDevices := rfl
@[simp] theorem setBoundary_goneEndpoints : (s.setBoundary b g).goneEndpoints = s.goneEndpoints := rfl
@[simp] theorem setBoundary_groups : (s.setBoundary b g).groups = s.groups := rfl
@[simp] theorem setBoundary_instances : (s.setBoundary b g).instances = s.instances := rfl
@[simp] theorem setBoundary_chunks : (s.setBoundary b g).chunks = s.chunks := rfl
@[simp] theorem setBoundary_poolChunks : (s.setBoundary b g).poolChunks = s.poolChunks := rfl
@[simp] theorem setBoundary_spillCount : (s.setBoundary b g).spillCount = s.spillCount := rfl
@[simp] theorem setBoundary_staleChunks : (s.setBoundary b g).staleChunks = s.staleChunks := rfl
@[simp] theorem setBoundary_ras : (s.setBoundary b g).ras = s.ras := rfl
@[simp] theorem setBoundary_rasOverflow : (s.setBoundary b g).rasOverflow = s.rasOverflow := rfl
@[simp] theorem setBoundary_poison : (s.setBoundary b g).poison = s.poison := rfl
@[simp] theorem setBoundary_cover : (s.setBoundary b g).cover = s.cover := rfl
@[simp] theorem setBoundary_snapHeld : (s.setBoundary b g).snapHeld = s.snapHeld := rfl
@[simp] theorem setBoundary_snapSrc : (s.setBoundary b g).snapSrc = s.snapSrc := rfl
@[simp] theorem setBoundary_snapMissed : (s.setBoundary b g).snapMissed = s.snapMissed := rfl
@[simp] theorem setBoundary_snapPending : (s.setBoundary b g).snapPending = s.snapPending := rfl
@[simp] theorem setBoundary_snapImage : (s.setBoundary b g).snapImage = s.snapImage := rfl
@[simp] theorem setBoundary_readyNow : (s.setBoundary b g).readyNow = s.readyNow := rfl
@[simp] theorem setBoundary_cmapStage : (s.setBoundary b g).cmapStage = s.cmapStage := rfl
@[simp] theorem setBoundary_bootStage : (s.setBoundary b g).bootStage = s.bootStage := rfl
@[simp] theorem setBoundary_bootSrc : (s.setBoundary b g).bootSrc = s.bootSrc := rfl
@[simp] theorem setBoundary_bootFail : (s.setBoundary b g).bootFail = s.bootFail := rfl
@[simp] theorem setBoundary_bootHalted : (s.setBoundary b g).bootHalted = s.bootHalted := rfl
@[simp] theorem setBoundary_fuseCount : (s.setBoundary b g).fuseCount = s.fuseCount := rfl
@[simp] theorem setBoundary_keyDigest : (s.setBoundary b g).keyDigest = s.keyDigest := rfl
@[simp] theorem setBoundary_serial : (s.setBoundary b g).serial = s.serial := rfl
@[simp] theorem setBoundary_digest1 : (s.setBoundary b g).digest1 = s.digest1 := rfl
@[simp] theorem setBoundary_svn1 : (s.setBoundary b g).svn1 = s.svn1 := rfl
@[simp] theorem setBoundary_digest2 : (s.setBoundary b g).digest2 = s.digest2 := rfl
@[simp] theorem setBoundary_svn2 : (s.setBoundary b g).svn2 = s.svn2 := rfl
@[simp] theorem setBoundary_mreq : (s.setBoundary b g).mreq = s.mreq := rfl
@[simp] theorem setBoundary_mreqQueue : (s.setBoundary b g).mreqQueue = s.mreqQueue := rfl
@[simp] theorem setBoundary_rights : (s.setBoundary b g).rights = s.rights := rfl
@[simp] theorem setBoundary_requests : (s.setBoundary b g).requests = s.requests := rfl
@[simp] theorem setBoundary_focus : (s.setBoundary b g).focus = s.focus := rfl
@[simp] theorem setBoundary_thr : (s.setBoundary b g).thr = s.thr := rfl
@[simp] theorem setBoundary_agenda : (s.setBoundary b g).agenda = s.agenda := rfl
@[simp] theorem setBoundary_waiting : (s.setBoundary b g).waiting = s.waiting := rfl
@[simp] theorem setBoundary_fresh : (s.setBoundary b g).fresh = s.fresh := rfl
@[simp] theorem setBoundary_tagged : (s.setBoundary b g).tagged = s.tagged := rfl
@[simp] theorem setBoundary_latent : (s.setBoundary b g).latent = s.latent := rfl
@[simp] theorem setBoundary_scrubEvery : (s.setBoundary b g).scrubEvery = s.scrubEvery := rfl
@[simp] theorem setBoundary_zhevDead : (s.setBoundary b g).zhevDead = s.zhevDead := rfl
@[simp] theorem setBoundary_regions : (s.setBoundary b g).regions = s.regions := rfl
@[simp] theorem setBoundary_heldWrites : (s.setBoundary b g).heldWrites = s.heldWrites := rfl
@[simp] theorem setBoundary_unreliable : (s.setBoundary b g).unreliable = s.unreliable := rfl
@[simp] theorem setBoundary_bootSel : (s.setBoundary b g).bootSel = s.bootSel := rfl
@[simp] theorem setBoundary_released : (s.setBoundary b g).released = s.released := rfl

end

/-! ## What the accessors read -/

section
variable (s : State)

@[simp] theorem core_setCore_same (c : Nat) (x : Core) : (s.setCore c x).core c = x := PMap.get_put_same _ _ _ _

theorem core_setCore_other {a c : Nat} (h : a ≠ c) (x : Core) : (s.setCore c x).core a = s.core a :=
  PMap.get_put_other _ h _ _

@[simp] theorem cluster_setCluster_same (k : Nat) (x : Cluster) : (s.setCluster k x).cluster k = x :=
  PMap.get_put_same _ _ _ _

theorem cluster_setCluster_other {a k : Nat} (h : a ≠ k) (x : Cluster) : (s.setCluster k x).cluster a = s.cluster a :=
  PMap.get_put_other _ h _ _

@[simp] theorem die_setDie_same (d : Nat) (x : Die) : (s.setDie d x).die d = x := PMap.get_put_same _ _ _ _

theorem die_setDie_other {a d : Nat} (h : a ≠ d) (x : Die) : (s.setDie d x).die a = s.die a :=
  PMap.get_put_other _ h _ _

@[simp] theorem cluster_setCore (c k : Nat) (x : Core) : (s.setCore c x).cluster k = s.cluster k := rfl
@[simp] theorem die_setCore (c d : Nat) (x : Core) : (s.setCore c x).die d = s.die d := rfl
@[simp] theorem core_setCluster (c k : Nat) (x : Cluster) : (s.setCluster k x).core c = s.core c := rfl
@[simp] theorem die_setCluster (d k : Nat) (x : Cluster) : (s.setCluster k x).die d = s.die d := rfl
@[simp] theorem core_setDie (c d : Nat) (x : Die) : (s.setDie d x).core c = s.core c := rfl
@[simp] theorem cluster_setDie (k d : Nat) (x : Die) : (s.setDie d x).cluster k = s.cluster k := rfl

@[simp] theorem cur_setCtx (y : Ctx) : (s.setCtx y).cur = { s.cur with run := y } := core_setCore_same s _ _
@[simp] theorem ctx_setCtx (y : Ctx) : (s.setCtx y).ctx = y := by simp [State.ctx]
@[simp] theorem setCtx_setCtx_ctx (x y : Ctx) : ((s.setCtx x).setCtx y).ctx = y := ctx_setCtx _ _

theorem core_setCtx_other {c : Nat} (h : c ≠ s.focus) (y : Ctx) : (s.setCtx y).core c = s.core c :=
  core_setCore_other s h _

@[simp] theorem thread_setThread_same (x : Ctx) (n : Fin 11) (h : Thread) : (x.setThread n h).thread n = h := by
  simp [Ctx.setThread, Ctx.thread]

theorem thread_setThread_other (x : Ctx) {n m : Fin 11} (hn : m ≠ n) (h : Thread) :
    (x.setThread n h).thread m = x.thread m := by
  have : n.val ≠ m.val := fun e => hn (Fin.ext e.symm)
  simp [Ctx.setThread, Ctx.thread, Vector.getElem_set_ne, this]

@[simp] theorem ctx_setTh (h : Thread) : (s.setTh h).ctx = s.ctx.setThread s.thr h := ctx_setCtx _ _
@[simp] theorem cur_setTh (h : Thread) : (s.setTh h).cur = { s.cur with run := s.ctx.setThread s.thr h } := cur_setCtx _ _
@[simp] theorem th_setTh (h : Thread) : (s.setTh h).th = h := by
  simp [State.th]

theorem core_setTh_other {c : Nat} (h : c ≠ s.focus) (t : Thread) : (s.setTh t).core c = s.core c :=
  core_setCtx_other s h _

@[simp] theorem cluster_setTh (k : Nat) (h : Thread) : (s.setTh h).cluster k = s.cluster k := rfl
@[simp] theorem die_setTh (d : Nat) (h : Thread) : (s.setTh h).die d = s.die d := rfl
@[simp] theorem cluster_setCtx (k : Nat) (y : Ctx) : (s.setCtx y).cluster k = s.cluster k := rfl
@[simp] theorem die_setCtx (d : Nat) (y : Ctx) : (s.setCtx y).die d = s.die d := rfl

theorem ulm_setTh (c : Nat) (h : Thread) : ((s.setTh h).core c).ulm = (s.core c).ulm := by
  by_cases hc : c = s.focus
  · subst hc
    have e : ((s.setTh h).cur).ulm = s.cur.ulm := by rw [cur_setTh]
    exact e
  · rw [core_setTh_other s hc]

end

/-! ## The shared endings of an instruction -/

/-- Whatever replaces the issuing thread changes nothing else. -/
theorem onlyThread_setTh (s : State) (h : Thread) : OnlyThread s (s.setTh h) where
  device := rfl
  cores c hc := core_setTh_other s hc h
  core := by simp [State.ctx]
  ctx := by simp [Ctx.setThread]
  threads n hn := by simp [thread_setThread_other _ hn, State.ctx]

theorem sameMemory_setTh (s : State) (h : Thread) : SameMemory s (s.setTh h) := by
  intro p
  cases p with
  | ulm c a => simp only [State.byteAt, ulm_setTh]
  | _ => rfl

end Sys2Proof.Laws
end

