-- ==== Sys2Proof/Tests/Slice0.lean ====
section
/-!
SUPPORT. The author's tests: ill-formed terms that the checks refuse, words of the manual that decode as it says, single steps with
results that the manual gives or that follow by hand from its rules, and for each statement states that meet its hypotheses.
-/

set_option exponentiation.threshold 20000

namespace Sys2Proof.Tests

open Sys2Proof Sys2Proof.Machine

/-! ## Ill-formed terms: one for each check of WellFormed -/

theorem test_wf_vadd_block : (Instr.vadd .nq4 .dyn false 0 0 0 0).wf = false := by decide
theorem test_wf_vadd_rm : (Instr.vadd .i32 .rtz false 0 0 0 0).wf = false := by decide
theorem test_wf_vadd_sat : (Instr.vadd .f32 .dyn true 0 0 0 0).wf = false := by decide
theorem test_wf_vadd_good : (Instr.vadd .i32 .dyn true 1 2 3 0).wf = true := by decide
theorem test_wf_vfma : (Instr.vfma .bq8s .dyn false 0 0 0 0 0).wf = false := by decide
theorem test_wf_vmin : (Instr.vmin .bq8u 0 0 0 0).wf = false := by decide
theorem test_wf_vabs_unsigned : (Instr.vabs .u8 false 0 0 0).wf = false := by decide
theorem test_wf_vneg_sat : (Instr.vneg .f32 true 0 0 0).wf = false := by decide
theorem test_wf_vcmpeq : (Instr.vcmpeq .i8 0 0 0 0).wf = false := by decide
theorem test_wf_vshl_float : (Instr.vshl .f32 0 0 0 0).wf = false := by decide
theorem test_wf_vsra_unsigned : (Instr.vsra .u32 0 0 0 0).wf = false := by decide
theorem test_wf_vcvt_rm : (Instr.vcvt .f32 .bf16 .rtz 0 0 0 0).wf = false := by decide
theorem test_wf_vcvt_p : (Instr.vcvt .f32 .i32 .dyn 1 0 0 0).wf = false := by decide
theorem test_wf_vcvt_block : (Instr.vcvt .f32 .nq4 .dyn 0 0 0 0).wf = false := by decide
theorem test_wf_vbcst : (Instr.vbcst .nq4 0 0 0 0).wf = false := by decide
theorem test_wf_vext : (Instr.vext .nq4 0 0 0).wf = false := by decide
theorem test_wf_viota : (Instr.viota .f32 0 0).wf = false := by decide
theorem test_wf_vredadd : (Instr.vredadd .i32 .rup 0 0 0).wf = false := by decide
theorem test_wf_vredmax : (Instr.vredmax .nq4 0 0 0).wf = false := by decide
theorem test_wf_vscan : (Instr.vscan .bf16 .dyn 0 0 0).wf = false := by decide
theorem test_wf_vdq : (Instr.vdq .f32 0 0 0 0 0).wf = false := by decide
theorem test_wf_vdq_p : (Instr.vdq .bq8s 4 0 0 0 0).wf = false := by decide
theorem test_wf_vqnt_rm : (Instr.vqnt .nq4 .rtz 0 0 0 0 0).wf = false := by decide
theorem test_wf_vscale : (Instr.vscale .i32 0 0 0).wf = false := by decide
theorem test_wf_mwld : (Instr.mwld .f32 0 1 0 0).wf = false := by decide
theorem test_wf_mwld_sup : (Instr.mwld .bf16 0 1 0 1).wf = false := by decide
theorem test_wf_mma : (Instr.mma false .f32 0 0 1 0).wf = false := by decide
theorem test_wf_mma_v : (Instr.mma true .bf16 0 16 1 0).wf = false := by decide
theorem test_wf_mmai_v : (Instr.mmai true false false false 0 17 0 0 1 0).wf = false := by decide
theorem test_wf_mmai_rc : (Instr.mmai false false false false 0 0 0 1 1 0).wf = false := by decide
theorem test_wf_mrank : (Instr.mrank .i8 0 0 0 0 1 0 0).wf = false := by decide
theorem test_wf_rank : (Instr.rank false false .f16 0 0 0 0).wf = false := by decide
theorem test_wf_rank_v : (Instr.rank true false .f32 0 16 0 0).wf = false := by decide
theorem test_wf_rankc : (Instr.rankc false .u32 0 0 0 0 0).wf = false := by decide
theorem test_wf_rkval : (Instr.rkval .i32 0 0 0 0 0).wf = false := by decide
theorem test_wf_aecap : (Instr.aecap true 0 0 1).wf = false := by decide

/-! ## Words (the manual's own, or its fields written out: FN RB RA RD MAJ L) -/

/-- R53, R82: FN 1, RB 6, RA 5, RD 4, MAJ 0x01. -/
theorem test_decode_sub : decode [0b000000001_00110_00101_00100_000001_00] = .ok (.sub 4 5 6) 4 := by decide
/-- R84 gives the word. -/
theorem test_decode_div : decode [0x0225072C] = .ok (.div 7 8 9) 4 := by decide
/-- R85: BITOP, MAJ 0x0C, FN 0 is CLZ; RB unused. -/
theorem test_decode_clz : decode [0b000000000_00000_00101_00100_001100_00] = .ok (.clz 4 5) 4 := by decide
/-- R86 and R87 give the words. -/
theorem test_decode_beq : decode [0x000C8588] = .ok (.beq 4 5 3) 4 := by decide
theorem test_decode_bne : decode [0xFFF8808C] = .ok (.bne 4 0 (-2)) 4 := by decide
theorem test_decode_jalr : decode [0x004120A8] = .ok (.jalr 9 16) 4 := by decide
theorem test_decode_csrr : decode [0x003403B4] = .ok (.csrr 3 .frm) 4 := by decide
theorem test_decode_bar : decode [0x040800AC] = .ok (.bar .spr) 4 := by decide
/-- R113, R122 and R118 give the words. -/
theorem test_decode_ldw : decode [0x00206544] = .ok (.ldw 5 3 8) 4 := by decide
theorem test_decode_pclr : decode [0x008007B0] = .ok (.pclr 7) 4 := by decide
theorem test_decode_ldl : decode [0x00014664] = .ok (.ldl 6 10) 4 := by decide
/-- R127–R145 give the words. -/
theorem test_decode_sst : decode [0x00406574] = .ok (.sst 5 3 16) 4 := by decide
theorem test_decode_sobind : decode [0x0220E680] = .ok (.sobind 6 7 8) 4 := by decide
theorem test_decode_sycas : decode [0x039CC580] = .ok (.sycas 5 6 7) 4 := by decide
theorem test_decode_rel : decode [0x0088E080] = .ok (.rel .dev 7) 4 := by decide
theorem test_decode_sstp : decode [0x00088584] = .ok (.sstp .dev 5 4) 4 := by decide
theorem test_decode_logfadd : decode [0x05948080] = .ok (.logfadd 4 5) 4 := by decide
/-- R180, R189, R190 and R192 give the words. -/
theorem test_decode_cseq : decode [0x0E800FFE, 0, 0] = .ok (.cseq 15 0) 12 := by decide
theorem test_decode_publish : decode [0x0F8124FE, 0, 0] = .ok (.publish 4 9) 12 := by decide
theorem test_decode_cawait : decode [0x0D800AFE, 0, 0] = .ok (.cawait false 10 0) 12 := by decide
/-- R245 gives the word of MSTAT. -/
theorem test_decode_mstat : decode [0x04801AFE, 0, 0] = .ok (.mstat 26 0) 12 := by decide
/-- R273: `aerun s21, s21`: XOP 17, RB 21, RA 21, over the byte 0xFE. -/
theorem test_decode_aerun : decode [0b000010001_10101_10101_00000_111111_10, 0, 0] = .ok (.aerun 21 21) 12 := by decide
/-- R323 gives the word of COLLW. -/
theorem test_decode_collw : decode [0x1080A7FE, 0, 0] = .ok (.collw 7 5) 12 := by decide
/-- R57: a literal on a shift, a shift count above 63, and `addi s0, s0, 1` with a literal. -/
theorem test_decode_addi_lit : decode [0x00000509, 0, 1] = .ok (.addiLit 5 0 0x100000000) 12 := by decide
theorem test_decode_mbz : decode [0x01006320] = .illegal 7 0x01006320 := by decide
theorem test_decode_trunc : decode [0x000000FA] = .illegal 5 0x000000FA := by decide
/-- R225, R219, R224 and the vector unit's table of encodings. -/
theorem test_decode_vfma : decode [0x0198A4FA, 0x00000027, 0] = .ok (.vfma .f32 .dyn false 4 5 6 7 1) 12 := by decide
theorem test_decode_vld : decode [0x118122FA, 0x00008000, 0x00000100] = .ok (.vld true 2 9 256 0) 12 := by decide
theorem test_decode_vqnt : decode [0x153103FA, 0x00010B00, 0] = .ok (.vqnt .bq8s .dyn 2 3 8 12 0) 12 := by decide
theorem test_decode_kpop : decode [0x180067FA, 0, 0] = .ok (.kpop 7 3) 12 := by decide
/-- The matrix unit's table of encodings. -/
theorem test_decode_mwld : decode [0x000140FE, 0x803F8100, 0] = .ok (.mwld .bf16 10 128 127 0) 12 := by decide
theorem test_decode_mma : decode [0x008183FE, 0x40000100, 0] = .ok (.mma false .bf16 3 12 64 0) 12 := by decide
theorem test_decode_mmai : decode [0x0141C2FE, 0x10060012, 0] = .ok (.mmai false false true true 2 14 16 18 16 0) 12 := by decide
theorem test_decode_mdrain : decode [0x02D682FE, 0x04160000, 0x10] = .ok (.mdrain 4 true false 1 2 20 21 4 0x10) 12 := by decide
/-- The rank unit's table of encodings. -/
theorem test_decode_rank : decode [0x051CC5FE, 0x00010108, 0] = .ok (.rank false true .bf16 5 6 7 8) 12 := by decide
theorem test_decode_rankc : decode [0x05AD49FE, 0x0000000C, 0x100] = .ok (.rankc false .f32 9 10 11 12 256) 12 := by decide
theorem test_decode_rkval : decode [0x069CC5FE, 0x00000008, 0x40000000] = .ok (.rkval .f32 5 6 7 8 0x40000000) 12 := by decide
/-- The assignment engine's table of encodings. -/
theorem test_decode_aesc : decode [0x079CC5FE, 0x00000008, 0] = .ok (.aesc 5 6 7 8) 12 := by decide
theorem test_decode_aecap : decode [0x0800C5FE, 0x00008000, 0] = .ok (.aecap true 5 6 0) 12 := by decide

/-! ## Small states -/

/-- A live thread. -/
def th0 : Thread := { Thread.reset with live := true }

/-- A running context whose region is the whole ULM. -/
def ctx0 : Ctx := { Ctx.reset with resident := true, size := 4, threads := Ctx.reset.threads.set 0 th0 }

/-- A context with registers of thread 0 set. -/
def Ctx.with (x : Ctx) (l : List (SReg × W64)) : Ctx :=
  x.setThread 0 (l.foldl (fun t (r, v) => t.setReg r v) (x.thread 0))

/-- The machine with one context, on core 0. -/
def at0 (x : Ctx) : State := { State.reset with now := 100, cores := [(0, { Core.reset with run := x })] }

/-- The state after an outcome. -/
def after (o : Out) : Option State := match o with | .next t => some t | .fault _ | .refused _ => none

/-- What a function finds in the state after an instruction. -/
def obs {α : Type} (i : Instr) (s : State) (f : State → α) : Option α := (after (exec i s)).map f

/-- Supervisor mode. -/
def Ctx.sup (x : Ctx) : Ctx := { x with mode := .supervisor }

/-- Register `r` of the context absent. -/
def Ctx.without (x : Ctx) (r : Nat) : Ctx :=
  let t := x.thread 0
  x.setThread 0 { t with present := t.present &&& ~~~(BitVec.twoPow 32 r) }

/-- A register stalled for a reason. -/
def Ctx.stalled (x : Ctx) (len : Nat) (rd : SReg) (w : Wait) : Ctx := x.setThread 0 { x.thread 0 with stall := some ⟨len, rd, w⟩ }

/-- A launch whose spread is the block of 2 rows and 4 columns at the corner of die 0. -/
def launch0 : Launch :=
  { id := 0, queue := 0, index := 0, record := 0, state := .running, dies := [0], cr := 0, cc := 0, arrival := 0, order := 0, prio := 0,
    start := 0, sliceStart := 0, sliceOver := false, admitted := false, demoted := false, demand := 0, served := 0, cycles := 0, bytes := 0, rounds := 0,
    records := 0, pages := 0, pinPages := [], notice := 0, loaded := [], status := 0, lost := 0, hit := false, doomed := false,
    ptimeEnd := 0 }

/-- The machine with that launch, and a context of it on cores 0 and 1. -/
def pair (x y : Ctx) : State :=
  { at0 x with
    cores := [(0, { Core.reset with run := x }), (1, { Core.reset with run := y })]
    launches := [(0, launch0)] }

/-- The address of an own-ULM byte, and of a window of another core or of the scratchpad (R109). -/
def opm (core type off : Nat) : W64 := BitVec.ofNat 64 (core * 2 ^ 32 + type * 2 ^ 28 + off)

/-! ## Single steps -/

/-- R82: the sum wraps; R80: present at once, the PC past the instruction. -/
theorem test_add_wraps : obs (.add 4 2 3) (at0 (Ctx.with ctx0 [(2, 0xFFFFFFFFFFFFFFFF), (3, 2)])) (fun t => (t.reg 4, t.th.pc)) = some (1, 4) := by
  decide
/-- R82: the comparison is signed; R86 the destination may be a source. -/
theorem test_slt_signed : obs (.slt 2 2 3) (at0 (Ctx.with ctx0 [(2, -1), (3, 1)])) (fun t => t.reg 2) = some 1 := by decide
/-- R82: a shift takes b[5:0]. -/
theorem test_shl_mod64 : obs (.shl 4 2 3) (at0 (Ctx.with ctx0 [(2, 3), (3, 65)])) (fun t => t.reg 4) = some 6 := by decide
/-- R50: a write of s0 is discarded. -/
theorem test_add_s0 : obs (.add 0 2 2) (at0 (Ctx.with ctx0 [(2, 5)])) (fun t => t.reg 0) = some 0 := by decide
/-- R83: `sltiu sd, sa, -1` is 1 for every a but all ones. -/
theorem test_sltiu_minus1 : obs (.sltiu 4 2 (-1)) (at0 (Ctx.with ctx0 [(2, 7)])) (fun t => t.reg 4) = some 1 := by decide
/-- R84: a zero divisor gives all ones and sets DIVZ; the result comes 20 cycles later. -/
theorem test_div_zero : obs (.div 4 2 3) (at0 (Ctx.with ctx0 [(2, 7), (3, 0)]))
    (fun t => (t.ctx.divz, t.th.has 4, t.th.results)) = some (true, false, [⟨4, 0xFFFFFFFFFFFFFFFF, 120, false⟩]) := by decide
/-- R84: the most negative number by -1 wraps. -/
theorem test_div_wraps : obs (.div 4 2 3) (at0 (Ctx.with ctx0 [(2, 0x8000000000000000), (3, -1)])) (fun t => t.th.results) =
    some [⟨4, 0x8000000000000000, 120, false⟩] := by decide
/-- R85: the leading zeros of 0 are 64; BINS with a field that reaches past bit 63. -/
theorem test_clz_zero : obs (.clz 4 0) (at0 ctx0) (fun t => t.reg 4) = some 64 := by decide
theorem test_bins_edge : obs (.bins 4 2 3) (at0 (Ctx.with ctx0 [(2, 0xFF), (3, 0x083C)])) (fun t => t.reg 4) = some 0xF000000000000000 := by decide
/-- R86: three words ahead, when equal. -/
theorem test_beq_taken : obs (.beq 4 5 3) (at0 ctx0) (fun t => t.th.pc) = some 12 := by decide
theorem test_bltu_not : obs (.bltu 4 5 3) (at0 (Ctx.with ctx0 [(4, -1)])) (fun t => t.th.pc) = some 4 := by decide
/-- R87: `jalr s1` returns through the link and records the new one; bits [1:0] of the target are ignored. -/
theorem test_jalr_link : obs (.jalr 1 0) (at0 (Ctx.with ctx0 [(1, 0x43)])) (fun t => (t.th.pc, t.reg 1)) = some (0x40, 4) := by decide
/-- R113: LDB extends the sign; STH writes two bytes, little-endian. -/
theorem test_ldb_sign : obs (.ldb 4 2 0) ({ at0 (Ctx.with ctx0 [(2, 8)]) with cores := [(0, { Core.reset with run := Ctx.with ctx0 [(2, 8)], ulm := [(8, 0x80)] })] })
    (fun t => t.th.results) = some [⟨4, 0xFFFFFFFFFFFFFF80, 104, true⟩] := by decide
theorem test_sth_bytes : obs (.sth 4 2 2) (at0 (Ctx.with ctx0 [(2, 6), (4, 0x12345678)])) (fun t => t.cur.ulm) = some [(8, 0x78), (9, 0x56)] := by decide
/-- R110, R70: a misaligned access takes cause 3 with its address. -/
theorem test_ldw_misaligned : obs (.ldw 4 2 2) (at0 (Ctx.with ctx0 [(2, 4)])) (fun t => (t.csr .xcause, t.csr .xval, t.ctx.mode)) =
    some (3, 6, .supervisor) := by decide
/-- R116: STFE fills an empty granule. -/
theorem test_stfe_fills : obs (.stfe 4 2) (at0 (Ctx.with ctx0 [(2, 32), (4, 1)])) (fun t => t.cur.ulm) = some [(32, 1)] := by decide
/-- R118: STU without the lock answers 1 and stores nothing. -/
theorem test_stu_unlocked : obs (.stu 4 2 3) (at0 (Ctx.with ctx0 [(2, opm 0 4 0), (3, 9)])) (fun t => (t.th.results, (t.cluster 0).scratch)) =
    some ([⟨4, 1, 104, false⟩], []) := by decide
/-- R93: the helper is number 1, with its argument and its number. -/
theorem test_hstart : obs (.hstart 4 2 3) (at0 (Ctx.with ctx0 [(2, 0x43), (3, 9)]))
    (fun t => (t.reg 4, (t.ctx.thread 1).pc, (t.ctx.thread 1).reg 2, (t.ctx.thread 1).reg 3)) = some (1, 0x40, 9, 1) := by decide
/-- R103: outside a gang a vote is its own result. -/
theorem test_bany_alone : obs (.bany 4 2) (at0 (Ctx.with ctx0 [(2, 7)])) (fun t => t.reg 4) = some 1 := by decide
/-- R104. -/
theorem test_phasec : obs .phasec (at0 ctx0) (fun t => (t.ctx.phase, t.csr .phcyc)) = some (.compute, 0) := by decide
/-- R121: PCLR applies the oldest inbox entry for the register. -/
theorem test_pclr_inbox : obs (.pclr 7) (at0 { ctx0 with inbox := [⟨0, 7, 42⟩, ⟨0, 7, 43⟩] }) (fun t => (t.reg 7, t.th.has 7, t.ctx.inbox)) =
    some (42, true, [⟨0, 7, 43⟩]) := by decide
/-- R120: a target thread above 10 takes cause 10. -/
theorem test_rset_thread : obs (.rset 5 2 3) (at0 (Ctx.with ctx0 [(2, 0xB000)])) (fun t => t.csr .xcause) = some 10 := by decide
/-- R105, R58: `xpc` is for the supervisor; `frm`[1:0] takes its bits and [3] is FTZ. -/
theorem test_csrr_user : obs (.csrr 4 .xpc) (at0 ctx0) (fun t => t.csr .xcause) = some 2 := by decide
theorem test_csrw_frm : obs (.csrw .frm 2) (at0 (Ctx.with ctx0 [(2, 9)])) (fun t => (t.ctx.frm, t.ctx.ftz)) = some (1, true) := by decide
/-- R71: back to `xpc` in the mode that was saved. -/
theorem test_rte : obs .rte (at0 { Ctx.sup ctx0 with inh := true, xpc := 0x80 }) (fun t => (t.th.pc, t.ctx.mode, t.ctx.inh)) =
    some (0x80, .user, false) := by decide
/-- R127: an 8-byte record of granule 1. -/
theorem test_sst_record : obs (.sst 4 2 8) (at0 (Ctx.with ctx0 [(2, 16), (4, 5)])) (fun t => t.cur.log.map fun r => (r.gran, r.mask, r.data)) =
    some [((1 : BitVec 44), (0xFF00 : BitVec 16), BitVec.ofNat 128 (5 * 2 ^ 64))] := by decide
/-- R128: a misaligned load gives poison and ACCERR. -/
theorem test_sld_bad : obs (.sld 4 2 1) (at0 ctx0) (fun t => (t.reg 4, t.ctx.accerr)) = some (0xDEADDEADDEADDEAD, true) := by decide
/-- R134: device class, with 64 ticks to the slot. -/
theorem test_window : obs (.callWindow false) { at0 ctx0 with now := 3200, pubs := [⟨0, 0, false, .dev, none, 0, 0, true, false, [], some 3100, none, false, 0, 0, 0, 0⟩] }
    (fun t => t.pubs.map (·.app)) = some [some 3264] := by decide
/-- R189: a read of a ring of size 0 gives poison and ACCERR. -/
theorem test_cawait_empty : obs (.cawait false 10 0) (at0 ctx0) (fun t => (t.reg 10, t.ctx.accerr)) = some (0xDEADDEADDEADDEAD, true) := by decide
/-- R189: the ring is of the size asked for. -/
theorem test_cring : obs (.cring 2 3) (at0 (Ctx.with ctx0 [(2, 5), (3, 8)])) (fun t => ((t.cluster 0).ring 5).size) = some 8 := by decide
/-- R209: the vector queue takes the instruction. -/
theorem test_kand_queue : obs (.kand 1 2 3) (at0 ctx0) (fun t => t.cur.vq.length) = some 1 := by decide
/-- R244, R236: COUNT is reason 3, rows 0 being out of range, and FMT and NOWT come after it. -/
theorem test_mma_count : obs (.mma false .bf16 0 2 0 0) (at0 (Ctx.with { ctx0 with mtiles := 1 } [(2, opm 0 4 0), (3, 16)]))
    (fun t => (t.ctx.mx.status.extractLsb' 56 8, t.ctx.accerr)) = some (3, true) := by decide
/-- R273: a slot number above 15 fails OPND. -/
theorem test_aestat_opnd : obs (.aestat 4 2) (at0 (Ctx.with ctx0 [(2, 16)])) (fun t => (t.reg 4, t.ctx.accerr)) = some (0xDEADDEADDEADDEAD, true) := by decide
/-- R323: a handle that nobody has used answers NONE. -/
theorem test_collw_none : obs (.collw 4 2) (at0 (Ctx.with ctx0 [(2, 0x00510000)])) (fun t => t.reg 4) = some 0xA := by decide
/-- R310: a 1 clears a bit of nack; ceil and floor are stored. -/
theorem test_bndctl : obs (.registerWrite 0x10008 0x0100000000000031) { at0 ctx0 with boundaries := [(1, { Boundary.reset 1 with nack := 3 })] }
    (fun t => ((t.boundary 1).nack, (t.boundary 1).ceil, (t.boundary 1).floor)) = some (2, 3, 1) := by decide
/-- R337: SNAP fires the trigger with source 1. -/
theorem test_snap : obs .snap (at0 (Ctx.sup ctx0)) (fun t => (t.snapPending, t.ctx.snapFired)) = some (some (100, 1), true) := by decide
/-- R330: kind 2 at unit 0xF09, at the line of the error on G-die 9. -/
theorem test_corrected : obs (.correctedError (.mem 0xC00000046 0 false)) (at0 ctx0) (fun t => t.ras) =
    some [(100 : W64) ++ (2 : BitVec 8) ++ (0xF09 : BitVec 12) ++ BitVec.ofNat 44 (2 ^ 41 + 0xC00000040)] := by decide
/-- R88: a PC at the region's end takes cause 5. -/
theorem test_fetch_bound : obs .fetchBound (at0 (ctx0.setThread 0 { th0 with pc := 0x40000 })) (fun t => (t.csr .xcause, t.csr .xval)) = some (5, 0x40000) := by decide
/-- R47, R83: a step fetches, decodes and runs `addi s5, s0, 3`. -/
theorem test_step_addi : (after (step (State.reset.withFetchWord 32 (0x02 * 4 + 5 * 256 + 3 * 2 ^ 18)))).map (fun t => (t.reg 5, t.th.pc)) = some (3, 4) := by decide
/-- R340. -/
theorem test_step_off : step { State.reset with off := true } = .fault .poweredOff := rfl

/-! ## States that meet the hypotheses of the statements, in the order of the statements -/

/-- A core with a context. -/
def coreOf (x : Ctx) : Core := { Core.reset with run := x }

/-- The machine with core 0 changed. -/
def withCore (f : Core → Core) (s : State) : State := s.setCore 0 (f (s.core 0))

/-- The machine with cluster 0 changed. -/
def withCluster (f : Cluster → Cluster) (s : State) : State := s.setCluster 0 (f (s.cluster 0))

/-- A 64 KiB page's entry of address space 0 that maps page `n` to frame `n` with the given low bits (R163). -/
def entryAt (n low : Nat) : TlbEntry := ⟨BitVec.ofNat 128 (n * 2 ^ 64 + n * 2 ^ 11 + low), false⟩

theorem witness_AluResults : (at0 ctx0).has [2, 3, 4] = true := by decide
theorem witness_MulDivAndBitopResults : (at0 (Ctx.with ctx0 [(2, 5), (3, 0)])).has [2, 3, 4] = true ∧
    (at0 (Ctx.with ctx0 [(2, 5), (3, 0)])).reg 3 = 0 := by decide
theorem witness_BranchesAndJumps : (at0 ctx0).has [4, 5] = true ∧ (at0 ctx0).has [1] = true ∧ (at0 ctx0).has [9, 1] = true := by decide
theorem witness_RegisterDiscipline_absent : (at0 (Ctx.without ctx0 3)).has [2, 3, 4] = false ∧ (at0 (Ctx.without ctx0 3)).has [3, 2] = false := by decide
theorem witness_RegisterDiscipline_frame : registerDest (.add 4 2 3) = some 4 ∧ (after (exec (.add 4 2 3) (at0 ctx0))).isSome = true := by decide
theorem witness_RegisterDiscipline_s0 : (4 : SReg) ≠ 0 ∧ (5 : SReg) ≠ 4 := by decide

/-- LocalChecks: a shared address and another cluster in a compute phase; a shared address in an exchange phase; a register window in user
mode; the last 8 bytes of the region, one byte further, and a misaligned one. -/
theorem witness_LocalChecks_outside : let s := at0 { ctx0 with phase := .compute }
    s.focus < 2048 ∧ s.ctx.phase = .compute ∧ (opm 4 0 0).extractLsb' 44 20 = 0 ∧ ownCluster s.focus (opm 4 0 0) = false := by decide
theorem witness_LocalChecks_shared : (BitVec.ofNat 64 (2 ^ 44)).extractLsb' 44 20 ≠ 0 ∧ (at0 ctx0).ctx.phase = .exchange := by decide
theorem witness_LocalChecks_user : (opm 0 3 0).extractLsb' 44 20 = 0 ∧ ownCluster 0 (opm 0 3 0) = true ∧ opmType (opm 0 3 0) = 3 ∧
    (at0 ctx0).ctx.mode = .user := by decide
theorem witness_LocalChecks_own : let s := at0 ctx0
    opmCore (opm 0 0 0x3FFF8) = s.focus ∧ opmType (opm 0 0 0x3FFF8) = 0 ∧ opmOff (opm 0 0 0x3FFF8) + 8 ≤ s.ctx.size.toNat * 65536 ∧
    opmOff (opm 0 0 0x3FFF8) % 8 = 0 ∧ s.ctx.size.toNat * 65536 < opmOff (opm 0 0 0x3FFF9) + 8 ∧ opmOff (opm 0 0 0x3FFF4) % 8 ≠ 0 := by decide
theorem witness_LocalLoads_passes : let s := at0 (Ctx.with ctx0 [(2, 8)])
    s.has [2, 4] = true ∧ localCheck (.ldw 4 2 0) false false (s.reg 2 + (0 : BitVec 14).signExtend 64) 4 s = none := by decide
theorem witness_LocalLoads_traps : let s := at0 (Ctx.with ctx0 [(2, 2)])
    localCheck (.ldw 4 2 0) false false (s.reg 2 + (0 : BitVec 14).signExtend 64) 4 s = some (.trap 3 2) := by decide
theorem witness_LocalLoads_remote : let s := { pair (Ctx.with ctx0 [(2, opm 1 0 0)]) ctx0 with cores := [(0, coreOf (Ctx.with ctx0 [(2, opm 1 0 0)]))] }
    localCheck (.ldw 4 2 0) false false (s.reg 2 + (0 : BitVec 14).signExtend 64) 4 s = some .remote := by decide
theorem witness_LocalLoads_windows : opmType (opm 0 0 0) = 0 ∧ opmType (opm 0 4 0) = 4 ∧ opmType (opm 0 5 0) = 5 ∧ opmType (opm 0 6 0) = 6 := by decide
theorem witness_LocalStores : let s := at0 (Ctx.with ctx0 [(2, 8)])
    s.has [2, 4] = true ∧ localCheck (.std 4 2 0) false false (s.reg 2 + (0 : BitVec 14).signExtend 64) 8 s = none ∧ s.memOk = true ∧
    s.focus < 2048 ∧ opmType (s.reg 2 + (0 : BitVec 14).signExtend 64) = 0 := by decide
/-- FullEmpty: an empty granule, first in line; the full one has bit 2 set. -/
theorem witness_FullEmpty_empty : let s := at0 (Ctx.with ctx0 [(2, 32)])
    s.has [2, 4] = true ∧ localCheck (.stfe 4 2) true false (s.reg 2) 8 s = none ∧ s.focus < 2048 ∧ s.memOk = true ∧
    (s.core 0).fe.getLsbD (ulmOff s (s.reg 2) / 16) = false ∧ s.feFirst 0 (ulmOff s (s.reg 2) / 16) false = true ∧ s.th.stall = none := by decide
theorem witness_FullEmpty_full : let s := withCore (fun k => { k with fe := BitVec.ofNat 16384 4 }) (at0 (Ctx.with ctx0 [(2, 32)]))
    localCheck (.ldfe 4 2) true false (s.reg 2) 8 s = none ∧ (s.core 0).fe.getLsbD (ulmOff s (s.reg 2) / 16) = true ∧
    localCheck (.feset 2) true false (s.reg 2) 16 s = none ∧ s.feFirst 0 (ulmOff s (s.reg 2) / 16) true = true := by decide
theorem witness_FullEmpty_behind : let s := withCore (fun k => { k with feLine := [⟨2, false, false, 1, 0⟩] }) (at0 (Ctx.with ctx0 [(2, 32)]))
    localCheck (.stfe 4 2) true false (s.reg 2) 8 s = none ∧ s.feFirst 0 (ulmOff s (s.reg 2) / 16) false = false := by decide
/-- LockBits: a free lock bit and a held one. -/
theorem witness_LockBits_free : let s := at0 (Ctx.with ctx0 [(2, opm 0 4 64)])
    s.has [2, 3, 4] = true ∧ localCheck (.ldl 4 2) false true (s.reg 2) 4 s = none ∧ s.memOk = true ∧
    (((s.cluster 0).locks.filter fun y => !(y.2.core == s.focus && y.2.launch == s.ctx.launch && y.2.thr == s.thr.val)).find? fun y =>
      y.1 == lockKey (opmOff (s.reg 2))) = none ∧
    (s.cluster 0).lockFirst (lockKey (opmOff (s.reg 2))) s.focus s.thr.val = true ∧
    s.holds (s.reg 2) = false := by decide
theorem witness_LockBits_held : let s := withCluster (fun x => { x with locks := [(lockKey 64, ⟨0, 0, 0, 64, 90⟩)] }) (at0 (Ctx.with ctx0 [(2, opm 0 4 64)]))
    localCheck (.stu 4 2 3) false true (s.reg 2) 4 s = none ∧ s.holds (s.reg 2) = true := by decide
theorem witness_LockBits_load : let l : LocalLoad := ⟨0, 8, 0, 0, 0, 0, 4, 7, 90⟩
    let s := { at0 ctx0 with locals := [l] }
    s.locals[0]? = some l ∧ l.core = s.focus ∧ l.thr = s.thr.val ∧ s.ctx.of l.launch = true ∧ s.th.live = true ∧ s.th.inc = l.inc ∧ l.rd ≠ 0 ∧
    clusterOf l.from_ ≠ clusterOf l.core ∧ (∀ m ∈ s.locals, m.core = l.core → m.from_ = l.from_ → l.seq ≤ m.seq) ∧ clusterOf 1 = clusterOf 0 := by decide
theorem witness_LockBits_lines : let w : FeWait := ⟨2, false, false, 0, 0⟩
    let v : LockWait := ⟨3, 0, 0, 0, 12, 90, false⟩
    let s := withCore (fun k => { k with feLine := [w] }) (at0 (Ctx.stalled ctx0 4 4 .remote))
    let u := withCluster (fun x => { x with lockLine := [v] }) s
    (s.core 0).feLine.find? (fun x => x.gran == 2 && x.full == (s.core 0).fe.getLsbD 2) = some w ∧
    (u.cluster 0).lockLine.find? (fun x => x.key == 16 * 0 + 3) = some v ∧
    PMap.find? (u.cluster 0).locks 3 = none ∧ ((s.core 0).run.thread 0).stall = some ⟨4, 4, .remote⟩ := by decide

/-- Helpers: the lowest free number 1; none free; a helper as issuer; a live helper and one that is not. -/
def helped (f : Fin 11 → Bool) : State :=
  at0 { ctx0 with threads := Vector.ofFn fun n => if n = 0 then th0 else { Thread.reset with live := f n } }
theorem witness_Helpers_start : (helped fun _ => false).thr = 0 ∧ ((helped fun _ => false).ctx.thread 1).live = false ∧
    (helped fun _ => false).has [2, 3, 4] = true ∧ (∀ m : Fin 11, m ≠ 0 → m < 1 → ((helped fun _ => false).ctx.thread m).live = true) := by decide
theorem witness_Helpers_none : ∀ n : Fin 11, n ≠ 0 → ((helped fun _ => true).ctx.thread n).live = true := by decide
theorem witness_Helpers_last : let s := helped fun n => decide (n < 10)
    (s.ctx.thread 10).live = false ∧ ∀ m : Fin 11, m ≠ 0 → m < 10 → (s.ctx.thread m).live = true := by decide
theorem witness_Helpers_join : let s := at0 (Ctx.with ctx0 [(2, 10), (3, 11)])
    s.has [2] = true ∧ s.reg 2 = BitVec.ofNat 64 (10 : Fin 11).val ∧ (s.ctx.thread 10).live = false ∧ 10 < (s.reg 3).toNat ∧ s.reg 0 = 0 ∧ s.th.stall = none := by decide
theorem witness_Helpers_helper : let s : State := { helped (fun _ => true) with thr := 1 }
    s.thr ≠ 0 ∧ s.mayClose s.th = true ∧ s.th.stall = none := by decide
/-- A helper whose stream's port has no room for its closing marker. -/
theorem witness_Helpers_closes : let t : Thread := { th0 with stream := some ⟨0, 0⟩ }
    let s : State := { withCore (fun k => { k with port := { k.port with owner := some (0, 1, 0), fifo := List.replicate 16 (.data 1) } })
      (at0 (ctx0.setThread 1 t)) with thr := 1 }
    s.thr ≠ 0 ∧ s.mayClose s.th = false ∧ s.th.stall = none := by decide
theorem witness_Helpers_yield : let s := at0 (Ctx.stalled ctx0 4 0 (.yield 99))
    s.th.stall = some ⟨4, 0, .yield 99⟩ ∧ 99 < s.now ∧ ((s.core 0).run.thread 0).stall = some ⟨4, 0, .yield 99⟩ := by decide

/-- Gangs: the rectangle of cores 0 and 1, one member's leave word, and a gang that has formed. -/
def gangWord0 : W64 := 0x10000
def gang0 (leader attached : Bool) : Gang := ⟨gangWord0, leader, attached, 0, 0, [], [], none, none, false⟩
theorem witness_Gangs_leave : let s := at0 (Ctx.with ctx0 [(2, 0)])
    s.has [2] = true ∧ s.thr = 0 ∧ s.reg 2 = BitVec.ofNat 64 s.focus ∧ s.ctx.gang = none := by decide
theorem witness_Gangs_members : let s := pair { ctx0 with gang := some (gang0 true false) } { ctx0 with gang := some (gang0 false true) }
    s.ctx.gang = some (gang0 true false) ∧ s.ctx.resident = true ∧ s.focus ∈ (rectOf gangWord0).cores ∧
    (at0 { ctx0 with gang := some (gang0 false true) }).ctx.gang = some (gang0 false true) := by decide
theorem witness_Gangs_asks : let s := pair (Ctx.with ctx0 [(2, gangWord0)]) ctx0
    s.reg 2 ≠ BitVec.ofNat 64 s.focus ∧ gangWordOk s (s.reg 2) = true ∧ s.ctx.gang = none ∧ s.th.stall = none ∧
    gangWordOk (at0 (Ctx.with ctx0 [(2, gangWord0)])) (s.reg 2) = false := by decide
theorem witness_Gangs_formed : let s := pair (Ctx.stalled ctx0 4 2 (.gang gangWord0)) (Ctx.stalled ctx0 4 2 (.gang gangWord0))
    (rectOf gangWord0).cores.Nodup ∧ (rectOf gangWord0).corner = 0 ∧ (∀ c ∈ (rectOf gangWord0).cores, (s.gangWord c 0).map (·.1) = some gangWord0) := by decide
theorem witness_Gangs_rejoin : let s := at0 { ctx0 with gang := some (gang0 false false) }
    s.thr = 0 ∧ s.th.stall = none ∧ s.ctx.gang = some (gang0 false false) ∧ (gang0 false false).seen < (gang0 false false).rejoins + 1 := by decide
theorem witness_Gangs_forward : let e : Fwd := ⟨[8], 0, 4, none, 100, 0⟩
    let g : Gang := { gang0 false true with lane := [e] }
    let s := at0 { ctx0 with gang := some g }
    (s.core 0).run.gang = some g ∧ g.lane = e :: [] ∧ e.due ≤ s.now ∧ g.attached = true ∧ g.leader = false ∧ g.buffer.length < 16 := by decide
theorem witness_Gangs_full : ({ gang0 false true with buffer := List.replicate 16 ⟨[8], 0, 4, none, 100, 0⟩ } : Gang).buffer.length = 16 := by decide

theorem witness_Barriers_arrive : let s := pair ctx0 ctx0
    s.thr = 0 ∧ (s.ctx.bar .blk).owed = none ∧ s.mayArrive = true ∧ s.has [2] = true ∧ s.ctx.gang = none ∧ s.th.stall = none := by decide
theorem witness_Barriers_waits : let s := pair { ctx0 with barBlk := ⟨3, some 3, none⟩ } ctx0
    (s.ctx.bar .blk).owed = some 3 ∧ (s.ctx.bar .blk).inst ≤ 3 := by decide
theorem witness_Barriers_passes : let s := pair { ctx0 with barBlk := ⟨4, some 3, none⟩ } ctx0
    (s.ctx.bar .blk).owed = some 3 ∧ 3 < (s.ctx.bar .blk).inst := by decide
theorem witness_Barriers_vote : let s := at0 { ctx0 with gang := some (gang0 true false), barGang := ⟨1, some 0, some (true, true)⟩ }
    s.thr = 0 ∧ s.ctx.gang ≠ none ∧ s.ctx.barGang.owed = some 0 ∧ 0 < s.ctx.barGang.inst ∧ s.ctx.barGang.vote = some (true, true) := by decide
theorem witness_Barriers_signal : let s := at0 (Ctx.with ctx0 [(2, 2), (3, 3)])
    s.reg 2 = Level.spr.toBits.setWidth 64 ∧ 2 < (s.reg 3).toNat ∧ s.reg 0 = Level.gang.toBits.setWidth 64 ∧ s.thr = 0 ∧ s.mayArrive = true ∧
    (s.ctx.bar .spr).owed ≠ some (s.ctx.bar .spr).inst ∧ s.th.stall = none := by decide
theorem witness_Barriers_signals : let s := at0 (Ctx.with { ctx0 with barSpr := ⟨3, some 3, none⟩ } [(2, 2)])
    s.reg 2 = Level.spr.toBits.setWidth 64 ∧ (s.ctx.bar .spr).owed = some (s.ctx.bar .spr).inst ∧ s.th.stall = none := by decide
theorem witness_Barriers_release : let x := { ctx0 with barBlk := ⟨0, some 0, none⟩ }
    let s : State := { at0 x with launches := [(0, launch0)], cores := (List.range 32).filterMap fun c => if launch0.inSpread c then some (c, coreOf x) else none }
    (s.participants 0 .blk 0).length = 8 ∧ (s.participants 0 .blk 0).Nodup ∧
    (∀ c ∈ s.participants 0 .blk 0, (s.image c 0).map (fun x => x.atBarrier .blk) = some true) := by decide
theorem witness_Phases : let s := at0 (Ctx.with { ctx0 with phcyc := 90 } [(2, 10), (3, 11)])
    s.has [2] = true ∧ (s.reg 2).toNat ≤ (s.csr .phcyc).toNat ∧ (s.csr .phcyc).toNat < (s.reg 3).toNat ∧ s.th.stall = none := by decide
theorem witness_Phases_event : let s := at0 (Ctx.stalled { ctx0 with phcyc := 90 } 4 0 (.waitc 10))
    ((s.core 0).run.thread 0).stall = some ⟨4, 0, .waitc 10⟩ ∧
    (10 : W64).toNat ≤ (csrValue s.now 0 (s.core 0) true (s.core 0).run .phcyc).toNat ∧ (10 : W64).toNat ≤ (s.csr .phcyc).toNat := by decide

/-- Remote writes and messages. -/
def packet0 (m : Bool) (st : PacketState) : Packet := ⟨m, 1, 0, 0, 0, 0, 0, 7, 5, 0, 90, 0, st, none, 0, false⟩
theorem witness_RemoteWrites_send : let s := pair (Ctx.with ctx0 [(2, 1)]) ctx0
    s.has [2, 3] = true ∧ s.ctx.phase = .exchange ∧ s.th.stall = none ∧ (s.reg 2).toNat < 4096 ∧
    ((s.reg 2).extractLsb' 12 4).toNat ≤ 10 ∧ s.inSpread s.ctx.launch 1 = true ∧ s.cutOff (dieOf s.focus) (dieOf 1) = false ∧
    s.hasEnded 1 s.ctx.launch = false := by decide
theorem witness_RemoteWrites_bad : let s := pair (Ctx.with ctx0 [(2, 65536), (3, 0xB000), (4, 0x800), (5, 8)]) ctx0
    65536 ≤ (s.reg 2).toNat ∧ 10 < ((s.reg 3).extractLsb' 12 4).toNat ∧ 2048 ≤ ((s.reg 4).extractLsb' 0 12).toNat ∧
    s.inSpread s.ctx.launch 8 = false ∧ s.ctx.mode = .user := by decide
theorem witness_RemoteWrites_mailbox : (at0 (Ctx.sup ctx0)).ctx.mode = .supervisor ∧ (at0 { ctx0 with phase := .compute }).ctx.phase = .compute := by decide
theorem witness_RemoteWrites_msgrd : let s := at0 { ctx0 with msgq := [4, 5] }
    s.has [2] = true ∧ s.ctx.phase = .exchange ∧ s.ctx.msgq = 4 :: [5] ∧ (at0 ctx0).ctx.msgq = [] ∧ (at0 ctx0).th.stall = none := by decide
theorem witness_RemoteWrites_arrives : let s := { pair (Ctx.without ctx0 7) ctx0 with packets := [packet0 false .flying] }
    s.arriving false 0 = some (0, packet0 false .flying) ∧ (packet0 false .flying).core < 2048 ∧
    (s.ctxOf 0 0).map (fun x => ((x.thread 0).live, (x.thread 0).receivable 7, x.inbox.length)) = some (true, true, 0) := by decide
theorem witness_RemoteWrites_inbox : let s := { pair ctx0 ctx0 with packets := [packet0 false .flying] }
    (s.ctxOf 0 0).map (fun x => ((x.thread 0).receivable 7, x.inbox.length)) = some (false, 0) ∧
    ({ ctx0 with inbox := List.replicate 8 ⟨0, 9, 1⟩ } : Ctx).inbox.length = 8 := by decide
theorem witness_RemoteWrites_dead : let s := { pair { ctx0 with threads := Ctx.reset.threads } ctx0 with packets := [packet0 false .flying] }
    (s.ctxOf 0 0).map (fun x => (x.thread 0).live) = some false := by decide
theorem witness_RemoteWrites_message : let s := { pair ctx0 ctx0 with packets := [packet0 true .flying] }
    s.arriving true 0 = some (0, packet0 true .flying) ∧ (s.ctxOf 0 0).map (fun x => (x.ended, x.msgq.length)) = some (false, 0) ∧
    ({ ctx0 with msgq := List.replicate 16 1 } : Ctx).msgq.length = 16 := by decide
theorem witness_RemoteWrites_answers : let s := { pair ctx0 (Ctx.stalled ctx0 4 0 .packet) with packets := [packet0 false .accepted, packet0 true .refused] }
    ((s.core 1).run.thread 0).stall = some ⟨4, 0, .packet⟩ ∧ s.packetOf false 1 0 = some (0, packet0 false .accepted) ∧
    s.packetOf true 1 0 = some (1, packet0 true .refused) := by decide
theorem witness_PresenceBits : let s := at0 { ctx0 with inbox := [⟨0, 8, 1⟩, ⟨0, 7, 2⟩] }
    (7 : SReg) ≠ 0 ∧ s.th.pending.getLsbD 7 = false ∧ s.has [4] = true ∧ s.ctx.inbox = [⟨0, 8, 1⟩] ++ ⟨s.thr.val, 7, 2⟩ :: [] ∧
    (∀ e ∈ ([⟨0, 8, 1⟩] : List InboxEntry), ¬(e.thr = s.thr.val ∧ e.idx = 7)) := by decide
theorem witness_PresenceBits_pending : let s := at0 (Ctx.setThread ctx0 0 { th0 with pending := 0x80 })
    s.th.pending.getLsbD 7 = true := by decide
/-- Streams. -/
theorem witness_Streams_open : let s := pair (Ctx.with ctx0 [(2, 1)]) ctx0
    s.has [2] = true ∧ s.th.stream = none ∧ s.ctx.phase = .exchange ∧ s.th.stall = none ∧ (s.reg 2).toNat < 4096 ∧
    dieOf (s.reg 2).toNat = dieOf s.focus ∧ s.inSpread s.ctx.launch (s.reg 2).toNat = true ∧ s.hasEnded (s.reg 2).toNat s.ctx.launch = false := by decide
theorem witness_Streams_grant : let s := withCore (fun k => { k with port := { k.port with line := [(1, 0, 0)] } }) (pair ctx0 ctx0)
    (s.core 0).port.owner = none ∧ (s.core 0).port.line = (1, (0 : Fin 11).val, 0) :: [] ∧ (s.ctxOf 1 0).isSome = true := by decide
def streaming (n : Nat) (f : List StreamEntry) : State :=
  withCore (fun k => { k with port := ⟨some (0, 0, 0), List.replicate n (90, .data 1), f, 3, [], []⟩ }) (at0 (Ctx.setThread ctx0 0 { th0 with stream := some ⟨0, 2⟩ }))
theorem witness_Streams_put : let s := streaming 15 []
    s.th.stream = some ⟨0, 2⟩ ∧ (s.core 0).port.flying.length + (s.core 0).port.fifo.length < 16 ∧
    16 ≤ ((streaming 16 []).core 0).port.flying.length + ((streaming 16 []).core 0).port.fifo.length ∧ s.th.stall = none ∧
    (s.core 0).port.flying = (90, .data 1) :: List.replicate 14 (90, .data 1) := by decide
theorem witness_Streams_get : (streaming 0 [.data 7]).ownPort = true ∧ (streaming 0 [.data 7]).cur.port.fifo = .data 7 :: [] ∧
    (streaming 0 [.close]).cur.port.fifo = .close :: [] ∧ (streaming 0 []).cur.port.fifo = [] ∧ (streaming 0 []).has [4] = true ∧
    (streaming 0 [.data 7]).cur.port.takers.head?.all (· == (streaming 0 [.data 7]).thr.val) = true ∧ (streaming 0 []).th.stall = none := by decide
theorem witness_Streams_behind : let s := withCore (fun k => { k with port := { k.port with takers := [1, 0] } }) (streaming 0 [.data 7])
    ¬ s.cur.port.takers.head?.all (· == s.thr.val) = true ∧ s.th.stall = none ∧ s.ownPort = true := by decide
/-- Special registers and traps. -/
theorem witness_SpecialRegisters : (at0 ctx0).has [4] = true ∧ (at0 ctx0).ctx.mode = .user ∧ (at0 (Ctx.sup ctx0)).ctx.mode = .supervisor ∧
    (at0 ctx0).th.stall = none ∧ (at0 ctx0).xvLeft 5 = false ∧ (at0 ctx0).loadsLeft 5 = false := by decide
def xvEntry (op : XvOp) : XvEntry := ⟨0, 0, 0, 0, op, 0, 0, 0, false, 0, 0, none, 0, [], 0, []⟩
theorem witness_SpecialRegisters_waits : let s := { withCore (fun k => { k with vq := [xvEntry (.knot 1 2)] }) (at0 ctx0) with
      seq := 1, loads := [⟨0, 0, 0, 0, 0, 4, .sld, 0, 0, 0, [], 0, none⟩] }
    s.xvLeft s.seq = true ∧ s.loadsLeft s.seq = true := by decide
theorem witness_TrapsAndReturns : let s := at0 (Ctx.sup { ctx0 with inh := true, tthr := 10 })
    (at0 ctx0).ctx.inh = false ∧ (at0 ctx0).has [2] = true ∧ s.ctx.mode = .supervisor ∧ s.ctx.inh = true ∧ s.ctx.tthr = BitVec.ofNat 4 (10 : Fin 11).val ∧
    (at0 (Ctx.sup ctx0)).ctx.inh = false := by decide
theorem witness_TrapsAndReturns_double : let s := pair { ctx0 with inh := true } ctx0
    s.ctx.inh = true ∧ s.ctx.resident = true ∧ s.launch? s.ctx.launch = some launch0 ∧ 1 ∈ launch0.cores ∧ 1 ≠ s.focus ∧
    (s.image 1 s.ctx.launch).map (·.ended) = some false := by decide
theorem witness_SystemGroup_wfi : let s := at0 (Ctx.sup (Ctx.stalled { ctx0 with wakes := 1 } 4 0 (.wfi 0)))
    s.ctx.mode = .supervisor ∧ s.th.stall = some ⟨4, 0, .wfi 0⟩ ∧ 0 < s.ctx.wakes ∧ (at0 { ctx0 with notice := 1 }).ctx.notice ≠ 0 ∧
    (at0 ctx0).ctx.notice = 0 ∧ (at0 (Ctx.with ctx0 [(2, 0xFFFFFFFFFFFF)])).has [2] = true ∧ (0xFFFFFFFFFFFF : W64).toNat < 2 ^ 48 := by decide
theorem witness_SystemGroup_halt : let s := pair (Ctx.stalled ctx0 4 0 .halt) ctx0
    s.ctx.gang = none ∧ s.ctx.resident = true ∧ s.launch? s.ctx.launch = some launch0 ∧ (1 ∈ launch0.cores) ∧ 1 ≠ s.focus ∧
    (s.image 1 s.ctx.launch).map (·.ended) = some false ∧ s.thr = 0 ∧ s.mayEnd s.focus = true ∧ (s.ctx.thread 0).stall = some ⟨4, 0, .halt⟩ ∧
    ({ s with loads := [⟨0, 0, 0, 0, 0, 4, .sld, 0, 0, 0, [], 0, none⟩] } : State).mayEnd s.focus = false := by decide
theorem witness_Snap : (at0 ctx0).ctx.mode = .user ∧ (at0 (Ctx.sup ctx0)).ctx.mode = .supervisor ∧ (at0 ctx0).snapHeld = false ∧ (at0 ctx0).snapPending = none ∧
    ({ at0 ctx0 with snapHeld := true } : State).snapHeld = true := by decide
theorem witness_TrapsBeforeIssue : let s := at0 (Ctx.setThread ctx0 0 { th0 with sigBad := some (5, 8), pc := 0x40000 })
    1 ≤ (8 : BitVec 8).toNat ∧ (8 : BitVec 8).toNat ≤ 8 ∧ s.ctx.size.toNat * 65536 ≤ s.th.pc.toNat ∧ s.th.sigBad = some (5, 8) ∧ s.ctx.inh = false ∧
    s.ras.length < 4096 := by decide

/-! Shared memory: an address in page 1, whose entry allows everything but sync objects, and an object in page 2. -/

/-- The machine whose core 0 holds both entries. -/
def mapped (x : Ctx) : State := withCore (fun k => { k with tlb := ⟨[(0, entryAt 1 0x39), (1, entryAt 2 0x59)], 0⟩ }) (at0 x)
theorem witness_SharedStores : let s := at0 (Ctx.with ctx0 [(2, 0x10008), (3, 0x10001), (5, 0x1000000000000)])
    s.has [2, 4] = true ∧ s.ctx.phase = .exchange ∧ ¬(2 ^ 48 ≤ (s.reg 2).toNat ∨ (s.reg 2).toNat % 8 ≠ 0) ∧ (s.reg 3).toNat % 8 ≠ 0 ∧
    2 ^ 48 ≤ (s.reg 5).toNat ∧ s.mergeSeq ((s.reg 2).extractLsb' 4 44) = none ∧ 0 < s.logRoom ∧ s.th.stall = none := by decide
def record0 : LogRec := ⟨0, 0x1000, 1, 5, 0, 1, 0, 0, none, false, none, none⟩
theorem witness_SharedStores_merge : let s := withCore (fun k => { k with log := [record0] }) (at0 { ctx0 with lsn := 1 })
    s.mergeSeq 0x1000 = some 0 ∧ s.cur.log[0]? = some record0 ∧ record0.seq = 0 := by decide
def fullLog : State := withCore (fun k => { k with log := List.replicate 2048 record0 }) (at0 { ctx0 with spillSize := 0, logcap := 5 })
theorem witness_SharedStores_full : fullLog.logRoom = 0 ∧ fullLog.ctx.logcap ≠ 0 ∧ fullLog.th.stall = none := by
  have h (n : Nat) : ((List.replicate n record0).filter fun r => r.spilled.isNone).length = n := by
    rw [List.filter_replicate_of_pos rfl, List.length_replicate]
  have k : fullLog.ctx.spillSize = 0 := by decide
  refine ⟨?_, by decide, by decide⟩
  unfold State.logRoom
  rw [k, show fullLog.cur.buffered = 2048 from h 2048]
  simp
theorem witness_SharedStores_cap : let s := at0 (Ctx.stalled { ctx0 with logcap := 100 } 4 0 (.log 0 16 [(16, 0)]))
    s.th.stall = some ⟨4, 0, .log 0 16 [(16, 0)]⟩ ∧ 0 + s.ctx.logcap.toNat ≤ s.now := by decide
theorem witness_SharedLoads_issue : let s := at0 (Ctx.with ctx0 [(2, 0xFFFFFFFFFFF8), (3, 0xFFFFFFFFFFFC)])
    s.has [2, 4] = true ∧ s.ctx.phase = .exchange ∧ (s.reg 2).toNat < 2 ^ 48 ∧ (s.reg 2).toNat % 8 = 0 ∧ (s.reg 3).toNat % 8 ≠ 0 := by decide
def load0 (kind : LoadKind) : SharedLoad := ⟨0, 0, 0, 0, 0, 4, kind, 0x10008, 0, 0, List.replicate 8 [], 0, none⟩
theorem witness_SharedLoads_returns : let l := load0 .sldh
    let s := { mapped ctx0 with loads := [l] }
    s.loads[0]? = some l ∧ l.core = s.focus ∧ s.ctx.of l.launch = true ∧ l.thr = s.thr.val ∧ s.th.live = true ∧ s.th.inc = l.inc ∧
    (s.die (dieOf l.core)).inc = l.inc8 ∧ l.rd ≠ 0 ∧ l.ea.toNat % 8 = 0 ∧
    (s.translate 0 (.core 0) l.seq l.ctxid l.launch .load l.ea).1 = .hit (entryAt 1 0x39) ∧
    s.loadsBefore l.core l.launch l.thr l.inc l.after = false ∧ l.got = none ∧ ({ l with got := some (7, 90, 0) } : SharedLoad).got = some (7, 90, 0) ∧
    s.linkDown 0 ((entryAt 1 0x39).key l.ea.toNat) = false ∧ s.poisonedIn ((entryAt 1 0x39).key l.ea.toNat) 8 = false := by decide
theorem witness_SharedLoads_fenced : let l := { load0 .sld with seq := 1, after := 1 }
    ({ mapped ctx0 with loads := [load0 .sld, l] } : State).loadsBefore l.core l.launch l.thr l.inc l.after = true := by decide
theorem witness_SharedLoads_view : let s := { mapped ctx0 with loads := [load0 .sld] }
    let at_ (j : Nat) : Nat := viewKey (s.asidOf 0) 0x10008 + j
    let key (j : Nat) : Nat := (entryAt 1 0x39).key 0x10008 + j
    let u := withCluster (fun x => { x with view := (List.range 8).map fun j => (at_ j, ⟨5, 0, key j, 0⟩) }) s
    s.poison.contains ((entryAt 1 0x39).key (0x10008 / 64 * 64)) = false ∧ (s.stillForward 0 .sld (load0 .sld).fwd)[0]? = some none ∧
    (∀ j < 8, (s.cluster 0).viewByte (at_ j) (key j) = none) ∧ (∀ j < 8, (u.cluster 0).viewByte (at_ j) (key j) ≠ none) ∧
    (u.cluster 0).viewLines.length ≤ 32768 := by decide
theorem witness_SharedLoads_denied : ((at0 ctx0).translate 0 (.core 0) 0 0 0 .load 0x10008).1 = .denied := by decide
/-- Sync objects: at the object's first byte, at a user word, and at a place that is neither. -/
theorem witness_SyncOperations : let s := mapped (Ctx.with ctx0 [(2, 0x20000), (3, 0x10000), (4, 64), (5, 0x20038), (6, 0x20018)])
    Mem.wf s.home = true ∧ s.has [2, 3, 4] = true ∧ s.ctx.phase = .exchange ∧ (s.reg 2).toNat % 64 = 0 ∧ (s.reg 3).toNat % 16 = 0 ∧ (s.reg 4).toNat % 16 = 0 ∧
    (s.reg 3).toNat + (s.reg 4).toNat ≤ 2 ^ 48 ∧ 32 ≤ (s.reg 5).toNat % 64 ∧ (s.reg 5).toNat % 8 = 0 ∧ ¬(32 ≤ (s.reg 6).toNat % 64) ∧
    s.th.stall = none := by decide
theorem witness_SyncOperations_home : let s := mapped (Ctx.stalled (Ctx.with ctx0 [(2, 0x20038)]) 4 4 (.sync 0x20038 1 0))
    s.th.stall = some ⟨4, 4, .sync 0x20038 1 0⟩ ∧ (s.translate s.clu (.core s.focus) s.thr.val s.ctx.ctxid s.ctx.launch .sync (s.reg 2)).1 = .hit (entryAt 2 0x59) ∧
    s.linkDown (dieOf s.focus) ((entryAt 2 0x59).key (s.reg 2).toNat) = false ∧ s.poisonedIn ((entryAt 2 0x59).key (s.reg 2).toNat) 8 = false := by decide
theorem witness_ReleaseAcquireFence_issue : let s := mapped (Ctx.with ctx0 [(2, 0x20040)])
    s.has [2] = true ∧ s.ctx.phase = .exchange ∧ (s.reg 2).toNat < 2 ^ 48 ∧ (s.reg 2).toNat % 64 = 0 ∧ s.th.stall = none ∧
    (s.cur.log.any fun r => r.launch == s.ctx.launch && decide (r.seq < s.seq) && r.homed.isNone) = false := by decide
theorem witness_ReleaseAcquireFence_rel : let s := { mapped (Ctx.stalled (Ctx.with ctx0 [(2, 0x20040)]) 4 0 (.seq 1)) with seq := 2 }
    let e := entryAt 2 0x59
    s.th.stall = some ⟨4, 0, .seq 1⟩ ∧ (s.translate s.clu (.core s.focus) s.thr.val s.ctx.ctxid s.ctx.launch .sync (s.reg 2)).1 = .hit e ∧
    s.linkDown (dieOf s.focus) (e.key (s.reg 2).toNat) = false ∧ s.poisonedIn (e.key (s.reg 2).toNat) 8 = false := by decide
def pub0 : Publication := ⟨0, 0, false, .dev, none, 0, 0, false, false, [], some 90, some 100, false, 0, 0, 0, 0⟩
theorem witness_ReleaseAcquireFence_passes : let s := { mapped (Ctx.stalled ctx0 4 0 (.rel 0)) with pubs := [pub0] }
    s.th.stall = some ⟨4, 0, .rel 0⟩ ∧ s.pubs.find? (fun q => q.id == 0) = some pub0 ∧ pub0.app ≠ none ∧
    (∀ p ∈ s.pubs, p.id = 0 → p.app ≠ none) := by decide
theorem witness_ReleaseAcquireFence_acq : let s := mapped (Ctx.stalled (Ctx.with ctx0 [(2, 0x20040)]) 4 0 .acq)
    s.th.stall = some ⟨4, 0, .acq⟩ ∧ ((s.translate s.clu (.core s.focus) s.thr.val s.ctx.ctxid s.ctx.launch .sync (s.reg 2)).2.acquire .dev 0x20040).isSome = true ∧
    (∀ q ∈ s.pubs, q.obj = some ((entryAt 2 0x59).key 0x20040) → q.lagG = 0) ∧ coversBoth .cl .cl 0 0 = true := by decide
theorem witness_ReleaseAcquireFence_waits : let s := { withCore (fun k => { k with log := [record0] }) (at0 ctx0) with
      seq := 1, loads := [⟨0, 0, 0, 0, 0, 4, .sld, 0, 0, 0, [], 0, none⟩] }
    (s.cur.log.any fun r => r.launch == s.ctx.launch && decide (r.seq < s.seq) && r.homed.isNone) = true ∧
    s.cur.log = [record0] ∧ record0.launch = s.ctx.launch ∧ record0.seq < s.seq ∧ record0.homed = none ∧ s.goesAway record0 = false := by decide
theorem witness_ReleaseAcquireFence_fence : let s := at0 (Ctx.stalled ctx0 4 4 (.fence 1))
    s.th.stall = some ⟨4, 4, .fence 1⟩ ∧ s.has [4] = true ∧ s.cur.log = [] ∧ (at0 ctx0).cur.log = [] ∧ (at0 ctx0).th.stall = none ∧
    s.ctx.phase = .exchange := by decide
theorem witness_ReleaseAcquireFence_events : let stall (w : Wait) : Option Stall := (((at0 (Ctx.stalled ctx0 4 4 w)).core 0).run.thread (0 : Fin 11)).stall
    stall (.rel 0) = some ⟨4, 4, .rel 0⟩ ∧ stall .acq = some ⟨4, 4, .acq⟩ ∧ stall (.sync 0x20038 1 0) = some ⟨4, 4, .sync 0x20038 1 0⟩ ∧
    stall (.fence 0) = some ⟨4, 4, .fence 0⟩ ∧ (∀ p ∈ [pub0], p.id = 0 → p.app ≠ none) ∧
    (∃ p ∈ [{ pub0 with app := none }], p.id = 0 ∧ p.app = none) := by decide
/-- Publications. -/
theorem witness_Publications_drift : let r := { record0 with gran := 0x1000 }
    let s := withCore (fun k => { k with log := [r] }) (mapped ctx0)
    (s.core 0).log.filter (fun r => r.homed.isNone) = r :: [] ∧ r.pub = none ∧
    (s.translate (clusterOf 0) (.core 0) r.seq r.ctx r.launch .record (BitVec.ofNat 64 r.va)).1 = .hit (entryAt 1 0x39) ∧
    s.linkDown (dieOf 0) ((entryAt 1 0x39).key r.va) = false := by decide
theorem witness_Publications_window : let s := { at0 ctx0 with now := 3200, pubs := [{ pub0 with app := none }] }
    s.now % 32 = 0 ∧ s.winDev < s.now ∧ s.now % 1600 = 0 ∧ s.winSys < s.now ∧ s.slotReady false s.now { pub0 with app := none } = true ∧
    s.pubs[0]? = some { pub0 with app := none } ∧
    ((s.pubs.take 0).filter fun q => s.slotReady false s.now q && q.source == 0).length < 4 := by decide
def homed0 : Homed := ⟨0x10000, 0, false, true, 90⟩
theorem witness_Publications_apply : let r := { record0 with homed := some homed0 }
    let p := { pub0 with records := [r] }
    let s := { at0 ctx0 with pubs := [p] }
    s.pubs = [p] ∧ p.applied = false ∧ p.app = some s.now ∧ p.obj = none ∧ p.engine = false ∧ p.records = [r] ∧ r.homed = some homed0 ∧ r.kind = 0 ∧
    Mem.wf s.home = true := by decide
theorem witness_Publications_replica : let r := { record0 with homed := some homed0 }
    let p := { pub0 with records := [r], applied := true, lagD := 0x80 }
    let s := { at0 ctx0 with pubs := [p] }
    s.pubs = [p] ∧ p.records = [r] ∧ r.homed = some homed0 ∧ r.kind = 0 ∧ Mem.wf s.home = true ∧ p.applied = true ∧ p.lagD.getLsbD (7 : Fin 8).val = true ∧ homed0.repl = true ∧ ({ pub0 with applied := true } : Publication).lagG = 0 ∧
    ({ pub0 with applied := true } : Publication).lagD = 0 := by decide

/-! Translation: core 0's TLB holds page 1's entry; the first miss of two is an ordinary one. -/
theorem witness_TranslationHits : let s := mapped ctx0
    let e := entryAt 1 0x39
    let tlb := (s.userTlb 0 (.core 0)).entries
    (0, e) ∈ tlb ∧ (∀ x ∈ ([(0, e)] : PMap TlbEntry), x.2.word.extractLsb' 39 12 = s.asidOf 0 → x.2 = e) ∧ (0x10008 : W64).toNat < 2 ^ 48 ∧
    e.word.getLsbD 0 = true ∧ e.word.extractLsb' 39 12 = s.asidOf 0 ∧ e.word.extractLsb' 1 2 ≠ 3 ∧
    (e.word.extractLsb' 64 32).toNat * 2 ^ 16 / 2 ^ 16 = (0x10008 : W64).toNat / 2 ^ 16 ∧ e.modeL = false ∧
    e.word.getLsbD 3 = true ∧ e.word.getLsbD 6 = false ∧ 2 ^ 48 ≤ (BitVec.ofNat 64 (2 ^ 48)).toNat := by decide
theorem witness_TranslationHits_shared (n : Nat) : (PMap.get ((mapped ctx0).cluster 0).sharedTlb n Tlb.reset).entries = [] := rfl
def miss0 (st : MissState) : Miss := ⟨.core 0, 0, 0x10000, 0, 0, .load, 0, false, false, 50, st⟩
def missing (st : MissState) : State := withCluster (fun x => { x with misses := [miss0 st] }) (at0 ctx0)
theorem witness_WalksAndMisses_queued : let s := missing .queued
    (s.cluster 0).misses = [] ++ miss0 .queued :: [] ∧ (miss0 .queued).state = .queued ∧ s.walk 0 .load 0x10000 = .error := by decide
theorem witness_WalksAndMisses_fill : let m := miss0 (.walked (.fill (entryAt 1 0x39).word))
    ((missing m.state).cluster 0).misses = [] ++ m :: [] ∧ m.state = .walked (.fill (entryAt 1 0x39).word) := by decide
theorem witness_WalksAndMisses_deny : (miss0 (.denied 30)).state = .denied 30 ∧ 30 + 64 ≤ (missing (.denied 30)).now ∧ (miss0 (.walked .deny)).second = false ∧
    ({ miss0 (.walked .deny) with second := true } : Miss).second = true ∧ (miss0 (.absent 9)).state = .absent 9 := by decide
theorem witness_SweepsAndInvalidations : let s := { at0 ctx0 with invDone := false, invAcks := [0] }
    (at0 ctx0).invDone = true ∧ s.invDone = false ∧ 0 ∈ s.invAcks ∧ s.fenced (baseCore 0) = false ∧ (s.cluster 0).misses = [] ∧ (∀ p ∈ s.pubs, p.lagG = 0) ∧
    ({ s with invAcks := [] } : State).invAcks = [] := by decide

/-! The copy engine: ring 3 of 4 slots; a shape record of zeros; a transfer of two bytes within core 0's ULM. -/
def ring0 : Ring := ⟨4, 1, 0, [(0, (7, 8))], none⟩
def ringed (f : Channel → Channel) (x : Ctx) : State :=
  withCluster (fun k => { k with rings := [(3, ring0)], channels := k.channels.set 0 (f Channel.reset) }) (at0 x)
def shape0 : Shape := ⟨1, 8, false, [⟨1, 2, 0, 0⟩]⟩
def transfer0 (st : TransferState) : Transfer :=
  ⟨1, 0, 0, 0, 0, false, false, false, false, false, 0x100, 0x200, shape0, 0, 3, 9, .plain, st, 0, 0, 0x40000, [], 0, [], 0, [], [], [], [], [], none, none⟩
theorem witness_CopyCommands_cpy : let s := ringed id (Ctx.with ctx0 [(2, 0x100), (3, 0x200), (4, 0x10), (5, 0x11)])
    s.has [2, 3, 4, 6] = true ∧ s.ctx.phase = .exchange ∧ s.th.stall = none ∧ engineLoc s.focus s.ctx (s.reg 4) 96 = some (.ulm 16) ∧
    engineLoc s.focus s.ctx (s.reg 5) 96 = none ∧ ((s.cluster s.clu).ring 3).size ≠ 0 ∧ ((s.cluster s.clu).ring 4).size = 0 ∧
    ((s.cluster s.clu).channel 0).queue.length < 16 := by decide
theorem witness_CopyCommands_full : let s := ringed (fun c => { c with queue := List.replicate 16 (transfer0 .queued) }) ctx0
    16 ≤ ((s.cluster s.clu).channel 0).queue.length := by decide
theorem witness_CopyCommands_keeps : let s := at0 (Ctx.stalled ctx0 12 6 (.copy 0))
    s.th.stall = some ⟨12, 6, .copy 0⟩ := by decide
def corner0 : W64 := 0
theorem witness_CopyCommands_cpym : let s := ringed id (Ctx.with ctx0 [(2, 0x100), (3, corner0), (4, 0x10)])
    s.has [2, 3, 4, 6] = true ∧ mcastOk s (s.reg 3) = true ∧ (64 : W32).toNat < 0x40000 ∧ mcastOk s (BitVec.ofNat 64 (2 ^ 20)) = false ∧
    0x40000 ≤ (0x40000 : W32).toNat := by decide
def chain0 (a : W64) : Chain := ⟨some a, false, 3, 0, 0, 0, 0, 0, 0x40000, 0, false, false⟩
theorem witness_CopyCommands_cpych : let s := ringed (fun c => { c with chain := some (chain0 64) }) ctx0
    ((s.cluster s.clu).channel 0).chain ≠ none ∧ ((s.cluster s.clu).channel 1).chain = none ∧ s.th.stall = none ∧
    (at0 { ctx0 with phase := .compute }).ctx.phase = .compute := by decide
theorem witness_RingCommands_cring : let s := ringed (fun c => { c with queue := [transfer0 .queued] }) (Ctx.with ctx0 [(2, 3), (3, 8), (4, 64), (5, 5)])
    s.has [2, 3] = true ∧ (s.reg 2).toNat ≤ 63 ∧ (s.reg 3).toNat ≤ 256 ∧ 63 < (s.reg 4).toNat ∧
    (∃ q ∈ (s.cluster s.clu).transfers, q.ring = (s.reg 2).toNat) ∧ ¬(∃ q ∈ (s.cluster s.clu).transfers, q.ring = (s.reg 5).toNat) := by decide
theorem witness_RingCommands_await : let s := ringed id (Ctx.with ctx0 [(2, 3), (3, 4)])
    let r := (s.cluster s.clu).ring (s.reg 2).toNat
    r.wp ≠ r.rp ∧ PMap.find? r.slots (r.rp.toNat % r.size) = some (7, 8) ∧ r.size ≠ 0 ∧ ({ ring0 with rp := 1 } : Ring).wp = ({ ring0 with rp := 1 } : Ring).rp ∧
    ((s.cluster s.clu).ring (s.reg 3).toNat).size = 0 := by decide
theorem witness_RingCommands_bounds : let s := at0 (Ctx.with ctx0 [(2, 7), (3, 8), (4, 4)])
    (s.reg 2).toNat ≤ 7 ∧ 7 < (s.reg 3).toNat ∧ 4 ≤ (s.reg 4).toNat ∧ (s.reg 0).toNat < 4 := by decide
theorem witness_RingCommands_publish : let d : Deferred := ⟨3, 0, 0, [record0]⟩
    let s := withCluster (fun k => { k with deferred := [d] }) (ringed id (Ctx.stalled ctx0 12 5 (.publish 9 1)))
    s.th.stall = some ⟨12, 5, .publish 9 1⟩ ∧ (∀ p ∈ s.pubs, p.id = 9 → p.applied = true) ∧
    (s.cluster s.clu).deferred.filter (fun d => decide (d.ring = 3)) ≠ [] ∧ (ringed id ctx0).th.stall = none ∧
    ((ringed id ctx0).cluster 0).deferred = [] := by decide
theorem witness_Transfers_checks : let q := transfer0 .queued
    let s := ringed (fun c => { c with queue := [q] }) ctx0
    ((s.cluster 0).channel (0 : Fin 8).val).queue = q :: [] ∧ ((s.cluster 0).channel (0 : Fin 8).val).chain = none ∧ q.kind = .plain ∧ q.shape.ok = true ∧
    q.shapeOk q.moves = true ∧ s.boundsGood q q.moves = true ∧ q.ssh = false ∧ q.dsh = false ∧
    ({ q with shape := ⟨0, 8, false, []⟩ } : Transfer).shape.ok = false ∧
    (let r := { q with dst := 0x3FFFF }; r.shapeOk r.moves = true ∧ s.boundsGood r r.moves = false) := by decide
theorem witness_Transfers_ends : let q := transfer0 (.done 0)
    let s := ringed (fun c => { c with queue := [q] }) ctx0
    q.pub = none ∧ q.chainRec = none ∧ (s.cluster 0).slotFree q.ring = true ∧ q.shadow = [] ∧
    ({ q with shadow := [record0] } : Transfer).shadow ≠ [] := by decide
theorem witness_Chains : let s := ringed (fun c => { c with chain := some (chain0 64) }) ctx0
    ((s.cluster 0).channel 0).chain = some (chain0 64) ∧ ((s.cluster 0).channel 0).queue = [] ∧ (64 : W64).toNat % 64 = 0 ∧
    s.chainLocal 0 (chain0 64) 64 64 = true ∧ s.chainLocal 0 (chain0 64) (opm 1 0 0) 64 = false ∧ (s.cluster 0).slotFree 3 = true := by decide
/-- A record with own set that names ring 3 and the shape record at 0x100. -/
def chainWord : BitVec 512 := BitVec.ofNat 512 (2 ^ 159 + 3 * 2 ^ 144 + 0x100 * 2 ^ 192)
theorem witness_Chains_own :
    let u := ringed (fun c => { c with chain := some (chain0 64) }) ctx0
    let s := withCore (fun k => { k with ulm := Mem.writeBytes k.ulm 64 (leBytes chainWord 64) }) u
    let r := BitVec.ofNat 512 (leNat (s.opmRead 0 0 0 64 64))
    r.getLsbD 159 = true ∧ s.ringOk 0 (r.extractLsb' 144 6).toNat = true ∧ r.getLsbD 131 = false ∧ r.getLsbD 132 = false ∧
    (r.extractLsb' 192 64).toNat % 16 = 0 ∧ s.chainLocal 0 (chain0 64) (r.extractLsb' 192 64) 96 = true ∧ r.extractLsb' 256 64 = 0 := by decide
theorem witness_Multicast : let m : Multicast := ⟨90, 1, corner0, 0, false, false, 0, 0x100, 3, 64⟩
    let s := ringed id (Ctx.stalled { ctx0 with bufFree := 2 } 12 6 (.mcast m))
    let x := (s.core 0).run
    x.resident = true ∧ (x.thread 0).stall = some ⟨12, 6, .mcast m⟩ ∧ s.mcastAhead 0 0 x.launch m = false ∧ s.allFree x.launch m.flag m.rect = true ∧
    ((s.cluster 0).channel 0).queue.length < 16 := by decide

/-! The engines of core 0. -/
theorem witness_VectorIssue : let s := at0 (Ctx.with ctx0 [(2, 1), (3, 2)])
    s.cur.vecOf.length < 8 ∧ s.has [2, 3, 4] = true ∧ 8 ≤ (withCore (fun k => { k with vq := List.replicate 8 (xvEntry (.knot 1 2)) }) s).cur.vecOf.length := by decide
theorem witness_UnitIdle : UnitIdle (at0 ctx0) ∧ (at0 ctx0).th.has 4 = true := by
  refine ⟨⟨by decide, by decide, by decide, by decide, ?_⟩, by decide⟩
  have h : ((unitCores (at0 ctx0).focus).all fun d => ((at0 ctx0).core d).vecOf.isEmpty) = true := by decide
  intro d hd
  simpa using (List.all_eq_true.mp h) d hd
theorem witness_VectorResults : (at0 (Ctx.with ctx0 [(2, 1), (3, 65)])).has [2, 3, 4] = true ∧ 1 = ((at0 (Ctx.with ctx0 [(3, 65)])).reg 3).toNat % 64 ∧
    (4 : SReg) ≠ 0 := by decide
theorem witness_VectorMemory_issue : let s := at0 (Ctx.with { ctx0 with masks := ctx0.masks.set 0 1 } [(2, 0x10000)])
    s.has [2, 3] = true ∧ s.th.stall = none ∧ s.xvLeft s.seq = false ∧ s.ctx.phase = .exchange ∧ s.cur.vecOf.length < 8 ∧ 1 ≤ s.logRoom ∧ s.cur.buffered + 1 ≤ 2048 ∧
    (withCore (fun k => { k with vq := [xvEntry (.knot 1 2)] }) { s with seq := 1 }).xvLeft 1 = true ∧
    leavesCluster 0 (opm 4 0 0) = true ∧ (at0 { ctx0 with phase := .compute }).ctx.phase = .compute ∧ leavesCluster 0 (opm 0 0 8) = false := by decide
/-- A queue of one load, and of one store, of the lone lane 0; the address of the second is misaligned. -/
def lane0 (op : XvOp) (a : W64) : State :=
  withCore (fun k => { k with vq := [{ xvEntry op with a := a }] }) (at0 { ctx0 with masks := ctx0.masks.set 1 1 })
theorem witness_VectorMemory_load : let e := { xvEntry (.load false .unit 3 1) with a := 8 }
    let s := lane0 (.load false .unit 3 1) 8
    s.cur.vq = [e] ∧ e.launch = s.ctx.launch ∧ e.left = 0 ∧ (e.view s.ctx).mask 1 = 1 ∧ localCheck .hexit false false 8 4 s = none ∧ localCheck .hexit false false 10 4 s ≠ none ∧
    localCheck .hexit false false 10 4 s ≠ some .remote := by decide
theorem witness_VectorMemory_store : let s := lane0 (.store false .unit 3 1) 8
    s.cur.vq = [{ xvEntry (.store false .unit 3 1) with a := 8 }] ∧ s.memOk = true ∧ opmType (8 : W64) = 0 := by decide

/-- Tile 0 owned, a descriptor of one step. -/
def mxCtx : Ctx := { ctx0 with mtiles := 1, mx := ctx0.mx.setDesc 0x10000000 0 .i8 1 15 0 }
theorem witness_MatrixIssue : let s := at0 (Ctx.with mxCtx [(2, opm 0 4 0), (3, 0), (4, 0), (6, opm 0 4 0), (7, 0)])
    s.has [2, 3] = true ∧ s.cur.mxOf.length < 4 ∧ s.th.stall = none ∧ s.xvLeft s.seq = false ∧ s.mxLeft s.seq = false ∧ s.has [4, 5] = true ∧
    4 ≤ (withCore (fun k => { k with mq := List.replicate 4 ⟨0, 0, .mzero 0⟩ }) s).cur.mxOf.length ∧ (at0 ctx0).ctx.mtiles.getLsbD 0 = false ∧
    s.ctx.mtiles.getLsbD 0 = true := by decide
theorem witness_MatrixIssue_accepts : obs (.mmai false true true false 0 2 0 0 1 0) (at0 (Ctx.with mxCtx [(2, 0x10000000)])) (fun t => (t.cur.mq.length, t.ctx.accerr)) =
    some (1, false) := by decide
theorem witness_MatrixCommands : let e : MxEntry := ⟨0, 0, .mzero 0⟩
    let s := withCore (fun k => { k with mq := [e] }) (at0 mxCtx)
    (s.core 0).mxOf = e :: [] ∧ (∀ q < 8, q ≠ 0 → (s.core (baseCore 0 + q / 4 * 16 + q % 4)).mxOf = []) ∧ (s.cluster 0).mxGranted = [] ∧ s.memOk = true ∧
    (s.core 0).run.of e.launch = true ∧ (∀ x, s.image 0 e.launch = some x → x.accsat = false) := by
  refine ⟨by decide, by decide, by decide, by decide, by decide, ?_⟩
  intro x h
  cases h
  rfl
theorem witness_MatrixCommands_mmai : let s := at0 mxCtx
    s.arrayFor 0 0 0 mxCtx.mx.desc = s.loaded 0 0 0 mxCtx.mx.desc := by rfl
theorem witness_MatrixCommands_done : let g : MxGranted := ⟨0, ⟨0, 0, .mzero 0⟩, []⟩
    let s := withCluster (fun x => { x with mxGranted := [g] }) (at0 mxCtx)
    ∃ g ∈ (s.cluster 0).mxGranted, g.entry.cmd.isDrain = false := ⟨⟨0, ⟨0, 0, .mzero 0⟩, []⟩, by decide, rfl⟩

theorem witness_RankIssue : let s := at0 (Ctx.with ctx0 [(2, 0x100), (3, 0x200), (5, BitVec.ofNat 64 (4 + 2 * 65536))])
    s.has [4, 2, 3, 5] = true ∧ s.cur.rkOf.length < 2 ∧ 2 ≤ (withCore (fun k => { k with rq := List.replicate 2 ⟨0, 0, 0, 4, .rktab (.ulm 0) 4 0⟩ }) s).cur.rkOf.length ∧ engineLoc s.focus s.ctx (s.reg 2) 16 ≠ none ∧ engineLoc s.focus s.ctx (s.reg 3) 4 ≠ none ∧
    (s.reg 5).extractLsb' 27 37 = 0 ∧ engineLoc s.focus s.ctx 0x101 16 = none ∧ s.th.stall = none ∧ s.xvLeft s.seq = false := by decide
def rkEntry (cmd : RkCmd) : RkEntry := ⟨0, 0, 0, 4, cmd⟩
theorem witness_RankCommands_grant : let e := rkEntry (.rktab (.ulm 0) 4 0)
    let s := withCore (fun k => { k with rq := [e] }) (at0 ctx0)
    (s.cluster 0).rkRunning = [] ∧ (s.cluster 0).rkPtr = 7 ∧ (s.core 0).rq = e :: [] := by decide
theorem witness_RankCommands_done : let e := rkEntry (.rank false .i32 none (.ulm 0x100) (.ulm 0x200) 4 2)
    let s := withCluster (fun x => { x with rkRunning := [⟨0, e, [], [], none, []⟩] }) (at0 ctx0)
    (s.cluster s.clu).rkRunning = [⟨s.focus, e, [], [], none, []⟩] ∧ s.outRegion s.focus e.launch = none ∧ s.ctx.of e.launch = true ∧ e.thr = s.thr.val ∧ s.th.live = true ∧
    s.th.inc = e.inc ∧ e.rd ≠ 0 ∧ s.memOk = true ∧ 2 ≤ 4 := by decide

/-! The assignment engine of die 0; the context owns slot 1. -/
def withAe (f : Ae → Ae) (s : State) : State := s.setDie 0 { s.die 0 with ae := f (s.die 0).ae }
def owned0 (x : Ctx) : State := withAe (fun a => { a with slotOwner := [(1, ⟨true, 0⟩)], bankOwner := [(0, ⟨true, 0⟩)] }) (at0 x)
theorem witness_AssignmentIssue : let s := owned0 (Ctx.with ctx0 [(2, 1), (3, 0x100), (5, 16)])
    s.has [4, 2, 3] = true ∧ (s.die 0).ae.queue.length < 64 ∧ (s.reg 2).toNat ≤ 15 ∧ s.aeLoc (s.reg 3) 64 ≠ none ∧ 15 < (s.reg 5).toNat ∧
    (PMap.get (s.die 0).ae.slotOwner 1 Owner.reset).any = true ∧ s.th.stall = none ∧ s.ctx.mode = .user := by decide
def aeEntry (cmd : AeCmd) (st : Bool) : AeEntry := ⟨0, 0, 0, 0, 0, 4, cmd, st, [], []⟩
theorem witness_AssignmentCommands_start : let q := aeEntry (.stat 1) false
    let s := withAe (fun a => { a with queue := [q] }) (owned0 ctx0)
    (s.die 0).ae.queue[0]? = some q ∧ q.core = s.focus ∧ s.ctx.of q.launch = true ∧ q.thr = s.thr.val ∧ s.th.live = true ∧ s.th.inc = q.inc ∧
    s.aeFree 0 q = true ∧ s.aeNext 0 q = true ∧ s.outRegion s.focus q.launch = none ∧ s.aeStartFail 0 (aeEntry (.run 1 0) false) ≠ 0 ∧
    s.aeStartFail 0 (aeEntry (.pw 0 ⟨.ulm 0, 2048⟩) false) = 0 ∧ s.memOk = true ∧
    (let p := aeEntry (.pw 0 ⟨.ulm 0, 2048⟩) true
     let u := withAe (fun a => { a with queue := [p] }) (owned0 ctx0)
     u.aeServed 0 p = true ∧ p.got = [] ∧ p.put = [] ∧ u.outRegion u.focus p.launch = none) := by decide
/-- A slot in a run of one token and two experts, with a limit of two rounds. -/
def aeSlot0 (n : Nat) : AeSlot := { AeSlot.empty with state := 1, rounds := n, record := BitVec.ofNat 512 (1 + 2 ^ 43 + 2 ^ 62 + 2 * 2 ^ 66 + 2 ^ 76) }
theorem witness_AssignmentCommands_round : let s := withAe (fun a => { a with slots := [(1, aeSlot0 0)] }) (owned0 ctx0)
    ((s.die 0).ae.slot 1).state = 1 ∧ ((s.die 0).ae.slot 1).over s.now = false ∧ (aeSlot0 2).over s.now = true ∧ (s.turnNow 0).head? = some 1 := by decide

/-! Collectives: a descriptor of zeros at address 0x100; group 3 of generation 5 is not valid. -/
theorem witness_CollectiveIssue : let s := at0 (Ctx.with ctx0 [(2, 0x100), (3, 0x101), (4, 0x00510000)])
    s.has [2, 5] = true ∧ engineLoc s.focus s.ctx (s.reg 2) 64 = some (.ulm 0x100) ∧ engineLoc s.focus s.ctx (s.reg 3) 64 = none ∧ (s.reg 4).toNat < 2 ^ 32 ∧
    s.isAdmitted s.ctx.launch = false ∧ (s.group 0).v = false ∧ s.instances = [] ∧ s.th.stall = none := by decide
def inst0 : Instance := ⟨0x50, 1, 0, 0, 0, 0, 0, none, none, [], true, true, [], [], Group.reset⟩
theorem witness_CollectiveIssue_await : ([inst0].getLast?).map (·.status) = some none ∧ ([{ inst0 with status := some 9 }].getLast?).map (·.status) = some (some 9) := by decide
theorem witness_CollectiveEvents : let c : Chunk := ⟨0x50, 1, 2, [], 0, .pool⟩
    let s := { at0 ctx0 with chunks := [c], instances := [inst0] }
    (s.group 0x50).gen = BitVec.extractLsb' 0 4 (0x50 : BitVec 16) ∧ (s.group 0x51).gen ≠ BitVec.extractLsb' 0 4 (0x51 : BitVec 16) ∧
    s.chunks = [] ++ c :: [] ∧ (s.chunks.filter fun d => d.proc == c.proc && d.place == .slot).length < 512 ∧ c.place = .pool ∧ s.instances = [] ++ inst0 :: [] ∧ inst0.pub = none ∧
    (s.ctxRecord inst0.ctxid).getLsbD 0 = false ∧ (s.cluster (clusterOf inst0.core)).copyTlb.entries = [] := by decide
/-- An instance whose four dimensions have size 1. -/
def inst1 : Instance := { inst0 with desc := BitVec.ofNat 512 (2 ^ 320 + 2 ^ 336 + 2 ^ 352 + 2 ^ 368) }
theorem witness_CollectiveEvents_deny : ∀ j < 4, localSize inst1.desc (collIn inst1.desc) j ≠ 0 := by decide
/-- R166, R323: no context record, so the pages are refused: DENY. -/
theorem test_coll_deny : obs (.collInstanceComplete 0x50 1) { at0 ctx0 with instances := [inst1] } (fun t => t.instances.map (·.status)) = some [some 6] := by decide

/-! Management: the walk routine of context 0 maps every 64 KiB page to the frame of its number, readable and writable, and all rights are held. -/
def walkable (s : State) : State :=
  { s with
    home := [(0, 1)]
    rights := [(0, 0xFFFF)]
    walkStore := Mem.writeBytes [] 0 ([0x01055613, 0x00B61593, 0x0195E593, 0x00000513, 0x00000073].flatMap fun (w : Nat) => leBytes (BitVec.ofNat 32 w) 4) }
theorem test_walk : (walkable (at0 ctx0)).walk 0 .copyRead 0x10008 = .fill (BitVec.ofNat 128 (2 ^ 64 + 2 ^ 11 + 0x19)) := by decide

/-- Queue 0: its control block at 0x10000, its ring of one record at 0x20000, in context 0. -/
def queued0 (x : QueueState) (l : List (Nat × Launch)) (tail : Byte) : State :=
  let s := walkable (at0 ctx0)
  { s with
    home := (s.home : Mem).write 0x10000 tail
    qdesc := [(0, BitVec.ofNat 512 (0x20000 * 2 ^ 384 + 0x10000 * 2 ^ 320))], queues := [(0, x)], launches := l }
theorem witness_Queues_consume : let s := queued0 { QueueState.reset with slot := some 0 } [] 1
    (s.queue 0).err = 0 ∧ s.mgmtRead (qCtxid (s.queueDesc 0)) (qQcb (s.queueDesc 0)) 8 = some [1, 0, 0, 0, 0, 0, 0, 0] ∧ s.mayConsume 0 = true ∧
    2 ^ ((s.queueDesc 0).extractLsb' 275 5).toNat = 1 := by decide
theorem witness_Queues_next : let s := queued0 { QueueState.reset with slot := some 0, tail := 1 } [] 1
    ((s.setQueue 0 { s.queue 0 with tail := 1 }).mgmtSettle (qCtxid (s.queueDesc 0)) (qRbase (s.queueDesc 0)) 64).mgmtRead (qCtxid (s.queueDesc 0))
      (qRbase (s.queueDesc 0)) 64 ≠ none ∧ (∀ p ∈ s.pubs, p.lagG = 0) ∧
    (s.mgmtRecords (qCtxid (s.queueDesc 0)) (qQcb (s.queueDesc 0) + 8) (leBytes (BitVec.ofNat 64 1) 8)).isSome = true := by decide
theorem witness_Queues_err : let s := queued0 { QueueState.reset with tail := 2 } [] 1
    s.mgmtRead (qCtxid (s.queueDesc 0)) (qQcb (s.queueDesc 0)) 8 = some [1, 0, 0, 0, 0, 0, 0, 0] ∧
    leNat ([1, 0, 0, 0, 0, 0, 0, 0] : List Byte) < (s.queue 0).tail ∧
    (s.mgmtRecords (qCtxid (s.queueDesc 0)) (qQcb (s.queueDesc 0) + 16) (leBytes (BitVec.ofNat 64 2) 8)).isSome = true := by decide
theorem witness_Queues_reset : let s := queued0 { QueueState.reset with err := 1 } [] 0
    (s.queue 0).err ≠ 0 ∧ (s.mgmtRecords (qCtxid (s.queueDesc 0)) (qQcb (s.queueDesc 0)) (List.replicate 24 0)).isSome = true := by decide
theorem witness_Queues_bind : let s := queued0 { QueueState.reset with tail := 1 } [] 1
    (s.queue 0).slot = none ∧ s.queueWaits 0 = true ∧ s.slotFree 255 = true ∧ s.slotFree 256 = false ∧
    s.slotHolder 255 = none := by decide
/-- A best-effort launch that waits. -/
def waiting0 : Launch := { launch0 with state := .queued }
theorem witness_Queues_grant : let s := queued0 { QueueState.reset with slot := some 0 } [(0, waiting0)] 0
    s.queues.filterMap (fun (k, z) => if z.slot.isSome && z.err == 0 then s.headLaunch k else none) = [waiting0] ∧ s.launch? waiting0.id = some waiting0 := by decide
/-- Queue 256 waits while the queues 0 to 255 hold the slots, each with a launch of deadline class that is still to finish but queue 0, whose head is
best effort. -/
def rotating (n : Nat) : State :=
  let s := walkable (at0 ctx0)
  { s with
    qdesc := (List.range n).map fun q => (q + 1, BitVec.ofNat 512 (2 ^ 284))
    queues := ((0, { QueueState.reset with slot := some 0 }) :: (List.range n).map fun q => (q + 1, { QueueState.reset with slot := some (q + 1), tail := 1, dlSlot := true })) ++
      [(256, { QueueState.reset with tail := 1 })]
    launches := [(0, waiting0)] }
set_option maxRecDepth 20000 in
theorem witness_Queues_rotate : let s := rotating 255
    s.queues.filter (fun (k, z) => s.bindsBest k && z.slot.isNone && s.queueWaits k) = [(256, { QueueState.reset with tail := 1 })] ∧
    s.queues.filter (fun (k, z) => !z.dlSlot && z.slot.isSome && !(s.considered k).any fun l => l.bestEffort && l.state == .granted) = [(0, { QueueState.reset with slot := some 0 })] ∧
    (s.queue 0).slot = some 0 := by
  decide

/-! Launches: `launch0` on queue 0 of one cluster row of die 0. -/
theorem witness_Admission_slice : let l := { launch0 with state := .running, sliceStart := 0 }
    let s := { at0 ctx0 with launches := [(0, l)], now := 104000 }
    s.launch? 0 = some l ∧ l.bestEffort = true ∧ l.sliceStart + ((((s.descOf l).extractLsb' 304 16).toNat + 1) * 1600) ≤ s.now := by decide
def deadline0 (t : Nat) : Launch := { launch0 with state := .queued, record := BitVec.ofNat 512 (2 ^ 95 + t * 2 ^ 256) }
def admitting (t : Nat) : State :=
  { at0 ctx0 with launches := [(0, deadline0 t)], reservations := State.reset.reservations.set 0 ⟨160000, 160000, 0xFF, 0xFF000, 0, 0⟩ }
theorem witness_Admission_refused : (admitting 0).launchList.find? (fun m => m.dl && !m.admitted && m.state == .queued) = some (deadline0 0) ∧
    (admitting 0).launch? 0 = some (deadline0 0) ∧ (admitting 0).admits (deadline0 0) = none := by decide
theorem witness_Admission_admits : let m := { deadline0 1000000000 with cr := 0, cc := 0, dies := [0] }
    (admitting 1000000000).admits m ≠ none := by decide
theorem witness_Admission_period : let s := admitting 0
    (s.rsv 0).p ≠ 0 ∧ (s.rsv 0).period + (s.rsv 0).p.toNat ≤ ({ s with now := 160000 } : State).now ∧ (State.reset.rsv 0).q.toNat ≤ (State.reset.rsv 0).used := by decide
theorem witness_Admission_overrun : let l := { launch0 with admitted := true, notice := 1 }
    let s := { pair ctx0 ctx0 with launches := [(0, l)] }
    s.launch? 0 = some l ∧ l.demoted = false ∧ l.overrun ≠ 0 ∧ l.state ≠ .ended ∧ l.state ≠ .finished := by decide
theorem witness_Dispatching_place : let l := { waiting0 with state := .granted }
    let s := { State.reset with launches := [(0, l)], saveAreas := 8, bootStage := 2 }
    s.launch? 0 = some l ∧ l.admitted = false ∧ l.loaded = [] ∧ s.fits l { l with dies := [0], cr := 7, cc := 3 } = true := by decide
theorem witness_Dispatching_loads : let l := { launch0 with state := .loading, loaded := launch0.cores }
    l.state = .loading ∧ l.status < 5 ∧ (∀ c ∈ l.cores, c ∈ l.loaded) ∧ 5 ≤ ({ l with status := 5 } : Launch).status ∧
    (let s := withCore (fun k => { k with switch := some ⟨900, some 0, some 0⟩ }) (at0 ctx0)
     (0 : Nat) ∈ l.cores ∧ ((s.core 0).switch.any fun w => decide (w.waits = some 0)) = true ∧ ((at0 ctx0).core 0).switch = none) := by decide
def savedCtx : Ctx := { ctx0 with launch := 0 }
set_option maxRecDepth 20000 in
theorem witness_Dispatching_in : let k : Core := { Core.reset with switch := some ⟨90, some 0, some 0⟩ }
    let s : State := { State.reset with now := 100, cores := [(0, k)], launches := [(0, launch0)], saved := [⟨0, savedCtx, none, 0⟩] }
    (s.core 0).switch = some ⟨90, some 0, some 0⟩ ∧ s.launch? 0 = some launch0 ∧ launch0.state = .running ∧ (s.core 0).run.resident = false ∧
    s.incoming 0 0 = some ⟨0, savedCtx, none, 0⟩ := by decide
theorem witness_Dispatching_out : let s := withCore (fun k => { k with switch := some ⟨90, none, none⟩ }) (pair ctx0 ctx0)
    (s.core 0).switch = some ⟨90, none, none⟩ ∧ 90 ≤ s.now ∧ (s.core 0).run.resident = true ∧ (s.core 0).shadow.resident = false ∧
    s.launch? (s.core 0).run.launch = some launch0 ∧ launch0.state = .running ∧
    (s.core 0).run.notice = 0 ∧ (s.core 0).run.checks = false ∧ (∀ n, ((s.core 0).run.thread n).sigBad = none) ∧ s.packets = [] := by decide
set_option maxRecDepth 20000 in
theorem witness_Dispatching_stream : let s := withCore (fun k => { k with shadow := savedCtx, run := Ctx.reset }) (at0 ctx0)
    let u : State := { State.reset with saved := [⟨0, savedCtx, none, 0⟩] }
    (s.core 0).shadow.of 0 = true ∧ (u.core 0).shadow.resident = false ∧ u.saved.find? (fun b => b.core == 0 && b.ctx.of 0) = some ⟨0, savedCtx, none, 0⟩ ∧
    (u.core 0).run.resident = false := by decide
set_option maxRecDepth 20000 in
theorem witness_Dispatching_areas : ctx0.inbox.length ≤ 8 ∧ Csr.ofBits (BitVec.ofNat 5 18) ≠ none := by decide
theorem witness_Dispatching_record : let l := { launch0 with state := .ended }
    let s := queued0 QueueState.reset [(0, l)] 0
    s.launch? 0 = some l ∧ (s.queue l.queue).err = 0 ∧ s.launchList = [l] ∧
    (s.mgmtRecords (qCtxid (s.descOf l)) ((s.descOf l).extractLsb' 448 64) (leBytes (l.completion (l.finalStatus s.nextApp)) 16)).isSome = true := by decide

/-! Boundaries, errors, snapshots. -/
theorem witness_Boundaries : let s := { at0 ctx0 with now := 160000, boundaries := [(0, { Boundary.reset 0 with dead := true })] }
    s.now % 160000 = 0 ∧ s.stepAt ≠ s.now ∧ (s.boundary 0).dead = true ∧ (s.boundary 1).live ≠ 0 ∧ (∀ p ∈ s.pubs, p.lagG = 0) ∧ s.snapHeld = false ∧ s.snapPending = none := by decide
theorem witness_Boundaries_armed : let x := { ctx0 with snapArm := true, snapEvent := 0x21 }
    (0, coreOf x) ∈ ([(0, coreOf x)] : PMap Core) ∧ x.resident = true ∧ x.snapArm = true ∧ x.snapEvent = 0x21 := ⟨List.mem_singleton.mpr rfl, rfl, rfl, rfl⟩
theorem witness_Boundaries_age : let p := packet0 true .flying
    let s := { at0 ctx0 with now := 64091, packets := [p] }
    s.packets = p :: [] ∧ p.state = .flying ∧ p.nacked = none ∧ dieOf p.target = 0 ∧ p.sent + 64000 < s.now := ⟨rfl, rfl, rfl, rfl, Nat.lt_of_lt_of_eq (by simp : 90 + 64000 < 64091) rfl⟩
theorem witness_Errors : let s := pair ctx0 ctx0
    (s.die (dieOf 0)).resetting.any (fun (m, _) => m == (s.rectAt 0).1) = false ∧ s.ras.length < 4096 ∧ (s.core 0).run.of 0 = true ∧ s.launch? 0 = some launch0 := by decide
theorem witness_Errors_doomed : let l := { launch0 with doomed := true }
    ({ pair ctx0 ctx0 with launches := [(0, l)] } : State).launch? 0 = some l ∧ l.state ≠ .ended ∧ l.state ≠ .finished := by decide
theorem witness_Errors_map : let l : List W64 := (List.range 32).map fun k => BitVec.ofNat 64 (0x31000 + k / 4 * 2 * 16 + k % 4 * 4)
    l.length = 32 ∧ ∀ c ∈ [0, 3, 4, 16, 32, 255], (l.filter fun w => (rectOf w).covers c).length = 1 := by decide
theorem witness_Snapshots : let s := { at0 ctx0 with snapPending := some (36, 2) }
    s.snapPending = some (36, 2) ∧ 36 + 64 ≤ s.now ∧ (s.core 0).run.resident = true ∧ (at0 ctx0).snapHeld = false ∧ (at0 ctx0).snapPending = none ∧
    ({ s with snapPending := some (37, 2) } : State).now < 37 + 64 := by decide

/-! Requests of the context on core 0, with their reply area at 0x10000; the reply can be made. -/
def request0 (op args : Nat) : Request := ⟨false, 0, 0, 0, 0, some (BitVec.ofNat 512 (op + 0x10000 * 2 ^ 64 + args * 2 ^ 128)), false, 0⟩
def asked (op args : Nat) (rights : BitVec 16) : State := { walkable (at0 ctx0) with requests := [request0 op args], rights := [(0, rights)] }
/-- A request is served when the operation is one that needs no check of its arguments. -/
theorem asked_served (op args : Nat) (h : reqOp (((request0 op args).record).getD 0) = op) (k : (asked op args 0xFFFF).replyAt (request0 op args) (((request0 op args).record).getD 0) = 0x10000)
    (p : (asked op args 0xFFFF).permitted (request0 op args) (((request0 op args).record).getD 0) = true)
    (e : (asked op args 0xFFFF).reach 0 .copyWrite 0x10000 = .entry ⟨BitVec.ofNat 128 (2 ^ 64 + 2 ^ 11 + 0x19), false⟩) :
    Served (asked op args 0xFFFF) (request0 op args) [] (((request0 op args).record).getD 0) op := by
  exact ⟨rfl, rfl, h, ⟨_, by rw [k]; exact e⟩, by rw [k]; decide, p⟩
theorem witness_ManagementRequests_served :
    (∃ r, Served (asked 1 0 0xFFFF) (request0 1 0) [] r 1) ∧ (∃ r, Served (asked 2 0 0xFFFF) (request0 2 0) [] r 2) ∧
    (∃ r, Served (asked 3 0 0xFFFF) (request0 3 0) [] r 3) ∧ (∃ r, Served (asked 4 0 0xFFFF) (request0 4 0) [] r 4) ∧
    (∃ r, Served (asked 5 0 0xFFFF) (request0 5 0) [] r 5) ∧ (∃ r, Served (asked 6 0 0xFFFF) (request0 6 0) [] r 6) ∧
    (∃ r, Served (asked 7 0 0xFFFF) (request0 7 0) [] r 7) ∧ (∃ r, Served (asked 8 0 0xFFFF) (request0 8 0) [] r 8) ∧
    (∃ r, Served (asked 9 0 0xFFFF) (request0 9 0) [] r 9) ∧ (∃ r, Served (asked 10 0 0xFFFF) (request0 10 0) [] r 10) ∧
    (∃ r, Served (asked 11 0 0xFFFF) (request0 11 0) [] r 11) := by
  refine ⟨⟨_, asked_served 1 0 ?_ ?_ ?_ ?_⟩, ⟨_, asked_served 2 0 ?_ ?_ ?_ ?_⟩, ⟨_, asked_served 3 0 ?_ ?_ ?_ ?_⟩, ⟨_, asked_served 4 0 ?_ ?_ ?_ ?_⟩,
    ⟨_, asked_served 5 0 ?_ ?_ ?_ ?_⟩, ⟨_, asked_served 6 0 ?_ ?_ ?_ ?_⟩, ⟨_, asked_served 7 0 ?_ ?_ ?_ ?_⟩, ⟨_, asked_served 8 0 ?_ ?_ ?_ ?_⟩,
    ⟨_, asked_served 9 0 ?_ ?_ ?_ ?_⟩, ⟨_, asked_served 10 0 ?_ ?_ ?_ ?_⟩, ⟨_, asked_served 11 0 ?_ ?_ ?_ ?_⟩⟩ <;> decide
theorem witness_ManagementRequests_right : let s := asked 2 0 0
    let r := ((request0 2 0).record).getD 0
    s.permitted (request0 2 0) r = false ∧ (s.replyAt (request0 2 0) r).toNat % 16 = 0 ∧ reqOp (((request0 12 0).record).getD 0) = 12 := by decide
theorem witness_ManagementRequests_reply : let s := asked 2 0 0
    let r := ((request0 2 0).record).getD 0
    (s.mgmtRecords 0 (s.replyAt (request0 2 0) r) (leBytes ((0 : W64) ++ r.extractLsb' 32 32 ++ (0 : BitVec 24) ++ (0 : BitVec 8)) 16)).isSome = true := by decide
theorem witness_ManagementRequests_args : let s := asked 3 0 0xFFFF
    ((s.mgmtSettle 0 0x20000 256).mgmtWords 0 0x20000 32).isSome = true ∧ ((s.settleHomes fun _ => true).mgmtWords 0 0x20000 32).isSome = true ∧ s.rsvBusy 0 = false ∧ (s.groupAt 0).v = false ∧ (s.image 0 0).isSome = true ∧ s.invDone = true ∧
    ({ s with invDone := false } : State).invDone = false ∧ ({ s with ras := [0] } : State).ras ≠ [] := by decide
theorem witness_ManagementMap : (1 : W64).getLsbD 0 = true ∧ (0 : W64).getLsbD 0 = false ∧ State.reset.invDone = true ∧ State.reset.invAddr.extractLsb' 0 2 ≠ 3 := by decide
theorem witness_Boot_fails : let b : BootImage := ⟨1, [], [], [], []⟩
    State.reset.bootStage = 0 ∧ State.reset.bootHalted = false ∧ (∀ x ∈ [b], State.reset.imageOk x = false) ∧
    ({ State.reset with bootHalted := true } : State).bootHalted = true := by decide

theorem witness_Boot_boots (key : List Byte) (k : key.length = 256) (f : fieldAt key 0 4 = 0x54564B4B)
    (hd : List Byte) (b : headerOk (keyOfBlock key) 1 0 hd [] = true) (h2 : List Byte) (b2 : headerOk (keyOfBlock key) 2 0 h2 [] = true) :
    ({ State.reset with keyDigest := Config.sha384 (keyOfBlock key) } : State).imageOk ⟨1, key, hd, [], [(h2, [])]⟩ = true := by
  have z : (({ State.reset with keyDigest := Config.sha384 (keyOfBlock key) } : State).fuseCount).toNat = 0 := rfl
  simp [State.imageOk, k, f, z, b, b2]

/-! The step. -/
theorem witness_DecodeEncode : (Instr.addi 5 0 3).wf = true ∧ encode (.addi 5 0 3) ≠ [] := by decide
theorem witness_StepRunsDecoded : let s := State.reset.withFetchWord 32 (0x02 * 4 + 5 * 256 + 3 * 2 ^ 18)
    let u := { s.deliver with agenda := [] }.focusOn 0 0
    s.off = false ∧ s.agenda = .issue 0 0 :: [] ∧ u.mayIssue = true ∧ u.th.stall = none ∧ u.follows = false ∧ u.ctx.checks = false ∧ u.th.sigBad = none ∧
    u.ctx.notice = 0 ∧ u.th.pc.toNat < u.ctx.region ∧ u.th.ibSeq.words = [] ∧ u.th.ibTgt.words = [] ∧
    decode (u.fetch u.focus u.ctx u.th) = .ok (.addi 5 0 3) 4 := by decide
theorem witness_GoesOnUntilPowerOff : State.reset.off = false ∧ ({ State.reset with off := true } : State).off = true := by decide
theorem witness_FusesKept : State.reset.keyDigest = State.reset.keyDigest ∧ State.reset.serial = State.reset.serial ∧ State.reset.fuseCount ≤ State.reset.fuseCount := by
  decide
theorem witness_MemoryCanonical : Mem.wf State.reset.home = true ∧ Mem.wf State.reset.walkStore = true := by decide

/-! ## The clauses on bounds, ordered and split accesses, cut-off dies and lines (R109–R118, R306, R313) -/

theorem witness_LocalChecks_window : let s := at0 ctx0
    let ea := opm 0 4 0x7FFFF8
    ea.extractLsb' 44 20 = 0 ∧ opmType ea = 4 ∧ opmDie ea ≤ 7 ∧ rowOf (opmCore ea) % 2 = 0 ∧ colOf (opmCore ea) % 4 = 0 ∧ opmOff ea + 8 ≤ 8388608 ∧
    opmOff ea % 8 = 0 ∧ opmOff (opm 0 4 0x7FFFF4) % 8 ≠ 0 ∧ 8388608 < opmOff (opm 0 4 0x7FFFF9) + 8 ∧ s.ctx.mtiles.getLsbD (0 / 65536) = false ∧
    rowOf (opmCore (opm 16 4 0)) % 2 ≠ 0 ∧ 7 < opmType (opm 0 8 0) ∧ 1 ∉ [4, 8] ∧ s.ctx.phase = .exchange := by decide
theorem witness_LocalChecks_far : let s := pair ctx0 { ctx0 with size := 1 }
    opmType (opm 1 0 0xFFF8) = 0 ∧ opmCore (opm 1 0 0xFFF8) ≠ s.focus ∧ s.inSpread s.ctx.launch 1 = true ∧ s.inSpread s.ctx.launch 8 = false ∧
    (s.ctxOf 1 s.ctx.launch).map (fun y => (y.base.toNat, y.size.toNat)) = some (0, 1) ∧ opmOff (opm 1 0 0xFFF8) + 8 ≤ (0 + 1) * 65536 ∧
    ¬ opmOff (opm 1 0 0xFFF9) + 8 ≤ (0 + 1) * 65536 ∧
    ({ pair ctx0 ctx0 with cores := [(0, coreOf ctx0)] } : State).ctxOf 1 0 = none := by decide
/-- A message of core 0 to core 4 is on its way; the scratchpad of core 4's cluster is reached behind it. -/
def behind0 (x : Ctx) : State := { at0 x with packets := [{ packet0 true .flying with core := 0, target := 4 }] }
theorem witness_LocalLoads_behind : let s := behind0 (Ctx.with ctx0 [(2, opm 4 4 0)])
    s.has [2, 4] = true ∧ localCheck (.ldw 4 2 0) false false (s.reg 2 + (0 : BitVec 14).signExtend 64) 4 s = none ∧
    (s.atSource && s.behind (s.reg 2 + (0 : BitVec 14).signExtend 64)) = true ∧ s.th.stall = none ∧
    (at0 ctx0).behind (opm 4 4 0) = false ∧ (at0 (Ctx.stalled ctx0 4 0 .remote)).th.stall ≠ none := by decide
theorem witness_LocalLoads_registers : let s := at0 ctx0
    opmCore (opm 0 1 40) = s.focus ∧ opmType (opm 0 1 40) = 1 ∧ opmOff (opm 0 1 40) = 256 * (0 : Fin 11).val + 8 * (5 : SReg).toNat ∧
    opmType (opm 0 2 0x307) = 2 ∧ opmOff (opm 0 2 0x307) + 0 = 256 * (3 : VReg).toNat + 7 ∧
    opmType (opm 0 3 (8 * Csr.frm.toBits.toNat)) = 3 ∧ opmOff (opm 0 3 (8 * Csr.frm.toBits.toNat)) = 8 * Csr.frm.toBits.toNat ∧
    opmType (opm 0 7 8) = 7 ∧ opmOff (opm 0 7 8) % 8 = 0 ∧ (at0 (Ctx.sup ctx0)).ctx.mode = .supervisor ∧ opmOff (opm 0 7 8) + 8 ≤ 0x800000 ∧
    (at0 (Ctx.sup ctx0)).memOk = true ∧ (s.die 0).ae.frozen 8 = false := by decide
def half0 (v : Option W32) : HalfAccess := ⟨false, 0, 36, true, v⟩
theorem witness_LocalLoads_half : let s := at0 (ctx0.setThread 0 { th0 with half := some (half0 none), results := [⟨4, 9, 104, true⟩] })
    (s.ctx.thread 0).half = some (half0 none) ∧ (half0 none).store = none ∧ (half0 none).scratch = false ∧ (half0 none).unit = s.focus ∧
    (s.ctx.thread 0).results = [⟨4, 9, 104, true⟩] := by decide
/-- R114: the second access of a store writes its word and nothing else; which word comes second is free, so that the first attempt writes
four bytes. -/
theorem test_half_store : ((at0 (ctx0.setThread 0 { th0 with half := some (half0 (some 7)) })).makeHalf 0 0).cur.ulm = [(36, 7)] := by decide
theorem witness_LocalStores_half : let s := at0 (ctx0.setThread 0 { th0 with half := some (half0 (some 7)) })
    ((s.core 0).run.thread 0).half = some (half0 (some 7)) ∧ (half0 (some 7)).store = some 7 ∧ s.memOk = true ∧ opmType (opm 0 0 32) = 0 := by decide
theorem witness_LocalStores_passes : let s := at0 (Ctx.with ctx0 [(2, 8)])
    (s.atSource && s.behind (s.reg 2 + (0 : BitVec 14).signExtend 64)) = false := by decide
/-- The C-dies 0 and 1 with every boundary dead. -/
def cutOff0 (x : Ctx) : State :=
  { at0 x with boundaries := (List.range 18).map fun b => (b, { Boundary.reset b with dead := true, escape := true }) }
theorem witness_cut (x : Ctx) : (cutOff0 x).cutOff 0 1 = true ∧ (cutOff0 x).cutOff 1 0 = true ∧ (cutOff0 x).focus = 0 := by
  have k : ∀ n < 18, ∃ y, (n, y) ∈ (cutOff0 x).boundaries ∧ y.dead = true := fun n hn =>
    ⟨{ Boundary.reset n with dead := true, escape := true }, List.mem_map.mpr ⟨n, List.mem_range.mpr hn, rfl⟩, rfl⟩
  exact ⟨cutOff_of_all_dead _ 0 1 (by decide) (by decide) k, cutOff_of_all_dead _ 1 0 (by decide) (by decide) k, rfl⟩
/-- FullEmpty, LocalLoads and LockBits on a die that is cut off: nothing is behind anything there (R313). -/
theorem witness_FullEmpty_cut (x : Ctx) : (cutOff0 x).behind (opm 256 0 32) = false := by
  have e : dieOf (opmCore (opm 256 0 32)) = 1 := by decide
  have f : dieOf (cutOff0 x).focus = 0 := by rw [(witness_cut x).2.2]; decide
  simp [State.behind, e, f, (witness_cut x).1]
/-- Every boundary retrains. -/
def held0 (x : Ctx) : State :=
  { at0 x with boundaries := (List.range 18).map fun b => (b, { Boundary.reset b with retrain := some 900 }) }
theorem witness_held (x : Ctx) : (held0 x).routeHeld 0 1 = true ∧ (held0 x).routeHeld 8 0 = true := by
  have k : ∀ n < 18, ∃ y, (n, y) ∈ (held0 x).boundaries ∧ (y.retrain.isSome || (y.dead && !y.escape)) = true := fun n hn =>
    ⟨{ Boundary.reset n with retrain := some 900 }, List.mem_map.mpr ⟨n, List.mem_range.mpr hn, rfl⟩, by simp⟩
  exact ⟨routeHeld_of_all_held _ 0 1 (by decide) (by decide) k, routeHeld_of_all_held _ 8 0 (by decide) (by decide) k⟩
theorem witness_LockBits_granted : let v : LockWait := ⟨lockKey 64, 0, 0, 0, 64, 90, true⟩
    let s := withCluster (fun x => { x with lockLine := [v] }) (at0 (Ctx.with ctx0 [(2, opm 0 4 64)]))
    (s.cluster 0).lockLine.find? (fun w => w.key == lockKey (opmOff (s.reg 2))) = some v ∧ v.due = true ∧ v.core = s.focus ∧ v.thr = s.thr.val ∧
    (at0 ctx0).th.stall = none ∧ (∀ w ∈ ((at0 ctx0).cluster 0).lockLine, ¬ (w.core = 0 ∧ w.thr = 0)) := by decide
theorem witness_LockBits_reached : (at0 ctx0).routeHeld 0 0 = false ∧ (cutOff0 ctx0).routeHeld 0 0 = false ∧
    (at0 ctx0).cutOff 0 0 = false ∧ (at0 ctx0).th.half = none := by decide

/-! ## The clauses on helpers, gangs, votes, packets, streams and shared memory -/

theorem witness_Helpers_waits : let l : LocalLoad := ⟨0, 16, 0, 0, 0, 0, 4, 7, 90⟩
    let s : State := { at0 (ctx0.setThread 1 { th0 with startL := 1 }) with thr := 1, locals := [l] }
    l ∈ s.locals ∧ l.core = s.focus ∧ l.launch = s.ctx.launch ∧ l.thr = 0 ∧ l.seq < s.th.startL ∧ s.th.stall = none := by decide
theorem witness_Gangs_in : let s := at0 { ctx0 with gang := some (gang0 false true) }
    s.ctx.inGang = true ∧ (at0 { ctx0 with gang := some { gang0 false true with dissolved := true } }).ctx.inGang = false ∧
    (gang0 false true).dissolved = false := by decide
/-- The leader on core 0 and a follower on core 1 have voted. -/
def voting (any a b : Bool) : State :=
  pair { ctx0 with gang := some (gang0 true true), barGang := ⟨0, some 0, some (any, a)⟩ }
    { ctx0 with gang := some (gang0 false false), barGang := ⟨0, some 0, some (any, b)⟩ }
theorem witness_Barriers_votes : let s := voting true true false
    s.participants 0 .gang 0 = [0, 1] ∧ (∀ c ∈ s.participants 0 .gang 0, (s.image c 0).map (fun x => x.atBarrier .gang) = some true) ∧
    [0, 1].Nodup ∧ (s.image 0 0).map (·.barGang.vote) = some (some (true, true)) ∧ (s.image 1 0).map (·.gang) = some (some (gang0 false false)) ∧
    ((voting false true true).image 0 0).map (·.barGang.vote) = some (some (false, true)) ∧ (gang0 false false).attached = false := by decide
/-- R103: BANY gives 1 where one member voted 1; the follower that was detached attaches. -/
theorem test_vote_any : obs (.barrierRelease 0 .gang 0) (voting true true false)
    (fun t => ((t.image 1 0).map (·.barGang.vote), (t.image 1 0).map (fun x => x.gang.map (·.attached)))) = some (some (some (true, true)), some (some true)) := by decide
theorem test_vote_all : obs (.barrierRelease 0 .gang 0) (voting false true false) (fun t => (t.image 1 0).map (·.barGang.vote)) =
    some (some (some (false, false))) := by decide
theorem witness_RemoteWrites_cut : let p := { packet0 false .flying with core := 256, target := 0 }
    let s := { cutOff0 ctx0 with packets := [p], saved := [⟨256, ctx0, none, 0⟩] }
    p.core < 2048 ∧ p.launch = 0 ∧ (s.image p.core p.launch).isSome = true ∧ dieOf p.core = 1 ∧ dieOf p.target = 0 ∧
    (({ pair ctx0 ctx0 with packets := [packet0 false .flying] } : State).image 1 0).isSome = true ∧
    (at0 ctx0).cutOff (dieOf 1) (dieOf 0) = false ∧ (packet0 false .refused).state = .refused := by decide
theorem witness_Streams_ahead : let p := { packet0 true .flying with core := 0, target := 0, seq := 3 }
    let s : State := { streaming 1 [] with packets := [p] }
    (s.core 0).port.flying = (90, .data 1) :: [] ∧ p ∈ s.packets ∧ (s.core 0).port.owner = some (p.core, 0, 0) ∧ p.target = 0 ∧
    p.state = .flying ∧ p.seq < 90 ∧ (streaming 1 []).packets = [] ∧ ((streaming 1 []).core 0).port.fifo.length < 16 := by decide
theorem witness_SharedStores_phase : let s := at0 { ctx0 with phase := .compute }
    s.ctx.phase = .compute ∧ s.th.stall = none ∧ s.has [2, 4] = true := by decide
theorem witness_SharedLoads_way : let l := { load0 .sld with got := some (7, 90, 8) }
    let s := { at0 ctx0 with loads := [l] }
    l.got = some (7, 90, 8) ∧ s.cutOff 8 (dieOf l.core) = false ∧ s.routeHeld 8 (dieOf l.core) = false ∧ s.homeHeld 0 0x10008 = false := by
  refine ⟨rfl, by decide, by decide, ?_⟩
  simp [State.homeHeld, State.routeHeld, State.dieInReset, State.die, at0, State.reset, PMap.get, PMap.find?, Die.reset]
theorem witness_SharedLoads_held (x : Ctx) : (held0 x).routeHeld 8 (dieOf (load0 .sld).core) = true ∧ (held0 x).cutOff 8 0 = false :=
  ⟨(witness_held x).2, by rfl⟩
/-- An object at 0x20040 whose region is 0x10000 to 0x11000 and whose V is 1, with one publication under it that writes the view's byte. -/
def acquiring (known : Bool) : State :=
  let key := (entryAt 2 0x59).key 0x20040
  let h : Homed := ⟨(entryAt 1 0x39).key 0x10000, 0, false, false, 90⟩
  let q : Publication := ⟨0, 1, false, .dev, some key, 1, 0, false, false, [{ record0 with homed := some h }], some 90, some 99, true, 3, 1, 0, 0⟩
  let s := withCluster (fun x => { x with
      acq := if known then [⟨key, 0, (0x10000, 0x1000)⟩] else [], view := [(0x10000, ⟨1, 0, h.pa, 0⟩)] })
    (mapped (Ctx.stalled (Ctx.with ctx0 [(2, 0x20040)]) 4 0 .acq))
  { s with home := [(key + 2, 1), (key + 9, 0x10), (key + 16, 1)], pubs := [q], applied := 5 }
theorem witness_Acquire : let s := acquiring true
    let key := (entryAt 2 0x59).key 0x20040
    s.has [2] = true ∧ s.ctx.phase = .exchange ∧ (s.reg 2).toNat < 2 ^ 48 ∧ (s.reg 2).toNat % 64 = 0 ∧ s.th.stall = some ⟨4, 0, .acq⟩ ∧
    (s.translate s.clu (.core s.focus) s.thr.val s.ctx.ctxid s.ctx.launch .sync (s.reg 2)).1 = .hit (entryAt 2 0x59) ∧
    key = (entryAt 2 0x59).key (s.reg 2).toNat ∧ (∀ q ∈ s.pubs, q.lagG = 0) ∧ (s.cluster s.clu).viewLines.length ≤ 32768 ∧
    (s.home.readLE key 8 64 : W64) = 0x10000 ∧ (s.home.readLE (key + 8) 8 64 : W64) = 0x1000 ∧ (s.home.readLE (key + 16) 8 64 : W64) = 1 ∧
    ((s.cluster s.clu).acq.find? fun e => e.obj == key) = some ⟨key, 0, (0x10000, 0x1000)⟩ ∧ (s.under key 0 1).length = 1 - 0 ∧
    ((acquiring false).cluster 0).acq = [] := by decide
theorem witness_Acquire_replay : let s := acquiring true
    let key := (entryAt 2 0x59).key 0x20040
    s.under key 0 1 = s.pubs ∧ (s.pubs.map fun q => (q.records.length, q.ord, coversBoth q.scope .dev q.core s.focus)) = [(1, 3, true)] ∧
    (s.pubs.map fun q => q.records.map fun r => (r.kind, r.va, r.homed.isSome)) = [[(0, 0x10000, true)]] ∧
    3 < s.homeOrd ((entryAt 1 0x39).key 0x10000) false ∧ PMap.find? (s.cluster 0).view 0x10000 ≠ none := by decide
/-- R138: the older copy of the masked byte takes the record's byte. -/
theorem test_acq_replay : obs (.acq .dev 2) (acquiring true) (fun t => (PMap.find? (t.cluster 0).view 0x10000).map fun b => (b.val, b.ord)) = some (some (5, 4)) := by decide
theorem test_acq_drops : obs (.acq .dev 2) (acquiring false) (fun t => (t.cluster 0).view) = some [] := by decide
theorem witness_Publications_spill : (mapped ctx0).spillLine 0 record0 = none ∧ (mapped ctx0).homeHeld 0 0x10000 = false := by
  refine ⟨by decide, ?_⟩
  simp [State.homeHeld, State.routeHeld, State.dieInReset, State.die, mapped, withCore, State.setCore, at0, State.reset, PMap.get, PMap.find?, Die.reset]
/-- Five publications of one source are ready: the fifth waits. -/
theorem witness_Publications_fifth : let p : Publication := { pub0 with app := none }
    let s : State := { at0 ctx0 with now := 3200, pubs := (List.range 5).map fun n => { p with id := n } }
    s.pubs[4]? = some { p with id := 4 } ∧ 4 ≤ ((s.pubs.take 4).filter fun q => s.slotReady false s.now q && q.source == p.source).length := by decide
theorem test_fifth : obs (.callWindow false) { at0 ctx0 with now := 3200, pubs := (List.range 5).map fun n => { pub0 with id := n, app := none } }
    (fun t => t.pubs.map (·.app)) = some [some 3264, some 3264, some 3264, some 3264, none] := by decide
theorem witness_Publications_lags : let r := { record0 with homed := some ⟨0x10000, 0, false, false, 90⟩ }
    let p := { pub0 with records := [r] }
    let s := { at0 ctx0 with pubs := [p] }
    s.pubs = [p] ∧ r.mayLag = true ∧ (15 : BitVec 4).getLsbD (gdie 0x10000) = true ∧ (0 : BitVec 4).getLsbD (gdie 0x10000) = false ∧
    Mem.wf s.home = true ∧ p.app = some 100 ∧ p.drops = false ∧
    (let q := { p with applied := true, lagG := 15, app := some 30 }; q.applied = true ∧ q.lagG ≠ 0 ∧ 30 + 64 ≤ s.now) := by decide
theorem witness_TranslationHits_expired : let e : TlbEntry := ⟨(entryAt 1 0x39).word ||| BitVec.ofNat 128 (5 * 2 ^ 96), true⟩
    e.modeL = true ∧ 2 ^ 31 ≤ (BitVec.ofNat 32 ((at0 ctx0).now / 1024) - e.word.extractLsb' 96 32).toNat := by decide

/-! ## The clauses on operands, transfers, vectors, the matrix and the ranking unit (R81, R182–R263) -/

theorem witness_RegisterDiscipline_lists : let s := at0 (Ctx.without ctx0 7)
    operandsOf (.andi 4 7 1) = some [7, 4] ∧ s.has [7, 4] = false ∧ operandsOf (.sstbLit 7 3 5) = some [3, 7] ∧ s.has [3, 7] = false ∧
    operandsOf (.bgeu 7 2 1) = some [7, 2] ∧ s.has [7, 2] = false ∧ operandsOf (.jalrLit 7 0) = some [7, 1] ∧ s.has [7, 1] = false ∧
    operandsOf (.jal 1) = some [1] ∧ (at0 (Ctx.without ctx0 1)).has [1] = false := by decide
/-- A transfer between two places of die 0, and the same with a side on die 1. -/
theorem witness_Transfers_runs : let q := transfer0 .running
    let s := ringed (fun c => { c with queue := [q] }) ctx0
    q.state = .running ∧ q.ssh = false ∧ q.dsh = false ∧ q.shadow = [] ∧ q.got = [] ∧ (q.left.map (·.1)).length = 2 ∧
    ∀ d ∈ q.localDies (q.left.map (·.1)), s.cutOff (0 / 32) d = false ∧ s.routeHeld (0 / 32) d = false ∧ (s.die d).resetEnd ≤ s.now := by decide
theorem witness_Transfers_cut (x : Ctx) : let q := { transfer0 .running with dst := opm 256 0 0x200 }
    ∃ d ∈ q.localDies (q.left.map (·.1)), (cutOff0 x).cutOff (0 / 32) d = true := by
  refine ⟨1, by decide, (witness_cut x).1⟩
set_option maxRecDepth 20000 in
theorem witness_BlockLanes : let v : VImage := BitVec.ofNat 2048 (2 ^ 8)
    let s := at0 { Ctx.with ctx0 [(2, 1024 + 2 ^ 32)] with vregs := ctx0.vregs.set 3 v }
    s.has [2] = true ∧ s.th.has 4 = true ∧ (4 : SReg) ≠ 0 ∧ (3 : BitVec 3).toNat < 4 ∧
    (let sum (k : Nat) : Nat := ((List.range k).map fun j => (elemAt 8 (s.ctx.vreg 3) (j + 1)).toNat).sum
     let t : Nat := max 1 ((sum 254 * min ((s.reg 2).extractLsb' 0 11).toNat 1024 + 1023) / 1024)
     t ≤ sum 1 ∧ sum (1 - 1) < t) ∧ (elemAt 8 ((at0 ctx0).ctx.vreg 3) 1).toNat = 0 := by decide
theorem witness_TypedLanes : Ty.isInt .u8 = true ∧ Ty.isInt .i32 = true ∧ Ty.isSigned .i16 = true ∧ Ty.isFloat .bf16 = true ∧ tyWidth .i32 = 32 ∧
    tyFmt .f16 ≠ none ∧ tyWidth .f32 ≤ tyWidth .i32 ∧ ¬ tyWidth .f32 ≤ tyWidth .u8 := by decide
theorem witness_VectorMemory_lone : let e := { xvEntry (.load false .unit 3 1) with a := 8 }
    let s := lane0 (.load false .unit 3 1) 8
    e.next = 0 ∧ e.got = [] ∧ s.ctx.resident = true ∧ s.behind (e.a + BitVec.ofNat 64 (4 * 0)) = false ∧
    s.cutOff (dieOf s.focus) (opmDie 8) = false := by decide
theorem witness_VectorMemory_cut : (cutOff0 ctx0).cutOff (dieOf (cutOff0 ctx0).focus) (opmDie (opm 256 0 8)) = true := by
  rw [(witness_cut ctx0).2.2]
  exact (witness_cut ctx0).1
theorem witness_MatrixIssue_waits : let s := { withCore (fun k => { k with vq := [xvEntry (.knot 1 2)] }) (at0 mxCtx) with seq := 1 }
    s.xvLeft s.seq = true ∧ s.has [2, 3] = true ∧ ({ s with seq := 0 } : State).xvLeft 0 = false := by decide
/-- The head of core 0's matrix queue is this command. -/
def matrix0 (cmd : MxCmd) : State := withCore (fun k => { k with mq := [⟨0, 0, cmd⟩] }) (at0 mxCtx)
def wdesc0 (ty : Ty) : WDesc := ⟨opm 0 4 0, 16, ty, 1, 16, 0⟩
theorem witness_MatrixGrants_head (cmd : MxCmd) : ((matrix0 cmd).core 0).mxOf = [⟨0, 0, cmd⟩] ∧
    (∀ q < 8, q ≠ 0 → ((matrix0 cmd).core (baseCore 0 + q / 4 * 16 + q % 4)).mxOf = []) ∧ ((matrix0 cmd).cluster 0).mxGranted = [] ∧
    (matrix0 cmd).memOk = true := by
  refine ⟨rfl, ?_, rfl, by rfl⟩
  intro q hq h
  interval_cases q
  · exact absurd rfl h
  all_goals rfl
theorem witness_MatrixGrants_kinds : let s := matrix0 (.mma .bf16 0 (opm 0 4 0) 16 none 1 0 (wdesc0 .bf16))
    0 + 1 ≤ 128 ∧ 127 + 1 ≤ 128 ∧ (s.core 0).run.of 0 = true ∧ (wdesc0 .i8).n ≤ 128 ∧ (wdesc0 .i8).kr ≤ 128 ∧ mmaFmt (wdesc0 .bf16).ty .bf16 = true ∧
    (wdesc0 .i8).ty = .i8 ∧ mmaFmt (wdesc0 .nq4).ty .e4m3 = true ∧ (s.image 0 0).isSome = true ∧ ((s.cluster 0).channel (3 : Fin 8).val).queue.length < 16 ∧
    (transfer0 .queued).ch = (0 : Fin 8).val ∧ (s.cluster 0).tableLen.get 0 0 = 0 := by decide
theorem witness_MatrixGrants_array (cmd : MxCmd) (d : WDesc) : (matrix0 cmd).arrayFor 0 0 0 d = (matrix0 cmd).loaded 0 0 0 d := by rfl
/-- R242: MRQP reads 128 words of 8 bytes. -/
theorem test_mrqp : obs (.matrixGrant 0) (withCluster (fun x => { x with scratch := [(8, 7)] }) (matrix0 (.mrqp 0))) (fun t => t.ctx.mx.rq[1]) = some 7 := by decide
def drain0 : Transfer := { transfer0 .running with kind := .drain 0 true 0 5, shape := ⟨2, 2, false, [⟨4, 2, 0, 0⟩, ⟨8, 1, 0, 0⟩]⟩, rq := List.replicate 128 0 }
theorem witness_DrainsRun : let s := ringed (fun c => { c with queue := [drain0] }) ctx0
    ((s.cluster 0).channel (0 : Fin 8).val).queue = drain0 :: [] ∧ ((s.cluster 0).channel (0 : Fin 8).val).chain = none ∧
    drain0.kind = .drain 0 true 0 5 ∧ drain0.state = .running ∧ drain0.ssh = false ∧ drain0.dsh = false ∧ drain0.left.length = 2 ∧
    ∀ d ∈ drain0.localDies (drain0.left.map (·.1)), s.cutOff (0 / 32) d = false ∧ s.routeHeld (0 / 32) d = false ∧ (s.die d).resetEnd ≤ s.now := by
  decide
theorem witness_MatrixCompletes : let g : MxGranted := ⟨0, ⟨0, 0, .mzero 0⟩, [(16, 3), (20, 4)]⟩
    let s := withCluster (fun x => { x with mxGranted := [g] }) (at0 mxCtx)
    s.memOk = true ∧ (∃ h ∈ (s.cluster 0).mxGranted, h.entry.cmd.isDrain = false) ∧
    ∀ x ∈ g.sums, ∀ y ∈ g.sums, x = y ∨ x.1 + 4 ≤ y.1 ∨ y.1 + 4 ≤ x.1 := by
  refine ⟨by decide, ⟨_, List.mem_singleton.mpr rfl, rfl⟩, by decide⟩
theorem witness_RankIssue_waits : let s := { withCore (fun k => { k with vq := [xvEntry (.knot 1 2)] }) (at0 (Ctx.with ctx0 [(3, 0x200), (5, BitVec.ofNat 64 (4 + 2 * 65536))])) with seq := 1 }
    s.has [4, 3, 5] = true ∧ s.xvLeft s.seq = true ∧ (2 : VReg).toNat + (4 * tyWidth .f32 + 2047) / 2048 ≤ 16 ∧
    engineLoc s.focus s.ctx (s.reg 3) (2 * 2) ≠ none := by decide
def rkRun0 (cmd : RkCmd) : State := withCluster (fun x => { x with rkRunning := [⟨0, rkEntry cmd, [], [], none, []⟩] }) (at0 ctx0)
theorem witness_RankCommands_tabled : let s := withCore (fun k => { k with rq := [rkEntry (.rktab (.ulm 0) 4 0)] }) (rkRun0 (.rktab (.ulm 0) 4 0))
    let u := withCore (fun k => { k with rq := [rkEntry (.rktab (.ulm 0) 4 0)] }) (rkRun0 (.rkval .f32 (.ulm 0) (.ulm 0x100) 4 1 0 0))
    (∃ r ∈ (s.cluster 0).rkRunning, r.entry.cmd = .rktab (.ulm 0) 4 0) ∧ (∀ r ∈ (u.cluster 0).rkRunning, r.entry.cmd = .rkval .f32 (.ulm 0) (.ulm 0x100) 4 1 0 0) ∧
    (u.core (baseCore 0 + 0)).rq = rkEntry (.rktab (.ulm 0) 4 0) :: [] := by
  refine ⟨⟨_, List.mem_singleton.mpr rfl, rfl⟩, ?_, rfl⟩
  intro r h
  rw [List.mem_singleton.mp h]
  rfl
theorem witness_RankCommands_others : let s := rkRun0 (.rankc true .bf16 (.ulm 0x100) (.ulm 0x200) 4 2 3 8)
    (s.cluster s.clu).rkRunning = [⟨s.focus, rkEntry (.rankc true .bf16 (.ulm 0x100) (.ulm 0x200) 4 2 3 8), [], [], none, []⟩] ∧
    s.outRegion s.focus 0 = none ∧ s.ctx.of 0 = true ∧ s.th.live = true ∧ s.th.inc = 0 ∧ (4 : SReg) ≠ 0 ∧ s.memOk = true ∧ 2 ≤ 4 ∧ 4 ≤ 32768 ∧
    ((rkRun0 (.rktab (.ulm 0) 4 0)).cluster 0).rkRunning = [⟨0, rkEntry (.rktab (.ulm 0) 4 0), [], [], none, []⟩] ∧
    ((rkRun0 (.rkval .f32 (.ulm 0) (.ulm 0x100) 4 1 0 0)).cluster 0).rkRunning = [⟨0, rkEntry (.rkval .f32 (.ulm 0) (.ulm 0x100) 4 1 0 0), [], [], none, []⟩] := by
  decide

/-! ## The clauses on the assignment engine and on collectives (R269–R284, R318–R326) -/

theorem witness_AssignmentIssue_wait : let s := { withAe (fun a => { a with queue := [aeEntry (.run 1 0) true] }) (owned0 (Ctx.with ctx0 [(2, 1)])) with seq := 1 }
    let left (n : Nat) : Bool := (s.die 0).ae.queue.any fun x => x.cmd.slot == some 1 && decide (x.seq < n)
    s.has [4, 2] = true ∧ (s.reg 2).toNat ≤ 15 ∧ left s.seq = true ∧ left 0 = false ∧ s.th.stall = none ∧
    (at0 (Ctx.stalled ctx0 12 0 (.ae 1 0))).th.stall = some ⟨12, 0, .ae 1 0⟩ ∧ s.aePlace 0x100 ≠ none ∧ s.aePlace (opm 16 0 0) = none := by decide
/-- One command at the head of die 0's queue, slot 1 configured for one token and two experts with scores. -/
def aeRun0 (cmd : AeCmd) (st : Bool) : State :=
  withAe (fun a => { a with queue := [aeEntry cmd st], slots := [(1, { aeSlot0 0 with state := 0, hasScores := true, caps := [1, 1] })] }) (owned0 ctx0)
theorem witness_AssignmentCommands_starts :
    (aeRun0 (.run 1 0) false).aeStartFail 0 (aeEntry (.run 1 0) false) = 0 ∧ (aeRun0 (.rd 1 ⟨.ulm 0, 1⟩) false).aeStartFail 0 (aeEntry (.rd 1 ⟨.ulm 0, 1⟩) false) = 1 ∧
    (aeRun0 (.cfg 1 ⟨.ulm 0, 64⟩) false).aeStartFail 0 (aeEntry (.cfg 1 ⟨.ulm 0, 64⟩) false) = 0 ∧ (aeEntry (.cfg 1 ⟨.ulm 0, 64⟩) false).got = [] ∧
    (aeRun0 (.run 1 0) false).aeNext 0 (aeEntry (.run 1 0) false) = true ∧ (aeRun0 (.run 1 0) false).aeFree 0 (aeEntry (.run 1 0) false) = true := by decide
theorem witness_AssignmentCommands_ends : let l : AeLoc := ⟨.ulm 0x100, 4096⟩
    let p (cmd : AeCmd) : Bool := (aeRun0 cmd true).aeServed 0 (aeEntry cmd true) && (aeEntry cmd true).got == [] && (aeEntry cmd true).put == []
    (p (.cfg 1 l) && p (.cap 1 none) && p (.cap 1 (some l)) && p (.sc 1 l l) && p (.rd 1 l) && p (.pr 0 l) && p (.pw 0 l)) = true ∧
    (aeRun0 (.pr 0 l) true).outRegion 0 0 = none ∧ (aeRun0 (.pr 0 l) true).memOk = true := by decide
/-- R276: bytes of a run word and of a price. -/
theorem test_aerd : obs (.aeCommandComplete 0 0) (aeRun0 (.rd 1 ⟨.ulm 0x100, 4096⟩) true) (fun t => (t.cur.ulm, t.reg 4)) = some ([(0x100, 255), (0x101, 255)], 2) := by decide
theorem witness_AssignmentCommands_over : let x := aeSlot0 2
    x.state = 1 ∧ x.over 100 = true ∧ allAssigned x.record x.holders = false ∧ allAssigned x.record [(0, 0, 3)] = true ∧
    ({ x with rounds := 0, holders := [(0, 0, 3)] } : AeSlot).over 100 = true := by decide
set_option maxRecDepth 20000 in
/-- R279: the lone token goes to the expert with the higher score. -/
theorem test_filled : obs (.aeRunEnd 0 1) (withAe (fun a => { a with scores := [(2, 1)], slots := [(1, { aeSlot0 2 with caps := [1, 1] })] }) (owned0 ctx0))
    (fun t => (((t.die 0).ae.slot 1).state, ((t.die 0).ae.slot 1).results, ((t.die 0).ae.slot 1).filled)) = some (3, [1], 1) := by decide
/-- A descriptor of group `0x50`, the instance `n`, over shards of one element at 0x10000 and 0x10100. -/
def collDesc (n : Nat) : BitVec 512 := BitVec.ofNat 512 (0x50 * 2 ^ 16 + n * 2 ^ 32 + 2 ^ 288 + 2 ^ 296 + 2 ^ 304 + 2 ^ 312 + 2 ^ 320 + 2 ^ 336 + 2 ^ 352 + 2 ^ 368 +
  0x10000 * 2 ^ 384 + 0x10100 * 2 ^ 448)
/-- The device is the one member of the group; the descriptor lies at 0x100. -/
def grouped (n f : Nat) (l : List Instance) : State :=
  let s := withCore (fun k => { k with ulm := Mem.writeBytes [] 0x100 (leBytes (collDesc n) 64) }) (at0 (Ctx.with ctx0 [(2, 0x100)]))
  { s with groups := [(5, { Group.reset with count := 1, v := true, array := [0], f := BitVec.ofNat 16 f })], instances := l }
set_option maxRecDepth 20000 in
theorem witness_CollectiveIssue_good : let s := grouped 0 0xFFFF []
    let g := s.group 0x50
    let d := BitVec.ofNat 512 (leNat (s.engineBytes s.focus (.ulm 0x100) 64))
    d = collDesc 0 ∧ s.membersLine g = none ∧ s.isAdmitted s.ctx.launch = false ∧ g.v = true ∧ g.gen = BitVec.extractLsb' 0 4 (0x50 : BitVec 16) ∧ s.isMember g = true ∧
    (d.extractLsb' 32 16 : BitVec 16) = g.s + 1 ∧ ((d.extractLsb' 32 16 : BitVec 16) - g.f).toNat ≤ 2 ∧ layoutOk d g.count.toNat = true := by decide
set_option maxRecDepth 20000 in
theorem witness_CollectiveIssue_causes :
    (grouped 1 0xFFFF []).isMember ((grouped 1 0xFFFF []).group 0x50) = true ∧ (1 : BitVec 16) ≠ ((grouped 1 0xFFFF []).group 0x50).s + 1 ∧
    ([{ inst0 with inst := 1 }].any fun y => y.current && y.started && y.grp == 0x50 && y.inst == 1) = true ∧
    2 < ((0 : BitVec 16) - ((grouped 0 0xFFF0 []).group 0x50).f).toNat ∧ layoutOk (collDesc 0) 2 = false ∧
    (∃ y ∈ [{ inst0 with started := false, current := true }], BitVec.extractLsb' 4 12 y.grp = BitVec.extractLsb' 4 12 (0x50 : BitVec 16) ∧ y.started = false ∧ y.status = none) ∧
    ({ pair ctx0 ctx0 with launches := [(0, { launch0 with admitted := true })] } : State).isAdmitted 0 = true := by
  refine ⟨by decide, by decide, by decide, by decide, by decide, ⟨_, List.mem_singleton.mpr rfl, by decide, rfl, rfl⟩, by decide⟩
def handed0 : Instance := ⟨0x50, 0, 0, 0, 0, collDesc 0, 0, none, none, [], false, true, [], [], Group.reset⟩
def handedTo (s : State) : Pages := (({ s with instances := [handed0] } : State).pages 0 (({ s with instances := [handed0] } : State).collUser handed0) handed0.accesses).1
set_option maxRecDepth 20000 in
theorem witness_CollectiveIssue_pages : let s := grouped 0 0xFFFF []
    handedTo s = .denied ∧ handedTo (walkable s) = .waiting ∧
    handedTo (withCluster (fun x => { x with copyTlb := ⟨[(0, entryAt 1 0x39)], 0⟩ }) s) = .ok := by decide
set_option maxRecDepth 20000 in
/-- R323: no context record, so the pages are refused at hand-over: the code 6, and S is as it was. -/
theorem test_coll_refused : obs (.coll 4 2) (grouped 0 0xFFFF []) (fun t => (t.reg 4, t.instances.map (·.status), (t.group 0x50).s)) =
    some (0x00500000, [some 6], 0xFFFF) := by decide
theorem witness_CollectiveEvents_here : let s := { at0 ctx0 with instances := [{ inst0 with status := some 0 }], groups := [(5, { Group.reset with s := 1 })] }
    (s.group 0x50).gen = BitVec.extractLsb' 0 4 (0x50 : BitVec 16) ∧ s.overHere 0x50 1 = true ∧ (at0 ctx0).overHere 0x50 1 = false := by decide
/-- Processor 3 with every place of a chunk. -/
def chunks0 (l : List ChunkPlace) : List Chunk := l.map fun x => ⟨0x50, 1, 0, [], 3, x⟩
theorem witness_CollectiveEvents_places : let here (l : List Chunk) (x : ChunkPlace) : List Chunk := l.filter fun c => c.proc == 3 && c.place == x
    here (chunks0 [.slot]) .sender = [] ∧ (here (chunks0 [.slot]) .slot).length < 512 ∧ here (chunks0 [.slot]) .pool = [] ∧
    here (chunks0 [.pool]) .sender = [] ∧ here (chunks0 [.pool]) .pool ≠ [] ∧ here (chunks0 [.sender]) .sender ≠ [] ∧
    ((chunks0 [.pool]).filter fun c => c.place == .pool).length < ({ at0 ctx0 with poolChunks := 2 } : State).poolChunks ∧
    (at0 ctx0).poolChunks ≤ ((chunks0 [.pool]).filter fun c => c.place == .pool).length := by decide
theorem witness_CollectiveEvents_running : let x := { inst0 with pub := some 0, inst := 0 }
    let s := { grouped 1 0xFFFF [x] with pubs := [{ pub0 with applied := true }] }
    s.instances = [] ++ x :: [] ∧ x.started = true ∧ x.status = none ∧ x.current = true ∧ (∀ p ∈ s.pubs, p.id = 0 → p.applied = true) ∧
    (s.group x.grp).count = 1 ∧ (∀ y ∈ s.instances, BitVec.extractLsb' 4 12 y.grp = BitVec.extractLsb' 4 12 x.grp → y.started = true ∨ y.status ≠ none) := by
  refine ⟨rfl, rfl, rfl, rfl, by decide, by decide, ?_⟩
  intro y h _
  rw [List.mem_singleton.mp h]
  exact Or.inl rfl
theorem test_one_member : obs (.collInstanceComplete 0x50 0) { grouped 1 0xFFFF [{ inst0 with pub := some 0, inst := 0 }] with pubs := [{ pub0 with applied := true }] }
    (fun t => ((t.group 0x50).f, t.instances.map (·.status))) = some (0, [some 0]) := by decide
theorem witness_CollectiveEvents_lost : let s := withCluster (fun x => { x with copyTlb := ⟨[(0, entryAt 1 0x39)], 0⟩ }) { grouped 0 0xFFFF [] with groups := [(5, { Group.reset with count := 2, v := true, array := [0, 1] })], goneDevices := [1] }
    let x := { handed0 with started := true, group := { Group.reset with count := 2, v := true, array := [0, 1] } }
    s.membersLine x.group = none ∧ (({ s with instances := [x] } : State).pages 0 (({ s with instances := [x] } : State).collUser x) x.accesses).1 = .ok ∧
    s.memberLost x.group = true ∧ x.trans = [] ∧ x.got = [] ∧ s.ctxLine x.ctxid = none ∧
    ((at0 ctx0).cluster 0).copyTlb.entries = [] := by decide

/-! ## The clauses on queues, switches, clients outside, dies, errors, management and boot (R293–R348) -/

set_option maxRecDepth 20000 in
theorem witness_Queues_resetManagement : let s := { walkable (at0 ctx0) with mreqQueue := { QueueState.reset with err := 1 } }
    s.mreqQueue.err ≠ 0 ∧ (s.mgmtRecords (qCtxid s.mreq) (qQcb s.mreq) (List.replicate 24 0)).isSome = true := by decide
/-- A store waits for log space, with a cap of 5 cycles, on a core whose log holds `n` records and that is to be switched out. -/
def logWaiting (n : Nat) : State :=
  withCore (fun k => { k with switch := some ⟨90, none, none⟩, log := List.replicate n record0 })
    (pair (Ctx.stalled { ctx0 with logcap := 5, spillSize := 0 } 4 0 (.log 0 16 [(16, 0)])) ctx0)
theorem logWaiting_room (n : Nat) : ({ logWaiting n with focus := 0 } : State).logRoom = 2048 - n := by
  have h : ((List.replicate n record0).filter fun r => r.spilled.isNone).length = n := by
    rw [List.filter_replicate_of_pos rfl, List.length_replicate]
  have k : ({ logWaiting n with focus := 0 } : State).ctx.spillSize = 0 := rfl
  unfold State.logRoom
  rw [k, show ({ logWaiting n with focus := 0 } : State).cur.buffered = n from h]
  simp
theorem witness_Dispatching_trap : let s := logWaiting 2048
    let x := (s.core 0).run
    x.inh = false ∧ x.ended = false ∧ (x.thread 0).live = true ∧ (x.thread 0).logOver x ({ s with focus := 0 } : State).logRoom s.now = true ∧
    (x.thread 0).stall = some ⟨4, 0, .log 0 16 [(16, 0)]⟩ ∧ (∀ n, (ctx0.thread n).half = none ∧ (ctx0.thread n).logOver ctx0 0 100 = false) ∧
    (s.core 0).shadow.resident = false ∧ ¬ (∀ m, (s.launch? x.launch = some m → m.state ≠ .running)) := by
  refine ⟨rfl, rfl, rfl, ?_, rfl, by decide, rfl, fun h => h launch0 rfl rfl⟩
  rw [logWaiting_room]
  rfl
/-- R74, R142: with room again, the store has no trap at the switch tick though its cap is over. -/
theorem test_switch_room : obs (.switchTick 0) (logWaiting 1) (fun t => ((t.core 0).shadow.xcause, ((t.core 0).shadow.thread 0).pc, (t.core 0).run.resident)) =
    some (0, 0, false) := by decide
/-- Management has registered a page, or the queue whose ring lies there. -/
def opened (l : List HeldWrite) : State :=
  { walkable (at0 ctx0) with regions := [⟨0, 0x10000, 0x10000⟩], heldWrites := l, qdesc := [(0, BitVec.ofNat 512 (0x20000 * 2 ^ 384 + 0x10000 * 2 ^ 320))] }
theorem witness_Dispatching_outside : let s := opened []
    s.openTo false 0 0x10010 4 = true ∧ s.openTo true 0 0x20010 4 = true ∧ s.openTo true 0 0x30000 4 = false ∧ s.openTo false 0 0x1FFFE 8 = true ∧
    s.openTo false 0 0x3FFFE 8 = false ∧ s.mgmtAbsent 0 .copyWrite 0x10010 4 = false ∧ (s.mgmtRecords 0 0x10010 [1, 2, 3, 4]).isSome = true ∧
    (∃ w ∈ (opened [⟨2320 + portProcessor 0, false, 0, 0x10000, [1]⟩]).heldWrites, w.source = 2320 + portProcessor 0) := by decide
theorem witness_Boundaries_loads : let l := { load0 .sld with got := some (7, 90, 8) }
    let s := { at0 ctx0 with now := 64091, loads := [l] }
    (∀ p ∈ s.packets, p.boundFor = 0 → s.agedPacket p = false) ∧ dieOf l.core = 0 ∧ s.loads.head? = some l ∧ l.aged s.now = true := by
  refine ⟨by decide, by decide, rfl, ?_⟩
  simp [SharedLoad.aged]
theorem witness_Errors_due : let s := { at0 ctx0 with latent := [(0x40, 0)], tagged := [0x40], now := 24 * 3600 * 1600000000 }
    homeKey 0x40 / 64 * 64 = 0x40 ∧ (homeKey 0x40 / 64 * 64, 0) ∈ s.latent ∧ 0 + s.scrubEvery ≤ s.now ∧ homeKey 0x40 / 64 * 64 ∈ s.tagged := by
  refine ⟨by decide, by decide, ?_, by decide⟩
  exact Nat.le_refl _
/-- R299, R333: a map of 32 words of one cluster each does not cover the die's cores, and 32 words of 8 cores each do. -/
theorem witness_ManagementRequests_map : let s := walkable (at0 ctx0)
    let l : List W64 := (List.range 32).map fun k => BitVec.ofNat 64 (0x31000 + k / 4 * 2 * 16 + k % 4 * 4)
    s.mgmtAbsent 0 .copyRead 0x20000 256 = false ∧ (∀ c ∈ [0, 255], (l.filter fun w => (rectOf w).covers c).length = 1) ∧
    ((List.replicate 32 (0 : W64)).filter fun w => (rectOf w).covers 0).length ≠ 1 := by decide
theorem witness_ManagementRequests_resv : let w : BitVec 128 := BitVec.ofNat 128 (1600 * 2 ^ 96 + 1280 * 2 ^ 64)
    (w.extractLsb' 64 32).toNat * 5 ≤ (w.extractLsb' 96 32).toNat * 4 ∧ 1600 ≤ (w.extractLsb' 96 32).toNat ∧
    (let v : BitVec 128 := BitVec.ofNat 128 (1600 * 2 ^ 96 + 1281 * 2 ^ 64); (v.extractLsb' 96 32).toNat * 4 < (v.extractLsb' 64 32).toNat * 5) ∧
    (at0 ctx0).rsvBusy 0 = false := by decide
theorem witness_ManagementRequests_sends : let s := asked 8 0 0xFFFF
    s.mgmtAbsent 0 .copyWrite 0x10000 16 = false ∧ (s.mgmtRecords 0 0x10000 (List.replicate 16 1)).isSome = true := by decide
theorem witness_ManagementMap_offsets : 0x70002 % 8 ≠ 0 ∧ 0x20004 % 8 ≠ 0 ∧ (0x20004 : Nat) < 0x70000 ∧ 0x70003 % 2 ≠ 0 ∧ State.reset.rsvBusy 0 = false ∧
    (at0 ctx0).rsvBusy 15 = false := by decide
/-- R347: the rights mask of context 1 lies at offset 2. -/
theorem test_rights : obs (.registerWrite 0x70002 5) (at0 ctx0) (fun t => (t.rightsOf 0, t.rightsOf 1)) = some (0, 5) := by decide
/-- Three images, of which the last verifies: boot tries copy A, copy B and Ethernet, or Ethernet first. -/
theorem witness_Boot_order (b : BootImage) (f : b.source = 3) (s : State) (h : s.imageOk b = true)
    (g : ∀ n, s.imageOk ⟨n, [], [], [], []⟩ = false) : let imgs : List BootImage := [⟨1, [], [], [], []⟩, ⟨2, [], [], [], []⟩, b]
    (∀ n ∈ [1, 2], ∀ c ∈ imgs, c.source = n → s.imageOk c = false) ∧ imgs.find? (fun c => c.source == b.source && s.imageOk c) = some b ∧
    [1, 2, 3] = [1, 2] ++ b.source :: [] := by
  refine ⟨?_, by simp [f, h, g], by simp [f]⟩
  intro n hn c hc
  simp only [List.mem_cons, List.not_mem_nil, or_false] at hc
  rcases hc with rfl | rfl | rfl
  · intro; exact g 1
  · intro; exact g 2
  · intro e; rw [f] at e; subst e; simp at hn
theorem witness_Boot_pin : ({ State.reset with bootSel := true } : State).bootSel = true ∧ State.reset.bootSel = false ∧ State.reset.released = false ∧
    ({ State.reset with released := true } : State).released = true := by decide
/-- A follower whose forward buffer holds `addi s5, s0, 3` of its leader's PC 0x40. -/
def following (l : List Fwd) : State := pair { ctx0 with gang := some { gang0 false true with buffer := l } } ctx0
theorem witness_StepRunsDecoded_follows : let f : Fwd := ⟨[0x02 * 4 + 5 * 256 + 3 * 2 ^ 18], 0x40, 0x44, none, 90, 0⟩
    (following [f]).follows = true ∧ (following [f]).ctx.nextFwd (following [f]).thr = some f ∧ (following []).ctx.nextFwd (following []).thr = none ∧
    (following []).follows = true ∧ (following [f]).th.half = none ∧ decode f.words = .ok (.addi 5 0 3) 4 := by decide
theorem test_follower_pc : ((following [⟨[0x02 * 4 + 5 * 256 + 3 * 2 ^ 18], 0x40, 0x44, none, 90, 0⟩]).beforeIssue).th.pc = 0x40 := by decide

/-! ## The clauses on stops, gangs, answers, shared loads and stores, objects and publications (R96–R158) -/

/-- R116, R118: the FE instructions address window 0, 16 bytes at a time here, and the LOCK instructions window 4. -/
theorem witness_LocalChecks_kinds : let s := at0 ctx0
    localCheck (.feset 2) true false (opm 0 0 32) 16 s = none ∧ localCheck (.feset 2) true false (opm 0 4 32) 16 s = some (.trap 4 (opm 0 4 32)) ∧
    localCheck (.feset 2) true false (opm 0 0 40) 16 s = some (.trap 3 (opm 0 0 40)) ∧ localCheck (.ldl 4 2) false true (opm 0 4 64) 4 s = none ∧
    localCheck (.ldl 4 2) false true (opm 0 0 64) 4 s = some (.trap 4 (opm 0 0 64)) ∧
    localCheck (.ulk 2) false true (opm 0 4 66) 4 s = some (.trap 3 (opm 0 4 66)) ∧ s.th.stall = none := by decide
theorem witness_Stops_behind : let s := behind0 ctx0
    localCheck (.ldl 4 2) false true (opm 4 4 64) 4 s = none ∧ s.behind (opm 4 4 64) = true ∧ s.th.stall = none ∧
    localCheck (.stfe 4 2) true false (opm 1 0 32) 8 { pair ctx0 ctx0 with cores := [(0, coreOf ctx0)] } = some .remote := by decide
theorem witness_LocalStores_windows : let s := at0 (Ctx.sup ctx0)
    localCheck (.std 4 2 0) false false (opm 0 1 40) 8 s = none ∧ (s.atSource && s.behind (opm 0 1 40)) = false ∧ opmType (opm 0 1 40) = 1 ∧
    localCheck (.std 4 2 0) false false (opm 0 3 (8 * Csr.frm.toBits.toNat)) 8 s = none := by decide
theorem test_feset_window : obs (.feset 2) (at0 (Ctx.with ctx0 [(2, opm 0 4 32)])) (fun t => (t.csr .xcause, t.csr .xval)) = some (4, opm 0 4 32) := by decide
theorem test_ulk_misaligned : obs (.ulk 2) (at0 (Ctx.with ctx0 [(2, opm 0 4 66)])) (fun t => (t.csr .xcause, t.csr .xval)) = some (3, opm 0 4 66) := by decide
theorem witness_LockBits_order : let l : LocalLoad := ⟨5, 8, 0, 0, 0, 0, 4, 7, 90⟩
    let s := { at0 ctx0 with locals := [l], packets := [{ packet0 false .accepted with core := 0, target := 8, seq := 6 }] }
    s.answerAhead l.from_ l.core l.seq = false ∧ s.routeHeld (dieOf l.from_) (dieOf l.core) = false ∧
    (∀ m ∈ s.locals, m.core = l.core → m.from_ = l.from_ → l.seq ≤ m.seq) ∧ clusterOf l.from_ ≠ clusterOf l.core := by decide

def fwd0 (pc rejoins : Nat) : Fwd := ⟨[8], BitVec.ofNat 64 pc, BitVec.ofNat 64 (pc + 4), none, 100, rejoins⟩
theorem witness_Gangs_lag : let g : Gang := { gang0 false true with lane := [fwd0 0x80 0], buffer := List.replicate 16 (fwd0 0x40 0) }
    let s := at0 (Ctx.stalled { ctx0 with gang := some g } 4 0 .retry)
    (s.core 0).run.gang = some g ∧ g.lane = fwd0 0x80 0 :: [] ∧ (fwd0 0x80 0).due ≤ s.now ∧ g.attached = true ∧ g.leader = false ∧ g.buffer.length = 16 ∧
    ((s.core 0).run.thread 0).stall.isSome = true := by decide
/-- R96: the follower goes on at the oldest forwarded instruction that it has not issued, after the one that it stalls on if it does. -/
theorem test_lag : let g : Gang := { gang0 false true with lane := [fwd0 0x80 0], buffer := List.replicate 16 (fwd0 0x40 0) }
    obs (.forwardArrival 0) (at0 (Ctx.stalled { ctx0 with gang := some g } 4 0 .retry)) (fun t => (t.ctx.gang.map (·.attached), t.th.after, t.th.pc)) =
      some (some false, some 0x40, 0) ∧
    obs (.forwardArrival 0) (at0 { ctx0 with gang := some g }) (fun t => (t.th.after, t.th.pc)) = some (none, 0x40) := by decide
theorem witness_Gangs_joins : let g : Gang := { gang0 false false with lane := [fwd0 0x80 2] }
    let s := at0 (Ctx.stalled { ctx0 with gang := some g } 4 0 (.rejoin 2))
    (s.core 0).run.gang = some g ∧ g.lane = fwd0 0x80 2 :: [] ∧ (fwd0 0x80 2).due ≤ s.now ∧ g.attached = false ∧
    ((s.core 0).run.thread 0).stall = some ⟨4, 0, .rejoin 2⟩ ∧ (fwd0 0x80 2).rejoins = 2 ∧ (fwd0 0x80 2).rejoins ≠ 3 := by decide

theorem witness_RemoteWrites_comes : let s := { pair ctx0 ctx0 with packets := [packet0 false .flying] }
    let p := packet0 false .flying
    (p.core < 2048 ∧ (s.image p.core p.launch).isSome = true ∧ p.lost = false ∧ p.inc8 = (s.die (dieOf p.core)).inc) ∧ s.fenced 0 = false ∧
    (let l := { p with lost := true }
     let u := { pair ctx0 ctx0 with packets := [l] }
     u.arriving false 0 = some (0, l) ∧ l.core < 2048 ∧ l.lost = true) := by decide
/-- R334: a packet whose sender a reset has covered since is dropped, and counted as stale. -/
theorem test_lost_packet : obs (.remoteWriteArrival 0) { pair ctx0 ctx0 with packets := [{ packet0 false .flying with lost := true }] }
    (fun t => (t.packets, (t.die 0).stale)) = some ([], 1) := by decide
theorem witness_RemoteWrites_back : let p := { packet0 false .accepted with core := 0, target := 8, seq := 7 }
    let l : LocalLoad := ⟨5, 8, 0, 0, 0, 0, 4, 7, 90⟩
    let s := { pair (Ctx.stalled ctx0 4 0 .packet) ctx0 with packets := [p] }
    s.packetOf false 0 0 = some (0, p) ∧ s.answerHeld p = false ∧ s.cutOff (dieOf p.target) (dieOf 0) = false ∧
    ({ s with locals := [l] } : State).answerHeld p = true := by decide
theorem witness_RemoteWrites_errors (x : Ctx) : let p := { packet0 false .accepted with core := 0, target := 256 }
    (cutOff0 x).cutOff (dieOf p.target) (dieOf 0) = true ∧ p.state = .accepted ∧ ({ p with state := .error } : Packet).state = .error :=
  ⟨(witness_cut x).2.1, rfl, rfl⟩
theorem witness_Streams_fenced : let s := withCore (fun k => { k with port := { k.port with line := [(1, 0, 0)] } }) (pair ctx0 ctx0)
    let u := s.setDie 0 { s.die 0 with resetting := [((s.rectAt 0).1, 90)] }
    s.fenced 0 = false ∧ u.fenced 0 = true ∧ (u.core 0).port.owner = none ∧ (u.core 0).port.line = (1, (0 : Fin 11).val, 0) :: [] := by decide

/-- Its buffer holds `n` records, and its region has room for 2,048 more. -/
def spilling (n : Nat) : State := withCore (fun k => { k with log := List.replicate n record0 }) (at0 { ctx0 with spillSize := 1 })
theorem witness_SharedStores_spills (n : Nat) : 0 < (spilling n).logRoom ∧ (spilling n).cur.buffered = n := by
  have h : ((List.replicate n record0).filter fun r => r.spilled.isSome && r.launch == 0) = [] :=
    List.filter_replicate_of_neg (by decide)
  have m : ((List.replicate n record0).filter fun r => r.spilled.isNone).length = n := by
    rw [List.filter_replicate_of_pos rfl, List.length_replicate]
  have k : (spilling n).ctx.spillSize = 1 := rfl
  refine ⟨?_, m⟩
  rw [State.logRoom, k, show (spilling n).cur.spilledOf (spilling n).ctx.launch = 0 from congrArg List.length h]
  exact Nat.lt_of_lt_of_le (by decide : 0 < 1 * 2048 - 0) (Nat.le_add_left _ _)
/-- A store of 8 bytes over the first record's bytes that is still on its way. -/
def forwarding : State := { withCore (fun k => { k with log := [record0] }) (mapped ctx0) with loads := [{ load0 .sld with ea := 0x10000, fwd := [[(0, 5)]] }] }
theorem witness_SharedLoads_forwards : (load0 .sld).fwd[0]? = some [] ∧ forwarding.stillForward 0 .sld [[(0, 5)]] = [some 5] ∧
    forwarding.forwards 0 .sld record0 = true ∧ record0.pub = none ∧
    ({ forwarding with pubs := [{ pub0 with applied := true }] } : State).forwards 0 .sld { record0 with pub := some 0 } = false := by decide
theorem witness_SharedLoads_lost (x : Ctx) : (cutOff0 x).cutOff 8 (dieOf (load0 .sld).core) = true :=
  cutOff_of_all_dead _ 8 0 (by decide) (by decide) fun n hn => ⟨{ Boundary.reset n with dead := true, escape := true },
    List.mem_map.mpr ⟨n, List.mem_range.mpr hn, rfl⟩, rfl⟩
theorem witness_SharedLoads_ahead : let l := { load0 .sld with seq := 1, got := some (7, 90, 8) }
    let m := { load0 .sld with got := some (9, 80, 8) }
    8 ≤ 8 ∧ ∃ y ∈ ({ mapped ctx0 with loads := [m, l] } : State).loads, y.core = l.core ∧ ∃ v u, y.got = some (v, u, 8) ∧ u < 90 :=
  ⟨Nat.le_refl _, _, List.mem_cons_self, rfl, 9, 80, rfl, by decide⟩
/-- A page of device 1, which has left the domain. -/
def away0 : TlbEntry := ⟨BitVec.ofNat 128 (2 ^ 64 + 2 ^ 51 + 2 ^ 11 + 0x39), false⟩
def gone0 (x : Ctx) : State := { withCore (fun k => { k with tlb := ⟨[(0, away0)], 0⟩ }) (at0 x) with goneDevices := [1] }
theorem witness_SharedLoads_gone : let l := load0 .sld
    let s := { gone0 ctx0 with loads := [l] }
    (s.translate 0 (.core 0) l.seq l.ctxid l.launch .load l.ea).1 = .hit away0 ∧ s.linkDown 0 (away0.key l.ea.toNat) = true := by decide
theorem witness_SharedLoads_misses : let s := { mapped ctx0 with loads := [load0 .sld] }
    (s.stillForward 0 .sld (load0 .sld).fwd)[0]? = some none ∧ (s.cluster 0).viewByte (viewKey (s.asidOf 0) 0x10008) ((entryAt 1 0x39).key 0x10008) = none ∧
    s.homeHeld 0 ((entryAt 1 0x39).key 0x10008) = false := by
  refine ⟨by decide, by decide, ?_⟩
  simp [State.homeHeld, State.routeHeld, State.dieInReset, State.die, mapped, withCore, State.setCore, at0, State.reset, PMap.get, PMap.find?, Die.reset]

/-- A sync object on device 1's page. -/
def goneSync : TlbEntry := ⟨BitVec.ofNat 128 (2 * 2 ^ 64 + 2 ^ 51 + 2 * 2 ^ 11 + 0x59), false⟩
theorem witness_SyncOperations_fails : let x := Ctx.stalled (Ctx.with ctx0 [(2, 0x20038)]) 4 4 (.sync 0x20038 1 0)
    let s := { withCore (fun k => { k with tlb := ⟨[(0, goneSync)], 0⟩ }) (at0 x) with goneDevices := [1] }
    s.th.stall = some ⟨4, 4, .sync 0x20038 1 0⟩ ∧ s.ctx.phase = .exchange ∧
    (s.translate s.clu (.core s.focus) s.thr.val s.ctx.ctxid s.ctx.launch .sync 0x20038).1 = .hit goneSync ∧
    s.linkDown (dieOf s.focus) (goneSync.key 0x20038) = true ∧
    ((at0 x).translate 0 (.core 0) 0 0 0 .sync (BitVec.ofNat 64 (2 ^ 48))).1 = .denied ∧
    ((walkable (at0 x)).translate 0 (.core 0) 0 0 0 .sync 0x20038).1 = .waiting ∧
    (at0 { x with phase := .compute }).ctx.phase = .compute ∧ (at0 { ctx0 with phase := .compute }).th.stall = none := by decide
/-- R132: SYCAS compares with the value that its register held at issue. -/
theorem test_sycas_issue : obs (.sycas 4 2 3) (mapped (Ctx.stalled (Ctx.with ctx0 [(2, 0x20038), (4, 9)]) 4 4 (.sync 0x20038 7 0)))
    (fun t => (t.reg 4, t.home.readLE ((entryAt 2 0x59).key 0x20038) 8 64)) = some (0, 7) := by decide

/-- An ordinary page's publication under the object at 0x20040 that has been applied while its home lags. -/
theorem witness_Acquire_lags : let key := (entryAt 2 0x59).key 0x20040
    let q : Publication := { pub0 with obj := some key, applied := true, lagG := 1 }
    let s := { mapped (Ctx.stalled (Ctx.with ctx0 [(2, 0x20040)]) 4 0 .acq) with pubs := [q] }
    (∃ p ∈ s.pubs, p.obj = some key ∧ p.applied = true ∧ p.lagG ≠ 0 ∧ coversBoth p.scope .dev p.core s.focus = true) ∧
    ((s.cluster s.clu).acq.find? fun e => e.obj == key) = none := ⟨⟨_, List.mem_singleton.mpr rfl, rfl, rfl, by decide, by decide⟩, rfl⟩
/-- A REL's publication of one record is due: on an ordinary page, whose home lags if the mask says so. -/
def released0 (view : PMap ViewByte) : State :=
  let r := { record0 with homed := some ⟨0x10000, 0, false, false, 90⟩ }
  withCluster (fun k => { k with view := view }) { at0 ctx0 with pubs := [{ pub0 with obj := some 0x20040, records := [r] }], applied := 5 }
theorem witness_Publications_object : let r := { record0 with homed := some ⟨0x10000, 0, false, false, 90⟩ }
    let p : Publication := { pub0 with obj := some 0x20040, records := [r] }
    let s := released0 []
    s.pubs = [p] ∧ p.records = [r] ∧ r.homed = some ⟨0x10000, 0, false, false, 90⟩ ∧ r.kind = 0 ∧ p.engine = false ∧ Mem.wf s.home = true ∧
    p.applied = false ∧ p.app = some s.now ∧ p.core < 2048 ∧ p.drops = false ∧ p.obj = some 0x20040 ∧ r.mayLag = true ∧
    (1 : BitVec 4).getLsbD (gdie 0x10000) = true ∧ (0 : BitVec 4).getLsbD (gdie 0x10000) = false ∧ (s.cluster 0).copies 0x10000 = [] ∧
    PMap.find? ((released0 [(0x10000, ⟨1, 0, 0x10000, 0⟩)]).cluster 0).view 0x10000 = some ⟨1, 0, 0x10000, 0⟩ ∧
    (let q := { p with obj := none, drops := true }; q.obj = none ∧ q.drops = true ∧ q.core < 2048) := by decide
/-- R133, R134: the object's pseq and ptick, and the view's copy; the home lags, and the view takes the record's byte. -/
theorem test_rel_applied : obs (.publicationApply 15) (released0 [(0x10000, ⟨1, 0, 0x10000, 0⟩)])
    (fun t => (t.home.read 0x10000, t.home.readLE 0x20050 8 64, t.home.readLE 0x20058 8 64, (PMap.find? (t.cluster 0).view 0x10000).map fun b => (b.val, b.ord))) =
    some (0, 1, 100, some (5, 6)) := by decide
theorem test_rel_brought : obs (.publicationApply 15) (released0 []) (fun t => (t.cluster 0).view) = some [(0x10000, ⟨5, 6, 0x10000, 0⟩)] := by decide

/-! ## The clauses on translation, transfers, lanes and the matrix unit (R162–R244) -/

/-- The core's own TLB holds a sync page's entry for page 1, and the shared TLB one that allows loads. -/
theorem witness_TranslationHits_both : let e := entryAt 1 0x39
    let s := withCluster (fun x => { x with sharedTlb := [(sharedSet 0 0x10008 0, ⟨[(0, e)], 0⟩)] })
      (withCore (fun k => { k with tlb := ⟨[(0, entryAt 1 0x59)], 0⟩ }) (at0 ctx0))
    (0, e) ∈ (PMap.get (s.cluster 0).sharedTlb (sharedSet (s.asidOf 0) 0x10008 e.size) Tlb.reset).entries ∧ e.size ≠ 3 ∧ e.permits .load = true ∧
    (∀ y ∈ (s.userTlb 0 (.core 0)).entries, y.2.permits .load = false) ∧
    (∀ z < 3, ∀ y ∈ (PMap.get (s.cluster 0).sharedTlb (sharedSet (s.asidOf 0) 0x10008 z) Tlb.reset).entries, y.2 = e) := by decide
/-- Of two entries of the address space only one covers the address. -/
theorem witness_TranslationHits_one : ∀ y ∈ ((mapped ctx0).userTlb 0 (.core 0)).entries,
    (y.2.word.extractLsb' 64 32).toNat * 2 ^ 16 / 2 ^ 16 = (0x10008 : W64).toNat / 2 ^ 16 → y.2 = entryAt 1 0x39 := by decide
/-- A walk under way at the routine's first instruction, and the same walk not yet begun. -/
def walking0 : MissState := .walking ((walkable (at0 ctx0)).walkStart 0 .load 0x10000) walkFuel
theorem witness_WalksAndMisses_walking : let s := withCluster (fun x => { x with misses := [miss0 walking0] }) (walkable (at0 ctx0))
    (s.cluster 0).misses = [] ++ miss0 walking0 :: [] ∧ (miss0 walking0).walking = true ∧ ((walkable (at0 ctx0)).walkStart 0 .load 0x10000).reads ≤ 16 ∧
    s.walkEnd 0x10000 (rvRun s 17 walkFuel (s.walkStart 0 .load 0x10000)).1 = .fill (BitVec.ofNat 128 (2 ^ 64 + 2 ^ 11 + 0x19)) ∧
    s.walk 0 .load 0x10000 = .fill (BitVec.ofNat 128 (2 ^ 64 + 2 ^ 11 + 0x19)) ∧
    (∀ m ∈ ((missing .queued).cluster 0).misses, m.walking = false) ∧ (missing (.absent 9)).now = 100 := by decide

theorem witness_CopyCommands_outside : let s := at0 (Ctx.with { ctx0 with phase := .compute } [(2, 0x100), (3, 0x200), (4, opm 32 0 0x10)])
    s.ctx.phase = .compute ∧ s.th.stall = none ∧ (s.reg 4).extractLsb' 44 20 = 0 ∧ ownCluster s.focus (s.reg 4) = false ∧
    ownCluster s.focus (s.reg 2) = true := by decide
/-- R181, R67: the shape record of another cluster, in a compute phase. -/
theorem test_cpy_phase : obs (.cpy false false false false false 0 6 2 3 4 3 9) (at0 (Ctx.with { ctx0 with phase := .compute } [(2, 0x100), (3, 0x200), (4, opm 32 0 0x10)]))
    (fun t => t.csr .xcause) = some 6 := by decide
theorem witness_Transfers_shape : (transfer0 .queued).kind = .plain ∧ (indices (transfer0 .queued).shape.dims)[1]? = some [1] ∧
    (transfer0 .queued).dstr = false ∧ (transfer0 .queued).shape.clip = false ∧
    (let d : Dim := ⟨1, 2, 1, 2⟩
     let q := { transfer0 .queued with shape := ⟨1, 8, true, [d]⟩, dstr := true }
     (indices q.shape.dims)[0]? = some [0] ∧ ¬ (d.lo ≤ 0) ∧ (indices q.shape.dims)[1]? = some [1] ∧ d.lo ≤ 1 ∧ 1 < d.hi ∧ q.moves.length = 1) := by decide
/-- Two bytes from page 1 to ULM, and from ULM to page 1. -/
def shared0 (ssh : Bool) (st : TransferState) : Transfer :=
  if ssh then { transfer0 st with ssh := true, src := 0x10100 } else { transfer0 st with dsh := true, dst := 0x10100 }
def sharing (ssh : Bool) (st : TransferState) (tlb : PMap TlbEntry) : State :=
  withCluster (fun k => { k with copyTlb := ⟨tlb, 0⟩ }) (ringed (fun c => { c with queue := [shared0 ssh st] }) ctx0)
theorem witness_Transfers_pages : let q (b : Bool) := shared0 b .queued
    let end_ (s : State) (b : Bool) : Pages := (s.pages 0 (q b) ((q b).accesses (q b).moves)).1
    ((q true).shape.ok && (q true).shapeOk (q true).moves && (sharing true .queued []).boundsGood (q true) (q true).moves) = true ∧
    end_ (sharing true .queued [(0, entryAt 1 0x39)]) true = .ok ∧ end_ (sharing false .queued [(0, entryAt 1 0x39)]) false = .ok ∧
    end_ (sharing true .queued []) true = .denied ∧ end_ (walkable (sharing false .queued [])) false = .waiting ∧
    (q true).dsh = false ∧ (q false).dsh = true := by decide
theorem witness_Transfers_fits : let q := shared0 false .queued
    let y := (sharing false .queued [(0, entryAt 1 0x39)]).pages 0 q (q.accesses q.moves)
    let n (g : Nat) : Nat := granulesAt (y.2.2.shadowOf y.2.1 (q.moves.map fun m => (m.dst, [0]))) g
    (∀ g < 4, n g ≤ y.2.2.poolSize g) ∧ ¬ ∀ g < 4, n g ≤ ({ y.2.2 with shadowPool := [(0, 0), (1, 0), (2, 0), (3, 0)] } : State).poolSize g := by decide
theorem witness_Transfers_loads : let q := shared0 true .running
    let s := sharing true .running [(0, entryAt 1 0x39)]
    let ms := q.left.map (·.1)
    let y := s.pages 0 q (q.accesses ms)
    ((s.cluster 0).channel (0 : Fin 8).val).queue = q :: [] ∧ y.1 = .ok ∧ q.after ≤ s.now ∧ y.2.2.sideLost 0 y.2.1 (q.accesses ms) ms = false ∧
    y.2.2.sideHeld 0 y.2.1 (q.accesses ms) ms = false ∧ q.ssh = true ∧ q.dsh = false ∧ q.seen = [] ∧ q.shapeOk q.moves = true ∧ s.pubs = [] ∧
    s.poison = [] ∧ (y.2.1.entry s.now .copyRead 0x10100).isSome = true := by decide
theorem witness_Transfers_stores : let q := shared0 false .running
    let s := sharing false .running [(0, entryAt 1 0x39)]
    let ms := q.left.map (·.1)
    let y := s.pages 0 q (q.accesses ms)
    y.1 = .ok ∧ y.2.2.sideLost 0 y.2.1 (q.accesses ms) ms = false ∧ y.2.2.sideHeld 0 y.2.1 (q.accesses ms) ms = false ∧ q.ssh = false ∧ q.dsh = true ∧
    q.got = [] ∧ q.shadow = [] ∧ (∀ m ∈ ms, m.dst.toNat + 1 ≤ 2 ^ 48) ∧
    ∀ g < 4, y.2.2.poolUsed g + granulesAt (y.2.2.shadowOf y.2.1 (q.moves.map fun m => (m.dst, [0]))) g ≤ y.2.2.poolSize g := by decide
theorem witness_Transfers_local : let q := transfer0 .running
    let s := ringed (fun c => { c with queue := [q] }) ctx0
    (∀ c ∈ q.localCores (q.left.map (·.1)), clusterOf c = 0 ∨ s.fenced c = false) ∧ s.outRegion 0 q.launch = none := by decide
/-- R184: the granule written is full. -/
theorem test_copy_full : obs (.transferComplete 0 0) (ringed (fun c => { c with queue := [transfer0 .running] }) ctx0)
    (fun t => ((t.core 0).fe.getLsbD 32, (t.core 0).fe.getLsbD 33)) = some (true, false) := by decide
def mcast0 : Transfer := { transfer0 .running with kind := .multicast corner0 64, dst := 64 }
theorem witness_Multicast_runs : let s := ringed (fun c => { c with queue := [mcast0] }) ctx0
    ((s.cluster 0).channel (0 : Fin 8).val).queue = mcast0 :: [] ∧ mcast0.kind = .multicast corner0 64 ∧ mcast0.state = .running ∧ mcast0.ssh = false ∧
    mcast0.dsh = false ∧ (rectOf corner0).cores ≠ [] ∧
    (∀ d ∈ mcast0.localDies (mcast0.left.map (·.1)), s.cutOff (0 / 32) d = false ∧ s.routeHeld (0 / 32) d = false ∧ (s.die d).resetEnd ≤ s.now) ∧
    (∀ c ∈ mcast0.localCores (mcast0.left.map (·.1)), clusterOf c = 0 ∨ s.fenced c = false) := by decide

theorem witness_FloatLanes : let x : ℚ := 1 / 2
    ((2 : ℚ) ^ (-30 : Int) ≤ |x| ∧ |x| < 2 ^ 21 ∧ ∀ z : Int, x ≠ z) ∧ (2 : ℚ) ^ 21 ≤ |(2097152 : ℚ)| ∧ |(1 / 2 ^ 31 : ℚ)| < 2 ^ (-30 : Int) ∧
    (|(3 : Int)| < 2 ^ 20) ∧ (∀ z : Int, (3 : ℚ) ≠ 2 ^ z) := by
  refine ⟨⟨by norm_num [abs_of_pos], by norm_num [abs_of_pos], ?_⟩, by norm_num, by norm_num [abs_of_pos], by decide, ?_⟩
  · intro z h
    have k : (1 : ℚ) = ((2 * z : Int) : ℚ) := by push_cast; rw [← h]; norm_num
    have m : (1 : Int) = 2 * z := by exact_mod_cast k
    omega
  · intro z h
    rcases z with n | n
    · have k : (3 : ℚ) = ((2 ^ n : Nat) : ℚ) := by rw [h]; push_cast; exact zpow_natCast 2 n
      have m : (3 : Nat) = 2 ^ n := by exact_mod_cast k
      match n, m with
      | 0, m => exact absurd m (by decide)
      | n + 1, m => omega
    · have k : ((2 : ℚ) ^ (Int.negSucc n)) ≤ 1 := zpow_le_one_of_nonpos₀ (by norm_num) (Int.negSucc_lt_zero n).le
      rw [← h] at k
      norm_num at k
def storing (n : Nat) (x : Ctx) : State :=
  withCore (fun k => { k with log := List.replicate n record0 }) (at0 { x with masks := x.masks.set 0 1, logcap := 5, spillSize := 0 })
theorem storing_room (n : Nat) (x : Ctx) : (storing n x).logRoom = 2048 - n := by
  have h : ((List.replicate n record0).filter fun r => r.spilled.isNone).length = n := by
    rw [List.filter_replicate_of_pos rfl, List.length_replicate]
  have k : (storing n x).ctx.spillSize = 0 := rfl
  rw [State.logRoom, k, show (storing n x).cur.buffered = n from h]
  simp
/-- One lane of a shared store, with room for it and without. -/
theorem witness_VectorMemory_shared : let s := storing 0 (Ctx.with ctx0 [(2, 0x10000)])
    let lanes (s : State) := (List.range 64).filter fun j => (s.ctx.mask 1).getLsbD j
    s.has [2] = true ∧ s.ctx.phase = .exchange ∧ s.th.stall = none ∧ s.cur.vecOf.length < 8 ∧ s.xvLeft s.seq = false ∧
    (lanes (at0 { ctx0 with masks := ctx0.masks.set 1 1 })).length = 1 ∧ s.ctx.logcap ≠ 0 := by decide
theorem witness_VectorMemory_room : 1 ≤ (storing 2047 ctx0).logRoom ∧ (storing 2048 ctx0).logRoom < 1 := by
  rw [storing_room, storing_room]; decide
theorem witness_VectorMemory_stalled : let s := storing 0 (Ctx.stalled ctx0 12 0 (.log 50 0x10000 [(0x10000, 7)]))
    s.th.stall = some ⟨12, 0, .log 50 0x10000 [(0x10000, 7)]⟩ ∧ s.cur.vecOf.length < 8 := by decide
/-- R221, R209: a store that has waited for log space appends what its lanes held at issue. -/
theorem test_vst_retry : obs (.vst true 3 2 0 1) (storing 0 (Ctx.stalled (Ctx.with ctx0 [(2, 0x10000)]) 12 0 (.log 50 0x10000 [(0x10004, 7)])))
    (fun t => (t.cur.log.map fun r => (r.gran, r.mask, r.byte 4), t.cur.vq.length)) = some ([((0x1000 : BitVec 44), (0xF0 : BitVec 16), (7 : Byte))], 1) := by decide
theorem witness_VectorMemory_accepted : let e := { xvEntry (.store true .unit 3 1) with a := 0, b := 1 }
    let s := withCore (fun k => { k with vq := [e], log := [record0] }) (at0 ctx0)
    s.cur.vq = [e] ∧ e.launch = s.ctx.launch ∧ e.left = 0 ∧ s.ctx.resident = true ∧ e.op = .store true .unit 3 1 ∧
    (∃ r ∈ s.cur.log, r.launch = e.launch ∧ e.a.toNat ≤ r.seq ∧ r.seq < e.b.toNat ∧ r.homed = none) :=
  ⟨rfl, rfl, rfl, rfl, rfl, record0, List.mem_singleton.mpr rfl, rfl, by decide, by decide, rfl⟩
/-- The last lane, lane 0, of a shared load at page 1. -/
def laneLoad : XvEntry := { xvEntry (.load true .unit 3 1) with a := 0x10008 }
def loading (x : Ctx) : State := withCore (fun k => { k with vq := [laneLoad] }) (mapped { x with masks := x.masks.set 1 1 })
theorem witness_VectorMemory_lane : let s := loading ctx0
    s.cur.vq = [laneLoad] ∧ laneLoad.launch = s.ctx.launch ∧ laneLoad.left = 0 ∧ s.ctx.resident = true ∧ laneLoad.op = .load true .unit 3 1 ∧
    ((List.range 64).filter fun j => ((laneLoad.view s.ctx).mask 1).getLsbD j).drop laneLoad.next = [0] ∧
    s.loadsBefore s.focus laneLoad.launch laneLoad.thr laneLoad.inc laneLoad.after = false ∧
    ¬ (2 ^ 48 ≤ laneLoad.a.toNat ∨ laneLoad.a.toNat % 4 ≠ 0) ∧ 2 ^ 48 ≤ (BitVec.ofNat 64 (2 ^ 48) : W64).toNat ∧
    (s.translate s.clu (.core s.focus) laneLoad.seq laneLoad.ctxid laneLoad.launch .load laneLoad.a).1 = .hit (entryAt 1 0x39) ∧
    s.linkDown (dieOf s.focus) ((entryAt 1 0x39).key laneLoad.a.toNat) = false ∧ s.poison.contains ((entryAt 1 0x39).key (laneLoad.a.toNat / 64 * 64)) = false ∧
    (s.cluster s.clu).viewLines.length ≤ 32768 ∧ (s.cluster s.clu).viewByte (viewKey (s.asidOf 0) 0x10008) ((entryAt 1 0x39).key 0x10008) = none := by decide
theorem witness_VectorMemory_others : let a := laneLoad.a
    ((at0 ctx0).translate 0 (.core 0) 0 0 0 .load a).1 = .denied ∧ ((walkable (at0 ctx0)).translate 0 (.core 0) 0 0 0 .load a).1 = .waiting ∧
    (gone0 ctx0).linkDown 0 (away0.key a.toNat) = true ∧
    ({ loading ctx0 with loads := [load0 .sld] } : State).loadsBefore 0 0 0 0 1 = true := by decide
theorem witness_MatrixCommands_counts : ((matrix0 (.mzero 0)).image 0 0).isSome = true ∧ ((at0 mxCtx).image 0 0).map (·.accsat) = some false := by decide
theorem witness_DrainsRun_cores : let s := ringed (fun c => { c with queue := [drain0] }) ctx0
    (∀ c ∈ drain0.localCores (drain0.left.map (·.1)), clusterOf c = 0 ∨ s.fenced c = false) ∧ (s.image drain0.core drain0.launch).isSome = true := by decide

/-! ## The clauses on the assignment engine, collectives, the scheduler, the fabric, management and the step (R46, R274–R348) -/

/-- The same with a bid increment of 1: a valid record. -/
def aeValid (cmd : AeCmd) : State := withAe (fun a => { a with slots := a.slots.mapVal fun _ x => { x with record := x.record ||| BitVec.twoPow 512 50 } }) (aeRun0 cmd false)
theorem witness_AssignmentCommands_rebase : let x := (aeValid (.run 1 0)).die 0
    recOk (x.ae.slot 1).record = true ∧ recGroups (x.ae.slot 1).record = [(0, 2)] ∧ (aeValid (.run 1 0)).aeStartFail 0 (aeEntry (.run 1 0) false) = 0 ∧
    (let q := aeEntry (.cfg 1 ⟨.ulm 0, 64⟩) false
     let s := aeRun0 q.cmd false
     q.got = [] ∧ s.outRegion s.focus q.launch = none ∧ ∀ y ∈ (s.die 0).ae.queue, y.seq = q.seq → y = q) := by decide
/-- R277: the run's prices are those of the bank less the group's least. -/
theorem test_rebase : obs (.aeCommandStart 0 0) (withAe (fun a => { a with prices := [(0, 9), (1, 4)] }) (aeRun0 (.run 1 0) false))
    (fun t => ((((t.die 0).ae.slot 1).prices).take 2, ((t.die 0).ae.slot 1).state)) = some ([5, 0], 1) := by decide
/-- R278: the lone token bids for the expert with the higher score; the bid is by how much it beats the other, and ε. -/
theorem test_round : obs (.aeRound 0 1) (withAe (fun a => { a with scores := [(2, 7)], slots := [(1, { aeSlot0 0 with caps := [1, 1], prices := [0, 0] })] }) (owned0 ctx0))
    (fun t => (((t.die 0).ae.slot 1).holders, ((t.die 0).ae.slot 1).prices)) = some ([(1, 0, 7 + recEps (aeSlot0 0).record)], [0, 7 + recEps (aeSlot0 0).record]) := by decide
/-- R274, R280: a stalled AEWAIT is not checked again. -/
theorem test_aewait_stalled : obs (.aewait 4 2) (withAe (fun a => { a with slotOwner := [] }) (owned0 (Ctx.stalled (Ctx.with { ctx0 with ctxid := 3 } [(2, 1)]) 12 0 (.ae 1 0))))
    (fun t => (t.reg 4, t.ctx.accerr)) = some (0, false) := by decide

/-- The lone member's instance is running; its pages are mapped and its input of one word is read. -/
def running0 : Instance := { handed0 with started := true, group := { Group.reset with count := 1, v := true, array := [0] } }
def runningState : State := withCluster (fun x => { x with copyTlb := ⟨[(0, entryAt 1 0x39)], 0⟩ }) (grouped 0 0 [running0])
set_option maxRecDepth 20000 in
theorem witness_CollectiveEvents_output : let x := running0
    let s := runningState
    let y := s.pages 0 (s.collUser x) x.accesses
    s.instances = [] ++ x :: [] ∧ x.pub = none ∧ s.membersLine x.group = none ∧ y.1 = .ok ∧ y.2.2.sideLost 0 y.2.1 x.accesses [] = false ∧
    y.2.2.sideHeld 0 y.2.1 x.accesses [] = false ∧ s.memberLost x.group = false ∧ x.after ≤ s.now ∧ s.poison = [] ∧ s.pubs = [] ∧
    ({ x with taken := (takeChunks x.grp x.inst s.chunks [] x.taken).1 } : Instance).allChunks x.group = true := by decide
set_option maxRecDepth 20000 in
/-- R321: the copy of the lone member is the output; the records of its publication hold it. -/
theorem test_coll_output : obs (.collInstanceComplete 0x50 0) { runningState with home := [(0x10000, 7)] }
    (fun t => (t.instances.map (·.pub), t.pubs.map fun p => p.records.map fun r => (r.gran, r.mask, r.byte 0))) =
    some ([some 0], [[((0x1010 : BitVec 44), (0xF : BitVec 16), (7 : Byte))]]) := by decide
theorem witness_CollValue : layoutOk (collDesc 0) 1 = true ∧ 0 < 1 ∧ (collOutput (collDesc 0) 1 0 fun _ => [7]) = [7] := by decide
theorem witness_CollectiveEvents_consumed : let s := { at0 ctx0 with instances := [running0, { running0 with core := 256 }, { running0 with status := some 0 }] }
    s.instances[0]? = some running0 ∧ ((s.die (dieOf 0)).resetting.any fun m => m.1 == (s.rectAt 0).1) = false ∧
    (dieOf running0.core = dieOf 0 ∧ (s.rectAt 0).2.covers running0.core = true) ∧ running0.status = none ∧ running0.pub = none ∧
    dieOf ({ running0 with core := 256 } : Instance).core ≠ dieOf 0 := by decide
/-- R334: the instance of a core that a containment reset takes is lost. -/
theorem test_coll_lost : (({ at0 ctx0 with instances := [running0, { running0 with core := 256 }] } : State).consume 0).instances.map (·.status) =
    [some 8, none] := by decide
/-- R318: a chunk of an old generation that its sender holds is dropped and counted as it comes in. -/
theorem test_stale_held : let s := ({ at0 ctx0 with chunks := [⟨0x51, 1, 0, [], 3, .sender⟩] } : State).admitChunks
    (s.chunks, s.staleChunks) = ([], 1) := by decide
theorem witness_CollectiveEvents_refused : (({ at0 ctx0 with instances := [inst0] } : State).pages 0 (({ at0 ctx0 with instances := [inst0] } : State).collUser inst1) inst1.accesses).1 = .denied ∧
    inst0.pub = none := by decide

/-- A waiting best-effort launch of queue 1 beside that of queue 0, which has the higher priority. -/
theorem witness_Queues_order : let l := { waiting0 with prio := 3 }
    let m := { waiting0 with id := 1, queue := 1 }
    let s := { queued0 { QueueState.reset with slot := some 0 } [(0, l), (1, m)] 0 with
      queues := [(0, { QueueState.reset with slot := some 0 }), (1, { QueueState.reset with slot := some 1 })] }
    l ∈ s.queues.filterMap (fun (k, z) => if z.slot.isSome && z.err == 0 then s.headLaunch k else none) ∧
    m ∈ s.queues.filterMap (fun (k, z) => if z.slot.isSome && z.err == 0 then s.headLaunch k else none) ∧ m ≠ l ∧
    min 7 (m.prio + (s.now - max m.arrival (s.queue m.queue).since) / (1600 * (((s.descOf m).extractLsb' 288 16).toNat + 1))) <
      min 7 (l.prio + (s.now - max l.arrival (s.queue l.queue).since) / (1600 * (((s.descOf l).extractLsb' 288 16).toNat + 1))) ∧
    s.launch? l.id = some l ∧ l.state = .queued := by decide
theorem find?_mem {α : Type} {m : PMap α} {a : Nat} {x : α} (h : PMap.find? m a = some x) : (a, x) ∈ m := by
  induction m with
  | nil => simp [PMap.find?] at h
  | cons y l ih =>
    by_cases e : y.1 = a
    · simp only [PMap.find?, e, if_true, Option.some.injEq] at h
      rw [← e, ← h]
      exact List.mem_cons_self
    · simp only [PMap.find?, e, if_false] at h
      exact List.mem_cons_of_mem _ (ih h)
set_option maxRecDepth 20000 in
theorem rotating_slots : (rotating 255).queues.all (fun x => x.2.slot == none || (x.2.slot == some x.1 && (rotating 255).queueWaits x.1)) = true := by decide
set_option maxRecDepth 20000 in
theorem rotating_keys : (rotating 255).queues.map (·.1) = List.range 257 := by decide
theorem rotating_slot {q n : Nat} (h : ((rotating 255).queue q).slot = some n) : n = q := by
  unfold State.queue PMap.get at h
  cases e : PMap.find? (rotating 255).queues q with
  | none => simp [e, QueueState.reset] at h
  | some z =>
    have k := List.all_eq_true.mp rotating_slots _ (find?_mem e)
    simp only [e, Option.getD_some] at h
    simp [h] at k
    exact k.1
/-- Every slot is held by a queue for which something waits. -/
theorem witness_Queues_rotates : (∀ m < 256, (rotating 255).slotFree m = false) ∧ ((rotating 255).queues.map (·.1)).Pairwise (· < ·) ∧
    (∀ p q n, ((rotating 255).queue p).slot = some n → ((rotating 255).queue q).slot = some n → p = q) := by
  refine ⟨?_, ?_, fun p q n h k => (rotating_slot h).symm.trans (rotating_slot k)⟩
  · intro m hm
    have held : ∃ x ∈ (rotating 255).queues, x.2.slot = some m := by
      rcases m with - | m
      · exact ⟨_, List.mem_append_left _ List.mem_cons_self, rfl⟩
      · exact ⟨_, List.mem_append_left _ (List.mem_cons_of_mem _ (List.mem_map.mpr ⟨m, List.mem_range.mpr (by omega), rfl⟩)), rfl⟩
    have found : ∃ q, (rotating 255).slotHolder m = some q ∧ (rotating 255).queueWaits q = true := by
      unfold State.slotHolder
      cases e : List.find? (fun (x : Nat × QueueState) => x.2.slot == some m) (rotating 255).queues with
      | none =>
        obtain ⟨x, hx, k⟩ := held
        simpa [k] using List.find?_eq_none.mp e x hx
      | some x =>
        have k := List.all_eq_true.mp rotating_slots x (List.mem_of_find?_eq_some e)
        have y := List.find?_some e
        simp only [beq_iff_eq] at y
        simp [y] at k
        exact ⟨x.1, rfl, k.2⟩
    obtain ⟨q, a, b⟩ := found
    simp [State.slotFree, a, State.unbindable, b]
  · rw [rotating_keys]
    exact List.pairwise_lt_range
theorem witness_Admission_holds : let l := { deadline0 1000000000 with cr := 0, cc := 0, dies := [0] }
    let s := admitting 1000000000
    let r := s.rsv (qRsv (s.descOf l))
    s.now + (4100 + 2400 * ((1000000000 - 100 + 160000 - 1) / 160000)) < l.deadline ∧ r.p = r.q ∧ r.p ≠ 0 ∧ (s.admits l).isSome = true ∧
    (∀ k ∈ l.cores, r.dmask.getLsbD (dieOf k) = true ∧ (rectOf (r.rect.setWidth 64)).covers k = true) ∧ l.bRounds = 0 := by decide

/-- The answer to a packet of core 1, whose context runs, and that packet on a context that does not. -/
theorem witness_Boundaries_answers : let p := packet0 false .accepted
    let s := { pair ctx0 ctx0 with now := 64091, packets := [p] }
    s.packets = p :: [] ∧ p.nacked = none ∧ p.sent + 64000 < s.now ∧ p.state ≠ .flying ∧ dieOf p.core = 0 ∧ (s.core p.core).run.of p.launch = true :=
  ⟨rfl, rfl, Nat.lt_of_lt_of_eq (by simp : 90 + 64000 < 64091) rfl, by decide, rfl, rfl⟩
theorem witness_Boundaries_ids : let s := pair ctx0 ctx0
    ∀ n l, s.launch? n = some l → l.id = n := by
  intro s n l h
  have k : (PMap.find? [(0, launch0)] n : Option Launch) = some l := h
  have m := find?_mem k
  simp only [List.mem_singleton, Prod.mk.injEq] at m
  rw [m.1, m.2]
  rfl
/-- R314, R316: the loading launch is hit by a dead Zhevlink port or not, as it may be; one that is not admitted is not. -/
theorem test_zhev_best_effort : (after ((pair ctx0 ctx0).act (.zhevDead 3))).map (fun t => (t.zhevDead, (t.launch? 0).map (·.hit))) = some (8, some false) := by decide
theorem witness_Errors_lost : let p := packet0 false .accepted
    let s := { pair ctx0 ctx0 with packets := [p] }
    p.state ≠ .flying ∧ dieOf p.core = dieOf 0 ∧ (s.rectAt 0).2.covers p.core = true ∧ (s.die (dieOf 0)).resetting.any (fun (m, _) => m == (s.rectAt 0).1) = false := by decide

/-- A walk routine that says ABSENT. -/
def absentPages (s : State) : State :=
  { walkable s with walkStore := Mem.writeBytes [] 0 ([0x00200513, 0x00000073].flatMap fun (w : Nat) => leBytes (BitVec.ofNat 32 w) 4) }
theorem witness_ManagementRequests_absent : (absentPages (at0 ctx0)).mgmtAbsent 0 .copyRead 0x20000 256 = true ∧
    (walkable (at0 ctx0)).mgmtAbsent 0 .copyRead 0x20000 256 = false := by decide
/-- A request of core 0 whose record lies on a poisoned line. -/
def lostRequest (host : Bool) : Request := { request0 2 0 with host := host, va := 0x10000, record := none }
def losing (host : Bool) : State :=
  { walkable (at0 ctx0) with requests := [lostRequest host], poison := [(⟨BitVec.ofNat 128 (2 ^ 64 + 2 ^ 11 + 0x19), false⟩ : TlbEntry).key 0x10000] }
theorem witness_ManagementRequests_lost : (losing false).fetchRecord (lostRequest false) = .lost ∧ (losing false).mgmtLine 0 0x10000 64 = some 0x10000 ∧
    (losing false).requests = lostRequest false :: [] ∧ (losing true).fetchRecord (lostRequest true) = .lost := by decide
/-- R329, R333: the core that sent the request has its rectangle reset. -/
theorem test_lost_request : obs .resv (losing false) (fun t => (t.requests, (t.core 0).run.resident)) = some ([], false) := by decide
theorem witness_ManagementRequests_held : let p := packet0 true (.held 0)
    ({ at0 ctx0 with packets := [p] } : State).packets[0]? = some p ∧ p.state = .held 0 ∧ (∃ q ∈ [pub0], q.id = 0 ∧ q.applied = false) ∧
    (∀ q ∈ [{ pub0 with applied := true }], q.id = 0 → q.applied = true) := by
  refine ⟨rfl, rfl, ⟨pub0, List.mem_singleton.mpr rfl, rfl, rfl⟩, ?_⟩
  decide
theorem witness_ManagementRequests_chunks : let s := { asked 5 0x50 0xFFFF with groups := [(5, { Group.reset with v := true })] }
    (s.groupAt 5).v = true ∧ (s.groupAt 5).gen = BitVec.extractLsb' 0 4 (0x50 : BitVec 16) ∧ (s.groupAt 4).v = false := by decide

/-- The transfer has written the first byte of the word at 0x204 and not those after it. -/
def tearing : State :=
  let q := { transfer0 .running with dst := 0x200, shape := ⟨4, 32, false, [⟨4, 2, 0, 0⟩]⟩, next := 1 }
  ringed (fun c => { c with queue := [q] }) ctx0
theorem witness_StepRunsDecoded_waits : let t : Thread := { th0 with pc := 0x200 }
    let s := withCore (fun k => { k with run := k.run.setThread 0 t, ulm := [(0x200, 1)] }) tearing
    s.off = false ∧ s.fetchWaits 0 s.ctx t = true ∧ (at0 ctx0).torn 0 0 0 20 = false ∧
    (at0 ctx0).fetchWaits 0 ctx0 th0 = false := by decide
theorem witness_StepRunsDecoded_whole : ∀ m : Fin 11, ((at0 ctx0).ctx.thread m).half = none := by decide

end Sys2Proof.Tests
end

/-!
The management map (R347): what a write of each listed word does to the state, and obligation O52.
-/

namespace Sys2Proof.Laws

open Sys2Proof Sys2Proof.Machine

/-! ## Words within wider values -/

/-- A bit of a value with one word replaced comes from that word inside it, and from the old value outside. -/
theorem getLsbD_setWordAt {w : Nat} (v : BitVec w) (o : Nat) (x : W64) (i : Nat) :
    (setWordAt v o x).getLsbD i = if 8 * o ≤ i ∧ i < 8 * o + 64 then decide (i < w) && x.getLsbD (i - 8 * o) else v.getLsbD i := by
  simp only [setWordAt, BitVec.getLsbD_or, BitVec.getLsbD_and, BitVec.getLsbD_not, BitVec.getLsbD_shiftLeft, BitVec.getLsbD_setWidth,
    BitVec.getLsbD_allOnes]
  by_cases hw : i < w
  · by_cases below : i < 8 * o
    · simp [below, hw, show ¬ 8 * o ≤ i by omega]
    · by_cases above : i < 8 * o + 64
      · simp [hw, below, above, show 8 * o ≤ i by omega, show i - 8 * o < 64 by omega, show i - 8 * o < w by omega]
      · simp [hw, below, above, show ¬ i - 8 * o < 64 by omega, BitVec.getLsbD_of_ge x (i - 8 * o) (by omega)]
  · simp [hw, BitVec.getLsbD_of_ge v i (by omega)]

/-- The word replaced is read back. -/
theorem wordAt_setWordAt_same {w : Nat} (v : BitVec w) {o : Nat} (h : 8 * o + 64 ≤ w) (x : W64) : wordAt (setWordAt v o x) o = x := by
  refine BitVec.eq_of_getLsbD_eq fun i hi => ?_
  have inside : 8 * o ≤ 8 * o + i ∧ 8 * o + i < 8 * o + 64 := by omega
  have bound : 8 * o + i < w := by omega
  simp only [wordAt, BitVec.getLsbD_extractLsb', getLsbD_setWordAt, if_pos inside, hi, bound, Nat.add_sub_cancel_left, decide_true, Bool.true_and]

/-- The words beside it read as before. -/
theorem wordAt_setWordAt_other {w : Nat} (v : BitVec w) {o p : Nat} (h : p + 8 ≤ o ∨ o + 8 ≤ p) (x : W64) :
    wordAt (setWordAt v o x) p = wordAt v p := by
  refine BitVec.eq_of_getLsbD_eq fun i hi => ?_
  have outside : ¬ (8 * o ≤ 8 * p + i ∧ 8 * p + i < 8 * o + 64) := by omega
  simp only [wordAt, BitVec.getLsbD_extractLsb', getLsbD_setWordAt, if_neg outside]

theorem setWordAt_low (d : BitVec 128) (x : W64) : setWordAt d 0 x = d.extractLsb' 64 64 ++ x := by
  refine BitVec.eq_of_getLsbD_eq fun i hi => ?_
  rw [getLsbD_setWordAt, BitVec.getLsbD_append]
  by_cases low : i < 64
  · rw [if_pos ⟨Nat.zero_le i, low⟩, if_pos low, decide_eq_true hi, Bool.true_and]
    rfl
  · rw [if_neg (by omega), if_neg low, BitVec.getLsbD_extractLsb', decide_eq_true (show i - 64 < 64 by omega), Bool.true_and,
      show 64 + (i - 64) = i by omega]

theorem setWordAt_high (d : BitVec 128) (x : W64) : setWordAt d 8 x = x ++ d.setWidth 64 := by
  refine BitVec.eq_of_getLsbD_eq fun i hi => ?_
  rw [getLsbD_setWordAt, BitVec.getLsbD_append]
  by_cases low : i < 64
  · rw [if_neg (by omega), if_pos low, BitVec.getLsbD_setWidth, decide_eq_true low, Bool.true_and]
  · rw [if_pos (by omega), if_neg low, decide_eq_true hi, Bool.true_and]

/-- Masking a descriptor masks each of its words by the same word of the mask (R295). -/
theorem wordAt_descMask (d : BitVec 512) (o : Nat) : wordAt (descMask d) o = wordAt d o &&& wordAt (descMask (BitVec.allOnes 512)) o := by
  simp only [descMask, wordAt, BitVec.allOnes_and, BitVec.extractLsb'_and]

/-- A map word keeps the 20 bits of its rectangle (R333). -/
theorem low20_eq_and (v : W64) : (v.extractLsb' 0 20).setWidth 64 = v &&& 0xFFFFF := by
  refine BitVec.eq_of_getLsbD_eq fun i hi => ?_
  have mask : (0xFFFFF : W64).getLsbD i = decide (i < 20) := by
    rw [show (0xFFFFF : W64) = (BitVec.allOnes 20).setWidth 64 from rfl, BitVec.getLsbD_setWidth, BitVec.getLsbD_allOnes]
    simp [hi]
  rw [BitVec.getLsbD_and, mask, BitVec.getLsbD_setWidth, BitVec.getLsbD_extractLsb']
  simp [hi, Bool.and_comm]

/-- A reservation's word passes its two checks (R299). -/
theorem rsvOk_of_le {w : BitVec 128} (share : (w.extractLsb' 64 32).toNat * 5 ≤ (w.extractLsb' 96 32).toNat * 4)
    (period : 1600 ≤ (w.extractLsb' 96 32).toNat) : rsvOk w = true := by
  rw [rsvOk, Nat.mul_comm 5, Nat.mul_comm 4, decide_eq_true share, decide_eq_true period]
  rfl

/-! ## A write reaches the map's word -/

section
variable (s : State) (v : W64)

theorem exec_registerWrite_aligned {o : Nat} (h : o % 8 = 0) : exec (.registerWrite o v) s = .next (s.mapPut o v) :=
  if_pos (.inl h)

theorem exec_registerWrite_rightsRange {o : Nat} (even : o % 2 = 0) (low : 0x70000 ≤ o) (high : o < 0x90000) :
    exec (.registerWrite o v) s = .next (s.mapPut o v) :=
  if_pos (.inr ⟨even, low, high⟩)

theorem exec_registerWrite_misaligned {o : Nat} (h : o % 8 ≠ 0) (out : o % 2 ≠ 0 ∨ o < 0x70000 ∨ 0x90000 ≤ o) :
    exec (.registerWrite o v) s = .next s :=
  if_neg (by omega)

/-- Where the map ignores a write, an unaligned one is ignored too. -/
theorem exec_registerWrite_ignored {o : Nat} (h : s.mapPut o v = s) : exec (.registerWrite o v) s = .next s := by
  show execRegisterWrite o v s = _
  rw [execRegisterWrite, h, ite_self]

/-! ## What each word's write does -/

/-- INVADDR keeps the page number and the scope (R172). -/
theorem mapPut_invAddr : s.mapPut 0 v =
    { s with invAddr := ((v.extractLsb' 16 32 ++ (0 : BitVec 14) ++ v.extractLsb' 0 2 : BitVec 48)).setWidth 64 } := rfl

/-- A 1 clears a bit of COLLSTAT (R326). -/
theorem mapPut_collStat : s.mapPut 0x30000 v =
    { s with spillCount := s.spillCount &&& ~~~(v.extractLsb' 32 32), staleChunks := s.staleChunks &&& ~~~(v.extractLsb' 0 16) } := rfl

/-- An invalidation starts when none runs and the scope is a listed one (R172). -/
theorem invGo_starts (done : s.invDone = true) (scope : s.invAddr.extractLsb' 0 2 ≠ 3) :
    s.invGo = { s with invDone := false, invAcks := List.range 256, invReq := (s.invAddr, s.invAsid) } :=
  if_neg (by simpa only [done, Bool.not_true, Bool.false_or, beq_iff_eq] using scope)

/-- INVCTL stores the asid, and its bit 0 asks for an invalidation of it (R172). -/
theorem mapPut_invCtl : s.mapPut 8 v =
    if v.getLsbD 0 then ({ s with invAsid := v.extractLsb' 16 12 } : State).invGo else { s with invAsid := v.extractLsb' 16 12 } := rfl

theorem mapPut_boundary {b : Nat} (h : b < 18) : s.mapPut (0x10000 + 8 * b) v = s.setBoundary b ((s.boundary b).put v) := by
  simp (disch := omega) only [State.mapPut, if_neg, if_pos, show (0x10000 + 8 * b - 0x10000) / 8 = b by omega]

theorem mapPut_die {d : Nat} (h : d < 12) : s.mapPut (0x20000 + 8 * d) v = s.setDie d { s.die d with
    aged := (s.die d).aged &&& ~~~(v.extractLsb' 32 24), stale := (s.die d).stale &&& ~~~(v.extractLsb' 8 24) } := by
  simp (disch := omega) only [State.mapPut, if_neg, if_pos, show (0x20000 + 8 * d - 0x20000) / 8 = d by omega]

/-- SNAPSTAT with bit 0 releases the snapshot (R338). -/
theorem mapPut_snapStat_release (h : v.getLsbD 0 = true) : s.mapPut 0x30008 v =
    { s with snapMissed := s.snapMissed &&& ~~~(v.extractLsb' 48 16), snapHeld := false, snapSrc := 0, snapImage := none } :=
  if_pos h

/-- Either word of a reservation: `e` is its place among the reservation's 16 bytes. -/
theorem mapPut_reservation {n e : Nat} (hn : n < 16) (he : e < 16) (free : s.rsvBusy n = false)
    (ok : rsvOk (setWordAt (s.rsv n).word e v) = true) :
    s.mapPut (0x40000 + 16 * n + e) v = s.putRsv n (setWordAt (s.rsv n).word e v) := by
  simp (disch := omega) only [State.mapPut, if_neg, if_pos, show (0x40000 + 16 * n + e - 0x40000) / 16 = n by omega,
    show (0x40000 + 16 * n + e) % 16 = e by omega]
  simp [free, ok]

theorem mapPut_stage {d j : Nat} (hd : d < 8) (hj : j < 32) : s.mapPut (0x50000 + 256 * d + 8 * j) v = s.stageMap d j v := by
  simp (disch := omega) only [State.mapPut, if_neg, if_pos, show (0x50000 + 256 * d + 8 * j - 0x50000) / 256 = d by omega,
    show (0x50000 + 256 * d + 8 * j) % 256 / 8 = j by omega]

theorem mapPut_replica {d : Nat} (h : d < 8) :
    s.mapPut (0x60000 + 8 * d) v = { s with repOff := s.repOff.setIfInBounds d (v.extractLsb' 30 11) } := by
  simp (disch := omega) only [State.mapPut, if_neg, if_pos, show (0x60000 + 8 * d - 0x60000) / 8 = d by omega]

theorem mapPut_rights {q : Nat} (h : q < 65536) :
    s.mapPut (0x70000 + 2 * q) v = { s with rights := PMap.put s.rights q (v.setWidth 16) } := by
  simp (disch := omega) only [State.mapPut, if_neg, if_pos, show (0x70000 + 2 * q - 0x70000) / 2 = q by omega]

theorem mapPut_group {id : Nat} (h : id < 4096) : s.mapPut (0x200000 + 64 * id) v =
    { s with groups := s.groups.put id { s.groupAt id with count := v.extractLsb' 32 32, v := v.getLsbD 4 } } := by
  simp (disch := omega) only [State.mapPut, if_neg, if_pos, show (0x200000 + 64 * id - 0x200000) / 64 = id by omega,
    show (0x200000 + 64 * id) % 64 = 0 by omega, reduceIte]

theorem mapPut_queue {q j : Nat} (hq : q < 65536) (hj : j < 8) : s.mapPut (0x1000000 + 64 * q + 8 * j) v =
    { s with qdesc := s.qdesc.put q (descMask (setWordAt (s.writtenDesc q) (8 * j) v)) } := by
  simp (disch := omega) only [State.mapPut, if_neg, if_pos, show (0x1000000 + 64 * q + 8 * j - 0x1000000) / 64 = q by omega,
    show (0x1000000 + 64 * q + 8 * j) % 64 = 8 * j by omega]

/-- BOOTSTAT, the RAS log and the snapshot registers are read only (R330, R339, R344). -/
theorem mapPut_readOnly {o : Nat} (h : o = 0x61000 ∨ (0x100000 ≤ o ∧ o < 0x110000) ∨ 0x10000000 ≤ o) : s.mapPut o v = s := by
  simp (disch := omega) only [State.mapPut, if_neg]

end

/-! ## What the tables read after a write -/

/-- The descriptor as written reads back by words: the one written without its reserved bits, the others as they were (R295). -/
theorem wordAt_descMask_setWordAt (d : BitVec 512) {j m : Nat} (hj : j < 8) (v : W64) :
    wordAt (descMask (setWordAt d (8 * j) v)) (8 * m) =
      if m = j then v &&& wordAt (descMask (BitVec.allOnes 512)) (8 * j) else wordAt (descMask d) (8 * m) := by
  rw [wordAt_descMask]
  split
  case isTrue h => rw [h, wordAt_setWordAt_same d (by omega)]
  case isFalse h => rw [wordAt_setWordAt_other d (by omega), ← wordAt_descMask]

section
variable (s : State) (v : W64)

/-- R295: one word of a queue's descriptor is written, and no other descriptor. -/
theorem exec_registerWrite_queue {q j : Nat} (hq : q < 65536) (hj : j < 8) :
    ∃ t, exec (.registerWrite (0x1000000 + 64 * q + 8 * j) v) s = .next t ∧ { t with qdesc := s.qdesc } = s ∧
      (∀ k, k ≠ q → t.writtenDesc k = s.writtenDesc k) ∧
      wordAt (t.writtenDesc q) (8 * j) = v &&& wordAt (descMask (BitVec.allOnes 512)) (8 * j) ∧
      ∀ m < 8, m ≠ j → wordAt (t.writtenDesc q) (8 * m) = wordAt (descMask (s.writtenDesc q)) (8 * m) := by
  refine ⟨_, exec_registerWrite_aligned s v (by omega), ?_⟩
  rw [mapPut_queue s v hq hj]
  refine ⟨rfl, fun k hk => PMap.get_put_other _ hk _ _, ?same, fun m _ hm => ?other⟩
  case same => rw [State.writtenDesc, PMap.get_put_same, wordAt_descMask_setWordAt _ hj, if_pos rfl]
  case other => rw [State.writtenDesc, PMap.get_put_same, wordAt_descMask_setWordAt _ hj, if_neg hm]

/-- R136: one die's replica offset is written. -/
theorem exec_registerWrite_replica {d : Nat} (h : d < 8) : ∃ t, exec (.registerWrite (0x60000 + 8 * d) v) s = .next t ∧
    { t with repOff := s.repOff } = s ∧ t.repOff[d]? = some (v.extractLsb' 30 11) ∧ ∀ e, e ≠ d → t.repOff[e]? = s.repOff[e]? := by
  refine ⟨_, exec_registerWrite_aligned s v (by omega), ?_⟩
  rw [mapPut_replica s v h]
  exact ⟨rfl, Vector.getElem?_setIfInBounds_self_of_lt h, fun e he => Vector.getElem?_setIfInBounds_ne he.symm⟩

/-- R348: one ctxid's rights mask is written. -/
theorem exec_registerWrite_rights {q : Nat} (h : q < 65536) : ∃ t, exec (.registerWrite (0x70000 + 2 * q) v) s = .next t ∧
    { t with rights := s.rights } = s ∧ t.rightsOf q = v.setWidth 16 ∧ ∀ k, k ≠ q → t.rightsOf k = s.rightsOf k := by
  refine ⟨_, exec_registerWrite_rightsRange s v (by omega) (by omega) (by omega), ?_⟩
  rw [mapPut_rights s v h]
  exact ⟨rfl, PMap.get_put_same _ _ _ _, fun k hk => PMap.get_put_other _ hk _ _⟩

/-- R333: a word of a die's map is kept until the map is committed. -/
theorem exec_registerWrite_stage {d j : Nat} (hd : d < 8) (hj : j < 32) :
    ∃ t, exec (.registerWrite (0x50000 + 256 * d + 8 * j) v) s = .next t ∧ { t with cmapStage := s.cmapStage } = s ∧
      t.cmapStage.find? d = some ((s.cmapStage.get d (s.die d).mapWords).set j (v &&& 0xFFFFF)) := by
  refine ⟨_, exec_registerWrite_aligned s v (by omega), ?_⟩
  rw [mapPut_stage s v hd hj, ← low20_eq_and]
  exact ⟨rfl, PMap.find?_put_same _ _ _⟩

/-- R319: the first word of a group-table entry gives its count and valid bit; its generation stays. -/
theorem exec_registerWrite_group {id : Nat} (h : id < 4096) : ∃ t, exec (.registerWrite (0x200000 + 64 * id) v) s = .next t ∧
    { t with groups := s.groups } = s ∧ (t.groupAt id).count = v.extractLsb' 32 32 ∧ (t.groupAt id).v = v.getLsbD 4 ∧
      (t.groupAt id).gen = (s.groupAt id).gen ∧ ∀ k, k ≠ id → t.groupAt k = s.groupAt k := by
  refine ⟨_, exec_registerWrite_aligned s v (by omega), ?_⟩
  rw [mapPut_group s v h]
  simp only [State.groupAt, PMap.get_put_same, true_and]
  exact fun k hk => PMap.get_put_other _ hk _ _

/-- R299: a word of a reservation without outstanding launches is written when the whole, `w`, is one that a write takes. -/
theorem exec_registerWrite_reservation {n e : Nat} (hn : n < 16) (he : e = 0 ∨ e = 8) (free : s.rsvBusy n = false) {w : BitVec 128}
    (word : setWordAt (s.rsv n).word e v = w) (share : (w.extractLsb' 64 32).toNat * 5 ≤ (w.extractLsb' 96 32).toNat * 4)
    (period : 1600 ≤ (w.extractLsb' 96 32).toNat) : exec (.registerWrite (0x40000 + 16 * n + e) v) s = .next (s.putRsv n w) := by
  subst word
  rw [exec_registerWrite_aligned s v (by omega), mapPut_reservation s v hn (by omega) free (rsvOk_of_le share period)]

end

/-! ## The obligation -/

/-- Settles O52: each word by the lemma of its row above. -/
theorem managementMap : Obligations.ManagementMap := by
  unfold Obligations.ManagementMap
  intro s v puts
  have aligned {o : Nat} {t : State} (h : o % 8 = 0) (e : s.mapPut o v = t) : puts o t := e ▸ exec_registerWrite_aligned s v h
  refine ⟨aligned rfl (mapPut_invAddr s v),
    fun idle => aligned rfl ((mapPut_invCtl s v).trans (if_neg (ne_true_of_eq_false idle))),
    fun go done scope => aligned rfl ((mapPut_invCtl s v).trans ((if_pos go).trans (invGo_starts _ done scope))),
    fun b hb => aligned (by omega) (mapPut_boundary s v hb),
    fun d hd => aligned (by omega) (mapPut_die s v hd),
    aligned rfl (mapPut_collStat s v),
    fun release => aligned rfl (mapPut_snapStat_release s v release),
    fun q hq => exec_registerWrite_rights s v hq,
    fun n hn free h share period => ?reservation,
    fun q hq j hj => exec_registerWrite_queue s v hq hj,
    fun d hd => exec_registerWrite_replica s v hd,
    fun d hd j hj => exec_registerWrite_stage s v hd hj,
    fun o => exec_registerWrite_misaligned s v,
    fun id hid => exec_registerWrite_group s v hid,
    fun o ro => exec_registerWrite_ignored s v (mapPut_readOnly s v ro)⟩
  cases h with
  | false => exact exec_registerWrite_reservation s v (e := 0) hn (.inl rfl) free (setWordAt_low _ v) share period
  | true => exact exec_registerWrite_reservation s v (e := 8) hn (.inr rfl) free (setWordAt_high _ v) share period

end Sys2Proof.Laws

/-!
The decoder on whole word lists (R44–R57): it reads an instruction from that instruction's own words alone, and obligations O54 and O55.
-/

namespace Sys2Proof.Laws.RoundTrip

open Sys2Proof

/-- Every instruction decodes from its own words: one law for each constructor, in their order. -/
theorem statement : ∀ i : Instr, Statement i :=
  Instr.rec
    add addLit sub subLit and andLit or orLit xor xorLit andn andnLit shl shlLit shr shrLit sra sraLit slt sltLit sltu sltuLit min
    minLit max maxLit minu minuLit maxu maxuLit addw addwLit subw subwLit addx1 addx1Lit addx2 addx2Lit addx3 addx3Lit addi addiLit andi
    andiLit ori oriLit xori xoriLit slti sltiLit sltiu sltiuLit shli shri srai mul mulLit mulh mulhLit mulhu mulhuLit mulw mulwLit div
    divLit divu divuLit rem remLit remu remuLit clz ctz popc bext bextLit bins binsLit brev bswap beq bne blt bge bltu bgeu j jal jalr
    jalrLit ldb ldbLit ldbu ldbuLit ldh ldhLit ldhu ldhuLit ldw ldwLit ldwu ldwuLit ldd lddLit stb stbLit sth sthLit stw stwLit std
    stdLit ldfe ldfeLit ldfec ldfecLit stfe stfeLit stfew stfewLit feset fesetLit feclr feclrLit fetst fetstLit ldl ldlLit stu ulk
    ulkLit sld sldLit sldw sldwLit sldh sldhLit sst sstLit sstw sstwLit sstb sstbLit sstp acq rel fence fencel sobind sounb syadd
    syaddLit sycas sycasLit syswp syswpLit syld logadd logaddLit logfadd logfaddLit hstart hstartLit hjoin hexit hstat yield gang detach
    rejoin bar signal phasec phasex waitc waitcLit bany ball rset rsetLit pclr pset ptst sopen sput sputLit sget sclose msg msgLit msgrd
    csrr csrw csrs csrc trap rte wfi ifence tlbi snap halt vadd vsub vmul vfma vfms vmin vmax vabs vneg vrcp vrsq vsqrt vexp2 vlog2
    vcmpeq vcmplt vcmple vsel vand vor vxor vshl vshr vsra vcvt vmov vbcst vbcstLit vext vins viota vperm vredadd vredmax vredmin vscan
    vld vldLit vst vstLit vlds vldsLit vsts vstsLit vgth vgthLit vsct vsctLit vdq vqnt vhist vscale kand kor knot kpop mwld mma mmai
    mzero mldacc mdrain mrqp mrank mwait mstat rank rankc rktab rkval aecfg aesc aecap aerun aewait aerd aepr aepw aestat cpy cpym cpych
    cring cawait crel cseq bfree publish coll collw signatureMismatch logFull budgetOverrun switchTick contextStream dispatch
    imageLoadComplete contextEnd completionRecord remoteWriteArrival rsetAcceptance rsetRetry remoteAccessRetry localLoadReturn
    messageArrival streamPortGrant streamEntryArrival lockGrant lockTimeout feWaitComplete gangFormed forwardArrival barrierRelease
    waitcExpiry yieldExpiry recordDrift callWindow publicationApply replicaApply sharedLoadReturn relComplete acqComplete syncOpComplete
    fenceComplete segmentReclaim tscWalk tlbFill absentRewalk denyRewalk tlbSweep invalVa invalAsid invalAll tscAcknowledge invalDone
    transferStart transferComplete chainRecordFetch multicastGrant xvComplete matrixGrant matrixComplete rankGrant rankComplete
    aeCommandStart aeCommandComplete aeRound aeRunEnd schedulerConsume queueBind queueRotate arbiterGrant sliceEnd admissionDecision
    reservationQuotaEnd reservationPeriod stepTick retrainEnd portDead escapeRouteInstall nackResend packetAgeDrop dieReset
    domainTimeLoss chunkArrival spillRefetch collInstanceComplete correctedError latentError consumedError containmentLaunchFault
    containmentEnd scrubLine snapinEdge snapshotLatch snapshotRelease mapCommit registerWrite thermalWarning thermalPoweroff boot inval
    resv cmap grpalloc grpfree spill bnd snapRequest attest status ras requestBadarg illegalInstruction fetchBound queueReset rdmaWrite
    cxlWrite msgRetry

end Sys2Proof.Laws.RoundTrip

namespace Sys2Proof.Laws

open Sys2Proof

/-! ## Words after an instruction -/

/-- R57 as one condition: a word list decodes to an instruction when its first word passes the checks on the word alone, the words that its
length asks for are there, and its row of the tables takes it. -/
theorem decode_cons_eq_ok_iff (w0 : W32) (rest : List W32) (i : Instr) (n : Nat) : decode (w0 :: rest) = .ok i n ↔
    (w0 ≠ 0 ∧ (2 ≤ (W0.unpack w0).len.toNat ↔ 0x3E ≤ (W0.unpack w0).maj.toNat) ∧ reservedMajor (W0.unpack w0).maj = false) ∧
      decodeWith (W0.unpack w0) rest = some (.ok i) ∧ wordsOf (W0.unpack w0).len ≤ rest.length + 1 ∧
      n = 4 * wordsOf (W0.unpack w0).len := by
  simp only [decode, List.length_cons]
  constructor
  case mp =>
    intro h
    split_ifs at h with zero form reserved short <;> rcases entry : decodeWith (W0.unpack w0) rest with _ | k | j <;>
      simp only [entry, reduceCtorEq, Decoded.ok.injEq] at h
    case neg.some.ok =>
      obtain ⟨rfl, rfl⟩ := h
      exact ⟨⟨by simpa using zero, by simpa using form, by simpa using reserved⟩, rfl, by omega, rfl⟩
  case mpr =>
    rintro ⟨⟨zero, form, reserved⟩, entry, whole, rfl⟩
    simp [show ¬ w0 = 0#32 from zero, form, reserved, entry, whole.not_gt]

theorem three_le_wordsOf {len : BitVec 2} (h : 2 ≤ len.toNat) : 3 ≤ wordsOf len := by
  revert len; decide

/-- R44, R45: once the words that its length asks for are there, an instruction is decoded from them alone. -/
theorem decodeWith_append {f : W0} {rest : List W32} (more : List W32) (form : (2 ≤ f.len.toNat) ↔ (0x3E ≤ f.maj.toNat))
    (whole : wordsOf f.len ≤ rest.length + 1) : decodeWith f (rest ++ more) = decodeWith f rest := by
  have word {n : Nat} (h : n + 2 ≤ wordsOf f.len) : (rest ++ more).getD n 0 = rest.getD n 0 :=
    List.getD_append _ _ _ _ (by omega)
  have literal {k : BitVec 2} {a b : Nat} (ha : a + 2 ≤ wordsOf k) (hb : b + 2 ≤ wordsOf k) :
      (if f.len == k then some (litOf ((rest ++ more).getD a 0) ((rest ++ more).getD b 0)) else none) =
        if f.len == k then some (litOf (rest.getD a 0) (rest.getD b 0)) else none := by
    by_cases h : f.len = k
    · rw [word (h ▸ ha), word (h ▸ hb)]
    · simp [h]
  have formX (h : 0x3E ≤ f.maj.toNat) : X.unpack f ((rest ++ more).getD 0 0) ((rest ++ more).getD 1 0) =
      X.unpack f (rest.getD 0 0) (rest.getD 1 0) := by
    have := three_le_wordsOf (form.mpr h)
    rw [word (by omega), word (by omega)]
  simp only [decodeWith]
  split
  case h_1 xv => rw [formX (by omega), literal (by decide) (by decide)]
  case h_2 xe => rw [formX (by omega), literal (by decide) (by decide)]
  case h_3 => rw [literal (by decide) (by decide)]

/-- Words after an instruction do not change how it is decoded. -/
theorem decode_append {ws : List W32} {i : Instr} {n : Nat} (more : List W32) (h : decode ws = .ok i n) : decode (ws ++ more) = .ok i n := by
  cases ws with
  | nil => cases h
  | cons w0 rest =>
    obtain ⟨checks, row, whole, len⟩ := (decode_cons_eq_ok_iff ..).mp h
    refine (decode_cons_eq_ok_iff ..).mpr ⟨checks, (decodeWith_append more checks.2.1 whole).trans row, whole.trans ?_, len⟩
    simp

/-- Settles O54: an instruction decodes from its own words, and words after them change nothing. -/
theorem decodeEncode : Obligations.DecodeEncode := fun i rest wf encoded =>
  decode_append rest (RoundTrip.statement i wf encoded)

/-! ## The words of the manual -/

/-- The words that the encoder gives for an instruction decode to it. -/
theorem decode_of_encode (i : Instr) {w : W32} {ws : List W32} (words : encode i = w :: ws) (wf : i.wf = true) :
    decode (w :: ws) = .ok i (4 * (ws.length + 1)) := by
  have decoded := RoundTrip.statement i wf (words ▸ List.cons_ne_nil w ws)
  rwa [words] at decoded

/-- Settles O55: the words of the manual's instructions are those that the encoder gives, and the illegal ones fail a check each. -/
theorem decodeWords : Obligations.DecodeWords :=
  ⟨decode_of_encode (.addi 0 0 0) rfl rfl,
    decode_of_encode (.addiLit 5 0 0x100000000) rfl rfl,
    decode_of_encode (.div 7 8 9) rfl rfl,
    decode_of_encode (.beq 4 5 3) rfl rfl,
    decode_of_encode (.ldw 5 3 8) rfl rfl,
    decode_of_encode (.stw 5 3 8) rfl rfl,
    decode_of_encode (.pclr 7) rfl rfl,
    decode_of_encode (.sld 6 3 8) rfl rfl,
    decode_of_encode (.fence .dev 5) rfl rfl,
    decode_of_encode .snap rfl rfl,
    decode_of_encode (.cpy true false false false false 2 5 6 7 8 3 0x41) rfl rfl,
    decode_of_encode (.coll 5 6) rfl rfl,
    by decide⟩

end Sys2Proof.Laws

/-!
What stops a thread before it issues: entries of the RAS log, the trap entry outside a handler, and obligation O20.
-/

namespace Sys2Proof.Laws

open Sys2Proof Sys2Proof.Machine

/-! ## Entries of the RAS log (R330) -/

section
variable (s : State) (kind : BitVec 8) (unit : BitVec 12) (loc : BitVec 44)

@[simp] theorem rasAdd_ctx : (s.rasAdd kind unit loc).ctx = s.ctx := by
  unfold State.rasAdd
  split <;> rfl

theorem rasAdd_ras_of_room (room : s.ras.length < 4096) :
    (s.rasAdd kind unit loc).ras = s.ras ++ [BitVec.ofNat 64 s.now ++ kind ++ unit ++ loc] := by
  rw [State.rasAdd, if_pos room]

theorem rasEntry_kind (now : W64) : (now ++ kind ++ unit ++ loc).extractLsb' 56 8 = kind := by
  refine BitVec.eq_of_getLsbD_eq fun i hi => ?_
  simp only [BitVec.getLsbD_extractLsb', BitVec.getLsbD_append]
  rw [if_neg (by omega), if_neg (by omega), if_pos (by omega), decide_eq_true hi, Bool.true_and,
    show 56 + i - 44 - 12 = i by omega]

theorem rasEntry_now (now : W64) : (now ++ kind ++ unit ++ loc).extractLsb' 64 64 = now := by
  refine BitVec.eq_of_getLsbD_eq fun i hi => ?_
  simp only [BitVec.getLsbD_extractLsb', BitVec.getLsbD_append]
  rw [if_neg (by omega), if_neg (by omega), if_neg (by omega), decide_eq_true hi, Bool.true_and,
    show 64 + i - 44 - 12 - 8 = i by omega]

end

/-! ## The trap entry outside a handler (R69, R70) -/

section
variable (s : State) (armed : Bool)

@[simp] theorem snapEvent_ctx : (s.snapEvent armed).ctx = s.ctx := by
  unfold State.snapEvent State.trigger
  split_ifs <;> rfl

@[simp] theorem snapEvent_thr : (s.snapEvent armed).thr = s.thr := by
  unfold State.snapEvent State.trigger
  split_ifs <;> rfl

@[simp] theorem snapEvent_ras : (s.snapEvent armed).ras = s.ras := by
  unfold State.snapEvent State.trigger
  split_ifs <;> rfl

end

/-- The cause stands in the low byte of `xcause`, below the thread's number. -/
theorem causeWord_low (thr : BitVec 4) (cause : BitVec 8) : ((thr ++ cause).setWidth 64).extractLsb' 0 8 = cause := by
  refine BitVec.eq_of_getLsbD_eq fun i hi => ?_
  rw [BitVec.getLsbD_extractLsb', BitVec.getLsbD_setWidth, BitVec.getLsbD_append, Nat.zero_add, if_pos hi]
  simp [hi, show i < 64 by omega]

theorem trapped_sigBad (x : Ctx) (cause : BitVec 8) (val : W64) (n : Fin 11) : ((x.trapped cause val n).thread n).sigBad = none :=
  congrArg Thread.sigBad (thread_setThread_same _ n _)

section
variable (cause : BitVec 8) (val : W64) {s : State} (outside : s.ctx.inh = false)
include outside

theorem trapEntry_eq :
    trapEntry cause val s = (s.snapEvent (s.ctx.snapArm && s.ctx.snapEvent == cause)).setCtx (s.ctx.trapped cause val s.thr) := by
  simp [trapEntry, outside]

theorem trapEntry_ctx : (trapEntry cause val s).ctx = s.ctx.trapped cause val s.thr := by
  rw [trapEntry_eq cause val outside, ctx_setCtx]

theorem trapEntry_ras : (trapEntry cause val s).ras = s.ras := by
  rw [trapEntry_eq cause val outside, setCtx_ras, snapEvent_ras]

theorem trapEntry_xval : (trapEntry cause val s).csr .xval = val :=
  congrArg Ctx.xval (trapEntry_ctx cause val outside)

theorem trapEntry_cause : ((trapEntry cause val s).csr .xcause).extractLsb' 0 8 = cause :=
  (congrArg (fun x => x.xcause.extractLsb' 0 8) (trapEntry_ctx cause val outside)).trans (causeWord_low _ cause)

theorem trapEntry_sigBad : (trapEntry cause val s).th.sigBad = none := by
  rw [State.th, trapEntry_ctx cause val outside, trapEntry_eq cause val outside, setCtx_thr, snapEvent_thr, trapped_sigBad]

end

/-! ## What stops a thread before it issues (R57, R88, R328) -/

section
variable (s : State)

theorem exec_illegalInstruction {reason : BitVec 8} (w : W32) (low : 1 ≤ reason.toNat) (high : reason.toNat ≤ 8) :
    exec (.illegalInstruction reason w) s = .next (trapEntry 1 ((reason ++ w).setWidth 64) s) := by
  refine if_neg ?_
  rintro (rfl | above)
  · exact absurd low (by decide)
  · omega

theorem exec_fetchBound (beyond : s.ctx.region ≤ s.th.pc.toNat) : exec .fetchBound s = .next (trapEntry 5 s.th.pc s) :=
  if_pos beyond

theorem exec_signatureMismatch {crc : BitVec 16} {start : W32} (bad : s.th.sigBad = some (crc, start)) :
    ∃ place, exec .signatureMismatch s =
      .next (trapEntry 8 ((crc ++ start).setWidth 64) (s.rasAdd 7 (BitVec.ofNat 12 s.focus) place)) := by
  show ∃ place, execSignatureMismatch s = _
  simp only [execSignatureMismatch, bad]
  exact ⟨_, rfl⟩

end

/-! ## The obligation -/

/-- Settles O20: each trap is the trap entry with its cause and value; a mismatch's entry in the RAS log is the one that the trap leaves last. -/
theorem trapsBeforeIssue : Obligations.TrapsBeforeIssue := by
  refine ⟨fun s reason w => exec_illegalInstruction s w, fun s => exec_fetchBound s, fun s crc start bad outside room => ?_⟩
  obtain ⟨place, trap⟩ := exec_signatureMismatch s bad
  have outside' := (congrArg Ctx.inh (rasAdd_ctx s 7 (BitVec.ofNat 12 s.focus) place)).trans outside
  exact ⟨_, _, trap, trapEntry_xval _ _ outside', trapEntry_cause _ _ outside', trapEntry_sigBad _ _ outside',
    (trapEntry_ras _ _ outside').trans (rasAdd_ras_of_room _ _ _ _ room), rasEntry_kind .., rasEntry_now ..⟩

end Sys2Proof.Laws

/-!
A step whose turn is a thread's issue (R62, R68, R88, R96): what comes before the issue, what the issue runs, and obligation O56.
-/

namespace Sys2Proof.Laws

open Sys2Proof Sys2Proof.Machine

/-! ## Second word accesses (R114) -/

/-- What every step of a fold keeps, the fold keeps. -/
theorem foldl_keeps {α β γ : Type} {f : α → γ} {g : α → β → α} (one : ∀ a b, f (g a b) = f a) (a : α) (l : List β) :
    f (l.foldl g a) = f a := by
  rw [← List.foldl_hom f (g₂ := fun x _ => x) (H := fun a b => (one a b).symm), List.foldl_fixed]

/-- A fold whose steps on the members of its list do nothing does nothing. -/
theorem foldl_eq_self {α β : Type} {g : α → β → α} {a : α} {l : List β} (idle : ∀ b ∈ l, g a b = a) : l.foldl g a = a := by
  induction l with
  | nil => rfl
  | cons b l ih =>
    rw [List.foldl_cons, idle b List.mem_cons_self]
    exact ih fun b' hb => idle b' (List.mem_cons_of_mem b hb)

/-- Making a second word access changes a thread, a memory or the loads on their way, and neither a gang nor anything else of the device. -/
theorem makeHalf_keeps {α : Type} {f : State → α} (core : ∀ s c k, k.run.gang = (s.core c).run.gang → f (s.setCore c k) = f s)
    (cluster : ∀ s c x, f (s.setCluster c x) = f s) (locals : ∀ s l, f { s with locals := l } = f s) (s : State) (c : Nat) (n : Fin 11) :
    f (s.makeHalf c n) = f s := by
  unfold State.makeHalf
  dsimp only
  split
  case h_1 => rfl
  case h_2 a half =>
    split
    case h_1 v store =>
      refine (core _ _ _ ?_).trans ?_
      · rfl
      · split
        · exact cluster ..
        · refine core _ _ _ ?_
          rfl
    case h_2 =>
      split
      · refine core _ _ _ ?_
        rfl
      · refine (core _ _ _ ?_).trans (locals ..)
        rfl

theorem makeHalf_none {s : State} {c : Nat} {n : Fin 11} (h : ((s.core c).run.thread n).half = none) : s.makeHalf c n = s := by
  simp [State.makeHalf, h]

/-- What making one second word access keeps, making many keeps. -/
theorem makeHalves_keeps {α : Type} {f : State → α} (one : ∀ s c n, f (s.makeHalf c n) = f s) (s : State)
    (p : Nat → Fin 11 → Thread → Bool) : f (s.makeHalves p) = f s := by
  refine foldl_keeps (fun s ck => foldl_keeps (fun s n => ?_) s _) s _
  split
  · exact one ..
  · rfl

theorem makeHalves_eq_self {s : State} {p : Nat → Fin 11 → Thread → Bool}
    (idle : ∀ c k n, (c, k) ∈ s.cores → (k.run.thread n).half.isSome = true → p c n (k.run.thread n) = false) : s.makeHalves p = s := by
  refine foldl_eq_self fun ck member => foldl_eq_self fun n _ => if_neg ?_
  intro makes
  obtain ⟨some, named⟩ := Bool.and_eq_true_iff.mp makes
  exact absurd named (ne_true_of_eq_false (idle _ _ n member some))

theorem makeHalves_agenda (s : State) (p : Nat → Fin 11 → Thread → Bool) : (s.makeHalves p).agenda = s.agenda :=
  makeHalves_keeps (makeHalf_keeps (fun _ _ _ _ => rfl) (fun _ _ _ => rfl) fun _ _ => rfl) s p

theorem makeHalves_fresh (s : State) (p : Nat → Fin 11 → Thread → Bool) : (s.makeHalves p).fresh = s.fresh :=
  makeHalves_keeps (makeHalf_keeps (fun _ _ _ _ => rfl) (fun _ _ _ => rfl) fun _ _ => rfl) s p

theorem makeHalves_home (s : State) (p : Nat → Fin 11 → Thread → Bool) : (s.makeHalves p).home = s.home :=
  makeHalves_keeps (makeHalf_keeps (fun _ _ _ _ => rfl) (fun _ _ _ => rfl) fun _ _ => rfl) s p

theorem makeHalves_thr (s : State) (p : Nat → Fin 11 → Thread → Bool) : (s.makeHalves p).thr = s.thr :=
  makeHalves_keeps (makeHalf_keeps (fun _ _ _ _ => rfl) (fun _ _ _ => rfl) fun _ _ => rfl) s p

theorem setCore_gang {s : State} {c : Nat} {k : Core} (same : k.run.gang = (s.core c).run.gang) : (s.setCore c k).ctx.gang = s.ctx.gang := by
  by_cases here : s.focus = c
  · subst here
    exact (congrArg (·.run.gang) (core_setCore_same s s.focus k)).trans same
  · exact congrArg (·.run.gang) (core_setCore_other s here k)

theorem makeHalves_gang (s : State) (p : Nat → Fin 11 → Thread → Bool) : (s.makeHalves p).ctx.gang = s.ctx.gang :=
  makeHalves_keeps (f := fun s => s.ctx.gang)
    (makeHalf_keeps (f := fun s => s.ctx.gang) (fun _ _ _ => setCore_gang) (fun _ _ _ => rfl) fun _ _ => rfl) s p

theorem deliver_agenda (s : State) : s.deliver.agenda = s.agenda := makeHalves_agenda s _

theorem deliver_freeNat (s : State) (j : Nat) : s.deliver.freeNat j = s.freeNat j :=
  congrArg (fun n => Config.choice (n * 2 ^ 48 + j)) (makeHalves_fresh s _)

/-! ## Before an issue -/

theorem nextFwd_congr {x y : Ctx} (h : x.gang = y.gang) (n : Fin 11) : x.nextFwd n = y.nextFwd n := by
  rw [Ctx.nextFwd, Ctx.nextFwd, h]

theorem sigLeave_pc (t : Thread) : t.sigLeave.pc = t.pc := by
  unfold Thread.sigLeave
  split
  · rfl
  · split <;> rfl

/-- A follower comes to its issue at the PC of the forwarded instruction. -/
theorem beforeIssue_of_nextFwd {w : State} {f : Fwd} (whole : w.th.half = none) (next : w.ctx.nextFwd w.thr = some f) :
    w.beforeIssue.th.pc = f.pc ∧ w.beforeIssue.home = w.home := by
  have landed (a n : Nat) : (w.landStores w.focus a n).ctx.nextFwd (w.landStores w.focus a n).thr = some f := by
    rw [State.landStores, makeHalves_thr, nextFwd_congr (makeHalves_gang w _), next]
  unfold State.beforeIssue
  dsimp only
  rw [makeHalf_none whole, landed]
  split
  · rw [th_setTh, sigLeave_pc, th_setTh]
    exact ⟨rfl, makeHalves_home w _⟩
  · rw [th_setTh]
    exact ⟨rfl, makeHalves_home w _⟩

theorem fetchWaits_of_not_torn {w : State} {c : Nat} {x : Ctx} (t : Thread) (whole : ∀ a n, w.torn c x.launch a n = false) :
    w.fetchWaits c x t = false := by
  rw [State.fetchWaits, State.tornAt, whole, Bool.and_false]

theorem landStores_eq_self {w : State} {c : Nat} (a n : Nat) (apart : ∀ k y m h, (k, y) ∈ w.cores → (y.run.thread m).half = some h →
    h.scratch = true ∨ h.unit ≠ c ∨ h.store = none) : w.landStores c a n = w := by
  refine makeHalves_eq_self fun k y m member some => ?_
  obtain ⟨h, half⟩ := Option.isSome_iff_exists.mp some
  rw [half]
  rcases apart k y m h member half with off | off | off <;> simp [off]

/-! ## A step whose turn is an issue (R62, R68) -/

section
variable {s : State} {c t : Nat} (on : s.off = false)
include on

theorem step_of_issueFirst {rest : List Action} (first : s.agenda = .issue c t :: rest) :
    step s = mapNext State.settle (({ s.deliver with agenda := rest } : State).issueOn c t) := by
  have first' := (deliver_agenda s).trans first
  simp [step, State.advance, on, State.issueFirst, State.proceed, first', State.act]

theorem step_of_pick (empty : s.agenda = []) (idle : s.deliver.due = []) (chosen : pick (s.freeNat 0) s.deliver.choices = some (.issue c t)) :
    step s = mapNext State.settle (s.deliver.issueOn c t) := by
  have empty' := (deliver_agenda s).trans empty
  rw [← deliver_freeNat] at chosen
  simp [step, State.advance, on, State.issueFirst, State.runDue, idle, State.proceed, empty', chosen, State.act]

end

section
variable {w : State} {c t : Nat} (may : (w.focusOn c t).mayIssue = true) (free : (w.focusOn c t).th.stall = none)
include may free

theorem issueOn_of_mismatch {u : State} (before : u = (w.focusOn c t).beforeIssue) (bad : u.th.sigBad ≠ none) (outside : u.ctx.inh = false) :
    w.issueOn c t = exec .signatureMismatch u := by
  subst before
  simp [State.issueOn, may, free, Option.isSome_iff_ne_none.mpr bad, outside]

theorem issueOn_of_notice {u : State} (before : u = (w.focusOn c t).beforeIssue) (good : u.th.sigBad = none ∨ u.ctx.inh = true)
    (due : u.ctx.notice ≠ 0) (outside : u.ctx.inh = false) : w.issueOn c t = noticeTrap u := by
  subst before
  simp_all [State.issueOn]

theorem issueOn_of_no_trap {u : State} (before : u = (w.focusOn c t).beforeIssue) (good : u.th.sigBad = none ∨ u.ctx.inh = true)
    (quiet : u.ctx.notice = 0 ∨ u.ctx.inh = true) : w.issueOn c t = u.issueNext := by
  subst before
  rcases good with good | inside
  · rcases quiet with quiet | inside <;> simp [State.issueOn, *]
  · simp [State.issueOn, *]

end

section
variable {u : State}

theorem issueNext_of_no_fwd (follows : u.follows = true) (empty : u.ctx.nextFwd u.thr = none) : u.issueNext = wait u := by
  simp [State.issueNext, follows, empty]

theorem issueNext_of_fwd (follows : u.follows = true) {f : Fwd} (next : u.ctx.nextFwd u.thr = some f) :
    u.issueNext = u.issueWords f.words (some f) := by
  simp [State.issueNext, follows, next]

variable (own : u.follows = false)
include own

theorem issueNext_of_beyond (beyond : u.ctx.region ≤ u.th.pc.toNat) : u.issueNext = exec .fetchBound u := by
  simp [State.issueNext, own, beyond]

theorem issueNext_of_fetchWaits (inside : u.th.pc.toNat < u.ctx.region) (torn : u.fetchWaits u.focus u.ctx u.th = true) :
    u.issueNext = wait u := by
  simp [State.issueNext, own, inside.not_ge, torn]

theorem issueNext_of_fetch (inside : u.th.pc.toNat < u.ctx.region) (whole : u.fetchWaits u.focus u.ctx u.th = false) :
    u.issueNext = u.issueWords (u.fetch u.focus u.ctx u.th) none := by
  simp [State.issueNext, own, inside.not_ge, whole]

end

theorem issueWords_illegal (u : State) {ws : List W32} (from_ : Option Fwd) {k : Nat} {w0 : W32} (bad : decode ws = .illegal k w0) :
    u.issueWords ws from_ = exec (.illegalInstruction (BitVec.ofNat 8 k) w0) u := by
  simp [State.issueWords, bad]

theorem issueWords_ok (u : State) {ws : List W32} (from_ : Option Fwd) {i : Instr} {n : Nat} (good : decode ws = .ok i n) :
    u.issueWords ws from_ = closing (fun v => v.issued u i (ws.take (n / 4)) from_ (isHalt i)) (exec i u) := by
  simp [State.issueWords, good]

theorem mapNext_closing (f : State → State) (v : Out) : mapNext State.settle (closing f v) = match v with
    | .next v => .next ((if v.waiting then v else f v).settle)
    | .fault e => .fault e
    | .refused r => .refused r := by
  cases v with
  | next v => exact (apply_ite (mapNext State.settle) ..).trans (apply_ite (fun v => Host.Outcome.next (State.settle v)) ..).symm
  | fault e => rfl
  | refused r => rfl

/-- A trap and a wait leave no bookkeeping. -/
theorem mapNext_settle (v : Out) : mapNext State.settle v = match v with
    | .next v => .next ((if v.waiting then v else id v).settle)
    | .fault e => .fault e
    | .refused r => .refused r := by
  cases v with
  | next v => exact congrArg (fun v => Host.Outcome.next (State.settle v)) (ite_self v).symm
  | fault e => rfl
  | refused r => rfl

theorem fetch_of_empty_buffer {u : State} {c : Nat} {x : Ctx} {t : Thread} (seq : t.ibSeq.words = []) (tgt : t.ibTgt.words = []) :
    u.fetch c x t = u.codeWords c x t.pc.toNat 5 := by
  have empty {h : IbHalf} (words : h.words = []) (pc : Nat) : wholeInstr (h.from_ pc) = false := by
    rw [IbHalf.from_, words]
    split
    · cases (pc - h.start.toNat) / 4 <;> rfl
    · rfl
  simp [State.fetch, empty seq, empty tgt]

/-! ## The obligation -/

/-- Every clause of O56 but one holds: the machine does what O56 says exactly when a thread that follows nobody comes to its issue at its PC as
it stands. -/
theorem stepRunsDecoded_iff : Obligations.StepRunsDecoded ↔ ∀ w : State, w.th.half = none → w.follows = false →
    w.beforeIssue = (let w := w.landStores w.focus (w.ctx.origin + w.th.pc.toNat) 20
      let w := w.setTh w.th
      if w.ctx.checks then w.setTh w.th.sigLeave else w) := by
  refine ⟨fun h => h.2.1, fun clause => ⟨fun s c t on => ?_, clause,
    fun w c a n x t => ⟨fetchWaits_of_not_torn t, landStores_eq_self a n⟩, fun w f => beforeIssue_of_nextFwd⟩⟩
  intro after runs turn
  have run (u : State) (ws : List W32) (from_ : Option Fwd) : runs (mapNext State.settle (u.issueWords ws from_)) u ws from_ :=
    ⟨fun k w0 bad => by rw [issueWords_illegal u from_ bad]; exact mapNext_settle _,
      fun i n good => by rw [issueWords_ok u from_ good]; exact mapNext_closing _ _⟩
  have key (w : State) : turn (mapNext State.settle (w.issueOn c t)) w := by
    intro may free u
    refine ⟨fun bad outside => ?mismatch, fun good => ⟨fun due outside => ?notice, fun quiet => ?next⟩⟩
    case mismatch =>
      rw [issueOn_of_mismatch may free rfl bad outside]
      exact mapNext_settle _
    case notice =>
      rw [issueOn_of_notice may free rfl good due outside]
      exact mapNext_settle _
    case next =>
      rw [issueOn_of_no_trap may free rfl good quiet]
      refine ⟨fun follows => ⟨fun empty => ?_, fun f next => ?_⟩, fun own beyond => ?_, fun own inside =>
        ⟨fetch_of_empty_buffer, fun torn => ?_, fun whole => ?_⟩⟩
      · rw [issueNext_of_no_fwd follows empty]
        exact mapNext_settle _
      · rw [issueNext_of_fwd follows next]
        exact run u _ _
      · rw [issueNext_of_beyond own beyond]
        exact mapNext_settle _
      · rw [issueNext_of_fetchWaits own inside torn]
        exact mapNext_settle _
      · rw [issueNext_of_fetch own inside whole]
        exact run u _ _
  refine ⟨fun rest first => ?_, fun empty idle chosen => ?_⟩
  · rw [step_of_issueFirst on first]
    exact key _
  · rw [step_of_pick on empty idle chosen]
    exact key _

/-- A follower that has detached while its forwarded instruction stalled, when that instruction has completed and the gang is dissolved: the
thread goes on at its oldest unissued forwarded instruction, of PC 0x40, and not at the PC 0 of its own (R96). -/
def detached : State :=
  let t : Thread := { Thread.reset with live := true, after := some 0x40 }
  { State.reset with cores := [(0, { Core.reset with run := { Ctx.reset.setThread 0 t with resident := true, size := 4 } })] }

/-- Refutes O56: its clause on the state before an issue leaves out that a detached follower goes on elsewhere (`Thread.after`). Before its
issue `detached` comes to PC 0x40, where the clause has it stay at PC 0. -/
theorem not_stepRunsDecoded : ¬ Obligations.StepRunsDecoded := by
  intro holds
  have goesOn : detached.beforeIssue.th.pc = 0x40 := by decide
  rw [stepRunsDecoded_iff.mp holds detached rfl rfl] at goesOn
  exact absurd goesOn (by decide)

end Sys2Proof.Laws

/-!
The machine out of reset (R63, R310): obligation O60.
-/

namespace Sys2Proof.Laws

open Sys2Proof Sys2Proof.Machine

/-- Settles O60: each value is the one that `State.reset` and the parts of it that are absent from its maps read as; of the reservations the
16 are looked at one by one. -/
theorem resetState : Obligations.ResetState := by
  unfold Obligations.ResetState
  refine ⟨rfl, rfl, rfl, rfl, rfl, rfl, rfl, rfl, rfl, rfl, fun _ _ => ⟨rfl, rfl, rfl, rfl, rfl⟩, fun _ _ => ⟨rfl, rfl, rfl⟩,
    fun _ _ => rfl, ?reservations, fun _ _ => ⟨rfl, rfl, rfl, rfl⟩, fun _ _ => ⟨rfl, rfl, rfl⟩, fun _ _ => ⟨rfl, rfl⟩,
    rfl, rfl, rfl, rfl, rfl⟩
  case reservations => decide

end Sys2Proof.Laws

/-!
Where contexts stand: what an operation on cores, clusters or images keeps of every byte of memory and of the contexts that a launch has,
and the end of one of several contexts (R65, R70, R72).
-/

namespace Sys2Proof.Laws

open Sys2Proof Sys2Proof.Machine

/-! ## What stays of contexts and of memory -/

/-- What says whose a context is and whether it has ended. -/
def standing (x : Ctx) : Bool × Nat × Bool := (x.resident, x.launch, x.ended)

/-- The launches, and the standing of every context on a core or in a save area: what `State.image` and `State.liveCores` look at. -/
def roll (s : State) : Nat × PMap Launch × (Nat → (Bool × Nat × Bool) × (Bool × Nat × Bool)) × List (Nat × Bool × Nat × Bool) :=
  (s.focus, s.launches, fun c => (standing (s.core c).run, standing (s.core c).shadow), s.saved.map fun a => (a.core, standing a.ctx))

theorem sameMemory_of_byteAt {s t : State} (h : t.byteAt = s.byteAt) : SameMemory s t := congrFun h

/-- What a function of every entry keeps is kept at each key: an absent one reads as the default. -/
theorem get_mapVal_keeps {α β : Type} {f : Nat → α → α} {g : α → β} (keeps : ∀ k x, g (f k x) = g x) (m : PMap α) (a : Nat) (d : α) :
    g ((PMap.mapVal f m).get a d) = g (m.get a d) := by
  rw [PMap.get, PMap.find?_mapVal, PMap.get]
  cases PMap.find? m a with
  | none => rfl
  | some x => exact keeps a x

theorem core_mapVal_keeps {s t : State} {f : Nat → Core → Core} (cores : t.cores = s.cores.mapVal f) {α : Type} {g : Core → α}
    (keeps : ∀ d k, g (f d k) = g k) (c : Nat) : g (t.core c) = g (s.core c) := by
  rw [State.core, cores, get_mapVal_keeps keeps, State.core]

theorem cluster_mapVal_keeps {s t : State} {f : Nat → Cluster → Cluster} (clusters : t.clusters = s.clusters.mapVal f) {α : Type}
    {g : Cluster → α} (keeps : ∀ d x, g (f d x) = g x) (k : Nat) : g (t.cluster k) = g (s.cluster k) := by
  rw [State.cluster, clusters, get_mapVal_keeps keeps, State.cluster]

section
variable (s : State) {c : Nat} {k : Core}

theorem core_setCore_keeps {α : Type} {g : Core → α} (keeps : g k = g (s.core c)) (d : Nat) : g ((s.setCore c k).core d) = g (s.core d) := by
  by_cases here : d = c
  · rw [here, core_setCore_same, keeps]
  · rw [core_setCore_other s here]

theorem roll_setCore (run : standing k.run = standing (s.core c).run) (shadow : standing k.shadow = standing (s.core c).shadow) :
    roll (s.setCore c k) = roll s := by
  have cores := core_setCore_keeps s (g := fun k => (standing k.run, standing k.shadow)) (Prod.ext run shadow)
  simp only [roll, cores, setCore_focus, setCore_launches, setCore_saved]

theorem roll_mapCores {f : Nat → Core → Core} (run : ∀ d k, standing (f d k).run = standing k.run)
    (shadow : ∀ d k, standing (f d k).shadow = standing k.shadow) : roll { s with cores := s.cores.mapVal f } = roll s := by
  have cores := core_mapVal_keeps (s := s) (t := { s with cores := s.cores.mapVal f }) rfl (g := fun k => (standing k.run, standing k.shadow))
    fun d k => Prod.ext (run d k) (shadow d k)
  simp only [roll, cores]

/-- A change of every image of a context that keeps their standing. -/
theorem roll_mapImages {f : Ctx → Ctx} (keeps : ∀ x, standing (f x) = standing x) :
    roll { s with
      cores := s.cores.mapVal fun _ k => { k with run := f k.run, shadow := f k.shadow }
      saved := s.saved.map fun a => { a with ctx := f a.ctx } } = roll s := by
  refine .trans ?_ (roll_mapCores s (f := fun _ k => { k with run := f k.run, shadow := f k.shadow }) (fun _ k => keeps k.run)
    fun _ k => keeps k.shadow)
  simp only [roll, State.core, List.map_map, Function.comp_def, keeps]

end

/-- The memories of a cluster. -/
def memories (x : Cluster) : Mem × Mem × Mem := (x.scratch, x.tiles, x.tables)

/-- Every byte reads the same where every memory is the same. -/
theorem byteAt_ext {s t : State} (ulm : ∀ c, (t.core c).ulm = (s.core c).ulm) (clusters : ∀ k, memories (t.cluster k) = memories (s.cluster k))
    (dies : t.dies = s.dies) (home : t.home = s.home) : t.byteAt = s.byteAt := by
  funext p
  cases p with
  | ulm c a => exact congrArg (Mem.read · a) (ulm c)
  | scratch k a => exact congrArg (fun m => m.1.read a) (clusters k)
  | tiles k a => exact congrArg (fun m => m.2.1.read a) (clusters k)
  | tables k a => exact congrArg (fun m => m.2.2.read a) (clusters k)
  | scores d a => exact congrArg (fun m => (PMap.get m d Die.reset).ae.scores.read a) dies
  | home a => exact congrArg (Mem.read · a) home

section
variable (s : State)

theorem byteAt_setCore {c : Nat} {k : Core} (ulm : k.ulm = (s.core c).ulm) : (s.setCore c k).byteAt = s.byteAt :=
  byteAt_ext (core_setCore_keeps s ulm) (fun _ => rfl) rfl rfl

theorem byteAt_mapCores {f : Nat → Core → Core} (ulm : ∀ d k, (f d k).ulm = k.ulm) :
    ({ s with cores := s.cores.mapVal f } : State).byteAt = s.byteAt :=
  byteAt_ext (core_mapVal_keeps rfl ulm) (fun _ => rfl) rfl rfl

theorem byteAt_mapClusters {f : Nat → Cluster → Cluster} (keeps : ∀ d x, memories (f d x) = memories x) :
    ({ s with clusters := s.clusters.mapVal f } : State).byteAt = s.byteAt :=
  byteAt_ext (fun _ => rfl) (cluster_mapVal_keeps rfl keeps) rfl rfl

end

/-! ## What the contexts' standing decides -/

section
variable {s t : State} (same : roll t = roll s)
include same

theorem focus_of_roll : t.focus = s.focus := congrArg (·.1) same

theorem launch?_of_roll (n : Nat) : t.launch? n = s.launch? n := congrArg (fun r => r.2.1.find? n) same

theorem run_of_roll (c n : Nat) : (t.core c).run.of n = (s.core c).run.of n :=
  (congrArg (fun r => (r.2.2.1 c).1.1 && (r.2.2.1 c).1.2.1 == n) same :)

theorem shadow_of_roll (c n : Nat) : (t.core c).shadow.of n = (s.core c).shadow.of n :=
  (congrArg (fun r => (r.2.2.1 c).2.1 && (r.2.2.1 c).2.2.1 == n) same :)

end

/-- Whether the image of a launch's context on a core has ended, by the contexts' standing. -/
theorem image_ended_eq (s : State) (c n : Nat) : (s.image c n).map (·.ended) =
    if (s.core c).run.of n then some (s.core c).run.ended else if (s.core c).shadow.of n then some (s.core c).shadow.ended
    else ((roll s).2.2.2.find? fun a => a.1 == c && (a.2.1 && a.2.2.1 == n)).map (·.2.2.2) := by
  unfold State.image State.ctxOf
  dsimp only
  split_ifs with run shadow
  · rfl
  · rfl
  · simp only [roll, List.find?_map, Option.map_map]
    rfl

theorem image_ended_of_roll {s t : State} (same : roll t = roll s) (c n : Nat) :
    (t.image c n).map (·.ended) = (s.image c n).map (·.ended) := by
  have run : (t.core c).run.ended = (s.core c).run.ended := congrArg (fun r => (r.2.2.1 c).1.2.2) same
  have shadow : (t.core c).shadow.ended = (s.core c).shadow.ended := congrArg (fun r => (r.2.2.1 c).2.2.2) same
  rw [image_ended_eq, image_ended_eq, run_of_roll same, shadow_of_roll same, run, shadow, same]

theorem mem_liveCores {s : State} {n c : Nat} {l : Launch} (launch : s.launch? n = some l) (inside : c ∈ l.cores)
    (lives : (s.image c n).map (·.ended) = some false) : c ∈ s.liveCores n := by
  obtain ⟨x, image, ended⟩ := Option.map_eq_some_iff.mp lives
  simp only [State.liveCores, launch, List.mem_filter, inside, image, ended, Bool.not_false, and_self]

/-! ## Second word accesses (R114) -/

/-- What an access's four parts keep, making it keeps: the word stored in ULM or in a scratchpad, the thread, and a load on its way. -/
theorem makeHalf_frame {α : Type} {f : State → α} (ulm : ∀ s c m, f (s.setCore c { s.core c with ulm := m }) = f s)
    (thread : ∀ s c n t, f (s.setCore c { s.core c with run := (s.core c).run.setThread n t }) = f s)
    (scratch : ∀ s k m, f (s.setCluster k { s.cluster k with scratch := m }) = f s)
    (locals : ∀ s l, f { s with locals := l } = f s) (s : State) (c : Nat) (n : Fin 11) : f (s.makeHalf c n) = f s := by
  unfold State.makeHalf
  dsimp only
  split
  case h_1 => rfl
  case h_2 a half =>
    split
    case h_1 v store =>
      refine (thread ..).trans ?_
      split
      · exact scratch ..
      · exact ulm ..
    case h_2 =>
      split
      · exact thread ..
      · exact (thread ..).trans (locals ..)

theorem roll_makeHalves (s : State) (p : Nat → Fin 11 → Thread → Bool) : roll (s.makeHalves p) = roll s :=
  makeHalves_keeps (makeHalf_frame (fun s _ _ => roll_setCore s rfl rfl) (fun s _ _ _ => roll_setCore s rfl rfl) (fun _ _ _ => rfl)
    fun _ _ => rfl) s p

/-- A change that no access looks at may as well come after the accesses. -/
theorem makeHalves_comm {φ : State → State} (cores : ∀ s, (φ s).cores = s.cores)
    (one : ∀ s c n, (φ s).makeHalf c n = φ (s.makeHalf c n)) (s : State) (p : Nat → Fin 11 → Thread → Bool) :
    (φ s).makeHalves p = φ (s.makeHalves p) := by
  unfold State.makeHalves
  rw [cores]
  refine List.foldl_hom φ fun s ck => List.foldl_hom φ fun s n => ?_
  split
  · exact one ..
  · rfl

/-- The marks of snapshot triggers (R336) replaced. -/
def withTriggers (s : State) (missed : BitVec 16) (pending : Option (Nat × BitVec 4)) : State :=
  { s with snapMissed := missed, snapPending := pending }

theorem snapEvent_eq (s : State) (armed : Bool) : ∃ missed pending, s.snapEvent armed = withTriggers s missed pending := by
  cases armed with
  | false => exact ⟨s.snapMissed, s.snapPending, rfl⟩
  | true =>
    show ∃ missed pending, s.trigger 3 = _
    unfold State.trigger
    split
    · exact ⟨_, s.snapPending, rfl⟩
    · exact ⟨s.snapMissed, _, rfl⟩

theorem makeHalf_withTriggers (s : State) (missed : BitVec 16) (pending : Option (Nat × BitVec 4)) (c : Nat) (n : Fin 11) :
    (withTriggers s missed pending).makeHalf c n = withTriggers (s.makeHalf c n) missed pending := by
  have core : (withTriggers s missed pending).core = s.core := rfl
  unfold State.makeHalf
  dsimp only
  rw [core]
  cases ((s.core c).run.thread n).half with
  | none => rfl
  | some a =>
    obtain ⟨scratch, unit, off, high, store⟩ := a
    cases store with
    | some v => cases scratch with
      | true => rfl
      | false => rfl
    | none => cases scratch with
      | true => rfl
      | false =>
        dsimp only
        cases unit == c with
        | true => rfl
        | false => rfl

theorem byteAt_snapEvent_makeHalves (s : State) (armed : Bool) (p : Nat → Fin 11 → Thread → Bool) :
    ((s.snapEvent armed).makeHalves p).byteAt = (s.makeHalves p).byteAt := by
  obtain ⟨missed, pending, eq⟩ := snapEvent_eq s armed
  rw [eq, makeHalves_comm (φ := (withTriggers · missed pending)) (fun _ => rfl) fun s => makeHalf_withTriggers s missed pending]
  rfl

/-! ## The end of one of several contexts (R65, R70) -/

section
variable (s : State) (c n : Nat)

theorem roll_closeStream (t : Thread) : roll (s.closeStream t) = roll s := by
  unfold State.closeStream
  cases t.stream with
  | none => rfl
  | some o => exact roll_setCore _ rfl rfl

theorem byteAt_closeStream (t : Thread) : (s.closeStream t).byteAt = s.byteAt := by
  unfold State.closeStream
  cases t.stream with
  | none => rfl
  | some o => exact byteAt_setCore _ rfl

theorem roll_updImage {f : Ctx → Ctx} (keeps : ∀ x, standing (f x) = standing x) : roll (s.updImage c n f) = roll s := by
  unfold State.updImage State.updCtx
  split
  · dsimp only
    split_ifs
    · exact roll_setCore s (keeps _) rfl
    · exact roll_setCore s rfl (keeps _)
    · rfl
  · simp only [roll, List.map_map, Function.comp_def]
    congr 3
    refine List.map_congr_left fun a _ => ?_
    split
    · exact congrArg (a.core, ·) (keeps _)
    · rfl

theorem byteAt_updImage (f : Ctx → Ctx) : (s.updImage c n f).byteAt = s.byteAt := by
  unfold State.updImage State.updCtx
  split
  · dsimp only
    split_ifs
    · exact byteAt_setCore s rfl
    · exact byteAt_setCore s rfl
    · rfl
  · rfl

/-- What the end of a gang's leader makes of a context of the gang (R107). -/
def leaderGone (n : Nat) (g : Gang) (y : Ctx) : Ctx :=
  match y.gang with
  | some h =>
    if y.of n && h.word == g.word then
      { y with gang :=
        if h.attached && (h.held.toList ++ h.buffer ++ h.lane).any (·.words == [haltWord]) then some { h with dissolved := true } else none }
    else y
  | none => y

theorem standing_leaderGone (g : Gang) (y : Ctx) : standing (leaderGone n g y) = standing y := by
  unfold leaderGone
  split
  · split
    · rfl
    · rfl
  · rfl

theorem leaveGang_eq (x : Ctx) : s.leaveGang c n x = match x.gang with
    | none => s
    | some g =>
      if g.leader then
        { s with
          cores := s.cores.mapVal fun _ k => { k with run := leaderGone n g k.run, shadow := leaderGone n g k.shadow }
          saved := s.saved.map fun a => { a with ctx := leaderGone n g a.ctx } }
      else s.updImage c n fun y => { y with gang := none } := rfl

theorem byteAt_leaveGang (x : Ctx) : (s.leaveGang c n x).byteAt = s.byteAt := by
  rw [leaveGang_eq]
  split
  · rfl
  · split
    · exact byteAt_mapCores s fun _ _ => rfl
    · exact byteAt_updImage s c n _

theorem roll_leaveGang (x : Ctx) : roll (s.leaveGang c n x) = roll s := by
  rw [leaveGang_eq]
  split
  · rfl
  · split
    · exact roll_mapImages s (standing_leaderGone n _)
    · exact roll_updImage s c n fun _ => rfl

theorem roll_leaveLines : roll (s.leaveLines c) = roll s := roll_mapCores s (fun _ _ => rfl) fun _ _ => rfl

theorem leaveLines_cores : (s.leaveLines c).cores = s.cores.mapVal fun d k =>
    { k with
      feLine := k.feLine.filter fun w => w.core != c
      port := { k.port with line := k.port.line.filter fun (q, _, l) => !(q == c && (s.core c).run.of l)
                            takers := if d = c then [] else k.port.takers } } := rfl

theorem leaveLines_clusters : (s.leaveLines c).clusters =
    s.clusters.mapVal fun _ x => { x with lockLine := x.lockLine.filter fun w => w.core != c } := rfl

theorem byteAt_leaveLines : (s.leaveLines c).byteAt = s.byteAt :=
  byteAt_ext (core_mapVal_keeps (g := Core.ulm) (leaveLines_cores s c) fun _ _ => rfl)
    (cluster_mapVal_keeps (g := memories) (leaveLines_clusters s c) fun _ _ => rfl) rfl rfl

theorem roll_unlock (thr : Option Nat) : roll (s.unlock c n thr) = roll s := rfl

theorem byteAt_unlock (thr : Option Nat) : (s.unlock c n thr).byteAt = s.byteAt :=
  byteAt_mapClusters s fun _ _ => rfl

theorem roll_dropSyncMisses : roll (s.dropSyncMisses c n) = roll s := rfl

theorem byteAt_dropSyncMisses : (s.dropSyncMisses c n).byteAt = s.byteAt :=
  byteAt_mapClusters s fun _ _ => rfl

end

/-- A context as its end leaves it: none of its threads is live. -/
def endedCtx (x : Ctx) : Ctx := { x.mapThreads fun t => { t with live := false, stall := none, stream := none } with ended := true }

/-- A running context that ends leaves the lines that it stands in (R75). -/
def linesLeft (s : State) (c n : Nat) : State := if (s.core c).run.of n then s.leaveLines c else s

/-- The unpublished records of a context that ends are discarded (R65). -/
def recordsDropped (s : State) (c n : Nat) : State :=
  s.setCore c { s.core c with log := (s.core c).log.filter fun r => !(r.launch == n && r.pub.isNone) }

/-- What the end of a core's running context does before the context counts as ended: its accesses are made, its streams closed, and it
leaves its gang, its locks, its lines and its unpublished records. -/
def windUp (s : State) (c n : Nat) : State :=
  let x := (s.core c).run
  let s := x.threads.toList.foldl State.closeStream (s.makeHalves fun d _ _ => d == c && (s.core c).run.of n)
  ((recordsDropped (linesLeft ((s.leaveGang c n x).unlock c n none) c n) c n)).dropSyncMisses c n

section
variable (s : State) (c n : Nat)

theorem roll_linesLeft : roll (linesLeft s c n) = roll s := by
  rw [linesLeft, apply_ite roll, roll_leaveLines, ite_self]

theorem byteAt_linesLeft : (linesLeft s c n).byteAt = s.byteAt := by
  rw [linesLeft, apply_ite State.byteAt, byteAt_leaveLines, ite_self]

theorem roll_recordsDropped : roll (recordsDropped s c n) = roll s := roll_setCore s rfl rfl

theorem byteAt_recordsDropped : (recordsDropped s c n).byteAt = s.byteAt := byteAt_setCore s rfl

theorem roll_windUp : roll (windUp s c n) = roll s := by
  rw [windUp, roll_dropSyncMisses, roll_recordsDropped, roll_linesLeft, roll_unlock, roll_leaveGang, foldl_keeps roll_closeStream,
    roll_makeHalves]

variable {s c n} in
theorem byteAt_windUp (running : (s.core c).run.of n = true) : (windUp s c n).byteAt = (s.makeHalves fun d _ _ => d == c).byteAt := by
  rw [windUp, byteAt_dropSyncMisses, byteAt_recordsDropped, byteAt_linesLeft, byteAt_unlock, byteAt_leaveGang,
    foldl_keeps byteAt_closeStream]
  simp only [running, Bool.and_true]

end

theorem thread_mapThreads (x : Ctx) (f : Thread → Thread) (n : Fin 11) : (x.mapThreads f).thread n = f (x.thread n) := by
  simp [Ctx.mapThreads, Ctx.thread]

/-- The context of a core counts as ended, with a status for its launch. -/
def closed (s : State) (c n status : Nat) : State :=
  ((windUp s c n).updImage c n endedCtx).updLaunch n fun l =>
    { l with status := max l.status status, lost := l.lost + ((s.core c).unpublished n).length }

theorem updImage_of_running {s : State} {c n : Nat} (running : (s.core c).run.of n = true) (f : Ctx → Ctx) :
    s.updImage c n f = s.setCore c { s.core c with run := f (s.core c).run } := by
  simp only [State.updImage, State.ctxOf, State.updCtx, running, if_true]

theorem updLaunch_of_some {s : State} {n : Nat} {l : Launch} (launch : s.launch? n = some l) (f : Launch → Launch) :
    s.updLaunch n f = { s with launches := s.launches.put n (f l) } := by
  simp only [State.updLaunch, launch]

/-- The running context of a core counts as ended. -/
def markEnded (s : State) (c n : Nat) : State :=
  (windUp s c n).setCore c { (windUp s c n).core c with run := endedCtx ((windUp s c n).core c).run }

theorem markEnded_run (s : State) (c n : Nat) : ((markEnded s c n).core c).run = endedCtx ((windUp s c n).core c).run :=
  congrArg Core.run (core_setCore_same ..)

theorem image_setCore_other (s : State) {c d : Nat} (other : d ≠ c) (k : Core) (n : Nat) : (s.setCore c k).image d n = s.image d n := by
  unfold State.image State.ctxOf
  rw [core_setCore_other s other, setCore_saved]

section
variable {s : State} {c n : Nat} (status : Nat) (running : (s.core c).run.of n = true)
include running

theorem endContext_of_running : s.endContext c n status =
    if ((closed s c n status).liveCores n).isEmpty then (closed s c n status).release n else closed s c n status := by
  have image : s.image c n = some (s.core c).run := by simp only [State.image, State.ctxOf, running, if_true]
  simp only [State.endContext, image]
  rfl

variable {l : Launch} (launch : s.launch? n = some l)
include launch

theorem closed_eq : closed s c n status = { markEnded s c n with
    launches := s.launches.put n { l with status := max l.status status, lost := l.lost + ((s.core c).unpublished n).length } } := by
  have same := roll_windUp s c n
  have launches : (windUp s c n).launches = s.launches := congrArg (·.2.1) same
  rw [closed, updImage_of_running ((run_of_roll same c n).trans running), ← markEnded, updLaunch_of_some (l := l), markEnded,
    setCore_launches, launches]
  rwa [State.launch?, markEnded, setCore_launches, launches]

theorem closed_launch? : (closed s c n status).launch? n =
    some { l with status := max l.status status, lost := l.lost + ((s.core c).unpublished n).length } := by
  rw [closed_eq status running launch]
  exact PMap.find?_put_same ..

theorem closed_core (d : Nat) : (closed s c n status).core d = (markEnded s c n).core d := by
  rw [closed_eq status running launch]
  rfl

theorem closed_focus : (closed s c n status).focus = s.focus := by
  rw [closed_eq status running launch]
  exact (focus_of_roll (roll_windUp s c n) :)

theorem closed_byteAt : (closed s c n status).byteAt = (s.makeHalves fun d _ _ => d == c).byteAt := by
  rw [closed_eq status running launch, ← byteAt_windUp running]
  exact (byteAt_setCore (windUp s c n) (k := { (windUp s c n).core c with run := endedCtx ((windUp s c n).core c).run }) rfl :)

theorem closed_image_other {d : Nat} (other : d ≠ c) : ((closed s c n status).image d n).map (·.ended) = (s.image d n).map (·.ended) := by
  rw [closed_eq status running launch, ← image_ended_of_roll (roll_windUp s c n)]
  exact congrArg (Option.map _) (image_setCore_other (windUp s c n) other _ n)

/-- The end of one of several contexts of a launch: the others run on, and no context leaves its slot. -/
theorem endContext_of_others {d : Nat} (inside : d ∈ l.cores) (other : d ≠ c) (lives : (s.image d n).map (·.ended) = some false) :
    s.endContext c n status = closed s c n status := by
  have stays : d ∈ (closed s c n status).liveCores n := mem_liveCores (closed_launch? status running launch) inside
    ((closed_image_other status running launch other).trans lives)
  rw [endContext_of_running status running, if_neg (fun empty => List.ne_nil_of_mem stays (List.isEmpty_iff.mp empty))]

end

theorem endedCtx_thread_live (x : Ctx) (n : Fin 11) : ((endedCtx x).thread n).live = false :=
  congrArg Thread.live (thread_mapThreads x _ n)

end Sys2Proof.Laws

/-!
Traps and returns (R70–R72, R107): the context at a handler's first instruction and after RTE, the double trap, and obligation O17.
-/

namespace Sys2Proof.Laws

open Sys2Proof Sys2Proof.Machine

/-! ## The context at the handler's first instruction, and after RTE -/

section
variable (x : Ctx) (cause : BitVec 8) (val : W64) (n : Fin 11)

theorem trapped_thread_same : (x.trapped cause val n).thread n =
    { x.thread n with sig := none, pc := x.tvec.setWidth 64, stall := none, sigBad := none, after := none } := by
  rw [show (x.trapped cause val n).thread n = _ from thread_setThread_same _ n _, thread_mapThreads]
  rfl

theorem trapped_thread_other {m : Fin 11} (other : m ≠ n) : (x.trapped cause val n).thread m = { x.thread m with sig := none } :=
  (thread_setThread_other _ other _).trans (thread_mapThreads x _ m)

theorem trapped_xpc : (x.trapped cause val n).xpc = (x.thread n).pc :=
  (congrArg Thread.pc (thread_mapThreads x (fun t => { t with sig := none }) n) :)

end

theorem thrOf_tthr (n : Fin 11) : thrOf (BitVec.ofNat 4 n.val).toNat = n := by
  revert n; decide

section
variable (x : Ctx) {n : Fin 11} (trapped : x.tthr = BitVec.ofNat 4 n.val)
include trapped

theorem returned_thread_same : x.returned.thread n = { x.thread n with pc := x.xpc, stall := none } := by
  rw [Ctx.returned, trapped, thrOf_tthr]
  exact thread_setThread_same x n _

theorem returned_thread_other {m : Fin 11} (other : m ≠ n) : x.returned.thread m = x.thread m := by
  rw [Ctx.returned, trapped, thrOf_tthr]
  exact thread_setThread_other x other _

end

/-! ## The instructions -/

section
variable (s : State)

theorem exec_trap {ra : SReg} (has : s.has [ra] = true) : exec (.trap ra) s = .next (trapEntry 9 (s.reg ra) s) :=
  if_pos has

theorem exec_rte_user (user : s.ctx.mode = .user) (fresh : s.th.stall = none) : exec .rte s = .next (trapEntry 2 (w0x .rte) s) :=
  if_pos ⟨user, fresh⟩

theorem exec_rte_outside (supervisor : s.ctx.mode = .supervisor) (outside : s.ctx.inh = false) :
    exec .rte s = .next (trapEntry 11 (w0x .rte) s) := by
  show execRte s = _
  simp [execRte, privileged, supervisor, outside, trap]

theorem exec_rte_inside (supervisor : s.ctx.mode = .supervisor) (inside : s.ctx.inh = true) :
    exec .rte s = .next (s.setCtx s.ctx.returned) := by
  show execRte s = _
  simp [execRte, privileged, supervisor, inside]

theorem byteAt_setCtx (x : Ctx) : (s.setCtx x).byteAt = s.byteAt := byteAt_setCore s rfl

theorem byteAt_snapEvent (armed : Bool) : (s.snapEvent armed).byteAt = s.byteAt := by
  obtain ⟨missed, pending, eq⟩ := snapEvent_eq s armed
  rw [eq]
  rfl

end

/-! ## Taking a trap outside a handler (R70) and returning from it (R71) -/

section
variable {s : State} (cause : BitVec 8) (val : W64) (outside : s.ctx.inh = false)
include outside

theorem trapEntry_thr : (trapEntry cause val s).thr = s.thr := by
  rw [trapEntry_eq cause val outside, setCtx_thr, snapEvent_thr]

theorem trapEntry_th : (trapEntry cause val s).th =
    { s.th with sig := none, pc := s.ctx.tvec.setWidth 64, stall := none, sigBad := none, after := none } := by
  rw [State.th, trapEntry_thr cause val outside, trapEntry_ctx cause val outside, trapped_thread_same]
  rfl

theorem trapEntry_byteAt : (trapEntry cause val s).byteAt = s.byteAt := by
  rw [trapEntry_eq cause val outside, byteAt_setCtx, byteAt_snapEvent]

/-- A trap followed by RTE brings mode, PC and registers back. -/
theorem rte_trapEntry : ∃ t, exec .rte (trapEntry cause val s) = .next t ∧ t.ctx.mode = s.ctx.mode ∧ t.ctx.inh = false ∧
    t.th.pc = s.th.pc ∧ t.th.regs = s.th.regs := by
  have ctx := trapEntry_ctx cause val outside
  refine ⟨_, exec_rte_inside _ (congrArg Ctx.mode ctx) (congrArg Ctx.inh ctx), ?_⟩
  have thread : ((s.ctx.trapped cause val s.thr).returned).thread s.thr = _ := returned_thread_same _ rfl
  rw [State.th, setCtx_thr, trapEntry_thr cause val outside, ctx_setCtx, ctx, thread, trapped_thread_same, trapped_xpc]
  exact ⟨rfl, rfl, rfl, rfl⟩

end

/-! ## The double trap (R72) -/

theorem roll_snapEvent (s : State) (armed : Bool) : roll (s.snapEvent armed) = roll s := by
  obtain ⟨missed, pending, eq⟩ := snapEvent_eq s armed
  rw [eq]
  rfl

section
variable {s : State} (cause : BitVec 8) (val : W64) (inside : s.ctx.inh = true) (resident : s.ctx.resident = true) {l : Launch}
  (launch : s.launch? s.ctx.launch = some l) {d : Nat} (member : d ∈ l.cores) (other : d ≠ s.focus)
  (lives : (s.image d s.ctx.launch).map (·.ended) = some false)
include inside resident launch member other lives

/-- A trap in a handler ends the context with status 3. -/
theorem trapEntry_double : ∃ armed, trapEntry cause val s = closed (s.snapEvent armed) s.focus s.ctx.launch 3 ∧
    ((s.snapEvent armed).core s.focus).run.of s.ctx.launch = true ∧ (s.snapEvent armed).launch? s.ctx.launch = some l := by
  refine ⟨s.ctx.snapArm && s.ctx.snapEvent == cause, ?_⟩
  have same := roll_snapEvent s (s.ctx.snapArm && s.ctx.snapEvent == cause)
  have running : (s.core s.focus).run.of s.ctx.launch = true := Bool.and_eq_true_iff.mpr ⟨resident, beq_self_eq_true _⟩
  have running' := (run_of_roll same s.focus s.ctx.launch).trans running
  have launch' := (launch?_of_roll same s.ctx.launch).trans launch
  refine ⟨?_, running', launch'⟩
  rw [trapEntry, if_pos inside, focus_of_roll same]
  exact endContext_of_others 3 running' launch' member other ((image_ended_of_roll same d _).trans lives)

/-- What a double trap does while another core of the launch runs on. -/
theorem trapEntry_double_effect : let t := trapEntry cause val s
    t.ctx.ended = true ∧ (∀ n, (t.ctx.thread n).live = false) ∧ SameMemory (s.makeHalves fun c _ _ => c == s.focus) t ∧
      ∃ m, t.launch? s.ctx.launch = some m ∧ m.status = max l.status 3 := by
  obtain ⟨armed, eq, running, launch⟩ := trapEntry_double cause val inside resident launch member other lives
  have ctx : (trapEntry cause val s).ctx = endedCtx ((windUp (s.snapEvent armed) s.focus s.ctx.launch).core s.focus).run := by
    rw [State.ctx, State.cur, eq, closed_focus 3 running launch, focus_of_roll (roll_snapEvent s armed), closed_core 3 running launch,
      markEnded_run]
  refine ⟨congrArg Ctx.ended ctx, fun n => ?_, sameMemory_of_byteAt ?_, _, eq ▸ closed_launch? 3 running launch, rfl⟩
  · rw [ctx, endedCtx_thread_live]
  · rw [eq, closed_byteAt 3 running launch, byteAt_snapEvent_makeHalves]

end

/-! ## The obligation -/

/-- Settles O17: outside a handler by the context that a trap leaves and by what RTE makes of it, inside one by the end of one of several
contexts. -/
theorem trapsAndReturns : Obligations.TrapsAndReturns := by
  refine ⟨fun s cause val outside => ?entry, ⟨fun s => ⟨exec_rte_user s, exec_rte_outside s, fun supervisor inside n trapped => ?rte⟩,
    fun s cause val => rte_trapEntry cause val⟩, fun s cause val l inside resident launch ⟨c, x, member, other, image, lives⟩ => ?double⟩
  case entry =>
    have ctx := trapEntry_ctx cause val outside
    have th := trapEntry_th cause val outside
    refine ⟨(congrArg Ctx.xpc ctx).trans (trapped_xpc ..), congrArg Ctx.xcause ctx, trapEntry_xval cause val outside,
      congrArg Ctx.pmode ctx, congrArg Ctx.mode ctx, congrArg Ctx.inh ctx, congrArg Ctx.tthr ctx, congrArg Thread.pc th,
      (congrArg Ctx.phase ctx :), (congrArg Thread.regs th :), (congrArg Thread.present th :), fun n other => ?_,
      sameMemory_of_byteAt (trapEntry_byteAt cause val outside), fun ra => exec_trap s⟩
    rw [ctx, trapped_thread_other _ _ _ _ other]
  case rte =>
    refine ⟨_, exec_rte_inside s supervisor inside, ?_⟩
    rw [ctx_setCtx]
    exact ⟨rfl, rfl, returned_thread_same _ trapped, fun m => returned_thread_other _ trapped, sameMemory_of_byteAt (byteAt_setCtx s _)⟩
  case double =>
    exact trapEntry_double_effect cause val inside resident launch member other (by rw [image, Option.map_some, lives])

end Sys2Proof.Laws

/-!
A switch that takes out a context which a double trap ends first (R72, R74), and obligation O47.
-/

namespace Sys2Proof.Laws

open Sys2Proof Sys2Proof.Machine

/-! ## A trap at the switch boundary (R74, R142) -/

theorem mem_pointerOrder (ptr : Nat) (n : Fin 11) : n.val ∈ pointerOrder ptr := by
  refine List.mem_map.mpr ⟨(n.val + 10 * (ptr + 1)) % 11, List.mem_range.mpr (Nat.mod_lt _ (by decide)), ?_⟩
  have := n.isLt
  omega

theorem thrOf_val (n : Fin 11) : thrOf n.val = n := dif_pos n.isLt

theorem execLogFull_of_logOver {s : State} {room : Nat} (tooLong : s.th.logOver s.ctx room s.now = true) :
    ∃ ea, execLogFull s = .next (trapEntry 7 ea s) := by
  unfold Thread.logOver at tooLong
  split at tooLong
  case h_1 len rd since ea lanes stall =>
    obtain ⟨waited, -⟩ := Bool.and_eq_true_iff.mp tooLong
    simp only [execLogFull, stall]
    exact ⟨ea, if_pos (of_decide_eq_true waited)⟩
  case h_2 => exact absurd tooLong (by decide)

/-- A live thread's store whose wait for log space is over traps at the switch boundary, before all else. -/
theorem boundaryTrap_of_logOver {s : State} {c : Nat} {n : Fin 11} (resident : (s.core c).run.resident = true)
    (runs : (s.core c).run.ended = false) (live : ((s.core c).run.thread n).live = true)
    (tooLong : ((s.core c).run.thread n).logOver (s.core c).run ({ s with focus := c } : State).logRoom s.now = true) :
    ∃ m ea, s.boundaryTrap c = { trapEntry 7 ea { s with focus := c, thr := m } with focus := s.focus, thr := s.thr } := by
  unfold State.boundaryTrap
  dsimp only
  rw [if_neg (by simp [resident, runs])]
  generalize found : (pointerOrder (s.core c).ptr).find? _ = full
  cases full with
  | none =>
    have := List.find?_eq_none.mp found n.val (mem_pointerOrder _ n)
    simp [thrOf_val, live, tooLong] at this
  | some t =>
    have holds := List.find?_some found
    obtain ⟨-, tooLong⟩ := Bool.and_eq_true_iff.mp holds
    obtain ⟨ea, traps⟩ := execLogFull_of_logOver (s := { s with focus := c, thr := thrOf t }) tooLong
    refine ⟨thrOf t, ea, ?_⟩
    dsimp only
    rw [traps]

/-! ## A switch without an incoming context (R74) -/

theorem swapOut_launches (s : State) (c : Nat) : (s.swapOut c).launches = s.launches := rfl

theorem abandon_launches (s : State) (c : Nat) : (s.abandon c).launches = s.launches := rfl

theorem exec_switchTick_out {s : State} {c a : Nat} (switch : (s.core c).switch = some ⟨a, none, none⟩) (due : a ≤ s.now)
    (resident : (s.core c).run.resident = true) : exec (.switchTick c) s =
      let v := ({ s with freed := true } : State).makeHalves fun _ _ _ => true
      .next ((((v.preempted (s.core c).run.launch).boundaryTrap c).abandon c).swapOut c) := by
  show execSwitchTick c s = _
  simp [execSwitchTick, switch, due.not_gt, resident]

/-! ## A double trap at the switch (R72, R74) -/

/-- The context of a handler whose store's wait is over ends at the switch with status 3, and does not wait to resume. -/
theorem switchTick_double {s : State} {c a d : Nat} {n : Fin 11} {l : Launch} (switch : (s.core c).switch = some ⟨a, none, none⟩)
    (due : a ≤ s.now) (whole : ∀ c k n, (c, k) ∈ s.cores → (k.run.thread n).half = none) (resident : (s.core c).run.resident = true)
    (runs : (s.core c).run.ended = false) (inside : (s.core c).run.inh = true) (live : ((s.core c).run.thread n).live = true)
    (tooLong : ((s.core c).run.thread n).logOver (s.core c).run ({ s with focus := c } : State).logRoom s.now = true)
    (launch : s.launch? (s.core c).run.launch = some l) (member : d ∈ l.cores) (other : d ≠ c)
    (lives : (s.image d (s.core c).run.launch).map (·.ended) = some false) :
    ∃ t m, exec (.switchTick c) s = .next t ∧ t.launch? (s.core c).run.launch = some m ∧ 3 ≤ m.status := by
  have halves : ({ s with freed := true } : State).makeHalves (fun _ _ _ => true) = { s with freed := true } :=
    makeHalves_eq_self fun c k n at_ half => by simp [whole c k n at_] at half
  obtain ⟨m, cores, eq⟩ : ∃ m : Launch, m.cores = l.cores ∧ ({ s with freed := true } : State).preempted (s.core c).run.launch =
      { s with freed := true, launches := s.launches.put (s.core c).run.launch m } := by
    refine ⟨_, ?_, updLaunch_of_some (s := { s with freed := true }) launch _⟩
    split
    · rfl
    · rfl
  obtain ⟨thr, ea, trap⟩ := boundaryTrap_of_logOver
    (s := { s with freed := true, launches := s.launches.put (s.core c).run.launch m }) resident runs live tooLong
  obtain ⟨armed, ends, running, launch⟩ := trapEntry_double 7 ea
    (s := { s with freed := true, launches := s.launches.put (s.core c).run.launch m, focus := c, thr := thr })
    inside resident (PMap.find?_put_same ..) (cores ▸ member) other lives
  refine ⟨_, ?last, exec_switchTick_out switch due resident, ?launch, ?status⟩
  case launch =>
    rw [halves, eq, trap, ends, State.launch?, swapOut_launches, abandon_launches]
    exact closed_launch? 3 running launch
  case status => exact Nat.le_max_right m.status 3

/-! ## The obligation -/

/-- A record of a log (R124). -/
def anyRecord : LogRec := ⟨0, 0, 0, 0, 0, 0, 0, 0, none, false, none, none⟩

/-- A context of launch 0 in a handler, whose store has waited for log space since tick 95, its cap being 5 cycles (R142). -/
def waitingHandler : Ctx :=
  { Ctx.reset.setThread 0 { Thread.reset with live := true, stall := some ⟨4, 0, .log 95 16 [(16, 0)]⟩ } with
    resident := true, mode := .supervisor, inh := true, logcap := 5, spillSize := 0 }

/-- Launch 0 runs on die 0. -/
def runningLaunch : Launch := { newLaunch 0 0 0 0 0 with state := .running, dies := [0] }

/-- Launch 0 has that context on core 0, which keeps the log `log`, and another on core 1. At tick 100, at which the store's wait is over,
a switch takes the context out of core 0. -/
def handlerSwitchedOut (log : List LogRec) : State :=
  { State.reset with
    now := 100
    launches := [(0, runningLaunch)]
    cores := [(0, { Core.reset with run := waitingHandler, log := log, switch := some ⟨100, none, none⟩ }),
      (1, { Core.reset with run := { Ctx.reset with resident := true } })] }

/-- A log that takes the whole buffer of 2,048 records (R124). -/
def fullLog : List LogRec := List.replicate 2048 anyRecord

theorem buffered_handlerSwitchedOut (log : List LogRec) :
    ({ handlerSwitchedOut log with focus := 0 } : State).cur.buffered = (log.filter fun r => r.spilled.isNone).length := rfl

theorem logRoom_handlerSwitchedOut {log : List LogRec} (full : (log.filter fun r => r.spilled.isNone).length = 2048) :
    ({ handlerSwitchedOut log with focus := 0 } : State).logRoom = 0 := by
  have size : ({ handlerSwitchedOut log with focus := 0 } : State).ctx.spillSize.toNat = 0 := rfl
  rw [State.logRoom, buffered_handlerSwitchedOut, full, size, Nat.zero_mul, Nat.zero_sub]

theorem length_filter_fullLog : (fullLog.filter fun r => r.spilled.isNone).length = 2048 := by
  rw [fullLog, List.filter_replicate_of_pos rfl, List.length_replicate]

/-- A block holds the second core of its first row. -/
theorem coreAt_mem_cores {l : Launch} {d : Nat} (die : d ∈ l.dies) : coreAt d (2 * l.cr) (4 * l.cc + 1) ∈ l.cores := by
  have rows : 0 < l.rows := by rw [Launch.rows]; omega
  have cols : 1 < l.cols := by rw [Launch.cols]; omega
  exact List.mem_flatMap.mpr
    ⟨d, die, List.mem_flatMap.mpr ⟨0, List.mem_range.mpr rows, List.mem_map.mpr ⟨1, List.mem_range.mpr cols, rfl⟩⟩⟩

theorem half_handlerSwitchedOut (log : List LogRec) (n : Fin 11) {c : Nat} {k : Core} (at_ : (c, k) ∈ (handlerSwitchedOut log).cores) :
    (k.run.thread n).half = none := by
  simp only [handlerSwitchedOut, List.mem_cons, List.not_mem_nil, or_false, Prod.mk.injEq] at at_
  obtain ⟨rfl, rfl⟩ | ⟨rfl, rfl⟩ := at_
  · exact (by decide : ∀ n, (waitingHandler.thread n).half = none) n
  · exact (by decide : ∀ n, (Ctx.reset.thread n).half = none) n

theorem switchTick_handlerSwitchedOut {log : List LogRec} (full : ({ handlerSwitchedOut log with focus := 0 } : State).logRoom = 0) :
    ∃ t m, exec (.switchTick 0) (handlerSwitchedOut log) = .next t ∧ t.launch? 0 = some m ∧ 3 ≤ m.status := by
  refine switchTick_double (d := 1) (n := 0) (l := runningLaunch) rfl (Nat.le_refl 100) (fun _ _ n => half_handlerSwitchedOut log n)
    rfl rfl rfl rfl ?tooLong rfl (coreAt_mem_cores (d := 0) (List.mem_singleton.mpr rfl)) (by decide) rfl
  case tooLong =>
    rw [full]
    rfl

/-- Refutes O47: its clause on a switch without an incoming context has every running launch wait to resume. In `handlerSwitchedOut fullLog`
the trap that the switch first takes is a double trap (R72), since the context is in a handler: it ends the context with status 3, where the
clause has the launch keep status 0. -/
theorem not_dispatching : ¬ Obligations.Dispatching := by
  intro holds
  obtain ⟨-, -, -, -, switchedOut, -⟩ := holds
  obtain ⟨t, next, -, -, -, -, -, -, -, waits⟩ := switchedOut (handlerSwitchedOut fullLog) 0 100 rfl (Nat.le_refl 100) rfl rfl
  obtain ⟨u, m, ends, launch, status⟩ := switchTick_handlerSwitchedOut (logRoom_handlerSwitchedOut length_filter_fullLog)
  obtain rfl : t = u := Host.Outcome.next.inj (next.symm.trans ends)
  obtain rfl : m = { runningLaunch with state := .preempted, arrival := 100 } :=
    Option.some.inj (launch.symm.trans (waits runningLaunch rfl rfl))
  exact absurd status (by decide)

end Sys2Proof.Laws

/-!
The integer instructions (R82, R83): the forms that they share, their results, and obligation O1.
-/

namespace Sys2Proof.Laws

open Sys2Proof Sys2Proof.Machine

/-! ## The forms (R81) -/

section
variable {s : State} {i : Instr} {len : Nat} {f : W64 → W64 → W64} {rd ra rb : SReg} {e v : W64}

theorem ready_of_has {need : List SReg} (has : s.has need = true) (k : State → Out) : ready need s k = k s := if_pos has

theorem ready_of_not_has {need : List SReg} (absent : s.has need = false) (k : State → Out) : ready need s k = wait s :=
  if_neg (ne_true_of_eq_false absent)

/-- A one-cycle instruction of two register sources gives what its function gives. -/
theorem givesNow_opRR (form : exec i s = opRR len f rd ra rb s) (has : s.has [ra, rb, rd] = true)
    (value : f (s.reg ra) (s.reg rb) = v) : GivesNow i s len rd v := by
  rw [GivesNow, form, opRR, ready_of_has has, result, value]

/-- A one-cycle instruction of a register source and a constant gives what its function gives. -/
theorem givesNow_opRI (form : exec i s = opRI len f rd ra e s) (has : s.has [ra, rd] = true) (value : f (s.reg ra) e = v) :
    GivesNow i s len rd v := by
  rw [GivesNow, form, opRI, ready_of_has has, result, value]

end

/-! ## Results (R82) -/

/-- To choose by `<` or by `≤` makes a difference only where both sides are the same. -/
theorem ite_lt_eq_ite_le {α β : Type} [LinearOrder β] {a b : β} {x y : α} (same : a = b → x = y) :
    (if a < b then x else y) = if a ≤ b then x else y := by
  rcases lt_trichotomy a b with lt | eq | gt
  · rw [if_pos lt, if_pos lt.le]
  · rw [same eq, ite_self, ite_self]
  · rw [if_neg gt.not_gt, if_neg gt.not_ge]

section
variable (a b : W64)

theorem aluSlt_eq : aluSlt a b = if a.toInt < b.toInt then 1 else 0 := by simp only [aluSlt, BitVec.slt_iff_toInt_lt]

theorem aluSltu_eq : aluSltu a b = if a.toNat < b.toNat then 1 else 0 := by simp only [aluSltu, BitVec.ult_iff_toNat_lt]

theorem aluMin_eq : aluMin a b = if a.toInt ≤ b.toInt then a else b := by
  simp only [aluMin, BitVec.slt_iff_toInt_lt]
  exact ite_lt_eq_ite_le BitVec.eq_of_toInt_eq

theorem aluMax_eq : aluMax a b = if a.toInt ≤ b.toInt then b else a := by
  simp only [aluMax, BitVec.slt_iff_toInt_lt]
  exact ite_lt_eq_ite_le fun eq => (BitVec.eq_of_toInt_eq eq).symm

theorem aluMinu_eq : aluMinu a b = if a.toNat ≤ b.toNat then a else b := by
  simp only [aluMinu, BitVec.ult_iff_toNat_lt]
  exact ite_lt_eq_ite_le BitVec.eq_of_toNat_eq

theorem aluMaxu_eq : aluMaxu a b = if a.toNat ≤ b.toNat then b else a := by
  simp only [aluMaxu, BitVec.ult_iff_toNat_lt]
  exact ite_lt_eq_ite_le fun eq => (BitVec.eq_of_toNat_eq eq).symm

theorem aluAddw_eq : aluAddw a b = ((a + b).extractLsb' 0 32).signExtend 64 := by
  rw [aluAddw, sx, BitVec.setWidth_eq_extractLsb' (by decide)]

theorem aluSubw_eq : aluSubw a b = ((a - b).extractLsb' 0 32).signExtend 64 := by
  rw [aluSubw, sx, BitVec.setWidth_eq_extractLsb' (by decide)]

theorem aluAddx1_eq : aluAddx1 a b = a + 2 * b := by rw [aluAddx1, BitVec.shiftLeft_eq_mul_twoPow, BitVec.mul_comm]; rfl

theorem aluAddx2_eq : aluAddx2 a b = a + 4 * b := by rw [aluAddx2, BitVec.shiftLeft_eq_mul_twoPow, BitVec.mul_comm]; rfl

theorem aluAddx3_eq : aluAddx3 a b = a + 8 * b := by rw [aluAddx3, BitVec.shiftLeft_eq_mul_twoPow, BitVec.mul_comm]; rfl

end

/-- The amount of a shift by an immediate (R83). -/
theorem shAmt_setWidth (sh : BitVec 6) : shAmt (sh.setWidth 64) = sh.toNat := by
  rw [shAmt, ← BitVec.setWidth_eq_extractLsb' (by decide), BitVec.setWidth_setWidth_of_le _ (by decide), BitVec.setWidth_eq]

theorem aluShl_imm (a : W64) (sh : BitVec 6) : aluShl a (sh.setWidth 64) = a <<< sh.toNat := by rw [aluShl, shAmt_setWidth]

theorem aluShr_imm (a : W64) (sh : BitVec 6) : aluShr a (sh.setWidth 64) = a >>> sh.toNat := by rw [aluShr, shAmt_setWidth]

theorem aluSra_imm (a : W64) (sh : BitVec 6) : aluSra a (sh.setWidth 64) = a.sshiftRight sh.toNat := by rw [aluSra, shAmt_setWidth]

/-! ## The obligation -/

/-- Settles O1: each instruction is of one of the two forms, and its function gives the result that the rule names. -/
theorem aluResults : Obligations.AluResults := by
  refine ⟨⟨fun s rd ra rb has => ?registers, fun s rd ra b has => ?literal⟩, fun s rd ra imm has => ?immediate, fun s rd ra e has => ?wide,
    fun s rd ra sh has => ?shift⟩
  case registers =>
    exact ⟨givesNow_opRR rfl has rfl, givesNow_opRR rfl has rfl, givesNow_opRR rfl has rfl, givesNow_opRR rfl has rfl,
      givesNow_opRR rfl has rfl, givesNow_opRR rfl has rfl, givesNow_opRR rfl has rfl, givesNow_opRR rfl has rfl,
      givesNow_opRR rfl has rfl, givesNow_opRR rfl has (aluSlt_eq ..), givesNow_opRR rfl has (aluSltu_eq ..),
      givesNow_opRR rfl has (aluMin_eq ..), givesNow_opRR rfl has (aluMax_eq ..), givesNow_opRR rfl has (aluMinu_eq ..),
      givesNow_opRR rfl has (aluMaxu_eq ..), givesNow_opRR rfl has (aluAddw_eq ..), givesNow_opRR rfl has (aluSubw_eq ..),
      givesNow_opRR rfl has (aluAddx1_eq ..), givesNow_opRR rfl has (aluAddx2_eq ..), givesNow_opRR rfl has (aluAddx3_eq ..)⟩
  case literal =>
    exact ⟨givesNow_opRI rfl has rfl, givesNow_opRI rfl has rfl, givesNow_opRI rfl has rfl, givesNow_opRI rfl has rfl,
      givesNow_opRI rfl has rfl, givesNow_opRI rfl has rfl, givesNow_opRI rfl has rfl, givesNow_opRI rfl has rfl,
      givesNow_opRI rfl has rfl, givesNow_opRI rfl has (aluSlt_eq ..), givesNow_opRI rfl has (aluSltu_eq ..),
      givesNow_opRI rfl has (aluMin_eq ..), givesNow_opRI rfl has (aluMax_eq ..), givesNow_opRI rfl has (aluMinu_eq ..),
      givesNow_opRI rfl has (aluMaxu_eq ..), givesNow_opRI rfl has (aluAddw_eq ..), givesNow_opRI rfl has (aluSubw_eq ..),
      givesNow_opRI rfl has (aluAddx1_eq ..), givesNow_opRI rfl has (aluAddx2_eq ..), givesNow_opRI rfl has (aluAddx3_eq ..)⟩
  case immediate =>
    exact ⟨givesNow_opRI rfl has rfl, givesNow_opRI rfl has rfl, givesNow_opRI rfl has rfl, givesNow_opRI rfl has rfl,
      givesNow_opRI rfl has (aluSlt_eq ..), givesNow_opRI rfl has (aluSltu_eq ..)⟩
  case wide =>
    exact ⟨givesNow_opRI rfl has rfl, givesNow_opRI rfl has rfl, givesNow_opRI rfl has rfl, givesNow_opRI rfl has rfl,
      givesNow_opRI rfl has (aluSlt_eq ..), givesNow_opRI rfl has (aluSltu_eq ..)⟩
  case shift =>
    exact ⟨givesNow_opRI rfl has (aluShl_imm ..), givesNow_opRI rfl has (aluShr_imm ..), givesNow_opRI rfl has (aluSra_imm ..)⟩

end Sys2Proof.Laws

/-!
The multiplies, divisions and bit operations (R84, R85): their results, and obligation O2.
-/

namespace Sys2Proof.Laws

open Sys2Proof Sys2Proof.Machine

/-! ## The forms (R80, R84, R85) -/

section
variable {s : State} {i : Instr} {f : W64 → W64 → W64} {rd ra rb : SReg} {b v : W64}

theorem th_setCtx (s : State) (x : Ctx) : (s.setCtx x).th = x.thread s.thr := congrArg (·.thread s.thr) (ctx_setCtx s x)

theorem givesAt_mulRR (form : exec i s = mulRR f rd ra rb s) (has : s.has [ra, rb, rd] = true) (value : f (s.reg ra) (s.reg rb) = v) :
    GivesAt i s 4 rd v 3 := by
  rw [GivesAt, form, mulRR, ready_of_has has, resultAt, value]

theorem givesAt_mulRL (form : exec i s = mulRL f rd ra b s) (has : s.has [ra, rd] = true) (value : f (s.reg ra) b = v) :
    GivesAt i s 12 rd v 3 := by
  rw [GivesAt, form, mulRL, ready_of_has has, resultAt, value]

/-- A division by `b`: its result is on its way, and a zero divisor has set `xstat.DIVZ`. -/
theorem resultAt_setDivz (len lat : Nat) (b v : W64) : resultAt len rd v lat (s.setDivz (b == 0)) =
    .next ((if b = 0 then s.setCtx { s.ctx with divz := true } else s).setTh ((s.th.later rd v (s.now + lat)).past len)) := by
  have th : (s.setCtx { s.ctx with divz := true }).th = s.th := th_setCtx s _
  by_cases zero : b = 0
  · rw [resultAt, State.setDivz, if_pos (beq_iff_eq.mpr zero), if_pos zero, th, setCtx_now]
  · rw [resultAt, State.setDivz, if_neg (mt beq_iff_eq.mp zero), if_neg zero]

theorem exec_divRR (form : exec i s = divRR f rd ra rb s) (has : s.has [ra, rb, rd] = true) (value : f (s.reg ra) (s.reg rb) = v) :
    exec i s = .next ((if s.reg rb = 0 then s.setCtx { s.ctx with divz := true } else s).setTh
      ((s.th.later rd v (s.now + 20)).past 4)) := by
  rw [form, divRR, ready_of_has has, resultAt_setDivz, value]

theorem exec_divRL (form : exec i s = divRL f rd ra b s) (has : s.has [ra, rd] = true) (value : f (s.reg ra) b = v) :
    exec i s = .next ((if b = 0 then s.setCtx { s.ctx with divz := true } else s).setTh ((s.th.later rd v (s.now + 20)).past 12)) := by
  rw [form, divRL, ready_of_has has, resultAt_setDivz, value]

theorem givesNow_opR {g : W64 → W64} (form : exec i s = opR g rd ra s) (has : s.has [ra, rd] = true) : GivesNow i s 4 rd (g (s.reg ra)) := by
  rw [GivesNow, form, opR, ready_of_has has, result]

end

/-! ## Products, quotients and remainders (R84) -/

section
variable (a b : W64)

theorem mulLow_eq : mulLow a b = BitVec.ofInt 64 (a.toInt * b.toInt) := by
  rw [mulLow, BitVec.ofInt_mul, BitVec.ofInt_toInt, BitVec.ofInt_toInt]

/-- The high half of a number's 128 bits is the low half of its quotient by 2^64. -/
theorem ofInt_high (z : Int) : (BitVec.ofInt 128 z).extractLsb' 64 64 = BitVec.ofInt 64 (z / 2 ^ 64) := by
  apply BitVec.eq_of_toNat_eq
  rw [BitVec.extractLsb'_toNat, BitVec.toNat_ofInt, BitVec.toNat_ofInt, Nat.shiftRight_eq_div_pow]
  simp only [Nat.reducePow, Nat.cast_ofNat, Int.reducePow]
  omega

theorem mulHigh_eq : mulHigh a b = BitVec.ofInt 64 (a.toInt * b.toInt / 2 ^ 64) := by
  rw [mulHigh, BitVec.signExtend, BitVec.signExtend, ← BitVec.ofInt_mul, ofInt_high]

theorem mulHighU_eq : mulHighU a b = BitVec.ofNat 64 (a.toNat * b.toNat / 2 ^ 64) := by
  have product : (a.setWidth 128 * b.setWidth 128 : BitVec 128) = BitVec.ofInt 128 (a.toNat * b.toNat : Nat) := by
    rw [BitVec.ofInt_natCast, BitVec.ofNat_mul, BitVec.ofNat_toNat, BitVec.ofNat_toNat]
  rw [mulHighU, product, ofInt_high]
  exact BitVec.ofInt_natCast ..

/-- Widening keeps the low bits. -/
theorem setWidth_sx (w : W32) : (sx w).setWidth 32 = w := by
  refine BitVec.eq_of_getLsbD_eq fun i hi => ?_
  simp [sx, BitVec.getElem_signExtend, hi, show i < 64 by omega]

theorem setWidth_eq_ofInt : a.setWidth 32 = BitVec.ofInt 32 a.toInt := (BitVec.signExtend_eq_setWidth_of_le a (by decide)).symm

theorem mulWord_eq : mulWord a b = (BitVec.ofInt 32 (a.toInt * b.toInt)).signExtend 64 := by
  rw [mulWord, BitVec.setWidth_mul _ _ (by decide), setWidth_sx, setWidth_sx, setWidth_eq_ofInt, setWidth_eq_ofInt, ← BitVec.ofInt_mul, sx]

theorem divS_eq : divS a b = if b = 0 then -1 else BitVec.ofInt 64 (a.toInt.tdiv b.toInt) := rfl

theorem divU_eq : divU a b = if b = 0 then -1 else BitVec.ofNat 64 (a.toNat / b.toNat) := by
  rw [divU, ← BitVec.toNat_udiv, BitVec.ofNat_toNat, BitVec.setWidth_eq]
  rfl

theorem remU_eq : remU a b = if b = 0 then a else BitVec.ofNat 64 (a.toNat % b.toNat) := by
  rw [remU, ← BitVec.toNat_umod, BitVec.ofNat_toNat, BitVec.setWidth_eq]

end

/-! ## Counting bits (R85) -/

/-- The number of elements that a condition holds of before the first one that it fails on. -/
theorem takeWhile_length_eq_findIdx {α : Type} (p : α → Bool) (l : List α) : (l.takeWhile p).length = l.findIdx (!p ·) := by
  rw [List.takeWhile_eq_take_findIdx_not, List.length_take, min_eq_left List.findIdx_le_length]

/-- A count of bits up to 64 fits its word. -/
theorem toNat_ofNat_of_le {n : Nat} (le : n ≤ 64) : (BitVec.ofNat 64 n).toNat = n := by
  rw [BitVec.toNat_ofNat, Nat.mod_eq_of_lt (by omega)]

/-- How many of 64 bits, looked at in some order, are zero before the first one that is not. -/
theorem count_zeros (a : W64) {l : List Nat} (len : l.length = 64) {place : Nat → Nat} (at_ : ∀ j (h : j < l.length), l[j] = place j) :
    let v : W64 := BitVec.ofNat 64 (l.takeWhile fun j => !a.getLsbD j).length
    v.toNat ≤ 64 ∧ (∀ j < v.toNat, a.getLsbD (place j) = false) ∧ (v.toNat < 64 → a.getLsbD (place v.toNat) = true) := by
  have le : l.findIdx (!!a.getLsbD ·) ≤ 64 := List.findIdx_le_length.trans_eq len
  dsimp only
  rw [takeWhile_length_eq_findIdx, toNat_ofNat_of_le le]
  refine ⟨le, fun j before => ?_, fun inside => ?_⟩
  · have := List.not_of_lt_findIdx before
    rw [at_] at this
    simpa using this
  · have := List.findIdx_getElem (w := inside.trans_eq len.symm)
    rw [at_] at this
    simpa using this

section
variable (a : W64)

theorem bitClz_spec : (bitClz a).toNat ≤ 64 ∧ (∀ j < (bitClz a).toNat, a.getLsbD (63 - j) = false) ∧
    ((bitClz a).toNat < 64 → a.getLsbD (63 - (bitClz a).toNat) = true) :=
  count_zeros a (by decide) fun j h => by simp

theorem bitCtz_spec : (bitCtz a).toNat ≤ 64 ∧ (∀ j < (bitCtz a).toNat, a.getLsbD j = false) ∧
    ((bitCtz a).toNat < 64 → a.getLsbD (bitCtz a).toNat = true) :=
  count_zeros a (by decide) fun j h => List.getElem_range h

theorem bitPopc_spec : (bitPopc a).toNat = ((List.range 64).filter fun j => a.getLsbD j).length :=
  toNat_ofNat_of_le ((List.length_filter_le ..).trans_eq List.length_range)

theorem bitRev_spec {j : Nat} (inside : j < 64) : (bitRev a).getLsbD j = a.getLsbD (63 - j) := by
  rw [bitRev, BitVec.getLsbD_reverse, BitVec.getMsbD, decide_eq_true inside, Bool.true_and]

theorem byteSwap_spec {j : Nat} (inside : j < 8) : (byteSwap a).extractLsb' (8 * j) 8 = a.extractLsb' (8 * (7 - j)) 8 := by
  refine BitVec.eq_of_getLsbD_eq fun i hi => ?_
  simp only [byteSwap, BitVec.getLsbD_extractLsb', BitVec.getLsbD_append, hi]
  interval_cases j <;> grind

end

/-! ## Fields (R85) -/

section
variable (b : W64)

theorem bitPos_eq : bitPos b = b.toNat % 64 := by rw [bitPos, BitVec.extractLsb'_toNat, Nat.shiftRight_zero]

theorem bitLen_eq : bitLen b = min (b.toNat / 256 % 128) 64 := by rw [bitLen, BitVec.extractLsb'_toNat, Nat.shiftRight_eq_div_pow]

theorem bitExt_eq (a : W64) :
    bitExt a b = (a >>> (b.toNat % 64)) &&& BitVec.ofNat 64 (2 ^ min (b.toNat / 256 % 128) 64 - 1) := by
  rw [bitExt, ones, bitPos_eq, bitLen_eq]

theorem bitIns_eq (d a : W64) : bitIns d a b =
    let field : W64 := BitVec.ofNat 64 (2 ^ min (b.toNat / 256 % 128) 64 - 1) <<< (b.toNat % 64)
    (d &&& ~~~field) ||| ((a <<< (b.toNat % 64)) &&& field) := by
  rw [bitIns, ones, bitPos_eq, bitLen_eq]

end

/-! ## The obligation -/

/-- Settles O2: each instruction is of one of the forms, and its function gives the result that the rule names. -/
theorem mulDivAndBitopResults : Obligations.MulDivAndBitopResults := by
  refine ⟨⟨fun s rd ra rb has => ?registers, fun s rd ra b has => ?literal⟩,
    fun s rd ra has => ?counts, fun s rd ra rb has => ?fields, fun s rd ra b has => ?fieldsLit⟩
  case registers =>
    exact ⟨givesAt_mulRR rfl has (mulLow_eq ..), givesAt_mulRR rfl has (mulHigh_eq ..), givesAt_mulRR rfl has (mulHighU_eq ..),
      givesAt_mulRR rfl has (mulWord_eq ..), exec_divRR rfl has (divS_eq ..), exec_divRR rfl has (divU_eq ..), exec_divRR rfl has rfl,
      exec_divRR rfl has (remU_eq ..)⟩
  case literal =>
    exact ⟨givesAt_mulRL rfl has (mulLow_eq ..), givesAt_mulRL rfl has (mulHigh_eq ..), givesAt_mulRL rfl has (mulHighU_eq ..),
      givesAt_mulRL rfl has (mulWord_eq ..), exec_divRL rfl has (divS_eq ..), exec_divRL rfl has (divU_eq ..), exec_divRL rfl has rfl,
      exec_divRL rfl has (remU_eq ..)⟩
  case counts =>
    exact ⟨⟨_, givesNow_opR rfl has, bitClz_spec _⟩, ⟨_, givesNow_opR rfl has, bitCtz_spec _⟩, ⟨_, givesNow_opR rfl has, bitPopc_spec _⟩,
      ⟨_, givesNow_opR rfl has, fun _ => bitRev_spec _⟩, ⟨_, givesNow_opR rfl has, fun _ => byteSwap_spec _⟩⟩
  case fields => exact ⟨givesNow_opRR rfl has (bitExt_eq ..), givesNow_opRR rfl has (bitIns_eq ..)⟩
  case fieldsLit => exact ⟨givesNow_opRI rfl has (bitExt_eq ..), givesNow_opRI rfl has (bitIns_eq ..)⟩

end Sys2Proof.Laws

/-!
Branches and jumps (R86, R87): where they go, and obligation O3.
-/

namespace Sys2Proof.Laws

open Sys2Proof Sys2Proof.Machine

section
variable {s : State} {i : Instr} {ra rs : SReg}

/-- A conditional branch goes where its condition says. -/
theorem exec_branch {cond : W64 → W64 → Bool} {imm : BitVec 14} (form : exec i s = branch cond ra rs imm s) (has : s.has [ra, rs] = true)
    {pc : W64} (target : (if cond (s.reg ra) (s.reg rs) then relTarget s.th.pc imm else s.th.pc + 4) = pc) :
    exec i s = .next (s.setTh { s.th with pc := pc, stall := none, readyAt := s.now + 2 }) := by
  subst target
  rw [form, branch, ready_of_has has]
  rfl

theorem exec_jal {off : BitVec 24} (has : s.has [1] = true) : exec (.jal off) s =
    .next (s.setTh { s.th.setReg 1 (s.th.pc + 4) with pc := s.th.pc + 4 * off.signExtend 64, stall := none, readyAt := s.now + 2 }) := by
  show execJal off s = _
  rw [execJal, ready_of_has has]
  rfl

theorem exec_jumpReg {len off : W64} (form : exec i s = jumpReg len ra off s) (has : s.has [ra, 1] = true) : exec i s =
    .next (s.setTh { s.th.setReg 1 (s.th.pc + len) with pc := (s.reg ra + off) &&& ~~~3, stall := none, readyAt := s.now + 2 }) :=
  form.trans (ready_of_has has _)

end

/-- Settles O3: a branch by what its condition compares, a jump by its target. -/
theorem branchesAndJumps : Obligations.BranchesAndJumps := by
  refine ⟨fun s ra rs imm has => ?branches, fun s off => ⟨rfl, exec_jal⟩,
    fun s ra imm lit has => ⟨exec_jumpReg rfl has, exec_jumpReg rfl has⟩⟩
  case branches =>
    refine ⟨exec_branch rfl has ?beq, exec_branch rfl has ?bne, exec_branch rfl has ?blt,
      exec_branch (cond := fun a b => !a.slt b) rfl has ?bge, exec_branch rfl has ?bltu,
      exec_branch (cond := fun a b => !a.ult b) rfl has ?bgeu⟩
    case beq => simp only [beq_iff_eq]; rfl
    case bne => simp only [bne_iff_ne, ite_not]; rfl
    case blt => simp only [BitVec.slt_iff_toInt_lt]; rfl
    case bge => simp only [Bool.not_eq_true', ← Bool.not_eq_true, BitVec.slt_iff_toInt_lt, ite_not]; rfl
    case bltu => simp only [BitVec.ult_iff_toNat_lt]; rfl
    case bgeu => simp only [Bool.not_eq_true', ← Bool.not_eq_true, BitVec.ult_iff_toNat_lt, ite_not]; rfl

end Sys2Proof.Laws

/-!
Scalar registers and their presence (R50, R55, R81): absent operands, the frame of the register instructions, and obligation O4.
-/

namespace Sys2Proof.Laws

open Sys2Proof Sys2Proof.Machine

/-! ## Absent operands (R81) -/

theorem has_of_perm {l m : List SReg} (perm : l.Perm m) (s : State) : s.has l = s.has m := perm.all_eq

/-- An instruction whose operands are not all present waits: each looks at them before anything else. -/
theorem exec_of_absent {i : Instr} {l : List SReg} {s : State} (operands : operandsOf i = some l) (absent : s.has l = false) :
    exec i s = wait s := by
  cases i
  case sobind rd ra rb =>
    cases operands
    have perm : [rd, ra, rb].Perm [ra, rb, rd] := List.perm_append_comm (l₁ := [rd])
    exact if_neg (ne_true_of_eq_false ((has_of_perm perm s).trans absent))
  all_goals cases operands
  all_goals exact if_neg (ne_true_of_eq_false absent)

/-! ## Registers of a thread (R50, R55, R81) -/

section
variable (t : Thread) (r q : SReg) (v : W64)

@[simp] theorem reg_zero : t.reg 0 = 0 := rfl

@[simp] theorem has_zero : t.has 0 = true := rfl

@[simp] theorem setReg_zero : t.setReg 0 v = t := rfl

@[simp] theorem expect_zero : t.expect 0 = t := rfl

@[simp] theorem arrive_zero : t.arrive 0 v = t := rfl

@[simp] theorem later_zero (due : Nat) (load : Bool) : t.later 0 v due load = t := rfl

theorem reg_of_ne_zero {r : SReg} (ne : r ≠ 0) : t.reg r = t.regs[r.toNat]'r.isLt := if_neg ne

theorem has_of_ne_zero {r : SReg} (ne : r ≠ 0) : t.has r = t.present.getLsbD r.toNat := by
  rw [Thread.has, beq_false_of_ne ne, Bool.false_or]

theorem setReg_of_ne_zero {r : SReg} (ne : r ≠ 0) : t.setReg r v =
    { t with regs := t.regs.set r.toNat v r.isLt, present := t.present ||| BitVec.twoPow 32 r.toNat } := if_neg ne

theorem expect_of_ne_zero {r : SReg} (ne : r ≠ 0) : t.expect r =
    { t with present := t.present &&& ~~~BitVec.twoPow 32 r.toNat, pending := t.pending ||| BitVec.twoPow 32 r.toNat } := if_neg ne

theorem arrive_of_ne_zero {r : SReg} (ne : r ≠ 0) :
    t.arrive r v = { t.setReg r v with pending := t.pending &&& ~~~BitVec.twoPow 32 r.toNat } := if_neg ne

theorem later_of_ne_zero {r : SReg} (ne : r ≠ 0) (due : Nat) (load : Bool) :
    t.later r v due load = { t.expect r with results := t.results ++ [⟨r, v, due, load⟩] } := if_neg ne

theorem reg_setReg_same {r : SReg} (ne : r ≠ 0) : (t.setReg r v).reg r = v := by
  rw [reg_of_ne_zero _ ne, setReg_of_ne_zero t v ne]
  exact Vector.getElem_set_self _

theorem has_setReg_same : (t.setReg r v).has r = true := by
  by_cases zero : r = 0
  · rw [zero, has_zero]
  · rw [has_of_ne_zero _ zero, setReg_of_ne_zero t v zero]
    simp [show r.toNat < 32 from r.isLt]

variable {r q}

theorem reg_setReg_other (other : q ≠ r) : (t.setReg r v).reg q = t.reg q := by
  have apart : r.toNat ≠ q.toNat := fun eq => other (BitVec.eq_of_toNat_eq eq.symm)
  by_cases zero : r = 0
  · rw [zero, setReg_zero]
  · rw [setReg_of_ne_zero t v zero, Thread.reg, Thread.reg]
    simp only [Vector.getElem_set_ne _ _ apart]

theorem getLsbD_twoPow_other (other : q ≠ r) : (BitVec.twoPow 32 r.toNat).getLsbD q.toNat = false := by
  have apart : r.toNat ≠ q.toNat := fun eq => other (BitVec.eq_of_toNat_eq eq.symm)
  simp [BitVec.getLsbD_twoPow, apart]

theorem has_setReg_other (other : q ≠ r) : (t.setReg r v).has q = t.has q := by
  by_cases zero : r = 0
  · rw [zero, setReg_zero]
  · rw [setReg_of_ne_zero t v zero, Thread.has, Thread.has, BitVec.getLsbD_or, getLsbD_twoPow_other other, Bool.or_false]

theorem has_expect_other (other : q ≠ r) : (t.expect r).has q = t.has q := by
  by_cases zero : r = 0
  · rw [zero, expect_zero]
  · rw [expect_of_ne_zero t zero, Thread.has, Thread.has, BitVec.getLsbD_and, BitVec.getLsbD_not, getLsbD_twoPow_other other]
    simp [show q.toNat < 32 from q.isLt]

theorem has_expect_same (ne : r ≠ 0) : (t.expect r).has r = false := by
  rw [has_of_ne_zero _ ne, expect_of_ne_zero t ne]
  simp

theorem reg_expect : (t.expect r).reg q = t.reg q := by
  by_cases zero : r = 0
  · rw [zero, expect_zero]
  · rw [expect_of_ne_zero t zero]
    rfl

end

/-! ## The frame of the register instructions -/

/-- `h` is the thread `t` with register `d`, its presence, results on their way, the PC, the stall and the tick of the next issue changed. -/
def RegUpdate (d : SReg) (t h : Thread) : Prop :=
  (∀ r, r ≠ d → h.reg r = t.reg r ∧ h.has r = t.has r) ∧
    { h with regs := t.regs, present := t.present, pending := t.pending, results := t.results, pc := t.pc, stall := t.stall,
             readyAt := t.readyAt, half := t.half } = t

/-- Nothing but the issuing thread differs, and of it no register but `d`; no byte of memory does. -/
def RegFrame (d : SReg) (s t : State) : Prop := OnlyThread s t ∧ OnlyRegs [d] s t ∧ SameMemory s t

section
variable {d : SReg} {t h : Thread} {s u : State}

theorem regUpdate_refl (d : SReg) (t : Thread) : RegUpdate d t t := ⟨fun _ _ => ⟨rfl, rfl⟩, rfl⟩

theorem regUpdate_setReg (d : SReg) (t : Thread) (v : W64) : RegUpdate d t (t.setReg d v) := by
  refine ⟨fun r other => ⟨reg_setReg_other t v other, has_setReg_other t v other⟩, ?_⟩
  by_cases zero : d = 0
  · rw [zero, setReg_zero]
  · rw [setReg_of_ne_zero t v zero]

theorem regUpdate_later (d : SReg) (t : Thread) (v : W64) (due : Nat) (load : Bool) : RegUpdate d t (t.later d v due load) := by
  by_cases zero : d = 0
  · rw [zero, later_zero]
    exact regUpdate_refl 0 t
  · rw [later_of_ne_zero t v zero]
    refine ⟨fun r other => ⟨reg_expect (r := d) t, has_expect_other t other⟩, ?_⟩
    rw [expect_of_ne_zero t zero]

theorem RegUpdate.past (upd : RegUpdate d t h) (len : Nat) : RegUpdate d t (h.past len) := upd

theorem RegUpdate.goto (upd : RegUpdate d t h) (pc : W64) (at_ : Nat) : RegUpdate d t (h.goto pc at_) := upd

theorem regFrame_setTh (upd : RegUpdate d s.th h) : RegFrame d s (s.setTh h) := by
  refine ⟨onlyThread_setTh s h, ⟨fun r outside => ?_, ?_⟩, sameMemory_setTh s h⟩
  · rw [State.reg, State.reg, th_setTh]
    exact upd.1 r (List.ne_of_not_mem_cons outside)
  · rw [th_setTh]
    exact upd.2

/-- An attempt that does not go on changes nothing. -/
theorem regFrame_wait : RegFrame d s { s with waiting := true } :=
  ⟨⟨rfl, fun _ _ => rfl, rfl, rfl, fun _ _ => rfl⟩, ⟨fun _ _ => ⟨rfl, rfl⟩, rfl⟩, fun p => by cases p <;> rfl⟩

/-- An instruction that, with its operands present, updates the issuing thread alone. -/
theorem regFrame_of_ready {need : List SReg} {k : State → Out} {f : State → Thread} (goes : ∀ s, k s = .next (s.setTh (f s)))
    (upd : ∀ s, RegUpdate d s.th (f s)) (next : ready need s k = .next u) : RegFrame d s u := by
  unfold ready at next
  split at next
  · obtain rfl := Host.Outcome.next.inj ((goes s).symm.trans next)
    exact regFrame_setTh (upd s)
  · obtain rfl := Host.Outcome.next.inj next
    exact regFrame_wait

variable {len : Nat} {f : W64 → W64 → W64} {ra rb : SReg} {e : W64}

theorem regFrame_opRR (next : opRR len f d ra rb s = .next u) : RegFrame d s u :=
  regFrame_of_ready (fun _ => rfl) (fun _ => (regUpdate_setReg ..).past _) next

theorem regFrame_opRI (next : opRI len f d ra e s = .next u) : RegFrame d s u :=
  regFrame_of_ready (fun _ => rfl) (fun _ => (regUpdate_setReg ..).past _) next

theorem regFrame_opR {g : W64 → W64} (next : opR g d ra s = .next u) : RegFrame d s u :=
  regFrame_of_ready (fun _ => rfl) (fun _ => (regUpdate_setReg ..).past _) next

theorem regFrame_mulRR (next : mulRR f d ra rb s = .next u) : RegFrame d s u :=
  regFrame_of_ready (fun _ => rfl) (fun _ => (regUpdate_later ..).past _) next

theorem regFrame_mulRL (next : mulRL f d ra e s = .next u) : RegFrame d s u :=
  regFrame_of_ready (fun _ => rfl) (fun _ => (regUpdate_later ..).past _) next

theorem regFrame_branch {cond : W64 → W64 → Bool} {imm : BitVec 14} (next : branch cond ra rb imm s = .next u) : RegFrame 0 s u :=
  regFrame_of_ready (fun _ => rfl) (fun _ => (regUpdate_refl ..).goto _ _) next

theorem regFrame_jumpReg {l : W64} (next : jumpReg l ra e s = .next u) : RegFrame 1 s u :=
  regFrame_of_ready (fun _ => rfl) (fun _ => (regUpdate_setReg ..).goto _ _) next

end

/-- A register instruction changes no more than its destination and its thread's own progress. -/
theorem exec_regFrame {i : Instr} {d : SReg} {s t : State} (dest : registerDest i = some d) (next : exec i s = .next t) : RegFrame d s t := by
  cases i
  case add | sub | and | or | xor | andn | shl | shr | sra | slt | sltu | min | max | minu | maxu | addw | subw | addx1 | addx2 | addx3 |
      bext | bins =>
    cases dest
    exact regFrame_opRR next
  case addLit | subLit | andLit | orLit | xorLit | andnLit | shlLit | shrLit | sraLit | sltLit | sltuLit | minLit | maxLit | minuLit |
      maxuLit | addwLit | subwLit | addx1Lit | addx2Lit | addx3Lit | addi | andi | ori | xori | slti | sltiu | addiLit | andiLit | oriLit |
      xoriLit | sltiLit | sltiuLit | shli | shri | srai | bextLit | binsLit =>
    cases dest
    exact regFrame_opRI next
  case clz | ctz | popc | brev | bswap =>
    cases dest
    exact regFrame_opR next
  case mul | mulh | mulhu | mulw =>
    cases dest
    exact regFrame_mulRR next
  case mulLit | mulhLit | mulhuLit | mulwLit =>
    cases dest
    exact regFrame_mulRL next
  case beq | bne | blt | bltu =>
    cases dest
    exact regFrame_branch next
  case bge =>
    cases dest
    exact regFrame_branch (cond := fun a b => !a.slt b) next
  case bgeu =>
    cases dest
    exact regFrame_branch (cond := fun a b => !a.ult b) next
  case j off =>
    cases dest
    cases next
    exact regFrame_setTh ((regUpdate_refl ..).goto _ _)
  case jal off =>
    cases dest
    exact regFrame_of_ready (fun _ => rfl) (fun _ => (regUpdate_setReg ..).goto _ _) (show execJal off s = .next t from next)
  case jalr | jalrLit =>
    cases dest
    exact regFrame_jumpReg next
  all_goals cases dest

/-! ## The obligation -/

/-- Settles O4: absent operands by the test that every listed instruction begins with, the frame by what the register instructions make of
their thread, and `s0` by the registers' own laws. -/
theorem registerDiscipline : Obligations.RegisterDiscipline := by
  refine ⟨fun i l s => exec_of_absent, fun i d s t => exec_regFrame, fun t r v due => ⟨rfl, rfl, rfl, rfl, rfl, fun ne => ?_, fun q other =>
    ⟨reg_setReg_other t v other, has_setReg_other t v other⟩⟩⟩
  rw [arrive_of_ne_zero t v ne, later_of_ne_zero t v ne]
  exact ⟨reg_setReg_same t v ne, has_setReg_same .., reg_setReg_same t v ne, has_setReg_same .., has_expect_same t ne, reg_expect t⟩

end Sys2Proof.Laws

/-!
Helper threads (R92, R93): the helper that HSTART makes, the live mask, waits for a helper, its end, and obligation O10.
-/

namespace Sys2Proof.Laws

open Sys2Proof Sys2Proof.Machine

/-! ## The forms of the CTX group (R61, R62) -/

section
variable (s : State)

theorem controlOnly_control {i : Instr} {k : State → Out} (control : s.thr = 0) : controlOnly i s k = k s := if_pos control

theorem controlOnly_helper {i : Instr} {k : State → Out} (helper : s.thr ≠ 0) : controlOnly i s k = .next (trapEntry 11 (w0x i) s) :=
  if_neg helper

theorem stallOn_fresh {len : Nat} {rd : SReg} {w : Wait} (fresh : s.th.stall = none) :
    stallOn len rd w s = .next (s.setTh { s.th with stall := some ⟨len, rd, w⟩ }) := by
  rw [stallOn, fresh]
  rfl

theorem byteAt_setTh (h : Thread) : (s.setTh h).byteAt = s.byteAt := byteAt_setCtx s _

theorem thread_setTh_other {n : Fin 11} (other : n ≠ s.thr) (h : Thread) : (s.setTh h).ctx.thread n = s.ctx.thread n := by
  rw [ctx_setTh, thread_setThread_other _ other]

theorem core_closeStream_keeps {α : Type} {g : Core → α} (keeps : ∀ k p, g { k with port := p } = g k) (t : Thread) (c : Nat) :
    g ((s.closeStream t).core c) = g (s.core c) := by
  unfold State.closeStream
  split
  · rfl
  · exact core_setCore_keeps _ (keeps _ _) c

end

/-! ## HSTART (R92) -/

section
variable {x : Ctx}

theorem freeHelper_eq_none (busy : ∀ n, n ≠ 0 → (x.thread n).live = true) : x.freeHelper = none := by
  refine List.find?_eq_none.mpr fun n _ => ?_
  by_cases control : n = 0
  · simp [control]
  · simp [busy n control]

theorem freeHelper_eq_some {n : Fin 11} (helper : n ≠ 0) (free : (x.thread n).live = false)
    (lowest : ∀ m, m ≠ 0 → m < n → (x.thread m).live = true) : x.freeHelper = some n := by
  refine List.find?_eq_some_iff_getElem.mpr ⟨by simp [helper, free], n.val, by simp, by simp, fun j before => ?_⟩
  simp only [List.getElem_finRange, Fin.cast_mk]
  by_cases control : (⟨j, before.trans n.isLt⟩ : Fin 11) = 0
  · simp [control]
  · simp [lowest _ control before]

end

section
variable (old : Thread) (n : Fin 11) (a b : W64) (at_ seq : Nat)

theorem helper_reg_two : (old.helper n a b at_ seq).reg 2 = b := by
  rw [Thread.helper]
  exact (reg_setReg_other _ _ (by decide)).trans (reg_setReg_same _ _ (by decide))

theorem helper_reg_three : (old.helper n a b at_ seq).reg 3 = BitVec.ofNat 64 n.val := by
  rw [Thread.helper]
  exact reg_setReg_same _ _ (by decide)

theorem helper_reg_other {r : SReg} (two : r ≠ 2) (three : r ≠ 3) : (old.helper n a b at_ seq).reg r = 0 := by
  rw [Thread.helper]
  refine (reg_setReg_other _ _ three).trans ((reg_setReg_other _ _ two).trans ?_)
  by_cases zero : r = 0
  · rw [zero, reg_zero]
  · rw [reg_of_ne_zero _ zero]
    exact Vector.getElem_replicate _

theorem has_setReg_of_has {t : Thread} {q : SReg} (has : t.has q = true) (r : SReg) (v : W64) : (t.setReg r v).has q = true := by
  by_cases same : q = r
  · rw [same, has_setReg_same]
  · rw [has_setReg_other t v same, has]

theorem helper_has (r : SReg) : (old.helper n a b at_ seq).has r = true :=
  has_setReg_of_has (has_setReg_of_has ((by decide : ∀ r, Thread.reset.has r = true) r) 2 b) 3 (BitVec.ofNat 64 n.val)

theorem helper_start : let h := old.helper n a b at_ seq
    h.live = true ∧ h.pc = a &&& ~~~3 ∧ h.inc = old.inc + 1 ∧ h.readyAt = at_ ∧ h.startL = seq := ⟨rfl, rfl, rfl, rfl, rfl⟩

/-- A thread's local loads have completed by the tick that HSTART looks at. -/
theorem due_le_loadsDone {t : Thread} {r : Result} (member : r ∈ t.results) (load : r.load = true) : r.due ≤ t.loadsDone := by
  rw [Thread.loadsDone, List.foldl_max]
  exact le_max_of_le_right (List.le_max?_getD_of_mem (List.mem_map_of_mem (List.mem_filter.mpr ⟨member, load⟩)))

end

/-- The state in which helper `n` has been started, at `a` with the argument `b`. -/
def startHelper (s : State) (n : Fin 11) (a b : W64) : State :=
  s.setCtx (s.ctx.setThread n ((s.ctx.thread n).helper n a b s.th.loadsDone s.seq))

section
variable (s : State) {n : Fin 11} (a b : W64)

theorem startHelper_thread_same : (startHelper s n a b).ctx.thread n = (s.ctx.thread n).helper n a b s.th.loadsDone s.seq := by
  rw [startHelper, ctx_setCtx, thread_setThread_same]

theorem startHelper_thread_other {m : Fin 11} (other : m ≠ n) : (startHelper s n a b).ctx.thread m = s.ctx.thread m := by
  rw [startHelper, ctx_setCtx, thread_setThread_other _ other]

theorem startHelper_th (other : n ≠ s.thr) : (startHelper s n a b).th = s.th := startHelper_thread_other s a b other.symm

end

section
variable {s : State} {i : Instr} {len : Nat} {need : List SReg} {rd ra : SReg} {arg : State → W64}
  (form : exec i s = hstart i len need rd ra arg s) (has : s.has need = true)
include form has

theorem exec_hstart_helper (helper : s.thr ≠ 0) : exec i s = .next (trapEntry 11 (w0x i) s) := by
  rw [form, hstart, ready_of_has has, controlOnly_helper s helper]

theorem exec_hstart_none (control : s.thr = 0) (busy : ∀ n, n ≠ 0 → (s.ctx.thread n).live = true) : GivesNow i s len rd 0 := by
  rw [GivesNow, form, hstart, ready_of_has has, controlOnly_control s control, freeHelper_eq_none busy]
  rfl

theorem exec_hstart_some (control : s.thr = 0) {n : Fin 11} (helper : n ≠ 0) (free : s.ctx.freeHelper = some n) : exec i s =
    .next ((startHelper s n (s.reg ra) (arg s)).setTh ((s.th.setReg rd (BitVec.ofNat 64 n.val)).past len)) := by
  rw [form, hstart, ready_of_has has, controlOnly_control s control, free]
  show Host.Outcome.next ((startHelper s n (s.reg ra) (arg s)).setTh (((startHelper s n (s.reg ra) (arg s)).th.setReg rd _).past len)) = _
  rw [startHelper_th s _ _ (control ▸ helper)]

end

/-- A helper that HSTART has started waits for the control thread's earlier local loads from other cores (R92). -/
theorem mayIssue_of_load {s : State} {l : LocalLoad} (member : l ∈ s.locals) (core : l.core = s.focus) (launch : l.launch = s.ctx.launch)
    (thr : l.thr = 0) (earlier : l.seq < s.th.startL) (fresh : s.th.stall = none) : s.mayIssue = false := by
  have waits : s.started = false := List.all_eq_false.mpr ⟨l, member, by simp [core, launch, thr, earlier]⟩
  simp [State.mayIssue, fresh, waits]

/-! ## HSTAT (R93) -/

/-- The number whose bits below `k` a condition gives. -/
def maskOf (q : Nat → Bool) (k : Nat) : Nat := (List.range k).foldl (fun m j => if q j then m + 2 ^ j else m) 0

theorem maskOf_succ (q : Nat → Bool) (k : Nat) : maskOf q (k + 1) = if q k then maskOf q k + 2 ^ k else maskOf q k := by
  rw [maskOf, List.range_succ, List.foldl_append, List.foldl_cons, List.foldl_nil, maskOf]

theorem maskOf_lt (q : Nat → Bool) (k : Nat) : maskOf q k < 2 ^ k := by
  induction k with
  | zero => exact Nat.one_pos
  | succ k ih =>
    rw [maskOf_succ, Nat.pow_succ]
    split <;> omega

theorem testBit_maskOf (q : Nat → Bool) (k j : Nat) : (maskOf q k).testBit j = (decide (j < k) && q j) := by
  induction k with
  | zero => simp [maskOf]
  | succ k ih =>
    have lt := maskOf_lt q k
    rw [maskOf_succ]
    rcases Nat.lt_trichotomy j k with below | rfl | above
    · rw [decide_eq_true (by omega), Bool.true_and]
      rw [decide_eq_true below, Bool.true_and] at ih
      split
      · rw [Nat.add_comm, Nat.testBit_two_pow_add_gt below, ih]
      · exact ih
    · rw [decide_eq_true (by omega), Bool.true_and]
      have top : (maskOf q j).testBit j = false := Nat.testBit_lt_two_pow lt
      split
      case isTrue set => rw [Nat.add_comm, Nat.testBit_two_pow_add_eq, top, set, Bool.not_false]
      case isFalse clear => rw [top, Bool.eq_false_of_not_eq_true clear]
    · rw [decide_eq_false (by omega), Bool.false_and]
      have : 2 ^ (k + 1) ≤ 2 ^ j := Nat.pow_le_pow_right (by decide) above
      refine Nat.testBit_lt_two_pow (lt_of_lt_of_le ?_ this)
      rw [Nat.pow_succ]
      split <;> omega

/-- Whether a number below 11 is that of a live thread; the control thread counts as live. -/
def countsLive (x : Ctx) (j : Nat) : Bool := j == 0 || (x.thread (thrOf j)).live

theorem countsLive_val (x : Ctx) (n : Fin 11) : countsLive x n.val = (n == 0 || (x.thread n).live) := by
  rw [countsLive, thrOf_val]
  congr 1
  exact (by decide : ∀ n : Fin 11, (n.val == 0) = (n == 0)) n

theorem liveMask_eq (x : Ctx) : x.liveMask = BitVec.ofNat 64 (maskOf (countsLive x) 11) := by
  rw [Ctx.liveMask, maskOf, ← List.map_coe_finRange_eq_range, List.foldl_map]
  congr 2
  funext m n
  rw [countsLive_val]
  simp

theorem getLsbD_liveMask (x : Ctx) (n : Fin 11) : x.liveMask.getLsbD n.val = (n == 0 || (x.thread n).live) := by
  rw [liveMask_eq, BitVec.getLsbD_ofNat, testBit_maskOf, countsLive_val, decide_eq_true n.isLt, decide_eq_true (by omega),
    Bool.true_and, Bool.true_and]

theorem getLsbD_liveMask_high (x : Ctx) {n : Nat} (high : 11 ≤ n) : x.liveMask.getLsbD n = false := by
  rw [liveMask_eq, BitVec.getLsbD_ofNat, testBit_maskOf, decide_eq_false (by omega : ¬n < 11), Bool.false_and, Bool.and_false]

theorem exec_hstat {s : State} {rd : SReg} (has : s.has [rd] = true) : GivesNow (.hstat rd) s 4 rd s.ctx.liveMask := by
  show execHstat rd s = _
  rw [execHstat, ready_of_has has]
  rfl

/-! ## HJOIN (R93) -/

section
variable {s : State} {ra : SReg}

theorem exec_hjoin_bad (has : s.has [ra] = true) (bad : s.reg ra = 0 ∨ 10 < (s.reg ra).toNat) :
    exec (.hjoin ra) s = .next (trapEntry 11 (w0x (.hjoin ra)) s) := by
  show execHjoin ra s = _
  rw [execHjoin, ready_of_has has]
  exact if_pos bad

variable (has : s.has [ra] = true) {n : Fin 11} (helper : n ≠ 0) (names : s.reg ra = BitVec.ofNat 64 n.val)
include helper names

theorem hjoin_names : ¬(s.reg ra = 0 ∨ 10 < (s.reg ra).toNat) ∧ thrOf (s.reg ra).toNat = n := by
  have toNat : (s.reg ra).toNat = n.val := by rw [names, BitVec.toNat_ofNat]; omega
  refine ⟨?_, by rw [toNat, thrOf_val]⟩
  rintro (zero | high)
  · rw [zero] at toNat
    exact helper (Fin.ext toNat.symm)
  · omega

include has

theorem exec_hjoin_free (free : (s.ctx.thread n).live = false) : exec (.hjoin ra) s = .next (s.setTh (s.th.past 4)) := by
  obtain ⟨good, number⟩ := hjoin_names helper names
  show execHjoin ra s = _
  simp only [execHjoin, ready_of_has has, if_neg good, number, free, Bool.false_and, Bool.false_eq_true, if_false]
  split <;> rfl

theorem exec_hjoin_live (live : (s.ctx.thread n).live = true) (fresh : s.th.stall = none) : exec (.hjoin ra) s =
    .next (s.setTh { s.th with stall := some ⟨4, 0, .hjoin (s.ctx.thread n).inc⟩ }) := by
  obtain ⟨good, number⟩ := hjoin_names helper names
  show execHjoin ra s = _
  simp only [execHjoin, ready_of_has has, if_neg good, number, fresh, live, if_true]
  rfl

end

/-! ## HEXIT (R93) -/

/-- What a helper's end leaves of its context and its stream: the number is free, and a wake event is counted. -/
def helperGone (s : State) : State :=
  let u := ((s.closeStream s.th).unlock s.focus s.ctx.launch (some s.thr.val)).setTh { Thread.reset with inc := s.th.inc }
  u.setCtx { u.ctx with wakes := u.ctx.wakes + 1 }

section
variable (s : State)

theorem exec_hexit_control (control : s.thr = 0) : exec .hexit s = .next (trapEntry 11 (w0x .hexit) s) := if_pos control

theorem exec_hexit_full (helper : s.thr ≠ 0) (full : s.mayClose s.th = false) : exec .hexit s = stallOn 4 0 .retry s := by
  show execHexit s = _
  rw [execHexit, if_neg helper, full]
  rfl

theorem exec_hexit (helper : s.thr ≠ 0) (room : s.mayClose s.th = true) : exec .hexit s = .next (helperGone s) := by
  show execHexit s = _
  rw [execHexit, if_neg helper, room]
  rfl

theorem closeStream_focus (t : Thread) : (s.closeStream t).focus = s.focus := by
  unfold State.closeStream
  split <;> rfl

theorem closeStream_thr (t : Thread) : (s.closeStream t).thr = s.thr := by
  unfold State.closeStream
  split <;> rfl

theorem closeStream_clusters (t : Thread) : (s.closeStream t).clusters = s.clusters := by
  unfold State.closeStream
  split <;> rfl

theorem closeStream_ctx (t : Thread) : (s.closeStream t).ctx = s.ctx := by
  rw [State.ctx, State.cur, closeStream_focus]
  exact core_closeStream_keeps s (g := Core.run) (fun _ _ => rfl) t s.focus

theorem helperGone_th : (helperGone s).th = { Thread.reset with inc := s.th.inc } := (th_setCtx _ _).trans (th_setTh _ _)

theorem helperGone_thread_other {n : Fin 11} (other : n ≠ s.thr) : (helperGone s).ctx.thread n = s.ctx.thread n := by
  rw [helperGone, ctx_setCtx]
  refine (thread_setTh_other _ (other.trans_eq (closeStream_thr s s.th).symm) _).trans ?_
  exact congrArg (Ctx.thread · n) (closeStream_ctx s s.th)

theorem helperGone_byteAt : (helperGone s).byteAt = s.byteAt := by
  rw [helperGone, byteAt_setCtx, byteAt_setTh, byteAt_unlock, byteAt_closeStream]

theorem unlock_locks (c n : Nat) (thr : Option Nat) (k : Nat) : ((s.unlock c n thr).cluster k).locks = (s.cluster k).locks.filter fun y =>
    !(y.2.core == c && y.2.launch == n && decide (y.2.thr < 11) && (thr.isNone || thr == some y.2.thr)) := by
  simp only [State.cluster, State.unlock, PMap.get, PMap.find?_mapVal]
  cases PMap.find? s.clusters k with
  | none => rfl
  | some x => rfl

theorem helperGone_locks (k : Nat) : ((helperGone s).cluster k).locks = (s.cluster k).locks.filter fun y =>
    !(y.2.core == s.focus && y.2.launch == s.ctx.launch && y.2.thr == s.thr.val) := by
  refine (unlock_locks (s.closeStream s.th) s.focus s.ctx.launch (some s.thr.val) k).trans ?_
  rw [State.cluster, closeStream_clusters]
  refine List.filter_congr fun y _ => ?_
  by_cases mine : y.2.thr = s.thr.val
  · simp [mine]
  · have other : (s.thr.val == y.2.thr) = false := beq_false_of_ne (Ne.symm mine)
    simp [beq_false_of_ne mine, other]

end

/-! ## YIELD (R93) -/

theorem exec_yield_over {s : State} {len n : Nat} {rd : SReg} (stall : s.th.stall = some ⟨len, rd, .yield n⟩) (past : n < s.now) :
    exec .yield s = .next (s.setTh (s.th.past 4)) := by
  show execYield s = _
  simp only [execYield, stall, if_pos past]
  rfl

theorem exec_yield_fresh {s : State} (fresh : s.th.stall = none) :
    exec .yield s = .next (s.setTh { s.th with stall := some ⟨4, 0, .yield (s.now + 10)⟩ }) := by
  show execYield s = _
  simp only [execYield, fresh]
  rfl

/-- A stalled instruction of a thread completes. -/
theorem finish_of_stall {s : State} {c : Nat} {n : Fin 11} {st : Stall} (stall : ((s.core c).run.thread n).stall = some st) :
    s.finish c n.val = s.setCore c { s.core c with run := (s.core c).run.setThread n (((s.core c).run.thread n).past st.len) } := by
  simp only [State.finish, thrOf_val, stall]

theorem exec_yieldExpiry {s : State} {c len until_ : Nat} {n : Fin 11} {rd : SReg}
    (stall : ((s.core c).run.thread n).stall = some ⟨len, rd, .yield until_⟩) (past : until_ < s.now) : exec (.yieldExpiry c n.val) s =
      .next (s.setCore c { s.core c with run := (s.core c).run.setThread n (((s.core c).run.thread n).past len) }) := by
  show execYieldExpiry c n.val s = _
  simp only [execYieldExpiry, State.threadOn, thrOf_val, stall, if_pos past, finish_of_stall stall]

/-! ## The obligation -/

/-- Settles O10: HSTART by the helper that it makes, HSTAT by the bits of the live mask, HEXIT by what a helper's end leaves. -/
theorem helpers : Obligations.Helpers := by
  unfold Obligations.Helpers
  intro w0 starts
  have hstart {i : Instr} {s : State} {len : Nat} {need : List SReg} {rd ra : SReg} {arg : State → W64}
      (form : exec i s = hstart i len need rd ra arg s) (has : s.has need = true) : starts i s len rd (s.reg ra) (arg s) := by
    refine ⟨exec_hstart_helper form has, exec_hstart_none form has, fun control n helper free lowest =>
      ⟨_, exec_hstart_some form has control helper (freeHelper_eq_some helper free lowest), th_setTh _ _, ?_⟩⟩
    have thread : ((startHelper s n (s.reg ra) (arg s)).setTh ((s.th.setReg rd (BitVec.ofNat 64 n.val)).past len)).ctx.thread n = _ :=
      (thread_setTh_other _ (control ▸ helper) _).trans (startHelper_thread_same ..)
    rw [thread]
    refine ⟨rfl, rfl, helper_reg_two .., helper_reg_three .., fun r => helper_reg_other _ _ _ _ _ _, helper_has _ _ _ _ _ _, rfl,
      fun r => due_le_loadsDone, rfl, fun m other ne => ?_, sameMemory_of_byteAt ?_⟩
    · exact (thread_setTh_other _ (control ▸ ne) _).trans (startHelper_thread_other _ _ _ other)
    · rw [byteAt_setTh, startHelper, byteAt_setCtx]
  refine ⟨fun s rd ra rb => hstart (arg := fun s => s.reg rb) rfl, fun s rd ra lit => hstart (arg := fun _ => lit) rfl,
    fun s l => mayIssue_of_load, fun s rd has => ?hstat, fun s ra has =>
    ⟨exec_hjoin_bad has, fun n helper names => ⟨exec_hjoin_free has helper names, exec_hjoin_live has helper names⟩⟩,
    fun s => ⟨exec_hexit_control s, fun helper full fresh => ?full, fun helper room => ?hexit⟩,
    fun s => ⟨exec_yield_fresh, fun len rd n => exec_yield_over⟩, fun s c n len rd until_ => exec_yieldExpiry⟩
  case hstat =>
    exact ⟨s.ctx.liveMask, exec_hstat has, getLsbD_liveMask s.ctx, fun n => getLsbD_liveMask_high s.ctx⟩
  case full => rw [exec_hexit_full s helper full, stallOn_fresh s fresh]
  case hexit =>
    refine ⟨_, exec_hexit s helper room, ?_⟩
    rw [helperGone_th]
    exact ⟨rfl, rfl, rfl, fun n => helperGone_thread_other s, sameMemory_of_byteAt (helperGone_byteAt s), helperGone_locks s⟩

end Sys2Proof.Laws

/-!
PHASEC, PHASEX and WAITC (R66, R104), and obligation O13.
-/

namespace Sys2Proof.Laws

open Sys2Proof Sys2Proof.Machine

/-! ## PHASEC and PHASEX (R104) -/

section
variable (s : State) (p : Phase)

theorem setPhase_phcyc : ((s.setCtx (s.ctx.setPhase s.now p)).past 4).csr .phcyc = 0 := by
  show BitVec.ofNat 64 s.now - ((s.setCtx (s.ctx.setPhase s.now p)).past 4).ctx.phcyc = 0
  rw [State.past, ctx_setTh, ctx_setCtx]
  exact BitVec.sub_self _

theorem setPhase_th : ((s.setCtx (s.ctx.setPhase s.now p)).past 4).th = s.th.past 4 := by
  rw [State.past, th_setTh, th_setCtx]
  rfl

theorem setPhase_ctx : ((s.setCtx (s.ctx.setPhase s.now p)).past 4).ctx = (s.ctx.setPhase s.now p).setThread s.thr (s.th.past 4) := by
  rw [State.past, ctx_setTh, ctx_setCtx, th_setCtx]
  rfl

end

/-! ## WAITC (R104) -/

section
variable {s : State} {i : Instr} {len : Nat} {b : State → W64} (form : exec i s = waitc len b s) (fresh : s.th.stall = none)
include form fresh

theorem exec_waitc_reached (reached : (b s).toNat ≤ (s.csr .phcyc).toNat) : exec i s = .next (s.setTh (s.th.past len)) := by
  have late : (s.csr .phcyc).ult (b s) = false := decide_eq_false (by omega)
  simp only [form, waitc, fresh, late, Bool.false_eq_true, if_false]
  rfl

theorem exec_waitc_early (early : (s.csr .phcyc).toNat < (b s).toNat) : exec i s =
    .next (s.setTh { s.th with stall := some ⟨len, 0, .waitc (b s)⟩ }) := by
  have soon : (s.csr .phcyc).ult (b s) = true := decide_eq_true early
  simp only [form, waitc, fresh, soon, if_true]
  rfl

end

theorem exec_waitcExpiry {s : State} {c len : Nat} {n : Fin 11} {rd : SReg} {v : W64}
    (stall : ((s.core c).run.thread n).stall = some ⟨len, rd, .waitc v⟩)
    (reached : v.toNat ≤ (csrValue s.now c (s.core c) true (s.core c).run .phcyc).toNat) : exec (.waitcExpiry c n.val) s =
      .next (s.setCore c { s.core c with run := (s.core c).run.setThread n (((s.core c).run.thread n).past len) }) := by
  have late : (csrValue s.now c (s.core c) true (s.core c).run .phcyc).ult v = false := decide_eq_false (by omega)
  show execWaitcExpiry c n.val s = _
  simp only [execWaitcExpiry, State.threadOn, thrOf_val, stall, late, Bool.false_eq_true, if_false, finish_of_stall stall]

theorem exec_waitc {s : State} {rb : SReg} (has : s.has [rb] = true) : exec (.waitc rb) s = waitc 4 (fun s => s.reg rb) s := by
  show execWaitc rb s = _
  rw [execWaitc, ready_of_has has]

/-- Settles O13: PHASEC and PHASEX by the context that they set, WAITC by the comparison of `phcyc` with its operand. -/
theorem phases : Obligations.Phases := by
  unfold Obligations.Phases
  intro sets waits
  have sets_of {i : Instr} {s : State} {p : Phase} (form : exec i s = .next ((s.setCtx (s.ctx.setPhase s.now p)).past 4)) : sets i s p := by
    refine ⟨_, form, setPhase_th s p, ?_, setPhase_phcyc s p, sameMemory_of_byteAt ?_, ?_⟩
    · rw [setPhase_ctx]
      rfl
    · rw [State.past, byteAt_setTh, byteAt_setCtx]
    · rw [setPhase_ctx]
      rfl
  refine ⟨fun s => ⟨sets_of rfl, sets_of rfl⟩, fun s rb lit => ⟨fun has => ?_, ?_⟩, fun s c n len rd v => exec_waitcExpiry⟩
  · exact ⟨fun reached fresh => exec_waitc_reached (exec_waitc has) fresh reached,
      fun early fresh => exec_waitc_early (exec_waitc has) fresh early⟩
  · have form : exec (.waitcLit lit) s = waitc 12 (fun _ => lit) s := rfl
    exact ⟨fun reached fresh => exec_waitc_reached form fresh reached,
      fun early fresh => exec_waitc_early form fresh early⟩

end Sys2Proof.Laws

/-!
The special registers (R52, R105, R106): their reading, the fields that a write reaches, and obligation O16.
-/

namespace Sys2Proof.Laws

open Sys2Proof Sys2Proof.Machine

/-! ## CSRR (R105) -/

section
variable {s : State} {len : Nat} {left : State → Nat → Bool} (fresh : s.th.stall = none) (go : State → Out)
include fresh

theorem seqWait_done (done : left s s.seq = false) : seqWait len left s go = go s := by
  simp only [seqWait, fresh, done, Bool.false_eq_true, if_false]

theorem seqWait_waits (waits : left s s.seq = true) : seqWait len left s go =
    .next (s.setTh { s.th with stall := some ⟨len, 0, .seq s.seq⟩ }) := by
  simp only [seqWait, fresh, waits, if_true]
  rfl

end

section
variable {s : State} {rd : SReg} {c : Csr} (has : s.has [rd] = true)
include has

theorem exec_csrr_reserved (user : s.ctx.mode = .user) (reserved : csrReadS c = true) : exec (.csrr rd c) s =
    .next (trapEntry 2 (w0x (.csrr rd c)) s) := by
  show execCsrr rd c s = _
  rw [execCsrr, ready_of_has has, if_pos ⟨user, reserved⟩]
  rfl

theorem exec_csrr_plain (allowed : ¬(s.ctx.mode = .user ∧ csrReadS c = true)) (fflags : c ≠ .fflags) (xstat : c ≠ .xstat) :
    GivesNow (.csrr rd c) s 4 rd (s.csr c) := by
  show execCsrr rd c s = _
  rw [execCsrr, ready_of_has has, if_neg allowed]
  split
  · contradiction
  · contradiction
  · rfl

theorem exec_csrr_fflags : exec (.csrr rd .fflags) s = seqWait 4 State.xvLeft s fun s => result 4 rd (s.csr .fflags) s := by
  show execCsrr rd .fflags s = _
  rw [execCsrr, ready_of_has has, if_neg (fun h => Bool.false_ne_true h.2)]

theorem exec_csrr_xstat : exec (.csrr rd .xstat) s = seqWait 4 State.loadsLeft s fun s => result 4 rd (s.csr .xstat) s := by
  show execCsrr rd .xstat s = _
  rw [execCsrr, ready_of_has has, if_neg (fun h => Bool.false_ne_true h.2)]

end

/-! ## CSRW, CSRS and CSRC (R105) -/

section
variable {s : State} {c : Csr} {ra : SReg} {i : Instr} {v clear : W64 → W64 → W64}
  (form : exec i s = csrWrite i c ra v clear s) (has : s.has [ra] = true)
include form has

theorem exec_csrWrite_reserved (user : s.ctx.mode = .user) (reserved : csrWriteS c = true) : exec i s = .next (trapEntry 2 (w0x i) s) := by
  rw [form, csrWrite, ready_of_has has, if_pos ⟨user, reserved⟩]
  rfl

theorem exec_csrWrite (allowed : ¬(s.ctx.mode = .user ∧ csrWriteS c = true)) : exec i s =
    .next ((s.csrPut c (v (s.csr c) (s.reg ra)) (clear (s.csr c) (s.reg ra))).past 4) := by
  rw [form, csrWrite, ready_of_has has, if_neg allowed]

end

/-- `xstat` bit by bit (R106). -/
theorem getLsbD_xstat (x : Ctx) (j : Nat) : x.xstat.getLsbD j = match j with
    | 0 => x.accerr
    | 1 => x.divz
    | 2 => x.lag
    | _ + 3 => false := by
  rw [Ctx.xstat, BitVec.getLsbD_setWidth, BitVec.getLsbD_append, BitVec.getLsbD_append]
  match j with
  | 0 | 1 | 2 | _ + 3 => simp

section
variable (s : State) (c : Csr) (v clear : W64)

theorem csrPut_cyc : s.csrPut .cyc v clear = s.setCore s.focus { s.cur with cyc := BitVec.ofNat 64 s.now - v } := rfl

theorem csrPut_of_ne {c : Csr} (ne : c ≠ .cyc) : s.csrPut c v clear = s.setCtx (s.ctx.csrPut s.now true c v clear) := if_neg ne

theorem cur_csrPut : (s.csrPut c v clear).cur =
    { s.cur with cyc := if c = .cyc then BitVec.ofNat 64 s.now - v else s.cur.cyc, run := s.ctx.csrPut s.now true c v clear } := by
  by_cases cyc : c = .cyc
  · rw [cyc, if_pos rfl]
    exact core_setCore_same s _ _
  · rw [csrPut_of_ne s v clear cyc, if_neg cyc, cur_setCtx]

theorem ctx_csrPut : (s.csrPut c v clear).ctx = s.ctx.csrPut s.now true c v clear := congrArg Core.run (cur_csrPut s c v clear)

theorem csrPut_threads (x : Ctx) (now : Nat) (running : Bool) : (x.csrPut now running c v clear).threads = x.threads := by
  cases c <;> rfl

theorem now_csrPut : (s.csrPut c v clear).now = s.now := by
  unfold State.csrPut
  split <;> rfl

theorem focus_csrPut : (s.csrPut c v clear).focus = s.focus := by
  unfold State.csrPut
  split <;> rfl

theorem thr_csrPut : (s.csrPut c v clear).thr = s.thr := by
  unfold State.csrPut
  split <;> rfl

theorem th_csrPut : (s.csrPut c v clear).th = s.th := by
  rw [State.th, thr_csrPut, ctx_csrPut, Ctx.thread, csrPut_threads]
  rfl

theorem byteAt_csrPut : (s.csrPut c v clear).byteAt = s.byteAt := by
  unfold State.csrPut
  split
  · exact byteAt_setCore s rfl
  · exact byteAt_setCtx s _

theorem csr_setTh (h : Thread) : (s.setTh h).csr c = s.csr c := by
  rw [State.csr, cur_setTh, ctx_setTh]
  cases c <;> rfl

/-- The value of a register after a write of `c`. -/
theorem csr_csrPut (d : Csr) : (s.csrPut c v clear).csr d = csrValue s.now s.focus
    { s.cur with cyc := if c = .cyc then BitVec.ofNat 64 s.now - v else s.cur.cyc, run := s.ctx.csrPut s.now true c v clear } true
    (s.ctx.csrPut s.now true c v clear) d := by
  rw [State.csr, now_csrPut, focus_csrPut, cur_csrPut, ctx_csrPut]

/-- Each register has fields of its own, in the context or in the core. -/
theorem csr_csrPut_other {d : Csr} (other : d ≠ c) : (s.csrPut c v clear).csr d = s.csr d := by
  rw [csr_csrPut]
  cases c <;> cases d <;> try contradiction
  all_goals rfl

/-- The registers that hold all 64 bits of what is written. -/
theorem csr_csrPut_plain {c : Csr} (plain : c = .xpc ∨ c = .xval ∨ c = .phcyc ∨ c = .cyc) : (s.csrPut c v clear).csr c = v := by
  rw [csr_csrPut]
  obtain rfl | rfl | rfl | rfl := plain
  · rfl
  · rfl
  · exact sub_sub_cancel (BitVec.ofNat 64 s.now) v
  · exact sub_sub_cancel (BitVec.ofNat 64 s.now) v

theorem csr_csrPut_ignored {c : Csr} (ignored : c = .coord ∨ c = .ptime ∨ c = .logstat) : (s.csrPut c v clear).csr c = s.csr c := by
  rw [csr_csrPut]
  obtain rfl | rfl | rfl := ignored <;> rfl

theorem csr_csrPut_xstat (j : Nat) : ((s.csrPut .xstat v clear).csr .xstat).getLsbD j = ((s.csr .xstat).getLsbD j && !clear.getLsbD j) := by
  rw [csr_csrPut]
  refine (getLsbD_xstat (s.ctx.csrPut s.now true .xstat v clear) j).trans (.trans ?_ (congrArg (· && !clear.getLsbD j) (getLsbD_xstat s.ctx j).symm))
  match j with
  | 0 | 1 | 2 | _ + 3 => rfl

end

/-! ## The registers with fewer than 64 bits (R106) -/

/-- The bits of a register whose other bits are reserved; 0 for those of the other kinds. -/
def csrBits : Csr → Nat
  | .ctxid | .mtiles => 16
  | .vshare | .mshare => 4
  | .accmode => 1
  | .fflags => 5
  | .logcap => 32
  | .xcause => 12
  | _ => 0

theorem setWidth_setWidth_eq (v : W64) (n : Nat) : (v.setWidth n).setWidth 64 = ((v.toNat % 2 ^ n : Nat) : W64) := by
  apply BitVec.eq_of_toNat_eq
  simp

theorem csr_csrPut_low (s : State) (v clear : W64) {c : Csr} (narrow : 0 < csrBits c) :
    (s.csrPut c v clear).csr c = ((v.toNat % 2 ^ csrBits c : Nat) : W64) := by
  rw [csr_csrPut]
  cases c
  case ctxid => exact setWidth_setWidth_eq v 16
  case mtiles => exact setWidth_setWidth_eq v 16
  case vshare => exact setWidth_setWidth_eq v 4
  case mshare => exact setWidth_setWidth_eq v 4
  case fflags => exact setWidth_setWidth_eq v 5
  case logcap => exact setWidth_setWidth_eq v 32
  case accmode =>
    show (BitVec.ofBool (v.getLsbD 0)).setWidth 64 = ((v.toNat % 2 ^ 1 : Nat) : W64)
    rw [← setWidth_setWidth_eq v 1]
    congr 1
    ext j zero
    simp [Nat.lt_one_iff.mp zero]
  case xcause =>
    show v &&& 0xFFF = ((v.toNat % 2 ^ 12 : Nat) : W64)
    apply BitVec.eq_of_toNat_eq
    rw [BitVec.toNat_and]
    refine (Nat.and_two_pow_sub_one_eq_mod v.toNat 12).trans (Nat.mod_eq_of_lt ?_).symm
    omega
  all_goals exact absurd narrow (by decide)

/-! ## The obligation -/

/-- The three writes by the value that they write and the bits of W1C fields that they clear. -/
theorem exec_csr_writes {s : State} {c : Csr} {ra : SReg} (has : s.has [ra] = true) (allowed : ¬(s.ctx.mode = .user ∧ csrWriteS c = true))
    {i : Instr} {v : W64} (writes : i = .csrw c ra ∧ v = s.reg ra ∨ i = .csrs c ra ∧ v = s.csr c ||| s.reg ra ∨
      i = .csrc c ra ∧ v = s.csr c &&& ~~~s.reg ra) :
    ∃ clear : W64, exec i s = .next ((s.csrPut c v clear).past 4) ∧ ∀ j, (i == .csrs c ra || !(s.reg ra).getLsbD j) = !clear.getLsbD j := by
  obtain ⟨rfl, rfl⟩ | ⟨rfl, rfl⟩ | ⟨rfl, rfl⟩ := writes
  · exact ⟨s.reg ra, exec_csrWrite (v := fun _ a => a) (clear := fun _ a => a) rfl has allowed, fun j => by
      rw [beq_false_of_ne (by simp), Bool.false_or]⟩
  · exact ⟨0, exec_csrWrite (v := fun o a => o ||| a) (clear := fun _ _ => 0) rfl has allowed, fun j => by simp⟩
  · exact ⟨s.reg ra, exec_csrWrite (v := fun o a => o &&& ~~~a) (clear := fun _ a => a) rfl has allowed, fun j => by
      rw [beq_false_of_ne (by simp), Bool.false_or]⟩

theorem not_user_reads {s : State} {c : Csr} (reads : s.ctx.mode = .supervisor ∨ csrReadS c = false) :
    ¬(s.ctx.mode = .user ∧ csrReadS c = true) := by
  rintro ⟨user, reserved⟩
  simp [user, reserved] at reads

theorem not_user_writes {s : State} {c : Csr} (writes : s.ctx.mode = .supervisor ∨ csrWriteS c = false) :
    ¬(s.ctx.mode = .user ∧ csrWriteS c = true) := by
  rintro ⟨user, reserved⟩
  simp [user, reserved] at writes

theorem csrReadS_iff : ∀ c : Csr, csrReadS c = true ↔ c = .xpc ∨ c = .xcause ∨ c = .xval ∨ c = .vshare ∨ c = .mshare ∨ c = .logcap ∨
    c = .sigctl ∨ c = .snapctl := by
  intro c
  cases c <;> decide

theorem csrReadS_eq_false_iff : ∀ c : Csr, csrReadS c = false ↔ c = .xstat ∨ c = .ctxid ∨ c = .coord ∨ c = .cyc ∨ c = .ptime ∨
    c = .phcyc ∨ c = .mtiles ∨ c = .accmode ∨ c = .frm ∨ c = .fflags ∨ c = .logstat := by
  intro c
  cases c <;> decide

theorem csrWriteS_eq_false_iff : ∀ c : Csr, csrWriteS c = false ↔ c = .coord ∨ c = .ptime ∨ c = .xstat ∨ c = .accmode ∨ c = .frm ∨
    c = .fflags := by
  intro c
  cases c <;> decide

/-- Settles O16: CSRR by what it waits for, the writes by what one field of the context keeps of the value. -/
theorem specialRegisters : Obligations.SpecialRegisters := by
  unfold Obligations.SpecialRegisters
  intro w0 plain low
  refine ⟨fun s rd c has => ⟨fun user reserved => ?_, fun reads => ?_⟩,
    fun s c ra has => ⟨fun user reserved => ?_, fun writes i v which => ?_⟩⟩
  · exact exec_csrr_reserved has user ((csrReadS_iff c).mpr reserved)
  · rw [← csrReadS_eq_false_iff c] at reads
    refine ⟨exec_csrr_plain has (not_user_reads reads), ?_, ?_, ?_, ?_⟩ <;> rintro rfl fresh left
    · exact (exec_csrr_fflags has).trans (seqWait_done fresh _ left)
    · exact (exec_csrr_fflags has).trans (seqWait_waits fresh _ left)
    · exact (exec_csrr_xstat has).trans (seqWait_done fresh _ left)
    · exact (exec_csrr_xstat has).trans (seqWait_waits fresh _ left)
  · rw [← csrWriteS_eq_false_iff c, Bool.not_eq_false] at reserved
    exact ⟨exec_csrWrite_reserved (v := fun _ a => a) (clear := fun _ a => a) rfl has user reserved,
      exec_csrWrite_reserved (v := fun o a => o ||| a) (clear := fun _ _ => 0) rfl has user reserved,
      exec_csrWrite_reserved (v := fun o a => o &&& ~~~a) (clear := fun _ a => a) rfl has user reserved⟩
  · rw [← csrWriteS_eq_false_iff c] at writes
    obtain ⟨clear, goes, clears⟩ := exec_csr_writes has (not_user_writes writes) which
    have csr (d : Csr) : ((s.csrPut c v clear).past 4).csr d = (s.csrPut c v clear).csr d := csr_setTh _ d _
    have ctx : ((s.csrPut c v clear).past 4).ctx = (s.ctx.csrPut s.now true c v clear).setThread _ _ :=
      (ctx_setTh _ _).trans (congrArg (Ctx.setThread · _ _) (ctx_csrPut s c v clear))
    refine ⟨_, goes, ?_, sameMemory_of_byteAt ?_, ?_, ?_, ?_, ?_, ?_, ?_, ?_, ?_⟩
    · rw [State.past, th_setTh, th_csrPut]
    · rw [State.past, byteAt_setTh, byteAt_csrPut]
    · exact fun d other => (csr d).trans (csr_csrPut_other s c v clear other)
    · exact fun plain => (csr c).trans (csr_csrPut_plain s v clear plain)
    · exact fun narrow => (csr c).trans (csr_csrPut_low s v clear narrow)
    · exact fun ignored => (csr c).trans (csr_csrPut_ignored s v clear ignored)
    · rintro rfl
      rw [ctx]
      exact ⟨rfl, rfl⟩
    · rintro rfl j
      rw [csr, csr_csrPut_xstat, clears]
    · rintro rfl
      rw [ctx]
      exact ⟨rfl, rfl, rfl⟩
    · rintro rfl
      rw [ctx, clears]
      exact ⟨rfl, rfl, rfl⟩

end Sys2Proof.Laws

/-!
The system group (R65, R91, R107): WFI, IFENCE, TLBI, HALT and the end of a context, and obligation O18.
-/

namespace Sys2Proof.Laws

open Sys2Proof Sys2Proof.Machine

/-! ## Supervisor instructions (R52, R107) -/

section
variable {s : State} {i : Instr} {k : State → Out}

theorem privileged_user (user : s.ctx.mode = .user) (fresh : s.th.stall = none) : privileged i s k = .next (trapEntry 2 (w0x i) s) :=
  if_pos ⟨user, fresh⟩

theorem privileged_supervisor (supervisor : s.ctx.mode = .supervisor) : privileged i s k = k s :=
  if_neg fun h => by simp [supervisor] at h

end

/-! ## WFI (R107) -/

section
variable {s : State}

theorem exec_wfi_user (user : s.ctx.mode = .user) (fresh : s.th.stall = none) : exec .wfi s = .next (trapEntry 2 (w0x .wfi) s) := by
  show execWfi s = _
  rw [execWfi, privileged_user user fresh]

variable (supervisor : s.ctx.mode = .supervisor)
include supervisor

theorem exec_wfi_notice (notice : s.ctx.notice ≠ 0) (fresh : s.th.stall = none) : exec .wfi s = .next (s.setTh (s.th.past 4)) := by
  show execWfi s = _
  simp only [execWfi, privileged_supervisor supervisor, fresh, if_pos notice]
  rfl

theorem exec_wfi_stalls (quiet : s.ctx.notice = 0) (fresh : s.th.stall = none) :
    exec .wfi s = .next (s.setTh { s.th with stall := some ⟨4, 0, .wfi s.ctx.wakes⟩ }) := by
  show execWfi s = _
  simp only [execWfi, privileged_supervisor supervisor, fresh, if_neg (not_not.mpr quiet)]
  rfl

theorem exec_wfi_wakes {len n : Nat} {rd : SReg} (stall : s.th.stall = some ⟨len, rd, .wfi n⟩) (wakes : n < s.ctx.wakes ∨ s.ctx.notice ≠ 0) :
    exec .wfi s = .next (s.setTh (s.th.past 4)) := by
  show execWfi s = _
  simp only [execWfi, privileged_supervisor supervisor, stall, if_pos wakes]
  rfl

end

/-! ## TLBI (R107) -/

theorem byteAt_setCluster (s : State) {k : Nat} {x : Cluster} (keeps : memories x = memories (s.cluster k)) :
    (s.setCluster k x).byteAt = s.byteAt := by
  refine byteAt_ext (fun _ => rfl) (fun a => ?_) rfl rfl
  by_cases here : a = k
  · rw [here, cluster_setCluster_same, keeps]
  · rw [cluster_setCluster_other s here]

/-- The state without the entries of the core's TLB and of its cluster's shared TLB that cover an address. -/
def dropCovering (s : State) (a : Nat) : State :=
  let u := s.setCore s.focus { s.cur with tlb := s.cur.tlb.drop fun e => e.covers a }
  u.setCluster u.clu { u.cluster u.clu with sharedTlb := (u.cluster u.clu).sharedTlb.mapVal fun _ t => t.drop fun e => e.covers a }

section
variable (s : State) (a : Nat)

theorem dropCovering_cur : (dropCovering s a).cur = { s.cur with tlb := s.cur.tlb.drop fun e => e.covers a } := core_setCore_same s _ _

theorem dropCovering_th : (dropCovering s a).th = s.th :=
  (congrArg (fun k : Core => k.run.thread s.thr) (dropCovering_cur s a) :)

theorem dropCovering_sharedTlb : ((dropCovering s a).cluster s.clu).sharedTlb =
    (s.cluster s.clu).sharedTlb.mapVal fun _ t => t.drop fun e => e.covers a :=
  congrArg Cluster.sharedTlb (cluster_setCluster_same ..)

theorem dropCovering_byteAt : (dropCovering s a).byteAt = s.byteAt := by
  rw [dropCovering, byteAt_setCluster]
  · exact byteAt_setCore s rfl
  · rfl

theorem get_drop_entries (m : PMap Tlb) (set : Nat) (p : TlbEntry → Bool) :
    (PMap.get (m.mapVal fun _ t => t.drop p) set Tlb.reset).entries = (PMap.get m set Tlb.reset).entries.filter fun e => !p e.2 := by
  rw [PMap.get, PMap.find?_mapVal, PMap.get]
  cases PMap.find? m set with
  | none => rfl
  | some t => rfl

end

section
variable {s : State} {ra : SReg} (has : s.has [ra] = true)
include has

theorem exec_tlbi_user (user : s.ctx.mode = .user) (fresh : s.th.stall = none) : exec (.tlbi ra) s =
    .next (trapEntry 2 (w0x (.tlbi ra)) s) := by
  show execTlbi ra s = _
  rw [execTlbi, ready_of_has has, privileged_user user fresh]

variable (supervisor : s.ctx.mode = .supervisor)
include supervisor

theorem exec_tlbi_low (low : (s.reg ra).toNat < 2 ^ 48) : exec (.tlbi ra) s = .next ((dropCovering s (s.reg ra).toNat).past 4) := by
  have inside : ¬(s.reg ra).extractLsb' 48 16 ≠ 0 := not_not.mpr (BitVec.eq_of_toNat_eq (by
    rw [BitVec.extractLsb'_toNat, Nat.shiftRight_eq_div_pow, Nat.div_eq_of_lt low]
    rfl))
  show execTlbi ra s = _
  simp only [execTlbi, ready_of_has has, privileged_supervisor supervisor, if_neg inside]
  rfl

theorem exec_tlbi_high (high : 2 ^ 48 ≤ (s.reg ra).toNat) : exec (.tlbi ra) s = .next (s.past 4) := by
  have outside : (s.reg ra).extractLsb' 48 16 ≠ 0 := fun zero => by
    have top := congrArg BitVec.toNat zero
    have bound := (s.reg ra).isLt
    rw [BitVec.extractLsb'_toNat, Nat.shiftRight_eq_div_pow, show (0 : BitVec 16).toNat = 0 from rfl] at top
    omega
  show execTlbi ra s = _
  simp only [execTlbi, ready_of_has has, privileged_supervisor supervisor, if_pos outside]

end

/-! ## HALT and the end of a context (R65) -/

theorem forward_of_no_gang {s : State} (alone : s.ctx.gang = none) (words : List W32) (pc next : W64) (taken : Option Bool) :
    s.forward words pc next taken = s := by
  simp only [State.forward, alone]

section
variable {s : State} {l : Launch} (resident : s.ctx.resident = true) (launch : s.launch? s.ctx.launch = some l) {d : Nat}
  (member : d ∈ l.cores) (other : d ≠ s.focus) (lives : (s.image d s.ctx.launch).map (·.ended) = some false)
include resident launch member other lives

/-- The end of a context with status OK while another core of its launch runs on. -/
theorem endContext_effect : let t := s.endContext s.focus s.ctx.launch 0
    t.ctx.ended = true ∧ SameMemory (s.makeHalves fun c _ _ => c == s.focus) t ∧
      ∃ m, t.launch? s.ctx.launch = some m ∧ m.status = l.status := by
  have running : (s.core s.focus).run.of s.ctx.launch = true := Bool.and_eq_true_iff.mpr ⟨resident, beq_self_eq_true _⟩
  have eq := endContext_of_others 0 running launch member other lives
  have ctx : (s.endContext s.focus s.ctx.launch 0).ctx = endedCtx ((windUp s s.focus s.ctx.launch).core s.focus).run := by
    rw [State.ctx, State.cur, eq, closed_focus 0 running launch, closed_core 0 running launch, markEnded_run]
  refine ⟨congrArg Ctx.ended ctx, sameMemory_of_byteAt ?_, _, eq ▸ closed_launch? 0 running launch, Nat.max_zero _⟩
  rw [eq, closed_byteAt 0 running launch]

end

section
variable {s : State}

theorem exec_halt_helper (helper : s.thr ≠ 0) : exec .halt s = .next (trapEntry 11 (w0x .halt) s) := by
  show execHalt s = _
  rw [execHalt, controlOnly_helper s helper]

theorem exec_halt (alone : s.ctx.gang = none) (control : s.thr = 0) : exec .halt s =
    if s.mayEnd s.focus then .next (s.endContext s.focus s.ctx.launch 0) else stallOn 4 0 .halt s := by
  show execHalt s = _
  rw [execHalt, controlOnly_control s control]
  simp only [forward_of_no_gang alone, ite_self]

theorem exec_contextEnd {len : Nat} {rd : SReg} (stall : (s.ctx.thread 0).stall = some ⟨len, rd, .halt⟩) (may : s.mayEnd s.focus = true) :
    exec (.contextEnd s.focus) s = .next (s.endContext s.focus s.ctx.launch 0) := by
  have here : ((s.core s.focus).run.thread 0).stall = some ⟨len, rd, .halt⟩ := stall
  show execContextEnd s.focus s = _
  simp only [execContextEnd, here, if_pos may]
  rfl

end

/-! ## The obligation -/

/-- Settles O18: TLBI by the tables that it leaves, HALT and CONTEXT_END by the end of one of several contexts of a launch. -/
theorem systemGroup : Obligations.SystemGroup := by
  unfold Obligations.SystemGroup
  intro w0
  refine ⟨fun s => ⟨fun user fresh => ⟨exec_wfi_user user fresh, fun ra has => exec_tlbi_user has user fresh⟩, fun supervisor =>
    ⟨exec_wfi_notice supervisor, exec_wfi_stalls supervisor, fun len rd n => exec_wfi_wakes supervisor, fun ra has => ?tlbi⟩, rfl⟩,
    fun s l alone resident launch ⟨d, x, member, other, image, running⟩ => ?halt⟩
  case tlbi =>
    by_cases low : (s.reg ra).toNat < 2 ^ 48
    · refine ⟨_, exec_tlbi_low has supervisor low, ?_, sameMemory_of_byteAt ?_, fun _ => ⟨?_, fun set => ?_⟩⟩
      · rw [State.past, th_setTh, dropCovering_th]
      · rw [State.past, byteAt_setTh, dropCovering_byteAt]
      · rw [State.past, cur_setTh, dropCovering_cur]
        rfl
      · have shared := dropCovering_sharedTlb s (s.reg ra).toNat
        exact (congrArg (fun m => (PMap.get m set Tlb.reset).entries) shared).trans (get_drop_entries _ set _)
    · refine ⟨_, exec_tlbi_high has supervisor (not_lt.mp low), ?_, sameMemory_of_byteAt ?_, fun h => absurd h low⟩
      · rw [State.past, th_setTh]
      · rw [State.past, byteAt_setTh]
  case halt =>
    have lives : (s.image d s.ctx.launch).map (·.ended) = some false := by rw [image, Option.map_some, running]
    have effect := endContext_effect resident launch member other lives
    refine ⟨exec_halt_helper, fun control may => ⟨_, (exec_halt alone control).trans (if_pos may), effect⟩, fun control early fresh => ?_,
      fun len rd stall may => ⟨_, exec_contextEnd stall may, effect⟩⟩
    rw [exec_halt alone control, if_neg (ne_true_of_eq_false early), stallOn_fresh s fresh]

end Sys2Proof.Laws

/-!
Changes of single contexts (R75, R76): what a change of one context, or of each of several, leaves of the images.
-/

namespace Sys2Proof.Laws

open Sys2Proof Sys2Proof.Machine

theorem of_of_standing {x y : Ctx} (same : standing y = standing x) (n : Nat) : y.of n = x.of n :=
  congrArg (fun p : Bool × Nat × Bool => p.1 && p.2.1 == n) same

theorem ctxOf_of_core {s t : State} {c : Nat} (same : t.core c = s.core c) (n : Nat) : t.ctxOf c n = s.ctxOf c n := by
  rw [State.ctxOf, same, State.ctxOf]

/-! ## One context -/

section
variable {s : State} {c n : Nat}

theorem ctxOf_of_run (run : (s.core c).run.of n = true) : s.ctxOf c n = some (s.core c).run := if_pos run

theorem ctxOf_of_shadow (run : (s.core c).run.of n = false) (shadow : (s.core c).shadow.of n = true) : s.ctxOf c n = some (s.core c).shadow :=
  (if_neg (ne_true_of_eq_false run)).trans (if_pos shadow)

theorem ctxOf_of_neither (run : (s.core c).run.of n = false) (shadow : (s.core c).shadow.of n = false) : s.ctxOf c n = none :=
  (if_neg (ne_true_of_eq_false run)).trans (if_neg (ne_true_of_eq_false shadow))

theorem image_of_resident {x : Ctx} (resident : s.ctxOf c n = some x) : s.image c n = some x := by
  rw [State.image, resident]

theorem image_of_saved (away : s.ctxOf c n = none) : s.image c n = (s.saved.find? fun a => a.core == c && a.ctx.of n).map (·.ctx) := by
  rw [State.image, away]

variable (f : Ctx → Ctx)

theorem updCtx_of_run (run : (s.core c).run.of n = true) : s.updCtx c n f = s.setCore c { s.core c with run := f (s.core c).run } := if_pos run

theorem updCtx_of_shadow (run : (s.core c).run.of n = false) (shadow : (s.core c).shadow.of n = true) :
    s.updCtx c n f = s.setCore c { s.core c with shadow := f (s.core c).shadow } :=
  (if_neg (ne_true_of_eq_false run)).trans (if_pos shadow)

theorem updCtx_of_neither (run : (s.core c).run.of n = false) (shadow : (s.core c).shadow.of n = false) : s.updCtx c n f = s :=
  (if_neg (ne_true_of_eq_false run)).trans (if_neg (ne_true_of_eq_false shadow))

/-- A change of a context replaces at most one core, and keeps what is not of a context there. -/
theorem updCtx_eq : ∃ k, s.updCtx c n f = s.setCore c k ∧ k.ulm = (s.core c).ulm ∨ s.updCtx c n f = s := by
  cases run : (s.core c).run.of n with
  | true => exact ⟨_, .inl ⟨updCtx_of_run f run, rfl⟩⟩
  | false =>
    cases shadow : (s.core c).shadow.of n with
    | true => exact ⟨_, .inl ⟨updCtx_of_shadow f run shadow, rfl⟩⟩
    | false => exact ⟨s.core c, .inr (updCtx_of_neither f run shadow)⟩

theorem core_updCtx_other {d : Nat} (other : d ≠ c) : (s.updCtx c n f).core d = s.core d := by
  obtain ⟨k, ⟨eq, -⟩ | eq⟩ := updCtx_eq (s := s) (c := c) (n := n) f
  · rw [eq, core_setCore_other s other]
  · rw [eq]

theorem byteAt_updCtx : (s.updCtx c n f).byteAt = s.byteAt := by
  obtain ⟨k, ⟨eq, ulm⟩ | eq⟩ := updCtx_eq (s := s) (c := c) (n := n) f
  · rw [eq, byteAt_setCore s ulm]
  · rw [eq]

theorem updCtx_saved : (s.updCtx c n f).saved = s.saved := by
  obtain ⟨k, ⟨eq, -⟩ | eq⟩ := updCtx_eq (s := s) (c := c) (n := n) f
  · rw [eq, setCore_saved]
  · rw [eq]

theorem ctxOf_updCtx_other {d : Nat} (other : d ≠ c) : (s.updCtx c n f).ctxOf d n = s.ctxOf d n :=
  ctxOf_of_core (core_updCtx_other f other) n

/-- A change of the saved images of a launch's context on a core. -/
def updSaved (c n : Nat) (f : Ctx → Ctx) (a : Saved) : Saved := if a.core == c && a.ctx.of n then { a with ctx := f a.ctx } else a

theorem updImage_of_resident {x : Ctx} (resident : s.ctxOf c n = some x) : s.updImage c n f = s.updCtx c n f := by
  rw [State.updImage, resident]

theorem updImage_of_saved (away : s.ctxOf c n = none) : s.updImage c n f = { s with saved := s.saved.map (updSaved c n f) } := by
  rw [State.updImage, away]
  rfl

theorem ctxOf_updImage_of_saved (away : s.ctxOf c n = none) (d : Nat) : (s.updImage c n f).ctxOf d n = s.ctxOf d n := by
  rw [updImage_of_saved f away]
  rfl

theorem updImage_of_saved_saved (away : s.ctxOf c n = none) : (s.updImage c n f).saved = s.saved.map (updSaved c n f) := by
  rw [updImage_of_saved f away]

variable {f} (keeps : ∀ x, standing (f x) = standing x)
include keeps

theorem ctxOf_updCtx_same {x : Ctx} (at_ : s.ctxOf c n = some x) : (s.updCtx c n f).ctxOf c n = some (f x) := by
  have of (y : Ctx) : (f y).of n = y.of n := of_of_standing (keeps y) n
  cases run : (s.core c).run.of n with
  | true =>
    obtain rfl : (s.core c).run = x := Option.some.inj ((ctxOf_of_run run).symm.trans at_)
    have here := core_setCore_same s c { s.core c with run := f (s.core c).run }
    rw [updCtx_of_run f run, ctxOf_of_run (by rw [here, of, run]), here]
  | false =>
    cases shadow : (s.core c).shadow.of n with
    | true =>
      obtain rfl : (s.core c).shadow = x := Option.some.inj ((ctxOf_of_shadow run shadow).symm.trans at_)
      have here := core_setCore_same s c { s.core c with shadow := f (s.core c).shadow }
      rw [updCtx_of_shadow f run shadow, ctxOf_of_shadow (by rw [here, run]) (by rw [here, of, shadow]), here]
    | false => exact absurd ((ctxOf_of_neither run shadow).symm.trans at_) (by simp)

theorem find?_updSaved (d : Nat) (l : List Saved) : ((l.map (updSaved c n f)).find? fun a => a.core == d && a.ctx.of n) =
    (l.find? fun a => a.core == d && a.ctx.of n).map (updSaved c n f) := by
  rw [List.find?_map]
  congr 1
  refine congrArg (List.find? · l) (funext fun a => ?_)
  simp only [Function.comp_apply, updSaved]
  split
  · rw [of_of_standing (keeps a.ctx) n]
  · rfl

theorem image_updImage_same {x : Ctx} (at_ : s.image c n = some x) : (s.updImage c n f).image c n = some (f x) := by
  cases here : s.ctxOf c n with
  | some y =>
    obtain rfl : y = x := Option.some.inj ((image_of_resident here).symm.trans at_)
    rw [updImage_of_resident f here, image_of_resident (ctxOf_updCtx_same keeps here)]
  | none =>
    rw [image_of_saved here, Option.map_eq_some_iff] at at_
    obtain ⟨a, found, rfl⟩ := at_
    have named := List.find?_some found
    rw [image_of_saved ((ctxOf_updImage_of_saved f here c).trans here), updImage_of_saved_saved f here, find?_updSaved keeps, found,
      Option.map_some, updSaved, if_pos named]
    rfl

theorem image_updImage_other {d : Nat} (other : d ≠ c) : (s.updImage c n f).image d n = s.image d n := by
  cases here : s.ctxOf c n with
  | some y => rw [updImage_of_resident f here, State.image, ctxOf_updCtx_other f other, updCtx_saved, State.image]
  | none =>
    have same := ctxOf_updImage_of_saved f here d
    cases there : s.ctxOf d n with
    | some y => rw [image_of_resident there, image_of_resident (same.trans there)]
    | none =>
      rw [image_of_saved there, image_of_saved (same.trans there), updImage_of_saved_saved f here, find?_updSaved keeps]
      cases found : s.saved.find? fun a => a.core == d && a.ctx.of n with
      | none => rfl
      | some a =>
        have named := List.find?_some found
        simp only [Bool.and_eq_true, beq_iff_eq] at named
        have elsewhere : ¬(a.core == c && a.ctx.of n) = true := by simp [named.1, other]
        rw [Option.map_some, updSaved, if_neg elsewhere]

end

/-! ## One change of each of several contexts -/

section
variable {β : Type} {upd : State → Nat → State} {read : State → Nat → Option β} {f : Nat → β → β}
  (other : ∀ s c d, d ≠ c → read (upd s c) d = read s d) (same : ∀ s c x, read s c = some x → read (upd s c) c = some (f c x))

theorem foldl_untouched (other : ∀ s c d, d ≠ c → read (upd s c) d = read s d) {cs : List Nat} {d : Nat} (absent : d ∉ cs) (s : State) :
    read (cs.foldl upd s) d = read s d := by
  induction cs generalizing s with
  | nil => rfl
  | cons c cs ih =>
    rw [List.foldl_cons, ih (List.not_mem_of_not_mem_cons absent), other _ _ _ (List.ne_of_not_mem_cons absent)]

include other same

theorem foldl_once {cs : List Nat} (nodup : cs.Nodup) {c : Nat} (member : c ∈ cs) {s : State} {x : β} (at_ : read s c = some x) :
    read (cs.foldl upd s) c = some (f c x) := by
  induction cs generalizing s with
  | nil => cases member
  | cons a cs ih =>
    obtain ⟨new, rest⟩ := List.nodup_cons.mp nodup
    rw [List.foldl_cons]
    by_cases here : c = a
    · subst here
      rw [foldl_untouched other new, same _ _ _ at_]
    · exact ih rest (List.mem_of_ne_of_mem here member) ((other _ _ _ here).trans at_)

theorem foldl_idempotent (idem : ∀ c x, f c (f c x) = f c x) {cs : List Nat} {c : Nat} (member : c ∈ cs) {s : State} {x : β}
    (at_ : read s c = some x) : read (cs.foldl upd s) c = some (f c x) := by
  induction cs generalizing s x with
  | nil => cases member
  | cons a cs ih =>
    rw [List.foldl_cons]
    by_cases again : c ∈ cs
    · by_cases here : c = a
      · subst here
        rw [ih again (same _ _ _ at_), idem]
      · exact ih again ((other _ _ _ here).trans at_)
    · obtain rfl : c = a := (List.mem_cons.mp member).resolve_right again
      rw [foldl_untouched other again, same _ _ _ at_]

end

end Sys2Proof.Laws

/-!
Barriers and votes (R98–R101, R103): arrival, release and result at each level, and obligation O12.
-/

namespace Sys2Proof.Laws

open Sys2Proof Sys2Proof.Machine

/-! ## The levels of a context -/

section
variable (x : Ctx) (lv : Level) (b : Barrier)

@[simp] theorem bar_setBar : (x.setBar lv b).bar lv = b := by
  cases lv <;> rfl

@[simp] theorem bar_setThread (n : Fin 11) (t : Thread) : (x.setThread n t).bar lv = x.bar lv := by
  cases lv <;> rfl

@[simp] theorem setBar_threads : (x.setBar lv b).threads = x.threads := by
  cases lv <;> rfl

@[simp] theorem setBar_gang : (x.setBar lv b).gang = x.gang := by
  cases lv <;> rfl

theorem standing_setBar : standing (x.setBar lv b) = standing x := by
  cases lv <;> rfl

end

section
variable (s : State) (lv : Level) (b : Barrier)

theorem th_setBar : (s.setCtx (s.ctx.setBar lv b)).th = s.th := by
  rw [th_setCtx, Ctx.thread, setBar_threads]
  rfl

theorem setBar_setTh_bar (t : Thread) : ((s.setCtx (s.ctx.setBar lv b)).setTh t).ctx.bar lv = b := by
  rw [ctx_setTh, bar_setThread, ctx_setCtx, bar_setBar]

end

theorem not_alone {s : State} {lv : Level} (takes : lv ≠ .gang ∨ s.ctx.inGang = true) : ¬(lv = .gang ∧ (!s.ctx.inGang) = true) := by
  rintro ⟨gang, alone⟩
  rcases takes with other | member
  · exact other gang
  · rw [member] at alone
    exact Bool.noConfusion alone

/-! ## BAR and the votes (R99, R103) -/

/-- What an arrival that waits for its release leaves (R99). -/
def waitsAt (s : State) (lv : Level) (vote : Option (Bool × Bool)) (rd : SReg) : State :=
  (s.setCtx (s.ctx.arriveAt lv vote)).stall 4 rd (.bar lv (s.ctx.bar lv).inst)

/-- The state in which an arrival that has been released is forgotten (R99). -/
def forgets (s : State) (lv : Level) : State := s.setCtx (s.ctx.setBar lv { s.ctx.bar lv with owed := none, vote := none })

section
variable {s : State} {i : Instr} {lv : Level} {vote : Option (Bool × Bool)} {rd : SReg} {pass : Barrier → State → Out}
  (form : exec i s = barrier lv vote rd s pass)
include form

theorem exec_barrier_arrives (free : (s.ctx.bar lv).owed = none) (may : s.mayArrive = true) : exec i s = .next (waitsAt s lv vote rd) := by
  rw [form, barrier]
  simp only [free, if_pos may]
  rfl

theorem exec_barrier_waits {n : Nat} (owed : (s.ctx.bar lv).owed = some n) (early : (s.ctx.bar lv).inst ≤ n) (fresh : s.th.stall = none) :
    exec i s = .next (s.setTh { s.th with stall := some ⟨4, rd, .bar lv n⟩ }) := by
  rw [form, barrier]
  simp only [owed, if_neg (Nat.not_lt.mpr early), stallOn_fresh s fresh]

theorem exec_barrier_passes {n : Nat} (owed : (s.ctx.bar lv).owed = some n) (released : n < (s.ctx.bar lv).inst) :
    exec i s = pass (s.ctx.bar lv) (forgets s lv) := by
  rw [form, barrier]
  simp only [owed, if_pos released]
  rfl

end

section
variable (s : State) (lv : Level) (vote : Option (Bool × Bool)) (rd : SReg)

theorem waitsAt_bar : (waitsAt s lv vote rd).ctx.bar lv = { s.ctx.bar lv with owed := some (s.ctx.bar lv).inst, vote := vote } :=
  setBar_setTh_bar s lv _ _

theorem waitsAt_th : (waitsAt s lv vote rd).th = { s.th with stall := some ⟨4, rd, .bar lv (s.ctx.bar lv).inst⟩ } := by
  rw [waitsAt, Ctx.arriveAt, State.stall, th_setTh, th_setBar]

theorem waitsAt_byteAt : (waitsAt s lv vote rd).byteAt = s.byteAt := by
  rw [waitsAt, State.stall, byteAt_setTh, byteAt_setCtx]

end

section
variable (s : State) (lv : Level) (t : Thread)

theorem forgets_th : (forgets s lv).th = s.th := th_setBar ..

theorem forgets_bar : ((forgets s lv).setTh t).ctx.bar lv = { s.ctx.bar lv with owed := none, vote := none } := setBar_setTh_bar ..

theorem forgets_past_th : ((forgets s lv).past 4).th = s.th.past 4 := by
  rw [State.past, th_setTh, forgets_th]

end

theorem exec_bar_helper {s : State} {lv : Level} (helper : s.thr ≠ 0) : exec (.bar lv) s = .next (trapEntry 11 (w0x (.bar lv)) s) := by
  show execBar lv s = _
  rw [execBar, controlOnly_helper s helper]

section
variable {s : State} {lv : Level} (control : s.thr = 0)
include control

theorem exec_bar_alone (alone : s.ctx.inGang = false) : exec (.bar .gang) s = .next (s.setTh (s.th.past 4)) := by
  show execBar .gang s = _
  rw [execBar, controlOnly_control s control, if_pos ⟨rfl, by rw [alone]; rfl⟩]
  rfl

/-- BAR at a level at which there is someone to wait for. -/
theorem exec_bar (takes : lv ≠ .gang ∨ s.ctx.inGang = true) : exec (.bar lv) s = barrier lv none 0 s fun b s =>
    if lv = .gang ∧ b.vote.isSome then trap 11 (w0x (.bar lv)) s else .next (s.past 4) := by
  show execBar lv s = _
  rw [execBar, controlOnly_control s control, if_neg (not_alone takes)]

theorem exec_bar_passes (takes : lv ≠ .gang ∨ s.ctx.inGang = true) {n : Nat} (owed : (s.ctx.bar lv).owed = some n)
    (released : n < (s.ctx.bar lv).inst) (right : lv ≠ .gang ∨ (s.ctx.bar lv).vote = none) :
    exec (.bar lv) s = .next ((forgets s lv).past 4) := by
  rw [exec_barrier_passes (exec_bar control takes) owed released, if_neg]
  rintro ⟨gang, voted⟩
  rcases right with other | none
  · exact other gang
  · rw [none] at voted
    exact Bool.noConfusion voted

end

/-- How a vote ends once its arrival has been released (R103). -/
def answersVote (i : Instr) (any : Bool) (rd : SReg) (b : Barrier) (s : State) : Out :=
  match b.vote with
  | some (k, r) => if k = any then result 4 rd (if r then 1 else 0) s else trap 11 (w0x i) s
  | none => trap 11 (w0x i) s

section
variable {s : State} {i : Instr} {any : Bool} {rd ra : SReg} (form : exec i s = vote i any rd ra s) (has : s.has [ra, rd] = true)
include form has

theorem exec_vote_alone (alone : s.thr ≠ 0 ∨ s.ctx.inGang = false) : GivesNow i s 4 rd (if s.reg ra = 0 then 0 else 1) := by
  have own : (if s.reg ra != 0 then 1 else 0 : W64) = if s.reg ra = 0 then 0 else 1 := by
    by_cases zero : s.reg ra = 0 <;> simp [zero]
  rw [GivesNow, form, vote, ready_of_has has, if_pos (alone.imp_right fun h => by rw [h]; rfl), own]
  rfl

theorem exec_vote (control : s.thr = 0) (member : s.ctx.inGang = true) : exec i s =
    barrier .gang (some (any, s.reg ra != 0)) rd s (answersVote i any rd) := by
  rw [form, vote, ready_of_has has, if_neg (by rw [member]; simp [control])]
  rfl

theorem exec_vote_passes (control : s.thr = 0) (member : s.ctx.inGang = true) {n : Nat} {r : Bool} (owed : s.ctx.barGang.owed = some n)
    (released : n < s.ctx.barGang.inst) (voted : s.ctx.barGang.vote = some (any, r)) :
    exec i s = .next ((forgets s .gang).setTh (((forgets s .gang).th.setReg rd (if r then 1 else 0)).past 4)) := by
  have here : (s.ctx.bar .gang).vote = some (any, r) := voted
  rw [exec_barrier_passes (exec_vote form has control member) owed released, answersVote, here]
  exact if_pos rfl

end

/-! ## SIGNAL (R101) -/

section
variable {s : State} {ra : SReg} (has : s.has [ra] = true)
include has

theorem exec_signal_bad (bad : 2 < (s.reg ra).toNat ∨ s.thr ≠ 0) : exec (.signal ra) s = .next (trapEntry 11 (w0x (.signal ra)) s) := by
  show execSignal ra s = _
  rw [execSignal, ready_of_has has]
  dsimp only
  split
  · rfl
  next lv names =>
    refine if_pos (bad.symm.imp_right fun high low => ?_)
    have rest := congrArg BitVec.toNat low
    have bound := (s.reg ra).isLt
    rw [BitVec.extractLsb'_toNat, Nat.shiftRight_eq_div_pow, show (0 : BitVec 62).toNat = 0 from rfl] at rest
    have three : s.reg ra = 3 := BitVec.eq_of_toNat_eq (show (s.reg ra).toNat = 3 by omega)
    rw [three] at names
    cases names

variable {lv : Level} (names : s.reg ra = lv.toBits.setWidth 64) (control : s.thr = 0)
include names control

/-- SIGNAL at a level that RA names. -/
theorem exec_signal : exec (.signal ra) s =
    if lv = .gang ∧ !s.ctx.inGang then .next (s.past 4)
    else if (s.ctx.bar lv).owed = some (s.ctx.bar lv).inst then stallOn 4 0 (.signal lv (s.ctx.bar lv).inst) s
    else if s.mayArrive then .next ((s.setCtx (s.ctx.arriveAt lv none)).past 4)
    else stallOn 4 0 .retry s := by
  have level : Level.ofBits ((s.reg ra).extractLsb' 0 2) = some lv := by
    rw [names]
    cases lv <;> rfl
  have rest : (s.reg ra).extractLsb' 2 62 = 0 := by
    rw [names]
    cases lv <;> rfl
  show execSignal ra s = _
  simp only [execSignal, ready_of_has has, level, if_neg (show ¬(s.thr ≠ 0 ∨ (s.reg ra).extractLsb' 2 62 ≠ 0) by simp [control, rest])]

theorem exec_signal_alone (gang : lv = .gang) (alone : s.ctx.inGang = false) : exec (.signal ra) s = .next (s.setTh (s.th.past 4)) := by
  rw [exec_signal has names control, if_pos ⟨gang, by rw [alone]; rfl⟩]
  rfl

variable (takes : lv ≠ .gang ∨ s.ctx.inGang = true)
include takes

theorem exec_signal_again (owed : (s.ctx.bar lv).owed = some (s.ctx.bar lv).inst) (fresh : s.th.stall = none) :
    exec (.signal ra) s = .next (s.setTh { s.th with stall := some ⟨4, 0, .signal lv (s.ctx.bar lv).inst⟩ }) := by
  rw [exec_signal has names control, if_neg (not_alone takes), if_pos owed, stallOn_fresh s fresh]

theorem exec_signal_arrives (free : (s.ctx.bar lv).owed ≠ some (s.ctx.bar lv).inst) (may : s.mayArrive = true) :
    exec (.signal ra) s = .next ((s.setCtx (s.ctx.arriveAt lv none)).past 4) := by
  rw [exec_signal has names control, if_neg (not_alone takes), if_neg free, if_pos may]

end

/-! ## The result of a vote (R103) -/

theorem voteResult_any (l : List (Option (Bool × Bool))) : voteResult true l = true ↔ some (true, true) ∈ l := by
  rw [voteResult, if_pos rfl, List.any_map, List.any_eq_true]
  refine ⟨fun ⟨o, member, voted⟩ => ?_, fun member => ⟨_, member, rfl⟩⟩
  match o, voted, member with
  | some (true, true), _, member => exact member

theorem voteResult_all (l : List (Option (Bool × Bool))) : voteResult false l = true ↔ ∀ o ∈ l, o = some (false, true) := by
  rw [voteResult, if_neg Bool.false_ne_true, List.all_map, List.all_eq_true]
  refine forall₂_congr fun o _ => ?_
  match o with
  | none | some (false, true) | some (false, false) | some (true, true) | some (true, false) => simp

/-! ## The release of a level (R99, R100, R103) -/

/-- The images of a launch's contexts on several cores. -/
def imagesOn (s : State) (launch : Nat) (cs : List Nat) : List Ctx := cs.filterMap fun c => s.image c launch

theorem mem_imagesOn {s : State} {launch : Nat} {cs : List Nat} {x : Ctx} : x ∈ imagesOn s launch cs ↔ ∃ c ∈ cs, s.image c launch = some x :=
  List.mem_filterMap

/-- What every member receives at the release of a vote: the leader's instruction and the result. -/
def released? (lead : Option Ctx) (xs : List Ctx) : Option (Bool × Bool) :=
  match lead with
  | some y => match y.barGang.vote with
    | some (any, _) => some (any, voteResult any (xs.map fun x => x.barGang.vote))
    | none => none
  | none => none

/-- The REJOIN count that a release of the gang level gives its followers. -/
def leadersCount (lead : Option Ctx) : Nat :=
  match lead with
  | some y => match y.gang with | some g => g.rejoins | none => 0
  | none => 0

/-- A gang's membership after a release of the gang level. -/
def releasedGang (x : Ctx) (count : Nat) (g : Gang) : Gang :=
  if g.leader then g
  else if g.attached then
    if g.buffer.isEmpty && g.lane.isEmpty then { g with rejoins := count, seen := count } else g
  else
    { g with attached := true, rejoins := count, seen := count, lane := [],
             buffer := if (x.thread 0).stall.isNone then g.held.toList else [],
             held := (x.thread 0).ownStalled count }

section
variable (x : Ctx) (lv : Level) (vote : Option (Bool × Bool)) (count : Nat)

theorem released_bar : (x.released lv vote count).bar lv =
    { x.bar lv with inst := (x.bar lv).inst + 1, vote := if lv = .gang then vote else none } := by
  cases lv <;> rfl

theorem released_gang_of_gang : (x.released .gang vote count).gang = x.gang.map (releasedGang x count) := rfl

theorem released_gang_of_ne {lv : Level} (other : lv ≠ .gang) : (x.released lv vote count).gang = x.gang := by
  rw [Ctx.released, if_neg other, setBar_gang]

theorem standing_released : standing (x.released lv vote count) = standing x := by
  cases lv <;> rfl

end

section
variable (x : Ctx) (count : Nat) {g : Gang}

theorem releasedGang_leader (leader : g.leader = true) : releasedGang x count g = g := if_pos leader

theorem releasedGang_attached (follower : g.leader = false) : (releasedGang x count g).attached = true := by
  rw [releasedGang, if_neg (ne_true_of_eq_false follower)]
  split
  next attached => split <;> exact attached
  next => rfl

/-- A follower that was detached, or has executed all that was forwarded to it, counts from the leader's REJOINs. -/
theorem releasedGang_counts (follower : g.leader = false) (done : g.attached = false ∨ (g.buffer = [] ∧ g.lane = [])) :
    (releasedGang x count g).rejoins = count ∧ (releasedGang x count g).seen = count := by
  rw [releasedGang, if_neg (ne_true_of_eq_false follower)]
  split
  next attached =>
    obtain ⟨buffer, lane⟩ := done.resolve_left (fun detached => Bool.noConfusion (attached.symm.trans detached))
    rw [if_pos (by rw [buffer, lane]; rfl)]
    exact ⟨rfl, rfl⟩
  next => exact ⟨rfl, rfl⟩

end

section
variable {s : State} {launch leader : Nat} {lv : Level} {cs : List Nat}

/-- The state after a release: every participant's image is released. -/
def releaseAll (s : State) (launch leader : Nat) (lv : Level) (cs : List Nat) : State :=
  cs.foldl (fun t c => t.updImage c launch fun x =>
    x.released lv (released? (s.image leader launch) (imagesOn s launch cs)) (leadersCount (s.image leader launch))) s

theorem exec_barrierRelease (arrived : ∀ c ∈ s.participants launch lv leader, ∀ x, s.image c launch = some x → x.atBarrier lv = true)
    (peopled : s.participants launch lv leader ≠ []) :
    exec (.barrierRelease launch lv leader) s = .next (releaseAll s launch leader lv (s.participants launch lv leader)) := by
  have all : (imagesOn s launch (s.participants launch lv leader)).all (fun x => x.atBarrier lv) = true :=
    List.all_eq_true.mpr fun x member => by
      obtain ⟨c, inside, image⟩ := mem_imagesOn.mp member
      exact arrived c inside x image
  have nonempty : (s.participants launch lv leader).isEmpty = false := List.isEmpty_eq_false_iff.mpr peopled
  have goes : ¬((s.participants launch lv leader).isEmpty ||
      !(imagesOn s launch (s.participants launch lv leader)).all fun x => x.atBarrier lv) = true := by
    rw [nonempty, all]
    decide
  show execBarrierRelease launch lv leader s = _
  exact if_neg goes

theorem releaseAll_byteAt : (releaseAll s launch leader lv cs).byteAt = s.byteAt :=
  foldl_keeps (f := State.byteAt) (fun t c => byteAt_updImage t c launch _) s cs

theorem releaseAll_image (nodup : cs.Nodup) {c : Nat} (member : c ∈ cs) {x : Ctx} (image : s.image c launch = some x) :
    (releaseAll s launch leader lv cs).image c launch = some
      (x.released lv (released? (s.image leader launch) (imagesOn s launch cs)) (leadersCount (s.image leader launch))) :=
  foldl_once (read := fun s c => s.image c launch)
    (f := fun _ x => x.released lv (released? (s.image leader launch) (imagesOn s launch cs)) (leadersCount (s.image leader launch)))
    (fun _ _ _ other => image_updImage_other (fun x => standing_released x lv _ _) other)
    (fun _ _ _ at_ => image_updImage_same (fun x => standing_released x lv _ _) at_) nodup member image

end

/-! ## The obligation -/

/-- What a release leaves of a participant whose image is `x`, when the leader's is `z`. -/
theorem released_member {s : State} {launch : Nat} {cs : List Nat} (x z : Ctx) :
    let y := x.released .gang (released? (some z) (imagesOn s launch cs)) (leadersCount (some z))
    (z.barGang.vote = none → y.barGang.vote = none) ∧
    (∀ any b, z.barGang.vote = some (any, b) → ∃ r, y.barGang.vote = some (any, r) ∧
      (any = true → (r = true ↔ ∃ d ∈ cs, ∃ u, s.image d launch = some u ∧ u.barGang.vote = some (true, true))) ∧
      (any = false → (r = true ↔ ∀ d ∈ cs, ∀ u, s.image d launch = some u → u.barGang.vote = some (false, true)))) ∧
    (x.gang = none → y.gang = none) ∧
    ∀ g, x.gang = some g → ∃ h, y.gang = some h ∧ (g.leader = true → h = g) ∧
      (g.leader = false → h.attached = true ∧ (g.attached = false ∨ (g.buffer = [] ∧ g.lane = []) →
        h.rejoins = ((z.gang.map (·.rejoins)).getD 0) ∧ h.seen = h.rejoins)) := by
  intro y
  have vote : y.barGang.vote = released? (some z) (imagesOn s launch cs) := congrArg Barrier.vote (released_bar x .gang _ _)
  have gang : y.gang = x.gang.map (releasedGang x (leadersCount (some z))) := released_gang_of_gang ..
  have count : leadersCount (some z) = (z.gang.map (·.rejoins)).getD 0 := by
    rw [leadersCount]
    cases z.gang <;> rfl
  refine ⟨fun none => ?_, fun any b voted => ⟨voteResult any ((imagesOn s launch cs).map fun u => u.barGang.vote), ?_, ?_, ?_⟩, fun none => ?_,
    fun g member => ⟨_, by rw [gang, member, Option.map_some], releasedGang_leader x _, fun follower =>
      ⟨releasedGang_attached x _ follower, fun done => ?_⟩⟩⟩
  · rw [vote, released?]
    simp only [none]
  · rw [vote, released?]
    simp only [voted]
  · rintro rfl
    simp only [voteResult_any, List.mem_map, mem_imagesOn]
    exact ⟨fun ⟨u, ⟨d, inside, image⟩, voted⟩ => ⟨d, inside, u, image, voted⟩,
      fun ⟨d, inside, u, image, voted⟩ => ⟨u, ⟨d, inside, image⟩, voted⟩⟩
  · rintro rfl
    simp only [voteResult_all, List.forall_mem_map, mem_imagesOn]
    exact ⟨fun all d inside u image => all u ⟨d, inside, image⟩, fun all u ⟨d, inside, image⟩ => all d inside u image⟩
  · rw [gang, none, Option.map_none]
  · obtain ⟨rejoins, seen⟩ := releasedGang_counts x (leadersCount (some z)) follower done
    exact ⟨rejoins.trans count, seen.trans rejoins.symm⟩

/-- Settles O12: BAR and the votes by one lemma for each of arrival, wait and passing, the release by what it makes of one participant. -/
theorem barriers : Obligations.Barriers := by
  unfold Obligations.Barriers
  intro w0 arrives
  have arrives_of {i : Instr} {s : State} {lv : Level} {v : Option (Bool × Bool)} {rd : SReg} {pass : Barrier → State → Out}
      (form : exec i s = barrier lv v rd s pass) : arrives i s lv v rd :=
    ⟨fun free may => ⟨_, exec_barrier_arrives form free may, waitsAt_bar s lv v rd, waitsAt_th s lv v rd,
        sameMemory_of_byteAt (waitsAt_byteAt s lv v rd)⟩,
      fun n => exec_barrier_waits form⟩
  have passes {i : Instr} {s : State} {any : Bool} {rd ra : SReg} (form : exec i s = vote i any rd ra s) (has : s.has [ra, rd] = true)
      (control : s.thr = 0) (member : s.ctx.inGang = true) (n : Nat) (r : Bool) (owed : s.ctx.barGang.owed = some n)
      (released : n < s.ctx.barGang.inst) (voted : s.ctx.barGang.vote = some (any, r)) :
      ∃ t, exec i s = .next t ∧ t.th = (s.th.setReg rd (if r then 1 else 0)).past 4 ∧ t.ctx.barGang.owed = none := by
    refine ⟨_, exec_vote_passes form has control member owed released voted, ?_, congrArg Barrier.owed (forgets_bar s .gang _)⟩
    rw [th_setTh, forgets_th]
  refine ⟨fun s lv control => ⟨exec_bar_alone control, fun takes => ⟨arrives_of (exec_bar control takes), fun n owed released right =>
      ⟨_, exec_bar_passes control takes owed released right, forgets_past_th s lv, (congrArg Barrier.owed (forgets_bar s lv _) :),
        (congrArg Barrier.inst (forgets_bar s lv _) :)⟩⟩⟩,
    fun s lv => exec_bar_helper, fun s rd ra has => ⟨fun alone => ⟨exec_vote_alone rfl has alone, exec_vote_alone rfl has alone⟩,
      fun control member => ⟨arrives_of (exec_vote rfl has control member), arrives_of (exec_vote rfl has control member), fun n r owed released =>
        ⟨passes rfl has control member n r owed released, passes rfl has control member n r owed released⟩⟩⟩,
    fun s ra lv has => ⟨fun names control => ⟨exec_signal_alone has names control, exec_signal_again has names control,
      fun takes free may => ?signal⟩,
      exec_signal_bad has⟩,
    fun s launch leader lv arrived peopled nodup => ⟨_, exec_barrierRelease arrived peopled, sameMemory_of_byteAt releaseAll_byteAt,
      fun c member x image => ⟨_, releaseAll_image nodup member image, ?release⟩⟩⟩
  case signal =>
    refine ⟨_, exec_signal_arrives has names control takes free may, setBar_setTh_bar s lv _ _, ?_, sameMemory_of_byteAt ?_⟩
    · rw [State.past, th_setTh, Ctx.arriveAt, th_setBar]
    · rw [State.past, byteAt_setTh, byteAt_setCtx]
  case release =>
    refine ⟨(congrArg Barrier.inst (released_bar ..) :), (congrArg Barrier.owed (released_bar ..) :),
      fun other => ⟨?_, released_gang_of_ne _ _ _ other⟩, ?_⟩
    · rw [released_bar, if_neg other]
    · rintro z rfl lead
      rw [lead]
      exact released_member x z

end Sys2Proof.Laws

/-!
Gangs (R94–R98, R107): forming and leaving, DETACH and REJOIN, the arrival of a forwarded instruction, and obligation O11.
-/

namespace Sys2Proof.Laws

open Sys2Proof Sys2Proof.Machine

/-! ## Leaving a gang (R94) -/

theorem roll_updCtx (s : State) (c n : Nat) {f : Ctx → Ctx} (keeps : ∀ x, standing (f x) = standing x) : roll (s.updCtx c n f) = roll s := by
  unfold State.updCtx
  dsimp only
  split_ifs
  · exact roll_setCore s (keeps _) rfl
  · exact roll_setCore s rfl (keeps _)
  · rfl

theorem updCtx_thr (s : State) (c n : Nat) (f : Ctx → Ctx) : (s.updCtx c n f).thr = s.thr := by
  obtain ⟨k, ⟨eq, -⟩ | eq⟩ := updCtx_eq (s := s) (c := c) (n := n) f <;> rw [eq]
  rfl

/-- A completed instruction changes no membership. -/
theorem ctxOf_setTh_gang (s : State) (h : Thread) (c n : Nat) : ((s.setTh h).ctxOf c n).map (·.gang) = (s.ctxOf c n).map (·.gang) := by
  by_cases here : c = s.focus
  · have core : (s.setTh h).core c = { s.core c with run := (s.core c).run.setThread s.thr h } := here ▸ cur_setTh s h
    simp only [State.ctxOf, core, apply_ite (Option.map _)]
    rfl
  · rw [ctxOf_of_core (show (s.setTh h).core c = s.core c from core_setCore_other s here _)]

/-- A context after its gang's leader has left. -/
def leavesGang (g : Gang) (y : Ctx) : Ctx := { y with gang := y.gang.filter fun h => h.word != g.word }

theorem standing_leavesGang (g : Gang) (y : Ctx) : standing (leavesGang g y) = standing y := rfl

theorem leavesGang_leavesGang (g : Gang) (y : Ctx) : leavesGang g (leavesGang g y) = leavesGang g y := by
  simp [leavesGang, Option.filter_filter]

section
variable {s : State} {g : Gang} (member : s.ctx.gang = some g)
include member

theorem quitGang_follower (follower : g.leader = false) : s.quitGang = s.setCtx { s.ctx with gang := none } := by
  simp only [State.quitGang, member, follower, Bool.false_eq_true, if_false]

/-- The leader's own membership ends with the others'. -/
theorem leavesGang_own : (leavesGang g s.ctx).gang = none := by
  simp [leavesGang, member]

variable (leader : g.leader = true)
include leader

theorem quitGang_leader : s.quitGang = (rectOf g.word).cores.foldl (fun s' c => s'.updCtx c s.ctx.launch (leavesGang g)) s := by
  simp only [State.quitGang, member, leader, if_true]
  rfl

theorem quitGang_ctxOf {c : Nat} (inside : c ∈ (rectOf g.word).cores) {y : Ctx} (at_ : s.ctxOf c s.ctx.launch = some y) :
    s.quitGang.ctxOf c s.ctx.launch = some (leavesGang g y) := by
  rw [quitGang_leader member leader]
  exact foldl_idempotent (read := fun t c => t.ctxOf c s.ctx.launch) (f := fun _ => leavesGang g) (fun _ _ _ other => ctxOf_updCtx_other _ other)
    (fun _ _ _ at_ => ctxOf_updCtx_same (standing_leavesGang g) at_) (fun _ => leavesGang_leavesGang g) inside at_

theorem quitGang_roll : roll s.quitGang = roll s := by
  rw [quitGang_leader member leader]
  exact foldl_keeps (fun t c => roll_updCtx t c _ (standing_leavesGang g)) s _

theorem quitGang_thr : s.quitGang.thr = s.thr := by
  rw [quitGang_leader member leader]
  exact foldl_keeps (f := State.thr) (fun t c => updCtx_thr t c _ _) s _

theorem quitGang_ctx (resident : s.ctx.resident = true) (inside : s.focus ∈ (rectOf g.word).cores) : s.quitGang.ctx = leavesGang g s.ctx := by
  have same := quitGang_roll member leader
  have running : (s.core s.focus).run.of s.ctx.launch = true := Bool.and_eq_true_iff.mpr ⟨resident, beq_self_eq_true _⟩
  have run := ctxOf_of_run ((run_of_roll same s.focus s.ctx.launch).trans running)
  have left := quitGang_ctxOf member leader inside (ctxOf_of_run running)
  rw [State.ctx, State.cur, focus_of_roll same]
  exact Option.some.inj (run.symm.trans left)

theorem quitGang_th (resident : s.ctx.resident = true) (inside : s.focus ∈ (rectOf g.word).cores) : s.quitGang.th = s.th := by
  rw [State.th, quitGang_thr member leader, quitGang_ctx member leader resident inside]
  rfl

end

/-! ## GANG (R94) -/

section
variable {s : State} {ra : SReg} (has : s.has [ra] = true) (control : s.thr = 0)
include has control

theorem exec_gang_leave (own : s.reg ra = BitVec.ofNat 64 s.focus) : exec (.gang ra) s = .next (s.quitGang.past 4) := by
  show execGang ra s = _
  rw [execGang, ready_of_has has, controlOnly_control s control]
  exact if_pos (beq_iff_eq.mpr own)

variable (asks : s.reg ra ≠ BitVec.ofNat 64 s.focus)
include asks

theorem exec_gang_asks : exec (.gang ra) s =
    if !gangWordOk s (s.reg ra) || s.ctx.inGang then .next (trapEntry 11 (w0x (.gang ra)) s)
    else match s.th.stall with
      | some _ => wait s
      | none => .next (s.stall 4 ra (.gang (s.reg ra))) := by
  show execGang ra s = _
  rw [execGang, ready_of_has has, controlOnly_control s control]
  exact if_neg (not_congr beq_iff_eq |>.mpr asks)

theorem exec_gang_refused (refused : gangWordOk s (s.reg ra) = false ∨ s.ctx.inGang = true) :
    exec (.gang ra) s = .next (trapEntry 11 (w0x (.gang ra)) s) := by
  rw [exec_gang_asks has control asks, if_pos]
  rcases refused with bad | member
  · rw [bad]
    rfl
  · rw [member, Bool.or_true]

theorem exec_gang_waits (good : gangWordOk s (s.reg ra) = true) (alone : s.ctx.inGang = false) (fresh : s.th.stall = none) :
    exec (.gang ra) s = .next (s.setTh { s.th with stall := some ⟨4, ra, .gang (s.reg ra)⟩ }) := by
  rw [exec_gang_asks has control asks, if_neg (by rw [good, alone]; decide), fresh]
  rfl

end

/-! ## Forming a gang (R95) -/

theorem corner_mem_cores (w : W64) : (rectOf w).corner ∈ (rectOf w).cores :=
  List.mem_flatMap.mpr ⟨0, List.mem_range.mpr (Nat.succ_pos _), List.mem_map.mpr ⟨0, List.mem_range.mpr (Nat.succ_pos _), rfl⟩⟩

theorem standing_joinGang (w : W64) (leader : Bool) (x : Ctx) : standing (x.joinGang w leader) = standing x := rfl

/-- Every core of a rectangle joins its gang. -/
def joinAll (s : State) (launch core : Nat) (w : W64) : State :=
  (rectOf w).cores.foldl (fun s c => s.updCtx c launch fun x => x.joinGang w (c == core)) s

section
variable {s : State} {core launch : Nat} {w : W64}

theorem exec_gangFormed (corner : (rectOf w).corner = core)
    (asks : ∀ c ∈ (rectOf w).cores, (s.gangWord c (s.core core).run.launch).map (·.1) = some w) :
    exec (.gangFormed core) s = .next (joinAll s (s.core core).run.launch core w) := by
  have word (c : Nat) (member : c ∈ (rectOf w).cores) : ∃ ra, s.gangWord c (s.core core).run.launch = some (w, ra) := by
    obtain ⟨⟨v, ra⟩, found, rfl⟩ := Option.map_eq_some_iff.mp (asks c member)
    exact ⟨ra, found⟩
  obtain ⟨ra, own⟩ := word core (corner ▸ corner_mem_cores w)
  have all : ((rectOf w).cores.all fun c => (s.gangWord c (s.core core).run.launch).isSome) = true := List.all_eq_true.mpr fun c member => by
    obtain ⟨rb, theirs⟩ := word c member
    rw [theirs]
    rfl
  show execGangFormed core s = _
  simp only [execGangFormed, own, if_neg (not_not.mpr corner)]
  refine (if_neg ?_).trans (if_pos all)
  rw [Bool.not_eq_true, Bool.not_eq_false', List.isEmpty_iff, List.filterMap_eq_nil_iff]
  intro c member
  obtain ⟨rb, theirs⟩ := word c member
  rw [theirs]
  exact if_neg (not_not.mpr rfl)

theorem joinAll_byteAt : (joinAll s launch core w).byteAt = s.byteAt :=
  foldl_keeps (f := State.byteAt) (fun _ _ => byteAt_updCtx _) s _

theorem joinAll_ctxOf (nodup : (rectOf w).cores.Nodup) {c : Nat} (member : c ∈ (rectOf w).cores) {x : Ctx} (at_ : s.ctxOf c launch = some x) :
    (joinAll s launch core w).ctxOf c launch = some (x.joinGang w (c == core)) :=
  foldl_once (read := fun s c => s.ctxOf c launch) (f := fun c x => x.joinGang w (c == core)) (fun _ _ _ other => ctxOf_updCtx_other _ other)
    (fun _ _ _ at_ => ctxOf_updCtx_same (standing_joinGang w _) at_) nodup member at_

end

/-! ## DETACH and REJOIN (R97, R98) -/

section
variable {s : State}

theorem exec_detach (control : s.thr = 0) :
    exec .detach s = .next ((s.setCtx { s.ctx with gang := s.ctx.gang.bind Gang.detach }).past 4) := by
  show execDetach s = _
  rw [execDetach, controlOnly_control s control]

theorem exec_detach_helper (helper : s.thr ≠ 0) : exec .detach s = .next (trapEntry 11 (w0x .detach) s) := by
  show execDetach s = _
  rw [execDetach, controlOnly_helper s helper]

theorem exec_rejoin_helper (helper : s.thr ≠ 0) : exec .rejoin s = .next (trapEntry 11 (w0x .rejoin) s) := by
  show execRejoin s = _
  rw [execRejoin, controlOnly_helper s helper]

variable (control : s.thr = 0) (fresh : s.th.stall = none)
include control fresh

theorem exec_rejoin_alone (alone : s.ctx.gang = none) : exec .rejoin s = .next (s.setTh (s.th.past 4)) := by
  show execRejoin s = _
  rw [execRejoin, controlOnly_control s control]
  simp only [fresh, alone]
  rfl

variable {g : Gang} (member : s.ctx.gang = some g)
include member

/-- A member's REJOIN counts one more. -/
theorem exec_rejoin : exec .rejoin s =
    let u := s.setCtx { s.ctx with gang := some { g with rejoins := g.rejoins + 1 } }
    if g.leader || g.attached || g.rejoins + 1 ≤ g.seen then .next (u.setTh (s.th.past 4))
    else .next (u.setTh { s.th with stall := some ⟨4, 0, .rejoin (g.rejoins + 1)⟩ }) := by
  show execRejoin s = _
  rw [execRejoin, controlOnly_control s control]
  simp only [fresh, member, State.past, State.stall, th_setCtx]
  rfl

theorem exec_rejoin_passes (passes : g.leader = true ∨ g.attached = true ∨ g.rejoins + 1 ≤ g.seen) : exec .rejoin s =
    .next ((s.setCtx { s.ctx with gang := some { g with rejoins := g.rejoins + 1 } }).setTh (s.th.past 4)) :=
  (exec_rejoin control fresh member).trans (if_pos (by simpa [or_assoc] using passes))

theorem exec_rejoin_waits (follower : g.leader = false) (detached : g.attached = false) (ahead : g.seen < g.rejoins + 1) : exec .rejoin s =
    .next ((s.setCtx { s.ctx with gang := some { g with rejoins := g.rejoins + 1 } }).setTh
      { s.th with stall := some ⟨4, 0, .rejoin (g.rejoins + 1)⟩ }) :=
  (exec_rejoin control fresh member).trans (if_neg (by simp [follower, detached]; omega))

end

/-! ## The forward lane (R96, R98) -/

theorem detach_follower {g : Gang} (follower : g.leader = false) (stands : g.dissolved = false) :
    g.detach = some { g with attached := false, buffer := [], held := none } := by
  rw [Gang.detach, if_neg (ne_true_of_eq_false follower), if_neg (ne_true_of_eq_false stands)]

/-- The state with a core's running context replaced. -/
def withRun (s : State) (core : Nat) (x : Ctx) : State := s.setCore core { s.core core with run := x }

theorem withRun_run (s : State) (core : Nat) (x : Ctx) : ((withRun s core x).core core).run = x :=
  congrArg Core.run (core_setCore_same ..)

theorem withRun_byteAt (s : State) (core : Nat) (x : Ctx) : (withRun s core x).byteAt = s.byteAt := byteAt_setCore s rfl

/-- The membership of a follower whose lane's first entry has arrived. -/
def receivedFrom (g : Gang) (e : Fwd) (rest : List Fwd) : Gang := { g with lane := rest, seen := e.rejoins }

/-- An attached follower whose buffer was full: it is detached with `xstat.LAG`, and goes on at `pc`. -/
def lagsBehind (x : Ctx) (g : Gang) (pc : W64) : Ctx :=
  (({ x with gang := g.detach } : Ctx).setThread 0
    (if (x.thread 0).stall.isSome then { x.thread 0 with after := some pc } else { x.thread 0 with pc := pc })).setLag

section
variable {s : State} {core : Nat} {g : Gang} {e : Fwd} {rest : List Fwd} (member : (s.core core).run.gang = some g)
  (lane : g.lane = e :: rest) (due : e.due ≤ s.now)
include member lane due

theorem exec_forwardArrival_buffers (attached : g.attached = true) (room : g.buffer.length < 16) : exec (.forwardArrival core) s =
    .next (withRun s core { (s.core core).run with gang := some { receivedFrom g e rest with buffer := g.buffer ++ [e] } }) := by
  show execForwardArrival core s = _
  simp only [execForwardArrival, member, lane, if_neg (Nat.not_lt.mpr due)]
  rw [if_pos attached, if_pos room]
  rfl

theorem exec_forwardArrival_lags (attached : g.attached = true) (full : 16 ≤ g.buffer.length) : exec (.forwardArrival core) s =
    .next (withRun s core (lagsBehind (s.core core).run (receivedFrom g e rest) ((g.buffer.head?).getD e).pc)) := by
  have pc : (match g.buffer with | b :: _ => b.pc | [] => e.pc) = ((g.buffer.head?).getD e).pc := by
    cases g.buffer <;> rfl
  show execForwardArrival core s = _
  simp only [execForwardArrival, member, lane, if_neg (Nat.not_lt.mpr due)]
  rw [if_pos attached, if_neg (Nat.not_lt.mpr full)]
  exact congrArg (fun pc => Host.Outcome.next (withRun s core (lagsBehind (s.core core).run (receivedFrom g e rest) pc))) pc

variable (detached : g.attached = false) {len f : Nat} {rd : SReg} (waits : ((s.core core).run.thread 0).stall = some ⟨len, rd, .rejoin f⟩)
include detached waits

theorem exec_forwardArrival_attaches (arrives : e.rejoins = f) : exec (.forwardArrival core) s =
    .next (withRun s core (({ (s.core core).run with gang := some { receivedFrom g e rest with attached := true } } : Ctx).setThread 0
      { (s.core core).run.thread 0 with pc := e.next, stall := none })) := by
  show execForwardArrival core s = _
  simp only [execForwardArrival, member, lane, if_neg (Nat.not_lt.mpr due)]
  rw [if_neg (ne_true_of_eq_false detached)]
  simp only [waits, if_pos arrives]
  rfl

theorem exec_forwardArrival_counts (other : e.rejoins ≠ f) : exec (.forwardArrival core) s =
    .next (withRun s core { (s.core core).run with gang := some (receivedFrom g e rest) }) := by
  show execForwardArrival core s = _
  simp only [execForwardArrival, member, lane, if_neg (Nat.not_lt.mpr due)]
  rw [if_neg (ne_true_of_eq_false detached)]
  simp only [waits, if_neg other]
  rfl

end

/-! ## The obligation -/

/-- What the word that leaves does for a leader (R94). -/
theorem gang_leader_leaves {s : State} {ra : SReg} (has : s.has [ra] = true) (control : s.thr = 0) (own : s.reg ra = BitVec.ofNat 64 s.focus)
    {g : Gang} (member : s.ctx.gang = some g) (leader : g.leader = true) (resident : s.ctx.resident = true)
    (inside : s.focus ∈ (rectOf g.word).cores) : ∃ t, exec (.gang ra) s = .next t ∧ t.ctx.gang = none ∧ t.th = s.th.past 4 ∧
      ∀ c ∈ (rectOf g.word).cores, ∀ y, s.ctxOf c s.ctx.launch = some y →
        ∃ z, t.ctxOf c s.ctx.launch = some z ∧ z.gang = y.gang.filter fun h => h.word != g.word := by
  refine ⟨_, exec_gang_leave has control own, ?_, ?_, fun c here y at_ => Option.map_eq_some_iff.mp ?_⟩
  · rw [State.past, ctx_setTh, quitGang_ctx member leader resident inside]
    exact leavesGang_own member
  · rw [State.past, th_setTh, quitGang_th member leader resident inside]
  · rw [State.past, ctxOf_setTh_gang, quitGang_ctxOf member leader here at_]
    rfl

/-- Settles O11: the changes of several contexts by folds that reach each of them once, the others by the branch that an instruction or an
arrival takes. -/
theorem gangs : Obligations.Gangs := by
  unfold Obligations.Gangs
  refine ⟨fun s ra has control => ⟨fun own => ⟨fun alone => ?alone, fun g member follower => ?follower,
      fun g => gang_leader_leaves has control own⟩,
      fun asks => ⟨exec_gang_refused has control asks, exec_gang_waits has control asks⟩⟩,
    fun s core w nodup corner asks => ⟨_, exec_gangFormed corner asks, sameMemory_of_byteAt joinAll_byteAt, fun c member x at_ =>
      ⟨_, joinAll_ctxOf nodup member at_, rfl, thread_setThread_same _ 0 _⟩⟩,
    fun s => ⟨exec_detach, fun helper => ⟨exec_detach_helper helper, exec_rejoin_helper helper⟩⟩,
    fun s control fresh => ⟨exec_rejoin_alone control fresh, fun g member => ⟨exec_rejoin_passes control fresh member,
      exec_rejoin_waits control fresh member⟩⟩,
    fun s core g e rest member lane due attached follower stands => ?attached,
    fun s core g e rest len rd f member lane due detached waits => ?detached⟩
  case alone =>
    have same : s.quitGang = s := by simp only [State.quitGang, alone]
    rw [exec_gang_leave has control own, same]
    rfl
  case follower =>
    refine ⟨_, exec_gang_leave has control own, ?_, ?_, sameMemory_of_byteAt ?_⟩ <;> rw [quitGang_follower member follower, State.past]
    · rw [ctx_setTh, ctx_setCtx]
      rfl
    · rw [th_setTh, th_setCtx]
      rfl
    · rw [byteAt_setTh, byteAt_setCtx]
  case attached =>
    rcases Nat.lt_or_ge g.buffer.length 16 with room | full
    · refine ⟨_, exec_forwardArrival_buffers member lane due attached room, sameMemory_of_byteAt (withRun_byteAt ..), fun _ => ?_,
        fun full => absurd room (Nat.not_lt.mpr full)⟩
      rw [withRun_run]
      rfl
    · refine ⟨_, exec_forwardArrival_lags member lane due attached full, sameMemory_of_byteAt (withRun_byteAt ..),
        fun room => absurd room (Nat.not_lt.mpr full), fun _ => ?_⟩
      rw [withRun_run]
      exact ⟨rfl, detach_follower (g := receivedFrom g e rest) follower stands, thread_setThread_same _ 0 _⟩
  case detached =>
    by_cases arrives : e.rejoins = f
    · refine ⟨_, exec_forwardArrival_attaches member lane due detached waits arrives, sameMemory_of_byteAt (withRun_byteAt ..), fun _ => ?_,
        fun other => absurd arrives other⟩
      rw [withRun_run, ← arrives]
      exact ⟨rfl, thread_setThread_same _ 0 _⟩
    · refine ⟨_, exec_forwardArrival_counts member lane due detached waits arrives, sameMemory_of_byteAt (withRun_byteAt ..),
        fun same => absurd same arrives, fun _ => ?_⟩
      rw [withRun_run]
      exact ⟨rfl, rfl⟩

end Sys2Proof.Laws

/-!
LocalCheck (R110): what each of its checks says of an access, and obligation O5.
-/

namespace Sys2Proof.Laws

open Sys2Proof Sys2Proof.Machine

/-! ## The tests of LocalCheck -/

theorem leavesCluster_iff (c : Nat) (ea : W64) : leavesCluster c ea = true ↔ ea.extractLsb' 44 20 ≠ 0 ∨ ownCluster c ea = false := by
  simp [leavesCluster, notOpm]

/-- The sizes of the windows as an access of core `c` with a region of `size` × 64 KiB meets them (R109, R64). -/
def windowBytes (own : Prop) [Decidable own] (size : Nat) : Nat → Nat
  | 0 => if own then size * 65536 else 262144
  | 1 => 2816 | 2 => 4096 | 3 => 152 | 4 => 8388608 | 5 => 1048576 | 6 => 32768 | _ => 0x810580

/-- The access widths of the windows (R109, R116). -/
def windowWidths (fe : Bool) : Nat → List Nat
  | 0 => if fe then [1, 2, 4, 8, 16] else [1, 2, 4, 8]
  | 2 | 4 => [1, 2, 4, 8]
  | 1 | 3 => [8]
  | 5 | 7 => [4, 8]
  | 6 => [2, 4, 8]
  | _ => []

/-- The row and column that an address of each window type names (R17). -/
def WindowPlaced (t c : Nat) : Prop := (4 ≤ t ∧ t ≤ 6 → rowOf c % 2 = 0 ∧ colOf c % 4 = 0) ∧ (t = 7 → rowOf c = 0 ∧ colOf c = 0)

/-- What the bounds checks of R110 ask of an access, those of the FE and LOCK groups with them (R116, R118). -/
def InBounds (s : State) (fe lock : Bool) (ea : W64) (n : Nat) : Prop :=
  opmDie ea ≤ 7 ∧ opmType ea ≤ 7 ∧ WindowPlaced (opmType ea) (opmCore ea) ∧ n ∈ windowWidths fe (opmType ea) ∧
    opmOff ea + n ≤ windowBytes (opmCore ea = s.focus) s.ctx.size.toNat (opmType ea) ∧
    (opmType ea = 5 → s.ctx.mtiles.getLsbD (opmOff ea / 65536) = true) ∧ (fe = true → opmType ea = 0) ∧ (lock = true → opmType ea = 4)

theorem rowColOk_iff {ea : W64} (type : opmType ea ≤ 7) : rowColOk ea = true ↔ WindowPlaced (opmType ea) (opmCore ea) := by
  unfold rowColOk WindowPlaced
  dsimp only
  split_ifs with window unit
  · exact iff_of_true rfl ⟨fun h => by omega, fun h => by omega⟩
  · simp [show 4 ≤ opmType ea ∧ opmType ea ≤ 6 by omega, show opmType ea ≠ 7 by omega]
  · simp [show opmType ea = 7 by omega]
  · omega

theorem widthOk_iff (fe : Bool) {t : Nat} (type : t ≤ 7) (n : Nat) : widthOk fe t n = true ↔ n ∈ windowWidths fe t := by
  interval_cases t <;> cases fe <;> simp [widthOk, windowWidths, or_assoc]

theorem windowSize_eq (x : Ctx) (own : Prop) [Decidable own] {t : Nat} (type : t ≤ 7) :
    windowSize (decide own) x.region t = windowBytes own x.size.toNat t := by
  interval_cases t <;> simp [windowSize, windowBytes, aeWindowSize, Ctx.region]

theorem boundsOk_iff (s : State) (fe lock : Bool) (ea : W64) (n : Nat) :
    (!boundsOk fe s.focus s.ctx ea n || (fe && opmType ea != 0) || (lock && opmType ea != 4)) = true ↔ ¬InBounds s fe lock ea n := by
  by_cases type : opmType ea ≤ 7
  · have size := windowSize_eq s.ctx (opmCore ea = s.focus) type
    have own : ownCore s.focus ea = decide (opmCore ea = s.focus) := rfl
    have named (g : Bool) (t : Nat) : (g && opmType ea != t) = false ↔ (g = true → opmType ea = t) := by cases g <;> simp
    rw [← Bool.not_eq_false, not_iff_not, Bool.or_eq_false_iff, Bool.or_eq_false_iff, named, named, Bool.not_eq_false',
      boundsOk, own, size, opmTile]
    simp only [Bool.and_eq_true, decide_eq_true_eq, rowColOk_iff type, widthOk_iff fe type, Bool.or_eq_true, bne_iff_ne, InBounds,
      ← imp_iff_not_or, and_assoc]
  · simp [boundsOk, InBounds, type]

/-- LocalCheck as the sequence of its checks. -/
theorem localCheck_eq (i : Instr) (s : State) (fe lock : Bool) (ea : W64) (n : Nat) [Decidable (InBounds s fe lock ea n)] :
    localCheck i fe lock ea n s =
      if (ea.extractLsb' 44 20 ≠ 0 ∨ ownCluster s.focus ea = false) ∧ s.ctx.phase = .compute then some (.trap 6 (w0x i))
      else if ea.extractLsb' 44 20 ≠ 0 then some (.trap 4 ea)
      else if opmType ea = 3 ∧ s.ctx.mode = .user then some (.trap 2 (w0x i))
      else if ¬InBounds s fe lock ea n then some (.trap 4 ea)
      else match spreadOk s s.focus s.ctx ea n with
        | none => some .remote
        | some false => some (.trap 4 ea)
        | some true => if opmOff ea % n ≠ 0 then some (.trap 3 ea) else none := by
  have phase : (true && leavesCluster s.focus ea && s.ctx.phase == .compute) = true ↔
      (ea.extractLsb' 44 20 ≠ 0 ∨ ownCluster s.focus ea = false) ∧ s.ctx.phase = .compute := by
    rw [Bool.true_and, Bool.and_eq_true, leavesCluster_iff, beq_iff_eq]
  have shared : notOpm ea = true ↔ ea.extractLsb' 44 20 ≠ 0 := bne_iff_ne
  unfold localCheck checkFrom
  simp only [phase, shared, boundsOk_iff, true_and] <;> rfl

/-! ## Windows of another core (R110) -/

/-- The part of ULM that an access to another core's window 0 keeps to: the region of the launch's context there (R109). -/
def InRegion (y : Ctx) (ea : W64) (n : Nat) : Prop :=
  opmType ea = 0 → y.base.toNat * 65536 ≤ opmOff ea ∧ opmOff ea + n ≤ (y.base.toNat + y.size.toNat) * 65536

section
variable {s : State} {ea : W64} (n : Nat)

theorem spreadOk_near (near : ¬(opmType ea ≤ 3 ∧ opmCore ea ≠ s.focus)) : spreadOk s s.focus s.ctx ea n = some true := by
  refine if_pos ?_
  rw [ownCore, Bool.or_eq_true, decide_eq_true_eq, beq_iff_eq]
  omega

variable (far : opmType ea ≤ 3 ∧ opmCore ea ≠ s.focus)
include far

theorem spreadOk_far : spreadOk s s.focus s.ctx ea n = if !s.inSpread s.ctx.launch (opmCore ea) then some false
    else match s.ctxOf (opmCore ea) s.ctx.launch with
      | none => none
      | some y => some (opmType ea != 0 || (decide (y.origin ≤ opmOff ea) && decide (opmOff ea + n ≤ y.origin + y.region))) := by
  refine if_neg ?_
  rw [ownCore, Bool.or_eq_true, decide_eq_true_eq, beq_iff_eq]
  omega

theorem spreadOk_outside (outside : s.inSpread s.ctx.launch (opmCore ea) = false) : spreadOk s s.focus s.ctx ea n = some false := by
  rw [spreadOk_far n far, outside]
  rfl

variable (inside : s.inSpread s.ctx.launch (opmCore ea) = true)
include inside

theorem spreadOk_absent (absent : s.ctxOf (opmCore ea) s.ctx.launch = none) : spreadOk s s.focus s.ctx ea n = none := by
  rw [spreadOk_far n far, inside, absent]
  rfl

theorem spreadOk_present {y : Ctx} (present : s.ctxOf (opmCore ea) s.ctx.launch = some y) [Decidable (InRegion y ea n)] :
    spreadOk s s.focus s.ctx ea n = some (decide (InRegion y ea n)) := by
  rw [spreadOk_far n far, inside, present]
  simp only [Bool.not_true, Bool.false_eq_true, if_false, Option.some.injEq]
  rw [Bool.eq_iff_iff, Bool.or_eq_true, Bool.and_eq_true, decide_eq_true_iff, decide_eq_true_iff, decide_eq_true_iff, bne_iff_ne,
    InRegion, Nat.add_mul, imp_iff_not_or]
  rfl

end

/-! ## The obligation -/

/-- Settles O5: the checks in the order of `localCheck_eq`, that of another core's windows by what the launch has there. -/
theorem localChecks : Obligations.LocalChecks := by
  intro i s fe lock ea n _
  classical
  extract_lets check w0 t c off outside phase on widths size placed bounds far inside reached
  have eq : check = _ := localCheck_eq i s fe lock ea n
  have within : bounds ↔ InBounds s fe lock ea n := Iff.rfl
  rw [eq]
  refine ⟨fun h => if_pos h, fun shared h => ?_, fun h opm type user => ?_, fun ⟨h, opm, priv⟩ out => ?_, ?_, ?_, ?_, ?_, ?_⟩
  · rw [if_neg h, if_pos shared]
  · rw [if_neg h, if_neg (not_not.mpr opm), if_pos ⟨type, user⟩]
    rfl
  · rw [if_neg h, if_neg (not_not.mpr opm), if_neg priv, if_pos (mt within.mpr out)]
  all_goals
    rintro ⟨h, opm, priv⟩ bnd
    rw [if_neg h, if_neg (not_not.mpr opm), if_neg priv, if_neg (not_not.mpr (within.mp bnd))]
  · intro away outside
    rw [spreadOk_outside n away outside]
  · intro away spread absent
    rw [spreadOk_absent n away spread absent]
  · intro away spread y present out
    rw [spreadOk_present n away spread present, decide_eq_false (p := InRegion y ea n) out]
  all_goals
    intro reach aligned
    have ok : spreadOk s s.focus s.ctx ea n = some true := by
      rcases reach with near | ⟨spread, y, present, region⟩
      · exact spreadOk_near n near
      · by_cases away : far
        · rw [spreadOk_present n away spread present, decide_eq_true (p := InRegion y ea n) region]
        · exact spreadOk_near n away
    rw [ok]
  · exact if_pos aligned
  · exact if_neg (not_not.mpr aligned)

end Sys2Proof.Laws

/-!
What local accesses share (R109–R114): little-endian words, the memories in canonical form, what a write to a local window changes, the
checked access, and a load's value on its way.
-/

namespace Sys2Proof.Laws

open Sys2Proof Sys2Proof.Machine

/-! ## Little-endian words (R2) -/

theorem testBit_leNat (l : List Byte) {j k : Nat} (inside : j < l.length) (bit : k < 8) : (leNat l).testBit (8 * j + k) = l[j].getLsbD k := by
  induction l generalizing j with
  | nil => exact absurd inside (Nat.not_lt_zero j)
  | cons b l ih =>
    rw [leNat, Nat.add_comm b.toNat, show 256 = 2 ^ 8 from rfl, Nat.testBit_two_pow_mul_add _ b.isLt]
    cases j with
    | zero => rw [if_pos (by omega), Nat.mul_zero, Nat.zero_add]; rfl
    | succ j =>
      rw [if_neg (by omega), show 8 * (j + 1) + k - 8 = 8 * j + k by omega]
      exact ih (Nat.lt_of_succ_lt_succ inside)

theorem extractLsb'_leNat {w : Nat} (l : List Byte) {j : Nat} (inside : j < l.length) (fits : 8 * j + 8 ≤ w) :
    (BitVec.ofNat w (leNat l)).extractLsb' (8 * j) 8 = l[j] := by
  refine BitVec.eq_of_getLsbD_eq fun k bit => ?_
  rw [BitVec.getLsbD_extractLsb', BitVec.getLsbD_ofNat, testBit_leNat l inside bit, decide_eq_true bit,
    decide_eq_true (show 8 * j + k < w by omega), Bool.true_and, Bool.true_and]

theorem getElem_leBytes {w : Nat} (v : BitVec w) (n : Nat) {j : Nat} (inside : j < (leBytes v n).length) :
    (leBytes v n)[j] = v.extractLsb' (8 * j) 8 := by
  induction n generalizing v j with
  | zero => exact absurd inside (Nat.not_lt_zero j)
  | succ n ih =>
    cases j with
    | zero =>
      show v.setWidth 8 = _
      exact BitVec.eq_of_getLsbD_eq fun k bit => by simp [bit]
    | succ j =>
      refine (ih (v >>> 8) (Nat.lt_of_succ_lt_succ inside)).trans (BitVec.eq_of_getLsbD_eq fun k _ => ?_)
      simp only [BitVec.getLsbD_extractLsb', BitVec.getLsbD_ushiftRight, show 8 + (8 * j + k) = 8 * (j + 1) + k by omega]

theorem length_bytes (m : Mem) (a n : Nat) : (m.bytes a n).length = n := by
  induction n generalizing a with
  | zero => rfl
  | succ n ih => exact congrArg (· + 1) (ih (a + 1))

theorem getElem_bytes (m : Mem) (a n : Nat) {j : Nat} (inside : j < (m.bytes a n).length) : (m.bytes a n)[j] = m.read (a + j) := by
  induction n generalizing a j with
  | zero => exact absurd inside (Nat.not_lt_zero j)
  | succ n ih =>
    cases j with
    | zero => rfl
    | succ j => exact (ih (a + 1) (Nat.lt_of_succ_lt_succ inside)).trans (congrArg m.read (by omega))

/-- A byte of a word read is the byte at its place. -/
theorem extractLsb'_readLE (m : Mem) (a : Nat) {n w j : Nat} (inside : j < n) (fits : 8 * j + 8 ≤ w) :
    (m.readLE a n w).extractLsb' (8 * j) 8 = m.read (a + j) :=
  (extractLsb'_leNat _ ((length_bytes m a n).symm ▸ inside) fits).trans (getElem_bytes m a n _)

theorem read_writeLE_same {w : Nat} {m : Mem} (wf : m.wf = true) (a : Nat) {n j : Nat} (v : BitVec w) (inside : j < n) :
    (m.writeLE a n v).read (a + j) = v.extractLsb' (8 * j) 8 := by
  have stored : (m.writeLE a n v).bytes a n = leBytes v n := by
    have := Mem.bytes_writeBytes wf a (leBytes v n)
    rwa [leBytes_length] at this
  rw [← getElem_bytes (m.writeLE a n v) a n ((length_bytes ..).symm ▸ inside), ← getElem_leBytes v n ((leBytes_length v n).symm ▸ inside)]
  exact List.getElem_of_eq stored _

theorem read_writeLE_outside {w : Nat} {m : Mem} (wf : m.wf = true) {a n x : Nat} (v : BitVec w) (outside : ∀ j < n, a + j ≠ x) :
    (m.writeLE a n v).read x = m.read x := by
  refine Mem.read_writeLE_other wf v ?_
  by_contra inside
  exact outside (x - a) (by omega) (by omega)

/-! ## The memories in canonical form -/

theorem get_of_all {α : Type} {p : Nat × α → Bool} {m : PMap α} (all : m.all p = true) {a : Nat} {d : α} (default : p (a, d) = true) :
    p (a, m.get a d) = true := by
  rw [PMap.get]
  induction m with
  | nil => exact default
  | cons e m ih =>
    obtain ⟨here, rest⟩ := Bool.and_eq_true_iff.mp (List.all_cons (f := p) ▸ all)
    rw [PMap.find?]
    split
    case isTrue eq => exact eq ▸ here
    case isFalse => exact ih rest

section
variable {s : State} (ok : s.memOk = true)
include ok

theorem memOk_core (c : Nat) : (s.core c).ulm.wf = true := by
  simp only [State.memOk, Bool.and_eq_true] at ok
  obtain ⟨⟨⟨-, cores⟩, -⟩, -⟩ := ok
  exact get_of_all (p := fun x : Nat × Core => x.2.memOk) cores rfl

theorem memOk_cluster (k : Nat) : ((s.cluster k).scratch.wf = true ∧ (s.cluster k).tiles.wf = true) ∧ (s.cluster k).tables.wf = true := by
  simp only [State.memOk, Bool.and_eq_true] at ok
  obtain ⟨⟨-, clusters⟩, -⟩ := ok
  have := get_of_all (p := fun x : Nat × Cluster => x.2.memOk) clusters (a := k) (d := Cluster.reset) rfl
  rwa [Cluster.memOk, Bool.and_eq_true, Bool.and_eq_true] at this

theorem memOk_die (d : Nat) : (s.die d).ae.scores.wf = true := by
  simp only [State.memOk, Bool.and_eq_true] at ok
  obtain ⟨-, dies⟩ := ok
  exact get_of_all (p := fun x : Nat × Die => x.2.memOk) dies rfl

end

/-! ## A write to one memory -/

/-- A byte memory of the machine that a local window names. -/
inductive Bank where
  | ulm (core : Nat)
  | scratch (cluster : Nat)
  | tiles (cluster : Nat)
  | tables (cluster : Nat)
  | scores (die : Nat)

/-- The memory's contents. -/
def Bank.mem (s : State) : Bank → Mem
  | .ulm c => (s.core c).ulm
  | .scratch k => (s.cluster k).scratch
  | .tiles k => (s.cluster k).tiles
  | .tables k => (s.cluster k).tables
  | .scores d => (s.die d).ae.scores

/-- The state with the memory's contents replaced. -/
def Bank.put (s : State) (m : Mem) : Bank → State
  | .ulm c => s.setCore c { s.core c with ulm := m }
  | .scratch k => s.setCluster k { s.cluster k with scratch := m }
  | .tiles k => s.setCluster k { s.cluster k with tiles := m }
  | .tables k => s.setCluster k { s.cluster k with tables := m }
  | .scores d => s.setDie d { s.die d with ae := { (s.die d).ae with scores := m } }

/-- The place of the memory's byte at an address. -/
def Bank.place (a : Nat) : Bank → Place
  | .ulm c => .ulm c a
  | .scratch k => .scratch k a
  | .tiles k => .tiles k a
  | .tables k => .tables k a
  | .scores d => .scores d a

/-- The state with the low `n` bytes of a word written to the memory. -/
def Bank.write {w : Nat} (b : Bank) (s : State) (a n : Nat) (v : BitVec w) : State := b.put s ((b.mem s).writeLE a n v)

section
variable {s : State} (b : Bank)

theorem byteAt_place (a : Nat) : s.byteAt (b.place a) = (b.mem s).read a := by cases b <;> rfl

theorem byteAt_put_same (m : Mem) (a : Nat) : (b.put s m).byteAt (b.place a) = m.read a := by
  cases b <;> simp only [Bank.put, Bank.place, State.byteAt, core_setCore_same, cluster_setCluster_same, die_setDie_same]

theorem byteAt_setCore_other {c : Nat} {p : Place} (other : ∀ a, p ≠ .ulm c a) (k : Core) : (s.setCore c k).byteAt p = s.byteAt p := by
  cases p with
  | ulm d a => simp only [State.byteAt, core_setCore_other s (fun here : d = c => other a (here ▸ rfl))]
  | _ => rfl

theorem byteAt_setDie_other {d : Nat} {p : Place} (other : ∀ a, p ≠ .scores d a) (x : Die) : (s.setDie d x).byteAt p = s.byteAt p := by
  cases p with
  | scores e a => simp only [State.byteAt, die_setDie_other s (fun here : e = d => other a (here ▸ rfl))]
  | _ => rfl

/-- A cluster whose bytes at a place read as before. -/
theorem byteAt_setCluster_keeps {k : Nat} {x : Cluster} (p : Place) (scratch : ∀ a, p = .scratch k a → x.scratch = (s.cluster k).scratch)
    (tiles : ∀ a, p = .tiles k a → x.tiles = (s.cluster k).tiles) (tables : ∀ a, p = .tables k a → x.tables = (s.cluster k).tables) :
    (s.setCluster k x).byteAt p = s.byteAt p := by
  have reads (d : Nat) : (s.setCluster k x).cluster d = if d = k then x else s.cluster d := by
    by_cases here : d = k
    · rw [here, cluster_setCluster_same, if_pos rfl]
    · rw [cluster_setCluster_other s here, if_neg here]
  cases p with
  | scratch d a =>
    simp only [State.byteAt, reads]
    split
    case isTrue here => exact here ▸ congrArg (Mem.read · a) (scratch a (here ▸ rfl))
    case isFalse => rfl
  | tiles d a =>
    simp only [State.byteAt, reads]
    split
    case isTrue here => exact here ▸ congrArg (Mem.read · a) (tiles a (here ▸ rfl))
    case isFalse => rfl
  | tables d a =>
    simp only [State.byteAt, reads]
    split
    case isTrue here => exact here ▸ congrArg (Mem.read · a) (tables a (here ▸ rfl))
    case isFalse => rfl
  | _ => rfl

theorem byteAt_put_other (m : Mem) {p : Place} (other : ∀ a, p ≠ b.place a) : (b.put s m).byteAt p = s.byteAt p := by
  cases b with
  | ulm c => exact byteAt_setCore_other other _
  | scores d => exact byteAt_setDie_other other _
  | scratch k => exact byteAt_setCluster_keeps p (fun a at_ => absurd at_ (other a)) (fun _ _ => rfl) fun _ _ => rfl
  | tiles k => exact byteAt_setCluster_keeps p (fun _ _ => rfl) (fun a at_ => absurd at_ (other a)) fun _ _ => rfl
  | tables k => exact byteAt_setCluster_keeps p (fun _ _ => rfl) (fun _ _ => rfl) fun a at_ => absurd at_ (other a)

variable (ok : s.memOk = true) (a n : Nat) {w : Nat} (v : BitVec w)
include ok

theorem wf_mem : (b.mem s).wf = true := by
  cases b with
  | ulm c => exact memOk_core ok c
  | scratch k => exact (memOk_cluster ok k).1.1
  | tiles k => exact (memOk_cluster ok k).1.2
  | tables k => exact (memOk_cluster ok k).2
  | scores d => exact memOk_die ok d

theorem byteAt_write_same {n j : Nat} (inside : j < n) : (b.write s a n v).byteAt (b.place (a + j)) = v.extractLsb' (8 * j) 8 := by
  rw [Bank.write, byteAt_put_same, read_writeLE_same (wf_mem b ok) a v inside]

theorem sameBut_write : SameBut (fun j => some (b.place (a + j))) n s (b.write s a n v) := by
  intro p outside
  by_cases here : ∃ x, p = b.place x
  · obtain ⟨x, rfl⟩ := here
    rw [Bank.write, byteAt_put_same, byteAt_place, read_writeLE_outside (wf_mem b ok) v]
    exact fun j inside eq => outside j inside (eq ▸ rfl)
  · exact byteAt_put_other b _ fun x at_ => here ⟨x, at_⟩

end

end Sys2Proof.Laws

/-!
Local loads (R109, R111, R113, R114): the checked access, what a window reads as, a load's value on its way, and obligation O6.
-/

namespace Sys2Proof.Laws

open Sys2Proof Sys2Proof.Machine

/-! ## What the windows are (R109) -/

/-- A local window that is a byte memory: the address stands for its byte `a`. -/
structure MemoryWindow (s : State) (ea : W64) (b : Bank) (a : Nat) : Prop where
  place : ∀ j, placeOf s ea j = some (b.place (a + j))
  read : ∀ n, s.readLocal ea n = (b.mem s).readLE a n 64
  write : ∀ n v, s.writeLocal ea n v = b.write s a n v
  notScores : ∀ d, b ≠ .scores d

section
variable (s : State) {ea : W64}

theorem memoryWindow_ulm (type : opmType ea = 0) : MemoryWindow s ea (.ulm (opmCore ea)) (ulmOff s ea) := by
  constructor <;> simp [placeOf, State.readLocal, State.writeLocal, type, Bank.place, Bank.mem, Bank.write, Bank.put]

theorem memoryWindow_scratch (type : opmType ea = 4) : MemoryWindow s ea (.scratch (clusterOf (opmCore ea))) (opmOff ea) := by
  constructor <;> simp [placeOf, State.readLocal, State.writeLocal, type, Bank.place, Bank.mem, Bank.write, Bank.put]

theorem memoryWindow_tiles (type : opmType ea = 5) : MemoryWindow s ea (.tiles (clusterOf (opmCore ea))) (opmOff ea) := by
  constructor <;> simp [placeOf, State.readLocal, State.writeLocal, type, Bank.place, Bank.mem, Bank.write, Bank.put]

theorem memoryWindow_tables (type : opmType ea = 6) : MemoryWindow s ea (.tables (clusterOf (opmCore ea))) (opmOff ea) := by
  constructor <;> simp [placeOf, State.readLocal, State.writeLocal, type, Bank.place, Bank.mem, Bank.write, Bank.put]

theorem memoryWindow (memory : opmType ea = 0 ∨ opmType ea = 4 ∨ opmType ea = 5 ∨ opmType ea = 6) : ∃ b a, MemoryWindow s ea b a := by
  rcases memory with ulm | scratch | tiles | tables
  · exact ⟨_, _, memoryWindow_ulm s ulm⟩
  · exact ⟨_, _, memoryWindow_scratch s scratch⟩
  · exact ⟨_, _, memoryWindow_tiles s tiles⟩
  · exact ⟨_, _, memoryWindow_tables s tables⟩

end

section
variable {s : State} {ea : W64}

theorem MemoryWindow.readLocal_byte {b : Bank} {a : Nat} (window : MemoryWindow s ea b a) {n j : Nat} (small : n ≤ 8) (inside : j < n) :
    ∃ p, placeOf s ea j = some p ∧ (s.readLocal ea n).extractLsb' (8 * j) 8 = s.byteAt p :=
  ⟨_, window.place j, by rw [window.read, extractLsb'_readLE _ a inside (by omega), byteAt_place]⟩

theorem windowCtx_own (s : State) : s.windowCtx s.focus = some s.ctx := if_pos rfl

theorem vbyte_eq (x : Ctx) {v : VReg} {i b : Nat} (byte : b < 256) (at_ : i = 256 * v.toNat + b) :
    x.vbyte i = (x.vreg v).extractLsb' (8 * b) 8 := by
  have low : v.toNat < 16 := v.isLt
  have reg : i / 256 = v.toNat := by omega
  have place : i % 256 = b := by omega
  simp only [Ctx.vbyte, Ctx.vreg, reg, place, dif_pos low]

theorem csrAt_toBits (c : Csr) : csrAt (8 * c.toBits.toNat) = c := by cases c <;> rfl

variable (own : opmCore ea = s.focus)
include own

theorem readLocal_register (type : opmType ea = 1) {n : Fin 11} {r : SReg} (off : opmOff ea = 256 * n.val + 8 * r.toNat) :
    s.readLocal ea 8 = if (s.ctx.thread n).live then (s.ctx.thread n).reg r else 0 := by
  have low : r.toNat < 32 := r.isLt
  have thread : thrOf (opmOff ea / 256) = n := by rw [show opmOff ea / 256 = n.val by omega, thrOf_val]
  have reg : BitVec.ofNat 5 (opmOff ea % 256 / 8) = r := by
    rw [show opmOff ea % 256 / 8 = r.toNat by omega, BitVec.ofNat_toNat, BitVec.setWidth_eq]
  simp only [State.readLocal, type, own, windowCtx_own, thread, reg]

theorem readLocal_vector (type : opmType ea = 2) {n j b : Nat} {v : VReg} (small : n ≤ 8) (inside : j < n) (byte : b < 256)
    (off : opmOff ea + j = 256 * v.toNat + b) : (s.readLocal ea n).extractLsb' (8 * j) 8 = (s.ctx.vreg v).extractLsb' (8 * b) 8 := by
  simp only [State.readLocal, type, own, windowCtx_own, Ctx.vread]
  rw [extractLsb'_leNat _ (by simpa using inside) (by omega), List.getElem_map, List.getElem_range]
  exact vbyte_eq _ byte off

theorem readLocal_csr (type : opmType ea = 3) {c : Csr} (off : opmOff ea = 8 * c.toBits.toNat) : s.readLocal ea 8 = s.csr c := by
  simp only [State.readLocal, type, own, windowCtx_own, off, csrAt_toBits, beq_self_eq_true, Bool.true_or]
  rfl

end

/-! ## Window 7 (R269, R270) -/

theorem extractLsb'_window (e : Ae) {off j : Nat} (scores : off < 0x800000) (inside : j < 8) :
    (e.window off).extractLsb' (8 * j) 8 = e.scores.read (off + j) := by
  rw [Ae.window, if_pos scores, extractLsb'_readLE _ _ inside (by omega)]

theorem extractLsb'_low_word (w : W64) {o j : Nat} (inside : j < 4) :
    (((w >>> (8 * o)).setWidth 32).setWidth 64).extractLsb' (8 * j) 8 = w.extractLsb' (8 * (o + j)) 8 := by
  refine BitVec.eq_of_getLsbD_eq fun k bit => ?_
  have low : 8 * j + k < 32 := by omega
  simp [BitVec.getLsbD_setWidth, bit, low, show 8 * o + (8 * j + k) = 8 * (o + j) + k by omega]
  omega

/-- A byte of the scores, read through window 7. -/
theorem extractLsb'_aeRead (e : Ae) {off n j : Nat} (width : n = 4 ∨ n = 8) (aligned : off % n = 0) (scores : off + n ≤ 0x800000)
    (inside : j < n) : (e.read off n).extractLsb' (8 * j) 8 = e.scores.read (off + j) := by
  rcases width with rfl | rfl
  · simp only [Ae.read]
    rw [if_neg (by decide : ¬4 = 8), extractLsb'_low_word _ inside, extractLsb'_window e (by omega) (by omega)]
    exact congrArg e.scores.read (by omega)
  · simp only [Ae.read, if_true]
    rw [extractLsb'_window e (by omega) (by omega), show off / 8 * 8 = off by omega]

section
variable {s : State} {ea : W64} (type : opmType ea = 7) (n : Nat)
include type

theorem readLocal_ae_user (user : s.ctx.mode = .user) : s.readLocal ea n = 0 := by
  simp only [State.readLocal, type, user, if_true]

theorem readLocal_ae_supervisor (supervisor : s.ctx.mode = .supervisor) :
    s.readLocal ea n = (s.die (dieOf (opmCore ea))).ae.read (opmOff ea) n := by
  simp only [State.readLocal, type, supervisor, reduceCtorEq, if_false]

end

/-! ## The checked access (R109, R110, R306) -/

section
variable {i : Instr} {len n : Nat} {fe lock : Bool} {ea : W64} {s : State} {go : State → Out}

theorem accessStop_fresh (fresh : s.th.stall = none) : accessStop i fe lock ea n s = localCheck i fe lock ea n s := by
  rw [accessStop, fresh]
  rfl

/-- An access that has issued is not stopped by the checks that it has passed (R62). -/
theorem checkFrom_again (fine : ∀ cause val, localCheck i fe lock ea n s ≠ some (.trap cause val)) (first : Bool) :
    checkFrom first i fe lock ea n s = localCheck i fe lock ea n s := by
  cases first with
  | true => rfl
  | false =>
    have phase : ¬(true && leavesCluster s.focus ea && s.ctx.phase == .compute) = true := fun h => fine _ _ (if_pos h)
    have shared : ¬notOpm ea = true := fun h => fine _ _ ((if_neg phase).trans (if_pos h))
    have priv : ¬(opmType ea = 3 ∧ s.ctx.mode = .user) := fun h =>
      fine _ _ ((if_neg phase).trans ((if_neg shared).trans (if_pos ⟨rfl, h⟩)))
    simp only [localCheck, checkFrom, phase, shared, priv, Bool.false_and, Bool.false_eq_true, and_false, if_false]

theorem checkedLocal_trap (fresh : s.th.stall = none) {cause : BitVec 8} {val : W64}
    (stop : localCheck i fe lock ea n s = some (.trap cause val)) :
    checkedLocal i len fe lock ea n s go = .next (trapEntry cause val s) := by
  simp only [checkedLocal, accessStop_fresh fresh, stop, trap]

theorem checkedLocal_remote (stop : localCheck i fe lock ea n s = some .remote) :
    checkedLocal i len fe lock ea n s go = stallOn len 0 .remote s := by
  have again : accessStop i fe lock ea n s = some .remote := (checkFrom_again (fun _ _ => stop ▸ nofun) _).trans stop
  simp only [checkedLocal, again]

theorem checkedLocal_passes (pass : localCheck i fe lock ea n s = none) :
    checkedLocal i len fe lock ea n s go = if s.atSource && s.behind ea then stallOn len 0 .remote s else go s := by
  have again : accessStop i fe lock ea n s = none := (checkFrom_again (fun _ _ => pass ▸ nofun) _).trans pass
  simp only [checkedLocal, again]

theorem checkedLocal_behind (pass : localCheck i fe lock ea n s = none) (behind : (s.atSource && s.behind ea) = true) :
    checkedLocal i len fe lock ea n s go = stallOn len 0 .remote s := (checkedLocal_passes pass).trans (if_pos behind)

theorem checkedLocal_goes (pass : localCheck i fe lock ea n s = none) (next : (s.atSource && s.behind ea) = false) :
    checkedLocal i len fe lock ea n s go = go s := (checkedLocal_passes pass).trans (if_neg (ne_true_of_eq_false next))

theorem atSource_fresh (fresh : s.th.stall = none) : s.atSource = true := by simp only [State.atSource, fresh]

/-- What LocalCheck stops traps or waits, whichever instruction makes the access. -/
theorem stops_of_checkedLocal (form : exec i s = checkedLocal i len fe lock ea n s go) : Stops fe lock i s len ea n := by
  refine fun fresh => ⟨fun cause val stop => form.trans (checkedLocal_trap fresh stop), ?_⟩
  rintro (remote | ⟨pass, behind⟩) <;> rw [form]
  · rw [checkedLocal_remote remote, stallOn_fresh s fresh]
  · rw [checkedLocal_behind pass (by rw [atSource_fresh fresh, behind]; rfl), stallOn_fresh s fresh]

end

/-! ## A load's value on its way (R111, R313) -/

/-- What a load's entry among the outstanding ones, and its thread, are made of. -/
def loader (s : State) : Nat × Nat × Fin 11 × Nat × List LocalLoad × PMap Boundary × Nat × Bool × Thread :=
  (s.seq, s.focus, s.thr, s.now, s.locals, s.boundaries, s.ctx.launch, s.ctx.accerr, { s.th with half := none })

/-- A load from a state that differs in nothing that its value's way depends on. -/
theorem loaded_congr {s u t : State} (same : loader u = loader s) {len : Nat} {rd : SReg} {ea : W64} {half : Option HalfAccess} {v : W64} :
    Loaded u t len rd ea half v ↔ Loaded s t len rd ea half v := by
  simp only [loader, Prod.mk.injEq] at same
  obtain ⟨seq, focus, thr, now, locals, boundaries, launch, accerr, thread⟩ := same
  have th : u.th = { s.th with half := u.th.half } := congrArg (fun h : Thread => { h with half := u.th.half }) thread
  simp only [Loaded, State.cutOff, seq, focus, thr, now, locals, boundaries, launch, accerr]
  rw [th]
  exact Iff.rfl

/-- No byte of memory, no full/empty bit and nothing of a cluster differs. -/
structure SameBytes (s t : State) : Prop where
  bytes : t.byteAt = s.byteAt
  fe : ∀ c, (t.core c).fe = (s.core c).fe
  clusters : t.clusters = s.clusters

theorem SameBytes.trans {s t u : State} (first : SameBytes s t) (second : SameBytes t u) : SameBytes s u :=
  ⟨second.bytes.trans first.bytes, fun c => (second.fe c).trans (first.fe c), second.clusters.trans first.clusters⟩

theorem sameBytes_setCore {s : State} {c : Nat} {k : Core} (ulm : k.ulm = (s.core c).ulm) (fe : k.fe = (s.core c).fe) :
    SameBytes s (s.setCore c k) := ⟨byteAt_setCore s ulm, core_setCore_keeps s fe, rfl⟩

theorem sameBytes_setCtx (s : State) (x : Ctx) : SameBytes s (s.setCtx x) := sameBytes_setCore rfl rfl

theorem sameBytes_setTh (s : State) (h : Thread) : SameBytes s (s.setTh h) := sameBytes_setCtx s _

/-- The state in which an entry of outstanding loads has gone out, and the thread goes on. -/
theorem loadSent (s : State) (n : Nat) (ls : List LocalLoad) (h : Thread) : let t := ({ s with seq := n, locals := ls } : State).setTh h
    t.th = h ∧ t.locals = ls ∧ t.ctx.accerr = s.ctx.accerr ∧ SameBytes s t := by
  have same : SameBytes s { s with seq := n, locals := ls } := ⟨byteAt_ext (fun _ => rfl) (fun _ => rfl) rfl rfl, fun _ => rfl, rfl⟩
  refine ⟨th_setTh .., rfl, ?_, same.trans (sameBytes_setTh ..)⟩
  rw [ctx_setTh]
  rfl

section
variable (len n : Nat) (rd : SReg) (ea : W64) (v : W64) (s : State)

theorem loadResult_loaded : ∃ t, loadResult len rd ea v s = .next t ∧ Loaded s t len rd ea s.th.half v ∧ SameBytes s t := by
  by_cases own : ownUlm s.focus ea = true
  · refine ⟨_, if_pos own, ?_, sameBytes_setTh ..⟩
    rw [Loaded, if_pos own]
    exact ⟨th_setTh .., rfl⟩
  refine ⟨_, if_neg own, ?_⟩
  rw [Loaded, if_neg own]
  by_cases cut : s.cutOff (dieOf s.focus) (opmDie ea) = true
  · simp only [cut, if_true]
    have th : s.setAccerr.th = s.th := th_setCtx s _
    have launch : s.setAccerr.ctx.launch = s.ctx.launch := by rw [State.setAccerr, ctx_setCtx]
    obtain ⟨thread, locals, accerr, same⟩ := loadSent s.setAccerr (s.setAccerr.seq + 1) _ _
    refine ⟨⟨thread.trans (by rw [th]), fun zero => locals.trans (if_pos zero), accerr.trans ?_, fun ne => ?_⟩,
      (sameBytes_setCtx s _).trans same⟩
    · rw [State.setAccerr, ctx_setCtx]
    · exact (locals.trans (if_neg ne)).trans (by rw [th, launch]; rfl)
  · simp only [cut]
    obtain ⟨thread, locals, accerr, same⟩ := loadSent s (s.seq + 1) _ _
    exact ⟨⟨thread, fun zero => locals.trans (if_pos zero), accerr, fun ne => locals.trans (if_neg ne)⟩, same⟩

theorem loader_setTh_half (half : Option HalfAccess) : loader (s.setTh { s.th with half := half }) = loader s := by
  simp only [loader, th_setTh, ctx_setTh]
  rfl

theorem loadWords_loaded : ∃ t, loadWords len rd ea n v s = .next t ∧ Loaded s t len rd ea (halfLeft s rd ea n) v ∧ SameBytes s t := by
  unfold loadWords halfLeft
  split
  · exact loadResult_loaded len rd ea v s
  · obtain ⟨t, next, loaded, same⟩ := loadResult_loaded len rd ea v (s.setHalf (s.halfOf ea n none))
    have half : (s.setHalf (s.halfOf ea n none)).th.half = s.halfOf ea n none := by rw [State.setHalf, th_setTh]
    exact ⟨t, next, half ▸ (loaded_congr (loader_setTh_half s _)).mp loaded, (sameBytes_setTh ..).trans same⟩

end

/-! ## The loads (R113) -/

/-- How a load widens what it has read: the low bytes, extended. -/
theorem widen_eq (v : W64) (signed : Bool) {n : Nat} (width : n = 1 ∨ n = 2 ∨ n = 4 ∨ n = 8) (whole : n = 8 → signed = false) :
    widen n signed v = if signed then (v.extractLsb' 0 (8 * n)).signExtend 64 else (v.extractLsb' 0 (8 * n)).setWidth 64 := by
  have low (k : Nat) : v.setWidth k = v.extractLsb' 0 k := BitVec.eq_of_getLsbD_eq fun j bit => by simp [bit]
  rcases width with rfl | rfl | rfl | rfl
  · simp only [widen, low]; rfl
  · simp only [widen, low]; rfl
  · simp only [widen, low]; rfl
  · rw [whole rfl, if_neg Bool.false_ne_true, ← low]
    exact (BitVec.setWidth_eq _).symm

/-- What R110, R113 and R306 make of a load. -/
def LoadsAs (i : Instr) (s : State) (len n : Nat) (signed : Bool) (rd : SReg) (ea : W64) : Prop :=
  let m := (s.readLocal ea n).extractLsb' 0 (8 * n)
  let waits : Prop :=
    if s.th.stall = none then exec i s = .next (s.setTh { s.th with stall := some ⟨len, 0, .remote⟩ })
    else exec i s = .next { s with waiting := true }
  match localCheck i false false ea n s with
  | none =>
    if s.atSource && s.behind ea then waits
    else ∃ t, exec i s = .next t ∧ Loaded s t len rd ea (halfLeft s rd ea n) (if signed then m.signExtend 64 else m.setWidth 64) ∧
      SameMemory s t ∧ ∀ c, (t.core c).fe = (s.core c).fe
  | some (.trap cause val) => s.th.stall = none → exec i s = .next (trapEntry cause val s)
  | some .remote => waits

section
variable {i : Instr} {s : State} {len n : Nat} {signed : Bool} {rd ra : SReg} {off : W64}

theorem stallOn_remote : if s.th.stall = none then stallOn len 0 .remote s = .next (s.setTh { s.th with stall := some ⟨len, 0, .remote⟩ })
    else stallOn len 0 .remote s = .next { s with waiting := true } := by
  split
  case isTrue fresh => exact stallOn_fresh s fresh
  case isFalse waits => exact if_pos (Option.isSome_iff_ne_none.mpr waits)

theorem loadsAs_localLoad (form : exec i s = localLoad i len n signed rd ra off s) (has : s.has [ra, rd] = true)
    (width : n = 1 ∨ n = 2 ∨ n = 4 ∨ n = 8) (whole : n = 8 → signed = false) : LoadsAs i s len n signed rd (s.reg ra + off) := by
  have checked := form.trans (ready_of_has has _)
  unfold LoadsAs
  cases stop : localCheck i false false (s.reg ra + off) n s with
  | none =>
    cases behind : s.atSource && s.behind (s.reg ra + off) with
    | true => rw [checked, checkedLocal_behind stop behind]; exact stallOn_remote
    | false =>
      dsimp only
      rw [if_neg Bool.false_ne_true, checked, checkedLocal_goes stop behind, ← widen_eq _ signed width whole]
      obtain ⟨t, eq, loaded, same⟩ := loadWords_loaded len n rd (s.reg ra + off) (widen n signed (s.readLocal (s.reg ra + off) n)) s
      exact ⟨t, eq, loaded, sameMemory_of_byteAt same.bytes, same.fe⟩
  | some stopped =>
    cases stopped with
    | trap cause val => exact fun fresh => checked.trans (checkedLocal_trap fresh stop)
    | remote => rw [checked, checkedLocal_remote stop]; exact stallOn_remote

end

/-! ## The second word access of a load from the own ULM (R114) -/

theorem makeHalf_load {s : State} {c : Nat} {n : Fin 11} {a : HalfAccess} {r : Result} (half : ((s.core c).run.thread n).half = some a)
    (load : a.store = none) (ulm : a.scratch = false) (own : a.unit = c) (results : ((s.core c).run.thread n).results = [r])
    (latest : r.load = true) : (((s.makeHalf c n).core c).run.thread n).results =
      [{ r with val := withHalf r.val a.high ((s.core c).ulm.readLE a.off 4 32) }] := by
  unfold State.makeHalf
  dsimp only
  rw [half]
  simp only [load, ulm, own, results, updLast, latest, Bool.not_false, beq_self_eq_true, Bool.and_self, List.any_nil, if_true,
    Bool.false_eq_true, if_false, core_setCore_same, thread_setThread_same]

theorem makeHalf_focus (s : State) (c : Nat) (n : Fin 11) : (s.makeHalf c n).focus = s.focus :=
  makeHalf_frame (f := State.focus) (fun _ _ _ => rfl) (fun _ _ _ _ => rfl) (fun _ _ _ => rfl) (fun _ _ => rfl) s c n

/-! ## The obligation -/

/-- Settles O6: each load by the three ends of the checked access, what a window reads as by the window's own lemma. -/
theorem localLoads : Obligations.LocalLoads := by
  unfold Obligations.LocalLoads
  refine ⟨fun s rd ra imm lit has => ?loads, fun s ea n small memory j inside => ?memory, fun s ea own => ⟨fun n r type => readLocal_register own type,
    fun n j b v type small inside byte => readLocal_vector own type small inside byte, fun c type => readLocal_csr own type⟩,
    fun s ea n type width aligned => ⟨readLocal_ae_user type n, fun supervisor scores j inside => ?scores⟩,
    fun s n a r half load ulm own results latest => ?half⟩
  case loads =>
    have as {i : Instr} {len n : Nat} {signed : Bool} {off : W64} (form : exec i s = localLoad i len n signed rd ra off s)
        (width : n = 1 ∨ n = 2 ∨ n = 4 ∨ n = 8) (whole : n = 8 → signed = false) : LoadsAs i s len n signed rd (s.reg ra + off) :=
      loadsAs_localLoad form has width whole
    exact ⟨as rfl (by decide) (by decide), as rfl (by decide) (by decide), as rfl (by decide) (by decide), as rfl (by decide) (by decide),
      as rfl (by decide) (by decide), as rfl (by decide) (by decide), as rfl (by decide) (by decide), as rfl (by decide) (by decide),
      as rfl (by decide) (by decide), as rfl (by decide) (by decide), as rfl (by decide) (by decide), as rfl (by decide) (by decide),
      as rfl (by decide) (by decide), as rfl (by decide) (by decide)⟩
  case memory =>
    obtain ⟨b, a, window⟩ := memoryWindow s memory
    exact window.readLocal_byte small inside
  case scores =>
    rw [readLocal_ae_supervisor type n supervisor]
    exact extractLsb'_aeRead _ width aligned scores inside
  case half =>
    rw [State.ctx, State.cur, makeHalf_focus]
    exact makeHalf_load half load ulm own results latest

end Sys2Proof.Laws

/-!
Local stores (R105, R109, R113, R114): what a write to each window changes, the two words of an 8-byte access, and obligation O7.
-/

namespace Sys2Proof.Laws

open Sys2Proof Sys2Proof.Machine

/-! ## States that differ in memory alone -/

/-- Outside byte memories, full/empty bits and lock bits nothing differs. -/
structure BytesOnly (s t : State) : Prop where
  device : { t with cores := s.cores, clusters := s.clusters } = s
  cores : ∀ c, (t.core c).bytesOf (s.core c) = s.core c
  clusters : ∀ k, (t.cluster k).bytesOf (s.cluster k) = s.cluster k

section
variable {s t : State}

theorem bytesOnly_setCore {c : Nat} {k : Core} (keeps : k.bytesOf (s.core c) = s.core c) : BytesOnly s (s.setCore c k) := by
  refine ⟨rfl, fun d => ?_, fun _ => rfl⟩
  by_cases here : d = c
  · rw [here, core_setCore_same, keeps]
  · rw [core_setCore_other s here]
    rfl

theorem bytesOnly_setCluster {k : Nat} {x : Cluster} (keeps : x.bytesOf (s.cluster k) = s.cluster k) : BytesOnly s (s.setCluster k x) := by
  refine ⟨rfl, fun _ => rfl, fun d => ?_⟩
  by_cases here : d = k
  · rw [here, cluster_setCluster_same, keeps]
  · rw [cluster_setCluster_other s here]
    rfl

theorem bytesOnly_put {b : Bank} (notScores : ∀ d, b ≠ .scores d) (m : Mem) : BytesOnly s (b.put s m) := by
  cases b with
  | ulm c => exact bytesOnly_setCore rfl
  | scratch k | tiles k | tables k => exact bytesOnly_setCluster rfl
  | scores d => exact absurd rfl (notScores d)

theorem put_fe (b : Bank) (m : Mem) (c : Nat) : ((b.put s m).core c).fe = (s.core c).fe := by
  cases b with
  | ulm d => exact core_setCore_keeps s (k := { s.core d with ulm := m }) (g := Core.fe) rfl c
  | _ => rfl

section
variable (only : BytesOnly s t)
include only

theorem BytesOnly.focus : t.focus = s.focus := (congrArg State.focus only.device :)

theorem BytesOnly.thr : t.thr = s.thr := (congrArg State.thr only.device :)

theorem BytesOnly.ctx : t.ctx = s.ctx := by
  rw [State.ctx, State.cur, only.focus]
  exact (congrArg Core.run (only.cores s.focus) :)

theorem BytesOnly.th : t.th = s.th := by rw [State.th, only.ctx, only.thr]; rfl

/-- The issuing thread's progress after a write. -/
theorem BytesOnly.setTh (h : Thread) : StoreOnly s (t.setTh h) h := by
  refine ⟨only.device, fun c => ?_, only.clusters⟩
  by_cases here : c = s.focus
  · have own : (t.setTh h).core c = { t.core s.focus with run := s.ctx.setThread s.thr h } := by
      rw [here, ← only.focus, ← only.ctx, ← only.thr]
      exact cur_setTh t h
    rw [own, here]
    exact (congrArg (fun k : Core => { k with run := s.ctx.setThread s.thr h }) (only.cores s.focus)).trans (cur_setTh s h).symm
  · rw [core_setTh_other t (only.focus ▸ here), core_setTh_other s here]
    exact only.cores c

end

end

/-! ## A thread replaced twice -/

theorem PMap.put_put {α : Type} (m : PMap α) (a : Nat) (x y : α) : PMap.put (PMap.put m a x) a y = PMap.put m a y := by
  induction m with
  | nil => simp [PMap.put]
  | cons e m ih =>
    obtain ⟨k, v⟩ := e
    simp only [PMap.put]
    split_ifs with above here
    · simp [PMap.put]
    · simp [PMap.put]
    · simp only [PMap.put, if_neg above, if_neg here, ih]

theorem setCore_setCore (s : State) (c : Nat) (x y : Core) : (s.setCore c x).setCore c y = s.setCore c y := by
  simp only [State.setCore, PMap.put_put]

theorem setTh_setTh (s : State) (g h : Thread) : (s.setTh g).setTh h = s.setTh h := by
  have set : (s.ctx.setThread s.thr g).setThread s.thr h = s.ctx.setThread s.thr h := by simp [Ctx.setThread]
  show ((s.setTh g).setCore s.focus { (s.setTh g).cur with run := (s.setTh g).ctx.setThread s.thr h }) = _
  rw [cur_setTh, ctx_setTh, set]
  exact setCore_setCore ..

/-- What of a core its running context has no part in, the issuing thread's progress keeps. -/
theorem core_setTh_keeps {α : Type} {g : Core → α} (keeps : ∀ k x, g { k with run := x } = g k) (s : State) (h : Thread) (c : Nat) :
    g ((s.setTh h).core c) = g (s.core c) := core_setCore_keeps s (keeps ..) c

theorem past_setHalf (s : State) (h : Option HalfAccess) (len : Nat) : (s.setHalf h).past len = s.setTh ({ s.th with half := h }.past len) := by
  rw [State.past, State.setHalf, th_setTh, setTh_setTh]

/-! ## What LocalCheck has checked -/

theorem bounds_of_localCheck {i : Instr} {fe lock : Bool} {ea : W64} {n : Nat} {s : State} (pass : localCheck i fe lock ea n s = none) :
    InBounds s fe lock ea n ∧ opmOff ea % n = 0 := by
  classical
  rw [localCheck_eq] at pass
  split_ifs at pass with phase shared priv out odd
  · exact absurd pass (by split <;> nofun)
  · exact ⟨out, not_not.mp odd⟩

/-! ## The words of an 8-byte access (R114) -/

section
variable {s : State} {ea : W64}

/-- The upper word's address is in the same window, four bytes on. -/
theorem upperWord (aligned : opmOff ea % 8 = 0) : opmType (ea + 4) = opmType ea ∧ opmCore (ea + 4) = opmCore ea ∧ opmOff (ea + 4) = opmOff ea + 4 := by
  simp only [opmType, opmCore, opmOff, BitVec.extractLsb'_toNat, Nat.shiftRight_eq_div_pow, BitVec.toNat_add,
    show (4 : W64).toNat = 4 from rfl] at *
  have := ea.isLt
  omega

theorem MemoryWindow.upper {b : Bank} {a : Nat} (window : MemoryWindow s ea b a) (memory : opmType ea = 0 ∨ opmType ea = 4)
    (aligned : opmOff ea % 8 = 0) : MemoryWindow s (ea + 4) b (a + 4) := by
  obtain ⟨type, core, off⟩ := upperWord aligned
  have same {b b' : Bank} {a a' : Nat} (w : MemoryWindow s ea b a) (w' : MemoryWindow s ea b' a') : b.place a = b'.place a' :=
    Option.some.inj ((w.place 0).symm.trans (w'.place 0))
  rcases memory with ulm | scratch
  · have at_ : ulmOff s (ea + 4) = ulmOff s ea + 4 := by
      rw [ulmOff, ulmOff, ownCore, ownCore, core, off, ← Nat.add_assoc]
      exact (apply_ite (· + 4) _ _ _).symm
    have upper := memoryWindow_ulm s (type.trans ulm)
    have eq := same window (memoryWindow_ulm s ulm)
    rw [core, at_] at upper
    cases b <;> cases eq
    exact upper
  · have upper := memoryWindow_scratch s (type.trans scratch)
    have eq := same window (memoryWindow_scratch s scratch)
    rw [core, off] at upper
    cases b <;> cases eq
    exact upper

theorem place_injective (b : Bank) {x y : Nat} (same : b.place x = b.place y) : x = y := by
  cases b <;> simpa [Bank.place] using same

theorem sameBut_of_same {s t : State} (same : t.byteAt = s.byteAt) (place : Nat → Option Place) (n : Nat) : SameBut place n s t :=
  fun p _ => congrFun same p

theorem SameBut.mono {place wide : Nat → Option Place} {m n : Nat} {s t : State} (but : SameBut place m s t)
    (within : ∀ j < m, ∃ k < n, wide k = place j) : SameBut wide n s t := fun p outside => but p fun j inside eq => by
  obtain ⟨k, small, at_⟩ := within j inside
  exact outside k small (at_.trans eq)

end

theorem extractLsb'_low (v : W64) {j : Nat} (inside : j < 4) :
    ((v.setWidth 32).setWidth 64).extractLsb' (8 * j) 8 = v.extractLsb' (8 * j) 8 :=
  (extractLsb'_low_word v (o := 0) inside).trans (by rw [Nat.zero_add])

theorem extractLsb'_high (v : W64) {j : Nat} (inside : j < 4) :
    ((v.extractLsb' 32 32).setWidth 64).extractLsb' (8 * j) 8 = v.extractLsb' (8 * (j + 4)) 8 := by
  rw [Nat.add_comm j 4, ← extractLsb'_low_word v (o := 4) inside]
  congr 2

/-! ## A store to a byte memory (R113, R114) -/

/-- The state after the part of a store that is made at once. -/
def storedNow (s : State) (ea : W64) (n : Nat) (v : W64) : State :=
  match s.halfOf ea n (some v) with
  | none => s.writeLocal ea n v
  | some h => if h.high then s.writeLocal ea 4 (v.setWidth 32 |>.setWidth 64) else s.writeLocal (ea + 4) 4 ((v.extractLsb' 32 32).setWidth 64)

/-- What a store to a byte memory has done at once, with a word access left to make. -/
structure Stores (s t : State) (ea : W64) (n : Nat) (v : W64) (later : Option HalfAccess) : Prop where
  only : BytesOnly s t
  fe : ∀ c, (t.core c).fe = (s.core c).fe
  but : SameBut (placeOf s ea) n s t
  bytes : ∀ j < n, ∃ p, placeOf s ea j = some p ∧
    t.byteAt p = if later.any fun a => a.high == decide (4 ≤ j) then s.byteAt p else v.extractLsb' (8 * j) 8

section
variable {s : State} {ea : W64} {b : Bank} {a : Nat} (ok : s.memOk = true) (v : W64) (window : MemoryWindow s ea b a)
include ok window

theorem MemoryWindow.write_byte {n j : Nat} (inside : j < n) :
    (s.writeLocal ea n v).byteAt (b.place (a + j)) = v.extractLsb' (8 * j) 8 := by
  rw [window.write, byteAt_write_same b ok a v inside]

theorem MemoryWindow.write_other {n : Nat} {x : Nat} (outside : x < a ∨ a + n ≤ x) :
    (s.writeLocal ea n v).byteAt (b.place x) = s.byteAt (b.place x) := by
  rw [window.write]
  refine sameBut_write b ok a n v _ fun j inside eq => ?_
  have := place_injective b (Option.some.inj eq)
  omega

theorem MemoryWindow.write_sameBut (n : Nat) : SameBut (placeOf s ea) n s (s.writeLocal ea n v) := by
  rw [window.write, show placeOf s ea = fun j => some (b.place (a + j)) from funext window.place]
  exact sameBut_write b ok a n v

omit ok

theorem MemoryWindow.write_only (n : Nat) : BytesOnly s (s.writeLocal ea n v) := window.write n v ▸ bytesOnly_put window.notScores _

theorem MemoryWindow.write_fe (n c : Nat) : ((s.writeLocal ea n v).core c).fe = (s.core c).fe := window.write n v ▸ put_fe b _ c

end

section
variable {s : State} {ea : W64} {n : Nat} (v : W64)

theorem halfOf_eq_none (one : ¬(n = 8 ∧ (opmType ea = 0 ∨ opmType ea = 4))) (v : Option W64) : s.halfOf ea n v = none := if_neg one

theorem storedNow_whole (whole : s.halfOf ea n (some v) = none) : storedNow s ea n v = s.writeLocal ea n v := by rw [storedNow, whole]

theorem storedNow_low {h : HalfAccess} (half : s.halfOf ea n (some v) = some h) (high : h.high = true) :
    storedNow s ea n v = s.writeLocal ea 4 ((v.setWidth 32).setWidth 64) := by
  rw [storedNow, half]
  exact if_pos high

theorem storedNow_high {h : HalfAccess} (half : s.halfOf ea n (some v) = some h) (low : h.high = false) :
    storedNow s ea n v = s.writeLocal (ea + 4) 4 ((v.extractLsb' 32 32).setWidth 64) := by
  rw [storedNow, half]
  exact if_neg (ne_true_of_eq_false low)

theorem stores_storedNow (ok : s.memOk = true) (memory : opmType ea = 0 ∨ opmType ea = 4 ∨ opmType ea = 5 ∨ opmType ea = 6)
    (aligned : opmOff ea % n = 0) : Stores s (storedNow s ea n v) ea n v (s.halfOf ea n (some v)) := by
  obtain ⟨b, a, window⟩ := memoryWindow s memory
  by_cases two : n = 8 ∧ (opmType ea = 0 ∨ opmType ea = 4)
  · obtain ⟨rfl, words⟩ := two
    have upper := window.upper words aligned
    obtain ⟨h, half⟩ : ∃ h, s.halfOf ea 8 (some v) = some h := ⟨_, if_pos ⟨rfl, words⟩⟩
    cases high : h.high with
    | true =>
      rw [storedNow_low v half high, half]
      refine ⟨window.write_only _ 4, window.write_fe _ 4, SameBut.mono (window.write_sameBut ok _ 4) fun j inside => ⟨j, by omega, rfl⟩,
        fun j inside => ⟨_, window.place j, ?_⟩⟩
      simp only [Option.any_some, high]
      by_cases low : j < 4
      · simpa [show ¬4 ≤ j by omega, extractLsb'_low v low] using window.write_byte ok ((v.setWidth 32).setWidth 64) low
      · simpa [show 4 ≤ j by omega] using window.write_other ok ((v.setWidth 32).setWidth 64) (n := 4) (x := a + j) (by omega)
    | false =>
      rw [storedNow_high v half high, half]
      refine ⟨upper.write_only _ 4, upper.write_fe _ 4, SameBut.mono (upper.write_sameBut ok _ 4) fun j inside => ⟨j + 4, by omega, ?_⟩,
        fun j inside => ⟨_, window.place j, ?_⟩⟩
      · rw [window.place, upper.place, Nat.add_assoc, Nat.add_comm 4 j]
      simp only [Option.any_some, high]
      by_cases low : j < 4
      · simpa [show ¬4 ≤ j by omega] using upper.write_other ok ((v.extractLsb' 32 32).setWidth 64) (n := 4) (x := a + j) (by omega)
      · have byte := upper.write_byte ok ((v.extractLsb' 32 32).setWidth 64) (n := 4) (j := j - 4) (by omega)
        rw [extractLsb'_high v (by omega), show a + 4 + (j - 4) = a + j by omega, show j - 4 + 4 = j by omega] at byte
        simpa [show 4 ≤ j by omega] using byte
  · rw [storedNow_whole v (halfOf_eq_none two _), halfOf_eq_none two]
    exact ⟨window.write_only v n, window.write_fe v n, window.write_sameBut ok v n, fun j inside =>
      ⟨_, window.place j, (window.write_byte ok v inside).trans rfl⟩⟩

theorem storeLocal_past (len : Nat) (now : (storedNow s ea n v).th = s.th) : (s.storeLocal ea n v).past len =
    (storedNow s ea n v).setTh ({ s.th with half := (s.halfOf ea n (some v)).or s.th.half }.past len) := by
  unfold State.storeLocal storedNow at *
  cases half : s.halfOf ea n (some v) with
  | none =>
    simp only [half] at now
    simp only [State.past, now]
    rfl
  | some h =>
    simp only [half] at now
    rw [← now]
    exact past_setHalf ..

end

/-! ## The halves of a store (R114) -/

theorem halfOf_store (s : State) {ea : W64} (v : W64) (words : opmType ea = 0 ∨ opmType ea = 4) :
    ∃ a, s.halfOf ea 8 (some v) = some a ∧ a.store = some (if a.high then v.extractLsb' 32 32 else v.setWidth 32) ∧
      ∀ j < 4, placeOf s ea (j + if a.high then 4 else 0) = some (if a.scratch then .scratch a.unit (a.off + j) else .ulm a.unit (a.off + j)) := by
  refine ⟨_, if_pos ⟨rfl, words⟩, rfl, fun j _ => ?_⟩
  dsimp only
  rcases words with ulm | scratch
  · rw [(memoryWindow_ulm s ulm).place, ulm]
    exact congrArg (fun x => some (Place.ulm (opmCore ea) x)) (by rw [Nat.add_comm j, Nat.add_assoc]; rfl)
  · rw [(memoryWindow_scratch s scratch).place, scratch]
    exact congrArg (fun x => some (Place.scratch (clusterOf (opmCore ea)) x)) (by rw [Nat.add_comm j, Nat.add_assoc]; rfl)

/-- The memory of a word access. -/
def bankOf (a : HalfAccess) : Bank := if a.scratch then .scratch a.unit else .ulm a.unit

section
variable {s : State} {c : Nat} {n : Fin 11} {a : HalfAccess} {v : W32} (half : ((s.core c).run.thread n).half = some a)
  (store : a.store = some v)
include half store

theorem makeHalf_store : s.makeHalf c n = let u : State := (bankOf a).write s a.off 4 v
    u.setCore c { u.core c with run := (u.core c).run.setThread n { (s.core c).run.thread n with half := none } } := by
  unfold State.makeHalf bankOf
  dsimp only
  rw [half]
  obtain ⟨scratch, unit, off, high, stored⟩ := a
  cases store
  cases scratch <;> rfl

theorem makeHalf_store_half : (((s.makeHalf c n).core c).run.thread n).half = none := by
  rw [makeHalf_store half store]
  simp only [core_setCore_same, thread_setThread_same]

theorem makeHalf_store_byteAt : (s.makeHalf c n).byteAt = ((bankOf a).write s a.off 4 v).byteAt := by
  rw [makeHalf_store half store]
  exact byteAt_setCore _ rfl

end

/-- Where the word access's byte `j` goes. -/
theorem bank_place (a : HalfAccess) (j : Nat) : (bankOf a).place (a.off + j) =
    if a.scratch then .scratch a.unit (a.off + j) else .ulm a.unit (a.off + j) := by
  unfold bankOf
  split <;> rfl

/-! ## A write to a window of registers (R109) -/

section
variable {s : State} {ea : W64} (own : opmCore ea = s.focus) (v : W64)
include own

theorem updWindowCtx_own (f : Ctx → Ctx) : s.updWindowCtx (opmCore ea) f = s.setCtx (f s.ctx) := if_pos own

theorem writeLocal_register (type : opmType ea = 1) {n : Fin 11} {r : SReg} (off : opmOff ea = 256 * n.val + 8 * r.toNat) :
    (s.writeLocal ea 8 v).ctx =
      if (s.ctx.thread n).live then s.ctx.setThread n { s.ctx.thread n with regs := ((s.ctx.thread n).setReg r v).regs } else s.ctx := by
  have low : r.toNat < 32 := r.isLt
  have thread : thrOf (opmOff ea / 256) = n := by rw [show opmOff ea / 256 = n.val by omega, thrOf_val]
  have reg : BitVec.ofNat 5 (opmOff ea % 256 / 8) = r := by
    rw [show opmOff ea % 256 / 8 = r.toNat by omega, BitVec.ofNat_toNat, BitVec.setWidth_eq]
  simp only [State.writeLocal, type, updWindowCtx_own own, thread, reg, ctx_setCtx]

theorem writeLocal_csr (type : opmType ea = 3) {c : Csr} (off : opmOff ea = 8 * c.toBits.toNat) : s.writeLocal ea 8 v = s.csrPut c v v := by
  have running : (s.focus == s.focus || s.runsOn s.focus s.ctx.launch) = true := by rw [beq_self_eq_true, Bool.true_or]
  simp only [State.writeLocal, type, off, csrAt_toBits, updWindowCtx_own own]
  rw [own, running]
  rfl

end

/-! ## Bytes of vector registers -/

theorem extractLsb'_putByte (r : VImage) (v : Byte) {b c : Nat} (low : b < 256) (other : c < 256) :
    ((r &&& ~~~((0xFF : VImage) <<< (8 * b))) ||| (v.setWidth 2048 <<< (8 * b))).extractLsb' (8 * c) 8 =
      if c = b then v else r.extractLsb' (8 * c) 8 := by
  have ones (k : Nat) : (0xFF : VImage).getLsbD k = decide (k < 8) := by
    rw [show (0xFF : VImage) = BitVec.ofNat 2048 (2 ^ 8 - 1) from rfl, BitVec.getLsbD_ofNat, Nat.testBit_two_pow_sub_one, ← Bool.decide_and]
    exact decide_eq_decide.mpr (by omega)
  refine BitVec.eq_of_getLsbD_eq fun k bit => ?_
  have inside : 8 * c + k < 2048 := by omega
  simp only [BitVec.getLsbD_extractLsb', bit, decide_true, Bool.true_and, BitVec.getLsbD_or, BitVec.getLsbD_and, BitVec.getLsbD_not,
    BitVec.getLsbD_shiftLeft, BitVec.getLsbD_setWidth, ones]
  split
  case isTrue eq =>
    subst eq
    simp [inside, bit, show k < 2048 by omega]
  case isFalse ne =>
    by_cases below : 8 * c + k < 8 * b
    · simp [below, bit, inside]
    · simp [bit, inside, BitVec.getLsbD_of_ge v (8 * c + k - 8 * b) (by omega)]
      omega

theorem vbyte_setVbyte (x : Ctx) (v : Byte) {i : Nat} (inside : i < 4096) (j : Nat) :
    (x.setVbyte i v).vbyte j = if j = i then v else x.vbyte j := by
  have reg : i / 256 < 16 := by omega
  unfold Ctx.setVbyte Ctx.vbyte
  rw [dif_pos reg]
  by_cases high : j / 256 < 16
  · rw [dif_pos high, dif_pos high]
    by_cases same : i / 256 = j / 256
    · have eq : j = i ↔ j % 256 = i % 256 := by omega
      simp only [← same, Vector.getElem_set_self, eq]
      exact extractLsb'_putByte _ v (Nat.mod_lt _ (by decide)) (Nat.mod_lt _ (by decide))
    · rw [if_neg (fun eq => same (by rw [eq]))]
      simp [Vector.getElem_set_ne _ _ same]
  · rw [dif_neg high, dif_neg high, if_neg (by omega)]

theorem vbyte_vwrite (x : Ctx) (v : W64) {off n : Nat} (inside : off + n ≤ 4096) (j : Nat) :
    (x.vwrite off n v).vbyte j = if off ≤ j ∧ j < off + n then v.extractLsb' (8 * (j - off)) 8 else x.vbyte j := by
  unfold Ctx.vwrite
  induction n with
  | zero => rw [if_neg (by omega)]; rfl
  | succ n ih =>
    rw [List.range_succ, List.foldl_append, List.foldl_cons, List.foldl_nil, vbyte_setVbyte _ _ (by omega), ih (by omega)]
    by_cases here : j = off + n
    · rw [if_pos here, if_pos (by omega), here, Nat.add_sub_cancel_left]
    · rw [if_neg here]
      exact ite_congr (by simp; omega) (fun _ => rfl) fun _ => rfl

theorem writeLocal_vector {s : State} {ea : W64} (own : opmCore ea = s.focus) (v : W64) (type : opmType ea = 2) {n b : Nat} {u : VReg}
    (inside : opmOff ea + n ≤ 4096) (byte : b < 256) : ((s.writeLocal ea n v).ctx.vreg u).extractLsb' (8 * b) 8 =
      if opmOff ea ≤ 256 * u.toNat + b ∧ 256 * u.toNat + b < opmOff ea + n then v.extractLsb' (8 * (256 * u.toNat + b - opmOff ea)) 8
      else (s.ctx.vreg u).extractLsb' (8 * b) 8 := by
  simp only [State.writeLocal, type, updWindowCtx_own own, ctx_setCtx]
  rw [← vbyte_eq _ byte rfl, ← vbyte_eq _ byte rfl, vbyte_vwrite _ v inside]

/-! ## A write to window 7 (R269, R270) -/

section
variable (e : Ae) (off : Nat) (v : W32)

theorem putWord_scores : (e.putWord off v).scores = e.scores ∨ (e.putWord off v).scores = e.scores.writeLE off 4 v := by
  unfold Ae.putWord
  split_ifs
  · exact .inl rfl
  · exact .inr rfl
  · exact .inl rfl
  · exact .inl rfl
  · exact .inl rfl
  · exact .inl rfl
  · exact .inl rfl

variable {e off}

theorem wf_putWord (wf : e.scores.wf = true) : (e.putWord off v).scores.wf = true := by
  rcases putWord_scores e off v with same | written
  · rw [same, wf]
  · rw [written, Mem.wf_writeLE wf]

theorem read_putWord_outside (wf : e.scores.wf = true) {x : Nat} (outside : x < off ∨ off + 4 ≤ x) :
    (e.putWord off v).scores.read x = e.scores.read x := by
  rcases putWord_scores e off v with same | written
  · rw [same]
  · rw [written, Mem.read_writeLE_other wf v outside]

theorem putWord_of_scores (free : e.frozen off = false) (scores : off < 0x800000) :
    e.putWord off v = { e with scores := e.scores.writeLE off 4 v } := by
  rw [Ae.putWord, if_neg (ne_true_of_eq_false free), if_pos scores]

variable {n : Nat} (width : n = 4 ∨ n = 8) (w : W64) (wf : e.scores.wf = true)
include width wf

theorem read_aeWrite_outside {x : Nat} (outside : x < off ∨ off + n ≤ x) : (e.write off n w).scores.read x = e.scores.read x := by
  unfold Ae.write
  dsimp only
  split
  · rw [read_putWord_outside _ (wf_putWord _ wf) (by omega), read_putWord_outside _ wf (by omega)]
  · rw [read_putWord_outside _ wf (by omega)]

theorem read_aeWrite (low : e.frozen off = false) (high : e.frozen (off + 4) = false) (scores : off + n ≤ 0x800000) {j : Nat}
    (inside : j < n) : (e.write off n w).scores.read (off + j) = w.extractLsb' (8 * j) 8 := by
  have first (k : Nat) (small : k < 4) : (w.setWidth 32).extractLsb' (8 * k) 8 = w.extractLsb' (8 * k) 8 :=
    BitVec.eq_of_getLsbD_eq fun i bit => by simp [bit, show 8 * k + i < 32 by omega]
  have second (k : Nat) (small : k < 4) : (w.extractLsb' 32 32).extractLsb' (8 * k) 8 = w.extractLsb' (8 * (4 + k)) 8 :=
    BitVec.eq_of_getLsbD_eq fun i bit => by simp [bit, show 8 * k + i < 32 by omega, show 32 + (8 * k + i) = 8 * (4 + k) + i by omega]
  unfold Ae.write
  dsimp only
  rw [putWord_of_scores _ low (by omega)]
  split
  case isTrue eight =>
    rw [putWord_of_scores (e := { e with scores := e.scores.writeLE off 4 (w.setWidth 32) }) _ high (by omega)]
    dsimp only
    by_cases lower : j < 4
    · rw [Mem.read_writeLE_other (Mem.wf_writeLE wf ..) _ (by omega), read_writeLE_same wf _ _ lower, first j lower]
    · obtain ⟨k, rfl⟩ := Nat.exists_eq_add_of_le (Nat.not_lt.mp lower)
      rw [← Nat.add_assoc, read_writeLE_same (Mem.wf_writeLE wf ..) _ _ (by omega), second k (by omega)]
  case isFalse four =>
    rw [read_writeLE_same wf _ _ (by omega), first j (by omega)]

end

section
variable {s : State} {ea : W64} (type : opmType ea = 7) (n : Nat) (v : W64)
include type

theorem writeLocal_ae_user (user : s.ctx.mode = .user) : s.writeLocal ea n v = s := by
  simp only [State.writeLocal, type, user, if_true]

theorem writeLocal_ae_supervisor (supervisor : s.ctx.mode = .supervisor) : s.writeLocal ea n v =
    s.setDie (dieOf (opmCore ea)) { s.die (dieOf (opmCore ea)) with ae := (s.die (dieOf (opmCore ea))).ae.write (opmOff ea) n v } := by
  simp only [State.writeLocal, type, supervisor, reduceCtorEq, if_false]

end

/-! ## The frame of a write to a window that is no byte memory -/

section
variable (s : State) (c : Nat) (f : Ctx → Ctx)

theorem byteAt_updWindowCtx : (s.updWindowCtx c f).byteAt = s.byteAt := by
  unfold State.updWindowCtx
  split
  · exact byteAt_setCtx s _
  · exact byteAt_updCtx f

theorem th_updWindowCtx {α : Type} {g : Thread → α} (keeps : ∀ x, g ((f x).thread s.thr) = g (x.thread s.thr)) :
    g (s.updWindowCtx c f).th = g s.th := by
  unfold State.updWindowCtx
  split
  · rw [th_setCtx, keeps]
    rfl
  case isFalse other =>
    have focus : (s.updCtx c s.ctx.launch f).focus = s.focus := by
      rcases updCtx_eq (s := s) (c := c) (n := s.ctx.launch) (f := f) with ⟨k, ⟨eq, -⟩ | eq⟩ <;> rw [eq]; rfl
    rw [State.th, State.ctx, State.cur, focus, core_updCtx_other f (Ne.symm other), updCtx_thr]
    rfl

theorem ctx_setCore {s : State} {c : Nat} {k : Core} (run : k.run = (s.core c).run) : (s.setCore c k).ctx = s.ctx :=
  core_setCore_keeps s run s.focus

theorem th_setCore {s : State} {c : Nat} {k : Core} (run : k.run = (s.core c).run) : (s.setCore c k).th = s.th :=
  congrArg (·.thread s.thr) (ctx_setCore run)

theorem threads_vwrite (x : Ctx) (off n : Nat) (v : W64) : (x.vwrite off n v).threads = x.threads :=
  foldl_keeps (f := Ctx.threads) (fun x j => by unfold Ctx.setVbyte; split <;> rfl) x _

end

section
variable {s : State} {ea : W64} {n : Nat} (v : W64) (ok : s.memOk = true) (type : opmType ea = 1 ∨ opmType ea = 2 ∨ opmType ea = 3 ∨ opmType ea = 7)
  (width : opmType ea = 7 → n = 4 ∨ n = 8)
include ok type width

theorem writeLocal_frame : SameBut (placeOf s ea) n s (s.writeLocal ea n v) ∧ (s.writeLocal ea n v).th.pc = s.th.pc := by
  rcases type with reg | vec | csr | unit
  · have eq : s.writeLocal ea n v = s.updWindowCtx (opmCore ea) fun x =>
        let t := x.thread (thrOf (opmOff ea / 256))
        if t.live then x.setThread (thrOf (opmOff ea / 256)) { t with regs := (t.setReg (BitVec.ofNat 5 (opmOff ea % 256 / 8)) v).regs }
        else x := by
      simp only [State.writeLocal, reg]
    refine eq ▸ ⟨sameBut_of_same (byteAt_updWindowCtx ..) _ _, th_updWindowCtx s _ _ (g := Thread.pc) fun x => ?_⟩
    dsimp only
    split
    · by_cases same : s.thr = thrOf (opmOff ea / 256)
      · rw [same, thread_setThread_same]
      · rw [thread_setThread_other _ same]
    · rfl
  · have eq : s.writeLocal ea n v = s.updWindowCtx (opmCore ea) fun x => x.vwrite (opmOff ea) n v := by simp only [State.writeLocal, vec]
    refine eq ▸ ⟨sameBut_of_same (byteAt_updWindowCtx ..) _ _, th_updWindowCtx s _ _ (g := Thread.pc) fun x => ?_⟩
    rw [Ctx.thread, threads_vwrite]
    rfl
  · have eq : s.writeLocal ea n v =
        if csrAt (opmOff ea) = .cyc then s.setCore (opmCore ea) { s.core (opmCore ea) with cyc := BitVec.ofNat 64 s.now - v }
        else s.updWindowCtx (opmCore ea) fun x =>
          x.csrPut s.now (opmCore ea == s.focus || s.runsOn (opmCore ea) x.launch) (csrAt (opmOff ea)) v v := by
      simp only [State.writeLocal, csr]
    rw [eq]
    split
    · refine ⟨sameBut_of_same (byteAt_setCore s ?_) _ _, congrArg Thread.pc (th_setCore ?_)⟩ <;> rfl
    · refine ⟨sameBut_of_same (byteAt_updWindowCtx ..) _ _, th_updWindowCtx s _ _ (g := Thread.pc) fun x => ?_⟩
      rw [Ctx.thread, csrPut_threads]
      rfl
  · cases mode : s.ctx.mode with
    | user => exact (writeLocal_ae_user unit n v mode).symm ▸ ⟨sameBut_of_same rfl _ _, rfl⟩
    | supervisor =>
      rw [writeLocal_ae_supervisor unit n v mode]
      refine ⟨fun p outside => ?_, rfl⟩
      by_cases here : ∃ x, p = .scores (dieOf (opmCore ea)) x
      · obtain ⟨x, rfl⟩ := here
        simp only [State.byteAt, die_setDie_same]
        refine read_aeWrite_outside (width unit) v (memOk_die ok _) ?_
        by_contra inside
        refine outside (x - opmOff ea) (by omega) ?_
        simp only [placeOf, unit, show opmOff ea + (x - opmOff ea) = x by omega]
      · exact byteAt_setDie_other (fun x at_ => here ⟨x, at_⟩) _

end

/-! ## The stores (R113) -/

section
variable {i : Instr} {s : State} {len n : Nat} {rs ra : SReg} {off : W64} (form : exec i s = localStore i len n rs ra off s)
  (has : s.has [ra, rs] = true)
include form has

theorem exec_store_checked : exec i s = checkedLocal i len false false (s.reg ra + off) n s fun s =>
    .next ((s.storeLocal (s.reg ra + off) n (s.reg rs)).past len) := form.trans (ready_of_has has _)

theorem stops_store : Stops false false i s len (s.reg ra + off) n := stops_of_checkedLocal (exec_store_checked form has)

variable (pass : localCheck i false false (s.reg ra + off) n s = none) (next : (s.atSource && s.behind (s.reg ra + off)) = false)
include pass next

theorem exec_store : exec i s = .next ((s.storeLocal (s.reg ra + off) n (s.reg rs)).past len) := by
  rw [exec_store_checked form has, checkedLocal_goes pass next]

theorem exec_store_whole (ulm : opmType (s.reg ra + off) ≠ 0) (scratch : opmType (s.reg ra + off) ≠ 4) :
    exec i s = .next ((s.writeLocal (s.reg ra + off) n (s.reg rs)).past len) := by
  rw [exec_store form has pass next, State.storeLocal, halfOf_eq_none (by omega)]

/-- What a store does, whichever window it names. -/
theorem exec_store_effect (ok : s.memOk = true) : let ea := s.reg ra + off
    let later := s.halfOf ea n (some (s.reg rs))
    ∃ t, exec i s = .next t ∧ t.th.pc = s.th.pc + BitVec.ofNat 64 len ∧ t.th.stall = none ∧ SameBut (placeOf s ea) n s t ∧
      (opmType ea = 0 ∨ opmType ea = 4 ∨ opmType ea = 5 ∨ opmType ea = 6 →
        StoreOnly s t ({ s.th with half := later.or s.th.half }.past len) ∧ (∀ c, (t.core c).fe = (s.core c).fe) ∧
        ∀ j < n, ∃ p, placeOf s ea j = some p ∧
          t.byteAt p = if later.any fun a => a.high == decide (4 ≤ j) then s.byteAt p else (s.reg rs).extractLsb' (8 * j) 8) := by
  obtain ⟨⟨die, type, placed, width, size, tile, -, -⟩, aligned⟩ := bounds_of_localCheck pass
  by_cases memory : opmType (s.reg ra + off) = 0 ∨ opmType (s.reg ra + off) = 4 ∨ opmType (s.reg ra + off) = 5 ∨ opmType (s.reg ra + off) = 6
  · obtain ⟨only, fe, but, bytes⟩ := stores_storedNow (s.reg rs) ok memory aligned
    refine ⟨_, (exec_store form has pass next).trans (congrArg _ (storeLocal_past _ len only.th)), ?_, ?_, fun p out => ?_,
      fun _ => ⟨only.setTh _, fun c => ?_, fun j inside => ?_⟩⟩
    · rw [th_setTh]; rfl
    · rw [th_setTh]; rfl
    · rw [byteAt_setTh, but p out]
    · rw [(sameBytes_setTh _ _).fe c, fe]
    · rw [byteAt_setTh]
      exact bytes j inside
  · have others : opmType (s.reg ra + off) = 1 ∨ opmType (s.reg ra + off) = 2 ∨ opmType (s.reg ra + off) = 3 ∨
        opmType (s.reg ra + off) = 7 := by omega
    obtain ⟨but, pc⟩ := writeLocal_frame (n := n) (s.reg rs) ok others fun unit => by
      rw [unit] at width
      simpa [windowWidths] using width
    refine ⟨_, exec_store_whole form has pass next (by omega) (by omega), ?_, ?_, fun p out => ?_, fun h => absurd h memory⟩
    · rw [State.past, th_setTh, Thread.past, pc]
    · rw [State.past, th_setTh, Thread.past]
    · rw [State.past, byteAt_setTh, but p out]

end

/-! ## The obligation -/

/-- Settles O7: each store by what `exec_store_effect` says of it, what a window keeps of a write by the window's own lemma. -/
theorem localStores : Obligations.LocalStores := by
  unfold Obligations.LocalStores
  refine ⟨?stores, fun s ea v => halfOf_store s v, fun s c n a v half store ok => ?half,
    fun s ea v own => ⟨fun n r type => writeLocal_register own v type, fun n b u type _ inside byte => writeLocal_vector own v type inside byte,
      fun c type => writeLocal_csr own v type⟩,
    fun s ea v n type width aligned => ⟨writeLocal_ae_user type n v, fun supervisor scores ok _ => ?scores⟩⟩
  case stores =>
    intro stores s rs ra imm lit has
    have as {i : Instr} {len n : Nat} {off : W64} (form : exec i s = localStore i len n rs ra off s) : stores i s len n rs (s.reg ra + off) :=
      ⟨stops_store form has, exec_store_whole form has, fun pass next ok _ => exec_store_effect form has pass next ok⟩
    exact ⟨as rfl, as rfl, as rfl, as rfl, as rfl, as rfl, as rfl, as rfl⟩
  case half =>
    refine ⟨makeHalf_store_half half store, fun p out => ?_, fun j inside => ?_⟩
    · rw [makeHalf_store_byteAt half store]
      exact sameBut_write (bankOf a) ok a.off 4 v p fun j inside eq => out j inside ((congrArg some (bank_place a j)).symm.trans eq)
    · rw [makeHalf_store_byteAt half store]
      exact (congrArg _ (bank_place a j).symm).trans (byteAt_write_same (bankOf a) ok a.off v inside)
  case scores =>
    intro e low high j inside
    rw [writeLocal_ae_supervisor type n v supervisor]
    simp only [State.byteAt, die_setDie_same]
    exact read_aeWrite width v (memOk_die ok _) low high scores inside

end Sys2Proof.Laws

/-!
Full/empty granules (R115, R116): the lines at them, what sets and clears their bits, and obligation O8.
-/

namespace Sys2Proof.Laws

open Sys2Proof Sys2Proof.Machine

/-! ## Changes that keep memories and contexts -/

section
variable {s t u : State}

theorem BytesOnly.trans (first : BytesOnly s t) (second : BytesOnly t u) : BytesOnly s u := by
  refine ⟨?_, fun c => ?_, fun k => ?_⟩
  · have back : ({ u with cores := s.cores, clusters := s.clusters } : State) = { t with cores := s.cores, clusters := s.clusters } :=
      (congrArg (fun x : State => { x with cores := s.cores, clusters := s.clusters }) second.device :)
    exact back.trans first.device
  · exact (congrArg (Core.bytesOf · (s.core c)) (second.cores c) :).trans (first.cores c)
  · exact (congrArg (Cluster.bytesOf · (s.cluster k)) (second.clusters k) :).trans (first.clusters k)

theorem BytesOnly.withAgenda (only : BytesOnly s t) (l : List Action) : BytesOnly { s with agenda := l } { t with agenda := l } :=
  ⟨(congrArg (fun x : State => { x with agenda := l }) only.device :), only.cores, only.clusters⟩

theorem all_put {α : Type} {p : Nat × α → Bool} {m : PMap α} (all : m.all p = true) {a : Nat} {x : α} (one : p (a, x) = true) :
    (m.put a x).all p = true := by
  induction m with
  | nil => simpa [PMap.put] using one
  | cons e m ih =>
    obtain ⟨here, rest⟩ := Bool.and_eq_true_iff.mp (List.all_cons (f := p) ▸ all)
    rw [PMap.put]
    split_ifs
    · rw [List.all_cons, one, all]; rfl
    · rw [List.all_cons, one, rest]; rfl
    · rw [List.all_cons, here, ih rest]; rfl

theorem memOk_setCore (ok : s.memOk = true) {c : Nat} {k : Core} (wf : k.ulm.wf = true) : (s.setCore c k).memOk = true := by
  simp only [State.memOk, Bool.and_eq_true] at ok ⊢
  obtain ⟨⟨⟨homes, cores⟩, clusters⟩, dies⟩ := ok
  exact ⟨⟨⟨homes, all_put cores wf⟩, clusters⟩, dies⟩

theorem loader_setCore {c : Nat} {k : Core} (run : k.run = (s.core c).run) : loader (s.setCore c k) = loader s := by
  simp only [loader, ctx_setCore run, th_setCore run]
  rfl

end

/-! ## The lines at granules -/

section
variable (s : State) (c : Nat)

theorem feLeave_ctx : (s.feLeave c).ctx = s.ctx := ctx_setCore rfl

theorem feLeave_th : (s.feLeave c).th = s.th := th_setCore rfl

theorem feLeave_loader : loader (s.feLeave c) = loader s := loader_setCore rfl

theorem feLeave_same : SameBytes s (s.feLeave c) := sameBytes_setCore rfl rfl

theorem feLeave_only : BytesOnly s (s.feLeave c) := bytesOnly_setCore rfl

theorem feLeave_ulmOff (ea : W64) : ulmOff (s.feLeave c) ea = ulmOff s ea := by
  rw [ulmOff, feLeave_ctx]
  rfl

/-- A thread that stands in line, with all that it leaves as it was. -/
structure InLine (s t : State) (c : Nat) : Prop where
  same : SameBytes s t
  th : t.th = s.th
  member : ∃ w ∈ (t.core c).feLine, w.core = s.focus ∧ w.thr = s.thr.val

theorem inLine_feJoin (g : Nat) (full all : Bool) : InLine s (s.feJoin c g full all) c := by
  unfold State.feJoin
  dsimp only
  split
  case isTrue stands =>
    obtain ⟨w, member, own⟩ := List.any_eq_true.mp stands
    rw [Bool.and_eq_true, beq_iff_eq, beq_iff_eq] at own
    exact ⟨⟨rfl, fun _ => rfl, rfl⟩, rfl, w, member, own⟩
  case isFalse =>
    refine ⟨sameBytes_setCore rfl rfl, th_setCore rfl, ⟨g, full, all, s.focus, s.thr.val⟩, ?_, rfl, rfl⟩
    rw [core_setCore_same]
    exact List.mem_append_right _ List.mem_cons_self

end

/-! ## The bits -/

/-- Of the full/empty bits only that of one granule may differ, and it does as `b` says. -/
def FeBits (s t : State) (c₀ g₀ : Nat) (b : Option Bool) : Prop := ∀ c g, g < 16384 →
  (t.core c).fe.getLsbD g = if c = c₀ ∧ g = g₀ then b.getD ((s.core c).fe.getLsbD g) else (s.core c).fe.getLsbD g

section
variable {s t u : State} {c g : Nat} {b : Bool}

theorem feBits_of_same (same : ∀ c, (t.core c).fe = (s.core c).fe) (c g : Nat) : FeBits s t c g none := fun d h _ => by
  rw [same]
  exact (ite_self _).symm

theorem FeBits.congr {s' t' : State} {b : Option Bool} (bits : FeBits s t c g b) (before : ∀ c, (s.core c).fe = (s'.core c).fe)
    (after : ∀ c, (t'.core c).fe = (t.core c).fe) : FeBits s' t' c g b := fun d h low => by
  rw [after, ← before]
  exact bits d h low

theorem getLsbD_setFe (k : Core) (g : Nat) (b : Bool) {h : Nat} (low : h < 16384) :
    (k.setFe g b).fe.getLsbD h = if h = g then b else k.fe.getLsbD h := by
  have one : (BitVec.twoPow 16384 g).getLsbD h = decide (h = g) := by simp [low, eq_comm]
  cases b with
  | true =>
    show (k.fe ||| BitVec.twoPow 16384 g).getLsbD h = _
    rw [BitVec.getLsbD_or, one]
    by_cases here : h = g <;> simp [here]
  | false =>
    show (k.fe &&& ~~~BitVec.twoPow 16384 g).getLsbD h = _
    rw [BitVec.getLsbD_and, BitVec.getLsbD_not, one]
    by_cases here : h = g
    · simp [here]
    · simp [here, low]

theorem setFe_eq (s : State) (c g : Nat) (b : Bool) : s.setFe c g b = { s.setCore c ((s.core c).setFe g b) with
    agenda := if b then ((s.core c).feLine.filter fun w => w.gran == g && w.all).map (fun w => .issue w.core w.thr) ++ s.agenda
      else s.agenda } := by
  unfold State.setFe
  cases b with
  | false => rfl
  | true =>
    have line : ((s.setCore c ((s.core c).setFe g true)).core c).feLine = (s.core c).feLine := by
      rw [core_setCore_same]
      rfl
    simp only [State.wakeLoaders, line, if_true]
    rfl

theorem setFe_agenda (s : State) (c g : Nat) (b : Bool) : (s.setFe c g b).agenda =
    if b then ((s.core c).feLine.filter fun w => w.gran == g && w.all).map (fun w => .issue w.core w.thr) ++ s.agenda else s.agenda :=
  congrArg State.agenda (setFe_eq s c g b)

theorem setFe_only (s : State) (c g : Nat) (b : Bool) :
    BytesOnly { s with agenda := (s.setFe c g b).agenda } (s.setFe c g b) := by
  rw [setFe_eq]
  exact (bytesOnly_setCore (s := s) (c := c) (k := (s.core c).setFe g b) rfl).withAgenda _

theorem setFe_byteAt (s : State) (c g : Nat) (b : Bool) : (s.setFe c g b).byteAt = s.byteAt := by
  rw [setFe_eq]
  exact (byteAt_ext (fun _ => rfl) (fun _ => rfl) rfl rfl : _ = (s.setCore c ((s.core c).setFe g b)).byteAt).trans (byteAt_setCore s rfl)

theorem setFe_th (s : State) (c g : Nat) (b : Bool) : (s.setFe c g b).th = s.th := by
  rw [setFe_eq]
  exact th_setCore (s := s) (c := c) (k := (s.core c).setFe g b) rfl

theorem setFe_loader (s : State) (c g : Nat) (b : Bool) : loader (s.setFe c g b) = loader s := by
  rw [setFe_eq]
  exact loader_setCore (s := s) (c := c) (k := (s.core c).setFe g b) rfl

theorem setFe_bits (s : State) (c g : Nat) (b : Bool) : FeBits s (s.setFe c g b) c g (some b) := by
  intro d h low
  rw [setFe_eq]
  show ((s.setCore c ((s.core c).setFe g b)).core d).fe.getLsbD h = _
  by_cases here : d = c
  · subst here
    rw [core_setCore_same, getLsbD_setFe _ g b low]
    simp
  · rw [core_setCore_other s here, if_neg (fun both => here both.1)]

end

/-! ## The instructions (R116) -/

section
variable {i : Instr} {s : State} {len n : Nat} {need : List SReg} {ra : SReg} {off : W64} {go : W64 → Nat → Nat → State → Out}
  (form : exec i s = feAccess i len n need ra off s go) (has : s.has need = true)
include form has

theorem stops_feAccess : Stops true false i s len (s.reg ra + off) n := stops_of_checkedLocal (form.trans (ready_of_has has _))

theorem exec_feAccess (pass : localCheck i true false (s.reg ra + off) n s = none) (next : (s.atSource && s.behind (s.reg ra + off)) = false) :
    exec i s = go (s.reg ra + off) (opmCore (s.reg ra + off)) (ulmOff s (s.reg ra + off) / 16) s := by
  rw [form, feAccess, ready_of_has has]
  exact checkedLocal_goes pass next

end

theorem type_of_fe {i : Instr} {lock : Bool} {ea : W64} {n : Nat} {s : State} (pass : localCheck i true lock ea n s = none) : opmType ea = 0 := by
  obtain ⟨⟨-, -, -, -, -, -, fe, -⟩, -⟩ := bounds_of_localCheck pass
  exact fe rfl

section
variable (s : State) (len : Nat) (c g : Nat) {full shared : Bool} {go : State → Out}

theorem feWaitFor_goes (state : (s.core c).fe.getLsbD g = full) (turn : shared = true ∨ s.feFirst c g full = true) :
    feWaitFor len c g full shared s go = go (s.feLeave c) := by
  refine if_pos ?_
  rw [Core.full, state, beq_self_eq_true, Bool.true_and, Bool.or_eq_true]
  exact turn

theorem feWaitFor_waits (fresh : s.th.stall = none)
    (stands : (s.core c).fe.getLsbD g = !full ∨ (shared = false ∧ ¬s.feFirst c g full = true)) :
    ∃ t, feWaitFor len c g full shared s go = .next t ∧ t.th = { s.th with stall := some ⟨len, 0, .fe⟩ } ∧ SameMemory s t ∧
      (∀ c, (t.core c).fe = (s.core c).fe) ∧ ∃ w ∈ (t.core c).feLine, w.core = s.focus ∧ w.thr = s.thr.val := by
  obtain ⟨same, th, w, member, own⟩ := inLine_feJoin s c g full shared
  have away : ¬((s.core c).full g == full && (shared || s.feFirst c g full)) = true := by
    rcases stands with other | ⟨one, later⟩
    · rw [Core.full, other]
      cases full <;> simp
    · simp [one, later]
  have source : (s.feJoin c g full shared).atSource = true := atSource_fresh (th.symm ▸ fresh)
  refine ⟨_, (if_neg away).trans (if_pos source), ?_, sameMemory_of_byteAt ?_, fun d => ?_, w, ?_, own⟩
  · rw [State.stall, th_setTh, th]
  · rw [State.stall, byteAt_setTh, same.bytes]
  · exact ((sameBytes_setTh _ _).fe d).trans (same.fe d)
  · rwa [State.stall, core_setTh_keeps (g := Core.feLine) fun _ _ => rfl]

end

/-- What a load of the FE group has done: its value is on its way, and a granule's bit is as `b` says. -/
def FeLoaded (s t : State) (len : Nat) (rd : SReg) (ea : W64) (half : Option HalfAccess) (v : W64) (c g : Nat) (b : Option Bool) : Prop :=
  Loaded s t len rd ea half v ∧ SameMemory s t ∧ FeBits s t c g b

section
variable (s : State) (len : Nat) (rd : SReg) (ea : W64) (c g : Nat)

/-- A load from a die that no route reaches (R313). -/
theorem cutLoad_loaded (cut : s.cutOff (dieOf s.focus) (opmDie ea) = true) (go : Out) :
    ∃ t, cutLoad len rd ea (·.feLeave c) s go = .next t ∧ FeLoaded s t len rd ea s.th.half poison64 c g none := by
  obtain ⟨t, next, loaded, same⟩ := loadResult_loaded len rd ea poison64 (s.feLeave c)
  have all := (feLeave_same s c).trans same
  rw [feLeave_th] at loaded
  exact ⟨t, (if_pos cut).trans next, (loaded_congr (feLeave_loader s c)).mp loaded, sameMemory_of_byteAt all.bytes, feBits_of_same all.fe c g⟩

theorem feLeave_readLocal (type : opmType ea = 0) : (s.feLeave c).readLocal ea 8 = s.readLocal ea 8 := by
  rw [(memoryWindow_ulm _ type).read, (memoryWindow_ulm _ type).read, feLeave_ulmOff]
  exact congrArg (fun m => Mem.readLE m _ 8 64) (core_setCore_keeps s (g := Core.ulm) (by rfl) _)

theorem feLeave_halfLeft : halfLeft (s.feLeave c) rd ea 8 = halfLeft s rd ea 8 := by
  have half : (s.feLeave c).halfOf ea 8 none = s.halfOf ea 8 none := by
    unfold State.halfOf
    rw [feLeave_ulmOff]
    rfl
  rw [halfLeft, halfLeft, feLeave_th, half]
  rfl

end

/-- How LDFE and LDFEC, which leaves the granule empty, go on at a full granule. -/
def feLoadEnd (empty : Bool) (len : Nat) (rd : SReg) (ea : W64) (c g : Nat) (s : State) : Out :=
  if empty then loadResult len rd ea (s.readLocal ea 8) (s.setFe c g false) else loadWords len rd ea 8 (s.readLocal ea 8) s

/-- LDFE, and LDFEC where `empty`. -/
def feLoad (empty : Bool) (i : Instr) (len : Nat) (rd ra : SReg) (off : W64) (s : State) : Out :=
  feAccess i len 8 [ra, rd] ra off s fun ea c g s =>
    cutLoad len rd ea (·.feLeave c) s (feWaitFor len c g true (!empty) s (feLoadEnd empty len rd ea c g))

theorem feLoadEnd_loaded (s : State) (empty : Bool) (len : Nat) (rd : SReg) {ea : W64} (c g : Nat) (type : opmType ea = 0) :
    ∃ t, feLoadEnd empty len rd ea c g (s.feLeave c) = .next t ∧
      FeLoaded s t len rd ea (if empty then s.th.half else halfLeft s rd ea 8) (s.readLocal ea 8) c g (if empty then some false else none) := by
  have read := feLeave_readLocal s ea c type
  have left := feLeave_same s c
  cases empty with
  | false =>
    obtain ⟨t, next, loaded, same⟩ := loadWords_loaded len 8 rd ea ((s.feLeave c).readLocal ea 8) (s.feLeave c)
    have all := left.trans same
    rw [feLeave_halfLeft, read] at loaded
    exact ⟨t, next, (loaded_congr (feLeave_loader s c)).mp loaded, sameMemory_of_byteAt all.bytes, feBits_of_same all.fe c g⟩
  | true =>
    obtain ⟨t, next, loaded, same⟩ := loadResult_loaded len rd ea ((s.feLeave c).readLocal ea 8) ((s.feLeave c).setFe c g false)
    rw [setFe_th, feLeave_th, read] at loaded
    refine ⟨t, next, (loaded_congr ((setFe_loader ..).trans (feLeave_loader s c))).mp loaded, sameMemory_of_byteAt ?_,
      (setFe_bits (s.feLeave c) c g false).congr left.fe same.fe⟩
    rw [same.bytes, setFe_byteAt, left.bytes]

section
variable {i : Instr} {s : State} {len : Nat} {rd ra : SReg} {off : W64} {empty : Bool} (form : exec i s = feLoad empty i len rd ra off s)
  (has : s.has [ra, rd] = true) (pass : localCheck i true false (s.reg ra + off) 8 s = none)
  (next : (s.atSource && s.behind (s.reg ra + off)) = false)
include form has pass next

theorem exec_feLoad_cut (cut : s.cutOff (dieOf s.focus) (opmDie (s.reg ra + off)) = true) : ∃ t, exec i s = .next t ∧
    FeLoaded s t len rd (s.reg ra + off) s.th.half poison64 (opmCore (s.reg ra + off)) (ulmOff s (s.reg ra + off) / 16) none :=
  exec_feAccess form has pass next ▸ cutLoad_loaded s len rd _ _ _ cut _

theorem exec_feLoad_near (near : s.cutOff (dieOf s.focus) (opmDie (s.reg ra + off)) = false) : exec i s =
    feWaitFor len (opmCore (s.reg ra + off)) (ulmOff s (s.reg ra + off) / 16) true (!empty) s
      (feLoadEnd empty len rd (s.reg ra + off) (opmCore (s.reg ra + off)) (ulmOff s (s.reg ra + off) / 16)) :=
  (exec_feAccess form has pass next).trans (if_neg (ne_true_of_eq_false near))

theorem exec_feLoad_goes (near : s.cutOff (dieOf s.focus) (opmDie (s.reg ra + off)) = false)
    (full : (s.core (opmCore (s.reg ra + off))).fe.getLsbD (ulmOff s (s.reg ra + off) / 16) = true)
    (turn : empty = true → s.feFirst (opmCore (s.reg ra + off)) (ulmOff s (s.reg ra + off) / 16) true = true) : ∃ t, exec i s = .next t ∧
    FeLoaded s t len rd (s.reg ra + off) (if empty then s.th.half else halfLeft s rd (s.reg ra + off) 8)
      (s.readLocal (s.reg ra + off) 8) (opmCore (s.reg ra + off)) (ulmOff s (s.reg ra + off) / 16) (if empty then some false else none) := by
  rw [exec_feLoad_near form has pass next near, feWaitFor_goes s len _ _ full (by cases empty <;> simp [turn])]
  exact feLoadEnd_loaded s empty len rd _ _ (type_of_fe pass)

end

/-! ## Stores of the FE group -/

section
variable {i : Instr} {s : State} {len n : Nat} {rd ra : SReg} {off : W64} (has : s.has [ra, rd] = true)
include has

/-- STFE and STFEW at an empty granule. -/
theorem exec_stfe_goes (form : exec i s = stfe i len n rd ra off s) (pass : localCheck i true false (s.reg ra + off) n s = none)
    (next : (s.atSource && s.behind (s.reg ra + off)) = false) (ok : s.memOk = true) : let ea := s.reg ra + off
    let c := opmCore ea
    let g := ulmOff s ea / 16
    (s.core c).fe.getLsbD g = false → s.feFirst c g false = true →
      ∃ t, exec i s = .next t ∧ t.agenda = (((s.feLeave c).core c).feLine.filter fun w => w.gran == g && w.all).map
          (fun w => .issue w.core w.thr) ++ (s.feLeave c).agenda ∧
        StoreOnly { s with agenda := t.agenda } t (s.th.past len) ∧ SameBut (placeOf s ea) n s t ∧ FeBits s t c g (some true) ∧
        ∀ j < n, ∃ p, placeOf s ea j = some p ∧ t.byteAt p = (s.reg rd).extractLsb' (8 * j) 8 := by
  intro ea c g empty turn
  have type : opmType ea = 0 := type_of_fe pass
  have eq : exec i s = .next (((((s.feLeave c).writeLocal ea n ((s.feLeave c).reg rd)).setFe c g true)).past len) := by
    rw [exec_feAccess form has pass next, feWaitFor_goes s len c g empty (.inr turn)]
  have reg : (s.feLeave c).reg rd = s.reg rd := congrArg (·.reg rd) (feLeave_th s c)
  rw [reg] at eq
  have window : MemoryWindow (s.feLeave c) ea (.ulm c) (ulmOff (s.feLeave c) ea) := memoryWindow_ulm _ type
  have places : placeOf (s.feLeave c) ea = placeOf s ea := by
    funext j
    rw [window.place, (memoryWindow_ulm s type).place, feLeave_ulmOff]
  have okLeft : (s.feLeave c).memOk = true := memOk_setCore ok (memOk_core ok c)
  have left := feLeave_same s c
  have written := (feLeave_only s c).trans (window.write_only (s.reg rd) n)
  have all := (written.withAgenda _).trans (setFe_only ((s.feLeave c).writeLocal ea n (s.reg rd)) c g true)
  refine ⟨_, eq, ?_, ?_, fun p out => ?_, ?_, fun j inside => ?_⟩
  · have line : ((Bank.write (.ulm c) (s.feLeave c) (ulmOff (s.feLeave c) ea) n (s.reg rd)).core c).feLine = ((s.feLeave c).core c).feLine :=
      (congrArg Core.feLine (core_setCore_same (s.feLeave c) c _) :)
    rw [State.past, setTh_agenda, setFe_agenda, if_pos rfl, window.write, line]
    rfl
  · exact all.th ▸ all.setTh _
  · rw [State.past, byteAt_setTh, setFe_byteAt, window.write_sameBut okLeft _ n p (fun j inside eq =>
      out j inside ((congrFun places j).symm.trans eq)),
      left.bytes]
  · exact (setFe_bits _ c g true).congr (fun d => (window.write_fe ..).trans (left.fe d)) (sameBytes_setTh _ _).fe
  · refine ⟨_, places ▸ window.place j, ?_⟩
    rw [State.past, byteAt_setTh, setFe_byteAt, window.write_byte okLeft _ inside]

end

/-! ## FESET, FECLR and FETST -/

section
variable {i : Instr} {s : State} {len : Nat} {ra : SReg} {off : W64}

theorem exec_feSetTo {b : Bool} (form : exec i s = feSetTo b i len ra off s) (has : s.has [ra] = true)
    (pass : localCheck i true false (s.reg ra + off) 16 s = none) (next : (s.atSource && s.behind (s.reg ra + off)) = false) :
    let ea := s.reg ra + off
    let c := opmCore ea
    let g := ulmOff s ea / 16
    ∃ t, exec i s = .next t ∧ t.agenda =
        (if b then ((s.core c).feLine.filter fun w => w.gran == g && w.all).map (fun w => .issue w.core w.thr) ++ s.agenda else s.agenda) ∧
      StoreOnly { s with agenda := t.agenda } t (s.th.past len) ∧ SameMemory s t ∧ FeBits s t c g (some b) := by
  intro ea c g
  have only := setFe_only s c g b
  refine ⟨_, exec_feAccess form has pass next, setFe_agenda s c g b, only.th ▸ only.setTh _, sameMemory_of_byteAt ?_,
    (setFe_bits s c g b).congr (fun _ => rfl) (sameBytes_setTh _ _).fe⟩
  rw [State.past, byteAt_setTh, setFe_byteAt]

theorem exec_fetst {rd : SReg} (form : exec i s = fetst i len rd ra off s) (has : s.has [ra, rd] = true)
    (pass : localCheck i true false (s.reg ra + off) 16 s = none) (next : (s.atSource && s.behind (s.reg ra + off)) = false) :
    let ea := s.reg ra + off
    let c := opmCore ea
    let g := ulmOff s ea / 16
    ∃ t, exec i s = .next t ∧ FeLoaded s t len rd ea s.th.half (if (s.core c).fe.getLsbD g then 1 else 0) c g none := by
  intro ea c g
  obtain ⟨t, eq, loaded, same⟩ := loadResult_loaded len rd ea (if (s.core c).fe.getLsbD g then 1 else 0) s
  exact ⟨t, (exec_feAccess form has pass next).trans eq, loaded, sameMemory_of_byteAt same.bytes, feBits_of_same same.fe c g⟩

end

/-! ## The obligation -/

theorem has_of_has_append {s : State} {l m : List SReg} (has : s.has (l ++ m) = true) : s.has l = true := by
  rw [State.has, List.all_append, Bool.and_eq_true] at has
  exact has.1

/-- Settles O8: a load, a store, a change and a test of a granule by the lemma of each, whatever the form. -/
theorem fullEmpty : Obligations.FullEmpty := by
  unfold Obligations.FullEmpty
  extract_lets check cut gran full first woken waits bits loads stores sets tests
  intro s rd ra lit has ea el
  have hasRa : s.has [ra] = true := has_of_has_append (m := [rd]) has
  have load {i : Instr} {len : Nat} {off : W64} {empty : Bool} (form : exec i s = feLoad empty i len rd ra off s) :
      loads i s len rd (s.reg ra + off) empty := by
    refine ⟨stops_feAccess form has, fun ⟨pass, next, _, _⟩ => ⟨fun away => exec_feLoad_cut form has pass next away,
      fun near fullNow turn => exec_feLoad_goes form has pass next near fullNow turn, fun near stands fresh => ?_⟩⟩
    rw [exec_feLoad_near form has pass next near]
    exact feWaitFor_waits s len _ _ fresh (stands.imp_right fun ⟨one, later⟩ => ⟨by rw [one]; rfl, later⟩)
  have store {i : Instr} {len n : Nat} {off : W64} (form : exec i s = stfe i len n rd ra off s) : stores i s len n rd (s.reg ra + off) := by
    refine ⟨stops_feAccess form has, fun ⟨pass, next, _, ok⟩ => ⟨exec_stfe_goes has form pass next ok, fun stands fresh => ?_⟩⟩
    rw [exec_feAccess form has pass next]
    exact feWaitFor_waits s len _ _ fresh (stands.imp_right fun later => ⟨rfl, later⟩)
  have set {i : Instr} {len : Nat} {off : W64} {b : Bool} (form : exec i s = feSetTo b i len ra off s) : sets i s len (s.reg ra + off) b :=
    ⟨stops_feAccess form hasRa, fun ⟨pass, next, _, _⟩ => exec_feSetTo form hasRa pass next⟩
  have test {i : Instr} {len : Nat} {off : W64} (form : exec i s = fetst i len rd ra off s) : tests i s len rd (s.reg ra + off) :=
    ⟨stops_feAccess form has, fun ⟨pass, next, _, _⟩ => exec_fetst form has pass next⟩
  have plain : ea = s.reg ra + 0 := (BitVec.add_zero _).symm
  rw [plain]
  exact ⟨load rfl, load rfl, load rfl, load rfl, store rfl, store rfl, store rfl, store rfl, set rfl, set rfl, set rfl, set rfl, test rfl,
    test rfl⟩

end Sys2Proof.Laws

/-!
Lock bits (R117, R118) and the events of the local windows (R109, R111, R116): lines, grants, releases, returned loads, and obligation O9.
-/

namespace Sys2Proof.Laws

open Sys2Proof Sys2Proof.Machine

/-! ## The issuing thread's locks -/

/-- The lock is the issuing thread's. -/
def ownLock (s : State) (l : Lock) : Bool := l.core == s.focus && l.launch == s.ctx.launch && l.thr == s.thr.val

/-- The state with the issuing thread's locks released. -/
def unlockedOwn (s : State) : State := s.unlock s.focus s.ctx.launch (some s.thr.val)

section
variable (s : State) (k : Nat)

theorem unlockedOwn_locks : ((unlockedOwn s).cluster k).locks = (s.cluster k).locks.filter fun y => !ownLock s y.2 := by
  rw [unlockedOwn, unlock_locks]
  refine List.filter_congr fun y _ => ?_
  by_cases mine : y.2.thr = s.thr.val
  · simp [ownLock, mine]
  · have other : (s.thr.val == y.2.thr) = false := beq_false_of_ne (Ne.symm mine)
    simp [ownLock, beq_false_of_ne mine, other]

theorem unlockedOwn_keeps {α : Type} {g : Cluster → α} (keeps : ∀ x l, g { x with locks := l } = g x) :
    g ((unlockedOwn s).cluster k) = g (s.cluster k) := by
  refine cluster_mapVal_keeps (s := s) (t := unlockedOwn s) (f := fun _ x => { x with locks := x.locks.filter ?_ }) ?_ ?_ k
  rotate_left
  · rfl
  · exact fun _ x => keeps x _

theorem unlockedOwn_line : ((unlockedOwn s).cluster k).lockLine = (s.cluster k).lockLine :=
  unlockedOwn_keeps s k (g := Cluster.lockLine) fun _ _ => rfl

theorem unlockedOwn_scratch : ((unlockedOwn s).cluster k).scratch = (s.cluster k).scratch :=
  unlockedOwn_keeps s k (g := Cluster.scratch) fun _ _ => rfl

theorem find?_eq_map_find? {α : Type} (m : PMap α) (a : Nat) : PMap.find? m a = (List.find? (fun y => y.1 == a) m).map (·.2) := by
  induction m with
  | nil => rfl
  | cons e m ih =>
    obtain ⟨k, v⟩ := e
    by_cases here : k = a <;> simp [PMap.find?, here, ih]

end

/-! ## Lines at lock bits -/

theorem lockInsert_spec (w : LockWait) (l : List LockWait) : ∃ pre post, l = pre ++ post ∧ lockInsert w l = pre ++ w :: post ∧
    (∀ v ∈ pre, w.before v = false) ∧ ∀ v, post.head? = some v → w.before v = true := by
  induction l with
  | nil => exact ⟨[], [], rfl, rfl, nofun, nofun⟩
  | cons v l ih =>
    cases first : w.before v with
    | true => exact ⟨[], v :: l, rfl, if_pos first, nofun, fun u head => Option.some.inj head ▸ first⟩
    | false =>
      obtain ⟨pre, post, whole, inserted, later, next⟩ := ih
      refine ⟨v :: pre, post, congrArg (v :: ·) whole, (if_neg (ne_true_of_eq_false first)).trans (congrArg (v :: ·) inserted), ?_, next⟩
      intro u member
      rcases List.mem_cons.mp member with rfl | member
      · exact first
      · exact later u member

section
variable (x : Cluster) (w : LockWait)

theorem lockJoin_locks : (x.lockJoin w).locks = x.locks := by
  unfold Cluster.lockJoin
  split <;> rfl

theorem lockJoin_memories : memories (x.lockJoin w) = memories x := by
  unfold Cluster.lockJoin
  split <;> rfl

/-- The thread stands in line, in its place by `LockWait.before` where it has not stood there. -/
theorem lockJoin_line : ∃ u ∈ (x.lockJoin w).lockLine, u.core = w.core ∧ u.thr = w.thr ∧
    ((∀ v ∈ x.lockLine, ¬(v.core = w.core ∧ v.thr = w.thr)) → u = w ∧ ∃ pre post, x.lockLine = pre ++ post ∧
      (x.lockJoin w).lockLine = pre ++ w :: post ∧ (∀ v ∈ pre, w.before v = false) ∧ ∀ v, post.head? = some v → w.before v = true) := by
  unfold Cluster.lockJoin
  split
  case isTrue stands =>
    obtain ⟨u, member, own⟩ := List.any_eq_true.mp stands
    rw [Bool.and_eq_true, beq_iff_eq, beq_iff_eq] at own
    exact ⟨u, member, own.1, own.2, fun absent => absurd own (absent u member)⟩
  case isFalse =>
    obtain ⟨pre, post, whole, inserted, later, next⟩ := lockInsert_spec w x.lockLine
    refine ⟨w, ?_, rfl, rfl, fun _ => ⟨rfl, pre, post, whole, inserted, later, next⟩⟩
    show w ∈ lockInsert w x.lockLine
    rw [inserted]
    exact List.mem_append_right _ List.mem_cons_self

theorem lockDue_iff (key c t : Nat) : x.lockDue key c t = true ↔
    ∃ w, x.lockLine.find? (fun v => v.key == key) = some w ∧ w.due = true ∧ w.core = c ∧ w.thr = t := by
  unfold Cluster.lockDue
  split
  case h_1 none => simp [none]
  case h_2 w first => simp [first, and_assoc]

theorem mem_lockLeave (c t : Nat) (v : LockWait) : v ∈ (x.lockLeave c t).lockLine ↔ v ∈ x.lockLine ∧ ¬(v.core = c ∧ v.thr = t) := by
  simp only [Cluster.lockLeave, List.mem_filter, Bool.not_eq_true', Bool.and_eq_false_iff, beq_eq_false_iff_ne, not_and_or]

end

/-! ## Clusters replaced -/

section
variable {s : State} {k : Nat} {x : Cluster}

theorem setCluster_loader : loader (s.setCluster k x) = loader s := rfl

theorem setCluster_locks (keeps : x.locks = (s.cluster k).locks) (d : Nat) : ((s.setCluster k x).cluster d).locks = (s.cluster d).locks := by
  by_cases here : d = k
  · rw [here, cluster_setCluster_same, keeps]
  · rw [cluster_setCluster_other s here]

end

theorem type_of_lock {i : Instr} {fe : Bool} {ea : W64} {n : Nat} {s : State} (pass : localCheck i fe true ea n s = none) : opmType ea = 4 := by
  obtain ⟨⟨-, -, -, -, -, -, -, lock⟩, -⟩ := bounds_of_localCheck pass
  exact lock rfl

/-! ## LDL (R118) -/

/-- The state in which LDL has taken the lock bit. -/
def lockTaken (s : State) (k key word : Nat) : State :=
  let u := unlockedOwn s
  let x := (u.cluster k).lockLeave s.focus s.thr.val
  u.setCluster k { x with locks := x.locks.put key ⟨s.focus, s.ctx.launch, s.thr.val, word, s.now⟩ }

/-- The state in which LDL stands in line. -/
def lockLined (s : State) (k key word : Nat) : State :=
  let u := unlockedOwn s
  u.setCluster k ((u.cluster k).lockJoin ⟨key, s.focus, s.ctx.launch, s.thr.val, word, s.now, false⟩)

section
variable (s : State) (k key word : Nat)

theorem byteAt_lockTaken : (lockTaken s k key word).byteAt = s.byteAt := by
  rw [lockTaken, byteAt_setCluster, unlockedOwn, byteAt_unlock]
  rfl

theorem byteAt_lockLined : (lockLined s k key word).byteAt = s.byteAt := by
  rw [lockLined, byteAt_setCluster, unlockedOwn, byteAt_unlock]
  exact lockJoin_memories ..

theorem lockTaken_cluster : (lockTaken s k key word).cluster k =
    { ((unlockedOwn s).cluster k).lockLeave s.focus s.thr.val with
      locks := ((unlockedOwn s).cluster k).locks.put key ⟨s.focus, s.ctx.launch, s.thr.val, word, s.now⟩ } :=
  cluster_setCluster_same ..

theorem lockTaken_scratch : ((lockTaken s k key word).cluster k).scratch = (s.cluster k).scratch := by
  rw [lockTaken_cluster]
  exact unlockedOwn_scratch s k

end

section
variable {i : Instr} {s : State} {len : Nat} {rd ra : SReg} {off : W64} (form : exec i s = ldl i len rd ra off s) (has : s.has [ra, rd] = true)
include form has

theorem stops_ldl : Stops false true i s len (s.reg ra + off) 4 := stops_of_checkedLocal (form.trans (ready_of_has has _))

variable (pass : localCheck i false true (s.reg ra + off) 4 s = none) (next : (s.atSource && s.behind (s.reg ra + off)) = false)
include pass next

theorem exec_ldl : exec i s = let ea := s.reg ra + off
    let k := clusterOf (opmCore ea)
    let key := lockKey (opmOff ea)
    cutLoad len rd ea (fun s => s.setCluster k ((s.cluster k).lockLeave s.focus s.thr.val)) s
      (if (((unlockedOwn s).cluster k).locks.find? key).isNone && ((unlockedOwn s).cluster k).lockDue key s.focus s.thr.val then
        resultLoad len rd (widen 4 false ((lockTaken s k key (opmOff ea)).readLocal ea 4)) (lockTaken s k key (opmOff ea))
      else lineUp len .lock (lockLined s k key (opmOff ea))) :=
  (form.trans (ready_of_has has _)).trans (checkedLocal_goes pass next)

theorem exec_ldl_cut (cut : s.cutOff (dieOf s.focus) (opmDie (s.reg ra + off)) = true) : ∃ t, exec i s = .next t ∧
    Loaded s t len rd (s.reg ra + off) s.th.half poison64 ∧ SameMemory s t ∧ ∀ k, (t.cluster k).locks = (s.cluster k).locks := by
  rw [exec_ldl form has pass next]
  let k := clusterOf (opmCore (s.reg ra + off))
  let u := s.setCluster k ((s.cluster k).lockLeave s.focus s.thr.val)
  obtain ⟨t, eq, loaded, same⟩ := loadResult_loaded len rd (s.reg ra + off) poison64 u
  refine ⟨t, (if_pos cut).trans eq, (loaded_congr (u := u) setCluster_loader).mp loaded, sameMemory_of_byteAt ?_, fun d => ?_⟩
  · exact same.bytes.trans (byteAt_setCluster s (x := (s.cluster k).lockLeave s.focus s.thr.val) (by rfl))
  · rw [State.cluster, same.clusters]
    exact setCluster_locks (x := (s.cluster k).lockLeave s.focus s.thr.val) (by rfl) d


/-- LDL of a lock bit that is free and granted to the thread. -/
theorem exec_ldl_goes (near : ¬s.cutOff (dieOf s.focus) (opmDie (s.reg ra + off)) = true) : let ea := s.reg ra + off
    let k := clusterOf (opmCore ea)
    let key := lockKey (opmOff ea)
    PMap.find? ((unlockedOwn s).cluster k).locks key = none → (s.cluster k).lockDue key s.focus s.thr.val = true →
      ∃ t, exec i s = .next t ∧ SameMemory s t ∧
        t.th = (s.th.later rd ((s.readLocal ea 4).extractLsb' 0 32 |>.setWidth 64) (s.now + 4) true).past len ∧
        PMap.find? (t.cluster k).locks key = some ⟨s.focus, s.ctx.launch, s.thr.val, opmOff ea, s.now⟩ ∧
        ∀ v, v ∈ (t.cluster k).lockLine ↔ v ∈ (s.cluster k).lockLine ∧ ¬(v.core = s.focus ∧ v.thr = s.thr.val) := by
  intro ea k key free due
  have goes : (PMap.find? ((unlockedOwn s).cluster k).locks key).isNone && ((unlockedOwn s).cluster k).lockDue key s.focus s.thr.val := by
    rw [free, Cluster.lockDue, unlockedOwn_line]
    exact due
  have read : (lockTaken s k key (opmOff ea)).readLocal ea 4 = s.readLocal ea 4 := by
    have type := type_of_lock pass
    rw [(memoryWindow_scratch _ type).read, (memoryWindow_scratch s type).read]
    exact congrArg (Mem.readLE · _ 4 64) (lockTaken_scratch s k key _)
  refine ⟨_, (exec_ldl form has pass next).trans ((if_neg near).trans (if_pos goes)), sameMemory_of_byteAt ?_, ?_, ?_, fun v => ?_⟩
  · rw [byteAt_setTh, byteAt_lockTaken]
  · rw [th_setTh, read, widen_eq (n := 4) _ false (by decide) (fun h => nomatch h)]
    rfl
  · show PMap.find? ((lockTaken s k key (opmOff ea)).cluster k).locks key = _
    rw [lockTaken_cluster]
    exact PMap.find?_put_same ..
  · show v ∈ ((lockTaken s k key (opmOff ea)).cluster k).lockLine ↔ _
    rw [lockTaken_cluster]
    exact (mem_lockLeave ..).trans (by rw [unlockedOwn_line])

/-- LDL of a lock bit that is not free, or not granted to the thread. -/
theorem exec_ldl_waits (near : ¬s.cutOff (dieOf s.focus) (opmDie (s.reg ra + off)) = true) (fresh : s.th.stall = none) :
    let ea := s.reg ra + off
    let k := clusterOf (opmCore ea)
    let key := lockKey (opmOff ea)
    ¬(PMap.find? ((unlockedOwn s).cluster k).locks key = none ∧ (s.cluster k).lockDue key s.focus s.thr.val = true) →
      ∃ t, exec i s = .next t ∧ SameMemory s t ∧ t.th = { s.th with stall := some ⟨len, 0, .lock⟩ } ∧
        (t.cluster k).locks = ((s.cluster k).locks.filter fun y => !ownLock s y.2) ∧
        ∃ w ∈ (t.cluster k).lockLine, w.core = s.focus ∧ w.thr = s.thr.val ∧
          ((∀ v ∈ (s.cluster k).lockLine, ¬(v.core = s.focus ∧ v.thr = s.thr.val)) →
            w.key = key ∧ w.at_ = s.now ∧ ∃ pre post, (s.cluster k).lockLine = pre ++ post ∧ (t.cluster k).lockLine = pre ++ w :: post ∧
              (∀ v ∈ pre, w.before v = false) ∧ ∀ v, post.head? = some v → w.before v = true) := by
  intro ea k key stays
  have away : ¬((PMap.find? ((unlockedOwn s).cluster k).locks key).isNone &&
      ((unlockedOwn s).cluster k).lockDue key s.focus s.thr.val) = true := by
    rw [Cluster.lockDue, unlockedOwn_line, Bool.and_eq_true, Option.isNone_iff_eq_none]
    exact stays
  have source : (lockLined s k key (opmOff ea)).atSource = true := atSource_fresh (s := lockLined s k key (opmOff ea)) fresh
  have lined : (lockLined s k key (opmOff ea)).cluster k = ((unlockedOwn s).cluster k).lockJoin _ := cluster_setCluster_same ..
  obtain ⟨w, member, core, thr, place⟩ := lockJoin_line ((unlockedOwn s).cluster k)
    ⟨key, s.focus, s.ctx.launch, s.thr.val, opmOff ea, s.now, false⟩
  rw [unlockedOwn_line, ← lined] at place
  rw [← lined] at member
  refine ⟨_, (exec_ldl form has pass next).trans ((if_neg near).trans ((if_neg away).trans (if_pos source))), sameMemory_of_byteAt ?_,
    th_setTh .., ?_, w, member, core, thr, fun absent => ?_⟩
  · rw [State.stall, byteAt_setTh, byteAt_lockLined]
  · show ((lockLined s k key (opmOff ea)).cluster k).locks = _
    rw [lined, lockJoin_locks, unlockedOwn_locks]
  · obtain ⟨rfl, line⟩ := place absent
    exact ⟨rfl, rfl, line⟩

end

/-! ## STU and ULK (R118) -/

section
variable (s : State) (ea : W64)

theorem dropLock_only : BytesOnly s (s.dropLock ea) := bytesOnly_setCluster rfl

theorem dropLock_byteAt : (s.dropLock ea).byteAt = s.byteAt :=
  byteAt_setCluster s (x := (s.cluster (clusterOf (opmCore ea))).unlockOf s.focus s.ctx.launch s.thr.val) (by rfl)

theorem dropLock_locks : ((s.dropLock ea).cluster (clusterOf (opmCore ea))).locks =
    (s.cluster (clusterOf (opmCore ea))).locks.filter fun y => !ownLock s y.2 := congrArg Cluster.locks (cluster_setCluster_same ..)

end

section
variable {i : Instr} {s : State} {len : Nat} {ra : SReg} {off : W64} (form : exec i s = ulk i len ra off s) (has : s.has [ra] = true)
include form has

theorem stops_ulk : Stops false true i s len (s.reg ra + off) 4 := stops_of_checkedLocal (form.trans (ready_of_has has _))

theorem exec_ulk (pass : localCheck i false true (s.reg ra + off) 4 s = none) (next : (s.atSource && s.behind (s.reg ra + off)) = false) :
    let ea := s.reg ra + off
    ∃ t, exec i s = .next t ∧ StoreOnly s t (s.th.past len) ∧ SameMemory s t ∧
      (s.holds ea = false → ∀ k, (t.cluster k).locks = (s.cluster k).locks) ∧
      (s.holds ea = true → (t.cluster (clusterOf (opmCore ea))).locks =
        (s.cluster (clusterOf (opmCore ea))).locks.filter fun y => !ownLock s y.2) := by
  intro ea
  refine ⟨_, (form.trans (ready_of_has has _)).trans (checkedLocal_goes pass next), ?_⟩
  cases held : s.holds ea with
  | false => exact ⟨(⟨rfl, fun _ => rfl, fun _ => rfl⟩ : BytesOnly s s).setTh _, sameMemory_of_byteAt (byteAt_setTh s _), fun _ _ => rfl, nofun⟩
  | true =>
    refine ⟨(dropLock_only s ea).setTh _, sameMemory_of_byteAt ?_, nofun, fun _ => dropLock_locks s ea⟩
    exact (byteAt_setTh (s.dropLock ea) _).trans (dropLock_byteAt s ea)

end

section
variable {s : State} {rd ra rb : SReg} (has : s.has [ra, rb, rd] = true)
include has

theorem stops_stu : Stops false true (.stu rd ra rb) s 4 (s.reg ra) 4 :=
  stops_of_checkedLocal ((show exec (.stu rd ra rb) s = execStu rd ra rb s from rfl).trans (ready_of_has has _))

variable (pass : localCheck (.stu rd ra rb) false true (s.reg ra) 4 s = none) (next : (s.atSource && s.behind (s.reg ra)) = false)
include pass next

theorem exec_stu : exec (.stu rd ra rb) s =
    if s.holds (s.reg ra) then resultAt 4 rd 0 4 ((s.writeLocal (s.reg ra) 4 (s.reg rb)).dropLock (s.reg ra)) else resultAt 4 rd 1 4 s :=
  ((show exec (.stu rd ra rb) s = execStu rd ra rb s from rfl).trans (ready_of_has has _)).trans (checkedLocal_goes pass next)

/-- STU without the lock on the word. -/
theorem exec_stu_free (free : s.holds (s.reg ra) = false) :
    exec (.stu rd ra rb) s = .next (s.setTh ((s.th.later rd 1 (s.now + 4)).past 4)) :=
  (exec_stu has pass next).trans (if_neg (ne_true_of_eq_false free))

/-- STU with the lock on the word. -/
theorem exec_stu_held (ok : s.memOk = true) (held : s.holds (s.reg ra) = true) : let ea := s.reg ra
    let k := clusterOf (opmCore ea)
    ∃ t, exec (.stu rd ra rb) s = .next t ∧ t.th = (s.th.later rd 0 (s.now + 4)).past 4 ∧ SameBut (placeOf s ea) 4 s t ∧
      (t.cluster k).locks = ((s.cluster k).locks.filter fun y => !ownLock s y.2) ∧
      ∀ j < 4, ∃ p, placeOf s ea j = some p ∧ t.byteAt p = (s.reg rb).extractLsb' (8 * j) 8 := by
  intro ea k
  have window := memoryWindow_scratch s (type_of_lock pass)
  have only := (window.write_only (s.reg rb) 4).trans (dropLock_only (s.writeLocal ea 4 (s.reg rb)) ea)
  have own : ownLock (s.writeLocal ea 4 (s.reg rb)) = ownLock s := by
    have written := window.write_only (s.reg rb) 4
    funext l
    rw [ownLock, written.focus, written.ctx, written.thr]
    rfl
  have locks : ((s.writeLocal ea 4 (s.reg rb)).cluster k).locks = (s.cluster k).locks := by
    rw [window.write 4 (s.reg rb)]
    exact (congrArg Cluster.locks (cluster_setCluster_same s k { s.cluster k with scratch := _ }) :)
  have now : ((s.writeLocal ea 4 (s.reg rb)).dropLock ea).now = s.now := (congrArg State.now only.device :)
  refine ⟨_, (exec_stu has pass next).trans (if_pos held), ?_, fun p out => ?_, ?_, fun j inside => ⟨_, window.place j, ?_⟩⟩
  · rw [th_setTh, only.th, now]
  · rw [byteAt_setTh, dropLock_byteAt, window.write_sameBut ok _ 4 p out]
  · exact (dropLock_locks ..).trans (by rw [locks, own])
  · rw [byteAt_setTh, dropLock_byteAt, window.write_byte ok _ inside]

end

/-! ## A register's value arrives (R111) -/

section
variable {s t : State} {d : SReg}

theorem regUpdate_arrive (d : SReg) (h : Thread) (v : W64) : RegUpdate d h (h.arrive d v) := by
  by_cases zero : d = 0
  · rw [zero, arrive_zero]
    exact regUpdate_refl 0 h
  · have upd := regUpdate_setReg d h v
    rw [arrive_of_ne_zero h v zero]
    exact ⟨upd.1, (congrArg (fun x : Thread => { x with pending := h.pending }) upd.2 :)⟩

theorem onlyRegs_of_th (upd : RegUpdate d s.th t.th) : OnlyRegs [d] s t := ⟨fun r outside => upd.1 r (List.ne_of_not_mem_cons outside), upd.2⟩

/-- What arrives for the issuing thread writes its register. -/
theorem deliverTo_own {launch : Nat} (runs : s.ctx.of launch = true) (live : s.th.live = true) (d : SReg) (v : W64) :
    s.deliverTo s.focus launch s.thr.val s.th.inc d v = s.setTh (s.th.arrive d v) := by
  have goes : (s.th.live && s.th.inc == s.th.inc) = true := by rw [live, beq_self_eq_true]; rfl
  rw [State.deliverTo, updImage_of_running (s := s) runs, thrOf_val]
  exact congrArg (fun x => s.setCore s.focus { s.core s.focus with run := x }) (if_pos goes)

/-- What arrives for the issuing thread from a die that no route reaches (R313). -/
theorem deliverTo_marked {launch : Nat} (runs : s.ctx.of launch = true) (live : s.th.live = true) (d : SReg) (v : W64) :
    (s.updImage s.focus launch fun x => { x with accerr := true }).deliverTo s.focus launch s.thr.val s.th.inc d v =
      s.setAccerr.setTh (s.th.arrive d v) := by
  have marked : s.updImage s.focus launch (fun x => { x with accerr := true }) = s.setAccerr := updImage_of_running (s := s) runs _
  have th : s.setAccerr.th = s.th := th_setCtx s _
  have arrives := deliverTo_own (s := s.setAccerr) (launch := launch) ((congrArg (Ctx.of · launch) (ctx_setCtx s _)).trans runs)
    (th.symm ▸ live) d v
  rw [marked]
  rwa [th] at arrives

end

/-! ## LOCAL_LOAD_RETURN (R111, R306, R313) -/

section
variable {s : State} {pos : Nat} {l : LocalLoad}

theorem returnsNow_of_first (first : clusterOf l.from_ = clusterOf l.core ∨
    (s.routeHeld (dieOf l.from_) (dieOf l.core) = false ∧ ∀ m ∈ s.locals, m.core = l.core → m.from_ = l.from_ → l.seq ≤ m.seq) ∧
      s.answerAhead l.from_ l.core l.seq = false) : s.returnsNow l = true := by
  rw [State.returnsNow, Bool.or_eq_true, beq_iff_eq]
  refine first.imp_right fun ⟨⟨held, oldest⟩, ahead⟩ => ?_
  have none : (s.locals.any fun m => m.core == l.core && m.from_ == l.from_ && decide (m.seq < l.seq)) = false := by
    simp only [List.any_eq_false, Bool.and_eq_true, beq_iff_eq, decide_eq_true_eq]
    rintro m member ⟨⟨core, source⟩, before⟩
    exact absurd before (Nat.not_lt.mpr (oldest m member core source))
  rw [held, none, ahead]
  rfl

variable (present : s.locals[pos]? = some l) (core : l.core = s.focus) (thr : l.thr = s.thr.val) (runs : s.ctx.of l.launch = true)
  (live : s.th.live = true) (inc : s.th.inc = l.inc) (whole : s.th.half = none) (now : s.returnsNow l = true)
include present core thr runs live inc whole now

theorem exec_localLoadReturn : exec (.localLoadReturn pos) s = let gone : State := { s with locals := s.locals.eraseIdx pos }
    .next (if s.cutOff (dieOf l.from_) (dieOf l.core) then gone.setAccerr.setTh (s.th.arrive l.rd poison64)
      else gone.setTh (s.th.arrive l.rd l.val)) := by
  obtain ⟨seq, source, core, launch, thr, inc, d, v, at_⟩ := l
  subst core thr inc
  have back : s.halfBack ⟨seq, source, s.focus, launch, s.thr.val, s.th.inc, d, v, at_⟩ = s := by
    refine if_neg ?_
    have none : ((s.core s.focus).run.thread (thrOf s.thr.val)).half = none := by rw [thrOf_val]; exact whole
    simp [none]
  let gone : State := { s with locals := s.locals.eraseIdx pos }
  have poisons := deliverTo_marked (s := gone) runs live d poison64
  have arrives := deliverTo_own (s := gone) runs live d v
  show execLocalLoadReturn pos s = _
  unfold execLocalLoadReturn
  simp only [present, now, back, if_true]
  split
  · exact congrArg _ poisons
  · exact congrArg _ arrives

end

/-! ## The other events -/

theorem exec_lockTimeout (s : State) (k : Nat) : exec (.lockTimeout k) s = .next (s.setCluster k
    { s.cluster k with locks := (s.cluster k).locks.filter fun y => decide (s.now < y.2.granted + 64) }) := rfl

theorem exec_feWaitComplete {s : State} {c g : Nat} {w : FeWait}
    (first : (s.core c).feLine.find? (fun x => x.gran == g && x.full == (s.core c).fe.getLsbD g) = some w) :
    exec (.feWaitComplete c g) s = .next { s with agenda := .issue w.core w.thr :: s.agenda } := by
  show execFeWaitComplete c g s = _
  simp only [execFeWaitComplete, Core.full, first]

theorem exec_lockGrant {s : State} {k bank b : Nat} {w : LockWait}
    (first : (s.cluster k).lockLine.find? (fun x => x.key == 16 * bank + b) = some w)
    (free : PMap.find? (s.cluster k).locks (16 * bank + b) = none) : let x := s.cluster k
    exec (.lockGrant k bank b) s =
      .next { s.setCluster k { x with lockLine := x.lockLine.map fun v => if v = w then { v with due := true } else v } with
        agenda := .issue w.core w.thr :: s.agenda } := by
  intro x
  show execLockGrant k bank b s = _
  simp only [execLockGrant, first, free, Option.isNone_none, if_true]
  rfl

theorem exec_remoteAccessRetry {s : State} {c len : Nat} {n : Fin 11} {rd : SReg}
    (waits : ((s.core c).run.thread n).stall = some ⟨len, rd, .remote⟩) :
    exec (.remoteAccessRetry c n.val) s = .next { s with agenda := .issue c n.val :: s.agenda } := by
  show execRemoteAccessRetry c n.val s = _
  simp only [execRemoteAccessRetry, thrOf_val, waits]

/-! ## The obligation -/

/-- Settles O9: LDL by its three ends, STU and ULK by whether the thread holds the lock, each event by the lemma of its own. -/
theorem lockBits : Obligations.LockBits := by
  unfold Obligations.LockBits
  refine ⟨?_, fun s pos l present core thr runs live inc rd whole first => ?returns, fun s k => ?timeout,
    fun s c g w first => exec_feWaitComplete first, fun s k bank b w first free => exec_lockGrant first free,
    fun s c n len rd waits => exec_remoteAccessRetry waits⟩
  · extract_lets clu check mine takes frees
    intro s rd ra rb lit has
    have hasRa : s.has [ra] = true := has_of_has_append (m := [rb, rd]) has
    have hasLoad : s.has [ra, rd] = true := by
      simp only [State.has, List.all_cons, List.all_nil, Bool.and_eq_true] at has ⊢
      exact ⟨has.1, has.2.2⟩
    have ldlAs {i : Instr} {len : Nat} {off : W64} (form : exec i s = ldl i len rd ra off s) : takes i s len rd (s.reg ra + off) := by
      refine ⟨stops_ldl form hasLoad, fun ⟨pass, next, _⟩ => ?_⟩
      extract_lets x key free granted cut
      have free_iff : PMap.find? ((unlockedOwn s).cluster (clu (s.reg ra + off))).locks key = none ↔ free := by
        rw [unlockedOwn_locks, find?_eq_map_find?, Option.map_eq_none_iff]
        exact Iff.rfl
      have granted_iff : x.lockDue key s.focus s.thr.val = true ↔ granted := lockDue_iff ..
      refine ⟨fun near none due => exec_ldl_goes form hasLoad pass next near (free_iff.mpr none) (granted_iff.mpr due),
        fun near stays fresh => exec_ldl_waits form hasLoad pass next near fresh ?_, fun away => exec_ldl_cut form hasLoad pass next away⟩
      rw [free_iff, granted_iff, not_and_or]
      exact stays
    have ulkAs {i : Instr} {len : Nat} {off : W64} (form : exec i s = ulk i len ra off s) : frees i s len (s.reg ra + off) :=
      ⟨stops_ulk form hasRa, fun ⟨pass, next, _⟩ => exec_ulk form hasRa pass next⟩
    have plain : s.reg ra = s.reg ra + 0 := (BitVec.add_zero _).symm
    refine ⟨plain ▸ ldlAs rfl, ldlAs rfl, plain ▸ ulkAs rfl, ulkAs rfl, stops_stu has, fun ⟨pass, next, ok⟩ => ?_⟩
    cases held : s.holds (s.reg ra) with
    | false => exact ⟨_, exec_stu_free has pass next held, th_setTh .., fun _ => ⟨sameMemory_setTh s _, fun _ => rfl⟩, nofun⟩
    | true =>
      obtain ⟨t, eq, th, stored⟩ := exec_stu_held has pass next ok held
      exact ⟨t, eq, th, nofun, fun _ => stored⟩
  case returns =>
    refine ⟨_, exec_localLoadReturn present core thr runs live inc whole (returnsNow_of_first first), ?_⟩
    have reg (t : State) (v : W64) (th : t.th = s.th.arrive l.rd v) : t.reg l.rd = v ∧ t.th.has l.rd = true ∧ OnlyRegs [l.rd] s t := by
      refine ⟨?_, ?_, onlyRegs_of_th (th ▸ regUpdate_arrive l.rd s.th v)⟩
      · rw [State.reg, th, arrive_of_ne_zero _ _ rd]
        exact reg_setReg_same _ v rd
      · rw [th, arrive_of_ne_zero _ _ rd]
        exact has_setReg_same ..
    cases away : s.cutOff (dieOf l.from_) (dieOf l.core) with
    | false =>
      obtain ⟨val, has, only⟩ := reg _ l.val (th_setTh { s with locals := s.locals.eraseIdx pos } _)
      exact ⟨rfl, has, only, fun _ => ⟨val, onlyThread_setTh _ _⟩, nofun⟩
    | true =>
      obtain ⟨val, has, only⟩ := reg _ poison64 (th_setTh ({ s with locals := s.locals.eraseIdx pos } : State).setAccerr _)
      refine ⟨rfl, has, only, nofun, fun _ => ⟨val, ?_⟩⟩
      rw [if_pos rfl, ctx_setTh, State.setAccerr, ctx_setCtx]
      rfl
  case timeout =>
    refine ⟨_, exec_lockTimeout s k, sameMemory_of_byteAt ?_, congrArg Cluster.locks (cluster_setCluster_same ..), rfl,
      fun a other => cluster_setCluster_other s other _⟩
    exact byteAt_setCluster s (x := { s.cluster k with locks := _ }) (by rfl)

end Sys2Proof.Laws

/-!
Remote register writes, messages and presence bits (R119–R121, R123): what sends, delivers, answers and takes them, and obligation O14.
-/

namespace Sys2Proof.Laws

open Sys2Proof Sys2Proof.Machine

/-! ## Targets (R120, R122) -/

theorem above_thread_eq_zero_iff (a : W64) : a.extractLsb' 16 48 = 0 ↔ a.toNat < 65536 := by
  have := a.isLt
  rw [BitVec.toNat_eq, BitVec.extractLsb'_toNat, Nat.shiftRight_eq_div_pow]
  simp
  omega

theorem above_core_eq_zero_iff (a : W64) : a.extractLsb' 12 52 = 0 ↔ a.toNat < 4096 := by
  have := a.isLt
  rw [BitVec.toNat_eq, BitVec.extractLsb'_toNat, Nat.shiftRight_eq_div_pow]
  simp
  omega

theorem eight_le_dieOf (c : Nat) : 8 ≤ dieOf c ↔ 2048 ≤ c := by
  unfold dieOf
  omega

/-! ## The phase that an instruction needs (R66) -/

section
variable {i : Instr} {s : State} (k : State → Out)

theorem exchangeOnly_compute (phase : s.ctx.phase = .compute) (fresh : s.th.stall = none) :
    exchangeOnly i s k = .next (trapEntry 6 (w0x i) s) := if_pos ⟨phase, fresh⟩

theorem exchangeOnly_exchange (phase : s.ctx.phase = .exchange) : exchangeOnly i s k = k s :=
  if_neg fun ⟨compute, _⟩ => by simp [phase] at compute

end

/-! ## RSET and MSG (R120, R123) -/

section
variable {i : Instr} {s : State} {len : Nat} {need : List SReg} {idx : BitVec 5} {ra : SReg} {b : State → W64}
  (form : exec i s = rset i len need idx ra b s) (has : s.has need = true)
include form has

theorem exec_rset_compute (phase : s.ctx.phase = .compute) (fresh : s.th.stall = none) : exec i s = .next (trapEntry 6 (w0x i) s) :=
  (form.trans (ready_of_has has _)).trans (exchangeOnly_compute _ phase fresh)

variable (phase : s.ctx.phase = .exchange) (fresh : s.th.stall = none)
include phase fresh

theorem exec_rset : exec i s = let a := s.reg ra
    let c := targetCore a
    let t := (a.extractLsb' 12 4).toNat
    if a.extractLsb' 16 48 ≠ 0 ∨ 8 ≤ dieOf c ∨ 10 < t ∨ !s.inSpread s.ctx.launch c ∨ s.cutOff (dieOf s.focus) (dieOf c) then
      .next (trapEntry 10 (targetVal a (w0Of i)) s)
    else .next (s.send len ⟨false, s.focus, s.thr.val, s.ctx.launch, s.ctx.ctxid, c, t, idx, b s, w0Of i, s.now, s.seq, .flying, none,
      (s.die (dieOf s.focus)).inc, false⟩) := by
  refine ((form.trans (ready_of_has has _)).trans (exchangeOnly_exchange _ phase)).trans ?_
  dsimp only
  rw [fresh]
  rfl

theorem exec_rset_sends (whole : (s.reg ra).toNat < 65536) (thread : ((s.reg ra).extractLsb' 12 4).toNat ≤ 10)
    (near : targetCore (s.reg ra) < 2048) (inside : s.inSpread s.ctx.launch (targetCore (s.reg ra)) = true)
    (route : s.cutOff (dieOf s.focus) (dieOf (targetCore (s.reg ra))) = false) : exec i s =
    .next (s.send len ⟨false, s.focus, s.thr.val, s.ctx.launch, s.ctx.ctxid, targetCore (s.reg ra), ((s.reg ra).extractLsb' 12 4).toNat,
      idx, b s, w0Of i, s.now, s.seq, .flying, none, (s.die (dieOf s.focus)).inc, false⟩) := by
  refine (exec_rset form has phase fresh).trans (if_neg ?_)
  rw [ne_eq, above_thread_eq_zero_iff, eight_le_dieOf, inside, route]
  simp only [whole, Nat.not_le.mpr near, Nat.not_lt.mpr thread, not_true, Bool.not_true, Bool.false_eq_true, or_self, not_false_eq_true]

theorem exec_rset_traps (bad : 65536 ≤ (s.reg ra).toNat ∨ 10 < ((s.reg ra).extractLsb' 12 4).toNat ∨ 2048 ≤ targetCore (s.reg ra) ∨
    s.inSpread s.ctx.launch (targetCore (s.reg ra)) = false) : exec i s = .next (trapEntry 10 (targetVal (s.reg ra) (w0Of i)) s) := by
  refine (exec_rset form has phase fresh).trans (if_pos ?_)
  rw [ne_eq, above_thread_eq_zero_iff, eight_le_dieOf, Bool.not_eq_true']
  exact bad.imp Nat.not_lt.mpr fun bad => (or_left_comm.mp bad).imp_right fun bad => bad.imp_right .inl

end

section
variable {i : Instr} {s : State} {len : Nat} {need : List SReg} {ra : SReg} {b : State → W64}
  (form : exec i s = msg i len need ra b s) (has : s.has need = true) (phase : s.ctx.phase = .exchange) (fresh : s.th.stall = none)
include form has phase fresh

theorem exec_msg : exec i s = let a := s.reg ra
    let c := targetCore a
    if a.extractLsb' 12 52 ≠ 0 ∨ (if c = mailbox then s.ctx.mode == .user
        else decide (8 ≤ dieOf c) || !s.inSpread s.ctx.launch c || s.hasEnded c s.ctx.launch || s.cutOff (dieOf s.focus) (dieOf c)) = true then
      .next (trapEntry 10 (targetVal a (w0Of i)) s)
    else .next (s.send len ⟨true, s.focus, s.thr.val, s.ctx.launch, s.ctx.ctxid, c, 0, 0, b s, w0Of i, s.now, s.seq, .flying, none,
      (s.die (dieOf s.focus)).inc, false⟩) := by
  refine ((form.trans (ready_of_has has _)).trans (exchangeOnly_exchange _ phase)).trans ?_
  dsimp only
  rw [fresh]
  rfl

theorem exec_msg_sends (ok : (s.reg ra).toNat < 4096 ∧ targetCore (s.reg ra) < 2048 ∧
      s.inSpread s.ctx.launch (targetCore (s.reg ra)) = true ∧ s.cutOff (dieOf s.focus) (dieOf (targetCore (s.reg ra))) = false ∧
      s.hasEnded (targetCore (s.reg ra)) s.ctx.launch = false ∨ s.reg ra = 0x800 ∧ s.ctx.mode = .supervisor) : exec i s =
    .next (s.send len ⟨true, s.focus, s.thr.val, s.ctx.launch, s.ctx.ctxid, targetCore (s.reg ra), 0, 0, b s, w0Of i, s.now, s.seq, .flying,
      none, (s.die (dieOf s.focus)).inc, false⟩) := by
  refine (exec_msg form has phase fresh).trans (if_neg ?_)
  rcases ok with ⟨whole, near, inside, route, lives⟩ | ⟨management, mode⟩
  · have core : ¬targetCore (s.reg ra) = mailbox := fun eq => absurd (eq ▸ near) (by decide)
    have die : ¬8 ≤ dieOf (targetCore (s.reg ra)) := mt (eight_le_dieOf _).mp (Nat.not_le.mpr near)
    rw [ne_eq, above_core_eq_zero_iff, if_neg core, inside, route, lives, decide_eq_false die]
    simp [whole]
  · have core : targetCore (s.reg ra) = mailbox := by rw [management]; decide
    rw [ne_eq, above_core_eq_zero_iff, if_pos core, mode, management]
    decide

theorem exec_msg_traps (bad : s.reg ra = 0x800 ∧ s.ctx.mode = .user ∨ 4096 ≤ (s.reg ra).toNat ∨ 2048 < targetCore (s.reg ra) ∨
    targetCore (s.reg ra) < 2048 ∧ (s.inSpread s.ctx.launch (targetCore (s.reg ra)) = false ∨
      s.hasEnded (targetCore (s.reg ra)) s.ctx.launch = true)) : exec i s = .next (trapEntry 10 (targetVal (s.reg ra) (w0Of i)) s) := by
  refine (exec_msg form has phase fresh).trans (if_pos ?_)
  rw [ne_eq, above_core_eq_zero_iff]
  rcases bad with ⟨management, mode⟩ | large | beyond | ⟨near, closed⟩
  · have core : targetCore (s.reg ra) = mailbox := by rw [management]; decide
    rw [if_pos core, mode]
    exact .inr rfl
  · exact .inl (Nat.not_lt.mpr large)
  · have core : ¬targetCore (s.reg ra) = mailbox := fun eq => absurd (eq ▸ beyond) (by decide)
    rw [if_neg core, decide_eq_true ((eight_le_dieOf _).mpr (Nat.le_of_lt beyond))]
    exact .inr rfl
  · have core : ¬targetCore (s.reg ra) = mailbox := fun eq => absurd (eq ▸ near) (by decide)
    rw [if_neg core]
    rcases closed with outside | ended <;> simp [*]

end

/-! ## MSGRD (R123) -/

section
variable {s : State} {rd : SReg} (has : s.has [rd] = true) (phase : s.ctx.phase = .exchange)
include has phase

theorem exec_msgrd : exec (.msgrd rd) s = match s.ctx.msgq with
    | v :: rest => result 4 rd v (s.setCtx { s.ctx with msgq := rest })
    | [] => match s.th.stall with
      | some _ => wait s
      | none => .next (s.stall 4 rd .retry) :=
  ((show exec (.msgrd rd) s = execMsgrd rd s from rfl).trans (ready_of_has has _)).trans (exchangeOnly_exchange _ phase)

theorem exec_msgrd_takes {v : W64} {rest : List W64} (queue : s.ctx.msgq = v :: rest) :
    exec (.msgrd rd) s = .next ((s.setCtx { s.ctx with msgq := rest }).setTh ((s.th.setReg rd v).past 4)) := by
  rw [exec_msgrd has phase, queue]
  dsimp only
  rw [result, th_setCtx]
  rfl

theorem exec_msgrd_waits (empty : s.ctx.msgq = []) (fresh : s.th.stall = none) :
    exec (.msgrd rd) s = .next (s.setTh { s.th with stall := some ⟨4, rd, .retry⟩ }) := by
  rw [exec_msgrd has phase, empty]
  dsimp only
  rw [fresh]
  rfl

end

/-! ## The packet that arrives next (R120, R306, R309, R315, R334) -/

section
variable {s : State}

/-- A search with places finds an element at its place. -/
theorem getElem?_of_find?_zipIdx {α : Type} {l : List α} {q : α × Nat → Bool} {n : Nat} {p : α}
    (found : (l.zipIdx.find? q).map (fun e => (e.2, e.1)) = some (n, p)) : l[n]? = some p ∧ q (p, n) = true := by
  obtain ⟨e, hit, eq⟩ := Option.map_eq_some_iff.mp found
  obtain ⟨rfl, rfl⟩ := Prod.mk.inj eq
  exact ⟨List.mem_zipIdx_iff_getElem?.mp (List.mem_of_find?_eq_some hit), List.find?_some hit⟩

variable {m : Bool} {c n : Nat} {p : Packet}

theorem arriving_spec (arrives : s.arriving m c = some (n, p)) :
    s.packets[n]? = some p ∧ p.target = c ∧ p.state = .flying ∧ s.inOrder p n = true := by
  obtain ⟨present, kind⟩ := getElem?_of_find?_zipIdx arrives
  simp only [Bool.and_eq_true, beq_iff_eq] at kind
  exact ⟨present, kind.1.1.2, kind.1.2, kind.2⟩

theorem inOrder_spec (order : s.inOrder p n = true) : p.nacked = none ∧ s.pathHeld p.core p.target = false ∧
    (∀ j < n, ∀ q, s.packets[j]? = some q → q.core = p.core → q.target = p.target → q.state ≠ .flying) ∧
    ∀ t l, (s.core p.target).port.owner = some (p.core, t, l) → ∀ e ∈ (s.core p.target).port.flying, p.seq ≤ e.1 := by
  simp only [State.inOrder, Bool.and_eq_true, Bool.not_eq_true', Option.isNone_iff_eq_none] at order
  obtain ⟨⟨⟨nacked, path⟩, first⟩, port⟩ := order
  refine ⟨nacked, path, fun j before q at_ core target flies => ?_, fun t l owner e member => ?_⟩
  · have taken : q ∈ s.packets.take n := List.mem_of_getElem? ((List.getElem?_take_of_lt before).trans at_)
    have := List.any_eq_false.mp first q taken
    simp [core, target, flies] at this
  · rw [owner, Option.any_some, beq_self_eq_true, Bool.true_and] at port
    simpa using List.any_eq_false.mp port e member

theorem pathHeld_eq_false {a b : Nat} (free : s.pathHeld a b = false) :
    s.routeHeld (dieOf a) (dieOf b) = false ∧ s.now ≥ (s.die (dieOf b)).resetEnd ∧ s.fenced b = false := by
  simp only [State.pathHeld, Bool.or_eq_false_iff, State.dieInReset, decide_eq_false_iff_not, Nat.not_lt] at free
  exact ⟨free.1.1, free.1.2, free.2⟩

end

/-! ## Answers (R120, R315, R334) -/

/-- The packet's answer reaches its sender: the sender's core has not been reset since, and its die has the same incarnation. -/
def AnswerReaches (s : State) (p : Packet) : Prop :=
  p.core < 2048 ∧ (s.image p.core p.launch).isSome ∧ p.lost = false ∧ p.inc8 = (s.die (dieOf p.core)).inc

section
variable {s : State} {n : Nat} {p : Packet} (a : PacketState)

theorem answer_of_reaches (reaches : AnswerReaches s p) : s.answer n p a =
    { s with seq := s.seq + 1, packets := s.packets.set n { p with state := a, sent := s.now, seq := s.seq } } := by
  obtain ⟨core, image, lost, inc⟩ := reaches
  have user : ¬p.core = mailbox := fun eq => absurd (eq ▸ core) (by decide)
  refine (if_neg user).trans (if_neg ?_)
  rw [lost, inc, Option.isNone_eq_false_iff.mpr image]
  simp

theorem answer_of_not_reaches (core : p.core < 2048) (stale : ¬AnswerReaches s p) :
    s.answer n p a = ({ s with packets := s.packets.eraseIdx n } : State).staleAnswer p.core := by
  have user : ¬p.core = mailbox := fun eq => absurd (eq ▸ core) (by decide)
  refine (if_neg user).trans (if_pos ?_)
  by_contra back
  simp only [Bool.or_eq_true, not_or, Bool.not_eq_true, bne_eq_false_iff_eq, Option.isNone_eq_false_iff] at back
  exact stale ⟨core, back.2, back.1.1, back.1.2⟩

theorem answer_byteAt (reaches : AnswerReaches s p) : (s.answer n p a).byteAt = s.byteAt := by
  rw [answer_of_reaches a reaches]
  exact byteAt_ext (fun _ => rfl) (fun _ => rfl) rfl rfl

/-- An answer that reaches its sender stands in the packet's place, and no core or byte differs. -/
theorem answer_kept (reaches : AnswerReaches s p) : let t := s.answer n p a
    (t.packets = s.packets.set n { p with state := a, sent := s.now, seq := s.seq } ∧ SameMemory s t) ∧ t.cores = s.cores := by
  intro t
  have eq : t = _ := answer_of_reaches a reaches
  exact ⟨⟨(congrArg State.packets eq :), sameMemory_of_byteAt (answer_byteAt a reaches)⟩, (congrArg State.cores eq :)⟩

theorem staleAnswer_stale (s : State) (c : Nat) :
    ((s.staleAnswer c).die (dieOf c)).stale.toNat = min (2 ^ 24 - 1) ((s.die (dieOf c)).stale.toNat + 1) := by
  rw [State.staleAnswer, die_setDie_same]
  simp only [BitVec.toNat_ofNat]
  omega

end

/-! ## A remote write at its target (R119, R120) -/

/-- Whether a register takes a remote write at once: it is receivable and no entry of the inbox waits for it. -/
def takesNow (x : Ctx) (n : Fin 11) (r : SReg) : Bool :=
  (x.thread n).receivable r && !(x.inbox.any fun e => e.thr == n.val && e.idx == r)

section
variable {x : Ctx} {n : Fin 11} {r : SReg} (v : W64)

theorem receive_now (ne : r ≠ 0) (free : takesNow x n r = true) :
    x.receive n r v = some { x.setThread n ((x.thread n).setReg r v) with wakes := x.wakes + 1 } := (if_neg ne).trans (if_pos free)

theorem receive_queued (ne : r ≠ 0) (busy : takesNow x n r = false) (room : x.inbox.length < 8) :
    x.receive n r v = some { x with inbox := x.inbox ++ [⟨n.val, r, v⟩], wakes := x.wakes + 1 } :=
  (if_neg ne).trans ((if_neg (ne_true_of_eq_false busy)).trans (if_pos room))

theorem receive_refused (ne : r ≠ 0) (busy : takesNow x n r = false) (full : 8 ≤ x.inbox.length) : x.receive n r v = none :=
  (if_neg ne).trans ((if_neg (ne_true_of_eq_false busy)).trans (if_neg (Nat.not_lt.mpr full)))

theorem standing_receive {y : Ctx} (received : x.receive n r v = some y) : standing y = standing x := by
  by_cases zero : r = 0
  · obtain rfl := Option.some.inj ((if_pos zero).symm.trans received)
    rfl
  cases free : takesNow x n r with
  | true =>
    obtain rfl := Option.some.inj ((receive_now v zero free).symm.trans received)
    rfl
  | false =>
    by_cases room : x.inbox.length < 8
    · obtain rfl := Option.some.inj ((receive_queued v zero free room).symm.trans received)
      rfl
    · exact absurd (received.symm.trans (receive_refused v zero free (Nat.not_lt.mp room))) nofun

end

/-! ## A context changed at an arrival -/

section
variable {s : State} {c n : Nat} {x y : Ctx} (at_ : s.ctxOf c n = some x)
include at_

theorem updCtx_congr {f g : Ctx → Ctx} (eq : f x = g x) : s.updCtx c n f = s.updCtx c n g := by
  cases run : (s.core c).run.of n with
  | true =>
    obtain rfl : (s.core c).run = x := Option.some.inj ((ctxOf_of_run run).symm.trans at_)
    rw [updCtx_of_run _ run, updCtx_of_run _ run, eq]
  | false =>
    cases shadow : (s.core c).shadow.of n with
    | true =>
      obtain rfl : (s.core c).shadow = x := Option.some.inj ((ctxOf_of_shadow run shadow).symm.trans at_)
      rw [updCtx_of_shadow _ run shadow, updCtx_of_shadow _ run shadow, eq]
    | false => rw [updCtx_of_neither _ run shadow, updCtx_of_neither _ run shadow]

variable (same : standing y = standing x)
include same

theorem ctxOf_updCtx_to : (s.updCtx c n fun _ => y).ctxOf c n = some y := by
  classical
  rw [updCtx_congr (g := fun z => if z = x then y else z) at_ (if_pos rfl).symm, ctxOf_updCtx_same (fun z => ?_) at_, if_pos rfl]
  split
  case isTrue eq => rw [eq, same]
  case isFalse => rfl

theorem isSome_image_updCtx_to (d : Nat) : ((s.updCtx c n fun _ => y).image d n).isSome = (s.image d n).isSome := by
  by_cases here : d = c
  · rw [here, image_of_resident (ctxOf_updCtx_to at_ same), image_of_resident at_]
    rfl
  · rw [State.image, ctxOf_updCtx_other _ here, updCtx_saved, State.image]

end

section
variable {s : State} {c n : Nat}

/-- Of the device a change of a context changes the cores alone. -/
theorem updCtx_device (f : Ctx → Ctx) : { s.updCtx c n f with cores := s.cores } = s := by
  obtain ⟨k, ⟨eq, -⟩ | eq⟩ := updCtx_eq (s := s) (c := c) (n := n) f <;> rw [eq]
  rfl

theorem updCtx_packets (f : Ctx → Ctx) : (s.updCtx c n f).packets = s.packets := (congrArg State.packets (updCtx_device f) :)

theorem updCtx_die (f : Ctx → Ctx) (d : Nat) : (s.updCtx c n f).die d = s.die d := (congrArg (State.die · d) (updCtx_device f) :)

theorem updCtx_now (f : Ctx → Ctx) : (s.updCtx c n f).now = s.now := (congrArg State.now (updCtx_device f) :)

theorem updCtx_seq (f : Ctx → Ctx) : (s.updCtx c n f).seq = s.seq := (congrArg State.seq (updCtx_device f) :)

end

section
variable {s : State} {c n : Nat} {p : Packet} {x y : Ctx} (at_ : s.ctxOf c p.launch = some x) (same : standing y = standing x)
include at_ same

/-- A packet that changes its target's context is answered as if it had not. -/
theorem answer_updCtx_to (reaches : AnswerReaches s p) (a : PacketState) :
    let t := (s.updCtx c p.launch fun _ => y).answer n p a
    t.packets = s.packets.set n { p with state := a, sent := s.now, seq := s.seq } ∧ SameMemory s t ∧ t.ctxOf c p.launch = some y := by
  intro t
  have still : AnswerReaches (s.updCtx c p.launch fun _ => y) p := by
    obtain ⟨core, image, lost, inc⟩ := reaches
    exact ⟨core, (isSome_image_updCtx_to at_ same _).trans image, lost, inc.trans (congrArg Die.inc (updCtx_die _ _)).symm⟩
  have eq := answer_of_reaches (n := n) a still
  refine ⟨?_, sameMemory_of_byteAt ((answer_byteAt a still).trans (byteAt_updCtx _)), ?_⟩
  · rw [show t.packets = _ from congrArg State.packets eq]
    simp only [updCtx_packets, updCtx_now, updCtx_seq]
  · rw [show t = _ from eq]
    exact (ctxOf_of_core rfl _).trans (ctxOf_updCtx_to at_ same)

end

/-! ## Arrivals (R119, R120, R123) -/

/-- The state is the one that a packet has met, as far as its answer depends on it. -/
def AnswersAs (s u : State) (p : Packet) : Prop :=
  u.packets = s.packets ∧ (∀ d, u.die d = s.die d) ∧ (u.image p.core p.launch).isSome = (s.image p.core p.launch).isSome

section
variable {s : State} {c n : Nat} {p : Packet} {x y : Ctx}

theorem answersAs_refl : AnswersAs s s p := ⟨rfl, fun _ => rfl, rfl⟩

theorem answersAs_updCtx (at_ : s.ctxOf c p.launch = some x) (same : standing y = standing x) :
    AnswersAs s (s.updCtx c p.launch fun _ => y) p :=
  ⟨updCtx_packets _, updCtx_die _, isSome_image_updCtx_to at_ same _⟩

/-- An answer that does not reach its sender is counted (R315, R334). -/
theorem answer_stale {u : State} (as : AnswersAs s u p) (core : p.core < 2048) (stale : ¬AnswerReaches s p) (a : PacketState) :
    let t := u.answer n p a
    t.packets = s.packets.eraseIdx n ∧ (t.die (dieOf p.core)).stale.toNat = min (2 ^ 24 - 1) ((s.die (dieOf p.core)).stale.toNat + 1) := by
  intro t
  obtain ⟨packets, die, image⟩ := as
  have still : ¬AnswerReaches u p := by rwa [AnswerReaches, image, die]
  rw [show t = _ from answer_of_not_reaches a core still, staleAnswer_stale, ← die]
  exact ⟨congrArg (List.eraseIdx · n) packets, rfl⟩

end

section
variable {s : State} {c n : Nat} {p : Packet} {x y : Ctx}

section
variable (arrives : s.arriving false c = some (n, p))
include arrives

theorem exec_remoteWriteArrival_cut (cut : s.cutOff (dieOf p.core) (dieOf c) = true) :
    exec (.remoteWriteArrival c) s = .next (s.answer n p .error) := by
  show execRemoteWriteArrival c s = _
  simp only [execRemoteWriteArrival, arrives, cut, if_true]

variable (near : s.cutOff (dieOf p.core) (dieOf c) = false)
include near

theorem exec_remoteWriteArrival_absent (absent : s.ctxOf c p.launch = none) :
    exec (.remoteWriteArrival c) s = .next (s.answer n p .refused) := by
  show execRemoteWriteArrival c s = _
  simp only [execRemoteWriteArrival, arrives, near, absent, Bool.false_eq_true, if_false]

variable (resident : s.ctxOf c p.launch = some x)
include resident

theorem exec_remoteWriteArrival_dead (dead : (x.thread (thrOf p.tthr)).live = false) :
    exec (.remoteWriteArrival c) s = .next (s.answer n p .error) := by
  show execRemoteWriteArrival c s = _
  simp only [execRemoteWriteArrival, arrives, near, resident, dead, Bool.not_false, Bool.false_eq_true, if_false, if_true]

variable (live : (x.thread (thrOf p.tthr)).live = true)
include live

theorem exec_remoteWriteArrival_received (received : x.receive (thrOf p.tthr) p.idx p.val = some y) :
    exec (.remoteWriteArrival c) s = .next ((s.updCtx c p.launch fun _ => y).answer n p .accepted) := by
  show execRemoteWriteArrival c s = _
  simp only [execRemoteWriteArrival, arrives, near, resident, live, received, Bool.not_true, Bool.false_eq_true, if_false]

theorem exec_remoteWriteArrival_refused (refused : x.receive (thrOf p.tthr) p.idx p.val = none) :
    exec (.remoteWriteArrival c) s = .next (s.answer n p .refused) := by
  show execRemoteWriteArrival c s = _
  simp only [execRemoteWriteArrival, arrives, near, resident, live, refused, Bool.not_true, Bool.false_eq_true, if_false]

omit near resident live

theorem remoteWriteArrival_answers : ∃ u a, exec (.remoteWriteArrival c) s = .next (u.answer n p a) ∧ AnswersAs s u p := by
  cases near : s.cutOff (dieOf p.core) (dieOf c) with
  | true => exact ⟨s, _, exec_remoteWriteArrival_cut arrives near, answersAs_refl⟩
  | false =>
    cases resident : s.ctxOf c p.launch with
    | none => exact ⟨s, _, exec_remoteWriteArrival_absent arrives near resident, answersAs_refl⟩
    | some x =>
      cases live : (x.thread (thrOf p.tthr)).live with
      | false => exact ⟨s, _, exec_remoteWriteArrival_dead arrives near resident live, answersAs_refl⟩
      | true =>
        cases received : x.receive (thrOf p.tthr) p.idx p.val with
        | none => exact ⟨s, _, exec_remoteWriteArrival_refused arrives near resident live received, answersAs_refl⟩
        | some y =>
          exact ⟨_, _, exec_remoteWriteArrival_received arrives near resident live received,
            answersAs_updCtx resident (standing_receive _ received)⟩

end

/-- The context with a message come (R123). -/
def withMessage (x : Ctx) (v : W64) : Ctx := { x with msgq := x.msgq ++ [v], wakes := x.wakes + 1 }

section
variable (arrives : s.arriving true c = some (n, p))
include arrives

theorem exec_messageArrival_cut (cut : s.cutOff (dieOf p.core) (dieOf c) = true) :
    exec (.messageArrival c) s = .next (s.answer n p .error) := by
  show execMessageArrival c s = _
  simp only [execMessageArrival, arrives, cut, if_true]

variable (near : s.cutOff (dieOf p.core) (dieOf c) = false)
include near

theorem exec_messageArrival_mailbox (management : c = mailbox) : exec (.messageArrival c) s =
    .next (({ s with requests := s.requests ++ [⟨false, p.core, p.launch, p.ctxid, p.val, none, false, 0⟩] } : State).answer n p .accepted) := by
  show execMessageArrival c s = _
  simp only [execMessageArrival, arrives, near, if_pos management, Bool.false_eq_true, if_false]

variable (core : c ≠ mailbox)
include core

theorem exec_messageArrival_absent (absent : s.ctxOf c p.launch = none) :
    exec (.messageArrival c) s = .next (s.answer n p .refused) := by
  show execMessageArrival c s = _
  simp only [execMessageArrival, arrives, near, if_neg core, absent, Bool.false_eq_true, if_false]

variable (resident : s.ctxOf c p.launch = some x)
include resident

theorem exec_messageArrival_ended (ended : x.ended = true) : exec (.messageArrival c) s = .next (s.answer n p .error) := by
  show execMessageArrival c s = _
  simp only [execMessageArrival, arrives, near, if_neg core, resident, ended, Bool.false_eq_true, if_false, if_true]

variable (lives : x.ended = false)
include lives

theorem exec_messageArrival_queued (room : x.msgq.length < 16) : exec (.messageArrival c) s =
    .next ((s.updCtx c p.launch fun _ => withMessage x p.val).answer n p .accepted) := by
  show execMessageArrival c s = _
  rw [← updCtx_congr resident (f := fun x => { x with msgq := x.msgq ++ [p.val], wakes := x.wakes + 1 }) rfl]
  simp only [execMessageArrival, arrives, near, if_neg core, resident, lives, if_pos room, Bool.false_eq_true, if_false]

theorem exec_messageArrival_refused (full : 16 ≤ x.msgq.length) : exec (.messageArrival c) s = .next (s.answer n p .refused) := by
  show execMessageArrival c s = _
  simp only [execMessageArrival, arrives, near, if_neg core, resident, lives, if_neg (Nat.not_lt.mpr full), Bool.false_eq_true, if_false]

omit near core resident lives

theorem messageArrival_answers : ∃ u a, exec (.messageArrival c) s = .next (u.answer n p a) ∧ AnswersAs s u p := by
  cases near : s.cutOff (dieOf p.core) (dieOf c) with
  | true => exact ⟨s, _, exec_messageArrival_cut arrives near, answersAs_refl⟩
  | false =>
    by_cases core : c = mailbox
    · exact ⟨_, _, exec_messageArrival_mailbox arrives near core, rfl, fun _ => rfl, rfl⟩
    cases resident : s.ctxOf c p.launch with
    | none => exact ⟨s, _, exec_messageArrival_absent arrives near core resident, answersAs_refl⟩
    | some x =>
      cases lives : x.ended with
      | true => exact ⟨s, _, exec_messageArrival_ended arrives near core resident lives, answersAs_refl⟩
      | false =>
        by_cases room : x.msgq.length < 16
        · exact ⟨_, _, exec_messageArrival_queued arrives near core resident lives room, answersAs_updCtx resident rfl⟩
        · exact ⟨s, _, exec_messageArrival_refused arrives near core resident lives (Nat.not_lt.mp room), answersAs_refl⟩

end

end

/-! ## The answer reaches the sender (R120, R123, R306, R313) -/

/-- What brings a packet's answer back. -/
noncomputable def answerEvent (m : Bool) (p : Packet) (c k : Nat) : Instr :=
  if m then .msgRetry c k else if p.state = .refused then .rsetRetry c k else .rsetAcceptance c k

/-- The state in which a packet's error raises cause 10 at its sender. -/
def answeredError (s : State) (c k n : Nat) (p : Packet) : State :=
  trapOn c k 10 ((BitVec.ofNat 12 p.target ++ p.w0).setWidth 64) { s with packets := s.packets.eraseIdx n }

section
variable {s : State} {m : Bool} {c k n : Nat} {p : Packet} (own : s.packetOf m c k = some (n, p))
include own

theorem exec_answerEvent : exec (answerEvent m p c k) s = if p.state = .refused then packetRetry m c k s else packetAnswer m c k s := by
  cases m with
  | true =>
    show execMsgRetry c k s = _
    simp only [execMsgRetry, own]
  | false =>
    by_cases refused : p.state = .refused
    · rw [answerEvent, if_neg Bool.false_ne_true, if_pos refused, if_pos refused]
      rfl
    · rw [answerEvent, if_neg Bool.false_ne_true, if_neg refused, if_neg refused]
      rfl

theorem exec_answerEvent_error (failed : s.cutOff (dieOf p.target) (dieOf c) = true ∧ (p.state = .accepted ∨ p.state = .refused) ∨
    p.state = .error ∧ (s.cutOff (dieOf p.target) (dieOf c) = true ∨ s.answerHeld p = false)) :
    exec (answerEvent m p c k) s = .next (answeredError s c k n p) := by
  rw [exec_answerEvent own]
  rcases failed with ⟨cut, accepted | refused⟩ | ⟨error, cut | free⟩
  · rw [if_neg (by rw [accepted]; nofun)]
    simp only [packetAnswer, own, accepted, cut, if_true]
    rfl
  · rw [if_pos refused]
    simp only [packetRetry, own, refused, cut, if_true]
    rfl
  · rw [if_neg (by rw [error]; nofun)]
    simp only [packetAnswer, own, error, cut, if_true]
    rfl
  · rw [if_neg (by rw [error]; nofun)]
    simp only [packetAnswer, own, error, free, Bool.false_eq_true, reduceCtorEq, if_false, ite_self]
    rfl

variable (near : s.cutOff (dieOf p.target) (dieOf c) = false)
include near

theorem exec_answerEvent_held (held : s.answerHeld p = true) : exec (answerEvent m p c k) s = .next s := by
  rw [exec_answerEvent own]
  split
  case isTrue refused => simp only [packetRetry, own, refused, near, held, Bool.false_eq_true, if_false, if_true]
  case isFalse other =>
    cases state : p.state with
    | refused => exact absurd state other
    | _ => simp only [packetAnswer, own, state, near, held, Bool.false_eq_true, if_false, if_true]

variable (free : s.answerHeld p = false)
include free

theorem exec_answerEvent_accepted (accepted : p.state = .accepted) :
    exec (answerEvent m p c k) s = .next (({ s with packets := s.packets.eraseIdx n } : State).finish c k) := by
  rw [exec_answerEvent own, if_neg (by rw [accepted]; nofun)]
  simp only [packetAnswer, own, accepted, near, free, Bool.false_eq_true, if_false, if_true]

theorem exec_answerEvent_refused (refused : p.state = .refused) : exec (answerEvent m p c k) s = .next
    { s with seq := s.seq + 1, packets := s.packets.eraseIdx n ++ [{ p with state := .flying, sent := s.now, seq := s.seq }] } := by
  rw [exec_answerEvent own, if_pos refused]
  simp only [packetRetry, own, refused, near, free, Bool.false_eq_true, if_false]

end

/-- An acceptance completes the sender's instruction. -/
theorem finish_answered {s : State} {c n : Nat} {k : Fin 11} {st : Stall} (stall : ((s.core c).run.thread k).stall = some st) :
    let t := ({ s with packets := s.packets.eraseIdx n } : State).finish c k.val
    (t.core c).run.thread k = ((s.core c).run.thread k).past st.len ∧ t.packets = s.packets.eraseIdx n ∧ SameMemory s t := by
  intro t
  have eq := finish_of_stall (s := { s with packets := s.packets.eraseIdx n }) stall
  refine ⟨?_, congrArg State.packets eq, sameMemory_of_byteAt ?_⟩
  · rw [show t = _ from eq, core_setCore_same, thread_setThread_same]
    rfl
  · rw [show t = _ from eq, byteAt_setCore { s with packets := s.packets.eraseIdx n } (by rfl)]
    exact byteAt_ext (fun _ => rfl) (fun _ => rfl) rfl rfl

theorem answerAhead_eq_false {s : State} {d c n : Nat} : s.answerAhead d c n = false ↔
    ∀ q ∈ s.packets, q.target = d → q.core = c → q.state ≠ .flying → (s.core c).run.of q.launch = true → n ≤ q.seq := by
  simp [State.answerAhead, List.any_eq_false]

theorem answerHeld_eq_false {s : State} {p : Packet} : s.answerHeld p = false ↔ s.routeHeld (dieOf p.target) (dieOf p.core) = false ∧
    (clusterOf p.target = clusterOf p.core ∨ (∀ l ∈ s.locals, l.from_ = p.target → l.core = p.core → p.seq ≤ l.seq) ∧
      ∀ q ∈ s.packets, q.target = p.target → q.core = p.core → q.state ≠ .flying → (s.core p.core).run.of q.launch = true → p.seq ≤ q.seq) := by
  have locals : (s.locals.any fun l => l.from_ == p.target && l.core == p.core && decide (l.seq < p.seq)) = false ↔
      ∀ l ∈ s.locals, l.from_ = p.target → l.core = p.core → p.seq ≤ l.seq := by
    simp [List.any_eq_false]
  rw [State.answerHeld, Bool.or_eq_false_iff, Bool.and_eq_false_iff, Bool.or_eq_false_iff, bne_eq_false_iff_eq, locals, answerAhead_eq_false]

/-! ## Presence bits (R121) -/

/-- The thread with a register's presence bit cleared. -/
def cleared (t : Thread) (r : SReg) : Thread := { t with present := t.present &&& ~~~BitVec.twoPow 32 r.toNat }

section
variable (t : Thread) {r : SReg} (v : W64)

theorem has_cleared (ne : r ≠ 0) : (cleared t r).has r = false := by
  rw [has_of_ne_zero _ ne]
  simp [cleared]

theorem regUpdate_cleared : RegUpdate r t (cleared t r) := by
  refine ⟨fun q other => ⟨rfl, ?_⟩, rfl⟩
  rw [Thread.has, Thread.has, cleared, BitVec.getLsbD_and, BitVec.getLsbD_not, getLsbD_twoPow_other other]
  simp [show q.toNat < 32 from q.isLt]

theorem regUpdate_setReg_cleared : RegUpdate r t ((cleared t r).setReg r v) := by
  obtain ⟨regs, rest⟩ := regUpdate_setReg r (cleared t r) v
  obtain ⟨before, -⟩ := regUpdate_cleared t (r := r)
  exact ⟨fun q other => ⟨(regs q other).1.trans (before q other).1, (regs q other).2.trans (before q other).2⟩,
    (congrArg (fun x : Thread => { x with present := t.present }) rest :)⟩

end

section
variable {x : Ctx} {n : Fin 11} {r : SReg}

theorem pclr_of_none (none : ∀ e ∈ x.inbox, ¬(e.thr = n.val ∧ e.idx = r)) : x.pclr n r = x.setThread n (cleared (x.thread n) r) := by
  have nowhere : (x.inbox.findIdx? fun e => e.thr == n.val && e.idx == r) = .none := by
    rw [List.findIdx?_eq_none_iff]
    simpa using none
  simp only [Ctx.pclr, nowhere]
  rfl

theorem pclr_of_oldest {l l' : List InboxEntry} {v : W64} (inbox : x.inbox = l ++ ⟨n.val, r, v⟩ :: l')
    (oldest : ∀ e ∈ l, ¬(e.thr = n.val ∧ e.idx = r)) :
    x.pclr n r = ({ x with inbox := l ++ l' } : Ctx).setThread n ((cleared (x.thread n) r).setReg r v) := by
  have first : (x.inbox.findIdx? fun e => e.thr == n.val && e.idx == r) = some l.length := by
    have before : (l.findIdx? fun e => e.thr == n.val && e.idx == r) = none := by
      rw [List.findIdx?_eq_none_iff]
      simpa using oldest
    rw [inbox, List.findIdx?_append, before, List.findIdx?_cons]
    simp
  have entry : x.inbox[l.length]? = some ⟨n.val, r, v⟩ := by rw [inbox]; simp
  have rest : x.inbox.eraseIdx l.length = l ++ l' := by rw [inbox]; simp [List.eraseIdx_append_of_length_le]
  simp only [Ctx.pclr, first, entry, rest]
  rfl

end

section
variable {s : State} {r : SReg} (ne : r ≠ 0)
include ne

theorem exec_pclr (free : s.th.pending.getLsbD r.toNat = false) : exec (.pclr r) s = .next ((s.setCtx (s.ctx.pclr s.thr r)).past 4) :=
  (show exec (.pclr r) s = execPclr r s from rfl).trans ((if_neg ne).trans (if_neg (ne_true_of_eq_false free)))

theorem exec_pclr_waits (busy : s.th.pending.getLsbD r.toNat = true) : exec (.pclr r) s = .next { s with waiting := true } :=
  (show exec (.pclr r) s = execPclr r s from rfl).trans ((if_neg ne).trans (if_pos busy))

theorem exec_pset (free : s.th.pending.getLsbD r.toNat = false) :
    exec (.pset r) s = .next (s.setTh ({ s.th with present := s.th.present ||| BitVec.twoPow 32 r.toNat }.past 4)) :=
  (show exec (.pset r) s = execPset r s from rfl).trans ((if_neg ne).trans (if_neg (ne_true_of_eq_false free)))

theorem exec_pset_waits (busy : s.th.pending.getLsbD r.toNat = true) : exec (.pset r) s = .next { s with waiting := true } :=
  (show exec (.pset r) s = execPset r s from rfl).trans ((if_neg ne).trans (if_pos busy))

variable (free : s.th.pending.getLsbD r.toNat = false)
include free

/-- PCLR with no entry of the inbox for the register. -/
theorem exec_pclr_clears (none : ∀ e ∈ s.ctx.inbox, ¬(e.thr = s.thr.val ∧ e.idx = r)) : ∃ t, exec (.pclr r) s = .next t ∧
    t.th.has r = false ∧ t.ctx.inbox = s.ctx.inbox ∧ OnlyRegs [r] s t ∧ OnlyThread s t := by
  have eq : (s.setCtx (s.ctx.pclr s.thr r)).past 4 = s.setTh ((cleared s.th r).past 4) := by
    rw [pclr_of_none none, State.past]
    exact (congrArg (fun h : Thread => (s.setTh (cleared s.th r)).setTh (h.past 4)) (th_setTh ..)).trans (setTh_setTh ..)
  obtain ⟨thread, regs, -⟩ := regFrame_setTh (s := s) ((regUpdate_cleared s.th (r := r)).past 4)
  refine ⟨_, (exec_pclr ne free).trans (congrArg _ eq), ?_, ?_, regs, thread⟩
  · rw [th_setTh]
    exact has_cleared s.th ne
  · rw [ctx_setTh]
    rfl

/-- PCLR with the oldest entry of the inbox for the register. -/
theorem exec_pclr_applies {l l' : List InboxEntry} {v : W64} (inbox : s.ctx.inbox = l ++ ⟨s.thr.val, r, v⟩ :: l')
    (oldest : ∀ e ∈ l, ¬(e.thr = s.thr.val ∧ e.idx = r)) : ∃ t, exec (.pclr r) s = .next t ∧ t.th.has r = true ∧
      t.reg r = v ∧ t.ctx.inbox = l ++ l' ∧ OnlyRegs [r] s t ∧ SameMemory s t := by
  have eq := congrArg s.setCtx (pclr_of_oldest inbox oldest)
  have th : (s.setCtx (s.ctx.pclr s.thr r)).th = (cleared s.th r).setReg r v := by
    rw [eq, th_setCtx, thread_setThread_same]
    rfl
  have after : ((s.setCtx (s.ctx.pclr s.thr r)).past 4).th = ((cleared s.th r).setReg r v).past 4 := by rw [State.past, th_setTh, th]
  refine ⟨_, exec_pclr ne free, ?_, ?_, ?_, onlyRegs_of_th ?_, sameMemory_of_byteAt ?_⟩
  · rw [after]
    exact has_setReg_same ..
  · rw [State.reg, after]
    exact reg_setReg_same _ v ne
  · rw [State.past, ctx_setTh, ctx_setCtx, pclr_of_oldest inbox oldest]
    rfl
  · rw [after]
    exact (regUpdate_setReg_cleared s.th v).past 4
  · rw [State.past, byteAt_setTh, byteAt_setCtx]

end

theorem exec_ptst {s : State} {r rd : SReg} (has : s.has [rd] = true) :
    GivesNow (.ptst rd r) s 4 rd (if r = 0 ∨ s.th.present.getLsbD r.toNat = true then 1 else 0) := by
  have present : s.th.has r = true ↔ r = 0 ∨ s.th.present.getLsbD r.toNat = true := by
    rw [Thread.has, Bool.or_eq_true, beq_iff_eq]
  refine ((show exec (.ptst rd r) s = execPtst rd r s from rfl).trans (ready_of_has has _)).trans ?_
  simp only [present]
  rfl

/-! ## The obligation -/

/-- Settles O14: the instructions by the lemma of each, an arrival by the state that its answer is given in, an answer by its state. -/
theorem remoteWritesAndMessages : Obligations.RemoteWritesAndMessages := by
  unfold Obligations.RemoteWritesAndMessages
  refine ⟨?_, fun s r rd => ⟨⟨rfl, rfl⟩, exec_ptst, fun ne free => ⟨exec_pset ne free, exec_pclr_clears ne free,
    fun l l' v inbox oldest => exec_pclr_applies ne free inbox oldest⟩, fun ne busy => ⟨exec_pclr_waits ne busy, exec_pset_waits ne busy⟩⟩⟩
  extract_lets target value good sends rsets msgs answered comes
  refine ⟨fun s r ra rb lit => ?sends, fun s rd has phase => ⟨fun v rest => exec_msgrd_takes has phase, exec_msgrd_waits has phase⟩,
    fun s m c n p arrives => ?arrives, fun s c n p x arrives reaches near resident => ?write,
    fun s c n p x arrives core reaches near resident => ?message, fun s c k n p st stall => ?accepted, fun s c k n p m own => ?back,
    fun s p => answerHeld_eq_false, fun s c k n p refused near free => ?again⟩
  case sends =>
    have rsetAs {i : Instr} {len : Nat} {need : List SReg} {b : State → W64} (form : exec i s = rset i len need r ra b s)
        (has : s.has need = true) : rsets i s len (s.reg ra) r (b s) :=
      ⟨exec_rset_compute form has, fun phase fresh => ⟨fun whole thread ⟨near, inside, route⟩ =>
        exec_rset_sends form has phase fresh whole thread near inside route, exec_rset_traps form has phase fresh⟩⟩
    have msgAs {i : Instr} {len : Nat} {need : List SReg} {b : State → W64} (form : exec i s = msg i len need ra b s)
        (has : s.has need = true) : msgs i s len (s.reg ra) (b s) := fun phase fresh =>
      ⟨fun whole ⟨near, inside, route⟩ lives => exec_msg_sends form has phase fresh (.inl ⟨whole, near, inside, route, lives⟩),
        fun management mode => exec_msg_sends form has phase fresh (.inr ⟨management, mode⟩), exec_msg_traps form has phase fresh⟩
    exact ⟨fun has => ⟨rsetAs (b := (·.reg rb)) rfl has, msgAs (b := (·.reg rb)) rfl has⟩,
      fun has => ⟨rsetAs (b := fun _ => lit) rfl has, msgAs (b := fun _ => lit) rfl has⟩⟩
  case arrives =>
    obtain ⟨present, rfl, flies, order⟩ := arriving_spec arrives
    obtain ⟨nacked, path, first, port⟩ := inOrder_spec order
    obtain ⟨route, up, open_⟩ := pathHeld_eq_false path
    refine ⟨present, flies, nacked, route, up, open_, first, port, fun cut reaches => ?_, fun core stale => ?_⟩
    · rw [← answer_of_reaches .error reaches]
      cases m with
      | true => exact exec_messageArrival_cut arrives cut
      | false => exact exec_remoteWriteArrival_cut arrives cut
    · cases m with
      | true =>
        obtain ⟨u, a, eq, as⟩ := messageArrival_answers arrives
        exact ⟨_, eq, answer_stale as core stale a⟩
      | false =>
        obtain ⟨u, a, eq, as⟩ := remoteWriteArrival_answers arrives
        exact ⟨_, eq, answer_stale as core stale a⟩
  case write =>
    intro h ends
    refine ⟨fun dead => ⟨_, ⟨exec_remoteWriteArrival_dead arrives near resident dead, (answer_kept _ reaches).1⟩, (answer_kept _ reaches).2⟩,
      fun live ne => ?_⟩
    intro free
    have received {y : Ctx} (rule : x.receive (thrOf p.tthr) p.idx p.val = some y) : ∃ t, ends .accepted t ∧ t.ctxOf c p.launch = some y := by
      obtain ⟨packets, memory, ctx⟩ := answer_updCtx_to (n := n) resident (standing_receive _ rule) reaches .accepted
      exact ⟨_, ⟨exec_remoteWriteArrival_received arrives near resident live rule, packets, memory⟩, ctx⟩
    refine ⟨fun now => ?_, fun busy room => ?_, fun busy full => ?_⟩
    · obtain ⟨t, answer, ctx⟩ := received (receive_now p.val ne now)
      have thread : ({ x.setThread (thrOf p.tthr) (h.setReg p.idx p.val) with wakes := x.wakes + 1 } : Ctx).thread (thrOf p.tthr) =
          h.setReg p.idx p.val := thread_setThread_same ..
      refine ⟨t, _, answer, ctx, ?_, ?_, rfl⟩
      · rw [thread]
        exact reg_setReg_same h p.val ne
      · rw [thread]
        exact has_setReg_same ..
    · obtain ⟨t, answer, ctx⟩ := received (receive_queued p.val ne busy room)
      exact ⟨t, _, answer, ctx, rfl, rfl⟩
    · have rule := receive_refused p.val ne busy full
      exact ⟨_, ⟨exec_remoteWriteArrival_refused arrives near resident live rule, (answer_kept _ reaches).1⟩, (answer_kept _ reaches).2⟩
  case message =>
    intro ends
    refine ⟨fun ended => ⟨_, exec_messageArrival_ended arrives near core resident ended, (answer_kept _ reaches).1⟩,
      fun lives room => ?_, fun lives full => ⟨_, ⟨exec_messageArrival_refused arrives near core resident lives full,
        (answer_kept _ reaches).1⟩, (answer_kept _ reaches).2⟩⟩
    obtain ⟨packets, memory, ctx⟩ := answer_updCtx_to (n := n) (y := withMessage x p.val) resident rfl reaches .accepted
    exact ⟨_, _, ⟨exec_messageArrival_queued arrives near core resident lives room, packets, memory⟩, ctx, rfl⟩
  case accepted =>
    intro past accepted near free
    exact ⟨fun own => ⟨_, by simpa [answerEvent, accepted] using exec_answerEvent_accepted own near free accepted, finish_answered stall⟩,
      fun own => ⟨_, exec_answerEvent_accepted own near free accepted, finish_answered stall⟩⟩
  case back =>
    exact ⟨exec_answerEvent_error own, fun near held => exec_answerEvent_held own (Bool.eq_false_of_not_eq_true near) held⟩
  case again =>
    exact ⟨fun own => by simpa [answerEvent, refused] using exec_answerEvent_refused own near free refused,
      fun own => exec_answerEvent_refused own near free refused⟩

end Sys2Proof.Laws

/-!
Streams (R122): the port of a core, its line, its entries on their way and its FIFO, and obligation O15.
-/

namespace Sys2Proof.Laws

open Sys2Proof Sys2Proof.Machine

/-! ## A port replaced -/

/-- The state with the port of a core replaced. -/
def withPort (s : State) (c : Nat) (p : Port) : State := s.setCore c { s.core c with port := p }

section
variable (s : State) (c : Nat) (p : Port)

theorem withPort_th : (withPort s c p).th = s.th := th_setCore rfl

theorem withPort_byteAt : (withPort s c p).byteAt = s.byteAt := byteAt_setCore s (k := { s.core c with port := p }) (by rfl)

theorem withPort_port : ((withPort s c p).core c).port = p := congrArg Core.port (core_setCore_same s c { s.core c with port := p })

theorem withPort_ctxOf (d n : Nat) : (withPort s c p).ctxOf d n = s.ctxOf d n := by
  have run : ((withPort s c p).core d).run = (s.core d).run := core_setCore_keeps s (g := Core.run) (by rfl) d
  have shadow : ((withPort s c p).core d).shadow = (s.core d).shadow := core_setCore_keeps s (g := Core.shadow) (by rfl) d
  simp only [State.ctxOf, run, shadow]

/-- The issuing thread goes on after a change of a port. -/
theorem withPort_setTh (h : Thread) : ((withPort s c p).setTh h).th = h ∧ SameMemory s ((withPort s c p).setTh h) ∧
    (((withPort s c p).setTh h).core c).port = p := by
  refine ⟨th_setTh .., sameMemory_of_byteAt ?_, ?_⟩
  · rw [byteAt_setTh, withPort_byteAt]
  · rw [core_setTh_keeps (g := Core.port) fun _ _ => rfl]
    exact withPort_port s c p

end

/-- What of a core its contexts have no part in, a change of one of them keeps. -/
theorem core_updCtx_keeps {α : Type} {g : Core → α} (run : ∀ k x, g { k with run := x } = g k) (shadow : ∀ k x, g { k with shadow := x } = g k)
    (s : State) (c n d : Nat) (f : Ctx → Ctx) : g ((s.updCtx c n f).core d) = g (s.core d) := by
  cases running : (s.core c).run.of n with
  | true => rw [updCtx_of_run f running, core_setCore_keeps s (run ..)]
  | false =>
    cases shadowed : (s.core c).shadow.of n with
    | true => rw [updCtx_of_shadow f running shadowed, core_setCore_keeps s (shadow ..)]
    | false => rw [updCtx_of_neither f running shadowed]

/-! ## SOPEN (R122) -/

theorem targetCore_eq {a : W64} (small : a.toNat < 4096) : targetCore a = a.toNat := by
  rw [targetCore, BitVec.extractLsb'_toNat]
  exact Nat.mod_eq_of_lt (by simpa using small)

section
variable {s : State} {ra : SReg} (has : s.has [ra] = true)
include has

theorem exec_sopen_open (open_ : s.th.stream ≠ none) : exec (.sopen ra) s = .next (trapEntry 11 (w0x (.sopen ra)) s) :=
  ((show exec (.sopen ra) s = execSopen ra s from rfl).trans (ready_of_has has _)).trans (if_pos (Option.isSome_iff_ne_none.mpr open_))

theorem exec_sopen (closed : s.th.stream = none) (phase : s.ctx.phase = .exchange) (fresh : s.th.stall = none)
    (small : (s.reg ra).toNat < 4096) : let c := (s.reg ra).toNat
    dieOf c = dieOf s.focus → s.inSpread s.ctx.launch c = true → s.hasEnded c s.ctx.launch = false → exec (.sopen ra) s =
      .next ((withPort s c { (s.core c).port with line := (s.core c).port.line ++ [(s.focus, s.thr.val, s.ctx.launch)] }).stall 4 0 .port) := by
  intro c die inside lives
  have fine : ¬((s.reg ra).extractLsb' 12 52 ≠ 0 ∨ dieOf c ≠ dieOf s.focus ∨ !s.inSpread s.ctx.launch c ∨ s.hasEnded c s.ctx.launch) := by
    rw [ne_eq, above_core_eq_zero_iff, die, inside, lives]
    simp [small]
  refine ((show exec (.sopen ra) s = execSopen ra s from rfl).trans (ready_of_has has _)).trans ?_
  dsimp only
  rw [closed, targetCore_eq small]
  refine (if_neg (by nofun)).trans ((exchangeOnly_exchange _ phase).trans ?_)
  rw [fresh]
  exact if_neg fine

theorem exec_sopen_lines_up (closed : s.th.stream = none) (phase : s.ctx.phase = .exchange) (fresh : s.th.stall = none)
    (small : (s.reg ra).toNat < 4096) : let c := (s.reg ra).toNat
    dieOf c = dieOf s.focus → s.inSpread s.ctx.launch c = true → s.hasEnded c s.ctx.launch = false →
      ∃ t, exec (.sopen ra) s = .next t ∧ t.th = { s.th with stall := some ⟨4, 0, .port⟩ } ∧ SameMemory s t ∧
        (t.core c).port.line = (s.core c).port.line ++ [(s.focus, s.thr.val, s.ctx.launch)] := by
  intro c die inside lives
  obtain ⟨th, memory, port⟩ := withPort_setTh s c
    { (s.core c).port with line := (s.core c).port.line ++ [(s.focus, s.thr.val, s.ctx.launch)] } { s.th with stall := some ⟨4, 0, .port⟩ }
  refine ⟨_, (exec_sopen has closed phase fresh small die inside lives).trans ?_, th, memory, congrArg Port.line port⟩
  rw [State.stall, withPort_th]

end

/-! ## STREAM_PORT_GRANT (R122, R334) -/

section
variable {s : State} {c : Nat}

theorem exec_streamPortGrant_fenced (fenced : s.fenced c = true) : exec (.streamPortGrant c) s = .next s :=
  (show exec (.streamPortGrant c) s = execStreamPortGrant c s from rfl).trans (if_pos fenced)

/-- The context with a thread's SOPEN completed on a core's port. -/
def withStream (c : Nat) (n : Fin 11) (x : Ctx) : Ctx := x.setThread n ({ x.thread n with stream := some ⟨c, 0⟩ }.past 4)

theorem withStream_thread (n : Fin 11) (x : Ctx) : (withStream c n x).thread n = { x.thread n with stream := some ⟨c, 0⟩ }.past 4 :=
  thread_setThread_same ..

theorem standing_withStream (n : Fin 11) (x : Ctx) : standing (withStream c n x) = standing x := rfl

theorem exec_streamPortGrant {d l : Nat} {n : Fin 11} {rest : List (Nat × Nat × Nat)} (free : (s.core c).port.owner = none)
    (line : (s.core c).port.line = (d, n.val, l) :: rest) (open_ : s.fenced c = false) : exec (.streamPortGrant c) s =
    .next ((withPort s c ⟨some (d, n.val, l), [], [], 0, rest, (s.core c).port.takers⟩).updCtx d l (withStream c n)) := by
  show execStreamPortGrant c s = _
  simp only [execStreamPortGrant, open_, free, line, thrOf_val, Bool.false_eq_true, if_false]
  rfl

theorem exec_streamPortGrant_grants {d l : Nat} {n : Fin 11} {rest : List (Nat × Nat × Nat)} {x : Ctx}
    (free : (s.core c).port.owner = none) (line : (s.core c).port.line = (d, n.val, l) :: rest) (resident : s.ctxOf d l = some x)
    (open_ : s.fenced c = false) : ∃ t y, exec (.streamPortGrant c) s = .next t ∧ SameMemory s t ∧ t.ctxOf d l = some y ∧
      y.thread n = { x.thread n with stream := some ⟨c, 0⟩ }.past 4 ∧ (t.core c).port.owner = some (d, n.val, l) ∧
      (t.core c).port.line = rest := by
  let given := withPort s c ⟨some (d, n.val, l), [], [], 0, rest, (s.core c).port.takers⟩
  have port : ((given.updCtx d l (withStream c n)).core c).port = ⟨some (d, n.val, l), [], [], 0, rest, (s.core c).port.takers⟩ :=
    (core_updCtx_keeps (g := Core.port) (fun _ _ => rfl) (fun _ _ => rfl) given d l c _).trans (withPort_port ..)
  refine ⟨_, withStream c n x, exec_streamPortGrant free line open_, sameMemory_of_byteAt ?_, ?_, withStream_thread n x,
    congrArg Port.owner port, congrArg Port.line port⟩
  · rw [byteAt_updCtx, withPort_byteAt]
  · exact ctxOf_updCtx_same (f := withStream c n) (standing_withStream n) ((withPort_ctxOf ..).trans resident)

end

/-! ## STREAM_ENTRY_ARRIVAL (R122, R306) -/

section
variable {s : State} {c n : Nat} {e : StreamEntry} {rest : List (Nat × StreamEntry)}

theorem packetAhead_iff : s.packetAhead c n = true ↔
    ∃ p ∈ s.packets, (∃ t l, (s.core c).port.owner = some (p.core, t, l)) ∧ p.target = c ∧ p.state = .flying ∧ p.seq < n := by
  have sender (d : Nat) : ((s.core c).port.owner.any fun (q, _, _) => q == d) = true ↔ ∃ t l, (s.core c).port.owner = some (d, t, l) := by
    cases (s.core c).port.owner with
    | none => simp
    | some o =>
      obtain ⟨q, t, l⟩ := o
      simp
  simp only [State.packetAhead, List.any_eq_true, Bool.and_eq_true, beq_iff_eq, decide_eq_true_eq, sender, and_assoc]

variable (flying : (s.core c).port.flying = (n, e) :: rest)
include flying

theorem exec_streamEntryArrival : exec (.streamEntryArrival c) s =
    .next (if (s.core c).port.fifo.length < 16 && !s.packetAhead c n then
      withPort s c { (s.core c).port with flying := rest, fifo := (s.core c).port.fifo ++ [e] } else s) := by
  show execStreamEntryArrival c s = _
  simp only [execStreamEntryArrival, flying]
  split <;> rfl

theorem exec_streamEntryArrival_behind (ahead : s.packetAhead c n = true) : exec (.streamEntryArrival c) s = .next s := by
  rw [exec_streamEntryArrival flying, ahead]
  simp

theorem exec_streamEntryArrival_enters (first : s.packetAhead c n = false) (room : (s.core c).port.fifo.length < 16) :
    ∃ t, exec (.streamEntryArrival c) s = .next t ∧ SameMemory s t ∧ (t.core c).port.flying = rest ∧
      (t.core c).port.fifo = (s.core c).port.fifo ++ [e] := by
  have port := withPort_port s c { (s.core c).port with flying := rest, fifo := (s.core c).port.fifo ++ [e] }
  refine ⟨_, (exec_streamEntryArrival flying).trans (congrArg _ (if_pos (by rw [first, decide_eq_true room]; rfl))),
    sameMemory_of_byteAt (withPort_byteAt ..), congrArg Port.flying port, congrArg Port.fifo port⟩

end

/-! ## SPUT and SCLOSE (R122) -/

section
variable {i : Instr} {s : State} {len : Nat} {e : State → StreamEntry} {after : OpenStream → Option OpenStream}
  (form : exec i s = streamSend i len e after s)
include form

theorem exec_streamSend_none (closed : s.th.stream = none) : exec i s = .next (trapEntry 11 (w0x i) s) := by
  rw [form, streamSend, closed]
  rfl

variable {o : OpenStream} (open_ : s.th.stream = some o) (phase : s.ctx.phase = .exchange)
include open_ phase

theorem exec_streamSend : exec i s = if (s.core o.target).port.full then stallOn len 0 .retry s
    else .next ((withPort { s with seq := s.seq + 1 } o.target
      { (s.core o.target).port with flying := (s.core o.target).port.flying ++ [(s.seq, e s)] }).setTh
        ({ (withPort { s with seq := s.seq + 1 } o.target
          { (s.core o.target).port with flying := (s.core o.target).port.flying ++ [(s.seq, e s)] }).th with stream := after o }.past len)) := by
  rw [form, streamSend, open_]
  exact exchangeOnly_exchange _ phase

theorem exec_streamSend_sends (room : (s.core o.target).port.flying.length + (s.core o.target).port.fifo.length < 16) :
    ∃ t, exec i s = .next t ∧ SameMemory s t ∧
      (t.core o.target).port.flying = (s.core o.target).port.flying ++ [(s.seq, e s)] ∧ t.seq = s.seq + 1 ∧
      t.th = { s.th with stream := after o }.past len := by
  have free : ¬(s.core o.target).port.full = true := by
    rw [Port.full, decide_eq_true_eq]
    omega
  have th := withPort_th { s with seq := s.seq + 1 } o.target
    { (s.core o.target).port with flying := (s.core o.target).port.flying ++ [(s.seq, e s)] }
  refine ⟨_, (exec_streamSend form open_ phase).trans (if_neg free), sameMemory_of_byteAt ?_, ?_, rfl, ?_⟩
  · rw [byteAt_setTh, withPort_byteAt]
    exact byteAt_ext (fun _ => rfl) (fun _ => rfl) rfl rfl
  · rw [core_setTh_keeps (g := fun k : Core => k.port.flying) fun _ _ => rfl]
    exact congrArg Port.flying (withPort_port ..)
  · rw [th_setTh, th]
    rfl

theorem exec_streamSend_waits (full : 16 ≤ (s.core o.target).port.flying.length + (s.core o.target).port.fifo.length)
    (fresh : s.th.stall = none) : exec i s = .next (s.setTh { s.th with stall := some ⟨len, 0, .retry⟩ }) := by
  rw [exec_streamSend form open_ phase, if_pos (by rwa [Port.full, decide_eq_true_eq]), stallOn_fresh s fresh]

end

/-! ## SGET (R122) -/

/-- Whether the issuing thread is the first of the core's SGETs that wait, or none waits. -/
def firstTaker (s : State) : Bool := s.cur.port.takers.head?.all (· == s.thr.val)

/-- The state in which the issuing thread's SGET stands in line. -/
def takerQueued (s : State) : State :=
  if s.cur.port.takers.contains s.thr.val then s
  else withPort s s.focus { s.cur.port with takers := s.cur.port.takers ++ [s.thr.val] }

section
variable {s : State}

theorem firstTaker_iff : firstTaker s = true ↔ s.cur.port.takers = [] ∨ ∃ l, s.cur.port.takers = s.thr.val :: l := by
  unfold firstTaker
  cases s.cur.port.takers with
  | nil => simp
  | cons u l => simp

theorem not_firstTaker (later : firstTaker s = false) : ∃ u l, s.cur.port.takers = u :: l ∧ (u == s.thr.val) = false := by
  unfold firstTaker at later
  cases takers : s.cur.port.takers with
  | nil => simp [takers] at later
  | cons u l => exact ⟨u, l, rfl, by simpa [takers] using later⟩

theorem takerQueued_th : (takerQueued s).th = s.th := by
  unfold takerQueued
  split
  · rfl
  · exact withPort_th ..

theorem takerQueued_byteAt : (takerQueued s).byteAt = s.byteAt := by
  unfold takerQueued
  split
  · rfl
  · exact withPort_byteAt ..

theorem mem_takerQueued : s.thr.val ∈ (takerQueued s).cur.port.takers := by
  unfold takerQueued
  split
  case isTrue stands => exact List.contains_iff_mem.mp stands
  case isFalse =>
    have port : (withPort s s.focus { s.cur.port with takers := s.cur.port.takers ++ [s.thr.val] }).cur.port = _ := withPort_port ..
    rw [port]
    exact List.mem_append_right _ List.mem_cons_self

end

section
variable {s : State} {rd : SReg} (has : s.has [rd] = true) (phase : s.ctx.phase = .exchange)
include has phase

theorem exec_sget_waits (stays : s.cur.port.fifo = [] ∨ firstTaker s = false) :
    exec (.sget rd) s = stallOn 4 rd .retry (takerQueued s) := by
  refine (((show exec (.sget rd) s = execSget rd s from rfl).trans (ready_of_has has _)).trans (exchangeOnly_exchange _ phase)).trans ?_
  rcases stays with empty | later
  · simp only [takerQueued, withPort, empty]
    split
    case h_1 none => exact nomatch none
    case h_2 none => exact nomatch none
    case h_3 => rfl
  · obtain ⟨u, l, takers, other⟩ := not_firstTaker later
    simp only [takerQueued, withPort, takers, other, Bool.and_false]
    rfl

variable (own : s.ownPort = true) (first : firstTaker s = true)
include own first

theorem exec_sget_data {v : W64} {rest : List StreamEntry} (fifo : s.cur.port.fifo = .data v :: rest) : exec (.sget rd) s =
    result 4 rd v (withPort s s.focus { s.cur.port.served s.thr.val with fifo := rest, taken := s.cur.port.taken + 1 }) := by
  refine (((show exec (.sget rd) s = execSget rd s from rfl).trans (ready_of_has has _)).trans (exchangeOnly_exchange _ phase)).trans ?_
  rcases firstTaker_iff.mp first with empty | ⟨l, head⟩
  · simp only [own, fifo, empty]
    rfl
  · simp only [own, fifo, head, beq_self_eq_true]
    rfl

theorem exec_sget_close {rest : List StreamEntry} (fifo : s.cur.port.fifo = .close :: rest) : exec (.sget rd) s =
    result 4 rd (BitVec.ofNat 64 s.cur.port.taken)
      (withPort s s.focus ⟨none, [], [], 0, s.cur.port.line, (s.cur.port.served s.thr.val).takers⟩) := by
  refine (((show exec (.sget rd) s = execSget rd s from rfl).trans (ready_of_has has _)).trans (exchangeOnly_exchange _ phase)).trans ?_
  rcases firstTaker_iff.mp first with empty | ⟨l, head⟩
  · simp only [own, fifo, empty]
    rfl
  · simp only [own, fifo, head, beq_self_eq_true]
    rfl

end

/-- What SGET takes comes with a change of the port alone. -/
theorem result_withPort (s : State) (len : Nat) (rd : SReg) (v : W64) (p : Port) : ∃ t, result len rd v (withPort s s.focus p) = .next t ∧
    t.th = (s.th.setReg rd v).past len ∧ t.cur.port = p ∧ SameMemory s t := by
  obtain ⟨th, memory, port⟩ := withPort_setTh s s.focus p ((s.th.setReg rd v).past len)
  refine ⟨_, ?_, th, port, memory⟩
  rw [result, withPort_th]

/-! ## The obligation -/

/-- Settles O15: each instruction and each event by what it does to the port that it names. -/
theorem streams : Obligations.Streams := by
  unfold Obligations.Streams
  extract_lets w0 sends
  have sendAs {i : Instr} {s : State} {len : Nat} {e : State → StreamEntry} {after : OpenStream → Option OpenStream} {more : Bool}
      (form : exec i s = streamSend i len e after s)
      (next : ∀ o : OpenStream, after o = if more then some ⟨o.target, o.count + 1⟩ else none) : sends i s len (e s) more :=
    ⟨exec_streamSend_none form, fun o open_ phase => ⟨fun room => by
      rw [← next o]
      exact exec_streamSend_sends form open_ phase room, exec_streamSend_waits form open_ phase⟩⟩
  refine ⟨fun s ra has => ⟨exec_sopen_open has, fun closed phase fresh small => exec_sopen_lines_up has closed phase fresh small⟩,
    fun s c d l n rest x free line resident => ⟨exec_streamPortGrant_fenced, exec_streamPortGrant_grants free line resident⟩,
    fun s c n e rest flying => ?arrival, fun s rb lit => ⟨fun has => ?sput, ?lit, ?close⟩, fun s rd has phase own => ?sget⟩
  case arrival =>
    intro ahead
    exact ⟨fun before => exec_streamEntryArrival_behind flying (packetAhead_iff.mpr before),
      fun free room => exec_streamEntryArrival_enters flying (Bool.eq_false_of_not_eq_true (mt packetAhead_iff.mp free)) room⟩
  case sput =>
    exact sendAs (e := fun s => .data (s.reg rb)) (after := OpenStream.sent)
      ((show exec (.sput rb) s = execSput rb s from rfl).trans (ready_of_has has _)) fun _ => rfl
  case lit => exact sendAs (e := fun _ => .data lit) (after := OpenStream.sent) rfl fun _ => rfl
  case close => exact sendAs (e := fun _ => .close) (after := fun _ => none) rfl fun _ => rfl
  case sget =>
    intro first
    refine ⟨fun now v rest fifo => ?_, fun now rest fifo => ?_, fun stays fresh => ?_⟩
    · rw [exec_sget_data has phase own now fifo]
      exact result_withPort ..
    · obtain ⟨t, eq, th, port, memory⟩ := result_withPort s 4 rd (BitVec.ofNat 64 s.cur.port.taken)
        ⟨none, [], [], 0, s.cur.port.line, (s.cur.port.served s.thr.val).takers⟩
      exact ⟨t, (exec_sget_close has phase own now fifo).trans eq, memory, th, congrArg Port.owner port, (congrArg Port.line port :)⟩
    · rw [exec_sget_waits has phase (stays.imp_right Bool.eq_false_of_not_eq_true),
        stallOn_fresh _ ((congrArg Thread.stall takerQueued_th).trans fresh)]
      refine ⟨_, rfl, ?_, ?_, sameMemory_of_byteAt ?_⟩
      · rw [th_setTh, takerQueued_th]
      · rw [cur_setTh]
        exact mem_takerQueued
      · rw [byteAt_setTh, takerQueued_byteAt]

end Sys2Proof.Laws

/-!
What lies behind instructions: translations, homes that catch up and views that move change TLBs, misses, home memory, publications and
views, and nothing else of the machine (R126, R130, R135, R162, R170).
-/

namespace Sys2Proof.Laws

open Sys2Proof Sys2Proof.Machine

/-! ## A translation's own changes (R162, R170) -/

/-- Outside the TLBs, the misses and the notices of launches nothing differs. -/
structure TranslatesOnly (s t : State) : Prop where
  device : { t with cores := s.cores, clusters := s.clusters, launches := s.launches } = s
  cores : ∀ c, { t.core c with tlb := (s.core c).tlb } = s.core c
  clusters : ∀ k, { t.cluster k with copyTlb := (s.cluster k).copyTlb, misses := (s.cluster k).misses } = s.cluster k

section
variable {s t u : State}

theorem TranslatesOnly.refl (s : State) : TranslatesOnly s s := ⟨rfl, fun _ => rfl, fun _ => rfl⟩

theorem TranslatesOnly.trans (first : TranslatesOnly s t) (second : TranslatesOnly t u) : TranslatesOnly s u where
  device := (congrArg (fun v : State => { v with cores := s.cores, clusters := s.clusters, launches := s.launches }) second.device :).trans
    first.device
  cores c := (congrArg (fun k : Core => { k with tlb := (s.core c).tlb }) (second.cores c) :).trans (first.cores c)
  clusters k := (congrArg (fun x : Cluster => { x with copyTlb := (s.cluster k).copyTlb, misses := (s.cluster k).misses })
    (second.clusters k) :).trans (first.clusters k)

theorem translatesOnly_setCluster {k : Nat} {x : Cluster}
    (keeps : { x with copyTlb := (s.cluster k).copyTlb, misses := (s.cluster k).misses } = s.cluster k) :
    TranslatesOnly s (s.setCluster k x) where
  device := rfl
  cores _ := rfl
  clusters d := by
    by_cases here : d = k
    · rw [here, cluster_setCluster_same, keeps]
    · rw [cluster_setCluster_other s here]

theorem translatesOnly_setTlb (s : State) (c : Nat) (b : Tlb) : TranslatesOnly s (s.setCore c { s.core c with tlb := b }) where
  device := rfl
  cores d := by
    by_cases here : d = c
    · rw [here, core_setCore_same]
    · rw [core_setCore_other s here]
  clusters _ := rfl

theorem translatesOnly_updLaunch (s : State) (n : Nat) (f : Launch → Launch) : TranslatesOnly s (s.updLaunch n f) := by
  unfold State.updLaunch
  split
  · exact ⟨rfl, fun _ => rfl, fun _ => rfl⟩
  · exact .refl s

end

section
variable (s : State) (k : Nat) (u : TlbUser) (acc : Nat) (ctxid : BitVec 16) (launch : Nat) (kind : Access)

theorem userFill_only (e : TlbEntry) : TranslatesOnly s (s.userFill k u e) := by
  cases u with
  | core c => exact translatesOnly_setTlb s c _
  | copy => exact translatesOnly_setCluster rfl

theorem usable_only {asid : BitVec 12} {a : Nat} {e : TlbEntry} {t : State} (usable : s.usable k u kind asid a = some (e, t)) :
    TranslatesOnly s t := by
  unfold State.usable at usable
  split at usable
  · cases usable
    exact .refl s
  · obtain ⟨_, -, eq⟩ := Option.map_eq_some_iff.mp usable
    cases eq
    exact userFill_only s k u e

theorem served_only (a : Nat) : TranslatesOnly s (s.served k u acc ctxid kind a) := by
  unfold State.served
  dsimp only
  split
  · exact translatesOnly_setCluster rfl
  · exact .refl s

theorem translated_only (e : TlbEntry) : TranslatesOnly s (s.translated launch e).2 := by
  unfold State.translated State.unpinned
  dsimp only
  split_ifs
  · exact .refl s
  · exact translatesOnly_updLaunch ..
  · exact .refl s

theorem translateMiss_only (a : Nat) (r : BitVec 128) : TranslatesOnly s (s.translateMiss k u acc ctxid launch kind a r).2 := by
  unfold State.translateMiss
  dsimp only
  split_ifs
  · exact .refl s
  · split
    · exact .refl s
    · exact .refl s
  · split
    · exact .refl s
    · exact translatesOnly_setCluster rfl

theorem translate_only (va : W64) : TranslatesOnly s (s.translate k u acc ctxid launch kind va).2 := by
  unfold State.translate
  dsimp only
  split_ifs
  · exact .refl s
  · split
    case h_1 e t usable =>
      exact (usable_only s k u kind usable).trans ((served_only t k u acc ctxid kind _).trans (translated_only _ launch e))
    case h_2 => exact translateMiss_only ..

theorem forget_only : TranslatesOnly s (s.forget k u acc kind) := translatesOnly_setCluster rfl

end

/-! ## What instructions see -/

/-- Outside home memory with its publications, poison and error records, the TLBs, misses, views and the notices of launches nothing differs. -/
structure BehindOnly (s t : State) : Prop where
  device : { t with cores := s.cores, clusters := s.clusters, launches := s.launches, home := s.home, pubs := s.pubs,
                    poison := s.poison, tagged := s.tagged, latent := s.latent, cover := s.cover, ras := s.ras,
                    rasOverflow := s.rasOverflow } = s
  cores : ∀ c, { t.core c with tlb := (s.core c).tlb } = s.core c
  clusters : ∀ k, { t.cluster k with view := (s.cluster k).view, copyTlb := (s.cluster k).copyTlb, misses := (s.cluster k).misses } =
    s.cluster k

section
variable {s t u : State}

theorem BehindOnly.refl (s : State) : BehindOnly s s := ⟨rfl, fun _ => rfl, fun _ => rfl⟩

theorem BehindOnly.trans (first : BehindOnly s t) (second : BehindOnly t u) : BehindOnly s u where
  device := (congrArg (fun v : State => { v with
    cores := s.cores, clusters := s.clusters, launches := s.launches, home := s.home, pubs := s.pubs, poison := s.poison,
    tagged := s.tagged, latent := s.latent, cover := s.cover, ras := s.ras, rasOverflow := s.rasOverflow }) second.device :).trans
    first.device
  cores c := (congrArg (fun k : Core => { k with tlb := (s.core c).tlb }) (second.cores c) :).trans (first.cores c)
  clusters k := (congrArg (fun x : Cluster => { x with
    view := (s.cluster k).view, copyTlb := (s.cluster k).copyTlb, misses := (s.cluster k).misses }) (second.clusters k) :).trans
    (first.clusters k)

theorem TranslatesOnly.behind (only : TranslatesOnly s t) : BehindOnly s t where
  device := (congrArg (fun v : State => { v with
    home := s.home, pubs := s.pubs, poison := s.poison, tagged := s.tagged, latent := s.latent, cover := s.cover, ras := s.ras,
    rasOverflow := s.rasOverflow }) only.device :)
  cores := only.cores
  clusters k := (congrArg (fun x : Cluster => { x with view := (s.cluster k).view }) (only.clusters k) :)

variable (only : BehindOnly s t)
include only

theorem BehindOnly.focus : t.focus = s.focus := (congrArg State.focus only.device :)
theorem BehindOnly.thr : t.thr = s.thr := (congrArg State.thr only.device :)
theorem BehindOnly.now : t.now = s.now := (congrArg State.now only.device :)
theorem BehindOnly.loads : t.loads = s.loads := (congrArg State.loads only.device :)
theorem BehindOnly.ids : t.ids = s.ids := (congrArg State.ids only.device :)
theorem BehindOnly.freeWord (j : Nat) : t.freeWord j = s.freeWord j := (congrArg (State.freeWord · j) only.device :)
theorem BehindOnly.cutOff (a b : Nat) : t.cutOff a b = s.cutOff a b := (congrArg (State.cutOff · a b) only.device :)
theorem BehindOnly.homePort (d key : Nat) : t.homePort d key = s.homePort d key := (congrArg (State.homePort · d key) only.device :)
theorem BehindOnly.homeHeld (d key : Nat) : t.homeHeld d key = s.homeHeld d key := (congrArg (State.homeHeld · d key) only.device :)
theorem BehindOnly.linkDown (d key : Nat) : t.linkDown d key = s.linkDown d key := (congrArg (State.linkDown · d key) only.device :)
theorem BehindOnly.replicaKey (d key : Nat) : t.replicaKey d key = s.replicaKey d key :=
  (congrArg (State.replicaKey · d key) only.device :)

theorem BehindOnly.loadAhead (core from_ n : Nat) : t.loadAhead core from_ n = s.loadAhead core from_ n :=
  (congrArg (State.loadAhead · core from_ n) only.device :)

theorem BehindOnly.run (c : Nat) : (t.core c).run = (s.core c).run := (congrArg Core.run (only.cores c) :)

theorem BehindOnly.log (c : Nat) : (t.core c).log = (s.core c).log := (congrArg Core.log (only.cores c) :)

theorem BehindOnly.acq (k : Nat) : (t.cluster k).acq = (s.cluster k).acq := (congrArg Cluster.acq (only.clusters k) :)

theorem BehindOnly.ctx : t.ctx = s.ctx := by
  rw [State.ctx, State.cur, only.focus, only.run]
  rfl

theorem BehindOnly.th : t.th = s.th := by
  rw [State.th, only.ctx, only.thr]
  rfl

/-- While home memory reads the same, every byte does. -/
theorem BehindOnly.byteAt (home : t.home = s.home) : t.byteAt = s.byteAt :=
  byteAt_ext (fun c => (congrArg Core.ulm (only.cores c) :)) (fun k => (congrArg memories (only.clusters k) :))
    (congrArg State.dies only.device :) home

end

section
variable {s t : State} (only : TranslatesOnly s t)
include only

theorem TranslatesOnly.home : t.home = s.home := (congrArg State.home only.device :)
theorem TranslatesOnly.pubs : t.pubs = s.pubs := (congrArg State.pubs only.device :)
theorem TranslatesOnly.poison : t.poison = s.poison := (congrArg State.poison only.device :)
theorem TranslatesOnly.poisonedIn (key n : Nat) : t.poisonedIn key n = s.poisonedIn key n :=
  (congrArg (State.poisonedIn · key n) only.device :)
theorem TranslatesOnly.homeOrd (key : Nat) (exact_ : Bool) : t.homeOrd key exact_ = s.homeOrd key exact_ :=
  (congrArg (State.homeOrd · key exact_) only.device :)
theorem TranslatesOnly.asidOf (ctxid : BitVec 16) : t.asidOf ctxid = s.asidOf ctxid := (congrArg (State.asidOf · ctxid) only.device :)
theorem TranslatesOnly.view (k : Nat) : (t.cluster k).view = (s.cluster k).view := (congrArg Cluster.view (only.clusters k) :)

theorem TranslatesOnly.byteAt : t.byteAt = s.byteAt := only.behind.byteAt only.home

end
end Sys2Proof.Laws

/-!
The SYNC group (R131, R132): words of home memory, an access to an object at its home, its failures, and obligation O23.
-/

namespace Sys2Proof.Laws

open Sys2Proof Sys2Proof.Machine

theorem above_page_eq_zero_iff (a : W64) : a.extractLsb' 48 16 = 0 ↔ a.toNat < 2 ^ 48 := by
  have := a.isLt
  rw [BitVec.toNat_eq, BitVec.extractLsb'_toNat, Nat.shiftRight_eq_div_pow]
  simp
  omega

/-! ## Words of home memory -/

theorem readLE_congr {m m' : Mem} {a b n w : Nat} (same : ∀ j < n, m.read (a + j) = m'.read (b + j)) : m.readLE a n w = m'.readLE b n w := by
  have bytes : m.bytes a n = m'.bytes b n := List.ext_getElem (by simp only [length_bytes]) fun j inside _ => by
    rw [getElem_bytes, getElem_bytes, same j (length_bytes m a n ▸ inside)]
  rw [Mem.readLE, bytes, Mem.readLE]

/-- A word is known by its bytes. -/
theorem eq_of_bytes {v w : W64} (bytes : ∀ j < 8, v.extractLsb' (8 * j) 8 = w.extractLsb' (8 * j) 8) : v = w := by
  refine BitVec.eq_of_getLsbD_eq fun i inside => ?_
  have bit := congrArg (·.getLsbD (i % 8)) (bytes (i / 8) (by omega))
  rwa [BitVec.getLsbD_extractLsb', BitVec.getLsbD_extractLsb', show 8 * (i / 8) + i % 8 = i by omega,
    decide_eq_true (Nat.mod_lt i (by decide)), Bool.true_and, Bool.true_and] at bit

theorem readLE_writeLE_same {m : Mem} (wf : m.wf = true) (a : Nat) (v : W64) : (m.writeLE a 8 v).readLE a 8 64 = v :=
  eq_of_bytes fun j inside => by rw [extractLsb'_readLE _ a inside (by omega), read_writeLE_same wf a v inside]

theorem readLE_writeLE_apart {m : Mem} (wf : m.wf = true) {a b n : Nat} (w : Nat) (v : W64) (apart : b + n ≤ a ∨ a + 8 ≤ b) :
    (m.writeLE a 8 v).readLE b n w = m.readLE b n w :=
  readLE_congr fun _ _ => read_writeLE_outside wf v fun _ _ => by omega

section
variable {s t : State} (only : BehindOnly s t) {key n : Nat}
include only

theorem BehindOnly.byteAt_away {p : Place} (away : ∀ a, p ≠ .home a) : t.byteAt p = s.byteAt p := by
  have rest : ({ t with home := s.home } : State).byteAt = s.byteAt :=
    byteAt_ext (fun c => (congrArg Core.ulm (only.cores c) :)) (fun k => (congrArg memories (only.clusters k) :))
      (congrArg State.dies only.device :) rfl
  have same := congrFun rest p
  cases p with
  | home a => exact absurd rfl (away a)
  | _ => exact same

theorem BehindOnly.sameBut (outside : ∀ a, (∀ j < n, key + j ≠ a) → t.home.read a = s.home.read a) :
    SameBut (fun j => some (.home (key + j))) n s t := by
  intro p apart
  cases p with
  | home a => exact outside a fun j inside here => apart j inside (here ▸ rfl)
  | _ => exact only.byteAt_away nofun

end

section
variable (s : State) (key : Nat) (v : W64)

theorem setWord_behind : BehindOnly s (s.setWord key v) := by
  rw [State.setWord]
  exact ⟨rfl, fun _ => rfl, fun _ => rfl⟩

variable {s} (wf : s.home.wf = true)
include wf

theorem setWord_wf : (s.setWord key v).home.wf = true := Mem.wf_writeLE wf key 8 v

theorem word_setWord_same : (s.setWord key v).word key = v := readLE_writeLE_same wf key v

theorem word_setWord_apart {a : Nat} (apart : a + 8 ≤ key ∨ key + 8 ≤ a) : (s.setWord key v).word a = s.word a :=
  readLE_writeLE_apart wf 64 v apart

theorem read_setWord_outside {a : Nat} (outside : ∀ j < 8, key + j ≠ a) : (s.setWord key v).home.read a = s.home.read a :=
  read_writeLE_outside wf v outside

end

/-! ## An access at its object's home (R131, R170, R309, R313) -/

/-- The issuing thread's SYNC-group access to its object, translated. -/
def objectSought (s : State) (a : W64) : Translated × State :=
  s.translate s.clu (.core s.focus) s.thr.val s.ctx.ctxid s.ctx.launch .sync a

section
variable {s : State} {a : W64} {fail : State → Out} {go : Nat → State → Out}

theorem objectSought_only (s : State) (a : W64) : TranslatesOnly s (objectSought s a).2 := translate_only ..

theorem atHome_denied (denied : (objectSought s a).1 = .denied) : ∃ t, TranslatesOnly s t ∧ atHome a s fail go = fail t := by
  have pair : s.translate s.clu (.core s.focus) s.thr.val s.ctx.ctxid s.ctx.launch .sync a = (.denied, (objectSought s a).2) :=
    Prod.ext denied rfl
  let t := (objectSought s a).2
  refine ⟨t.forget t.clu (.core s.focus) t.thr.val .sync, (objectSought_only s a).trans (forget_only ..), ?_⟩
  simp only [atHome, pair]
  rfl

theorem atHome_waiting (waiting : (objectSought s a).1 = .waiting) : atHome a s fail go = .next { (objectSought s a).2 with waiting := true } := by
  have pair : s.translate s.clu (.core s.focus) s.thr.val s.ctx.ctxid s.ctx.launch .sync a = (.waiting, (objectSought s a).2) :=
    Prod.ext waiting rfl
  simp only [atHome, pair]
  rfl

theorem atHome_hit {e : TlbEntry} (hit : (objectSought s a).1 = .hit e) : atHome a s fail go = let key := e.key a.toNat
    let t := (objectSought s a).2
    if s.linkDown (dieOf s.focus) key then fail t
    else if s.homeHeld (dieOf s.focus) key then wait t
    else if s.poisonedIn key 8 then .next (t.consumeLine t.focus (key / 64 * 64))
    else go key t := by
  have pair : s.translate s.clu (.core s.focus) s.thr.val s.ctx.ctxid s.ctx.launch .sync a = (.hit e, (objectSought s a).2) :=
    Prod.ext hit rfl
  have only := objectSought_only s a
  simp only [atHome, pair, only.behind.linkDown, only.behind.homeHeld, only.poisonedIn, only.behind.focus]

variable {e : TlbEntry} (hit : (objectSought s a).1 = .hit e)
include hit

theorem atHome_down (down : s.linkDown (dieOf s.focus) (e.key a.toNat) = true) : atHome a s fail go = fail (objectSought s a).2 :=
  (atHome_hit hit).trans (if_pos down)

theorem atHome_held (up : s.linkDown (dieOf s.focus) (e.key a.toNat) = false) (held : s.homeHeld (dieOf s.focus) (e.key a.toNat) = true) :
    atHome a s fail go = .next { (objectSought s a).2 with waiting := true } :=
  (atHome_hit hit).trans ((if_neg (ne_true_of_eq_false up)).trans (if_pos held))

theorem atHome_goes (up : s.linkDown (dieOf s.focus) (e.key a.toNat) = false) (free : s.homeHeld (dieOf s.focus) (e.key a.toNat) = false)
    (clean : s.poisonedIn (e.key a.toNat) 8 = false) : atHome a s fail go = go (e.key a.toNat) (objectSought s a).2 :=
  (atHome_hit hit).trans ((if_neg (ne_true_of_eq_false up)).trans ((if_neg (ne_true_of_eq_false free)).trans
    (if_neg (ne_true_of_eq_false clean))))

end

/-! ## A failing operation (R132) -/

/-- The thread past a failed operation: poison in its register, where it has one. -/
def syncFailed (len : Nat) (rd : Option SReg) (t : Thread) : Thread :=
  (match rd with | some r => t.setReg r poison64 | none => t).past len

theorem syncFail_eq (len : Nat) (rd : Option SReg) (s : State) : syncFail len rd s = .next (s.setAccerr.setTh (syncFailed len rd s.th)) := by
  cases rd with
  | none => exact congrArg (fun h : Thread => Host.Outcome.next (s.setAccerr.setTh (h.past len))) (th_setCtx s _)
  | some r => exact congrArg (fun h : Thread => Host.Outcome.next (s.setAccerr.setTh ((h.setReg r poison64).past len))) (th_setCtx s _)

theorem syncFail_after {s t : State} (only : TranslatesOnly s t) (len : Nat) (rd : Option SReg) :
    ∃ u, syncFail len rd t = .next u ∧ u.th = syncFailed len rd s.th ∧ u.ctx.accerr = true ∧ SameMemory s u := by
  refine ⟨_, syncFail_eq len rd t, ?_, ?_, sameMemory_of_byteAt ?_⟩
  · rw [th_setTh, only.behind.th]
  · rw [ctx_setTh]
    exact congrArg Ctx.accerr (ctx_setCtx t _)
  · rw [byteAt_setTh]
    exact (byteAt_setCtx t _).trans only.byteAt

/-! ## The operations (R132) -/

section
variable {i : Instr} {s : State} {len : Nat} {need : List SReg} {rd : Option SReg} {ra : SReg} {b d : State → W64}
  {okay : W64 → W64 → W64 → Bool} {go : W64 → W64 → Nat → State → Out}
  (form : exec i s = syncOp i len need rd ra b d okay s go) (has : s.has need = true)
include form has

theorem exec_syncOp_compute (phase : s.ctx.phase = .compute) (fresh : s.th.stall = none) : exec i s = .next (trapEntry 6 (w0x i) s) :=
  (form.trans (ready_of_has has _)).trans (exchangeOnly_compute _ phase fresh)

variable (phase : s.ctx.phase = .exchange)
include phase

theorem exec_syncOp_issue (fresh : s.th.stall = none) : exec i s =
    if (s.reg ra).toNat < 2 ^ 48 ∧ okay (s.reg ra) (b s) (d s) = true then
      .next (s.setTh { s.th with stall := some ⟨len, rd.getD 0, .sync (s.reg ra) (b s) (d s)⟩ })
    else .next (s.setAccerr.setTh (syncFailed len rd s.th)) := by
  refine (form.trans (ready_of_has has _)).trans ((exchangeOnly_exchange _ phase).trans ?_)
  rw [fresh]
  dsimp only
  by_cases good : (s.reg ra).toNat < 2 ^ 48 ∧ okay (s.reg ra) (b s) (d s) = true
  · rw [if_pos good]
    exact if_neg (by rw [ne_eq, above_page_eq_zero_iff]; simpa using good)
  · rw [if_neg good, ← syncFail_eq]
    exact if_pos (by rw [ne_eq, above_page_eq_zero_iff]; simpa [or_iff_not_imp_left] using good)

theorem exec_syncOp_at {n : Nat} {q : SReg} {a e f : W64} (stall : s.th.stall = some ⟨n, q, .sync a e f⟩) :
    exec i s = atHome a s (syncFail len rd) (go e f) := by
  refine (form.trans (ready_of_has has _)).trans ((exchangeOnly_exchange _ phase).trans ?_)
  rw [stall]

end

/-! ## What an operation leaves at the object (R132) -/

/-- The machine after an operation of the SYNC group: the issuing thread is `h`, and home memory reads outside `n` bytes as before. -/
theorem sameBut_setTh {s t : State} (only : BehindOnly s t) {key n : Nat}
    (outside : ∀ a, (∀ j < n, key + j ≠ a) → t.home.read a = s.home.read a) (h : Thread) :
    SameBut (fun j => some (.home (key + j))) n s (t.setTh h) := fun p apart =>
  (congrFun (byteAt_setTh t h) p).trans (only.sameBut outside p apart)

section
variable {s t : State} (only : TranslatesOnly s t) (wf : s.home.wf = true)
include only wf

theorem sets_word (key : Nat) (v : W64) (h : Thread) : ((t.setWord key v).setTh h).word key = v ∧
    SameBut (fun j => some (.home (key + j))) 8 s ((t.setWord key v).setTh h) := by
  have wf : t.home.wf = true := only.home ▸ wf
  refine ⟨word_setWord_same key v wf, sameBut_setTh (only.behind.trans (setWord_behind t key v)) (fun a outside => ?_) h⟩
  rw [read_setWord_outside key v wf outside, only.home]

theorem sets_words (key : Nat) (v w : W64) (h : Thread) : let u := ((t.setWord key v).setWord (key + 8) w).setTh h
    u.word key = v ∧ u.word (key + 8) = w ∧ SameBut (fun j => some (.home (key + j))) 16 s u := by
  have wf : t.home.wf = true := only.home ▸ wf
  have wf' := setWord_wf key v wf
  have same (a : Nat) : (((t.setWord key v).setWord (key + 8) w).setTh h).word a = ((t.setWord key v).setWord (key + 8) w).word a := rfl
  have behind := (only.behind.trans (setWord_behind t key v)).trans (setWord_behind (t.setWord key v) (key + 8) w)
  refine ⟨?_, ?_, sameBut_setTh behind (fun a outside => ?_) h⟩
  · rw [same, word_setWord_apart (key + 8) w wf' (.inl (Nat.le_refl _)), word_setWord_same key v wf]
  · rw [same, word_setWord_same (key + 8) w wf']
  · rw [read_setWord_outside (key + 8) w wf' fun j inside => by have := outside (8 + j) (by omega); omega,
      read_setWord_outside key v wf fun j inside => outside j (by omega), only.home]

end

/-! ## The obligation -/

/-- Settles O23: each operation by its issue, its failures and its effect at the object's home. -/
theorem syncOperations : Obligations.SyncOperations := by
  unfold Obligations.SyncOperations
  extract_lets u acts word sets answers user
  have actsAs {i : Instr} {s : State} {len : Nat} {need : List SReg} {rd : Option SReg} {ra : SReg} {b d : State → W64}
      {okay : W64 → W64 → W64 → Bool} {go : W64 → W64 → Nat → State → Out} {ok : Prop} {eff : W64 → W64 → Nat → State → State → Prop}
      (form : exec i s = syncOp i len need rd ra b d okay s go) (has : s.has need = true)
      (good : (s.reg ra).toNat < 2 ^ 48 ∧ okay (s.reg ra) (b s) (d s) = true ↔ ok)
      (ends : ∀ b d key t, TranslatesOnly s t → ∃ v, go b d key t = .next v ∧ eff b d key s v) :
      acts i s len ra (b s) (d s) rd ok eff := by
    have fails (t : State) (only : TranslatesOnly s t) (eq : exec i s = syncFail len rd t) :
        ∃ v, exec i s = .next v ∧ v.th = syncFailed len rd s.th ∧ v.ctx.accerr = true ∧ SameMemory s v :=
      eq ▸ syncFail_after only len rd
    refine ⟨exec_syncOp_compute form has, fun phase fresh => ⟨fun bad => ?_, fun fine => ?_⟩, fun n q a e f phase stall => ?_⟩
    · exact (exec_syncOp_issue form has phase fresh).trans (if_neg (mt good.mp bad))
    · exact (exec_syncOp_issue form has phase fresh).trans (if_pos (good.mpr fine))
    · have at_ := exec_syncOp_at form has phase stall
      refine ⟨fun denied => ?_, fun waits => at_.trans (atHome_waiting waits), fun x hit => ⟨fun down => ?_, fun up held => ?_,
        fun up free clean => ?_⟩⟩
      · obtain ⟨t, only, eq⟩ := atHome_denied (s := s) denied
        exact fails t only (at_.trans eq)
      · exact fails _ (objectSought_only s a) (at_.trans (atHome_down hit down))
      · exact at_.trans (atHome_held hit up held)
      · rw [at_, atHome_goes hit up free clean]
        exact ends e f _ _ (objectSought_only s a)
  have answersAs {s t : State} (wf : s.home.wf = true) (only : TranslatesOnly s t) (rd : SReg) (len : Nat) (f : W64 → W64 → W64 → W64)
      (b d : W64) (key : Nat) : ∃ v, result len rd (t.word key) (t.setWord key (f b d (t.word key))) = .next v ∧
        answers rd len f b d key s v := by
    have read : t.word key = word s key := congrArg (Mem.readLE · key 8 64) only.home
    refine ⟨_, rfl, ?_, ?_⟩
    · rw [th_setTh, read, (setWord_behind t key _).th, only.behind.th]
    · rw [read]
      exact sets_word only wf key _ _
  have readsAs {s t : State} (only : TranslatesOnly s t) (rd : SReg) (b d : W64) (key : Nat) :
      ∃ v, result 4 rd (t.word key) t = .next v ∧ answers rd 4 (fun _ _ old => old) b d key s v := by
    have read : t.word key = word s key := congrArg (Mem.readLE · key 8 64) only.home
    refine ⟨_, rfl, ?_, read, sameBut_of_same ((byteAt_setTh ..).trans only.byteAt) _ _⟩
    rw [th_setTh, only.behind.th, read]
  clear_value acts answers
  intro s wf
  have atomicAs {i : Instr} {len : Nat} {need : List SReg} {rd ra : SReg} {b : State → W64} {f : W64 → W64 → W64 → W64}
      (form : exec i s = syncAtomic i len need rd ra b f s) (has : s.has need = true) :
      acts i s len ra (b s) (s.reg rd) (some rd) (user (s.reg ra)) (answers rd len f) := by
    refine actsAs (d := fun s => s.reg rd) (okay := fun a _ _ => userWord a) form has ?_
      fun b d key t only => answersAs wf only rd len f b d key
    simp only [userWord, Bool.and_eq_true, beq_iff_eq, decide_eq_true_eq, user]
    omega
  have firstOk (a : W64) : a.toNat < 2 ^ 48 ∧ firstByte a = true ↔ a.toNat < 2 ^ 48 ∧ a.toNat % 64 = 0 := by
    rw [firstByte, beq_iff_eq]
  refine ⟨fun rd ra rb has => ?sobind, fun ra has => ?sounb, fun rd ra rb has => ⟨?add, ?cas, ?swp⟩,
    fun rd ra lit has => ⟨?addLit, ?casLit, ?swpLit, ?ld⟩⟩
  case sobind =>
    refine actsAs (b := fun s => s.reg rb) (d := fun s => s.reg rd) (show exec _ s = execSobind rd ra rb s from rfl) has ?_
      fun b d key t only => ⟨_, rfl, ?_⟩
    · simp only [firstByte, Bool.and_eq_true, beq_iff_eq, decide_eq_true_eq, above_page_eq_zero_iff]
      exact ⟨fun ⟨low, ⟨⟨⟨⟨first, base⟩, rb⟩, rd⟩, len⟩, within⟩ => ⟨low, first, rb, rd, base, len, within⟩,
        fun ⟨low, first, rb, rd, base, len, within⟩ => ⟨low, ⟨⟨⟨⟨first, base⟩, rb⟩, rd⟩, len⟩, within⟩⟩
    · let w := (t.setWord key b).setWord (key + 8) d
      have th : w.th = s.th := ((only.behind.trans (setWord_behind t key b)).trans (setWord_behind _ (key + 8) d)).th
      obtain ⟨first, second, rest⟩ := sets_words only wf key b d (w.th.past 4)
      exact ⟨first, second, (th_setTh ..).trans (congrArg (Thread.past · 4) th), rest⟩
  case sounb =>
    refine actsAs (b := fun _ => 0) (d := fun _ => 0) (show exec _ s = execSounb ra s from rfl) has (firstOk _)
      fun b d key t only => ⟨_, rfl, ?_, sets_word only wf (key + 8) 0 _⟩
    rw [State.past, th_setTh, (only.behind.trans (setWord_behind t (key + 8) 0)).th]
  case add => exact atomicAs (b := fun s => s.reg rb) (show exec _ s = execSyadd rd ra rb s from rfl) has
  case cas => exact atomicAs (b := fun s => s.reg rb) (show exec _ s = execSycas rd ra rb s from rfl) has
  case swp => exact atomicAs (b := fun s => s.reg rb) (show exec _ s = execSyswp rd ra rb s from rfl) has
  case addLit => exact atomicAs (b := fun _ => lit) (show exec _ s = execSyaddLit rd ra lit s from rfl) has
  case casLit => exact atomicAs (b := fun _ => lit) (show exec _ s = execSycasLit rd ra lit s from rfl) has
  case swpLit => exact atomicAs (b := fun _ => lit) (show exec _ s = execSyswpLit rd ra lit s from rfl) has
  case ld =>
    exact actsAs (b := fun _ => 0) (d := fun _ => 0) (show exec _ s = execSyld rd ra s from rfl) has (by rw [beq_iff_eq])
      fun b d key t only => readsAs only rd b d key

end Sys2Proof.Laws

/-!
Homes, replicas and views as they move (R130, R135, R136, R153, R158): that they stay behind what instructions see, and that nothing of them
moves where no home and no replica lags.
-/

namespace Sys2Proof.Laws

open Sys2Proof Sys2Proof.Machine

/-! ## What moves, moves behind instructions -/

theorem behind_foldl {α : Type} {g : State → α → State} (one : ∀ s a, BehindOnly s (g s a)) (l : List α) (s : State) :
    BehindOnly s (l.foldl g s) :=
  List.foldlRecOn l g (.refl s) fun _ only a _ => only.trans (one _ a)

section
variable (s : State)

theorem setView_behind (k : Nat) (v : PMap ViewByte) : BehindOnly s (s.setCluster k { s.cluster k with view := v }) where
  device := rfl
  cores _ := rfl
  clusters d := by
    by_cases here : d = k
    · rw [here, cluster_setCluster_same]
    · rw [cluster_setCluster_other s here]

theorem updPub_behind (id : Nat) (f : Publication → Publication) : BehindOnly s (s.updPub id f) := ⟨rfl, fun _ => rfl, fun _ => rfl⟩

theorem coverPoison_behind (key : Nat) (mask : BitVec 16) (window : Nat) : BehindOnly s (s.coverPoison key mask window) := by
  unfold State.coverPoison
  dsimp only
  split_ifs <;> exact ⟨rfl, fun _ => rfl, fun _ => rfl⟩

theorem rasAdd_behind (kind : BitVec 8) (unit : BitVec 12) (loc : BitVec 44) : BehindOnly s (s.rasAdd kind unit loc) := by
  unfold State.rasAdd
  dsimp only
  split_ifs <;> exact ⟨rfl, fun _ => rfl, fun _ => rfl⟩

theorem applyAt_behind (key window : Nat) (r : LogRec) : BehindOnly s (s.applyAt key window r) := by
  unfold State.applyAt
  dsimp only
  split_ifs
  · have stored : BehindOnly s { s with home := r.masked.foldl (fun m j => m.write (key + j) (r.byte j)) s.home } :=
      ⟨rfl, fun _ => rfl, fun _ => rfl⟩
    exact stored.trans (coverPoison_behind ..)
  · exact rasAdd_behind ..
  all_goals exact ⟨rfl, fun _ => rfl, fun _ => rfl⟩

theorem applyHome_behind (p : Publication) (r : LogRec) : BehindOnly s (s.applyHome p r) := by
  unfold State.applyHome
  dsimp only
  split
  · exact .refl s
  · split_ifs
    · exact (applyAt_behind ..).trans (setView_behind ..)
    · exact applyAt_behind ..

theorem applyReplica_behind (d window : Nat) (r : LogRec) : BehindOnly s (s.applyReplica d window r) := by
  unfold State.applyReplica
  split
  · split_ifs
    · exact applyAt_behind ..
    · exact .refl s
  · exact .refl s

theorem catchUp_behind (p : Publication) : BehindOnly s (s.catchUp p) :=
  (updPub_behind s p.id _).trans (behind_foldl (fun t r => by
    split_ifs
    · exact applyHome_behind t p r
    · exact .refl t) p.records _)

theorem catchUpAt_behind (d : Nat) (p : Publication) : BehindOnly s (s.catchUpAt d p) :=
  (behind_foldl (fun t r => applyReplica_behind t d _ r) p.records s).trans (updPub_behind ..)

theorem settleHomes_behind (want : Publication → Bool) : BehindOnly s (s.settleHomes want) := behind_foldl catchUp_behind _ s

theorem settleReplicas_behind (d : Nat) (want : Publication → Bool) : BehindOnly s (s.settleReplicas d want) :=
  behind_foldl (fun t => catchUpAt_behind t d) _ s

theorem settlePubs_behind (want : Publication → Bool) : BehindOnly s (s.settlePubs want) :=
  (settleHomes_behind s want).trans (behind_foldl (fun t d => settleReplicas_behind t d want) _ _)

theorem dropView_behind (k : Nat) (gone : Nat → ViewByte → Bool) : BehindOnly s (s.dropView k gone) :=
  (settleHomes_behind s _).trans (setView_behind ..)

theorem evict_behind (k n : Nat) : BehindOnly s (s.evict k n) := by
  rw [State.evict]
  exact dropView_behind ..

theorem trimView_behind (k : Nat) : BehindOnly s (s.trimView k) := by
  rw [State.trimView]
  exact behind_foldl (fun t n => evict_behind t k n) _ s

theorem refill_behind (k v key size : Nat) (exact_ : Bool) : BehindOnly s (s.refill k v key size exact_) := setView_behind ..

theorem replayRec_behind (k ord : Nat) (r : LogRec) : BehindOnly s (s.replayRec k ord r) := by
  unfold State.replayRec
  split
  · exact .refl s
  · exact setView_behind ..

end

/-! ## Publications in publish order (R135) -/

theorem insertPub_perm (p : Publication) (l : List Publication) : (insertPub p l).Perm (p :: l) := by
  induction l with
  | nil => exact .refl _
  | cons q l ih =>
    rw [insertPub]
    split
    · exact .refl _
    · exact (ih.cons q).trans (.swap p q l)

theorem sortPubs_perm (l : List Publication) : (sortPubs l).Perm l := by
  induction l with
  | nil => exact .refl _
  | cons p l ih => exact (insertPub_perm p _).trans (ih.cons p)

/-! ## Where nothing lags -/

/-- No home lags behind a publication. -/
def HomesCaughtUp (s : State) : Prop := ∀ p ∈ s.pubs, p.lagG = 0

section
variable {s : State}

theorem laggingHome_eq_nil (caught : HomesCaughtUp s) : s.laggingHome = [] := by
  have none : (s.pubs.filter fun p => p.applied && p.lagG != 0) = [] :=
    List.filter_eq_nil_iff.mpr fun p member => by simp [caught p member]
  rw [State.laggingHome, none]
  rfl

theorem settleHomes_eq_self (caught : HomesCaughtUp s) (want : Publication → Bool) : s.settleHomes want = s := by
  rw [State.settleHomes, laggingHome_eq_nil caught]
  rfl

theorem settleReplicas_eq_self {d : Nat} (caught : ∀ p ∈ s.pubs, p.lagD = 0) (want : Publication → Bool) : s.settleReplicas d want = s := by
  have none : (s.pubs.filter fun p => p.applied && p.lagD.getLsbD d) = [] :=
    List.filter_eq_nil_iff.mpr fun p member => by simp [caught p member]
  rw [State.settleReplicas, State.laggingAt, none]
  rfl

theorem settlePubs_eq_self (homes : HomesCaughtUp s) (replicas : ∀ p ∈ s.pubs, p.lagD = 0) (want : Publication → Bool) :
    s.settlePubs want = s := by
  rw [State.settlePubs, settleHomes_eq_self homes]
  exact foldl_eq_self fun d _ => settleReplicas_eq_self replicas want

theorem dropView_eq (caught : HomesCaughtUp s) (k : Nat) (gone : Nat → ViewByte → Bool) : s.dropView k gone =
    s.setCluster k { s.cluster k with view := (s.cluster k).view.filter fun (a, b) => !gone a b } := by
  rw [State.dropView, settleHomes_eq_self caught]

/-- A view that its cache has room for stays whole. -/
theorem trimView_eq_self {k : Nat} (fits : (s.cluster k).viewLines.length ≤ 32768) : s.trimView k = s := by
  rw [State.trimView, show (s.cluster k).viewLines.length - viewCapacity = 0 from Nat.sub_eq_zero_of_le fits]
  rfl

theorem trimView_home (caught : HomesCaughtUp s) (k : Nat) : (s.trimView k).home = s.home ∧ (s.trimView k).pubs = s.pubs := by
  refine List.foldlRecOn (motive := fun t : State => t.home = s.home ∧ t.pubs = s.pubs) _ _ ⟨rfl, rfl⟩ fun t ⟨home, pubs⟩ n _ => ?_
  have still : HomesCaughtUp t := fun p member => caught p (pubs ▸ member)
  rw [State.evict, dropView_eq still]
  exact ⟨home, pubs⟩

end

/-- Lines that leave a view leave no more behind. -/
theorem viewLines_filter_le (x : Cluster) (keep : Nat × ViewByte → Bool) :
    ({ x with view := x.view.filter keep } : Cluster).viewLines.length ≤ x.viewLines.length := by
  rw [Cluster.viewLines, Cluster.viewLines, ← List.card_toFinset, ← List.card_toFinset]
  refine Finset.card_le_card fun a => ?_
  rw [List.mem_toFinset, List.mem_toFinset]
  exact fun member => (List.filter_sublist.map _).subset member

theorem viewLines_mapVal (x : Cluster) (f : Nat → ViewByte → ViewByte) :
    ({ x with view := PMap.mapVal f x.view } : Cluster).viewLines = x.viewLines := by
  simp only [Cluster.viewLines, PMap.mapVal, List.map_map]
  rfl

/-! ## Replays (R130, R137) -/

/-- A copy of a byte of home memory after the replay of a write of place `ord`: one that is older takes the record's byte. -/
def replayedByte (r : LogRec) (pa ord : Nat) (b : ViewByte) : ViewByte :=
  if pa ≤ b.key ∧ b.key < pa + 16 ∧ r.mask.getLsbD (b.key - pa) = true ∧ b.ord ≤ ord + 1 then
    { b with val := r.byte (b.key - pa), ord := ord + 1 }
  else b

/-- Where home memory has a write already, its replay changes older copies alone. -/
theorem replayRec_write {s : State} {k ord : Nat} {r : LogRec} {h : Homed} (homed : r.homed = some h) (write : r.kind = 0)
    (ahead : ord < s.homeOrd h.pa (h.mca || h.repl)) : s.replayRec k ord r =
    s.setCluster k { s.cluster k with view := PMap.mapVal (fun _ => replayedByte r h.pa ord) (s.cluster k).view } := by
  have behind : decide (s.homeOrd h.pa (h.mca || h.repl) ≤ ord) = false := decide_eq_false (Nat.not_le.mpr ahead)
  simp only [State.replayRec, homed, behind, write, bne_self_eq_false, Bool.false_and, Bool.and_false, Bool.false_eq_true, if_false, if_true]
  congr 2
  refine (foldl_eq_self fun _ _ => rfl).trans (congrArg (PMap.mapVal · _) (funext fun _ => funext fun b => ?_))
  simp only [Bool.and_eq_true, decide_eq_true_eq, and_assoc]
  refine if_ctx_congr Iff.rfl (fun inside => ?_) fun _ => rfl
  rw [Nat.add_sub_cancel' inside.1]

end Sys2Proof.Laws

/-!
REL, ACQ, FENCE and FENCEL (R133, R137–R139, R145, R146): what they publish, acquire and wait for, and obligation O24.
-/

namespace Sys2Proof.Laws

open Sys2Proof Sys2Proof.Machine

/-! ## REL (R133) -/

theorem settlePub_eq (s : State) (c id n : Nat) : ∃ f : Publication → Publication,
    (∀ p, { f p with ready := p.ready, records := p.records } = p) ∧ s.settlePub c id n = s.updPub id f := by
  unfold State.settlePub
  dsimp only
  split
  · refine ⟨fun p => p, fun _ => rfl, ?_⟩
    simp only [State.updPub, ite_self, List.map_id']
  · refine ⟨_, fun p => ?_, rfl⟩
    split <;> rfl

/-- The state in which the tail that REL found is published under the object at `key`. -/
def relPublished (s : State) (sc : Scope) (n key : Nat) : State :=
  ((s.publish s.focus (scopeSys sc) sc (some key) s.focus s.ctx.launch false false [] none).publishTail n s.ids).settlePub s.focus s.ids s.now

section
variable (s : State) (sc : Scope) (n key : Nat)

theorem relPublished_eq : ∃ f : Publication → Publication, (∀ p, { f p with ready := p.ready, records := p.records } = p) ∧
    relPublished s sc n key =
      ((s.publish s.focus (scopeSys sc) sc (some key) s.focus s.ctx.launch false false [] none).publishTail n s.ids).updPub s.ids f :=
  settlePub_eq ..

theorem relPublished_th : (relPublished s sc n key).th = s.th := by
  obtain ⟨f, -, eq⟩ := relPublished_eq s sc n key
  rw [eq, (updPub_behind _ s.ids f).th]
  exact th_setCore (s := s.publish _ _ _ _ _ _ _ _ _ _) rfl

theorem relPublished_byteAt : (relPublished s sc n key).byteAt = s.byteAt := by
  obtain ⟨f, -, eq⟩ := relPublished_eq s sc n key
  rw [eq, (updPub_behind _ s.ids f).byteAt rfl]
  exact byteAt_setCore (s.publish _ _ _ _ _ _ _ _ _ _) rfl

theorem relPublished_log : (relPublished s sc n key).cur.log = s.cur.log.map fun r =>
    if r.launch == s.ctx.launch && r.pub.isNone && decide (r.seq < n) then { r with pub := some s.ids } else r := by
  obtain ⟨f, -, eq⟩ := relPublished_eq s sc n key
  rw [eq]
  exact congrArg Core.log (core_setCore_same ..)

theorem relPublished_pubs : ∃ p ∈ (relPublished s sc n key).pubs, p.id = s.ids ∧ p.obj = some key ∧ p.source = s.focus ∧ p.scope = sc ∧
    p.sys = scopeSys sc ∧ p.app = none := by
  obtain ⟨f, keeps, eq⟩ := relPublished_eq s sc n key
  let p : Publication := ⟨s.ids, s.focus, scopeSys sc, sc, some key, s.focus, s.ctx.launch, false, false, [], none, none, false, 0, 0, 0, 0⟩
  have kept := keeps p
  refine ⟨f p, ?_, (congrArg Publication.id kept :), (congrArg Publication.obj kept :), (congrArg Publication.source kept :),
    (congrArg Publication.scope kept :), (congrArg Publication.sys kept :), (congrArg Publication.app kept :)⟩
  rw [eq]
  exact List.mem_map.mpr ⟨p, List.mem_append_right _ List.mem_cons_self, if_pos rfl⟩

end

/-- An object that REL or ACQ takes (R132, R133). -/
def goodObject (a : W64) : Prop := a.toNat < 2 ^ 48 ∧ a.toNat % 64 = 0

theorem not_refused {a : W64} (good : goodObject a) : ¬(a.extractLsb' 48 16 ≠ 0 ∨ (!firstByte a) = true) := by
  obtain ⟨low, first⟩ := good
  rw [ne_eq, above_page_eq_zero_iff, firstByte, first]
  exact fun bad => bad.elim (fun high => high low) nofun

/-- The issuing thread reaches its object, whose first byte is at `key` of home memory. -/
def Reached (s : State) (a : W64) (key : Nat) : Prop := ∃ e, (objectSought s a).1 = .hit e ∧ key = e.key a.toNat ∧
  s.linkDown (dieOf s.focus) key = false ∧ s.homeHeld (dieOf s.focus) key = false ∧ s.poisonedIn key 8 = false

theorem atHome_reached {s : State} {a : W64} {key : Nat} (there : Reached s a key) (fail : State → Out) (go : Nat → State → Out) :
    atHome a s fail go = go key (objectSought s a).2 := by
  obtain ⟨e, hit, rfl, up, free, clean⟩ := there
  exact atHome_goes hit up free clean

section
variable {s : State} {sc : Scope} {ra : SReg} (has : s.has [ra] = true) (phase : s.ctx.phase = .exchange) (good : goodObject (s.reg ra))
include has phase good

theorem exec_rel_fresh (fresh : s.th.stall = none) : exec (.rel sc ra) s = .next (s.setTh { s.th with stall := some ⟨4, 0, .seq s.seq⟩ }) := by
  refine (((show exec (.rel sc ra) s = execRel sc ra s from rfl).trans (ready_of_has has _)).trans (exchangeOnly_exchange _ phase)).trans ?_
  dsimp only
  rw [if_neg (not_refused good), fresh]
  rfl

theorem exec_rel_publishes {len n key : Nat} {rd : SReg} (stall : s.th.stall = some ⟨len, rd, .seq n⟩) (there : Reached s (s.reg ra) key) :
    exec (.rel sc ra) s = .next ((relPublished (objectSought s (s.reg ra)).2 sc n key).stall 4 0 (.rel (objectSought s (s.reg ra)).2.ids)) := by
  refine (((show exec (.rel sc ra) s = execRel sc ra s from rfl).trans (ready_of_has has _)).trans (exchangeOnly_exchange _ phase)).trans ?_
  dsimp only
  rw [if_neg (not_refused good), stall]
  exact atHome_reached there ..

theorem exec_rel_passes {len id : Nat} {rd : SReg} {p : Publication} (stall : s.th.stall = some ⟨len, rd, .rel id⟩)
    (found : s.pubs.find? (fun q => q.id == id) = some p) (slot : p.app ≠ none) : exec (.rel sc ra) s = .next (s.setTh (s.th.past 4)) := by
  refine (((show exec (.rel sc ra) s = execRel sc ra s from rfl).trans (ready_of_has has _)).trans (exchangeOnly_exchange _ phase)).trans ?_
  dsimp only
  rw [if_neg (not_refused good), stall]
  dsimp only
  rw [found]
  exact if_pos (Option.isSome_iff_ne_none.mpr slot)

theorem exec_acq_fresh (fresh : s.th.stall = none) : exec (.acq sc ra) s = .next (s.setTh { s.th with stall := some ⟨4, 0, .acq⟩ }) := by
  refine (((show exec (.acq sc ra) s = execAcq sc ra s from rfl).trans (ready_of_has has _)).trans (exchangeOnly_exchange _ phase)).trans ?_
  dsimp only
  rw [if_neg (not_refused good), fresh]
  rfl

theorem exec_acq_reaches {w : Stall} {key : Nat} (stall : s.th.stall = some w) (there : Reached s (s.reg ra) key) :
    exec (.acq sc ra) s = match (objectSought s (s.reg ra)).2.acquire sc key with
      | some t => .next (t.past 4)
      | none => wait (objectSought s (s.reg ra)).2 := by
  refine (((show exec (.acq sc ra) s = execAcq sc ra s from rfl).trans (ready_of_has has _)).trans (exchangeOnly_exchange _ phase)).trans ?_
  dsimp only
  rw [if_neg (not_refused good), stall]
  exact atHome_reached there ..

end

/-! ## The acquire table and its replays (R137–R140) -/

/-- The table's entry of an object. -/
def acqEntry (s : State) (key : Nat) : Option AcqEntry := (s.cluster s.clu).acq.find? fun e => e.obj == key

/-- The index up to which the cluster has acquired an object. -/
def acquiredTo (s : State) (key : Nat) : Nat := ((acqEntry s key).map (·.v)).getD 0

/-- The entry that an ACQ makes of an object as it stands at home. -/
def newEntry (s : State) (key : Nat) : AcqEntry := ⟨key, (s.word (key + 16)).toNat, (s.word key, s.word (key + 8))⟩

/-- The publications that an ACQ is to replay. -/
def toReplay (s : State) (key : Nat) : List Publication := s.under key (acquiredTo s key) (newEntry s key).v

/-- The table has the object with its region, and every publication since is still there. -/
def Whole (s : State) (key : Nat) : Prop :=
  (acqEntry s key).map (·.region) = some (newEntry s key).region ∧ (toReplay s key).length = (newEntry s key).v - acquiredTo s key

/-- A publication that a scope does not cover, and that the ACQ leaves out (R140). -/
def skips (s : State) (sc : Scope) (q : Publication) : Bool :=
  !coversBoth q.scope sc q.core s.focus && (s.freeWord (2 ^ 20 + q.id)).getLsbD 0

/-- A cluster whose table has an ACQ's entry, or forgets the object where the ACQ has left a publication out (log 83). -/
def tabled (x : Cluster) (e : AcqEntry) (forgets : Bool) : Cluster :=
  if forgets then { x.acquired e with acq := (x.acquired e).acq.filter fun f => f.obj != e.obj } else x.acquired e

/-- The end of an ACQ that began in `s` and has come to `t`. -/
def acquireEnds (s : State) (key : Nat) (forgets : Bool) (t : State) : State :=
  (t.setCluster s.clu (tabled (t.cluster s.clu) (newEntry s key) forgets)).trimView s.clu

/-- An ACQ replays the publications that it does not skip. -/
def replays (s : State) (sc : Scope) (key : Nat) : State :=
  ((toReplay s key).filter fun q => !skips s sc q).foldl (fun t q =>
    q.records.foldl (fun t r => if r.inRegion (newEntry s key).region.1 (newEntry s key).region.2 then t.replayRec s.clu q.ord r else t) t) s

/-- An ACQ's fallback: the lines of the region leave the view. -/
def dropsRegion (s : State) (key : Nat) : State :=
  s.dropView s.clu ((s.cluster s.clu).inRegion (newEntry s key).region.1 (newEntry s key).region.2)

section
variable {s : State} {sc : Scope} {key : Nat}

theorem acquire_eq [Decidable (Whole s key)] : s.acquire sc key =
    if Whole s key then some (acquireEnds s key ((toReplay s key).any (skips s sc)) (replays s sc key))
    else if s.pubs.any fun q => q.obj == some key && q.applied && q.lagG != 0 && !skips s sc q then none
    else some (acquireEnds s key ((toReplay s key).any fun q => skips s sc q && q.lagG != 0) (dropsRegion s key)) := by
  have entry : (s.cluster s.clu).acq.find? (fun e => e.obj == key) = acqEntry s key := rfl
  unfold State.acquire
  simp only [entry]
  cases found : acqEntry s key with
  | none =>
    rw [if_neg fun whole : Whole s key => by simp [Whole, found] at whole]
    have from0 : acquiredTo s key = 0 := by rw [acquiredTo, found]; rfl
    have ps : s.under key 0 (s.word (key + 16)).toNat = toReplay s key := by rw [toReplay, from0]; rfl
    simp only [Bool.false_and, Bool.false_or, Bool.false_eq_true, if_false, ps]
    rfl
  | some e =>
    have from_ : acquiredTo s key = e.v := by rw [acquiredTo, found]; rfl
    have ps : s.under key e.v (s.word (key + 16)).toNat = toReplay s key := by rw [toReplay, from_]; rfl
    have whole : (e.region == (s.word key, s.word (key + 8)) && decide ((toReplay s key).length = (s.word (key + 16)).toNat - e.v)) = true ↔
        Whole s key := by
      simp only [Whole, found, from_, Bool.and_eq_true, beq_iff_eq, decide_eq_true_eq, Option.map_some, Option.some_inj]
      rfl
    by_cases is : Whole s key
    · simp only [ps, whole.mpr is, if_true, Bool.true_or, Bool.and_true, if_pos is]
      rfl
    · simp only [ps, Bool.eq_false_of_not_eq_true (mt whole.mp is), Bool.false_or, Bool.false_eq_true, if_false, if_neg is]
      rfl

theorem tabled_keeps {α : Type} {g : Cluster → α} (keeps : ∀ x l, g { x with acq := l } = g x) (x : Cluster) (e : AcqEntry) (forgets : Bool) :
    g (tabled x e forgets) = g x := by
  cases forgets with
  | false => exact keeps x _
  | true => exact keeps x _

theorem acquireEnds_th (forgets : Bool) (t : State) : (acquireEnds s key forgets t).th = t.th := by
  rw [acquireEnds, (trimView_behind _ s.clu).th]
  rfl

theorem acquireEnds_byteAt {t : State} (caught : HomesCaughtUp t) (forgets : Bool) : (acquireEnds s key forgets t).byteAt = t.byteAt := by
  have home := (trimView_home (s := t.setCluster s.clu (tabled (t.cluster s.clu) (newEntry s key) forgets)) caught s.clu).1
  rw [acquireEnds, (trimView_behind _ s.clu).byteAt home]
  exact byteAt_setCluster t (tabled_keeps (g := memories) (fun _ _ => rfl) ..)

theorem acquireEnds_acq (t : State) : ((acquireEnds s key false t).cluster s.clu).acq.head? = some (newEntry s key) := by
  rw [acquireEnds, (trimView_behind _ s.clu).acq, cluster_setCluster_same]
  rfl

theorem acquireEnds_view {t : State} (fits : (t.cluster s.clu).viewLines.length ≤ 32768) (forgets : Bool) :
    ((acquireEnds s key forgets t).cluster s.clu).view = (t.cluster s.clu).view := by
  have room : (tabled (t.cluster s.clu) (newEntry s key) forgets).viewLines.length ≤ 32768 := by
    rwa [tabled_keeps (g := Cluster.viewLines) fun _ _ => rfl]
  rw [acquireEnds, trimView_eq_self (by rwa [cluster_setCluster_same]), cluster_setCluster_same]
  exact tabled_keeps (g := Cluster.view) (fun _ _ => rfl) ..

theorem replays_behind : BehindOnly s (replays s sc key) := by
  unfold replays
  refine behind_foldl (fun t q => behind_foldl (fun t r => ?_) _ t) _ s
  split_ifs
  · exact replayRec_behind t _ _ r
  · exact .refl t

/-- Replays are into the view. -/
theorem replayRec_home (k ord : Nat) (r : LogRec) : (s.replayRec k ord r).home = s.home ∧ (s.replayRec k ord r).pubs = s.pubs := by
  unfold State.replayRec
  split <;> exact ⟨rfl, rfl⟩

theorem replays_home : (replays s sc key).home = s.home ∧ (replays s sc key).pubs = s.pubs := by
  let kept (t : State) : Prop := t.home = s.home ∧ t.pubs = s.pubs
  unfold replays
  refine List.foldlRecOn (motive := kept) _ _ ⟨rfl, rfl⟩ fun t before q _ => List.foldlRecOn (motive := kept) _ _ before fun t before r _ => ?_
  split_ifs
  · obtain ⟨home, pubs⟩ := replayRec_home (s := t) s.clu q.ord r
    exact ⟨home.trans before.1, pubs.trans before.2⟩
  · exact before

end

/-! ## ACQ at its object's home (R137, R138) -/

section
variable {s : State} {sc : Scope} {key : Nat}

/-- What an ACQ comes to when it goes on. -/
theorem acquire_goes {t : State} (acquired : s.acquire sc key = some t) : t.th = s.th ∧ (HomesCaughtUp s → t.byteAt = s.byteAt) ∧
    ((∀ q ∈ s.pubs, q.obj = some key → skips s sc q = false) → (t.cluster s.clu).acq.head? = some (newEntry s key)) := by
  classical
  have kept {q : Publication} (member : q ∈ toReplay s key) : q ∈ s.pubs ∧ q.obj = some key := by
    have := (sortPubs_perm _).mem_iff.mp member
    simp only [List.mem_filter, Bool.and_eq_true, beq_iff_eq] at this
    exact ⟨this.1, this.2.1.1.1⟩
  have none_skipped (covered : ∀ q ∈ s.pubs, q.obj = some key → skips s sc q = false) (also : Publication → Bool) :
      ((toReplay s key).any fun q => skips s sc q && also q) = false :=
    List.any_eq_false.mpr fun q member => by simp [covered q (kept member).1 (kept member).2]
  rw [acquire_eq] at acquired
  split_ifs at acquired with whole lags
  · obtain rfl := Option.some.inj acquired
    refine ⟨?_, fun caught => ?_, fun covered => ?_⟩
    · rw [acquireEnds_th, replays_behind.th]
    · have home := replays_home (s := s) (sc := sc) (key := key)
      have still : HomesCaughtUp (replays s sc key) := fun p member => caught p (home.2 ▸ member)
      rw [acquireEnds_byteAt still, replays_behind.byteAt home.1]
    · have none := none_skipped covered fun _ => true
      simp only [Bool.and_true] at none
      rw [none]
      exact acquireEnds_acq _
  · obtain rfl := Option.some.inj acquired
    have behind : BehindOnly s (dropsRegion s key) := dropView_behind ..
    refine ⟨?_, fun caught => ?_, fun covered => ?_⟩
    · rw [acquireEnds_th, behind.th]
    · have drops : dropsRegion s key = s.setCluster s.clu _ := dropView_eq caught s.clu _
      have still : HomesCaughtUp (dropsRegion s key) := fun p member => caught p (by rwa [drops] at member)
      rw [acquireEnds_byteAt still, behind.byteAt (by rw [drops]; rfl)]
    · rw [none_skipped covered]
      exact acquireEnds_acq _

/-- The ACQ goes on where no home lags behind a publication under the object. -/
theorem acquire_isSome (caught : ∀ q ∈ s.pubs, q.obj = some key → q.lagG = 0) : (s.acquire sc key).isSome = true := by
  classical
  have none : (s.pubs.any fun q => q.obj == some key && q.applied && q.lagG != 0 && !skips s sc q) = false := by
    refine List.any_eq_false.mpr fun q member => ?_
    by_cases obj : q.obj = some key
    · simp [caught q member obj]
    · simp [obj]
  rw [acquire_eq, none]
  split <;> rfl

/-- The fallback waits for a lagging home that its scope covers. -/
theorem acquire_waits (partly : ¬Whole s key) {q : Publication} (member : q ∈ s.pubs) (obj : q.obj = some key) (applied : q.applied = true)
    (lags : q.lagG ≠ 0) (covers : coversBoth q.scope sc q.core s.focus = true) : s.acquire sc key = none := by
  classical
  rw [acquire_eq, if_neg partly]
  exact if_pos (List.any_eq_true.mpr ⟨q, member, by simpa [obj, applied, skips, covers] using lags⟩)

section
variable (fits : (s.cluster s.clu).viewLines.length ≤ 32768)
include fits

/-- The fallback's view (R138). -/
theorem acquire_drops (partly : ¬Whole s key) (caught : HomesCaughtUp s) : ∃ t, s.acquire sc key = some t ∧ (t.cluster s.clu).view =
    (s.cluster s.clu).view.filter fun (a, b) => !(s.cluster s.clu).inRegion (newEntry s key).region.1 (newEntry s key).region.2 a b := by
  classical
  have drops := dropView_eq caught s.clu ((s.cluster s.clu).inRegion (newEntry s key).region.1 (newEntry s key).region.2)
  have room : ((dropsRegion s key).cluster s.clu).viewLines.length ≤ 32768 := by
    rw [dropsRegion, drops, cluster_setCluster_same]
    exact (viewLines_filter_le _ _).trans fits
  refine ⟨_, ?_, (acquireEnds_view (s := s) (key := key) room ((toReplay s key).any fun q => skips s sc q && q.lagG != 0)).trans ?_⟩
  · have none : (s.pubs.any fun q => q.obj == some key && q.applied && q.lagG != 0 && !skips s sc q) = false :=
      List.any_eq_false.mpr fun q member => by simp [caught q member]
    rw [acquire_eq, if_neg partly, none]
    rfl
  · rw [dropsRegion, drops, cluster_setCluster_same]

/-- The view after the replay of one publication of one write (R137). -/
theorem acquire_replays (whole : Whole s key) {q : Publication} {r : LogRec} {h : Homed} (one : toReplay s key = [q])
    (covers : coversBoth q.scope sc q.core s.focus = true) (records : q.records = [r]) (write : r.kind = 0) (homed : r.homed = some h)
    (inside : r.inRegion (newEntry s key).region.1 (newEntry s key).region.2 = true) (ahead : q.ord < s.homeOrd h.pa (h.mca || h.repl)) :
    ∃ t, s.acquire sc key = some t ∧
      (t.cluster s.clu).view = PMap.mapVal (fun _ => replayedByte r h.pa q.ord) (s.cluster s.clu).view := by
  classical
  have skips : skips s sc q = false := by rw [skips, covers]; rfl
  have replayed : replays s sc key = s.replayRec s.clu q.ord r := by
    simp only [replays, one, List.filter_cons, skips, Bool.not_false, if_true, List.filter_nil, List.foldl_cons, List.foldl_nil, records, inside]
  have view := replayRec_write (k := s.clu) homed write ahead
  have room : ((replays s sc key).cluster s.clu).viewLines.length ≤ 32768 := by
    rw [replayed, view, cluster_setCluster_same, viewLines_mapVal]
    exact fits
  refine ⟨_, (acquire_eq (sc := sc)).trans (if_pos whole), (acquireEnds_view room _).trans ?_⟩
  rw [replayed, view, cluster_setCluster_same]

end
end

/-! ## FENCE and FENCEL (R145, R146) -/

/-- An earlier record that a FENCE covers is still on its way. -/
def RecordLeft (s : State) (sc : Scope) (n : Nat) : Prop :=
  ∃ r ∈ s.cur.log, r.launch = s.ctx.launch ∧ r.seq < n ∧ r.homed = none ∧ (sc = .sys ∨ s.goesAway r = false)

theorem recordsLeft_iff {s : State} {sc : Scope} {n : Nat} : s.recordsLeft sc s.focus s.ctx.launch n = true ↔ RecordLeft s sc n := by
  simp only [State.recordsLeft, List.any_eq_true, Bool.and_eq_true, Bool.or_eq_true, Bool.not_eq_true', beq_iff_eq, decide_eq_true_eq,
    Option.isNone_iff_eq_none, and_assoc]
  rfl

/-- The FENCE answers. -/
def fenceAnswered (s : State) (rd : SReg) : State :=
  (s.setCtx { s.ctx with fence := ⟨0, 0, false, false, false⟩ }).setTh ((s.th.setReg rd s.ctx.fence.word).past 4)

section
variable {s : State} {sc : Scope} {rd : SReg} (has : s.has [rd] = true) (phase : s.ctx.phase = .exchange)
include has phase

theorem exec_fence : exec (.fence sc rd) s = match s.th.stall with
    | some ⟨_, _, .fence n⟩ => if s.recordsLeft sc s.focus s.ctx.launch n then wait s else .next (fenceAnswered s rd)
    | _ => if s.recordsLeft sc s.focus s.ctx.launch s.seq then .next (s.stall 4 rd (.fence s.seq)) else .next (fenceAnswered s rd) := by
  refine (((show exec (.fence sc rd) s = execFence sc rd s from rfl).trans (ready_of_has has _)).trans (exchangeOnly_exchange _ phase)).trans ?_
  simp only [result, th_setCtx]
  rfl

theorem exec_fence_fresh (fresh : s.th.stall = none) : exec (.fence sc rd) s =
    if s.recordsLeft sc s.focus s.ctx.launch s.seq then .next (s.setTh { s.th with stall := some ⟨4, rd, .fence s.seq⟩ })
    else .next (fenceAnswered s rd) := by
  rw [exec_fence has phase, fresh]
  rfl

theorem exec_fence_again {len n : Nat} {q : SReg} (stall : s.th.stall = some ⟨len, q, .fence n⟩) : exec (.fence sc rd) s =
    if s.recordsLeft sc s.focus s.ctx.launch n then wait s else .next (fenceAnswered s rd) := by
  rw [exec_fence has phase, stall]

end

theorem fenceAnswered_effect (s : State) (rd : SReg) : (fenceAnswered s rd).th = (s.th.setReg rd s.ctx.fence.word).past 4 ∧
    (fenceAnswered s rd).ctx.fence = ⟨0, 0, false, false, false⟩ ∧ SameMemory s (fenceAnswered s rd) := by
  refine ⟨th_setTh .., ?_, sameMemory_of_byteAt ?_⟩
  · rw [fenceAnswered, ctx_setTh, ctx_setCtx]
    rfl
  · rw [fenceAnswered, byteAt_setTh, byteAt_setCtx]

/-! ## The events that let a waiting thread try again -/

section
variable {s : State} {c len : Nat} {k : Fin 11} {rd : SReg}

theorem exec_relComplete {id : Nat} (stall : ((s.core c).run.thread k).stall = some ⟨len, rd, .rel id⟩) : exec (.relComplete c k.val) s =
    if s.pubs.any fun p => p.id == id && p.app.isNone then .next s else .next { s with agenda := .issue c k.val :: s.agenda } := by
  show execRelComplete c k.val s = _
  simp only [execRelComplete, State.threadOn, thrOf_val, stall]
  rfl

theorem exec_acqComplete (stall : ((s.core c).run.thread k).stall = some ⟨len, rd, .acq⟩) :
    exec (.acqComplete c k.val) s = .next { s with agenda := .issue c k.val :: s.agenda } := by
  show execAcqComplete c k.val s = _
  simp only [execAcqComplete, State.threadOn, thrOf_val, stall]
  rfl

theorem exec_syncOpComplete {a b d : W64} (stall : ((s.core c).run.thread k).stall = some ⟨len, rd, .sync a b d⟩) :
    exec (.syncOpComplete c k.val) s = .next { s with agenda := .issue c k.val :: s.agenda } := by
  show execSyncOpComplete c k.val s = _
  simp only [execSyncOpComplete, State.threadOn, thrOf_val, stall]
  rfl

theorem exec_fenceComplete {n : Nat} (stall : ((s.core c).run.thread k).stall = some ⟨len, rd, .fence n⟩) :
    exec (.fenceComplete c k.val) s = .next { s with agenda := .issue c k.val :: s.agenda } := by
  show execFenceComplete c k.val s = _
  simp only [execFenceComplete, State.threadOn, thrOf_val, stall]
  rfl

end

/-! ## The obligation -/

section
variable {s : State} (a : W64)

/-- A translation leaves the object, its table entry and what it is to replay as they were. -/
theorem newEntry_sought (key : Nat) : newEntry (objectSought s a).2 key = newEntry s key := by
  simp only [newEntry, State.word, (objectSought_only s a).home]

theorem acqEntry_sought (key : Nat) : acqEntry (objectSought s a).2 key = acqEntry s key := by
  have only := objectSought_only s a
  rw [acqEntry, State.clu, only.behind.focus, only.behind.acq]
  rfl

theorem toReplay_sought (key : Nat) : toReplay (objectSought s a).2 key = toReplay s key := by
  rw [toReplay, acquiredTo, acqEntry_sought, newEntry_sought, State.under, (objectSought_only s a).pubs]
  rfl

theorem whole_sought (key : Nat) : Whole (objectSought s a).2 key ↔ Whole s key := by
  simp only [Whole, acquiredTo, acqEntry_sought, newEntry_sought, toReplay_sought]

theorem clu_sought : (objectSought s a).2.clu = s.clu := congrArg clusterOf (objectSought_only s a).behind.focus

theorem inRegion_sought (k : Nat) : ((objectSought s a).2.cluster k).inRegion = (s.cluster k).inRegion := by
  funext base len b v
  rw [Cluster.inRegion, Cluster.inRegion, (objectSought_only s a).view]

theorem viewLines_sought (k : Nat) : ((objectSought s a).2.cluster k).viewLines = (s.cluster k).viewLines := by
  simp only [Cluster.viewLines, (objectSought_only s a).view]

end

section
variable {s : State} {sc : Scope} {ra : SReg} (has : s.has [ra] = true) (phase : s.ctx.phase = .exchange) (good : goodObject (s.reg ra))
  {key : Nat} (there : Reached s (s.reg ra) key)
include has phase good there

theorem exec_rel_effect {len n : Nat} {rd : SReg} (stall : s.th.stall = some ⟨len, rd, .seq n⟩) : ∃ t p, exec (.rel sc ra) s = .next t ∧
    t.th.stall = some ⟨4, 0, .rel s.ids⟩ ∧ t.th.pc = s.th.pc ∧ SameMemory s t ∧ p ∈ t.pubs ∧ p.id = s.ids ∧ p.obj = some key ∧
    p.source = s.focus ∧ p.scope = sc ∧ p.sys = (sc == .sys) ∧ p.app = none ∧ ∀ (m : Nat) (r : LogRec), s.cur.log[m]? = some r →
      t.cur.log[m]? = some (if r.launch = s.ctx.launch ∧ r.pub = none ∧ r.seq < n then { r with pub := some s.ids } else r) := by
  let t := (objectSought s (s.reg ra)).2
  have only : TranslatesOnly s t := objectSought_only s (s.reg ra)
  have log : t.cur.log = s.cur.log := (only.behind.log _).trans (congrArg (fun c => (s.core c).log) only.behind.focus)
  obtain ⟨p, member, id, obj, source, scope, sys, app⟩ := relPublished_pubs t sc n key
  refine ⟨_, p, exec_rel_publishes has phase good stall there, ?_, ?_, sameMemory_of_byteAt ?_, member, id.trans only.behind.ids, obj,
    source.trans only.behind.focus, scope, ?_, app, fun m r at_ => ?_⟩
  · rw [State.stall, th_setTh, only.behind.ids]
  · rw [State.stall, th_setTh, relPublished_th, only.behind.th]
  · rw [State.stall, byteAt_setTh, relPublished_byteAt, only.byteAt]
  · rw [sys]
    cases sc <;> rfl
  · rw [State.stall, cur_setTh]
    show (relPublished t sc n key).cur.log[m]? = _
    rw [relPublished_log, log, List.getElem?_map, at_, only.behind.ctx, only.behind.ids]
    simp only [Option.map_some, Bool.and_eq_true, beq_iff_eq, Option.isNone_iff_eq_none, decide_eq_true_eq, and_assoc]

variable {w : Stall} (stall : s.th.stall = some w)
include stall

theorem exec_acq_acquires {t : State} (acquired : (objectSought s (s.reg ra)).2.acquire sc key = some t) :
    exec (.acq sc ra) s = .next (t.past 4) := by
  rw [exec_acq_reaches has phase good stall there, acquired]

theorem exec_acq_goes (caught : ∀ q ∈ s.pubs, q.obj = some key → q.lagG = 0) : ∃ t, exec (.acq sc ra) s = .next t ∧ t.th = s.th.past 4 ∧
    (HomesCaughtUp s → SameMemory s t) ∧ ((∀ q ∈ s.pubs, q.obj = some key → coversBoth q.scope sc q.core s.focus = true) →
      (t.cluster s.clu).acq.head? = some (newEntry s key)) := by
  let t := (objectSought s (s.reg ra)).2
  have only : TranslatesOnly s t := objectSought_only s (s.reg ra)
  obtain ⟨v, acquired⟩ := Option.isSome_iff_exists.mp (acquire_isSome (s := t) (sc := sc) (key := key) (by rwa [only.pubs]))
  obtain ⟨th, bytes, head⟩ := acquire_goes acquired
  rw [newEntry_sought, clu_sought] at head
  refine ⟨v.past 4, exec_acq_acquires has phase good there stall acquired, ?_, fun homes => sameMemory_of_byteAt ?_,
    fun covered => head fun q member obj => ?_⟩
  · rw [State.past, th_setTh, th, only.behind.th]
  · rw [State.past, byteAt_setTh, bytes (by rwa [HomesCaughtUp, only.pubs]), only.byteAt]
  · rw [skips, only.behind.focus, covered q (only.pubs ▸ member) obj]
    rfl

theorem exec_acq_waits (partly : ¬Whole s key) {q : Publication} (member : q ∈ s.pubs) (obj : q.obj = some key) (applied : q.applied = true)
    (lags : q.lagG ≠ 0) (covers : coversBoth q.scope sc q.core s.focus = true) :
    exec (.acq sc ra) s = .next { (objectSought s (s.reg ra)).2 with waiting := true } := by
  have only := objectSought_only s (s.reg ra)
  rw [exec_acq_reaches has phase good stall there, acquire_waits (mt (whole_sought _ key).mp partly) (only.pubs.symm ▸ member) obj applied
    lags (only.behind.focus.symm ▸ covers)]
  rfl

variable (fits : (s.cluster s.clu).viewLines.length ≤ 32768)
include fits

theorem exec_acq_drops (partly : ¬Whole s key) (caught : HomesCaughtUp s) : ∃ t, exec (.acq sc ra) s = .next t ∧
    (t.cluster s.clu).view = (s.cluster s.clu).view.filter fun (a, b) =>
      !(s.cluster s.clu).inRegion (newEntry s key).region.1 (newEntry s key).region.2 a b := by
  have only := objectSought_only s (s.reg ra)
  obtain ⟨t, acquired, view⟩ := acquire_drops (s := (objectSought s (s.reg ra)).2) (sc := sc) (key := key)
    (by rwa [viewLines_sought, clu_sought]) (mt (whole_sought _ key).mp partly) (by rwa [HomesCaughtUp, only.pubs])
  rw [clu_sought, newEntry_sought, only.view, inRegion_sought] at view
  exact ⟨t.past 4, exec_acq_acquires has phase good there stall acquired, view⟩

theorem exec_acq_replays (whole : Whole s key) {q : Publication} {r : LogRec} {h : Homed} (one : toReplay s key = [q])
    (covers : coversBoth q.scope sc q.core s.focus = true) (records : q.records = [r]) (write : r.kind = 0) (homed : r.homed = some h)
    (inside : r.inRegion (newEntry s key).region.1 (newEntry s key).region.2 = true) (ahead : q.ord < s.homeOrd h.pa (h.mca || h.repl)) :
    ∃ t, exec (.acq sc ra) s = .next t ∧
      (t.cluster s.clu).view = PMap.mapVal (fun _ => replayedByte r h.pa q.ord) (s.cluster s.clu).view := by
  have only := objectSought_only s (s.reg ra)
  obtain ⟨t, acquired, view⟩ := acquire_replays (s := (objectSought s (s.reg ra)).2) (sc := sc) (key := key)
    (by rwa [viewLines_sought, clu_sought]) ((whole_sought _ key).mpr whole) ((toReplay_sought _ key).trans one)
    (only.behind.focus.symm ▸ covers) records write homed (by rwa [newEntry_sought]) (by rwa [only.homeOrd])
  rw [clu_sought, only.view] at view
  exact ⟨t.past 4, exec_acq_acquires has phase good there stall acquired, view⟩

end

/-- Settles O24: REL and FENCE by their stalls, ACQ by what its table lets it do at the object's home, and the events. -/
theorem releaseAcquireFence : Obligations.ReleaseAcquireFence := by
  unfold Obligations.ReleaseAcquireFence
  extract_lets stalls passes good found here
  refine ⟨fun s sc ra has phase object => ⟨fun fresh => ?fresh, fun len rd n key stall there => ?rel, fun len rd id p stall at_ slot => ?slot,
    fun w key stall there caught => ?acq⟩, fun s sc ra w key has phase object stall there fits => ?replay, fun s sc rd has phase => ?fence,
    fun s c k len rd id n a b d => ?events⟩
  case fresh => exact ⟨exec_rel_fresh has phase object fresh, exec_acq_fresh has phase object fresh⟩
  case slot => exact exec_rel_passes has phase object stall at_ slot
  case rel => exact exec_rel_effect has phase object there stall
  case acq => exact exec_acq_goes has phase object there stall caught
  case replay =>
    intro base len p entry v whole
    refine ⟨fun partly ⟨q, member, obj, applied, lags, covers⟩ => exec_acq_waits has phase object there stall partly member obj applied lags covers,
      fun partly caught => exec_acq_drops has phase object there stall fits partly caught,
      fun is q r h one covers records write homed low high ahead => ?_⟩
    obtain ⟨t, next, view⟩ := exec_acq_replays has phase object there stall fits is one covers records write homed
      (by rw [LogRec.inRegion, Bool.and_eq_true]; exact ⟨decide_eq_true low, decide_eq_true high⟩) ahead
    refine ⟨t, next, fun a b present => ?_⟩
    rw [view, PMap.find?_mapVal, present]
    rfl
  case fence =>
    intro left answers
    have effect : exec (.fence sc rd) s = .next (fenceAnswered s rd) → answers := fun eq =>
      ⟨_, eq, (fenceAnswered_effect s rd).1, (fenceAnswered_effect s rd).2⟩
    refine ⟨fun fresh => ⟨fun none => effect ?_, fun waits => ?_⟩, fun len q n stall none => effect ?_, ?_⟩
    · exact (exec_fence_fresh has phase fresh).trans (if_neg (mt recordsLeft_iff.mp none))
    · exact (exec_fence_fresh has phase fresh).trans (if_pos (recordsLeft_iff.mpr waits))
    · exact (exec_fence_again has phase stall).trans (if_neg (mt recordsLeft_iff.mp none))
    · exact (show exec (.fencel sc) s = execFencel sc s from rfl).trans (exchangeOnly_exchange _ phase)
  case events =>
    intro next stall
    refine ⟨fun at_ slots => ?_, fun at_ ⟨p, member, id_, app⟩ => ?_, exec_acqComplete, exec_syncOpComplete, exec_fenceComplete⟩
    · refine (exec_relComplete at_).trans (if_neg ?_)
      simp only [List.any_eq_true, not_exists, not_and, Bool.and_eq_true, beq_iff_eq, Option.isNone_iff_eq_none]
      exact fun p member id_ => slots p member id_
    · exact (exec_relComplete at_).trans (if_pos (List.any_eq_true.mpr ⟨p, member, by simp [id_, app]⟩))

end Sys2Proof.Laws

/-!
Shared stores, SSTP and the accumulates (R125, R127, R142–R144): the bytes of a record, appending, merging and waiting for log space, and
obligation O21.
-/

namespace Sys2Proof.Laws

open Sys2Proof Sys2Proof.Machine

/-! ## The bytes of a record (R124) -/

theorem toNat_extractLsb'_low4 (ea : W64) : (ea.extractLsb' 0 4).toNat = ea.toNat % 16 := by
  rw [BitVec.extractLsb'_toNat, Nat.shiftRight_zero]

theorem getLsbD_granMask {o n j : Nat} (small : n < 16) (fits : o + n ≤ 16) :
    (granMask o n).getLsbD j = (decide (o ≤ j) && decide (j < o + n)) := by
  have one : 2 ^ n % 65536 = 2 ^ n := Nat.mod_eq_of_lt (Nat.pow_lt_pow_right (by decide) small)
  have ones : (1#16 <<< n - 1#16).toNat = 2 ^ n - 1 := by
    have pos : 1 ≤ 2 ^ n := Nat.one_le_two_pow
    have bound : 2 ^ n ≤ 2 ^ 15 := Nat.pow_le_pow_right (by decide) (by omega)
    simp only [BitVec.toNat_sub, BitVec.toNat_shiftLeft, BitVec.toNat_ofNat, Nat.shiftLeft_eq]
    omega
  rw [granMask, BitVec.getLsbD_shiftLeft, BitVec.getLsbD, ones, Nat.testBit_two_pow_sub_one]
  rw [Bool.eq_iff_iff]
  simp only [Bool.and_eq_true, Bool.not_eq_true', decide_eq_true_eq, decide_eq_false_iff_not]
  omega

/-- Byte `o + j` of a value that is moved up to offset `o` of a granule. -/
theorem extractLsb'_shiftLeft_bytes (v : W64) {o j : Nat} (inside : o + j < 16) :
    (v.setWidth 128 <<< (8 * o)).extractLsb' (8 * (o + j)) 8 = v.extractLsb' (8 * j) 8 := by
  refine BitVec.eq_of_getLsbD_eq fun i bit => ?_
  rw [BitVec.getLsbD_extractLsb', BitVec.getLsbD_extractLsb', BitVec.getLsbD_shiftLeft, BitVec.getLsbD_setWidth,
    show 8 * (o + j) + i - 8 * o = 8 * j + i by omega]
  simp only [bit, decide_true, Bool.true_and, show 8 * (o + j) + i < 128 by omega, show ¬ 8 * (o + j) + i < 8 * o by omega,
    show 8 * j + i < 128 by omega, decide_false, Bool.not_false]

/-- An aligned access of at most a word lies in one granule. -/
theorem granule_fits {a n : Nat} (size : n = 8 ∨ n = 4 ∨ n = 1) (aligned : a % n = 0) : a % 16 + n ≤ 16 := by
  rcases size with rfl | rfl | rfl <;> omega

theorem getLsbD_byteMask {k j i : Nat} (inside : j < 16) (bit : i < 8) :
    ((0xFF : BitVec 128) <<< (8 * k)).getLsbD (8 * j + i) = decide (j = k) := by
  have ones : (0xFF : BitVec 128).getLsbD (8 * j + i - 8 * k) = decide (8 * j + i - 8 * k < 8) :=
    Nat.testBit_two_pow_sub_one 8 _
  rw [BitVec.getLsbD_shiftLeft, ones, Bool.eq_iff_iff]
  simp only [Bool.and_eq_true, Bool.not_eq_true', decide_eq_true_eq, decide_eq_false_iff_not]
  omega

/-- A granule with its byte `k` taken from another, where the mask names it: one step of `maskMerge`. -/
def takeByte (d : BitVec 128) (m : BitVec 16) (v : BitVec 128) (k : Nat) : BitVec 128 :=
  if m.getLsbD k then (v &&& ~~~((0xFF : BitVec 128) <<< (8 * k))) ||| (d &&& ((0xFF : BitVec 128) <<< (8 * k))) else v

theorem maskMerge_eq (o d : BitVec 128) (m : BitVec 16) : maskMerge o d m = (List.range 16).foldl (takeByte d m) o := rfl

theorem takeByte_byte (d : BitVec 128) (m : BitVec 16) (v : BitVec 128) (k : Nat) {j : Nat} (inside : j < 16) :
    (takeByte d m v k).extractLsb' (8 * j) 8 =
      if j = k ∧ m.getLsbD j then d.extractLsb' (8 * j) 8 else v.extractLsb' (8 * j) 8 := by
  unfold takeByte
  split
  next named =>
    refine BitVec.eq_of_getLsbD_eq fun i bit => ?_
    have within : 8 * j + i < 128 := by omega
    rw [BitVec.getLsbD_extractLsb', BitVec.getLsbD_or, BitVec.getLsbD_and, BitVec.getLsbD_and, BitVec.getLsbD_not,
      getLsbD_byteMask inside bit]
    by_cases here : j = k
    · subst here
      simp [named, bit, within]
    · simp [here, bit, within]
  next unnamed => exact (if_neg fun ⟨here, named⟩ => unnamed (here ▸ named)).symm

/-- Byte `j` of a granule that takes in the masked bytes of another. -/
theorem maskMerge_byte (o d : BitVec 128) (m : BitVec 16) {j : Nat} (inside : j < 16) :
    (maskMerge o d m).extractLsb' (8 * j) 8 = if m.getLsbD j then d.extractLsb' (8 * j) 8 else o.extractLsb' (8 * j) 8 := by
  have upTo (n : Nat) : ((List.range n).foldl (takeByte d m) o).extractLsb' (8 * j) 8 =
      if j < n ∧ m.getLsbD j then d.extractLsb' (8 * j) 8 else o.extractLsb' (8 * j) 8 := by
    induction n with
    | zero => rfl
    | succ n earlier =>
      rw [List.range_succ, List.foldl_append, List.foldl_cons, List.foldl_nil, takeByte_byte _ _ _ _ inside, earlier]
      by_cases here : j = n
      · simp [here]
      · have bound : j < n + 1 ↔ j < n := by omega
        simp only [here, bound, false_and, if_false]
  rw [maskMerge_eq, upTo 16]
  simp only [inside, true_and]

/-! ## Appending a record (R124, R142) -/

/-- The record that a store of the running context makes now. -/
def recordNow (s : State) (kind : BitVec 4) (gran : BitVec 44) (mask : BitVec 16) (data : BitVec 128) (sstp : Bool) (pub : Option Nat) :
    LogRec :=
  ⟨kind, gran, mask, data, s.ctx.ctxid, s.ctx.lsn + 1, s.ctx.launch, s.seq,
    if 2048 ≤ s.cur.buffered then some (s.cur.spillSlot s.ctx.launch) else none, sstp, none, pub⟩

/-- The state with a record at the end of the running context's log, not yet written to the spill region. -/
def logged (s : State) (r : LogRec) : State :=
  { s.setCore s.focus { s.cur with run := { s.ctx with lsn := s.ctx.lsn + 1 }, log := s.cur.log ++ [r] } with seq := s.seq + 1 }

theorem append_eq (s : State) (kind : BitVec 4) (gran : BitVec 44) (mask : BitVec 16) (data : BitVec 128) (sstp : Bool) (pub : Option Nat) :
    let r := recordNow s kind gran mask data sstp pub
    s.append kind gran mask data sstp pub = ((logged s r).spillWrite r).chargeRecord s.ctx.launch := rfl

theorem recordNow_made (s : State) (kind : BitVec 4) (gran : BitVec 44) (mask : BitVec 16) (data : BitVec 128) (sstp : Bool)
    (pub : Option Nat) : MadeRecord s (recordNow s kind gran mask data sstp pub) kind sstp pub := by
  refine ⟨rfl, rfl, rfl, rfl, rfl, rfl, rfl, rfl, ?_⟩
  rw [recordNow]
  split
  next full => simp [full]
  next room => simp [room]

theorem spillWrite_keeps (s : State) (r : LogRec) : { s.spillWrite r with home := s.home, agenda := s.agenda } = s := by
  unfold State.spillWrite
  split
  · rfl
  · split <;> rfl

theorem chargeRecord_keeps (s : State) (n : Nat) : { s.chargeRecord n with launches := s.launches } = s := by
  unfold State.chargeRecord State.updLaunch
  split
  · split <;> rfl
  · rfl

section
variable (s : State) (r : LogRec)

theorem logged_cur : (logged s r).cur = { s.cur with run := { s.ctx with lsn := s.ctx.lsn + 1 }, log := s.cur.log ++ [r] } :=
  core_setCore_same s s.focus _

theorem logged_byteAt : (logged s r).byteAt = s.byteAt := byteAt_setCore s rfl

theorem stored_cur (n : Nat) : (((logged s r).spillWrite r).chargeRecord n).cur =
    { s.cur with run := { s.ctx with lsn := s.ctx.lsn + 1 }, log := s.cur.log ++ [r] } :=
  (congrArg State.cur (chargeRecord_keeps _ n) :).trans ((congrArg State.cur (spillWrite_keeps _ r) :).trans (logged_cur s r))

theorem stored_ctx (n : Nat) : (((logged s r).spillWrite r).chargeRecord n).ctx = { s.ctx with lsn := s.ctx.lsn + 1 } :=
  congrArg Core.run (stored_cur s r n)

theorem stored_thr (n : Nat) : (((logged s r).spillWrite r).chargeRecord n).thr = s.thr :=
  (congrArg State.thr (chargeRecord_keeps _ n) :).trans (congrArg State.thr (spillWrite_keeps (logged s r) r) :)

theorem stored_th (n : Nat) : (((logged s r).spillWrite r).chargeRecord n).th = s.th := by
  rw [State.th, stored_ctx, stored_thr]
  rfl

theorem stored_pubs (n : Nat) : (((logged s r).spillWrite r).chargeRecord n).pubs = s.pubs :=
  (congrArg State.pubs (chargeRecord_keeps _ n) :).trans (congrArg State.pubs (spillWrite_keeps (logged s r) r) :)

end

/-! ### Where a spilled record goes (R142; log 79) -/

section
variable (s : State) (cores : PMap Core) (seq ids : Nat) (pubs : List Publication)

theorem rvRun_logged (stop fuel : Nat) (m : Rv) :
    rvRun { s with cores := cores, seq := seq, ids := ids, pubs := pubs } stop fuel m = rvRun s stop fuel m := by
  induction fuel generalizing m with
  | zero => rfl
  | succ fuel same =>
    have step : rvStep { s with cores := cores, seq := seq, ids := ids, pubs := pubs } m = rvStep s m := rfl
    simp only [rvRun, step, same]

theorem walk_logged (ctxid : BitVec 16) (kind : Access) (va : BitVec 48) :
    ({ s with cores := cores, seq := seq, ids := ids, pubs := pubs } : State).walk ctxid kind va = s.walk ctxid kind va := by
  unfold State.walk
  rw [rvRun_logged]
  rfl

end

section
variable {s : State} {r : LogRec} {n va : Nat} {e : WalkEnd} (spilled : r.spilled = some n) (walked : s.spillWalk s.ctx r n = (va, e))
include spilled walked

theorem spillWrite_fill {w : BitVec 128} (filled : e = .fill w) :
    s.spillWrite r = { s with home := s.home.writeLE ((⟨w, false⟩ : TlbEntry).key va) 32 r.word } := by
  subst filled
  simp only [State.spillWrite, spilled, walked]

theorem spillWrite_byteAt_unfilled (unfilled : ∀ w, e ≠ .fill w) : (s.spillWrite r).byteAt = s.byteAt := by
  rw [State.spillWrite, spilled]
  dsimp only
  rw [walked]
  cases e with
  | fill w => exact absurd rfl (unfilled w)
  | _ => rfl

end

theorem sameBut_writeHome {s : State} (wf : s.home.wf = true) (key : Nat) {n b : Nat} (v : BitVec b) :
    SameBut (fun j => some (.home (key + j))) n s { s with home := s.home.writeLE key n v } := by
  have only : BehindOnly s { s with home := s.home.writeLE key n v } := ⟨rfl, fun _ => rfl, fun _ => rfl⟩
  exact only.sameBut fun _ apart => read_writeLE_outside wf v apart

/-- The memory that a record's word goes to changes, and no other. -/
theorem stored_spillsTo (s : State) {r : LogRec} (own : r.ctx = s.ctx.ctxid) (n : Nat) (h : Thread) :
    SpillsTo s ((((logged s r).spillWrite r).chargeRecord n).setTh h) r := by
  have written : ((((logged s r).spillWrite r).chargeRecord n).setTh h).byteAt = ((logged s r).spillWrite r).byteAt :=
    (byteAt_setTh _ h).trans (congrArg State.byteAt (chargeRecord_keeps _ n) :)
  unfold SpillsTo
  split
  next buffered =>
    refine sameMemory_of_byteAt (written.trans ?_)
    rw [State.spillWrite, buffered]
    exact logged_byteAt s r
  next place spilled =>
    have base : (logged s r).ctx.spillBase = s.ctx.spillBase := (congrArg (fun k : Core => k.run.spillBase) (logged_cur s r) :)
    have walk (va : BitVec 48) : (logged s r).walk r.ctx .record va = s.walk s.ctx.ctxid .record va := own ▸ walk_logged s _ _ _ _ _ _ _
    have walked : (logged s r).spillWalk (logged s r).ctx r place = (s.ctx.spillBase.toNat + 32 * place,
        s.walk s.ctx.ctxid .record (BitVec.ofNat 48 (s.ctx.spillBase.toNat + 32 * place))) := by
      rw [State.spillWalk, base, walk]
    split
    next w filled =>
      intro wf p apart
      rw [written, spillWrite_fill spilled walked filled, sameBut_writeHome (s := logged s r) wf _ r.word p apart, logged_byteAt]
    next unfilled =>
      exact sameMemory_of_byteAt (written.trans ((spillWrite_byteAt_unfilled spilled walked unfilled).trans (logged_byteAt s r)))

/-! ### An appended record (R127, R143, R144) -/

theorem append_past (s : State) (kind : BitVec 4) (gran : BitVec 44) (mask : BitVec 16) (data : BitVec 128) (sstp : Bool) (pub : Option Nat)
    (len : Nat) : let r := recordNow s kind gran mask data sstp pub
    let t := (s.append kind gran mask data sstp pub).past len
    t.th = s.th.past len ∧ t.cur.log = s.cur.log ++ [r] ∧ MadeRecord s r kind sstp pub ∧ t.ctx.lsn = s.ctx.lsn + 1 ∧ SpillsTo s t r := by
  rw [append_eq, State.past, stored_th]
  refine ⟨th_setTh _ _, ?_, recordNow_made .., ?_, stored_spillsTo s rfl _ _⟩
  · rw [cur_setTh, stored_cur]
  · rw [ctx_setTh, stored_ctx]
    rfl

/-- The record of an aligned access holds its bytes. -/
theorem recordNow_holds (s : State) (kind : BitVec 4) (ea v : W64) {n : Nat} (size : n = 8 ∨ n = 4 ∨ n = 1) (aligned : ea.toNat % n = 0)
    (sstp : Bool) (pub : Option Nat) :
    HoldsBytes (recordNow s kind (ea.extractLsb' 4 44) (granMask (ea.extractLsb' 0 4).toNat n)
      (v.setWidth 128 <<< (8 * (ea.extractLsb' 0 4).toNat)) sstp pub) ea n v := by
  have fits := granule_fits size aligned
  rw [toNat_extractLsb'_low4]
  exact ⟨rfl, fun j _ => getLsbD_granMask (by omega) fits, fun j inside => extractLsb'_shiftLeft_bytes v (by omega)⟩

/-! ## What a store does (R127, R142) -/

/-- An address that may not be stored to: beyond the address space, or not aligned to the access (R127). -/
def BadAddress (ea : W64) (n : Nat) : Prop := 2 ^ 48 ≤ ea.toNat ∨ ea.toNat % n ≠ 0

theorem badShared_iff (ea : W64) (n : Nat) : badShared ea n = true ↔ BadAddress ea n := by
  have page : ea.extractLsb' 48 16 ≠ 0 ↔ 2 ^ 48 ≤ ea.toNat := by rw [Ne, above_page_eq_zero_iff, not_lt]
  rw [badShared, Bool.or_eq_true, bne_iff_ne, bne_iff_ne, page, BadAddress]

/-- The instruction ends as a refused record (R127). -/
def Refuses (i : Instr) (s : State) (len : Nat) (ea : W64) : Prop :=
  ∃ t, exec i s = .next t ∧ t.th = s.th.past len ∧ t.ctx.fence = s.ctx.fence.fail ea true false 1 ∧ t.cur.log = s.cur.log ∧ SameMemory s t

/-- With log space, the instruction appends a record of its bytes (R127). -/
def Appends (i : Instr) (s : State) (len n : Nat) (ea v : W64) (kind : BitVec 4) : Prop := 0 < s.logRoom →
  ∃ t r, exec i s = .next t ∧ t.th = s.th.past len ∧ t.cur.log = s.cur.log ++ [r] ∧ MadeRecord s r kind false none ∧
    HoldsBytes r ea n v ∧ t.ctx.lsn = s.ctx.lsn + 1 ∧ SpillsTo s t r

/-- Without log space, the instruction stalls, or traps where no wait is granted (R142). -/
def Fills (i : Instr) (s : State) (len : Nat) (ea : W64) : Prop := s.logRoom = 0 → s.th.stall = none →
  (s.ctx.logcap = 0 → exec i s = .next (trapEntry 7 ea s)) ∧
  (s.ctx.logcap ≠ 0 → exec i s = .next (s.setTh { s.th with stall := some ⟨len, 0, .log s.now ea [(ea, 0)]⟩ }))

section
variable {i : Instr} {s : State} {len : Nat} {ea : W64}

theorem refuses_of_exec (form : exec i s = .next ((s.refuseRecord ea).past len)) : Refuses i s len ea := by
  have th : (s.refuseRecord ea).th = s.th := th_setCtx s _
  refine ⟨_, form, ?_, ?_, ?_, sameMemory_of_byteAt ?_⟩
  · rw [State.past, th_setTh, th]
  · rw [State.past, ctx_setTh]
    exact congrArg Ctx.fence (ctx_setCtx s _)
  · rw [State.past, cur_setTh]
    exact (congrArg Core.log (cur_setCtx s _) :)
  · rw [State.past, byteAt_setTh]
    exact byteAt_setCtx s _

theorem logWait_room {lane : W64 × W32} {go : State → Out} (room : 0 < s.logRoom) : logWait len [lane] ea s go = go s := if_pos room

theorem fills_of_exec {go : State → Out} (form : exec i s = logWait len [(ea, 0)] ea s go) : Fills i s len ea := by
  intro full fresh
  have short : ¬ [(ea, (0 : W32))].length ≤ s.logRoom := by
    rw [full]
    exact Nat.not_succ_le_zero 0
  rw [form, logWait, if_neg short, fresh]
  exact ⟨fun cap => if_pos cap, fun cap => if_neg cap⟩

end

/-! ### A store that merges (R125) -/

theorem mergeSeq_eq_some_iff (s : State) (gran : BitVec 44) (q : Nat) : s.mergeSeq gran = some q ↔
    ∃ r, (s.cur.log.filter fun r => r.launch == s.ctx.launch).getLast? = some r ∧ r.seq = q ∧ r.lsn = s.ctx.lsn ∧ r.kind = 0 ∧
      r.gran = gran ∧ r.pub = none ∧ r.spilled = none ∧ r.sstp = false := by
  unfold State.mergeSeq
  cases (s.cur.log.filter fun r => r.launch == s.ctx.launch).getLast? with
  | none => simp
  | some r =>
    simp only [Bool.and_eq_true, beq_iff_eq, Option.isNone_iff_eq_none, Bool.not_eq_true', Option.ite_none_right_eq_some,
      Option.some.injEq, exists_eq_left']
    constructor
    · rintro ⟨⟨⟨⟨⟨⟨lsn, kind⟩, gran⟩, pub⟩, spilled⟩, sstp⟩, seq⟩
      exact ⟨seq, lsn, kind, gran, pub, spilled, sstp⟩
    · rintro ⟨seq, lsn, kind, gran, pub, spilled, sstp⟩
      exact ⟨⟨⟨⟨⟨⟨lsn, kind⟩, gran⟩, pub⟩, spilled⟩, sstp⟩, seq⟩

section
variable (s : State) (ea v : W64) {n q : Nat} (size : n = 8 ∨ n = 4 ∨ n = 1) (aligned : ea.toNat % n = 0) (len : Nat)
  (merges : s.mergeSeq (ea.extractLsb' 4 44) = some q)

/-- A record that takes in `n` bytes of `v` from `ea` on. -/
def mergedRecord (r : LogRec) (ea : W64) (n : Nat) (v : W64) : LogRec :=
  let o := (ea.extractLsb' 0 4).toNat
  { r with mask := r.mask ||| granMask o n, data := maskMerge r.data (v.setWidth 128 <<< (8 * o)) (granMask o n) }

include size aligned in
theorem mergedRecord_bytes (r : LogRec) {j : Nat} (inside : j < 16) :
    let own := decide (ea.toNat % 16 ≤ j) && decide (j < ea.toNat % 16 + n)
    (mergedRecord r ea n v).mask.getLsbD j = (r.mask.getLsbD j || own) ∧
      (mergedRecord r ea n v).byte j = if own then v.extractLsb' (8 * (j - ea.toNat % 16)) 8 else r.byte j := by
  intro own
  have named : (granMask (ea.extractLsb' 0 4).toNat n).getLsbD j = own := by
    rw [toNat_extractLsb'_low4]
    exact getLsbD_granMask (by omega) (granule_fits size aligned)
  refine ⟨by rw [← named]; exact BitVec.getLsbD_or, ?_⟩
  rw [← named, LogRec.byte, mergedRecord, maskMerge_byte _ _ _ inside, named]
  split
  next mine =>
    have above : ea.toNat % 16 ≤ j := of_decide_eq_true (Bool.and_eq_true_iff.mp mine).1
    have sum : ea.toNat % 16 + (j - ea.toNat % 16) = j := by omega
    have moved := extractLsb'_shiftLeft_bytes v (o := ea.toNat % 16) (j := j - ea.toNat % 16) (by omega)
    rwa [sum, ← toNat_extractLsb'_low4] at moved
  next => rfl

include merges in
theorem appendWrite_merge : s.appendWrite ea n v =
    s.setCore s.focus { s.cur with log := s.cur.log.map fun r => if r.seq = q then mergedRecord r ea n v else r } := by
  simp only [State.appendWrite, merges]
  rfl

include size aligned merges in
theorem appendWrite_merges_past : let t := (s.appendWrite ea n v).past len
    t.th = s.th.past len ∧ SameMemory s t ∧ MergesBytes s t q ea n v := by
  intro t
  have made : t = (s.appendWrite ea n v).setTh ((s.appendWrite ea n v).th.past len) := rfl
  have th : (s.appendWrite ea n v).th = s.th := by
    rw [appendWrite_merge s ea v merges]
    exact th_setCore rfl
  have log : t.cur.log = s.cur.log.map fun r => if r.seq = q then mergedRecord r ea n v else r := by
    rw [made, cur_setTh, appendWrite_merge s ea v merges]
    exact congrArg Core.log (core_setCore_same s s.focus _)
  refine ⟨by rw [made, th_setTh, th], sameMemory_of_byteAt ?_, ?_, fun m r found => ⟨fun other => ?_, fun same => ?_⟩⟩
  · rw [made, byteAt_setTh, appendWrite_merge s ea v merges]
    exact byteAt_setCore s rfl
  · rw [log, List.length_map]
  · rw [log, List.getElem?_map, found, Option.map_some, if_neg other]
  · refine ⟨mergedRecord r ea n v, ?_, rfl, fun j inside => mergedRecord_bytes ea v size aligned r inside⟩
    rw [log, List.getElem?_map, found, Option.map_some, if_pos same]

end

/-! ### The instructions (R127, R143, R144) -/

/-- The instruction appends the record that its bytes make (R124). -/
theorem appends_of_exec {i : Instr} {s : State} {len n : Nat} {ea v w : W64} {kind : BitVec 4} (size : n = 8 ∨ n = 4 ∨ n = 1)
    (aligned : ea.toNat % n = 0) (same : ∀ j < n, w.extractLsb' (8 * j) 8 = v.extractLsb' (8 * j) 8)
    (form : 0 < s.logRoom → exec i s = .next ((s.append kind (ea.extractLsb' 4 44) (granMask (ea.extractLsb' 0 4).toNat n)
      (w.setWidth 128 <<< (8 * (ea.extractLsb' 0 4).toNat)) false none).past len)) : Appends i s len n ea v kind := by
  intro room
  obtain ⟨th, log, made, lsn, spills⟩ := append_past s kind (ea.extractLsb' 4 44) (granMask (ea.extractLsb' 0 4).toNat n)
    (w.setWidth 128 <<< (8 * (ea.extractLsb' 0 4).toNat)) false none len
  obtain ⟨gran, mask, bytes⟩ := recordNow_holds s kind ea w size aligned false none
  exact ⟨_, _, form room, th, log, made, ⟨gran, mask, fun j inside => (bytes j inside).trans (same j inside)⟩, lsn, spills⟩

section
variable {i : Instr} {s : State} {len n : Nat} {rs ra : SReg} {off : W64} (form : exec i s = sharedStore i len n rs ra off s)
  (has : s.has [ra, rs] = true) (size : n = 8 ∨ n = 4 ∨ n = 1)
include form has size

/-- SST, SSTW and SSTB: in a compute phase; and in an exchange phase at a bad address, appending and merging. -/
theorem exec_sharedStore : let ea := s.reg ra + off
    (s.ctx.phase = .compute → s.th.stall = none → exec i s = .next (trapEntry 6 (w0x i) s)) ∧
    (s.ctx.phase = .exchange → (BadAddress ea n → Refuses i s len ea) ∧
      (¬ BadAddress ea n → s.mergeSeq (ea.extractLsb' 4 44) = none → Appends i s len n ea (s.reg rs) 0 ∧ Fills i s len ea) ∧
      (¬ BadAddress ea n → ∀ q, s.mergeSeq (ea.extractLsb' 4 44) = some q → ∃ t, exec i s = .next t ∧ t.th = s.th.past len ∧
        SameMemory s t ∧ MergesBytes s t q ea n (s.reg rs))) := by
  intro ea
  rw [sharedStore, ready_of_has has] at form
  refine ⟨fun phase fresh => form.trans (exchangeOnly_compute _ phase fresh), fun phase => ?_⟩
  rw [exchangeOnly_exchange _ phase] at form
  refine ⟨fun bad => refuses_of_exec (form.trans (if_pos ((badShared_iff ea n).mpr bad))), fun good alone => ?_, fun good q merges => ?_⟩
  all_goals
    have aligned : ea.toNat % n = 0 := not_not.mp fun unaligned => good (.inr unaligned)
    replace form := form.trans (if_neg (mt (badShared_iff ea n).mp good))
  · rw [alone, Option.isSome_none, if_neg Bool.false_ne_true] at form
    refine ⟨appends_of_exec size aligned (fun _ _ => rfl) fun room => ?_, fills_of_exec form⟩
    rw [form, logWait_room room, State.appendWrite, alone]
  · rw [merges] at form
    exact ⟨_, form, appendWrite_merges_past s ea (s.reg rs) size aligned len merges⟩

end

section
variable {i : Instr} {s : State} {len n : Nat} {kind : BitVec 4} {need : List SReg} {ra : SReg} {b : State → W64}
  (form : exec i s = logAccumulate i len n kind need ra b s) (has : s.has need = true) (size : n = 8 ∨ n = 4)
include form has size

/-- LOGADD and LOGFADD: in a compute phase; and in an exchange phase at a bad address and appending. -/
theorem exec_logAccumulate : let ea := s.reg ra
    (s.ctx.phase = .compute → s.th.stall = none → exec i s = .next (trapEntry 6 (w0x i) s)) ∧
    (s.ctx.phase = .exchange → (BadAddress ea n → Refuses i s len ea) ∧
      (¬ BadAddress ea n → Appends i s len n ea (b s) kind ∧ Fills i s len ea)) := by
  intro ea
  rw [logAccumulate, ready_of_has has] at form
  refine ⟨fun phase fresh => form.trans (exchangeOnly_compute _ phase fresh), fun phase => ?_⟩
  rw [exchangeOnly_exchange _ phase] at form
  refine ⟨fun bad => refuses_of_exec (form.trans (if_pos ((badShared_iff ea n).mpr bad))), fun good => ?_⟩
  have aligned : ea.toNat % n = 0 := not_not.mp fun unaligned => good (.inr unaligned)
  replace form := form.trans (if_neg (mt (badShared_iff ea n).mp good))
  refine ⟨appends_of_exec (size.elim .inl fun four => .inr (.inl four)) aligned (fun j inside => ?_) fun room =>
    form.trans (logWait_room room), fills_of_exec form⟩
  rcases size with rfl | rfl
  · rfl
  · refine BitVec.eq_of_getLsbD_eq fun bit _ => ?_
    simp only [BitVec.getLsbD_extractLsb', if_neg (show ¬ (4 : Nat) = 8 by decide), BitVec.getLsbD_setWidth]
    have low : 8 * j + bit < 32 := by omega
    simp [low, show 8 * j + bit < 64 by omega]

end

/-! ### SSTP (R143) -/

/-- A record and its publication are made in either order: the publication is no part of what the record goes by. -/
theorem spillsTo_publish {s t : State} {r : LogRec} (p : Publication)
    (spills : SpillsTo { s with ids := s.ids + 1, pubs := s.pubs ++ [p] } t r) : SpillsTo s t r := by
  have walk : ({ s with ids := s.ids + 1, pubs := s.pubs ++ [p] } : State).walk = s.walk := by
    funext ctxid kind va
    exact walk_logged s s.cores s.seq (s.ids + 1) (s.pubs ++ [p]) ctxid kind va
  unfold SpillsTo at spills ⊢
  rw [walk] at spills
  exact spills

/-- The publication of an SSTP, without its record yet (R143). -/
def sstpPublication (s : State) (sc : Scope) : Publication :=
  ⟨s.ids, s.focus, scopeSys sc, sc, none, s.focus, s.ctx.launch, true, false, [], none, none, false, 0, 0, 0, 0⟩

/-- The state with an SSTP's publication made. -/
def sstpPublished (s : State) (sc : Scope) : State := s.publish s.focus (scopeSys sc) sc none s.focus s.ctx.launch true false [] none

/-- The state after an SSTP at an address that finds log space: its publication made and its record appended. -/
def sstpStored (s : State) (sc : Scope) (rs : SReg) (a : W64) : State :=
  let u := sstpPublished s sc
  (u.append 0 (a.extractLsb' 4 44) (granMask (a.extractLsb' 0 4).toNat 8) ((u.reg rs).setWidth 128 <<< (8 * (a.extractLsb' 0 4).toNat))
    true (some s.ids)).past 4

section
variable {s : State} {sc : Scope} {rs ra : SReg} (has : s.has [ra, rs] = true)
include has

theorem exec_sstp_eq : exec (.sstp sc rs ra) s = exchangeOnly (.sstp sc rs ra) s fun s =>
    if badShared (s.reg ra) 8 then .next ((s.refuseRecord (s.reg ra)).past 4)
    else logWait 4 [(s.reg ra, 0)] (s.reg ra) s fun u => .next (sstpStored u sc rs (s.reg ra)) := by
  change execSstp sc rs ra s = _
  exact ready_of_has has _

theorem exec_sstp_compute (phase : s.ctx.phase = .compute) (fresh : s.th.stall = none) :
    exec (.sstp sc rs ra) s = .next (trapEntry 6 (w0x (.sstp sc rs ra)) s) :=
  (exec_sstp_eq has).trans (exchangeOnly_compute _ phase fresh)

variable (phase : s.ctx.phase = .exchange)
include phase

theorem exec_sstp_bad (bad : BadAddress (s.reg ra) 8) : Refuses (.sstp sc rs ra) s 4 (s.reg ra) :=
  refuses_of_exec ((exec_sstp_eq has).trans ((exchangeOnly_exchange _ phase).trans (if_pos ((badShared_iff _ 8).mpr bad))))

variable (good : ¬ BadAddress (s.reg ra) 8)
include good

theorem exec_sstp_good : exec (.sstp sc rs ra) s =
    logWait 4 [(s.reg ra, 0)] (s.reg ra) s fun u => .next (sstpStored u sc rs (s.reg ra)) :=
  (exec_sstp_eq has).trans ((exchangeOnly_exchange _ phase).trans (if_neg (mt (badShared_iff _ 8).mp good)))

theorem exec_sstp_room (room : 0 < s.logRoom) : ∃ (t : State) (r : LogRec) (p : Publication),
    exec (.sstp sc rs ra) s = .next t ∧ t.th = s.th.past 4 ∧ t.cur.log = s.cur.log ++ [r] ∧ MadeRecord s r 0 true (some s.ids) ∧ HoldsBytes r (s.reg ra) 8 (s.reg rs) ∧ SpillsTo s t r ∧
    t.pubs = s.pubs ++ [p] ∧ p.id = s.ids ∧ p.source = s.focus ∧ p.sys = (sc == .sys) ∧ p.scope = sc ∧ p.obj = none ∧ p.drops = true ∧
    p.app = none := by
  have aligned : (s.reg ra).toNat % 8 = 0 := not_not.mp fun unaligned => good (.inr unaligned)
  let u := sstpPublished s sc
  have value : u.reg rs = s.reg rs := rfl
  obtain ⟨th, log, made, -, spills⟩ := append_past u 0 ((s.reg ra).extractLsb' 4 44) (granMask ((s.reg ra).extractLsb' 0 4).toNat 8)
    ((u.reg rs).setWidth 128 <<< (8 * ((s.reg ra).extractLsb' 0 4).toNat)) true (some s.ids) 4
  have holds := recordNow_holds u 0 (s.reg ra) (u.reg rs) (.inl rfl) aligned true (some s.ids)
  refine ⟨sstpStored s sc rs (s.reg ra), _, sstpPublication s sc, (exec_sstp_good has phase good).trans (logWait_room room), th, log, made,
    value ▸ holds, spillsTo_publish _ spills, stored_pubs u _ _, rfl, rfl, ?_, rfl, rfl, rfl, rfl⟩
  cases sc <;> rfl

end

/-! ### LOG_FULL (R142) -/

theorem exec_logFull {s : State} {len : Nat} {rd : SReg} {since : Nat} {ea : W64} {lanes : List (W64 × W32)}
    (stall : s.th.stall = some ⟨len, rd, .log since ea lanes⟩) (late : since + s.ctx.logcap.toNat ≤ s.now) :
    exec .logFull s = .next (trapEntry 7 ea s) := by
  change execLogFull s = _
  rw [execLogFull, stall]
  exact if_pos late

/-- Settles O21: each form is the shared operation at its length, size and address. -/
theorem sharedStores : Obligations.SharedStores := by
  unfold Obligations.SharedStores
  refine ⟨mergeSeq_eq_some_iff, fun s rs ra imm lit has => ?_, fun s ra lit has => ?_, fun s sc rs ra has => ?_,
    fun s len rd since ea lanes stall late => exec_logFull stall late⟩
  · exact ⟨exec_sharedStore rfl has (.inl rfl), exec_sharedStore rfl has (.inl rfl), exec_sharedStore rfl has (.inr (.inl rfl)),
      exec_sharedStore rfl has (.inr (.inl rfl)), exec_sharedStore rfl has (.inr (.inr rfl)), exec_sharedStore rfl has (.inr (.inr rfl)),
      exec_logAccumulate (b := fun s => s.reg rs) rfl has (.inl rfl), exec_logAccumulate (b := fun s => s.reg rs) rfl has (.inr rfl)⟩
  · exact ⟨exec_logAccumulate (b := fun _ => lit) rfl has (.inl rfl), exec_logAccumulate (b := fun _ => lit) rfl has (.inr rfl)⟩
  · exact ⟨exec_sstp_compute has, fun phase => ⟨exec_sstp_bad has phase, fun good => ⟨fills_of_exec (exec_sstp_good has phase good),
      exec_sstp_room has phase good⟩⟩⟩

end Sys2Proof.Laws

/-!
Shared loads (R128, R129, R146, R306, R309, R313, R315): at issue, the records that forward to them, what they come to when they are
performed, their return, and obligation O22.
-/

namespace Sys2Proof.Laws

open Sys2Proof Sys2Proof.Machine

/-! ## At issue (R128) -/

/-- The value that a failed load gives (R18). -/
def loadPoison : LoadKind → W64
  | .sld | .sldh => 0xDEADDEADDEADDEAD
  | .sldw => 0xDEADDEAD

theorem poisonOf_bytes (kind : LoadKind) : poisonOf kind.bytes = loadPoison kind := by cases kind <;> rfl

/-- What a load notes of the own records that cover a byte: the youngest first (R129). -/
def notedFor (s : State) (a : Nat) : List (Nat × Byte) :=
  ((s.cur.log.filter fun r => r.launch == s.ctx.launch && r.kind == 0 && r.gran.toNat == a / 16 && r.mask.getLsbD (a % 16)).map
    fun r => (r.seq, r.byte (a % 16))).reverse

/-- The load that the issuing thread makes now. -/
def loadNow (s : State) (kind : LoadKind) (rd : SReg) (ea : W64) : SharedLoad :=
  ⟨s.seq, s.focus, s.ctx.launch, s.thr.val, s.th.inc, rd, kind, ea, s.ctx.ctxid, (s.die (dieOf s.focus)).inc,
    (List.range kind.bytes).map (fun j => notedFor s (ea.toNat + j)), s.th.fenceL, none⟩

section
variable {i : Instr} {s : State} {len : Nat} {kind : LoadKind} {rd ra : SReg} {off : W64}
  (form : exec i s = sharedLoad i len kind rd ra off s) (has : s.has [ra, rd] = true)
include form has

theorem exec_sharedLoad_compute (phase : s.ctx.phase = .compute) (fresh : s.th.stall = none) : exec i s = .next (trapEntry 6 (w0x i) s) :=
  form.trans ((ready_of_has has _).trans (exchangeOnly_compute _ phase fresh))

variable (phase : s.ctx.phase = .exchange)
include phase

theorem exec_sharedLoad_bad (bad : BadAddress (s.reg ra + off) kind.bytes) : exec i s =
    .next ((s.setCtx { s.ctx with accerr := true }).setTh ((s.th.setReg rd (loadPoison kind)).past len)) := by
  have goes : exec i s = result len rd (poisonOf kind.bytes) s.setAccerr :=
    form.trans ((ready_of_has has _).trans ((exchangeOnly_exchange _ phase).trans (if_pos ((badShared_iff _ _).mpr bad))))
  rw [goes, result, poisonOf_bytes, show s.setAccerr.th = s.th from th_setCtx s _]
  rfl

theorem exec_sharedLoad_good (good : ¬ BadAddress (s.reg ra + off) kind.bytes) : exec i s =
    .next (({ s with seq := s.seq + 1, loads := s.loads ++ [loadNow s kind rd (s.reg ra + off)] } : State).setTh
      ((s.th.expect rd).past len)) :=
  form.trans ((ready_of_has has _).trans ((exchangeOnly_exchange _ phase).trans (if_neg (mt (badShared_iff _ _).mp good))))

end

theorem loadNow_fwd (s : State) (kind : LoadKind) (rd : SReg) (ea : W64) {j : Nat} (inside : j < kind.bytes) :
    (loadNow s kind rd ea).fwd[j]? = some (notedFor s (ea.toNat + j)) := by
  rw [loadNow, List.getElem?_map, List.getElem?_range inside]
  rfl

/-! ## The records that forward (R129) -/

theorem stillForward_getElem? (s : State) (c : Nat) (kind : LoadKind) {fwd : List (List (Nat × Byte))} {f : List (Nat × Byte)} {j : Nat}
    (noted : fwd[j]? = some f) : (s.stillForward c kind fwd)[j]? =
      some ((f.find? fun x => (s.core c).log.any fun r => r.seq == x.1 && s.forwards c kind r).map (·.2)) := by
  rw [State.stillForward, List.getElem?_map, noted]
  rfl

theorem forwards_iff (s : State) (c : Nat) (kind : LoadKind) (r : LogRec) : s.forwards c kind r = true ↔ r.pub = none ∨
    ∃ p, s.pubOf r = some p ∧ (p.applied = false ∨ (r.mayLag = true ∧ p.lagG ≠ 0) ∨
      (kind = .sldh ∧ r.onRepl = true ∧ p.lagD.getLsbD (dieOf c) = true)) := by
  unfold State.forwards
  cases published : r.pub with
  | none => simp
  | some id =>
    cases s.pubOf r with
    | none => simp
    | some p => simp [or_assoc, and_assoc]

/-! ## The value of the bytes that a load has read -/

theorem leNat_lt (l : List Byte) : leNat l < 2 ^ (8 * l.length) := by
  induction l with
  | nil => exact Nat.one_pos
  | cons b l ih =>
    have := b.isLt
    rw [leNat, List.length_cons, Nat.mul_succ, Nat.pow_add]
    omega

/-- A value has the bytes that it is made of, and zeros above them. -/
theorem extractLsb'_leNat_map (n : Nat) (f : Nat → Byte) {j : Nat} (inside : j < 8) :
    (BitVec.ofNat 64 (leNat ((List.range n).map f))).extractLsb' (8 * j) 8 = if j < n then f j else 0 := by
  have length : ((List.range n).map f).length = n := by rw [List.length_map, List.length_range]
  split
  next read =>
    rw [extractLsb'_leNat _ (length.symm ▸ read) (by omega), List.getElem_map, List.getElem_range]
  next beyond =>
    refine BitVec.eq_of_getLsbD_eq fun bit _ => ?_
    have small : leNat ((List.range n).map f) < 2 ^ (8 * j + bit) :=
      (leNat_lt _).trans_le (Nat.pow_le_pow_right Nat.two_pos (by omega))
    rw [BitVec.getLsbD_extractLsb', BitVec.getLsbD_ofNat, Nat.testBit_lt_two_pow small, Bool.and_false, Bool.and_false]
    exact BitVec.getLsbD_zero.symm

theorem loadPoison_byte (kind : LoadKind) {j : Nat} (inside : j < 8) : (loadPoison kind).extractLsb' (8 * j) 8 =
    if j < kind.bytes then (loadPoison kind).extractLsb' (8 * j) 8 else 0 := by
  split
  next => rfl
  next beyond =>
    cases kind with
    | sldw =>
      have above : 4 ≤ j := Nat.not_lt.mp beyond
      interval_cases j <;> decide
    | _ => exact absurd inside beyond

/-! ## Arrival (R128, R313, R306) -/

/-- The state, with ACCERR set in the running context where a load has failed. -/
def marked (fails : Bool) (s : State) : State := if fails then s.setAccerr else s

section
variable (fails : Bool) (s : State)

theorem marked_focus : (marked fails s).focus = s.focus := by cases fails <;> rfl
theorem marked_thr : (marked fails s).thr = s.thr := by cases fails <;> rfl
theorem marked_now : (marked fails s).now = s.now := by cases fails <;> rfl
theorem marked_loads : (marked fails s).loads = s.loads := by cases fails <;> rfl
theorem marked_freeWord (j : Nat) : (marked fails s).freeWord j = s.freeWord j := by cases fails <;> rfl
theorem marked_loadAhead (c d n : Nat) : (marked fails s).loadAhead c d n = s.loadAhead c d n := by cases fails <;> rfl

theorem marked_ctx : (marked fails s).ctx = { s.ctx with accerr := s.ctx.accerr || fails } := by
  cases fails with
  | false => rw [Bool.or_false]; rfl
  | true => rw [Bool.or_true]; exact ctx_setCtx s _

theorem marked_th : (marked fails s).th = s.th := by
  rw [State.th, marked_ctx, marked_thr]
  rfl

theorem marked_byteAt : (marked fails s).byteAt = s.byteAt := by
  cases fails with
  | false => rfl
  | true => exact byteAt_setCtx s _

end

/-- The load is no longer outstanding, and its value stands in its register. -/
def Arrived (s t : State) (l : SharedLoad) (w : W64) : Prop :=
  t.loads = s.loads.filter (fun m => m.seq != l.seq) ∧ t.th.has l.rd = true ∧ t.reg l.rd = w

/-- The state in which a load's value is given to the thread that waits for it. -/
def given (s : State) (l : SharedLoad) (w : W64) : State :=
  ({ s with loads := s.loads.filter fun m => m.seq != l.seq } : State).deliverTo l.core l.launch l.thr l.inc l.rd w

/-- A load of the issuing thread that is still there: at this position among the outstanding ones, of a die that has not been reset. -/
structure OwnLoad (s : State) (pos : Nat) (l : SharedLoad) : Prop where
  found : s.loads[pos]? = some l
  core : l.core = s.focus
  runs : s.ctx.of l.launch = true
  thr : l.thr = s.thr.val
  live : s.th.live = true
  inc : s.th.inc = l.inc
  die : (s.die (dieOf l.core)).inc = l.inc8
  rd : l.rd ≠ 0

section
variable {s : State} {pos : Nat} {l : SharedLoad} (own : OwnLoad s pos l)
include own

theorem given_arrived {b : State} (only : BehindOnly s b) (fails : Bool) (w : W64) : let t := given (marked fails b) l w
    Arrived s t l w ∧ t.ctx.accerr = (b.ctx.accerr || fails) ∧ t.byteAt = b.byteAt := by
  intro t
  let u : State := { marked fails b with loads := (marked fails b).loads.filter fun m => m.seq != l.seq }
  have focus : u.focus = l.core := (marked_focus fails b).trans (only.focus.trans own.core.symm)
  have thr : u.thr.val = l.thr := (congrArg Fin.val ((marked_thr fails b).trans only.thr)).trans own.thr.symm
  have ctx : u.ctx = { b.ctx with accerr := b.ctx.accerr || fails } := marked_ctx fails b
  have th : u.th = s.th := (marked_th fails b).trans only.th
  have loads : u.loads = s.loads.filter fun m => m.seq != l.seq := by
    rw [← only.loads, ← marked_loads fails b]
  have runs : u.ctx.of l.launch = true := by
    rw [ctx]
    exact (congrArg (Ctx.of · l.launch) only.ctx).trans own.runs
  have made : t = u.setTh (u.th.arrive l.rd w) := by
    have arrives := deliverTo_own runs ((congrArg Thread.live th).trans own.live) l.rd w
    rwa [focus, thr, congrArg Thread.inc th, own.inc] at arrives
  rw [made, arrive_of_ne_zero _ _ own.rd]
  refine ⟨⟨loads, ?_, ?_⟩, ?_, ?_⟩
  · rw [th_setTh]
    exact has_setReg_same ..
  · rw [State.reg, th_setTh]
    exact reg_setReg_same _ w own.rd
  · rw [ctx_setTh]
    exact (congrArg Ctx.accerr ctx :)
  · rw [byteAt_setTh]
    exact marked_byteAt fails b

theorem accerrOf_own {b : State} (only : BehindOnly s b) : b.accerrOf l.core l.launch = marked true b := by
  have runs : (b.core b.focus).run.of l.launch = true := (congrArg (Ctx.of · l.launch) only.ctx).trans own.runs
  rw [State.accerrOf, own.core, ← only.focus, updImage_of_running runs]
  rfl

end

/-! ## SHARED_LOAD_RETURN (R128, R151) -/

section
variable {s : State} {pos : Nat} {l : SharedLoad} (own : OwnLoad s pos l)
include own

/-- A load that has been performed: its data is lost, waits or arrives. -/
theorem exec_sharedLoadReturn_got {w : W64} {tick d : Nat} (got : l.got = some (w, tick, d)) : exec (.sharedLoadReturn pos) s =
    if s.cutOff d (dieOf l.core) then .next (given (marked true s) l (loadPoison l.kind))
    else if s.routeHeld d (dieOf l.core) || s.loadAhead l.core d tick then .next s
    else .next (given (marked false s) l w) := by
  change execSharedLoadReturn pos s = _
  simp only [execSharedLoadReturn, own.found, got, poisonOf_bytes, accerrOf_own own (.refl s)]
  exact if_neg (not_not.mpr own.die)

/-- A load that waits for another, for its page or for its home. -/
theorem exec_sharedLoadReturn_waits {b : State} (got : l.got = none) (waits : s.performLoad l = (none, b)) :
    exec (.sharedLoadReturn pos) s = .next b := by
  change execSharedLoadReturn pos s = _
  simp only [execSharedLoadReturn, own.found, got, waits]
  exact if_neg (not_not.mpr own.die)

/-- A load that is performed now: its data arrives at once or later. -/
theorem exec_sharedLoadReturn_performed {b : State} {w : W64} {d : Nat} (got : l.got = none)
    (performed : s.performLoad l = (some (some (w, d)), b)) : exec (.sharedLoadReturn pos) s =
    if (b.freeWord 5).getLsbD 0 || b.loadAhead l.core d b.now then
      .next { b with loads := b.loads.map fun m => if m.seq = l.seq then { m with got := some (w, b.now, d) } else m }
    else .next (given b l w) := by
  change execSharedLoadReturn pos s = _
  simp only [execSharedLoadReturn, own.found, got, performed]
  exact if_neg (not_not.mpr own.die)

end

theorem loadAhead_iff (s : State) (c d n : Nat) : s.loadAhead c d n = true ↔
    8 ≤ d ∧ ∃ m ∈ s.loads, m.core = c ∧ ∃ v u, m.got = some (v, u, d) ∧ u < n := by
  simp only [State.loadAhead, Bool.and_eq_true, decide_eq_true_eq, List.any_eq_true, beq_iff_eq, Option.any_eq_true]
  refine and_congr_right fun _ => exists_congr fun m => and_congr_right fun _ => and_congr_right fun _ => ?_
  constructor
  · rintro ⟨⟨v, u, f⟩, got, rfl, before⟩
    exact ⟨v, u, got, before⟩
  · rintro ⟨v, u, got, before⟩
    exact ⟨(v, u, d), got, rfl, before⟩

/-- The load is performed with the bytes `v`, sent by die `d`: its value arrives now or, by a free choice, later. -/
def Gives (s : State) (pos : Nat) (l : SharedLoad) (fails : Bool) (d : Nat) (v : Nat → Byte) : Prop :=
  ∃ t w, exec (.sharedLoadReturn pos) s = .next t ∧
    (∀ j < 8, w.extractLsb' (8 * j) 8 = if j < l.kind.bytes then v j else 0) ∧ (fails = true → t.ctx.accerr = true) ∧
    (if (s.freeWord 5).getLsbD 0 || s.loadAhead l.core d s.now then
      t.th = s.th ∧ t.loads = s.loads.map fun m => if m.seq = l.seq then { m with got := some (w, s.now, d) } else m
    else Arrived s t l w) ∧
    ((∀ p ∈ s.pubs, p.lagG = 0 ∧ p.lagD = 0) → SameMemory s t)

section
variable {s : State} {pos : Nat} {l : SharedLoad} (own : OwnLoad s pos l) (got : l.got = none)
include own got

theorem gives_of_performed {b : State} (only : BehindOnly s b) (home : (∀ p ∈ s.pubs, p.lagG = 0 ∧ p.lagD = 0) → b.home = s.home)
    {fails : Bool} {w : W64} {d : Nat} {v : Nat → Byte} (performed : s.performLoad l = (some (some (w, d)), marked fails b))
    (bytes : ∀ j < 8, w.extractLsb' (8 * j) 8 = if j < l.kind.bytes then v j else 0) : Gives s pos l fails d v := by
  have goes := exec_sharedLoadReturn_performed own got performed
  rw [marked_freeWord, marked_loadAhead, marked_now, marked_loads, only.freeWord, only.loadAhead, only.now, only.loads] at goes
  obtain ⟨arrived, accerr, same⟩ := given_arrived own only fails w
  have accerr_of {x : Bool} (eq : x = (b.ctx.accerr || fails)) (failed : fails = true) : x = true := by
    rw [eq, failed, Bool.or_true]
  split at goes
  next later =>
    refine ⟨_, w, goes, bytes, accerr_of ?_, ?_, fun settled => sameMemory_of_byteAt ?_⟩
    · exact (congrArg Ctx.accerr (marked_ctx fails b) :)
    · rw [if_pos later]
      exact ⟨(marked_th fails b).trans only.th, rfl⟩
    · exact (marked_byteAt fails b).trans (only.byteAt (home settled))
  next now =>
    refine ⟨_, w, goes, bytes, accerr_of accerr, ?_, fun settled => sameMemory_of_byteAt (same.trans (only.byteAt (home settled)))⟩
    rw [if_neg now]
    exact arrived

end

/-! ## A line filled from home memory (R130) -/

theorem find?_foldl_put {α : Type} (m : PMap α) (line : Nat) (f : Nat → α) {n j : Nat} (inside : j < n) :
    PMap.find? ((List.range n).foldl (fun m j => PMap.put m (line + j) (f j)) m) (line + j) = some (f j) := by
  induction n with
  | zero => exact absurd inside (Nat.not_lt_zero j)
  | succ n ih =>
    rw [List.range_succ, List.foldl_append, List.foldl_cons, List.foldl_nil]
    by_cases last : j = n
    · rw [last, PMap.find?_put_same]
    · rw [PMap.find?_put_other _ (by omega), ih (by omega)]

theorem newest_key {l : List ViewByte} {key : Nat} (copies : ∀ c ∈ l, c.key = key) {b : ViewByte} (base : b.key = key) :
    (newest l b).key = key := by
  refine List.foldlRecOn (motive := fun x : ViewByte => x.key = key) l _ base fun x same c member => ?_
  split
  · exact copies c member
  · exact same

/-- A byte of a line that has been filled: the newest of the copies that the view held of it and of home memory's. -/
theorem viewByte_refill (s : State) (k v key size : Nat) (exact_ : Bool) {j : Nat} (inside : j < 64) :
    ((s.refill k v key size exact_).cluster k).viewByte (v / 64 * 64 + j) (key + j) = some
      { newest ((s.cluster k).copies (key + j)) ⟨s.home.read (key + j), s.homeOrd key exact_, key + j, size⟩ with size := size } := by
  have named : (newest ((s.cluster k).copies (key + j)) ⟨s.home.read (key + j), s.homeOrd key exact_, key + j, size⟩).key = key + j :=
    newest_key (fun c member => eq_of_beq (List.mem_filter.mp member).2) rfl
  rw [State.refill, cluster_setCluster_same, Cluster.viewByte, find?_foldl_put _ _ _ inside]
  exact if_pos (beq_iff_eq.mpr named)

/-- A place of a line, from the line's first one. -/
theorem viewKey_line (asid : BitVec 12) (va : Nat) (j : Nat) : viewKey asid va + j = viewKey asid va / 64 * 64 + (va % 64 + j) := by
  rw [viewKey]
  omega

theorem key_line (e : TlbEntry) (va j : Nat) : e.key va + j = e.key (va / 64 * 64) + (va % 64 + j) := by
  have page : 2 ^ (16 + pageShift e.size) = 64 * 2 ^ (10 + pageShift e.size) := by
    rw [show 16 + pageShift e.size = 6 + (10 + pageShift e.size) by omega, pow_add]
    rfl
  rw [TlbEntry.key, TlbEntry.key, page, Nat.mod_mul, Nat.mul_comm (va / 64), Nat.mul_mod_mul_left]
  omega

/-- The bytes of an aligned load lie in one line. -/
theorem line_fits {kind : LoadKind} {va j : Nat} (aligned : va % kind.bytes = 0) (inside : j < kind.bytes) : va % 64 + j < 64 := by
  cases kind <;> simp only [LoadKind.bytes] at aligned inside <;> omega

/-! ## What a load comes to when it is performed (R128, R309, R313, R315) -/

/-- What a load's translation comes to. -/
def loadSought (s : State) (l : SharedLoad) : Translated × State :=
  s.translate (clusterOf l.core) (.core l.core) l.seq l.ctxid l.launch .load l.ea

/-- The place of home memory that a load reads: of a page with replicas, for an SLDH, that of the die's. -/
def loadKey (s : State) (l : SharedLoad) (e : TlbEntry) : Nat :=
  if l.kind = .sldh ∧ e.repl = true then s.replicaKey (dieOf l.core) (e.key l.ea.toNat) else e.key l.ea.toNat

/-- The byte that an own record forwards to byte `j` of a load. -/
def forwardedByte (s : State) (l : SharedLoad) (j : Nat) : Option Byte :=
  (((loadSought s l).2.stillForward l.core l.kind l.fwd)[j]?).getD none

/-- The byte that the cluster's view holds for byte `j` of a load. -/
def heldByte (s : State) (l : SharedLoad) (e : TlbEntry) (j : Nat) : Option ViewByte :=
  (s.cluster (clusterOf l.core)).viewByte (viewKey (s.asidOf l.ctxid) l.ea.toNat + j) (e.key l.ea.toNat + j)

/-- Whether a load takes a byte from a home (R128). -/
def readsAway (u : State) (l : SharedLoad) (e : TlbEntry) : Bool :=
  l.kind == .sldh || u.viewMisses (clusterOf l.core) (u.asidOf l.ctxid) e l.ea.toNat l.kind.bytes (u.stillForward l.core l.kind l.fwd)

/-- What a load that has been translated reads, from a home or from the cluster's view. -/
def loadRead (u : State) (l : SharedLoad) (e : TlbEntry) : Performed × State :=
  match l.kind with
  | .sldh => u.homeLoad (dieOf l.core) e l.ea.toNat l.kind.bytes (u.stillForward l.core l.kind l.fwd)
  | .sld | .sldw =>
    u.viewLoad (clusterOf l.core) (u.asidOf l.ctxid) e l.ea.toNat l.kind.bytes (u.stillForward l.core l.kind l.fwd)

section
variable {s : State} {l : SharedLoad}

theorem loadSought_only : TranslatesOnly s (loadSought s l).2 := translate_only ..

theorem performLoad_before (before : s.loadsBefore l.core l.launch l.thr l.inc l.after = true) : s.performLoad l = (none, s) := if_pos before

variable (free : s.loadsBefore l.core l.launch l.thr l.inc l.after = false)
include free

theorem performLoad_denied (denied : (loadSought s l).1 = .denied) : s.performLoad l = (some (some (poisonOf l.kind.bytes, dieOf l.core)),
    ((loadSought s l).2.forget (clusterOf l.core) (.core l.core) l.seq .load).accerrOf l.core l.launch) := by
  have pair : s.translate (clusterOf l.core) (.core l.core) l.seq l.ctxid l.launch .load l.ea = (.denied, (loadSought s l).2) :=
    Prod.ext denied rfl
  simp only [State.performLoad, free, pair]
  rfl

variable {e : TlbEntry} (hit : (loadSought s l).1 = .hit e)
include hit

theorem performLoad_hit : s.performLoad l = let u := (loadSought s l).2
    let d := dieOf l.core
    if s.linkDown d (loadKey s l e) then (some (some (poisonOf l.kind.bytes, d)), u.accerrOf l.core l.launch)
    else if readsAway u l e && s.homeHeld d (loadKey s l e) then (none, u)
    else
      let v := (loadRead u l e).2
      match (loadRead u l e).1 with
      | .bytes bs => (some (some (BitVec.ofNat 64 (leNat bs), if readsAway u l e then v.homePort d (loadKey s l e) else d)), v)
      | .consumed key => (some none, v.consumeLine l.core key) := by
  have pair : s.translate (clusterOf l.core) (.core l.core) l.seq l.ctxid l.launch .load l.ea = (.hit e, (loadSought s l).2) :=
    Prod.ext hit rfl
  have only := (loadSought_only (s := s) (l := l)).behind
  have key : (if l.kind == .sldh then (loadSought s l).2.sldhKey (dieOf l.core) e l.ea.toNat else e.key l.ea.toNat) = loadKey s l e := by
    rw [State.sldhKey, only.replicaKey, loadKey]
    split_ifs <;> simp_all
  simp only [State.performLoad, free, pair, key, only.linkDown, only.homeHeld, Bool.false_eq_true, if_false]
  rfl

theorem performLoad_down (down : s.linkDown (dieOf l.core) (loadKey s l e) = true) : s.performLoad l =
    (some (some (poisonOf l.kind.bytes, dieOf l.core)), (loadSought s l).2.accerrOf l.core l.launch) :=
  (performLoad_hit free hit).trans (if_pos down)

variable (up : s.linkDown (dieOf l.core) (loadKey s l e) = false)
include up

theorem performLoad_held (away : readsAway (loadSought s l).2 l e = true) (held : s.homeHeld (dieOf l.core) (loadKey s l e) = true) :
    s.performLoad l = (none, (loadSought s l).2) :=
  (performLoad_hit free hit).trans ((if_neg (ne_true_of_eq_false up)).trans (if_pos (Bool.and_eq_true_iff.mpr ⟨away, held⟩)))

theorem performLoad_bytes {bs : List Byte} {v : State} (only : BehindOnly s v)
    (near : readsAway (loadSought s l).2 l e = true → s.homeHeld (dieOf l.core) (loadKey s l e) = false)
    (read : loadRead (loadSought s l).2 l e = (.bytes bs, v)) : s.performLoad l = (some (some (BitVec.ofNat 64 (leNat bs),
      if readsAway (loadSought s l).2 l e then s.homePort (dieOf l.core) (loadKey s l e) else dieOf l.core)), v) := by
  have goes : ¬ (readsAway (loadSought s l).2 l e && s.homeHeld (dieOf l.core) (loadKey s l e)) = true := fun held => by
    obtain ⟨away, held⟩ := Bool.and_eq_true_iff.mp held
    exact absurd held (ne_true_of_eq_false (near away))
  have down : ¬ s.linkDown (dieOf l.core) (loadKey s l e) = true := ne_true_of_eq_false up
  simp only [performLoad_hit free hit, if_neg down, if_neg goes, read, only.homePort]

end

/-! ## The bytes that a load reads (R128, R130) -/

theorem shown_behind (s : State) (saw : Publication → Bool) : BehindOnly s (s.shown saw) := settlePubs_behind ..

theorem shown_eq_self {s : State} (settled : ∀ p ∈ s.pubs, p.lagG = 0 ∧ p.lagD = 0) (saw : Publication → Bool) : s.shown saw = s :=
  settlePubs_eq_self (fun p member => (settled p member).1) (fun p member => (settled p member).2) _

theorem homeLoad_clean {u : State} {d va n : Nat} {e : TlbEntry} (clean : u.poisonedIn (u.sldhKey d e va) n = false)
    (fwd : List (Option Byte)) : ∃ saw, u.homeLoad d e va n fwd =
      (.bytes ((List.range n).map fun j => ((fwd[j]?).getD none).getD (u.home.read (u.sldhKey d e va + j))), u.shown saw) := by
  have read : u.homeLoad d e va n fwd = _ := if_neg (ne_true_of_eq_false clean)
  refine ⟨_, read.trans (Prod.ext (congrArg Performed.bytes (List.map_congr_left fun j _ => ?_)) rfl)⟩
  dsimp only
  cases (fwd[j]?).getD none <;> rfl

/-- The byte that fills a view's place: that of home memory, or a newer copy of it that the view holds (R130). -/
def filledByte (s : State) (k : Nat) (e : TlbEntry) (va j : Nat) : ViewByte :=
  newest ((s.cluster k).copies (e.key va + j))
    ⟨s.home.read (e.key va + j), s.homeOrd (e.key (va / 64 * 64)) (e.mca || e.repl), e.key va + j, e.size⟩

section
variable {u : State} {k va n : Nat} {asid : BitVec 12} {e : TlbEntry} {fwd : List (Option Byte)}
  (fits : (u.cluster k).viewLines.length ≤ 32768)
include fits

theorem viewLoad_held (held : u.viewMisses k asid e va n fwd = false) : ∃ saw, u.viewLoad k asid e va n fwd =
    (.bytes ((List.range n).map fun j => ((fwd[j]?).getD none).getD
      ((((u.cluster k).viewByte (viewKey asid va + j) (e.key va + j)).map (·.val)).getD 0)), u.shown saw) := by
  simp only [State.viewLoad, trimView_eq_self fits, held, Bool.false_and, Bool.false_eq_true, if_false]
  refine ⟨_, Prod.ext (congrArg Performed.bytes (List.map_congr_left fun j _ => ?_)) rfl⟩
  cases (fwd[j]?).getD none <;> rfl

theorem viewLoad_missed (missed : u.viewMisses k asid e va n fwd = true) (clean : u.poison.contains (e.key (va / 64 * 64)) = false)
    (line : ∀ j < n, va % 64 + j < 64) : ∃ saw, u.viewLoad k asid e va n fwd =
    (.bytes ((List.range n).map fun j => ((fwd[j]?).getD none).getD (filledByte u k e va j).val),
      (u.refill k (viewKey asid va) (e.key (va / 64 * 64)) e.size (e.mca || e.repl)).shown saw) := by
  simp only [State.viewLoad, trimView_eq_self fits, missed, clean, Bool.and_false, Bool.false_eq_true, if_false, if_true]
  refine ⟨_, Prod.ext (congrArg Performed.bytes (List.map_congr_left fun j inside => ?_)) rfl⟩
  rw [viewKey_line, key_line, viewByte_refill _ _ _ _ _ _ (line j (List.mem_range.mp inside)), ← key_line]
  cases (fwd[j]?).getD none <;> rfl

end

section
variable {s : State} {l : SharedLoad} {e : TlbEntry}

theorem loadRead_home (home : l.kind = .sldh) (clean : s.poisonedIn (loadKey s l e) 8 = false) : ∃ saw,
    loadRead (loadSought s l).2 l e = (.bytes ((List.range l.kind.bytes).map fun j =>
      (forwardedByte s l j).getD (s.home.read (loadKey s l e + j))), (loadSought s l).2.shown saw) := by
  have only := loadSought_only (s := s) (l := l)
  have key : (loadSought s l).2.sldhKey (dieOf l.core) e l.ea.toNat = loadKey s l e := by
    rw [State.sldhKey, only.behind.replicaKey, loadKey]
    simp only [home, true_and]
  have size : l.kind.bytes = 8 := by rw [home]; rfl
  have reads : loadRead (loadSought s l).2 l e = (loadSought s l).2.homeLoad (dieOf l.core) e l.ea.toNat l.kind.bytes
      ((loadSought s l).2.stillForward l.core l.kind l.fwd) := by
    rw [loadRead, home]
  obtain ⟨saw, read⟩ := homeLoad_clean (u := (loadSought s l).2) (n := l.kind.bytes) (by rw [key, size, only.poisonedIn, clean])
    ((loadSought s l).2.stillForward l.core l.kind l.fwd)
  rw [key, only.home] at read
  exact ⟨saw, reads.trans read⟩

/-- Whether a byte of the load is neither forwarded nor in the view. -/
def Misses (s : State) (l : SharedLoad) (e : TlbEntry) : Prop := ∃ j < l.kind.bytes, forwardedByte s l j = none ∧ heldByte s l e j = none

theorem viewMisses_iff : (loadSought s l).2.viewMisses (clusterOf l.core) (s.asidOf l.ctxid) e l.ea.toNat l.kind.bytes
    ((loadSought s l).2.stillForward l.core l.kind l.fwd) = true ↔ Misses s l e := by
  have only := loadSought_only (s := s) (l := l)
  simp only [State.viewMisses, List.any_eq_true, List.mem_range, Bool.and_eq_true, Option.isNone_iff_eq_none, Cluster.viewByte, only.view]
  rfl

theorem loadRead_view (view : l.kind ≠ .sldh) : loadRead (loadSought s l).2 l e =
    (loadSought s l).2.viewLoad (clusterOf l.core) (s.asidOf l.ctxid) e l.ea.toNat l.kind.bytes
      ((loadSought s l).2.stillForward l.core l.kind l.fwd) := by
  rw [← (loadSought_only (s := s) (l := l)).asidOf, loadRead]
  cases kind : l.kind with
  | sldh => exact absurd kind view
  | _ => rfl

theorem readsAway_iff (view : l.kind ≠ .sldh) : readsAway (loadSought s l).2 l e = true ↔ Misses s l e := by
  rw [readsAway, beq_eq_false_iff_ne.mpr view, Bool.false_or, (loadSought_only (s := s) (l := l)).asidOf, viewMisses_iff]

variable (view : l.kind ≠ .sldh) (fits : (s.cluster (clusterOf l.core)).viewLines.length ≤ 32768)
include view fits

theorem loadRead_held (found : ¬ Misses s l e) : ∃ saw, loadRead (loadSought s l).2 l e =
    (.bytes ((List.range l.kind.bytes).map fun j => (forwardedByte s l j).getD (((heldByte s l e j).map (·.val)).getD 0)),
      (loadSought s l).2.shown saw) := by
  have only := loadSought_only (s := s) (l := l)
  have room : ((loadSought s l).2.cluster (clusterOf l.core)).viewLines.length ≤ 32768 := by rwa [Cluster.viewLines, only.view]
  obtain ⟨saw, read⟩ := viewLoad_held room (eq_false_of_ne_true (mt viewMisses_iff.mp found))
  simp only [Cluster.viewByte, only.view] at read
  exact ⟨saw, (loadRead_view view).trans read⟩

theorem loadRead_filled (aligned : l.ea.toNat % l.kind.bytes = 0) (clean : s.poison.contains (e.key (l.ea.toNat / 64 * 64)) = false)
    (missed : Misses s l e) : ∃ saw, loadRead (loadSought s l).2 l e =
    (.bytes ((List.range l.kind.bytes).map fun j => (forwardedByte s l j).getD (filledByte s (clusterOf l.core) e l.ea.toNat j).val),
      ((loadSought s l).2.refill (clusterOf l.core) (viewKey (s.asidOf l.ctxid) l.ea.toNat) (e.key (l.ea.toNat / 64 * 64)) e.size
        (e.mca || e.repl)).shown saw) := by
  have only := loadSought_only (s := s) (l := l)
  have room : ((loadSought s l).2.cluster (clusterOf l.core)).viewLines.length ≤ 32768 := by rwa [Cluster.viewLines, only.view]
  have same (j : Nat) : filledByte (loadSought s l).2 (clusterOf l.core) e l.ea.toNat j = filledByte s (clusterOf l.core) e l.ea.toNat j := by
    simp only [filledByte, Cluster.copies, only.view, only.home, only.homeOrd]
  obtain ⟨saw, read⟩ := viewLoad_missed room (viewMisses_iff.mpr missed) (only.poison.symm ▸ clean) fun _ => line_fits aligned
  simp only [same] at read
  exact ⟨saw, (loadRead_view view).trans read⟩

end

/-! ## What a load gives (R128, R129) -/

section
variable {s : State} {pos : Nat} {l : SharedLoad} (own : OwnLoad s pos l) (got : l.got = none)
  (free : s.loadsBefore l.core l.launch l.thr l.inc l.after = false)
include own got free

theorem gives_denied (denied : (loadSought s l).1 = .denied) :
    Gives s pos l true (dieOf l.core) fun j => (loadPoison l.kind).extractLsb' (8 * j) 8 := by
  have only : TranslatesOnly s ((loadSought s l).2.forget (clusterOf l.core) (.core l.core) l.seq .load) :=
    loadSought_only.trans (forget_only ..)
  refine gives_of_performed own got only.behind (fun _ => only.home) ?_ fun j inside => loadPoison_byte l.kind inside
  rw [performLoad_denied free denied, poisonOf_bytes, accerrOf_own own only.behind]

variable {e : TlbEntry} (hit : (loadSought s l).1 = .hit e)
include hit

theorem gives_down (down : s.linkDown (dieOf l.core) (loadKey s l e) = true) :
    Gives s pos l true (dieOf l.core) fun j => (loadPoison l.kind).extractLsb' (8 * j) 8 := by
  have only := loadSought_only (s := s) (l := l)
  refine gives_of_performed own got only.behind (fun _ => only.home) ?_ fun j inside => loadPoison_byte l.kind inside
  rw [performLoad_down free hit down, poisonOf_bytes, accerrOf_own own only.behind]

variable (up : s.linkDown (dieOf l.core) (loadKey s l e) = false)
include up

/-- A load that reads bytes from a state in which nothing but views has moved gives them. -/
theorem gives_read {u : State} (only : BehindOnly s u) (home : u.home = s.home) (pubs : u.pubs = s.pubs) {away : Bool}
    (from_ : readsAway (loadSought s l).2 l e = away) (near : away = true → s.homeHeld (dieOf l.core) (loadKey s l e) = false)
    {saw : Publication → Bool} {v : Nat → Byte}
    (read : loadRead (loadSought s l).2 l e = (.bytes ((List.range l.kind.bytes).map v), u.shown saw)) :
    Gives s pos l false (if away then s.homePort (dieOf l.core) (loadKey s l e) else dieOf l.core) v := by
  subst from_
  refine gives_of_performed own got (only.trans (shown_behind u saw)) (fun settled => ?_)
    (performLoad_bytes free hit up (only.trans (shown_behind u saw)) near read) fun j => extractLsb'_leNat_map l.kind.bytes v
  rw [shown_eq_self (pubs.symm ▸ settled), home]

theorem gives_home (home : l.kind = .sldh) (reached : s.homeHeld (dieOf l.core) (loadKey s l e) = false)
    (clean : s.poisonedIn (loadKey s l e) 8 = false) : Gives s pos l false (s.homePort (dieOf l.core) (loadKey s l e)) fun j =>
      (forwardedByte s l j).getD (s.home.read (loadKey s l e + j)) := by
  have only := loadSought_only (s := s) (l := l)
  obtain ⟨saw, read⟩ := loadRead_home home clean
  have away : readsAway (loadSought s l).2 l e = true := by
    rw [readsAway, home]
    rfl
  exact gives_read own got free hit up only.behind only.home only.pubs away (fun _ => reached) read

variable (view : l.kind ≠ .sldh) (fits : (s.cluster (clusterOf l.core)).viewLines.length ≤ 32768)
include view fits

theorem gives_held (found : ¬ Misses s l e) :
    Gives s pos l false (dieOf l.core) fun j => (forwardedByte s l j).getD (((heldByte s l e j).map (·.val)).getD 0) := by
  have only := loadSought_only (s := s) (l := l)
  obtain ⟨saw, read⟩ := loadRead_held view fits found
  exact gives_read own got free hit up only.behind only.home only.pubs (eq_false_of_ne_true (mt (readsAway_iff view).mp found))
    (fun away => nomatch away) read

theorem gives_filled (aligned : l.ea.toNat % l.kind.bytes = 0) (clean : s.poison.contains (e.key (l.ea.toNat / 64 * 64)) = false)
    (missed : Misses s l e) (reached : s.homeHeld (dieOf l.core) (loadKey s l e) = false) :
    Gives s pos l false (s.homePort (dieOf l.core) (loadKey s l e)) fun j =>
      (forwardedByte s l j).getD (filledByte s (clusterOf l.core) e l.ea.toNat j).val := by
  have only := loadSought_only (s := s) (l := l)
  obtain ⟨saw, read⟩ := loadRead_filled view fits aligned clean missed
  exact gives_read own got free hit up (only.behind.trans (refill_behind ..)) only.home only.pubs ((readsAway_iff view).mpr missed)
    (fun _ => reached) read

end

/-! ## The obligation -/

section
variable {i : Instr} {s : State} {len : Nat} {kind : LoadKind} {rd ra : SReg} {off : W64}

/-- A shared load at issue: in a compute phase, and in an exchange phase at a bad address and at a good one. -/
theorem exec_sharedLoad (form : exec i s = sharedLoad i len kind rd ra off s) (has : s.has [ra, rd] = true) : let ea := s.reg ra + off
    (s.ctx.phase = .compute → s.th.stall = none → exec i s = .next (trapEntry 6 (((encode i).headD 0).setWidth 64) s)) ∧
    (s.ctx.phase = .exchange →
      (2 ^ 48 ≤ ea.toNat ∨ ea.toNat % kind.bytes ≠ 0 →
        exec i s = .next ((s.setCtx { s.ctx with accerr := true }).setTh ((s.th.setReg rd (loadPoison kind)).past len))) ∧
      (ea.toNat < 2 ^ 48 → ea.toNat % kind.bytes = 0 → ∃ (t : State) (l : SharedLoad), exec i s = .next t ∧ t.th = (s.th.expect rd).past len ∧
        t.loads = s.loads ++ [l] ∧ l.core = s.focus ∧ l.launch = s.ctx.launch ∧ l.thr = s.thr.val ∧ l.inc = s.th.inc ∧ l.rd = rd ∧
        l.kind = kind ∧ l.ea = ea ∧ l.ctxid = s.ctx.ctxid ∧ l.inc8 = (s.die (dieOf s.focus)).inc ∧ l.after = s.th.fenceL ∧ l.got = none ∧
        (∀ j < kind.bytes, l.fwd[j]? = some (notedFor s (ea.toNat + j))) ∧ SameMemory s t)) := by
  intro ea
  refine ⟨exec_sharedLoad_compute form has, fun phase => ⟨exec_sharedLoad_bad form has phase, fun inside aligned => ?_⟩⟩
  have good : ¬ BadAddress ea kind.bytes := fun bad => bad.elim (Nat.not_le.mpr inside) (· aligned)
  exact ⟨_, loadNow s kind rd ea, exec_sharedLoad_good form has phase good, th_setTh .., rfl, rfl, rfl, rfl, rfl, rfl, rfl, rfl, rfl, rfl, rfl,
    rfl, fun j below => loadNow_fwd s kind rd ea below, sameMemory_of_byteAt (byteAt_setTh _ _)⟩

end

section
variable {s : State} {pos : Nat} {l : SharedLoad} (own : OwnLoad s pos l)
include own

/-- The return of a load that has been performed. -/
theorem sharedLoadReturn_got {w : W64} {tick d : Nat} (got : l.got = some (w, tick, d)) :
    (s.cutOff d (dieOf l.core) = true → ∃ t, exec (.sharedLoadReturn pos) s = .next t ∧ Arrived s t l (loadPoison l.kind) ∧
      t.ctx.accerr = true ∧ SameMemory s t) ∧
    let waits : Prop := s.routeHeld d (dieOf l.core) = true ∨
      (8 ≤ d ∧ ∃ m ∈ s.loads, m.core = l.core ∧ ∃ v u, m.got = some (v, u, d) ∧ u < tick)
    (s.cutOff d (dieOf l.core) = false → waits → exec (.sharedLoadReturn pos) s = .next s) ∧
    (s.cutOff d (dieOf l.core) = false → ¬ waits →
      ∃ t, exec (.sharedLoadReturn pos) s = .next t ∧ Arrived s t l w ∧ SameMemory s t) := by
  have goes := exec_sharedLoadReturn_got own got
  have waits_iff : (s.routeHeld d (dieOf l.core) || s.loadAhead l.core d tick) = true ↔ s.routeHeld d (dieOf l.core) = true ∨
      (8 ≤ d ∧ ∃ m ∈ s.loads, m.core = l.core ∧ ∃ v u, m.got = some (v, u, d) ∧ u < tick) := by
    rw [Bool.or_eq_true, loadAhead_iff]
  refine ⟨fun cut => ?_, fun whole waits => ?_, fun whole moves => ?_⟩
  · obtain ⟨arrived, accerr, same⟩ := given_arrived own (.refl s) true (loadPoison l.kind)
    exact ⟨_, goes.trans (if_pos cut), arrived, accerr.trans (Bool.or_true _), sameMemory_of_byteAt same⟩
  · exact goes.trans ((if_neg (ne_true_of_eq_false whole)).trans (if_pos (waits_iff.mpr waits)))
  · obtain ⟨arrived, -, same⟩ := given_arrived own (.refl s) false w
    exact ⟨_, goes.trans ((if_neg (ne_true_of_eq_false whole)).trans (if_neg (mt waits_iff.mp moves))), arrived, sameMemory_of_byteAt same⟩

end

/-- Settles O22: the forms by the shared load at issue, and the return by what the load comes to. -/
theorem sharedLoads : Obligations.SharedLoads := by
  unfold Obligations.SharedLoads
  extract_lets size poison loads
  have sizes : size = LoadKind.bytes := funext fun kind => by cases kind <;> rfl
  have poisons : poison = loadPoison := funext fun kind => by cases kind <;> rfl
  clear_value size poison
  subst sizes poisons
  refine ⟨fun s rd ra imm lit has => ?_, fun s c kind fwd f j => stillForward_getElem? s c kind, forwards_iff,
    fun s pos l found core runs thr live inc die rd => ?_⟩
  · exact ⟨exec_sharedLoad rfl has, exec_sharedLoad rfl has, exec_sharedLoad rfl has, exec_sharedLoad rfl has, exec_sharedLoad rfl has,
      exec_sharedLoad rfl has⟩
  · have own : OwnLoad s pos l := ⟨found, core, runs, thr, live, inc, die, rd⟩
    intro before arrived
    refine ⟨fun w tick d => sharedLoadReturn_got own, fun got before => exec_sharedLoadReturn_waits own got (performLoad_before before),
      fun got free aligned => ?_⟩
    have link (e : TlbEntry) : (loadSought s l).2.linkDown (dieOf l.core) (loadKey s l e) = s.linkDown (dieOf l.core) (loadKey s l e) :=
      loadSought_only.behind.linkDown _ _
    refine ⟨gives_denied own got free, fun e hit down => gives_down own got free hit ((link e).symm.trans down), fun e hit unbroken => ?_⟩
    have up := (link e).symm.trans unbroken
    have waits {away : readsAway (loadSought s l).2 l e = true} (far : ¬ s.homeHeld (dieOf l.core) (loadKey s l e) = false) :
        exec (.sharedLoadReturn pos) s = .next (loadSought s l).2 :=
      exec_sharedLoadReturn_waits own got (performLoad_held free hit up away (eq_true_of_ne_false far))
    refine ⟨fun home reached clean => gives_home own got free hit up home reached clean, fun home far => waits (away := ?_) far,
      fun view clean fits => ⟨fun found => ?_, fun missed reached => gives_filled own got free hit up view fits aligned clean missed reached,
        fun missed far => waits (away := (readsAway_iff view).mpr missed) far⟩⟩
    · rw [readsAway, home]
      rfl
    · exact gives_held own got free hit up view fits fun ⟨j, inside, unforwarded, absent⟩ => found j inside unforwarded absent

end Sys2Proof.Laws

/-!
Publications (R126, R134–R136): a publication whose application moves the address space of its own record, and the refutation of O25.
-/

namespace Sys2Proof.Laws

open Sys2Proof Sys2Proof.Machine

/-- A write of one byte, homed on an ordinary page, of the context whose record is the second of the context table (R166). -/
def carriedRecord : LogRec where
  kind := 0
  gran := 0
  mask := 1
  data := 0
  ctx := 1
  lsn := 1
  launch := 0
  seq := 0
  spilled := none
  sstp := false
  homed := some ⟨4096, 0, false, false, 0⟩
  pub := some 0

/-- A REL's publication of that write, due now, under the object at 0: its words 2 and 3 are the context's record. -/
def carriedPublication : Publication where
  id := 0
  source := 0
  sys := false
  scope := .dev
  obj := some 0
  core := 0
  launch := 0
  drops := false
  engine := false
  records := [carriedRecord]
  ready := some 0
  app := some 64
  applied := false
  ord := 0
  index := 0
  lagG := 0
  lagD := 0

/-- The object's pseq is 2^36 − 1: its next value carries into the record's address space (R166), which the application changes from 0 to 1. -/
def carrying : State :=
  { State.reset with now := 64, pubs := [carriedPublication], home := [(16, 0xFF), (17, 0xFF), (18, 0xFF), (19, 0xFF), (20, 0x0F)] }

/-- The byte that the view lacks is brought in where the address space that the object's advance has made says, not where the one before did. -/
theorem view_carrying {t : State} (next : exec (.publicationApply 1) carrying = .next t) :
    (t.cluster 0).view = [(viewKey 1 0, ⟨0, 1, 4096, 0⟩)] := by
  obtain rfl := Host.Outcome.next.inj ((show exec (.publicationApply 1) carrying = .next _ from rfl).symm.trans next)
  decide

/-- Refutes O25: the statement names the place of a byte that the issuing cluster's view lacks by the address space before the application,
but the application advances the object's pseq and ptick first (R134), and where these words are the context's own record in the context
table (R166), the record is taken into the view in another address space. -/
theorem not_publications : ¬ Obligations.Publications := by
  unfold Obligations.Publications
  rintro ⟨-, -, applies, -⟩
  obtain ⟨due, -⟩ := applies carrying 1 carriedPublication carriedRecord ⟨4096, 0, false, false, 0⟩ rfl rfl rfl rfl rfl (by decide)
  obtain ⟨t, next, -, -, -, -, -, taken⟩ := due rfl rfl (by decide) rfl 0 rfl
  have byte := taken ⟨rfl, by decide⟩ 0 (by decide) ⟨rfl, by decide⟩
  rw [show clusterOf carriedPublication.core = 0 from rfl, view_carrying next] at byte
  exact absurd byte (by decide)

end Sys2Proof.Laws

/-!
Translations: what an entry's match is in the words of its fields (R163, R165), what the lookups of a TLB and of the shared TLB find (R162), and
obligation O26.
-/

namespace Sys2Proof.Laws

open Sys2Proof Sys2Proof.Machine

/-! ## Entries (R163, R165) -/

/-- The bits of an address below a page's number. -/
theorem pageBits_eq (e : TlbEntry) : (if (e.word.extractLsb' 1 2).toNat = 0 then 16 else if (e.word.extractLsb' 1 2).toNat = 1 then 21 else 30) =
    16 + pageShift e.size := by
  rw [TlbEntry.size]
  generalize (e.word.extractLsb' 1 2).toNat = size
  match size with
  | 0 => rfl
  | 1 => rfl
  | n + 2 => rw [if_neg (by omega), if_neg (by omega)]; rfl

section
variable {e : TlbEntry} {b : Nat} (page : b = 16 + pageShift e.size)
include page

theorem covers_iff (va : Nat) : e.covers va = true ↔ (e.word.extractLsb' 64 32).toNat * 2 ^ 16 / 2 ^ b = va / 2 ^ b := by
  simp only [TlbEntry.covers, TlbEntry.vpn, beq_iff_eq, page, Nat.shiftRight_eq_div_pow, pow_add, ← Nat.div_div_eq_div_mul,
    Nat.mul_div_cancel _ (Nat.two_pow_pos 16)]

theorem hits_iff (asid : BitVec 12) (va now : Nat) : e.hits asid va now = true ↔
    e.word.getLsbD 0 = true ∧ e.word.extractLsb' 39 12 = asid ∧
      (e.word.extractLsb' 64 32).toNat * 2 ^ 16 / 2 ^ b = va / 2 ^ b ∧
      (e.modeL = true → 2 ^ 31 ≤ (BitVec.ofNat 32 (now / 1024) - e.word.extractLsb' 96 32).toNat) := by
  have live : (!e.expired now) = true ↔
      (e.modeL = true → 2 ^ 31 ≤ (BitVec.ofNat 32 (now / 1024) - e.word.extractLsb' 96 32).toNat) := by
    rw [TlbEntry.expired, TlbEntry.lease, Nat.shiftRight_eq_div_pow]
    cases e.modeL <;> simp
  simp only [TlbEntry.hits, Bool.and_eq_true, beq_iff_eq, live, covers_iff page, and_assoc]
  rfl

end

/-! ## Lookups (R162) -/

section
variable {m : PMap TlbEntry} {p : TlbEntry → Bool}

theorem mem_of_find?_vals {e : TlbEntry} (found : m.vals.find? p = some e) : ∃ n, (n, e) ∈ m := by
  obtain ⟨⟨n, f⟩, member, rfl⟩ := List.mem_map.mp (List.mem_of_find?_eq_some found)
  exact ⟨n, member⟩

theorem find?_vals_isSome {y : Nat × TlbEntry} (member : y ∈ m) (good : p y.2 = true) : (m.vals.find? p).isSome = true :=
  List.find?_isSome.mpr ⟨y.2, List.mem_map.mpr ⟨y, member, rfl⟩, good⟩

theorem find?_vals_sole {n : Nat} {e : TlbEntry} (member : (n, e) ∈ m) (good : p e = true) (sole : ∀ y ∈ m, p y.2 = true → y.2 = e) :
    m.vals.find? p = some e := by
  obtain ⟨f, found⟩ := Option.isSome_iff_exists.mp (find?_vals_isSome member good)
  obtain ⟨i, there⟩ := mem_of_find?_vals found
  rw [found, show f = e from sole _ there (List.find?_some found)]

end

/-- The entries of a set of a cluster's shared TLB. -/
def sharedEntries (x : Cluster) (set : Nat) : PMap TlbEntry := (PMap.get x.sharedTlb set Tlb.reset).entries

section
variable {x : Cluster} {asid : BitVec 12} {va now : Nat} {e : TlbEntry}

/-- What the shared TLB finds stands in one of the three sets that the address selects. -/
theorem mem_of_sharedLookup (found : x.sharedLookup asid va now = some e) :
    ∃ z < 3, e.hits asid va now = true ∧ ∃ n, (n, e) ∈ sharedEntries x (sharedSet asid va z) := by
  obtain ⟨z, one, there⟩ := List.mem_filterMap.mp (List.mem_of_mem_head? found)
  have good := List.find?_some (p := fun e : TlbEntry => e.size == z && e.hits asid va now) there
  refine ⟨z, ?_, (Bool.and_eq_true_iff.mp good).2, mem_of_find?_vals there⟩
  simp only [List.mem_cons, List.not_mem_nil, or_false] at one
  omega

theorem sharedLookup_isSome {n : Nat} (size : e.size ≠ 3) (member : (n, e) ∈ sharedEntries x (sharedSet asid va e.size))
    (hits : e.hits asid va now = true) : (x.sharedLookup asid va now).isSome = true := by
  have found : ((sharedEntries x (sharedSet asid va e.size)).vals.find? fun f => f.size == e.size && f.hits asid va now).isSome = true :=
    find?_vals_isSome member (Bool.and_eq_true_iff.mpr ⟨beq_self_eq_true _, hits⟩)
  obtain ⟨f, found⟩ := Option.isSome_iff_exists.mp found
  have bound : e.size < 4 := (e.word.extractLsb' 1 2).isLt
  refine List.isSome_head?.mpr (List.ne_nil_of_mem (List.mem_filterMap.mpr ⟨e.size, ?_, found⟩))
  simp only [List.mem_cons, List.not_mem_nil, or_false]
  omega

theorem sharedLookup_sole {n : Nat} (size : e.size ≠ 3) (member : (n, e) ∈ sharedEntries x (sharedSet asid va e.size))
    (hits : e.hits asid va now = true)
    (sole : ∀ z < 3, ∀ y ∈ sharedEntries x (sharedSet asid va z), y.2.hits asid va now = true → y.2 = e) :
    x.sharedLookup asid va now = some e := by
  obtain ⟨f, found⟩ := Option.isSome_iff_exists.mp (sharedLookup_isSome size member hits)
  obtain ⟨z, small, good, i, there⟩ := mem_of_sharedLookup found
  rw [found, show f = e from sole z small _ there good]

end

/-! ## The TLB that an access asks first (R162) -/

section
variable (t : Tlb) (n : Nat) (e : TlbEntry)

theorem find?_fill_ptr : PMap.find? (t.fill n e).entries t.ptr = some e := PMap.find?_put_same _ _ _

/-- No entry that a fill leaves beside the one that it writes overlaps that one (R165). -/
theorem overlaps_of_find?_fill {a : Nat} {f : TlbEntry} (other : a ≠ t.ptr) (found : PMap.find? (t.fill n e).entries a = some f) :
    f.overlaps e = false := by
  have left : PMap.find? (t.entries.keep fun f => !f.overlaps e) a = some f := (PMap.find?_put_other _ other _).symm.trans found
  rw [find?_eq_map_find?] at left
  obtain ⟨y, there, rfl⟩ := Option.map_eq_some_iff.mp left
  simpa using (List.mem_filter.mp (List.mem_of_find?_eq_some there)).2

end

section
variable (s : State) (k : Nat) (u : TlbUser) (e : TlbEntry)

/-- A fill of a user's TLB, of 64 entries or of 256. -/
theorem userTlb_userFill : ∃ n, (s.userFill k u e).userTlb k u = (s.userTlb k u).fill n e := by
  cases u with
  | core c => exact ⟨64, congrArg Core.tlb (core_setCore_same s c _)⟩
  | copy => exact ⟨256, congrArg Cluster.copyTlb (cluster_setCluster_same s k _)⟩

theorem misses_userFill : ((s.userFill k u e).cluster k).misses = (s.cluster k).misses := by
  cases u with
  | core c => rfl
  | copy => exact (congrArg Cluster.misses (cluster_setCluster_same s k _) :)

theorem userTlb_launches (l : PMap Launch) : ({ s with launches := l } : State).userTlb k u = s.userTlb k u := by
  cases u with
  | core c => rfl
  | copy => rfl

theorem updLaunch_eq (launch : Nat) (f : Launch → Launch) : ∃ l, s.updLaunch launch f = { s with launches := l } := by
  unfold State.updLaunch
  split
  · exact ⟨_, rfl⟩
  · exact ⟨_, rfl⟩

theorem unpinned_eq (launch : Nat) : ∃ l, s.unpinned launch = { s with launches := l } := by
  unfold State.unpinned
  split
  · exact updLaunch_eq ..
  · exact ⟨_, rfl⟩

theorem translated_eq (launch : Nat) : ∃ l, s.translated launch e = (.hit e, { s with launches := l }) := by
  unfold State.translated
  split
  · exact ⟨_, rfl⟩
  · obtain ⟨l, eq⟩ := unpinned_eq s launch
    exact ⟨l, congrArg (Prod.mk _) eq⟩

theorem unpinned_only (launch : Nat) : TranslatesOnly s (s.unpinned launch) := by
  unfold State.unpinned
  split
  · exact translatesOnly_updLaunch ..
  · exact .refl s

theorem chargePage_eq (launch : Nat) : ∃ l, s.chargePage launch e = { s with launches := l } := by
  unfold State.chargePage
  split
  · exact updLaunch_eq ..
  · exact ⟨_, rfl⟩

end

/-! ## An access's translation (R162, R165, R170) -/

section
variable {s : State} {k : Nat} {u : TlbUser} {kind : Access} {asid : BitVec 12} {a : Nat} {e : TlbEntry}

theorem lookup_permits_none (refused : ∀ y ∈ (s.userTlb k u).entries, y.2.hits asid a s.now = true → y.2.permits kind = false) :
    ((s.userTlb k u).lookup asid a s.now).filter (·.permits kind) = none := by
  refine Option.filter_eq_none_iff.mpr fun f found => ne_true_of_eq_false ?_
  obtain ⟨n, member⟩ := mem_of_find?_vals found
  exact refused _ member (List.find?_some (p := fun e : TlbEntry => e.hits asid a s.now) found)

theorem usable_own (found : (s.userTlb k u).lookup asid a s.now = some e) (permits : e.permits kind = true) :
    s.usable k u kind asid a = some (e, s) := by
  rw [State.usable, found, show (some e).filter (·.permits kind) = some e from if_pos permits]

variable (refused : ∀ y ∈ (s.userTlb k u).entries, y.2.hits asid a s.now = true → y.2.permits kind = false)
include refused

theorem usable_shared (found : (s.cluster k).sharedLookup asid a s.now = some e) (permits : e.permits kind = true) :
    s.usable k u kind asid a = some (e, s.userFill k u e) := by
  rw [State.usable, lookup_permits_none refused, found, show (some e).filter (·.permits kind) = some e from if_pos permits]
  rfl

theorem usable_none (noneShared : ∀ n, ∀ y ∈ sharedEntries (s.cluster k) n, y.2.hits asid a s.now = true → y.2.permits kind = false) :
    s.usable k u kind asid a = none := by
  have shared : ((s.cluster k).sharedLookup asid a s.now).filter (·.permits kind) = none := by
    refine Option.filter_eq_none_iff.mpr fun f found => ne_true_of_eq_false ?_
    obtain ⟨z, -, hits, n, member⟩ := mem_of_sharedLookup found
    exact noneShared _ _ member hits
  rw [State.usable, lookup_permits_none refused, shared]
  rfl

end

section
variable {s t : State} {k : Nat} {u : TlbUser} {acc : Nat} {ctxid : BitVec 16} {launch : Nat} {kind : Access} {va : W64} {a : Nat} {e : TlbEntry}

theorem served_misses : ∀ m ∈ ((s.served k u acc ctxid kind a).cluster k).misses, m.same u acc ctxid kind a = false := by
  unfold State.served
  dsimp only
  split
  case isTrue =>
    rw [cluster_setCluster_same]
    exact fun m member => by simpa using (List.mem_filter.mp member).2
  case isFalse gone =>
    exact fun m member => eq_false_of_ne_true fun same => gone (List.any_eq_true.mpr ⟨m, member, same⟩)

theorem served_userTlb (v : TlbUser) : (s.served k u acc ctxid kind a).userTlb k v = s.userTlb k v := by
  unfold State.served
  dsimp only
  split
  · cases v with
    | core c => rfl
    | copy => exact (congrArg Cluster.copyTlb (cluster_setCluster_same s k _) :)
  · rfl

theorem translateMiss_ne_hit (r : BitVec 128) (f : TlbEntry) : (s.translateMiss k u acc ctxid launch kind a r).1 ≠ .hit f := by
  unfold State.translateMiss
  dsimp only
  split_ifs
  · nofun
  · split
    · split_ifs
      · nofun
      · nofun
    · nofun
  · split
    · split_ifs
      · nofun
      · nofun
    · nofun

theorem translate_high (high : 2 ^ 48 ≤ va.toNat) : s.translate k u acc ctxid launch kind va = (.denied, s) :=
  if_pos (mt (above_page_eq_zero_iff va).mp (not_lt.mpr high))

variable (low : va.toNat < 2 ^ 48)
include low

theorem translate_none (unusable : s.usable k u kind (s.asidOf ctxid) va.toNat = none) (f : TlbEntry) :
    (s.translate k u acc ctxid launch kind va).1 ≠ .hit f := by
  have eq : s.usable k u kind (recAsid (s.ctxRecord ctxid)) va.toNat = none := unusable
  simp only [State.translate, (above_page_eq_zero_iff va).mpr low, ne_eq, not_true_eq_false, if_false, eq]
  exact translateMiss_ne_hit _ f

/-- An access with a usable entry hits, and none of its misses is left. -/
theorem translate_usable (usable : s.usable k u kind (s.asidOf ctxid) va.toNat = some (e, t)) :
    (s.translate k u acc ctxid launch kind va).1 = .hit e ∧
    (∀ m ∈ ((s.translate k u acc ctxid launch kind va).2.cluster k).misses, m.same u acc ctxid kind va.toNat = false) ∧
    (s.translate k u acc ctxid launch kind va).2.userTlb k u = t.userTlb k u := by
  have eq : s.translate k u acc ctxid launch kind va = (t.served k u acc ctxid kind va.toNat).translated launch e := by
    have found : s.usable k u kind (recAsid (s.ctxRecord ctxid)) va.toNat = some (e, t) := usable
    simp only [State.translate, (above_page_eq_zero_iff va).mpr low, ne_eq, not_true_eq_false, if_false, found]
  obtain ⟨l, hit⟩ := translated_eq (t.served k u acc ctxid kind va.toNat) e launch
  rw [eq, hit]
  refine ⟨rfl, served_misses, ?_⟩
  rw [userTlb_launches, served_userTlb]

end

/-! ## The obligation -/

/-- Settles O26, by what is usable: the entry of the user's own TLB, that of the shared TLB, or none. -/
theorem translationHits : Obligations.TranslationHits := by
  unfold Obligations.TranslationHits
  intro bit allowed pageBits s k u acc ctxid launch kind va x matches_ own set hits
  have allowed_eq (e : TlbEntry) : allowed e kind = e.permits kind := by cases kind <;> rfl
  have matches_iff (e : TlbEntry) : matches_ e ↔ e.hits (s.asidOf ctxid) va.toNat s.now = true := (hits_iff (pageBits_eq e) ..).symm
  have key (e : TlbEntry) : e.key va.toNat =
      (e.word.extractLsb' 51 13).toNat * 2 ^ 41 + (e.word.extractLsb' 11 25).toNat * 2 ^ 16 + va.toNat % 2 ^ pageBits e :=
    congrArg (fun b => e.dev * 2 ^ 41 + e.pfn * 2 ^ 16 + va.toNat % 2 ^ b) (pageBits_eq e).symm
  refine ⟨translate_high, fun low => ⟨fun n e member hit sole permits => ?own, fun refused => ⟨fun noShared f => ?none,
    fun n e member size hit permits sole => ?shared⟩⟩⟩
  case own =>
    have found : (s.userTlb k u).lookup (s.asidOf ctxid) va.toNat s.now = some e :=
      find?_vals_sole member ((matches_iff e).mp hit) fun y there good => sole y there ((matches_iff y.2).mpr good)
    obtain ⟨hit, misses, -⟩ := translate_usable (acc := acc) (launch := launch) low (usable_own found ((allowed_eq e).symm.trans permits))
    exact ⟨hit, misses, key e⟩
  all_goals
    have refusal (y) (there : y ∈ (s.userTlb k u).entries) (good : y.2.hits (s.asidOf ctxid) va.toNat s.now = true) : y.2.permits kind = false :=
      (allowed_eq y.2).symm.trans (refused y there ((matches_iff y.2).mpr good))
  case none =>
    exact translate_none low (usable_none refusal fun n y there good =>
      (allowed_eq y.2).symm.trans (noShared n y there ((matches_iff y.2).mpr good))) f
  case shared =>
    have found := sharedLookup_sole size member ((matches_iff e).mp hit) fun z small y there good =>
      sole z small y there ((matches_iff y.2).mpr good)
    obtain ⟨hit, misses, tlb⟩ :=
      translate_usable (acc := acc) (launch := launch) low (usable_shared refusal found ((allowed_eq e).symm.trans permits))
    obtain ⟨size, filled⟩ := userTlb_userFill s k u e
    refine ⟨⟨hit, misses, key e⟩, ?_⟩
    rw [tlb, filled]
    exact find?_fill_ptr ..

end Sys2Proof.Laws

/-!
The service of misses: a routine's run that stops at a table read comes to the same end (R167), what each event of a TSC leaves of its misses
(R169, R170), and obligation O27.
-/

namespace Sys2Proof.Laws

open Sys2Proof Sys2Proof.Machine

/-! ## A routine's run in several steps (R167) -/

section
variable {s t : State} (only : TranslatesOnly s t)
include only

theorem TranslatesOnly.rvStep (m : Rv) : rvStep t m = rvStep s m := (congrArg (Machine.rvStep · m) only.device :)

theorem TranslatesOnly.walkEnd (va : BitVec 48) (r : RvStep) : t.walkEnd va r = s.walkEnd va r :=
  (congrArg (State.walkEnd · va r) only.device :)

theorem TranslatesOnly.rvRun (stop fuel : Nat) (m : Rv) : rvRun t stop fuel m = rvRun s stop fuel m := by
  induction fuel generalizing m with
  | zero => rfl
  | succ fuel same => simp only [Machine.rvRun, only.rvStep, same]

end

/-- A run that stops at a table read has not ended and comes from there to the same end as one that goes on, or it has ended as that one has. -/
theorem rvRun_stops (s : State) (stop fuel : Nat) {m : Rv} (few : m.reads ≤ 16) :
    (∃ n left, rvRun s stop fuel m = (.next n, left) ∧ stop ≤ n.reads ∧ n.reads ≤ 16 ∧ rvRun s 17 left n = rvRun s 17 fuel m) ∨
      rvRun s stop fuel m = rvRun s 17 fuel m ∧ ∀ n, (rvRun s 17 fuel m).1 ≠ .next n := by
  induction fuel generalizing m with
  | zero => exact .inr ⟨rfl, nofun⟩
  | succ fuel ih =>
    by_cases stops : stop ≤ m.reads
    · exact .inl ⟨m, fuel + 1, if_pos stops, stops, few, rfl⟩
    · have below : ¬ 17 ≤ m.reads := by omega
      simp only [rvRun, if_neg stops, if_neg below]
      cases rvStep s m with
      | next n =>
        by_cases many : 16 < n.reads
        · exact .inr ⟨(if_pos many).trans (if_pos many).symm, fun n eq => nomatch (congrArg Prod.fst (if_pos many)).symm.trans eq⟩
        · simp only [if_neg many]
          exact ih (not_lt.mp many)
      | ended n => exact .inr ⟨rfl, nofun⟩
      | error => exact .inr ⟨rfl, nofun⟩
      | consumed key => exact .inr ⟨rfl, nofun⟩

/-- A walk that goes on has come to its end, or stands where it comes to the same end; with every table read allowed it has come to it. -/
theorem walkOn_spec (s : State) (va : BitVec 48) {rv : Rv} (left : Nat) (few : rv.reads ≤ 16) :
    s.walkOn va rv left = .walked (s.walkEnd va (rvRun s 17 left rv).1) ∨
      s.freeNat 18 % 18 ≠ 17 ∧ ∃ n f, s.walkOn va rv left = .walking n f ∧ rvRun s 17 f n = rvRun s 17 left rv := by
  rcases rvRun_stops s (rv.reads + s.freeNat 18 % 18) left few with ⟨n, f, run, stop, most, rest⟩ | ⟨run, ended⟩
  · refine .inr ⟨by omega, n, f, ?_, rest⟩
    simp only [State.walkOn, allReads, run]
  · refine .inl ?_
    rw [State.walkOn, show allReads + 1 = 18 from rfl, run]
    split
    case h_1 n f eq => exact absurd (congrArg Prod.fst eq) (ended n)
    case h_2 eq => rw [eq]

/-! ## Lists of misses -/

section
variable {pre post : List Miss} {m : Miss} {p : Miss → Bool} (before : ∀ x ∈ pre, p x = false) (one : p m = true)
include before one

theorem find?_first : (pre ++ m :: post).find? p = some m :=
  List.find?_eq_some_iff_append.mpr ⟨one, pre, post, rfl, fun x member => by rw [before x member]; rfl⟩

theorem updFirst_first (f : Miss → Miss) : updFirst p f (pre ++ m :: post) = pre ++ f m :: post := by
  induction pre with
  | nil => exact if_pos one
  | cons x pre ih =>
    rw [List.cons_append, updFirst, if_neg (ne_true_of_eq_false (before x List.mem_cons_self)),
      ih fun y member => before y (List.mem_cons_of_mem x member)]
    rfl

end

theorem returning_eq_false_iff {m : Miss} : m.returning = false ↔ ∀ r, m.state ≠ .walked r := by
  rw [Miss.returning]
  cases m.state <;> simp

theorem isAbsent_eq_false_iff {m : Miss} : m.isAbsent = false ↔ ∀ u, m.state ≠ .absent u := by
  rw [Miss.isAbsent]
  cases m.state <;> simp

theorem absentOver_eq_false_iff {m : Miss} {now : Nat} : m.absentOver now = false ↔ ∀ u, m.state = .absent u → now < u := by
  rw [Miss.absentOver]
  cases m.state <;> simp

section
variable {pre post : List Miss} {m : Miss} (queued : m.state = .queued)
include queued

theorem nextMiss_priority (priority : m.priority = true) (before : ∀ x ∈ pre, x.state = .queued → x.priority = false) :
    nextMiss (pre ++ m :: post) = some m := by
  have found := find?_first (post := post) (p := fun x => x.state == .queued && x.priority) (m := m)
    (fun x member => by simpa using before x member) (by simp [queued, priority])
  rw [nextMiss, found]

theorem nextMiss_ordinary (before : ∀ x ∈ pre, x.state ≠ .queued) (after : ∀ x ∈ m :: post, x.state = .queued → x.priority = false) :
    nextMiss (pre ++ m :: post) = some m := by
  have noPriority : (pre ++ m :: post).find? (fun x => x.state == .queued && x.priority) = none := by
    refine List.find?_eq_none.mpr fun x member => ?_
    rcases List.mem_append.mp member with member | member
    · simp [before x member]
    · simpa using after x member
  rw [nextMiss, noPriority]
  exact find?_first (fun x member => by simpa using before x member) (by simp [queued])

end

/-! ## What an event leaves of a miss (R169, R170) -/

theorem setMisses_only (s : State) (k : Nat) (l : List Miss) : TranslatesOnly s (s.setMisses k l) := translatesOnly_setCluster rfl

theorem misses_setMisses (s : State) (k : Nat) (l : List Miss) : ((s.setMisses k l).cluster k).misses = l :=
  congrArg Cluster.misses (cluster_setCluster_same s k _)

/-- An event puts one miss of a cluster in the place of another and changes no memory. -/
def PutsMiss (i : Instr) (s : State) (k : Nat) (pre : List Miss) (m : Miss) (post : List Miss) : Prop :=
  ∃ t, exec i s = .next t ∧ SameMemory s t ∧ (t.cluster k).misses = pre ++ m :: post

theorem putsMiss_of_updFirst {i : Instr} {s u : State} {k : Nat} {pre post : List Miss} {m : Miss} {p : Miss → Bool} {f : Miss → Miss}
    (misses : (s.cluster k).misses = pre ++ m :: post) (before : ∀ x ∈ pre, p x = false) (one : p m = true) (only : TranslatesOnly s u)
    (runs : exec i s = .next (u.setMisses k (updFirst p f (s.cluster k).misses))) : PutsMiss i s k pre (f m) post := by
  refine ⟨_, runs, sameMemory_of_byteAt (only.trans (setMisses_only u k _)).byteAt, ?_⟩
  rw [misses_setMisses, misses, updFirst_first before one]

/-! ## TSC_WALK (R167, R169) -/

/-- The end to which a miss comes with all its table reads made now. -/
def missEnd (s : State) (m : Miss) : WalkEnd :=
  match m.state with
  | .walked r => r
  | .walking rv left => s.walkEnd m.va (rvRun s 17 left rv).1
  | _ => s.walk m.ctxid m.kind m.va

/-- The state with what a walk leaves of a miss, at the first that equals it. -/
def walkLeft (s : State) (k : Nat) (m : Miss) (st : MissState) (start : Nat) : State :=
  s.setMisses k (updFirst (· == m) (fun m => { m with state := st, start := start }) (s.cluster k).misses)

/-- TSC_WALK leaves a miss walking or walked, and the end to which it comes as it was. -/
def WalksMiss (s : State) (k : Nat) (pre : List Miss) (m : Miss) (start : Nat) (post : List Miss) : Prop :=
  ∃ t st, exec (.tscWalk k) s = .next t ∧ SameMemory s t ∧
    (t.cluster k).misses = pre ++ { m with state := st, start := start } :: post ∧
    missEnd t { m with state := st, start := start } = missEnd s m ∧
    ((∃ r, st = .walked r) ∨ ∃ rv left, st = .walking rv left) ∧ (s.freeNat 18 % 18 = 17 → st = .walked (missEnd s m))

section
variable {s : State} {k : Nat} {pre post : List Miss} {m : Miss} (misses : (s.cluster k).misses = pre ++ m :: post)
include misses

theorem putsMiss_walk {st : MissState} {start : Nat} (first : ∀ x ∈ pre, x ≠ m)
    (runs : exec (.tscWalk k) s = .next (walkLeft s k m st start)) :
    PutsMiss (.tscWalk k) s k pre { m with state := st, start := start } post :=
  putsMiss_of_updFirst (f := fun m => { m with state := st, start := start }) misses (fun x member => beq_eq_false_iff_ne.mpr (first x member))
    (beq_self_eq_true m) (.refl s) runs

/-- What TSC_WALK leaves where it goes on from a machine whose end is the miss's own. -/
theorem walksMiss_of_walkOn {rv : Rv} {left start : Nat} (few : rv.reads ≤ 16) (first : ∀ x ∈ pre, x ≠ m)
    (same : s.walkEnd m.va (rvRun s 17 left rv).1 = missEnd s m) (sound : ∀ key, missEnd s m ≠ .consumed key)
    (runs : ∀ st, s.walkOn m.va rv left = st → (∀ key, st ≠ .walked (.consumed key)) →
      exec (.tscWalk k) s = .next (walkLeft s k m st start)) :
    WalksMiss s k pre m start post := by
  rcases walkOn_spec s m.va left few with ended | ⟨free, n, f, goes, rest⟩
  · have next := runs _ ended fun key eq => sound key (same.symm.trans (MissState.walked.inj eq))
    obtain ⟨t, next, memory, left⟩ := putsMiss_walk misses first next
    exact ⟨t, _, next, memory, left, same, .inl ⟨_, rfl⟩, fun _ => congrArg MissState.walked same⟩
  · have next := runs _ goes nofun
    obtain ⟨t, next', memory, left⟩ := putsMiss_walk misses first next
    obtain rfl := Host.Outcome.next.inj (next.symm.trans next')
    have only : TranslatesOnly s (walkLeft s k m (.walking n f) start) := setMisses_only ..
    refine ⟨_, _, next, memory, left, ?_, .inr ⟨n, f, rfl⟩, fun whole => absurd whole free⟩
    rw [← same, ← rest, ← only.rvRun, ← only.walkEnd]
    rfl

theorem walksMiss_walking {rv : Rv} {left : Nat} (walking : m.state = .walking rv left) (few : rv.reads ≤ 16)
    (before : ∀ x ∈ pre, x.walking = false) (sound : ∀ key, missEnd s m ≠ .consumed key) : WalksMiss s k pre m m.start post := by
  have here : m.walking = true := by rw [Miss.walking, walking]
  have found : (s.cluster k).misses.find? Miss.walking = some m := misses ▸ find?_first before here
  have same : s.walkEnd m.va (rvRun s 17 left rv).1 = missEnd s m := by rw [missEnd, walking]
  refine walksMiss_of_walkOn misses few (fun x member eq => ?_) same sound fun st goes kept => ?_
  · exact absurd (before x member) (ne_false_of_eq_true (eq ▸ here))
  · show execTscWalk k s = _
    simp only [execTscWalk, found, walking, goes, walkLeft]

theorem walksMiss_queued (queued : m.state = .queued) (idle : ∀ x ∈ pre ++ post, x.walking = false ∧ ∀ r, x.state ≠ .walked r)
    (next : nextMiss (pre ++ m :: post) = some m) (first : ∀ x ∈ pre, x ≠ m) (sound : ∀ key, missEnd s m ≠ .consumed key) :
    WalksMiss s k pre m s.now post := by
  have here : m.walking = false ∧ ∀ r, m.state ≠ .walked r := by
    rw [Miss.walking, queued]
    exact ⟨rfl, nofun⟩
  have all (x) (member : x ∈ (s.cluster k).misses) : x.walking = false ∧ ∀ r, x.state ≠ .walked r := by
    rw [misses, List.mem_append, List.mem_cons] at member
    rcases member with member | rfl | member
    · exact idle x (List.mem_append_left _ member)
    · exact here
    · exact idle x (List.mem_append_right _ member)
  have noWalk : (s.cluster k).misses.find? Miss.walking = none :=
    List.find?_eq_none.mpr fun x member => ne_true_of_eq_false (all x member).1
  have noReturn : ¬ (s.cluster k).misses.any Miss.returning = true := fun any => by
    obtain ⟨x, member, returning⟩ := List.any_eq_true.mp any
    exact absurd returning (ne_true_of_eq_false (returning_eq_false_iff.mpr (all x member).2))
  have walk : missEnd s m = s.walk m.ctxid m.kind m.va := by rw [missEnd, queued]
  have clean : s.ctxLine m.ctxid = none := Option.eq_none_iff_forall_ne_some.mpr fun key line =>
    sound key (walk.trans (by rw [State.walk, line]))
  have same : s.walkEnd m.va (rvRun s 17 walkFuel (s.walkStart m.ctxid m.kind m.va)).1 = missEnd s m := by
    rw [walk, State.walk, clean]
    rfl
  refine walksMiss_of_walkOn misses (Nat.zero_le 16) first same sound fun st goes kept => ?_
  rw [← misses] at next
  show execTscWalk k s = _
  simp only [execTscWalk, noWalk, if_neg noReturn, next, clean, goes, walkLeft]

end

/-! ## TLB_FILL (R169, R170) -/

section
variable (w : BitVec 128) (lease start : Nat)

theorem filled_low : (filled w lease start).word.extractLsb' 0 96 = w.extractLsb' 0 96 := by
  unfold filled
  split
  · rfl
  · exact BitVec.extractLsb'_append_eq_right

theorem filled_modeL : (filled w lease start).modeL = true ↔ lease ≠ 0 := by
  unfold filled
  split <;> simp_all

theorem filled_lease (modeL : (filled w lease start).modeL = true) :
    (filled w lease start).word.extractLsb' 96 32 = BitVec.ofNat 32 (start / 1024 + lease) := by
  rw [filled, if_neg ((filled_modeL w lease start).mp modeL)]
  exact BitVec.extractLsb'_append_eq_left

end

/-- The state with an entry in the shared and in the requesting TLB of a miss that is gone. -/
def entryWritten (s : State) (k : Nat) (m : Miss) (e : TlbEntry) : State :=
  let u := s.setMisses k ((s.cluster k).misses.filter (· != m))
  (u.setCluster k ((u.cluster k).sharedFill e)).userFill k m.user e

section
variable (s : State) (k : Nat) (m : Miss) (e : TlbEntry)

theorem entryWritten_byteAt : (entryWritten s k m e).byteAt = s.byteAt :=
  (userFill_only _ k m.user e).byteAt.trans ((byteAt_setCluster (x := Cluster.sharedFill _ e) _ rfl).trans (setMisses_only s k _).byteAt)

theorem entryWritten_misses : ((entryWritten s k m e).cluster k).misses = (s.cluster k).misses.filter (· != m) := by
  rw [entryWritten, misses_userFill, cluster_setCluster_same]
  exact misses_setMisses s k _

theorem entryWritten_userTlb : ∃ n, (entryWritten s k m e).userTlb k m.user = (s.userTlb k m.user).fill n e := by
  obtain ⟨n, filled⟩ := userTlb_userFill ((s.setMisses k ((s.cluster k).misses.filter (· != m))).setCluster k
    (((s.setMisses k ((s.cluster k).misses.filter (· != m))).cluster k).sharedFill e)) k m.user e
  refine ⟨n, filled.trans (congrArg (Tlb.fill · n e) ?_)⟩
  cases m.user with
  | core c => rfl
  | copy => simp only [State.userTlb, State.setMisses, cluster_setCluster_same, Cluster.sharedFill]

end

section
variable {s : State} {k : Nat} {pre post : List Miss} {m : Miss} (misses : (s.cluster k).misses = pre ++ m :: post)
  (before : ∀ x ∈ pre, ∀ r, x.state ≠ .walked r)
include misses before

theorem find?_returning {r : WalkEnd} (walked : m.state = .walked r) : (s.cluster k).misses.find? Miss.returning = some m :=
  misses ▸ find?_first (fun x member => returning_eq_false_iff.mpr (before x member)) (by rw [Miss.returning, walked])

theorem exec_tlbFill_fill {w : BitVec 128} (walked : m.state = .walked (.fill w)) : exec (.tlbFill k) s =
    .next ((entryWritten s k m (filled w (recLease (s.ctxRecord m.ctxid)) m.start)).chargePage m.launch
      (filled w (recLease (s.ctxRecord m.ctxid)) m.start)) := by
  show execTlbFill k s = _
  simp only [execTlbFill, find?_returning misses before walked, walked]
  rfl

/-- A walk that returns without an entry puts its miss, with a new state, where it was. -/
theorem putsMiss_tlbFill {r : WalkEnd} {st : MissState} {u : State} (walked : m.state = .walked r) (only : TranslatesOnly s u)
    (runs : (s.cluster k).misses.find? Miss.returning = some m → execTlbFill k s =
      .next (u.setMisses k (updFirst (· == m) (fun m => { m with state := st }) (s.cluster k).misses))) :
    PutsMiss (.tlbFill k) s k pre { m with state := st } post :=
  putsMiss_of_updFirst (f := fun m => { m with state := st }) misses
    (fun x member => beq_eq_false_iff_ne.mpr fun eq => before x member r ((congrArg Miss.state eq).trans walked)) (beq_self_eq_true m) only
    (runs (find?_returning misses before walked))

theorem tlbFill_absent (walked : m.state = .walked .absent) :
    PutsMiss (.tlbFill k) s k pre { m with state := .absent (s.now + 80000) } post :=
  putsMiss_tlbFill misses before walked (unpinned_only s m.launch) fun found => by
    simp only [execTlbFill, found, walked]
    rfl

theorem tlbFill_deny {st : MissState} (walked : m.state = .walked .deny) (left : (if m.second then .final else .denied m.start) = st) :
    PutsMiss (.tlbFill k) s k pre { m with state := st } post :=
  putsMiss_tlbFill misses before walked (.refl s) fun found => by simp only [execTlbFill, found, walked, left]

theorem tlbFill_error (walked : m.state = .walked .error) : PutsMiss (.tlbFill k) s k pre { m with state := .final } post :=
  putsMiss_tlbFill misses before walked (.refl s) fun found => by simp only [execTlbFill, found, walked]

/-- FILL (R165, R169): the entry is written at the requesting TLB's pointer, where no other entry overlaps it, and the miss is gone. -/
theorem tlbFill_fill {w : BitVec 128} (walked : m.state = .walked (.fill w)) : ∃ t, exec (.tlbFill k) s = .next t ∧ SameMemory s t ∧
    (t.cluster k).misses = (s.cluster k).misses.filter (· != m) ∧
    ∃ n, t.userTlb k m.user = (s.userTlb k m.user).fill n (filled w (recLease (s.ctxRecord m.ctxid)) m.start) := by
  obtain ⟨l, charged⟩ := chargePage_eq (entryWritten s k m (filled w (recLease (s.ctxRecord m.ctxid)) m.start))
    (filled w (recLease (s.ctxRecord m.ctxid)) m.start) m.launch
  obtain ⟨n, tlb⟩ := entryWritten_userTlb s k m (filled w (recLease (s.ctxRecord m.ctxid)) m.start)
  refine ⟨_, (exec_tlbFill_fill misses before walked).trans (congrArg Host.Outcome.next charged),
    sameMemory_of_byteAt (entryWritten_byteAt ..), entryWritten_misses .., n, ?_⟩
  rw [userTlb_launches, tlb]

end

/-! ## ABSENT_REWALK and DENY_REWALK (R170) -/

section
variable {s : State} {k : Nat} {pre post : List Miss} {m : Miss} (misses : (s.cluster k).misses = pre ++ m :: post)
include misses

/-- A miss that has waited 50 µs walks again. -/
theorem absentRewalk_over {u : Nat} (absent : m.state = .absent u) (past : u ≤ s.now)
    (before : ∀ x ∈ pre, ∀ v, x.state = .absent v → s.now < v) : PutsMiss (.absentRewalk k) s k pre { m with state := .queued } post := by
  have here : m.absentOver s.now = true := by
    rw [Miss.absentOver, absent]
    exact decide_eq_true past
  have someOver : (s.cluster k).misses.any (·.absentOver s.now) = true :=
    List.any_eq_true.mpr ⟨m, misses ▸ List.mem_append_right pre List.mem_cons_self, here⟩
  refine putsMiss_of_updFirst (p := (·.absentOver s.now)) (f := fun m => { m with state := .queued }) misses
    (fun x member => absentOver_eq_false_iff.mpr (before x member)) here (.refl s) ?_
  show execAbsentRewalk k s = _
  simp only [execAbsentRewalk, someOver, if_true]

/-- Where none has waited so long, the first that waits walks again at a signal. -/
theorem absentRewalk_signalled {u : Nat} (absent : m.state = .absent u) (after : ∀ x ∈ m :: post, ∀ v, x.state = .absent v → s.now < v)
    (before : ∀ x ∈ pre, ∀ v, x.state ≠ .absent v) : PutsMiss (.absentRewalk k) s k pre { m with state := .queued } post := by
  have noneOver : (s.cluster k).misses.any (·.absentOver s.now) = false := by
    refine List.any_eq_false.mpr fun x member => ne_true_of_eq_false (absentOver_eq_false_iff.mpr fun v state => ?_)
    rw [misses, List.mem_append] at member
    rcases member with member | member
    · exact absurd state (before x member v)
    · exact after x member v state
  refine putsMiss_of_updFirst (p := Miss.isAbsent) (f := fun m => { m with state := .queued }) misses
    (fun x member => isAbsent_eq_false_iff.mpr (before x member)) (by rw [Miss.isAbsent, absent]) (.refl s) ?_
  show execAbsentRewalk k s = _
  simp only [execAbsentRewalk, noneOver, Bool.false_eq_true, if_false]

theorem denyRewalk_due {b : Nat} (denied : m.state = .denied b) (due : b + 64 ≤ s.now) (before : ∀ x ∈ pre, ∀ v, x.state ≠ .denied v) :
    PutsMiss (.denyRewalk k) s k pre { m with state := .queued, second := true } post := by
  refine putsMiss_of_updFirst (f := fun m => { m with state := .queued, second := true }) misses ?_ ?_ (.refl s)
    (show execDenyRewalk k s = _ from rfl)
  · intro x member
    split
    case h_1 v state => exact absurd state (before x member v)
    case h_2 => rfl
  · simp only [denied, due, decide_true]

end

/-! ## The obligation -/

/-- Settles O27: a walk by the run of its routine in steps, its return by what it returns, and the re-walks by the first miss that is due. -/
theorem walksAndMisses : Obligations.WalksAndMisses := by
  unfold Obligations.WalksAndMisses
  intro puts comesTo walks s k pre post m misses
  refine ⟨fun rv left walking few before => walksMiss_walking misses walking few before, fun queued idle order sound => ?queued,
    fun before => ⟨fun w walked => ?fill, tlbFill_absent misses before,
      fun walked first => tlbFill_deny misses before walked (if_neg (ne_true_of_eq_false first)),
      fun walked second => tlbFill_deny misses before walked (if_pos second), tlbFill_error misses before⟩,
    fun u absent order => ?absent, fun b denied due before => denyRewalk_due misses denied due before⟩
  case queued =>
    rcases order with ⟨priority, before⟩ | ⟨before, after⟩
    · exact walksMiss_queued misses queued idle (nextMiss_priority queued priority before)
        (fun x member eq => absurd priority (ne_true_of_eq_false (eq ▸ before x member (eq ▸ queued)))) sound
    · exact walksMiss_queued misses queued idle (nextMiss_ordinary queued before after) (fun x member eq => before x member (eq ▸ queued)) sound
  case fill =>
    obtain ⟨t, next, memory, gone, n, tlb⟩ := tlbFill_fill misses before walked
    refine ⟨t, _, next, memory, gone.trans (List.filter_congr fun x _ => ?_), ?_, filled_low .., filled_modeL .., filled_lease _ _ _, ?_⟩
    · rw [decide_not]
      rfl
    · rw [tlb]
      exact find?_fill_ptr ..
    · rw [tlb]
      exact fun a f => overlaps_of_find?_fill _ n _
  case absent =>
    rcases order with ⟨past, before⟩ | ⟨after, before⟩
    · exact absentRewalk_over misses absent past before
    · exact absentRewalk_signalled misses absent after before

end Sys2Proof.Laws

/-!
The end of a granted matrix command (R232, R240, R350): which one completes, the row sums that it writes, what that says where the memories
are canonical, and the refutation of O38.
-/

namespace Sys2Proof.Laws

open Sys2Proof Sys2Proof.Machine

/-! ## The command that completes (R232) -/

/-- Granted commands that are no drains. -/
def undrained (l : List MxGranted) : List MxGranted := l.filter fun g => !g.entry.cmd.isDrain

/-- Of several granted commands, those that no earlier one holds back. -/
def ableToComplete (l : List MxGranted) : List MxGranted :=
  l.zipIdx.filterMap fun x => if (l.take x.2).all fun h => x.1.entry.cmd.passes h.entry.cmd then some x.1 else none

/-- What the completion of the granted command `g` leaves. -/
def matrixCompleted (s : State) (k : Nat) (g : MxGranted) : State :=
  let t := s.paySums k g fun _ => true
  t.setCluster k { t.cluster k with mxGranted := (s.cluster k).mxGranted.filter fun h => h.entry.seq != g.entry.seq }

theorem mem_ableToComplete {l : List MxGranted} {g : MxGranted} (able : g ∈ ableToComplete l) :
    ∃ pre post, l = pre ++ g :: post ∧ ∀ h ∈ pre, g.entry.cmd.passes h.entry.cmd = true := by
  obtain ⟨⟨h, n⟩, member, kept⟩ := List.mem_filterMap.mp able
  obtain ⟨inside, rfl⟩ : ∃ inside : n < l.length, l[n] = h := List.getElem?_eq_some_iff.mp (List.mem_zipIdx_iff_getElem?.mp member)
  split at kept
  next passes =>
    obtain rfl := Option.some.inj kept
    exact ⟨l.take n, l.drop (n + 1), by rw [← List.drop_eq_getElem_cons inside, List.take_append_drop], List.all_eq_true.mp passes⟩
  next => exact absurd kept (by simp)

theorem ableToComplete_ne_nil {l : List MxGranted} (some : l ≠ []) : 0 < (ableToComplete l).length := by
  obtain ⟨g, rest, rfl⟩ := List.exists_cons_of_ne_nil some
  exact List.length_pos_of_mem (List.mem_filterMap.mpr ⟨(g, 0), List.mem_zipIdx_iff_getElem?.mpr rfl, rfl⟩)

/-- An element between the ones that a condition keeps stands between all of them. -/
theorem filter_eq_append_cons {α : Type} {p : α → Bool} {l pre post : List α} {a : α} (kept : l.filter p = pre ++ a :: post) :
    ∃ before after, l = before ++ a :: after ∧ ∀ b ∈ before, p b = true → b ∈ pre := by
  obtain ⟨before, tail, rfl, first, rest⟩ := List.filter_eq_append_iff.mp kept
  obtain ⟨skipped, after, rfl, none, -, -⟩ := List.filter_eq_cons_iff.mp rest
  refine ⟨before ++ skipped, after, (List.append_assoc ..).symm, fun b member holds => ?_⟩
  rcases List.mem_append.mp member with member | member
  · exact first ▸ List.mem_filter.mpr ⟨member, holds⟩
  · exact absurd holds (none b member)

theorem exec_matrixComplete_eq (s : State) (k : Nat) : exec (.matrixComplete k) s =
    let able := ableToComplete (undrained (s.cluster k).mxGranted)
    match able[s.freeNat 3 % able.length]? with
    | none => .next s
    | some g => .next (matrixCompleted s k g) := rfl

theorem exec_matrixComplete {s : State} {k : Nat} (granted : ∃ g ∈ (s.cluster k).mxGranted, g.entry.cmd.isDrain = false) :
    ∃ pre g post, (s.cluster k).mxGranted = pre ++ g :: post ∧ g.entry.cmd.isDrain = false ∧
      (∀ h ∈ pre, h.entry.cmd.isDrain = true ∨ (h.entry.cmd.late = true ∧ g.entry.cmd.late = false)) ∧
      exec (.matrixComplete k) s = .next (matrixCompleted s k g) := by
  obtain ⟨g₀, member₀, notDrain₀⟩ := granted
  have pos : 0 < (ableToComplete (undrained (s.cluster k).mxGranted)).length :=
    ableToComplete_ne_nil (List.ne_nil_of_mem (List.mem_filter.mpr ⟨member₀, by rw [notDrain₀]; rfl⟩))
  have inside := Nat.mod_lt (s.freeNat 3) pos
  obtain ⟨g, chosen⟩ : ∃ g, (ableToComplete (undrained (s.cluster k).mxGranted))[s.freeNat 3 %
      (ableToComplete (undrained (s.cluster k).mxGranted)).length]? = some g := ⟨_, List.getElem?_eq_getElem inside⟩
  obtain ⟨pre, post, split, passes⟩ := mem_ableToComplete (List.mem_of_getElem? chosen)
  obtain ⟨before, after, whole, earlier⟩ := filter_eq_append_cons split
  refine ⟨before, g, after, whole, ?_, fun h member => ?_, ?_⟩
  · have kept : g ∈ undrained (s.cluster k).mxGranted := split ▸ List.mem_append_right _ (List.mem_cons_self ..)
    simpa using (List.mem_filter.mp kept).2
  · cases drain : h.entry.cmd.isDrain with
    | true => exact .inl rfl
    | false => simpa [MxCmd.passes] using passes h (earlier h member (by rw [drain]; rfl))
  · rw [exec_matrixComplete_eq]
    dsimp only
    rw [chosen]

/-! ## The row sums (R240, R350) -/

theorem readLE_writeLE_word {m : Mem} (wf : m.wf = true) (a : Nat) (v : W32) : (m.writeLE a 4 v).readLE a 4 32 = v := by
  refine BitVec.eq_of_getLsbD_eq fun i inside => ?_
  have byte := extractLsb'_readLE (w := 32) (m.writeLE a 4 v) a (n := 4) (j := i / 8) (by omega) (by omega)
  rw [read_writeLE_same wf a v (by omega)] at byte
  have bit := congrArg (·.getLsbD (i % 8)) byte
  rwa [BitVec.getLsbD_extractLsb', BitVec.getLsbD_extractLsb', show 8 * (i / 8) + i % 8 = i by omega,
    decide_eq_true (Nat.mod_lt i (by decide)), Bool.true_and, Bool.true_and] at bit

/-- A scratchpad with row sums written. -/
def withSums (m : Mem) (l : List (Nat × W32)) : Mem := l.foldl (fun m x => m.writeLE x.1 4 x.2) m

theorem withSums_concat (m : Mem) (l : List (Nat × W32)) (x : Nat × W32) : withSums m (l ++ [x]) = (withSums m l).writeLE x.1 4 x.2 :=
  List.foldl_concat ..

section
variable {m : Mem} (wf : m.wf = true)
include wf

theorem wf_withSums (l : List (Nat × W32)) : (withSums m l).wf = true := by
  induction l using List.reverseRecOn with
  | nil => exact wf
  | append_singleton l x earlier => exact withSums_concat m l x ▸ Mem.wf_writeLE earlier x.1 4 x.2

theorem read_withSums_outside {l : List (Nat × W32)} {a : Nat} (outside : ∀ x ∈ l, ∀ b < 4, x.1 + b ≠ a) :
    (withSums m l).read a = m.read a := by
  induction l using List.reverseRecOn with
  | nil => rfl
  | append_singleton l x earlier =>
    rw [withSums_concat, read_writeLE_outside (wf_withSums wf l) x.2 (outside x (List.mem_append_right _ (List.mem_singleton_self x)))]
    exact earlier fun y member => outside y (List.mem_append_left _ member)

theorem readLE_withSums {l : List (Nat × W32)} (apart : ∀ x ∈ l, ∀ y ∈ l, x = y ∨ x.1 + 4 ≤ y.1 ∨ y.1 + 4 ≤ x.1) {x : Nat × W32}
    (member : x ∈ l) : (withSums m l).readLE x.1 4 32 = x.2 := by
  induction l using List.reverseRecOn with
  | nil => exact absurd member (List.not_mem_nil)
  | append_singleton l y earlier =>
    have last : y ∈ l ++ [y] := List.mem_append_right _ (List.mem_singleton_self y)
    rw [withSums_concat]
    rcases apart x member y last with rfl | disjoint
    · exact readLE_writeLE_word (wf_withSums wf l) x.1 x.2
    · have inside : x ∈ l := (List.mem_append.mp member).resolve_right fun same => by
        rw [List.mem_singleton.mp same] at disjoint
        omega
      rw [readLE_congr (b := x.1) fun j low => read_writeLE_outside (wf_withSums wf l) y.2 fun i small => by omega]
      exact earlier (fun a first b second => apart a (List.mem_append_left _ first) b (List.mem_append_left _ second)) inside

end

section
variable (s : State) (k : Nat)

/-- Row sums written one after the other, each with the number of its place among those owed. -/
def putSums (l : List ((Nat × W32) × Nat)) : State := l.foldl (fun s x => s.scratchPut k x.1.1 (leBytes x.1.2 4)) s

theorem putSums_cluster (l : List ((Nat × W32) × Nat)) :
    (putSums s k l).cluster k = { s.cluster k with scratch := withSums (s.cluster k).scratch (l.map (·.1)) } := by
  induction l generalizing s with
  | nil => rfl
  | cons x l later =>
    refine (later (s.scratchPut k x.1.1 (leBytes x.1.2 4))).trans ?_
    rw [State.scratchPut, cluster_setCluster_same]
    rfl

theorem putSums_byteAt {l : List ((Nat × W32) × Nat)} {p : Place} (other : ∀ a, p ≠ .scratch k a) :
    (putSums s k l).byteAt p = s.byteAt p := by
  induction l generalizing s with
  | nil => rfl
  | cons x l later => exact (later _).trans (byteAt_put_other (b := .scratch k) (s := s) _ other)

variable (g : MxGranted)

theorem matrixCompleted_eq : matrixCompleted s k g =
    let u := (putSums s k g.sums.zipIdx).oweSums k g.entry.seq []
    u.setCluster k { u.cluster k with mxGranted := (s.cluster k).mxGranted.filter fun h => h.entry.seq != g.entry.seq } := by
  rw [matrixCompleted, State.paySums]
  simp only [Bool.not_true, List.filter_true, List.filter_false, List.map_nil]
  rfl

theorem matrixCompleted_granted : ((matrixCompleted s k g).cluster k).mxGranted =
    (s.cluster k).mxGranted.filter fun h => decide (h.entry.seq ≠ g.entry.seq) := by
  rw [matrixCompleted, cluster_setCluster_same]
  exact List.filter_congr fun h _ => by rw [bne, decide_not]; rfl

theorem matrixCompleted_scratch : ((matrixCompleted s k g).cluster k).scratch = withSums (s.cluster k).scratch g.sums := by
  rw [matrixCompleted_eq, cluster_setCluster_same, State.oweSums, cluster_setCluster_same, putSums_cluster]
  rw [List.zipIdx_map_fst]

theorem matrixCompleted_byteAt {p : Place} (other : ∀ a, p ≠ .scratch k a) : (matrixCompleted s k g).byteAt p = s.byteAt p := by
  have owed : ((putSums s k g.sums.zipIdx).oweSums k g.entry.seq []).byteAt = (putSums s k g.sums.zipIdx).byteAt :=
    byteAt_setCluster (putSums s k g.sums.zipIdx) rfl
  have gone : (matrixCompleted s k g).byteAt = ((putSums s k g.sums.zipIdx).oweSums k g.entry.seq []).byteAt := by
    rw [matrixCompleted_eq]
    exact byteAt_setCluster _ rfl
  rw [gone, owed, putSums_byteAt s k other]

/-- What `MatrixCompletes` says of the bytes outside the row sums holds where the scratchpad is in canonical form. -/
theorem matrixCompleted_byteAt_outside (wf : (s.cluster k).scratch.wf = true) {p : Place}
    (outside : ∀ x ∈ g.sums, ∀ b < 4, p ≠ .scratch k (x.1 + b)) : (matrixCompleted s k g).byteAt p = s.byteAt p := by
  by_cases here : ∃ a, p = .scratch k a
  · obtain ⟨a, rfl⟩ := here
    show ((matrixCompleted s k g).cluster k).scratch.read a = (s.cluster k).scratch.read a
    rw [matrixCompleted_scratch]
    exact read_withSums_outside wf fun x member b low same => outside x member b low (same ▸ rfl)
  · exact matrixCompleted_byteAt s k g fun a same => here ⟨a, same⟩

end

/-- `MatrixCompletes` as far as it holds: on canonical memories. -/
theorem exec_matrixComplete_canonical {s : State} {k : Nat} (ok : s.memOk = true)
    (granted : ∃ g ∈ (s.cluster k).mxGranted, g.entry.cmd.isDrain = false) :
    ∃ t pre g post, (s.cluster k).mxGranted = pre ++ g :: post ∧ g.entry.cmd.isDrain = false ∧
      (∀ h ∈ pre, h.entry.cmd.isDrain = true ∨ (h.entry.cmd.late = true ∧ g.entry.cmd.late = false)) ∧
      exec (.matrixComplete k) s = .next t ∧
      (t.cluster k).mxGranted = (s.cluster k).mxGranted.filter (fun h => decide (h.entry.seq ≠ g.entry.seq)) ∧
      (∀ q, (∀ x ∈ g.sums, ∀ b < 4, q ≠ .scratch k (x.1 + b)) → t.byteAt q = s.byteAt q) ∧
      ((∀ x ∈ g.sums, ∀ y ∈ g.sums, x = y ∨ x.1 + 4 ≤ y.1 ∨ y.1 + 4 ≤ x.1) →
        ∀ x ∈ g.sums, (t.cluster k).scratch.readLE x.1 4 32 = x.2) := by
  obtain ⟨pre, g, post, split, notDrain, earlier, next⟩ := exec_matrixComplete granted
  have wf : (s.cluster k).scratch.wf = true := (memOk_cluster ok k).1.1
  exact ⟨_, pre, g, post, split, notDrain, earlier, next, matrixCompleted_granted s k g,
    fun q => matrixCompleted_byteAt_outside s k g wf,
    fun apart x member => by rw [matrixCompleted_scratch]; exact readLE_withSums wf apart member⟩

/-! ## The obligation -/

/-- One matrix command is granted in cluster 0 and owes the row sum 0 at offset 16 of the scratchpad, whose memory is not in canonical form:
the entry of byte 3 comes after that of byte 16, so that byte 3 reads as unlisted while byte 16 is listed. -/
def disordered : State :=
  State.reset.setCluster 0 { Cluster.reset with scratch := [(16, 1), (3, 2)], mxGranted := [⟨0, ⟨0, 0, .mzero 0⟩, [(16, 0)]⟩] }

theorem disordered_memOk : disordered.memOk = false := by decide

/-- Refutes O38: `MatrixCompletes` says of every state, and not only of those whose memories are in canonical form, that a completion changes no
byte outside the row sums that it writes. In `disordered` it writes 0 to byte 16, whose entry goes, and byte 3 no longer reads as it did. On a
canonical scratchpad the clause holds (`exec_matrixComplete_canonical`). -/
theorem not_matrixCommands : ¬ Obligations.MatrixCommands := by
  rintro ⟨-, -, completes⟩
  obtain ⟨t, pre, g, post, granted, -, -, next, -, keeps, -⟩ := completes disordered 0 ⟨_, List.mem_singleton_self _, rfl⟩
  obtain ⟨pre', h, post', granted', -, -, next'⟩ := exec_matrixComplete (s := disordered) (k := 0) ⟨_, List.mem_singleton_self _, rfl⟩
  obtain rfl := Host.Outcome.next.inj (next.symm.trans next')
  have only {before after : List MxGranted} {x : MxGranted} (split : (disordered.cluster 0).mxGranted = before ++ x :: after) :
      x = ⟨0, ⟨0, 0, .mzero 0⟩, [(16, 0)]⟩ :=
    List.mem_singleton.mp (show x ∈ (disordered.cluster 0).mxGranted from split ▸ List.mem_append_right _ (List.mem_cons_self ..))
  obtain rfl := only granted
  obtain rfl := only granted'
  have byte : ((matrixCompleted disordered 0 _).cluster 0).scratch.read 3 = (disordered.cluster 0).scratch.read 3 :=
    keeps (.scratch 0 3) fun x member b low same => by
      obtain rfl := List.mem_singleton.mp member
      have := (Place.scratch.inj same).2
      omega
  rw [matrixCompleted_scratch] at byte
  exact absurd byte (by decide)

end Sys2Proof.Laws

/-!
Commands of the copy engine at issue (R176, R180, R181, R187, R191, R192): channels, their queues and chains, and obligation O29.
-/

namespace Sys2Proof.Laws

open Sys2Proof Sys2Proof.Machine

/-! ## Channels (R176) -/

section
variable (x : Cluster) {ch : Nat} (low : ch < 8) (c : Channel)

theorem memories_setChannel (ch : Nat) : memories (x.setChannel ch c) = memories x := by
  unfold Cluster.setChannel
  split <;> rfl

include low

theorem channel_eq : x.channel ch = x.channels[ch] := dif_pos low

theorem setChannel_eq : x.setChannel ch c = { x with channels := x.channels.set ch c low } := dif_pos low

theorem channel_setChannel_same : (x.setChannel ch c).channel ch = c := by
  rw [setChannel_eq x low, channel_eq _ low]
  exact Vector.getElem_set_self low

end

theorem byteAt_setChannel (s : State) (k ch : Nat) (c : Channel) : (s.setCluster k ((s.cluster k).setChannel ch c)).byteAt = s.byteAt :=
  byteAt_setCluster s (memories_setChannel ..)

section
variable (s : State) (k : Nat) (t : Transfer) (front : Bool)

theorem byteAt_enqueueCopy : (s.enqueueCopy k t front).2.byteAt = s.byteAt := byteAt_setChannel ..

/-- A transfer in its channel's queue: it has the next number. -/
theorem channel_enqueueCopy (low : t.ch < 8) : let c := (s.cluster k).channel t.ch
    let q := { t with no := c.lastNo + 1 }
    ((s.enqueueCopy k t front).2.cluster k).channel t.ch =
      { c with lastNo := c.lastNo + 1, queue := if front then q :: c.queue else c.queue ++ [q] } := by
  dsimp only
  rw [State.enqueueCopy]
  dsimp only
  rw [cluster_setCluster_same, channel_setChannel_same _ low]

end

theorem ringOk_iff (s : State) (k ring : Nat) : s.ringOk k ring = true ↔ ring ≤ 63 ∧ ((s.cluster k).ring ring).size ≠ 0 := by
  simp [State.ringOk]

theorem ringOk_eq_false_iff (s : State) (k ring : Nat) :
    s.ringOk k ring = false ↔ ¬(ring ≤ 63 ∧ ((s.cluster k).ring ring).size ≠ 0) := by
  rw [← ringOk_iff, Bool.not_eq_true]

/-! ## The forms of an engine's instructions (R67, R179, R180) -/

section
variable {s : State}

theorem phaseCheck_traps {bad : Bool} {w : W64} (phase : s.ctx.phase = .compute) (away : bad = true) (fresh : s.th.stall = none)
    (go : State → Out) : phaseCheck bad w s go = .next (trapEntry 6 w s) := if_pos ⟨phase, away, fresh⟩

theorem phaseCheck_passes {bad : Bool} {w : W64} (pass : s.ctx.phase = .exchange ∨ bad = false ∨ s.th.stall ≠ none) (go : State → Out) :
    phaseCheck bad w s go = go s := by
  refine if_neg fun ⟨phase, away, fresh⟩ => ?_
  rcases pass with pass | pass | pass
  · exact Phase.noConfusion (phase.symm.trans pass)
  · exact Bool.noConfusion (away.symm.trans pass)
  · exact pass fresh

theorem waitFor_goes {b : Bool} (holds : b = true) (len : Nat) (go : State → Out) : waitFor len b s go = go s := if_pos holds

theorem waitFor_waits {b : Bool} (fails : b = false) (fresh : s.th.stall = none) (len : Nat) (go : State → Out) :
    waitFor len b s go = .next (s.setTh { s.th with stall := some ⟨len, 0, .retry⟩ }) := by
  rw [waitFor, if_neg (ne_true_of_eq_false fails), fresh]
  rfl

theorem copyFail_eq (rd : SReg) (v : W64) (s : State) :
    copyFail rd v s = .next ((s.setCtx { s.ctx with accerr := true }).setTh ((s.th.setReg rd v).past 12)) := by
  rw [copyFail, State.setAccerr, result, State.th, ctx_setCtx]
  rfl

theorem accerr_past (s : State) (len : Nat) : s.setAccerr.past len = (s.setCtx { s.ctx with accerr := true }).setTh (s.th.past len) := by
  rw [State.setAccerr, State.past, State.th, ctx_setCtx]
  rfl

end

/-! ## CPY (R180, R181) -/

/-- The transfer that a CPY queues, before its channel numbers it. -/
def cpyTransfer (s : State) (ssh dsh dstr defer code : Bool) (ch : BitVec 3) (ra rb : SReg) (ring : BitVec 8) (tag : W32)
    (h : BitVec 768) : Transfer :=
  s.transfer s.ctx s.focus ssh dsh dstr defer code (s.reg ra) (s.reg rb) h ch.toNat ring.toNat tag .plain

/-- What a command that has passed its checks comes to: its transfer is queued where its channel has room. -/
def queuesOn (s : State) (rd : SReg) (h : BitVec 768) (t : Transfer) : Out :=
  if s.roomOn s.clu t.ch then result 12 rd (BitVec.ofNat 64 (s.enqueueCopy s.clu t false).1) (s.enqueueCopy s.clu t false).2
  else match s.th.stall with
    | some _ => wait s
    | none => .next (s.stall 12 rd (.copy h))

/-- A checked command's transfer, numbered, is the last of its channel's queue, and the number is in `rd`. -/
theorem queuesOn_room {s : State} {t : Transfer} (low : t.ch < 8) (room : ((s.cluster s.clu).channel t.ch).queue.length < 16) (rd : SReg)
    (h : BitVec 768) : let c := (s.cluster s.clu).channel t.ch
    ∃ u, queuesOn s rd h t = .next u ∧ SameMemory s u ∧ u.th = (s.th.setReg rd (BitVec.ofNat 64 (c.lastNo + 1))).past 12 ∧
      (u.cluster u.clu).channel t.ch = { c with lastNo := c.lastNo + 1, queue := c.queue ++ [{ t with no := c.lastNo + 1 }] } :=
  ⟨_, if_pos (decide_eq_true room), sameMemory_of_byteAt ((byteAt_setTh _ _).trans (byteAt_enqueueCopy ..)), th_setTh _ _,
    channel_enqueueCopy s s.clu t false low⟩

theorem queuesOn_full {s : State} {t : Transfer} (full : 16 ≤ ((s.cluster s.clu).channel t.ch).queue.length) (fresh : s.th.stall = none)
    (rd : SReg) (h : BitVec 768) : queuesOn s rd h t = .next (s.setTh { s.th with stall := some ⟨12, rd, .copy h⟩ }) := by
  have none : s.roomOn s.clu t.ch = false := decide_eq_false (Nat.not_lt.mpr full)
  rw [queuesOn, fresh, if_neg (ne_true_of_eq_false none)]
  rfl

section
variable {s : State} {ssh dsh dstr defer code : Bool} {ch : BitVec 3} {rd ra rb rc : SReg} {ring : BitVec 8} {tag : W32}

/-- Whether a CPY leaves its cluster: a shared side, or an address outside it (R180). -/
def cpyLeaves (s : State) (ssh dsh : Bool) (ra rb rc : SReg) : Bool :=
  ssh || dsh || leavesCluster s.focus (s.reg ra) || leavesCluster s.focus (s.reg rb) || leavesCluster s.focus (s.reg rc)

/-- Whether the flags of a CPY break a rule of R180. -/
def cpyFlagsBad (s : State) (ssh dsh defer code : Bool) (rb : SReg) : Bool :=
  (defer && !dsh) || (code && (!ssh || dsh || notOpm (s.reg rb) || opmType (s.reg rb) != 0))

variable (has : s.has [ra, rb, rc, rd] = true)
include has

theorem exec_cpy_traps (phase : s.ctx.phase = .compute) (away : cpyLeaves s ssh dsh ra rb rc = true) (fresh : s.th.stall = none) :
    exec (.cpy ssh dsh dstr defer code ch rd ra rb rc ring tag) s =
      .next (trapEntry 6 (((encode (.cpy ssh dsh dstr defer code ch rd ra rb rc ring tag)).headD 0).setWidth 64) s) := by
  show execCpy ssh dsh dstr defer code ch rd ra rb rc ring tag s = _
  rw [execCpy, ready_of_has has]
  exact phaseCheck_traps phase away fresh _

/-- A CPY that has waited for a place in the queue goes on with the shape record that it read. -/
theorem exec_cpy_again {n : Nat} {d : SReg} {h : BitVec 768} (stall : s.th.stall = some ⟨n, d, .copy h⟩) :
    exec (.cpy ssh dsh dstr defer code ch rd ra rb rc ring tag) s =
      queuesOn s rd h (cpyTransfer s ssh dsh dstr defer code ch ra rb ring tag h) := by
  show execCpy ssh dsh dstr defer code ch rd ra rb rc ring tag s = _
  rw [execCpy, ready_of_has has]
  refine (phaseCheck_passes (.inr (.inr (by rw [stall]; exact Option.some_ne_none _))) _).trans ?_
  simp only [stall, queuesOn]
  rfl

variable (pass : s.ctx.phase = .exchange ∨ cpyLeaves s ssh dsh ra rb rc = false) (fresh : s.th.stall = none)
include pass fresh

theorem exec_cpy_unshaped (none : engineLoc s.focus s.ctx (s.reg rc) 96 = none) :
    exec (.cpy ssh dsh dstr defer code ch rd ra rb rc ring tag) s =
      .next ((s.setCtx { s.ctx with accerr := true }).setTh ((s.th.setReg rd 0).past 12)) := by
  show execCpy ssh dsh dstr defer code ch rd ra rb rc ring tag s = _
  rw [execCpy, ready_of_has has]
  refine (phaseCheck_passes (bad := cpyLeaves s ssh dsh ra rb rc) (pass.imp_right .inl) _).trans ?_
  simp only [fresh, none]
  exact copyFail_eq ..

theorem exec_cpy_shaped {l : EngineLoc} (loc : engineLoc s.focus s.ctx (s.reg rc) 96 = some l) :
    exec (.cpy ssh dsh dstr defer code ch rd ra rb rc ring tag) s =
      let h := BitVec.ofNat 768 (leNat (s.engineBytes s.focus l 96))
      if !s.ringOk s.clu ring.toNat || cpyFlagsBad s ssh dsh defer code rb then
        .next ((s.setCtx { s.ctx with accerr := true }).setTh ((s.th.setReg rd 0).past 12))
      else queuesOn s rd h (cpyTransfer s ssh dsh dstr defer code ch ra rb ring tag h) := by
  show execCpy ssh dsh dstr defer code ch rd ra rb rc ring tag s = _
  rw [execCpy, ready_of_has has]
  refine (phaseCheck_passes (bad := cpyLeaves s ssh dsh ra rb rc) (pass.imp_right .inl) _).trans ?_
  simp only [fresh, loc, copyFail_eq, cpyFlagsBad, queuesOn, Bool.or_assoc]
  rfl

end

/-! ## CPYM and CPYCH (R191, R192) -/

section
variable {s : State} {ssh dstr : Bool} {flag : BitVec 2} {ch : BitVec 3} {rd ra rb rc : SReg} {ring : BitVec 8} {off : W32}
variable (has : s.has [ra, rb, rc, rd] = true)
include has

theorem exec_cpym_compute (phase : s.ctx.phase = .compute) (fresh : s.th.stall = none) :
    exec (.cpym ssh dstr flag ch rd ra rb rc ring off) s =
      .next (trapEntry 6 (((encode (.cpym ssh dstr flag ch rd ra rb rc ring off)).headD 0).setWidth 64) s) := by
  show execCpym ssh dstr flag ch rd ra rb rc ring off s = _
  rw [execCpym, ready_of_has has]
  exact phaseCheck_traps phase rfl fresh _

variable (phase : s.ctx.phase = .exchange) (fresh : s.th.stall = none)
include phase fresh

theorem exec_cpym_unshaped (none : engineLoc s.focus s.ctx (s.reg rc) 96 = none) : exec (.cpym ssh dstr flag ch rd ra rb rc ring off) s =
    .next ((s.setCtx { s.ctx with accerr := true }).setTh ((s.th.setReg rd 0).past 12)) := by
  show execCpym ssh dstr flag ch rd ra rb rc ring off s = _
  rw [execCpym, ready_of_has has]
  refine (phaseCheck_passes (.inl phase) _).trans ?_
  simp only [fresh, none]
  exact copyFail_eq ..

theorem exec_cpym_shaped {l : EngineLoc} (loc : engineLoc s.focus s.ctx (s.reg rc) 96 = some l) :
    exec (.cpym ssh dstr flag ch rd ra rb rc ring off) s =
      if !s.ringOk s.clu ring.toNat || !mcastOk s (s.reg rb) || decide (0x40000 ≤ off.toNat) then
        .next ((s.setCtx { s.ctx with accerr := true }).setTh ((s.th.setReg rd 0).past 12))
      else .next (s.setTh { s.th with stall := some ⟨12, rd, .mcast ⟨s.now, flag, s.reg rb,
        BitVec.ofNat 768 (leNat (s.engineBytes s.focus l 96)), ssh, dstr, ch, s.reg ra, ring, off⟩⟩ }) := by
  show execCpym ssh dstr flag ch rd ra rb rc ring off s = _
  rw [execCpym, ready_of_has has]
  refine (phaseCheck_passes (.inl phase) _).trans ?_
  simp only [fresh, loc, copyFail_eq]
  rfl

end

section
variable {s : State} {sh : Bool} {ch : BitVec 3} {ra : SReg} {ring : BitVec 8} (has : s.has [ra] = true)

/-- The chain that a CPYCH gives its channel. -/
def newChain (s : State) (sh : Bool) (ra : SReg) (ring : BitVec 8) : Chain :=
  ⟨some (s.reg ra), sh, ring.toNat, s.focus, s.ctx.launch, s.ctx.ctxid, s.ctx.mtiles, s.ctx.origin, s.ctx.region,
    s.relAfter s.focus s.ctx.launch, false, false⟩

theorem byteAt_setChain (s : State) (k ch : Nat) (h : Option Chain) : (s.setChain k ch h).byteAt = s.byteAt := byteAt_setChannel ..

theorem channel_setChain (s : State) (k : Nat) {ch : Nat} (low : ch < 8) (h : Option Chain) :
    ((s.setChain k ch h).cluster k).channel ch = { (s.cluster k).channel ch with chain := h } := by
  rw [State.setChain, cluster_setCluster_same, channel_setChannel_same _ low]

theorem forgetTransfer_only (s : State) (k acc : Nat) : TranslatesOnly s (s.forgetTransfer k acc) :=
  (forget_only ..).trans ((forget_only ..).trans (forget_only ..))

/-- A translation leaves the channels. -/
theorem TranslatesOnly.channel {s t : State} (only : TranslatesOnly s t) (k ch : Nat) : (t.cluster k).channel ch = (s.cluster k).channel ch :=
  (congrArg (fun x : Cluster => x.channel ch) (only.clusters k) :)

include has

theorem exec_cpych_compute (phase : s.ctx.phase = .compute) (fresh : s.th.stall = none) : exec (.cpych sh ch ra ring) s =
    .next (trapEntry 6 (((encode (.cpych sh ch ra ring)).headD 0).setWidth 64) s) := by
  show execCpych sh ch ra ring s = _
  rw [execCpych, ready_of_has has]
  exact phaseCheck_traps phase rfl fresh _

variable (phase : s.ctx.phase = .exchange)
include phase

theorem exec_cpych_waits (runs : ((s.cluster s.clu).channel ch.toNat).chain ≠ none) (fresh : s.th.stall = none) :
    exec (.cpych sh ch ra ring) s = .next (s.setTh { s.th with stall := some ⟨12, 0, .retry⟩ }) := by
  show execCpych sh ch ra ring s = _
  rw [execCpych, ready_of_has has]
  refine (phaseCheck_passes (.inl phase) _).trans ?_
  exact waitFor_waits (Option.isNone_eq_false_iff.mpr (Option.isSome_iff_ne_none.mpr runs)) fresh 12 _

theorem exec_cpych_gives (ended : ((s.cluster s.clu).channel ch.toNat).chain = none) : exec (.cpych sh ch ra ring) s =
    .next (((s.setChain s.clu ch.toNat (some (newChain s sh ra ring))).forgetTransfer s.clu (chainAcc ch.toNat)).past 12) := by
  show execCpych sh ch ra ring s = _
  rw [execCpych, ready_of_has has]
  refine (phaseCheck_passes (.inl phase) _).trans ?_
  exact waitFor_goes (Option.isNone_iff_eq_none.mpr ended) 12 _

end

/-! ## The obligation -/

theorem cpyLeaves_iff (s : State) (ssh dsh : Bool) (ra rb rc : SReg) :
    let away (a : W64) : Prop := a.extractLsb' 44 20 ≠ 0 ∨ ownCluster s.focus a = false
    cpyLeaves s ssh dsh ra rb rc = true ↔ ssh = true ∨ dsh = true ∨ away (s.reg ra) ∨ away (s.reg rb) ∨ away (s.reg rc) := by
  simp only [cpyLeaves, Bool.or_eq_true, leavesCluster_iff, or_assoc]

theorem cpyFlagsBad_iff (s : State) (ssh dsh defer code : Bool) (rb : SReg) : cpyFlagsBad s ssh dsh defer code rb = true ↔
    ¬((defer = true → dsh = true) ∧ (code = true → ssh = true ∧ dsh = false ∧ notOpm (s.reg rb) = false ∧ opmType (s.reg rb) = 0)) := by
  rw [cpyFlagsBad]
  by_cases window : notOpm (s.reg rb) = false ∧ opmType (s.reg rb) = 0
  · cases ssh <;> cases dsh <;> cases defer <;> cases code <;> simp [window]
  · have bad : (notOpm (s.reg rb) || opmType (s.reg rb) != 0) = true := by
      rw [Bool.or_eq_true, bne_iff_ne]
      exact (not_and_or.mp window).imp_left eq_true_of_ne_false
    cases ssh <;> cases dsh <;> cases defer <;> cases code <;> simp [bad, window]

/-- Settles O29: each command by whether it leaves its cluster, by its checks and by the room of its channel. -/
theorem copyCommands : Obligations.CopyCommands := by
  unfold Obligations.CopyCommands
  intro bad stalls chan ringOk queued
  refine ⟨fun s ssh dsh dstr defer code ch rd ra rb rc ring tag has => ?cpy, fun s ssh dstr flag ch rd ra rb rc ring off has => ?cpym,
    fun s sh ch ra ring has => ?cpych⟩
  case cpy =>
    intro away outside i flags like
    have leaves : cpyLeaves s ssh dsh ra rb rc = true ↔ outside := cpyLeaves_iff s ssh dsh ra rb rc
    have pass (phase : s.ctx.phase = .exchange ∨ ¬outside) : s.ctx.phase = .exchange ∨ cpyLeaves s ssh dsh ra rb rc = false :=
      phase.imp_right fun inside => eq_false_of_ne_true (mt leaves.mp inside)
    have queues (h : BitVec 768) (room : (chan s ch).queue.length < 16)
        (form : exec i s = queuesOn s rd h (cpyTransfer s ssh dsh dstr defer code ch ra rb ring tag h)) : queued i s ch rd (like h) := by
      obtain ⟨u, next, memory, th, channel⟩ := queuesOn_room (t := cpyTransfer s ssh dsh dstr defer code ch ra rb ring tag h) ch.isLt room rd h
      exact ⟨u, _, form.trans next, memory, th, congrArg Channel.queue channel, congrArg Channel.lastNo channel, rfl, rfl, rfl, rfl, rfl, rfl,
        rfl, rfl, rfl, rfl, rfl, rfl, rfl, rfl, rfl, rfl, rfl⟩
    refine ⟨fun phase out fresh => exec_cpy_traps has phase (leaves.mpr out) fresh, fun phase fresh fails => ?_,
      fun phase fresh ring_ good l loc => ?_, fun n d h stall room => queues h room (exec_cpy_again has stall)⟩
    · cases loc : engineLoc s.focus s.ctx (s.reg rc) 96 with
      | none => exact exec_cpy_unshaped has (pass phase) fresh loc
      | some l =>
        refine (exec_cpy_shaped has (pass phase) fresh loc).trans (if_pos ?_)
        rw [Bool.or_eq_true, Bool.not_eq_true', ringOk_eq_false_iff, cpyFlagsBad_iff]
        exact fails.resolve_left (loc ▸ Option.some_ne_none l)
    · have passes := (exec_cpy_shaped (dstr := dstr) (ch := ch) (tag := tag) has (pass phase) fresh loc).trans (if_neg (by
        rw [Bool.or_eq_true, Bool.not_eq_true', ringOk_eq_false_iff, cpyFlagsBad_iff]
        exact not_or.mpr ⟨not_not_intro ring_, not_not_intro good⟩))
      exact ⟨fun room => queues _ room passes, fun full => passes.trans (queuesOn_full full fresh rd _)⟩
  case cpym =>
    refine ⟨exec_cpym_compute has, fun phase fresh => ⟨fun fails => ?_, fun ring_ rect low l loc => ?_⟩⟩
    · cases loc : engineLoc s.focus s.ctx (s.reg rc) 96 with
      | none => exact exec_cpym_unshaped has phase fresh loc
      | some l =>
        refine (exec_cpym_shaped has phase fresh loc).trans (if_pos ?_)
        rw [Bool.or_eq_true, Bool.or_eq_true, Bool.not_eq_true', Bool.not_eq_true', ringOk_eq_false_iff, decide_eq_true_eq, or_assoc]
        exact fails.resolve_left (loc ▸ Option.some_ne_none l)
    · refine (exec_cpym_shaped has phase fresh loc).trans (if_neg ?_)
      rw [(ringOk_iff ..).mpr ring_, rect, decide_eq_false (Nat.not_le.mpr low)]
      exact Bool.false_ne_true
  case cpych =>
    refine ⟨exec_cpych_compute has, exec_cpych_waits has, fun phase ended => ?_⟩
    have only := forgetTransfer_only (s.setChain s.clu ch.toNat (some (newChain s sh ra ring))) s.clu (chainAcc ch.toNat)
    have channel : ((((s.setChain s.clu ch.toNat (some (newChain s sh ra ring))).forgetTransfer s.clu (chainAcc ch.toNat)).cluster s.clu).channel
        ch.toNat) = { chan s ch with chain := some (newChain s sh ra ring) } := (only.channel ..).trans (channel_setChain s s.clu ch.isLt _)
    refine ⟨_, newChain s sh ra ring, exec_cpych_gives has phase ended, ?_, ?_, (congrArg Channel.chain channel :), rfl, rfl, rfl, rfl, rfl,
      rfl, rfl, (congrArg Channel.queue channel :)⟩
    · exact sameMemory_of_byteAt ((byteAt_setTh _ _).trans (only.byteAt.trans (byteAt_setChain ..)))
    · rw [State.past, th_setTh]
      rfl

end Sys2Proof.Laws

/-!
Completion rings and buffer flags (R187, R189, R190, R192): configuring a ring, reading and consuming its slots, publishing its deferred
shadows, and obligation O30.
-/

namespace Sys2Proof.Laws

open Sys2Proof Sys2Proof.Machine

/-! ## CRING (R189) -/

section
variable {s : State} {ra rb : SReg} (has : s.has [ra, rb] = true)

/-- A ring configured by the running context. -/
def ringConfigured (s : State) (a size : Nat) : State :=
  s.setCluster s.clu { s.cluster s.clu with
    rings := PMap.put (s.cluster s.clu).rings a ⟨size, 0, 0, [], some (s.focus, s.ctx.launch)⟩
    deferred := (s.cluster s.clu).deferred.filter fun d => d.ring != a }

include has

theorem exec_cring_bad (bad : 63 < (s.reg ra).toNat ∨ 256 < (s.reg rb).toNat) :
    exec (.cring ra rb) s = .next ((s.setCtx { s.ctx with accerr := true }).setTh (s.th.past 12)) := by
  rw [← accerr_past]
  show execCring ra rb s = _
  rw [execCring, ready_of_has has]
  exact if_pos bad

theorem exec_cring (good : ¬(63 < (s.reg ra).toNat ∨ 256 < (s.reg rb).toNat)) : exec (.cring ra rb) s =
    waitFor 12 (!((s.cluster s.clu).transfers.any fun t => t.ring == (s.reg ra).toNat)) s fun s =>
      .next ((ringConfigured s (s.reg ra).toNat (s.reg rb).toNat).past 12) := by
  show execCring ra rb s = _
  rw [execCring, ready_of_has has]
  dsimp only
  rw [if_neg good, waitFor, waitFor]
  rfl

end

theorem ringConfigured_byteAt (s : State) (a size : Nat) : (ringConfigured s a size).byteAt = s.byteAt := byteAt_setCluster s rfl

theorem ringConfigured_ring_same (s : State) (a size : Nat) :
    ((ringConfigured s a size).cluster s.clu).ring a = ⟨size, 0, 0, [], some (s.focus, s.ctx.launch)⟩ := by
  rw [ringConfigured, cluster_setCluster_same]
  exact PMap.get_put_same ..

theorem ringConfigured_ring_other (s : State) {a n : Nat} (other : n ≠ a) (size : Nat) :
    ((ringConfigured s a size).cluster s.clu).ring n = (s.cluster s.clu).ring n := by
  rw [ringConfigured, cluster_setCluster_same]
  exact PMap.get_put_other _ other ..

theorem ringConfigured_deferred (s : State) (a size : Nat) : ((ringConfigured s a size).cluster s.clu).deferred =
    (s.cluster s.clu).deferred.filter fun d => decide (d.ring ≠ a) := by
  rw [ringConfigured, cluster_setCluster_same]
  exact List.filter_congr fun d _ => by rw [bne, decide_not]; rfl

/-! ## CAWAIT, CREL, CSEQ and BFREE (R187, R189, R192) -/

section
variable {s : State} {ra rd : SReg} {sq : Bool}

theorem exec_cawait_bad (has : s.has [ra, rd] = true) (bad : s.ringOk s.clu (s.reg ra).toNat = false) : exec (.cawait sq rd ra) s =
    .next ((s.setCtx { s.ctx with accerr := true }).setTh ((s.th.setReg rd 0xDEADDEADDEADDEAD).past 12)) := by
  show execCawait sq rd ra s = _
  rw [execCawait, ready_of_has has]
  exact (if_pos (by rw [bad]; rfl)).trans (copyFail_eq ..)

theorem exec_cawait (has : s.has [ra, rd] = true) (good : s.ringOk s.clu (s.reg ra).toNat = true) : exec (.cawait sq rd ra) s =
    let r := (s.cluster s.clu).ring (s.reg ra).toNat
    let w := PMap.get r.slots (r.rp.toNat % r.size) (0, 0)
    waitFor 12 (r.wp != r.rp) s fun s => result 12 rd (if sq then w.2 else w.1) s := by
  show execCawait sq rd ra s = _
  rw [execCawait, ready_of_has has]
  exact if_neg (by rw [good]; exact Bool.false_ne_true)

theorem exec_crel_bad (has : s.has [ra] = true) (bad : s.ringOk s.clu (s.reg ra).toNat = false) :
    exec (.crel ra) s = .next ((s.setCtx { s.ctx with accerr := true }).setTh (s.th.past 12)) := by
  rw [← accerr_past]
  show execCrel ra s = _
  rw [execCrel, ready_of_has has]
  exact if_pos (by rw [bad]; rfl)

/-- The oldest slot of a ring of the issuing core's cluster consumed. -/
def slotConsumed (s : State) (a : Nat) : State :=
  let r := (s.cluster s.clu).ring a
  s.setCluster s.clu { s.cluster s.clu with rings := PMap.put (s.cluster s.clu).rings a { r with rp := r.rp + 1 } }

theorem exec_crel (has : s.has [ra] = true) (good : s.ringOk s.clu (s.reg ra).toNat = true) : exec (.crel ra) s =
    let r := (s.cluster s.clu).ring (s.reg ra).toNat
    waitFor 12 (r.wp != r.rp) s fun s => .next ((slotConsumed s (s.reg ra).toNat).past 12) := by
  show execCrel ra s = _
  rw [execCrel, ready_of_has has]
  dsimp only
  rw [if_neg (by rw [good]; exact Bool.false_ne_true), waitFor, waitFor]
  rfl

theorem exec_cseq (has : s.has [ra, rd] = true) : exec (.cseq rd ra) s = if 7 < (s.reg ra).toNat then copyFail rd poison64 s
    else result 12 rd (BitVec.ofNat 64 ((s.cluster s.clu).channel (s.reg ra).toNat).doneNo) s := by
  show execCseq rd ra s = _
  rw [execCseq, ready_of_has has]

theorem above_flag_eq_zero_iff (a : W64) : a.extractLsb' 2 62 = 0 ↔ a.toNat < 4 := by
  have := a.isLt
  rw [BitVec.toNat_eq, BitVec.extractLsb'_toNat, Nat.shiftRight_eq_div_pow]
  simp
  omega

theorem exec_bfree_bad (has : s.has [ra] = true) (bad : 4 ≤ (s.reg ra).toNat) :
    exec (.bfree ra) s = .next ((s.setCtx { s.ctx with accerr := true }).setTh (s.th.past 12)) := by
  rw [← accerr_past]
  show execBfree ra s = _
  rw [execBfree, ready_of_has has]
  exact if_pos (mt (above_flag_eq_zero_iff _).mp (Nat.not_lt.mpr bad))

theorem exec_bfree (has : s.has [ra] = true) (good : (s.reg ra).toNat < 4) : exec (.bfree ra) s =
    .next ((s.setCtx { s.ctx with bufFree := s.ctx.bufFree ||| BitVec.twoPow 4 (s.reg ra).toNat }).past 12) := by
  show execBfree ra s = _
  rw [execBfree, ready_of_has has]
  exact if_neg (not_not_intro ((above_flag_eq_zero_iff _).mpr good))

end

theorem slotConsumed_byteAt (s : State) (a : Nat) : (slotConsumed s a).byteAt = s.byteAt := byteAt_setCluster s rfl

theorem slotConsumed_ring (s : State) (a : Nat) : ((slotConsumed s a).cluster s.clu).ring a =
    { (s.cluster s.clu).ring a with rp := ((s.cluster s.clu).ring a).rp + 1 } := by
  rw [slotConsumed, cluster_setCluster_same]
  exact PMap.get_put_same ..

theorem flagged_past (s : State) (f : BitVec 4) (len : Nat) : let t := (s.setCtx { s.ctx with bufFree := f }).past len
    t.th = s.th.past len ∧ t.ctx.bufFree = f ∧ SameMemory s t := by
  refine ⟨?_, ?_, sameMemory_of_byteAt ((byteAt_setTh _ _).trans (byteAt_setCtx s _))⟩
  · rw [State.past, th_setTh, State.th, ctx_setCtx]
    rfl
  · rw [State.past, ctx_setTh, ctx_setCtx]
    rfl

/-! ## PUBLISH (R190) -/

section
variable {s : State} {ra rd : SReg} (has : s.has [ra, rd] = true)

/-- A ring's deferred shadows made one publication of. -/
def shadowsPublished (s : State) (a : Nat) (ds : List Deferred) : State :=
  (s.setCluster s.clu { s.cluster s.clu with deferred := (s.cluster s.clu).deferred.filter fun d => d.ring != a }).publish
    (copySource s.clu) false .dev none s.focus s.ctx.launch true true (ds.flatMap (·.records)) (some s.now)

include has

theorem exec_publish_compute (phase : s.ctx.phase = .compute) (fresh : s.th.stall = none) : exec (.publish rd ra) s =
    .next (trapEntry 6 (((encode (.publish rd ra)).headD 0).setWidth 64) s) := by
  show execPublish rd ra s = _
  rw [execPublish, ready_of_has has]
  exact phaseCheck_traps phase rfl fresh _

variable (phase : s.ctx.phase = .exchange)
include phase

theorem exec_publish_bad (bad : s.ringOk s.clu (s.reg ra).toNat = false) : exec (.publish rd ra) s =
    .next ((s.setCtx { s.ctx with accerr := true }).setTh ((s.th.setReg rd 0).past 12)) := by
  show execPublish rd ra s = _
  rw [execPublish, ready_of_has has]
  refine (phaseCheck_passes (.inl phase) _).trans ((if_pos (by rw [bad]; rfl)).trans (copyFail_eq ..))

variable (good : s.ringOk s.clu (s.reg ra).toNat = true)
include good

theorem exec_publish_fresh (fresh : s.th.stall = none) : exec (.publish rd ra) s =
    let ds := (s.cluster s.clu).deferred.filter fun d => d.ring == (s.reg ra).toNat
    if ds.isEmpty then result 12 rd 0 s
    else .next ((shadowsPublished s (s.reg ra).toNat ds).stall 12 rd (.publish s.ids ds.length)) := by
  show execPublish rd ra s = _
  rw [execPublish, ready_of_has has]
  refine (phaseCheck_passes (.inl phase) _).trans ((if_neg (by rw [good]; exact Bool.false_ne_true)).trans ?_)
  simp only [fresh]
  rfl

theorem exec_publish_again {len n id : Nat} {d : SReg} (stall : s.th.stall = some ⟨len, d, .publish id n⟩) : exec (.publish rd ra) s =
    if s.pubs.any fun p => p.id == id && !p.applied then wait s else result 12 rd (BitVec.ofNat 64 n) s := by
  show execPublish rd ra s = _
  rw [execPublish, ready_of_has has]
  refine (phaseCheck_passes (.inl phase) _).trans ((if_neg (by rw [good]; exact Bool.false_ne_true)).trans ?_)
  simp only [stall]

end

/-! ## The obligation -/

/-- Settles O30: each instruction by its check, by what it waits for and by the state that it leaves. -/
theorem ringCommands : Obligations.RingCommands := by
  unfold Obligations.RingCommands
  intro acc bad badv stalls ringOk slot
  have bad_iff (s : State) (a : W64) : ¬ringOk s a → s.ringOk s.clu a.toNat = false := (ringOk_eq_false_iff s s.clu a.toNat).mpr
  have good_iff (s : State) (a : W64) : ringOk s a → s.ringOk s.clu a.toNat = true := (ringOk_iff s s.clu a.toNat).mpr
  refine ⟨fun s ra rb has => ?cring, fun s sq rd ra has => ?cawait, fun s ra has => ?crel, fun s rd ra has => ?cseq, fun s ra has => ?bfree,
    fun s rd ra has => ?publish⟩
  case cring =>
    intro a b named
    have any : ((s.cluster s.clu).transfers.any fun t => t.ring == (s.reg ra).toNat) = true ↔ named := by
      simp only [List.any_eq_true, beq_iff_eq]
      rfl
    refine ⟨exec_cring_bad has, fun low small => ?_⟩
    have form := exec_cring has (not_or.mpr ⟨Nat.not_lt.mpr low, Nat.not_lt.mpr small⟩)
    refine ⟨fun is fresh => form.trans (waitFor_waits (by rw [any.mpr is]; rfl) fresh 12 _), fun isNot => ?_⟩
    refine ⟨_, form.trans (waitFor_goes (by rw [eq_false_of_ne_true (mt any.mp isNot)]; rfl) 12 _), ?_, ?_, ringConfigured_ring_same s _ _,
      fun n other => ringConfigured_ring_other s other _, ringConfigured_deferred s _ _⟩
    · exact sameMemory_of_byteAt ((byteAt_setTh _ _).trans (ringConfigured_byteAt ..))
    · exact th_setTh _ _
  case cawait =>
    intro i r
    refine ⟨fun fails => exec_cawait_bad has (bad_iff s _ fails), fun good none fresh => ?_, fun good some w found => ?_⟩
    · exact (exec_cawait has (good_iff s _ good)).trans (waitFor_waits (bne_eq_false_iff_eq.mpr none) fresh 12 _)
    · refine (exec_cawait has (good_iff s _ good)).trans ((waitFor_goes (bne_iff_ne.mpr some) 12 _).trans ?_)
      have slot_ : PMap.get r.slots (r.rp.toNat % r.size) (0, 0) = w :=
        congrArg (Option.getD · (0, 0)) (show PMap.find? r.slots (r.rp.toNat % r.size) = _ from found)
      exact congrArg (fun v : W64 × W64 => result 12 rd (if sq then v.2 else v.1) s) slot_
  case crel =>
    intro r
    refine ⟨fun fails => exec_crel_bad has (bad_iff s _ fails), fun good none fresh => ?_, fun good some => ?_⟩
    · exact (exec_crel has (good_iff s _ good)).trans (waitFor_waits (bne_eq_false_iff_eq.mpr none) fresh 12 _)
    · refine ⟨_, (exec_crel has (good_iff s _ good)).trans (waitFor_goes (bne_iff_ne.mpr some) 12 _), ?_, ?_, slotConsumed_ring s _⟩
      · exact sameMemory_of_byteAt ((byteAt_setTh _ _).trans (slotConsumed_byteAt ..))
      · exact th_setTh _ _
  case cseq =>
    exact ⟨fun high => (exec_cseq has).trans ((if_pos high).trans (copyFail_eq ..)),
      fun low => (exec_cseq has).trans (if_neg (Nat.not_lt.mpr low))⟩
  case bfree =>
    refine ⟨exec_bfree_bad has, fun low => ?_⟩
    obtain ⟨th, flags, memory⟩ := flagged_past s (s.ctx.bufFree ||| BitVec.twoPow 4 (s.reg ra).toNat) 12
    refine ⟨_, exec_bfree has low, memory, th, fun n small => ?_⟩
    rw [flags, BitVec.getLsbD_or, BitVec.getLsbD_twoPow, decide_eq_true low, Bool.true_and]
    exact congrArg _ (decide_eq_decide.mpr eq_comm)
  case publish =>
    intro i a ds
    refine ⟨exec_publish_compute has, fun phase fails => exec_publish_bad has phase (bad_iff s _ fails), fun phase good =>
      ⟨fun fresh none => ?_, fun fresh some => ?_, fun len d id n stall applied => ?_⟩⟩
    · exact (exec_publish_fresh has phase (good_iff s _ good) fresh).trans (if_pos (List.isEmpty_iff.mpr none))
    · refine ⟨_, _, (exec_publish_fresh has phase (good_iff s _ good) fresh).trans (if_neg (mt List.isEmpty_iff.mp some)), ?_, rfl, rfl, rfl,
        rfl, rfl, rfl, rfl, rfl, rfl, ?_, ?_⟩
      · exact sameMemory_of_byteAt ((byteAt_setTh _ _).trans (byteAt_setCluster s rfl))
      · exact th_setTh _ _
      · refine (congrArg Cluster.deferred (cluster_setCluster_same s s.clu _)).trans ?_
        exact List.filter_congr fun d _ => by rw [bne, decide_not]; rfl
    · refine (exec_publish_again has phase (good_iff s _ good) stall).trans (if_neg ?_)
      simp only [List.any_eq_true, not_exists, not_and, Bool.and_eq_true, beq_iff_eq, Bool.not_eq_true']
      exact fun p member same => ne_false_of_eq_true (applied p member same)

end Sys2Proof.Laws

/-!
The walk of a transfer (R177, R178): index vectors by their numbers, strided offsets, the box, and the elements of a plain transfer.
-/

namespace Sys2Proof.Laws

open Sys2Proof Sys2Proof.Machine

/-! ## Index vectors (R178) -/

/-- Equal runs, one for each element of a list: element `k` is in run `k / n`. -/
theorem getElem?_flatMap_range (l : List (List Nat)) (n k : Nat) : (l.flatMap fun t => (List.range n).map fun i => i :: t)[k]? =
    if n = 0 then none else (l[k / n]?).map fun t => (k % n) :: t := by
  rcases Nat.eq_zero_or_pos n with rfl | pos
  · simp
  rw [if_neg (Nat.ne_of_gt pos)]
  induction l generalizing k with
  | nil => rfl
  | cons t l later =>
    rw [List.flatMap_cons]
    by_cases first : k < n
    · rw [List.getElem?_append_left (by simpa using first), Nat.div_eq_of_lt first, Nat.mod_eq_of_lt first]
      simp [first]
    · rw [List.getElem?_append_right (by simpa using first), List.length_map, List.length_range, later]
      obtain ⟨j, rfl⟩ : ∃ j, k = j + n := ⟨k - n, by omega⟩
      rw [Nat.add_sub_cancel, Nat.add_mod_right, Nat.add_div_right _ pos, List.getElem?_cons_succ]

/-- The number of an index vector: dimension 0 fastest. -/
def walkNumber (ds : List Dim) (i : List Nat) : Nat := (ds.zip i).foldr (fun x n => x.2 + x.1.size * n) 0

theorem indices_getElem?_eq_some_iff (ds : List Dim) (i : List Nat) (k : Nat) : (indices ds)[k]? = some i ↔
    i.length = ds.length ∧ (∀ x ∈ ds.zip i, x.2 < x.1.size) ∧ walkNumber ds i = k := by
  induction ds generalizing i k with
  | nil => cases i <;> cases k <;> simp [indices, walkNumber]
  | cons d ds rest =>
    rw [indices, getElem?_flatMap_range]
    cases i with
    | nil => split <;> simp
    | cons a t =>
      have number : walkNumber (d :: ds) (a :: t) = a + d.size * walkNumber ds t := rfl
      rw [number, List.length_cons, List.length_cons, List.zip_cons_cons, List.forall_mem_cons, Nat.add_right_cancel_iff]
      split
      next none => simp [none]
      next some =>
        have pos : 0 < d.size := Nat.pos_of_ne_zero some
        rw [Option.map_eq_some_iff]
        constructor
        · rintro ⟨u, at_, same⟩
          obtain ⟨rfl, rfl⟩ := List.cons.inj same
          obtain ⟨length, inside, value⟩ := (rest u _).mp at_
          exact ⟨length, ⟨Nat.mod_lt _ pos, inside⟩, by rw [value, Nat.mod_add_div]⟩
        · rintro ⟨length, ⟨low, inside⟩, rfl⟩
          refine ⟨t, (rest t _).mpr ⟨length, inside, ?_⟩, ?_⟩
          · rw [Nat.add_mul_div_left _ _ pos, Nat.div_eq_of_lt low, Nat.zero_add]
          · rw [Nat.add_mul_mod_self_left, Nat.mod_eq_of_lt low]

section
variable (h : Shape) (i : List Nat)

theorem soff_eq_sum : h.soff i = ((h.dims.zip i).map fun x => BitVec.ofNat 64 x.2 * x.1.stride.signExtend 64).sum := by
  have from_ (l : List (Dim × Nat)) (a : W64) : l.foldl (fun a x => a + BitVec.ofNat 64 x.2 * sx x.1.stride) a =
      a + (l.map fun x => BitVec.ofNat 64 x.2 * x.1.stride.signExtend 64).sum := by
    induction l generalizing a with
    | nil => exact (BitVec.add_zero a).symm
    | cons x l later => rw [List.foldl_cons, later, List.map_cons, List.sum_cons, BitVec.add_assoc]; rfl
  exact (from_ _ 0).trans (BitVec.zero_add _)

theorem inbox_iff : h.inbox i = true ↔ h.clip = false ∨ ∀ x ∈ h.dims.zip i, x.1.lo ≤ x.2 ∧ x.2 < x.1.hi := by
  simp [Shape.inbox]

end

/-! ## Elements (R178) -/

/-- The element that a transfer with a strided source moves for an index vector of number `k`. -/
def gathered (q : Transfer) (i : List Nat) (k : Nat) : Move :=
  ⟨if q.shape.inbox i then some (q.src + q.shape.soff i) else none, q.dst + BitVec.ofNat 64 (k * q.shape.es), i⟩

/-- The element that a transfer with a strided destination moves for an index vector of number `k` in the box. -/
def scattered (q : Transfer) (i : List Nat) (k : Nat) : Move :=
  ⟨some (q.src + BitVec.ofNat 64 (k * q.shape.es)), q.dst + q.shape.soff i, i⟩

section
variable {q : Transfer} (plain : q.kind = .plain)
include plain

theorem moves_gathered (source : q.dstr = false) : q.moves = (indices q.shape.dims).zipIdx.map fun x => gathered q x.1 x.2 := by
  simp only [Transfer.moves, Transfer.isDrain, plain, source, Bool.false_eq_true, if_false]
  exact (List.filterMap_eq_map (f := fun x : List Nat × Nat => gathered q x.1 x.2)).symm ▸ rfl

theorem moves_scattered (dest : q.dstr = true) : q.moves = (indices q.shape.dims).zipIdx.filterMap fun x =>
    if q.shape.inbox x.1 then some (scattered q x.1 x.2) else none := by
  simp only [Transfer.moves, Transfer.isDrain, plain, dest, Bool.false_eq_true, if_false, if_true]
  rfl

theorem moves_getElem?_gathered (source : q.dstr = false) {i : List Nat} {k : Nat} (at_ : (indices q.shape.dims)[k]? = some i) :
    q.moves[k]? = some (gathered q i k) := by
  rw [moves_gathered plain source, List.getElem?_map, List.getElem?_zipIdx, at_]
  simp

theorem length_moves_gathered (source : q.dstr = false) : q.moves.length = (indices q.shape.dims).length := by
  rw [moves_gathered plain source, List.length_map, List.length_zipIdx]

theorem mem_moves_scattered (dest : q.dstr = true) {m : Move} : m ∈ q.moves ↔
    ∃ i k, (indices q.shape.dims)[k]? = some i ∧ q.shape.inbox i = true ∧ m = scattered q i k := by
  rw [moves_scattered plain dest, List.mem_filterMap]
  constructor
  · rintro ⟨⟨i, k⟩, member, kept⟩
    split at kept
    next inside => exact ⟨i, k, List.mem_zipIdx_iff_getElem?.mp member, inside, (Option.some.inj kept).symm⟩
    next => exact absurd kept (by simp)
  · rintro ⟨i, k, at_, inside, rfl⟩
    exact ⟨(i, k), List.mem_zipIdx_iff_getElem?.mpr at_, if_pos inside⟩

theorem idx_moves_sublist (dest : q.dstr = true) : (q.moves.map (·.idx)).Sublist (indices q.shape.dims) := by
  have kept : q.moves.map (·.idx) = ((indices q.shape.dims).zipIdx.filter fun x => q.shape.inbox x.1).map (·.1) := by
    rw [moves_scattered plain dest]
    generalize (indices q.shape.dims).zipIdx = l
    induction l with
    | nil => rfl
    | cons x l later =>
      rw [List.filterMap_cons, List.filter_cons]
      by_cases inside : q.shape.inbox x.1
      · rw [if_pos inside, if_pos inside]
        exact congrArg (x.1 :: ·) later
      · rw [if_neg inside, if_neg inside]
        exact later
  rw [kept]
  exact (List.filter_sublist.map _).trans (by rw [List.zipIdx_map_fst])

end

end Sys2Proof.Laws

/-!
The head of a channel (R176, R182): which transfer it is, its replacement and failure, the translation of a transfer's pages, and the checks of a
plain transfer at its start.
-/

namespace Sys2Proof.Laws

open Sys2Proof Sys2Proof.Machine

/-! ## The head of a channel (R176) -/

section
variable {s : State} {k ch : Nat} (low : ch < 8)
include low

/-- Without a chain the head is the first of the queue. -/
theorem headOf_of_queue {x : Cluster} {q : Transfer} {rest : List Transfer} (queue : (x.channel ch).queue = q :: rest)
    (chain : (x.channel ch).chain = none) : x.headOf ch = some q := by
  rw [Cluster.headOf, if_neg (Nat.ne_of_lt low)]
  simp only [queue, chain, List.head?_cons]

theorem setHead_eq (s : State) (k : Nat) (t : Transfer) : s.setHead k ch t =
    let c := (s.cluster k).channel ch
    s.setCluster k ((s.cluster k).setChannel ch { c with queue := t :: c.queue.drop 1 }) :=
  if_neg (Nat.ne_of_lt low)

theorem byteAt_setHead (s : State) (k : Nat) (t : Transfer) : (s.setHead k ch t).byteAt = s.byteAt := by
  rw [setHead_eq low]
  exact byteAt_setChannel ..

theorem core_setHead (s : State) (k : Nat) (t : Transfer) (c : Nat) : (s.setHead k ch t).core c = s.core c := by
  rw [setHead_eq low]
  rfl

theorem pubs_setHead (s : State) (k : Nat) (t : Transfer) : (s.setHead k ch t).pubs = s.pubs := by
  rw [setHead_eq low]
  rfl

theorem queue_setHead {q : Transfer} {rest : List Transfer} (queue : ((s.cluster k).channel ch).queue = q :: rest) (t : Transfer) :
    (((s.setHead k ch t).cluster k).channel ch).queue = t :: rest := by
  rw [setHead_eq low, cluster_setCluster_same, channel_setChannel_same _ low, queue]
  rfl

end

/-- Only a drain has a matrix unit to tell. -/
theorem drainDone_of_not_drain (s : State) (k : Nat) {t : Transfer} (other : t.isDrain = false) : s.drainDone k t = s := by
  rw [Transfer.isDrain] at other
  unfold State.drainDone
  split
  next kind =>
    rw [kind] at other
    cases other
  next => rfl

theorem isDrain_of_plain {t : Transfer} (plain : t.kind = .plain) : t.isDrain = false := by
  rw [Transfer.isDrain, plain]

theorem failHead_of_not_drain (s : State) (k ch : Nat) {t : Transfer} (other : t.isDrain = false) (status : Nat) :
    s.failHead k ch t status = s.setHead k ch { t with state := .done status } := by
  rw [State.failHead, drainDone_of_not_drain s k other]

/-! ## The pages of a transfer (R182, R183) -/

section
variable (s : State) (k : Nat) (t : Transfer) (l : List (Access × W64))

theorem pages_only : TranslatesOnly s (s.pages k t l).2.2 := by
  induction l generalizing s t with
  | nil => exact .refl s
  | cons x l later =>
    have tried := translate_only s k .copy t.acc t.ctxid t.launch x.1 x.2
    rw [State.pages]
    split
    · exact later s t
    · split
      next denied => exact (denied ▸ tried).trans (forgetTransfer_only ..)
      next v waiting =>
        have after := (waiting ▸ tried).trans (later v t)
        split
        next denied => rw [denied] at after; exact after
        next other => rw [other] at after; exact after
      next e v hit => exact (hit ▸ tried).trans (later v _)

/-- A transfer whose pages are asked for keeps the translations that it obtains, and nothing else of it changes. -/
theorem pages_transfer : ∃ l', (s.pages k t l).2.1 = { t with trans := l' } := by
  induction l generalizing s t with
  | nil => exact ⟨t.trans, rfl⟩
  | cons x l later =>
    rw [State.pages]
    split
    · exact later s t
    · split
      next => exact ⟨t.trans, rfl⟩
      next v _ =>
        obtain ⟨l', eq⟩ := later v t
        split
        next denied => rw [denied] at eq; exact ⟨l', eq⟩
        next other => rw [other] at eq; exact ⟨l', eq⟩
      next e v _ => exact later v { t with trans := t.trans ++ [⟨x.1, x.2.toNat >>> 16, e⟩] }

end

/-- A transfer between local places has no pages to translate. -/
theorem accesses_of_local {t : Transfer} (source : t.ssh = false) (dest : t.dsh = false) (ms : List Move) : t.accesses ms = [] := by
  rw [Transfer.accesses, source, dest]
  rfl

/-! ## The checks at the start (R182) -/

/-- No G-die of the four. -/
theorem gdies_any_eq_false_iff (p : Nat → Bool) : [0, 1, 2, 3].any p = false ↔ ∀ g < 4, p g = false := by
  rw [show ([0, 1, 2, 3] : List Nat) = List.range 4 from rfl, List.any_eq_false]
  simp only [List.mem_range, Bool.not_eq_true]

section
variable {s : State} {k ch : Nat} (low : ch < 8) {q : Transfer} {rest : List Transfer}
  (queue : ((s.cluster k).channel ch).queue = q :: rest) (chain : ((s.cluster k).channel ch).chain = none) (state : q.state = .queued)
include low queue chain state

theorem exec_transferStart_eq : exec (.transferStart k ch) s =
    if !q.shape.ok then .next (s.failHead k ch q 3)
    else if !q.shapeOk q.moves then .next (s.failHead k ch q 3)
    else if !s.boundsGood q q.moves then .next (s.failHead k ch q 4)
    else match s.pages k q (q.accesses q.moves) with
      | (.denied, _, u) => .next (u.failHead k ch q 2)
      | (.waiting, t, u) => .next (u.setHead k ch t)
      | (.ok, t, u) =>
        let rs := if t.dsh then u.shadowOf t (q.moves.map fun m => (m.dst, List.replicate t.shape.es 0)) else []
        if [0, 1, 2, 3].any fun g => decide (u.poolSize g < granulesAt rs g) then .next (u.failHead k ch q 7)
        else .next (u.setHead k ch { t with state := .running }) := by
  show execTransferStart k ch s = _
  rw [execTransferStart, headOf_of_queue low queue chain]
  exact if_neg (not_not_intro state)

theorem exec_transferStart_misshapen (bad : q.shape.ok = false ∨ q.shapeOk q.moves = false) :
    exec (.transferStart k ch) s = .next (s.failHead k ch q 3) := by
  rw [exec_transferStart_eq low queue chain state]
  split
  · rfl
  next shape =>
    rw [bad.resolve_left (by simpa using shape)]
    rfl

variable (shape : q.shape.ok = true) (aligned : q.shapeOk q.moves = true)
include shape aligned

theorem exec_transferStart_outside (outside : s.boundsGood q q.moves = false) :
    exec (.transferStart k ch) s = .next (s.failHead k ch q 4) := by
  rw [exec_transferStart_eq low queue chain state, shape, aligned, outside]
  rfl

variable (inside : s.boundsGood q q.moves = true)
include inside

/-- The shadow that a transfer's elements would make takes no more of a pool than there is. -/
def ShadowFits (s : State) (q t : Transfer) : Prop :=
  q.dsh = true → ∀ g < 4, granulesAt (s.shadowOf t (q.moves.map fun m => (m.dst, List.replicate q.shape.es 0))) g ≤ s.poolSize g

theorem exec_transferStart_checked : let y := s.pages k q (q.accesses q.moves)
    (y.1 = .denied → exec (.transferStart k ch) s = .next (y.2.2.failHead k ch q 2)) ∧
    (y.1 = .waiting → exec (.transferStart k ch) s = .next (y.2.2.setHead k ch y.2.1)) ∧
    (y.1 = .ok → ¬ShadowFits y.2.2 q y.2.1 → exec (.transferStart k ch) s = .next (y.2.2.failHead k ch q 7)) ∧
    (y.1 = .ok → ShadowFits y.2.2 q y.2.1 → exec (.transferStart k ch) s = .next (y.2.2.setHead k ch { y.2.1 with state := .running })) := by
  have form := exec_transferStart_eq low queue chain state
  rw [shape, aligned, inside] at form
  obtain ⟨l', same⟩ := pages_transfer s k q (q.accesses q.moves)
  generalize s.pages k q (q.accesses q.moves) = y at form same ⊢
  obtain ⟨p, t, u⟩ := y
  obtain rfl : t = { q with trans := l' } := same
  have fits : ([0, 1, 2, 3].any fun g => decide (u.poolSize g < granulesAt (if q.dsh then u.shadowOf { q with trans := l' }
      (q.moves.map fun m => (m.dst, List.replicate q.shape.es 0)) else []) g)) = false ↔ ShadowFits u q { q with trans := l' } := by
    rw [gdies_any_eq_false_iff]
    simp only [decide_eq_false_iff_not, Nat.not_lt]
    by_cases shared : q.dsh = true
    · rw [if_pos shared]
      exact ⟨fun all _ => all, fun all => all shared⟩
    · rw [if_neg shared]
      exact ⟨fun _ yes => absurd yes shared, fun _ _ _ => Nat.zero_le _⟩
  refine ⟨fun denied => ?_, fun waiting => ?_, fun ok large => ?_, fun ok fit => ?_⟩
  · cases denied; exact form
  · cases waiting; exact form
  · cases ok; exact form.trans (if_pos (eq_true_of_ne_false (mt fits.mp large)))
  · cases ok; exact form.trans (if_neg (ne_true_of_eq_false (fits.mpr fit)))

theorem exec_transferStart_local (source : q.ssh = false) (dest : q.dsh = false) :
    exec (.transferStart k ch) s = .next (s.setHead k ch { q with state := .running }) := by
  have checked := exec_transferStart_checked low queue chain state shape aligned inside
  rw [accesses_of_local source dest] at checked
  exact checked.2.2.2 rfl fun shared => absurd shared (by rw [dest]; exact Bool.false_ne_true)

end

end Sys2Proof.Laws

/-!
What a command of a launch writes (R64, R184): bytes at local addresses and the full/empty bits of ULM granules, and what these leave unchanged.
-/

namespace Sys2Proof.Laws

open Sys2Proof Sys2Proof.Machine

/-! ## Bytes written (R64, R73) -/

/-- Outside ULM, the memories of clusters and displaced regions nothing differs, and the same regions are displaced. -/
structure WritesOnly (s t : State) : Prop where
  device : { t with cores := s.cores, clusters := s.clusters, saved := s.saved } = s
  cores : ∀ c, { t.core c with ulm := (s.core c).ulm } = s.core c
  clusters : ∀ k, { t.cluster k with scratch := (s.cluster k).scratch, tiles := (s.cluster k).tiles, tables := (s.cluster k).tables } = s.cluster k
  away : ∀ c n, (t.outRegion c n).isSome = (s.outRegion c n).isSome

section
variable {s t u : State}

theorem WritesOnly.refl (s : State) : WritesOnly s s := ⟨rfl, fun _ => rfl, fun _ => rfl, fun _ _ => rfl⟩

theorem WritesOnly.trans (first : WritesOnly s t) (second : WritesOnly t u) : WritesOnly s u where
  device := (congrArg (fun v : State => { v with cores := s.cores, clusters := s.clusters, saved := s.saved }) second.device :).trans first.device
  cores c := (congrArg (fun k : Core => { k with ulm := (s.core c).ulm }) (second.cores c) :).trans (first.cores c)
  clusters k := (congrArg (fun x : Cluster => { x with
    scratch := (s.cluster k).scratch, tiles := (s.cluster k).tiles, tables := (s.cluster k).tables }) (second.clusters k) :).trans (first.clusters k)
  away c n := (second.away c n).trans (first.away c n)

theorem writesOnly_foldl {α : Type} {f : State → α → State} (one : ∀ s a, WritesOnly s (f s a)) (l : List α) (s : State) :
    WritesOnly s (l.foldl f s) := by
  induction l generalizing s with
  | nil => exact .refl s
  | cons a l later => exact (one s a).trans (later (f s a))

variable (only : WritesOnly s t)
include only

theorem WritesOnly.now : t.now = s.now := (congrArg State.now only.device :)
theorem WritesOnly.home : t.home = s.home := (congrArg State.home only.device :)
theorem WritesOnly.fe (c : Nat) : (t.core c).fe = (s.core c).fe := (congrArg Core.fe (only.cores c) :)
theorem WritesOnly.channel (k ch : Nat) : (t.cluster k).channel ch = (s.cluster k).channel ch :=
  (congrArg (fun x : Cluster => x.channel ch) (only.clusters k) :)

theorem WritesOnly.inside (inside : ∀ c, s.outRegion c n = none) (c : Nat) : t.outRegion c n = none := by
  rw [← Option.isNone_iff_eq_none, ← Option.not_isSome, only.away, inside]
  rfl

end

section
variable (s : State) (c launch o : Nat)

/-- The region of a context that is displaced stays displaced whatever becomes of its content. -/
theorem outRegion_updRegion (f : Ctx → Mem × BitVec 16384 → Mem × BitVec 16384) (d n : Nat) :
    ((s.updRegion c launch f).outRegion d n).isSome = (s.outRegion d n).isSome := by
  rw [State.outRegion, State.outRegion, State.updRegion, List.find?_map, Option.isSome_map]
  refine congrArg (fun p : Saved → Bool => (s.saved.find? p).isSome) (funext fun a => ?_)
  rw [Function.comp]
  split
  · exact congrArg (_ && ·) Option.isSome_map
  · rfl

theorem ulmWrite_only (bs : List Byte) : WritesOnly s (s.ulmWrite c launch o bs) := by
  unfold State.ulmWrite
  split
  · exact ⟨rfl, fun _ => rfl, fun _ => rfl, outRegion_updRegion s c launch _⟩
  · exact ⟨rfl, fun d => by
      by_cases here : d = c
      · rw [here, core_setCore_same]
      · rw [core_setCore_other s here], fun _ => rfl, fun _ _ => rfl⟩

theorem writesOnly_setCluster {k : Nat} {x : Cluster} (keeps : { x with
    scratch := (s.cluster k).scratch, tiles := (s.cluster k).tiles, tables := (s.cluster k).tables } = s.cluster k) :
    WritesOnly s (s.setCluster k x) where
  device := rfl
  cores _ := rfl
  clusters d := by
    by_cases here : d = k
    · rw [here, cluster_setCluster_same, keeps]
    · rw [cluster_setCluster_other s here]
  away _ _ := rfl

theorem opmWrite_only (origin : Nat) (a : W64) (bs : List Byte) : WritesOnly s (s.opmWrite c launch origin a bs) := by
  unfold State.opmWrite
  dsimp only
  split
  · exact ulmWrite_only ..
  · exact writesOnly_setCluster s rfl
  · exact writesOnly_setCluster s rfl
  · exact writesOnly_setCluster s rfl

theorem localPut_only (q : Transfer) (a : W64) (bs : List Byte) : WritesOnly s (s.localPut q a bs) := by
  unfold State.localPut
  split
  · exact writesOnly_foldl (fun s c => ulmWrite_only ..) _ s
  · exact opmWrite_only ..

end

/-! ## Reads and writes after a translation -/

section
variable {s t : State}

/-- A cluster of `s` and one that a translation may leave in its place. -/
theorem TranslatesOnly.setCluster (only : TranslatesOnly s t) (k : Nat) {x y : Cluster}
    (keeps : { y with copyTlb := x.copyTlb, misses := x.misses } = x) : TranslatesOnly (s.setCluster k x) (t.setCluster k y) where
  device := (congrArg (fun v : State => { v with clusters := (s.setCluster k x).clusters }) only.device :)
  cores := only.cores
  clusters d := by
    by_cases here : d = k
    · rw [here, cluster_setCluster_same, cluster_setCluster_same, keeps]
    · rw [cluster_setCluster_other s here, cluster_setCluster_other t here, only.clusters]

/-- The same of a core. -/
theorem TranslatesOnly.setCore (only : TranslatesOnly s t) (c : Nat) {x y : Core} (keeps : { y with tlb := x.tlb } = x) :
    TranslatesOnly (s.setCore c x) (t.setCore c y) where
  device := (congrArg (fun v : State => { v with cores := (s.setCore c x).cores }) only.device :)
  clusters := only.clusters
  cores d := by
    by_cases here : d = c
    · rw [here, core_setCore_same, core_setCore_same, keeps]
    · rw [core_setCore_other s here, core_setCore_other t here, only.cores]

variable (only : TranslatesOnly s t)
include only

theorem TranslatesOnly.outRegion (c n : Nat) : t.outRegion c n = s.outRegion c n := (congrArg (State.outRegion · c n) only.device :)

theorem TranslatesOnly.ulm (c : Nat) : (t.core c).ulm = (s.core c).ulm := (congrArg Core.ulm (only.cores c) :)

theorem TranslatesOnly.scratch (k : Nat) : (t.cluster k).scratch = (s.cluster k).scratch := (congrArg Cluster.scratch (only.clusters k) :)
theorem TranslatesOnly.tiles (k : Nat) : (t.cluster k).tiles = (s.cluster k).tiles := (congrArg Cluster.tiles (only.clusters k) :)
theorem TranslatesOnly.tables (k : Nat) : (t.cluster k).tables = (s.cluster k).tables := (congrArg Cluster.tables (only.clusters k) :)

theorem TranslatesOnly.opmRead (c launch origin : Nat) (a : W64) (n : Nat) : t.opmRead c launch origin a n = s.opmRead c launch origin a n := by
  simp only [State.opmRead, State.ulmBytes, only.outRegion, only.ulm, only.scratch, only.tiles, only.tables]

theorem TranslatesOnly.ulmWrite (c launch o : Nat) (bs : List Byte) : TranslatesOnly (s.ulmWrite c launch o bs) (t.ulmWrite c launch o bs) := by
  rw [State.ulmWrite, State.ulmWrite, only.outRegion]
  split
  · exact ⟨(congrArg (fun v : State => v.updRegion c launch fun x (m, fe) => (m.writeBytes (o - x.origin) bs, fe)) only.device :), only.cores,
      only.clusters⟩
  · rw [only.ulm]
    exact only.setCore c (congrArg (fun k : Core => { k with ulm := (s.core c).ulm.writeBytes o bs }) (only.cores c) :)

/-- The same write on both sides. -/
theorem TranslatesOnly.opmWrite (c launch origin : Nat) (a : W64) (bs : List Byte) :
    TranslatesOnly (s.opmWrite c launch origin a bs) (t.opmWrite c launch origin a bs) := by
  unfold State.opmWrite
  dsimp only
  split
  · exact only.ulmWrite ..
  · exact only.setCluster _ (congrArg (fun x : Cluster => { x with scratch := x.scratch.writeBytes (opmOff a) bs }) (only.clusters _) :)
  · exact only.setCluster _ (congrArg (fun x : Cluster => { x with tiles := x.tiles.writeBytes (opmOff a) bs }) (only.clusters _) :)
  · exact only.setCluster _ (congrArg (fun x : Cluster => { x with tables := x.tables.writeBytes (opmOff a) bs }) (only.clusters _) :)

end

/-! ## Full/empty bits set (R115, R184) -/

/-- No byte of memory and no cluster changes, and the same regions are displaced. -/
structure FillsOnly (s t : State) : Prop where
  bytes : t.byteAt = s.byteAt
  clusters : t.clusters = s.clusters
  away : ∀ c n, (t.outRegion c n).isSome = (s.outRegion c n).isSome

section
variable {s t u : State}

theorem FillsOnly.refl (s : State) : FillsOnly s s := ⟨rfl, rfl, fun _ _ => rfl⟩

theorem FillsOnly.trans (first : FillsOnly s t) (second : FillsOnly t u) : FillsOnly s u :=
  ⟨second.bytes.trans first.bytes, second.clusters.trans first.clusters, fun c n => (second.away c n).trans (first.away c n)⟩

theorem fillsOnly_foldl {α : Type} {f : State → α → State} (one : ∀ s a, FillsOnly s (f s a)) (l : List α) (s : State) :
    FillsOnly s (l.foldl f s) := by
  induction l generalizing s with
  | nil => exact .refl s
  | cons a l later => exact (one s a).trans (later (f s a))

theorem FillsOnly.inside (only : FillsOnly s t) {n : Nat} (inside : ∀ c, s.outRegion c n = none) (c : Nat) : t.outRegion c n = none := by
  rw [← Option.isNone_iff_eq_none, ← Option.not_isSome, only.away, inside]
  rfl

end

theorem ones_eq_ofNat {w : Nat} (pos : 0 < w) (m : Nat) : 1#w <<< m - 1#w = BitVec.ofNat w (2 ^ m - 1) := by
  rw [← BitVec.ofNat_sub_ofNat_of_le _ _ (Nat.one_lt_two_pow (Nat.ne_of_gt pos)) Nat.one_le_two_pow]
  refine congrArg (· - 1#w) (BitVec.eq_of_toNat_eq ?_)
  rw [BitVec.toNat_shiftLeft, BitVec.toNat_ofNat, BitVec.toNat_ofNat, Nat.shiftLeft_eq, Nat.mod_mul_mod, Nat.one_mul]

/-- The bits of the granules that bytes touch are set. -/
theorem getLsbD_feFill (fe : BitVec 16384) (o n : Nat) {g : Nat} (low : g < 16384) : (feFill fe o n).getLsbD g = true ↔
    fe.getLsbD g = true ∨ ∃ j < n, (o + j) / 16 = g := by
  unfold feFill
  split
  next none => simp [none]
  next some =>
    have touched : (∃ j < n, (o + j) / 16 = g) ↔ o / 16 ≤ g ∧ g - o / 16 < (o + n - 1) / 16 - o / 16 + 1 := by
      constructor
      · rintro ⟨j, less, rfl⟩
        omega
      · rintro ⟨above, below⟩
        exact ⟨g * 16 - o, by omega, by omega⟩
    dsimp only
    rw [BitVec.getLsbD_or, BitVec.getLsbD_shiftLeft, ones_eq_ofNat (by decide), BitVec.getLsbD_ofNat, Nat.testBit_two_pow_sub_one, touched]
    simp only [Bool.or_eq_true, Bool.and_eq_true, Bool.not_eq_true', decide_eq_true_eq, decide_eq_false_iff_not]
    refine or_congr .rfl ?_
    omega

/-- A region in ULM: its core's bits are set, and the loads that they wake are on the agenda. -/
theorem ulmFill_of_inside {s : State} {c launch : Nat} (inside : s.outRegion c launch = none) (o n : Nat) :
    ∃ l, s.ulmFill c launch o n = { s.setCore c { s.core c with fe := feFill (s.core c).fe o n } with agenda := l } := by
  have woken (u : State) (l : List Nat) : ∃ a, l.foldl (fun s g => s.wakeLoaders c (o / 16 + g)) u = { u with agenda := a } := by
    induction l generalizing u with
    | nil => exact ⟨_, rfl⟩
    | cons g l later =>
      obtain ⟨a, eq⟩ := later (u.wakeLoaders c (o / 16 + g))
      exact ⟨a, eq⟩
  rw [State.ulmFill, inside, if_neg (by decide)]
  dsimp only
  split
  · exact ⟨_, rfl⟩
  · exact woken ..

theorem ulmFill_only (s : State) (c launch o n : Nat) : FillsOnly s (s.ulmFill c launch o n) := by
  cases region : s.outRegion c launch with
  | none =>
    obtain ⟨l, eq⟩ := ulmFill_of_inside region o n
    rw [eq]
    exact ⟨byteAt_setCore s rfl, rfl, fun _ _ => rfl⟩
  | some a =>
    rw [State.ulmFill, region, if_pos (by rfl)]
    exact ⟨rfl, rfl, outRegion_updRegion s c launch _⟩

/-- A bit of a core's granules after a fill of a region in ULM. -/
theorem fe_ulmFill {s : State} {c launch : Nat} (inside : s.outRegion c launch = none) (o n d : Nat) {g : Nat} (low : g < 16384) :
    ((s.ulmFill c launch o n).core d).fe.getLsbD g = true ↔
      (s.core d).fe.getLsbD g = true ∨ (d = c ∧ ∃ j < n, (o + j) / 16 = g) := by
  obtain ⟨l, eq⟩ := ulmFill_of_inside inside o n
  have fe : ((s.ulmFill c launch o n).core d).fe = ((s.setCore c { s.core c with fe := feFill (s.core c).fe o n }).core d).fe := by rw [eq]; rfl
  rw [fe]
  by_cases here : d = c
  · rw [here, core_setCore_same, getLsbD_feFill _ _ _ low]
    simp
  · rw [core_setCore_other s here]
    simp [here]

theorem opmFull_only (s : State) (c launch origin : Nat) (a : W64) (n : Nat) : FillsOnly s (s.opmFull c launch origin a n) := by
  unfold State.opmFull
  split
  · exact ulmFill_only ..
  · exact .refl s

theorem localFull_only (s : State) (q : Transfer) (a : W64) : FillsOnly s (s.localFull q a) := by
  unfold State.localFull
  split
  · exact fillsOnly_foldl (fun s c => ulmFill_only ..) _ s
  · exact opmFull_only ..

/-- A bit of a core's granules after fills that each set the bits that `sets` names. -/
theorem fe_foldl {α : Type} {f : State → α → State} {launch d g : Nat} {sets : α → Prop} (one : ∀ s a, FillsOnly s (f s a))
    (bit : ∀ s a, (∀ c, s.outRegion c launch = none) → (((f s a).core d).fe.getLsbD g = true ↔ (s.core d).fe.getLsbD g = true ∨ sets a))
    (l : List α) {s : State} (inside : ∀ c, s.outRegion c launch = none) :
    ((l.foldl f s).core d).fe.getLsbD g = true ↔ (s.core d).fe.getLsbD g = true ∨ ∃ a ∈ l, sets a := by
  induction l generalizing s with
  | nil => simp
  | cons a l later =>
    rw [List.foldl_cons, later ((one s a).inside inside), bit s a inside, or_assoc]
    simp only [List.mem_cons, exists_eq_or_imp]

end Sys2Proof.Laws

/-!
A running transfer at the head of a channel moves all that it has left (R183–R186, R192).
-/

namespace Sys2Proof.Laws

open Sys2Proof Sys2Proof.Machine

/-! ## The elements left -/

section
variable (s : State) (k ch : Nat) (q : Transfer)

/-- The elements that a transfer has left, in walk order. -/
def restOf (q : Transfer) : List Move := q.left.map (·.1)

/-- What the translation of the pages of the elements left comes to. -/
def pagesLeft (s : State) (k : Nat) (q : Transfer) : Pages × Transfer × State := s.pages k q (q.accesses (restOf q))

variable {s k q} in
theorem pagesLeft_spec {p : Pages} {t : Transfer} {u : State} (pages : pagesLeft s k q = (p, t, u)) :
    (∃ l, t = { q with trans := l }) ∧ TranslatesOnly s u := by
  obtain ⟨l, same⟩ := pages_transfer s k q (q.accesses (restOf q))
  have only := pages_only s k q (q.accesses (restOf q))
  unfold pagesLeft at pages
  rw [pages] at same only
  exact ⟨⟨l, same⟩, only⟩

/-- The shadow that a transfer without one reserves as it begins to move (R185). -/
def reserved (s : State) (t : Transfer) : List LogRec :=
  if t.dsh && t.shadow.isEmpty then s.shadowOf t (t.moves.map fun m => (m.dst, List.replicate t.shape.es 0)) else []

theorem reserved_of_local {t : Transfer} (dest : t.dsh = false) : reserved s t = [] := by
  rw [reserved, dest]
  rfl

/-- With its pages translated, its way free, its source sound and space in the pools a transfer moves all that it has left and ends. -/
theorem runHead_all (begins : q.ssh = false ∨ q.after ≤ s.now) {t : Transfer} {u : State} (pages : pagesLeft s k q = (.ok, t, u))
    (reached : u.sideLost k t (q.accesses (restOf q)) (restOf q) = false) (open_ : u.sideHeld k t (q.accesses (restOf q)) (restOf q) = false)
    (sound : u.poisonedSource t (restOf q) = none)
    (room : reserved u t ≠ [] → ∀ g < 4, u.poolUsed g + granulesAt (reserved u t) g ≤ u.poolSize g)
    (caught : q.ssh = true → HomesCaughtUp u) :
    let x := u.moveSome k { t with shadow := t.shadow ++ reserved u t } (restOf q)
    s.runHead k ch q .all = x.2.moveEnds k ch (x.1.advance (q.left.map (·.2))) := by
  obtain ⟨⟨l', rfl⟩, -⟩ := pagesLeft_spec pages
  have early : (q.ssh && decide (s.now < q.after)) = false := by
    rcases begins with off | due
    · rw [off]; rfl
    · rw [decide_eq_false (Nat.not_lt.mpr due), Bool.and_false]
  have fits : ([0, 1, 2, 3].any fun g => decide (u.poolSize g < u.poolUsed g + granulesAt (reserved u { q with trans := l' }) g) &&
      !(reserved u { q with trans := l' }).isEmpty) = false := by
    rw [gdies_any_eq_false_iff]
    intro g low
    cases empty : reserved u { q with trans := l' } with
    | nil => exact Bool.and_false _
    | cons r rs =>
      rw [decide_eq_false, Bool.false_and]
      exact Nat.not_lt.mpr (empty ▸ room (by rw [empty]; exact List.cons_ne_nil r rs) g low)
  have settled (want : Publication → Bool) : (if q.ssh then u.settleHomes want else u) = u := by
    split
    next shared => exact settleHomes_eq_self (caught shared) _
    next => rfl
  unfold State.runHead
  refine (if_neg (ne_true_of_eq_false early)).trans ?_
  dsimp only
  rw [show s.pages k q (q.accesses (q.left.map (·.1))) = _ from pages]
  refine (if_neg (ne_true_of_eq_false reached)).trans ((if_neg (ne_true_of_eq_false open_)).trans ?_)
  rw [show u.poisonedSource { q with trans := l' } ((({ q with trans := l' } : Transfer).piece .all).map (·.1)) = _ from sound]
  refine (if_neg (ne_true_of_eq_false fits)).trans ?_
  dsimp only
  rw [settled]
  rfl

end

/-! ## Local destinations (R184, R192) -/

/-- The bytes of a local element's source: what stands there, or zero bytes. -/
def localSource (s : State) (q : Transfer) (m : Move) : List Byte :=
  (m.src.map fun a => s.opmRead q.core q.launch q.origin a q.shape.es).getD (List.replicate q.shape.es 0)

/-- One element moved to its local destination, with the granules of a shared source read so far. -/
def moveOne (t : Transfer) (x : State × PMap (BitVec 128)) (m : Move) : State × PMap (BitVec 128) :=
  (x.1.localPut t m.dst (x.1.srcBytes t m.src x.2).1, (x.1.srcBytes t m.src x.2).2)

theorem moveLocal_only (s : State) (t : Transfer) (ms : List Move) : WritesOnly s (s.moveLocal t ms).1 := by
  have from_ (x : State × PMap (BitVec 128)) : WritesOnly x.1 (ms.foldl (moveOne t) x).1 := by
    induction ms generalizing x with
    | nil => exact .refl _
    | cons m ms later => exact (localPut_only x.1 t m.dst _).trans (later (moveOne t x m))
  exact from_ (s, t.seen)

section
variable {s : State} {k ch : Nat} {q : Transfer}

theorem moveLocal_of_local (source : q.ssh = false) (ms : List Move) :
    (s.moveLocal q ms).1 = ms.foldl (fun u m => u.localPut q m.dst (localSource u q m)) s := by
  have one (x : State × PMap (BitVec 128)) (m : Move) : (moveOne q x m).1 = x.1.localPut q m.dst (localSource x.1 q m) := by
    refine congrArg (x.1.localPut q m.dst) ?_
    rw [localSource]
    cases m.src with
    | none => rfl
    | some a => exact congrArg Prod.fst (if_neg (ne_true_of_eq_false source))
  have from_ (x : State × PMap (BitVec 128)) : (ms.foldl (moveOne q) x).1 = ms.foldl (fun u m => u.localPut q m.dst (localSource u q m)) x.1 := by
    induction ms generalizing x with
    | nil => rfl
    | cons m ms later => rw [List.foldl_cons, later, List.foldl_cons, one]
  exact from_ (s, q.seen)

/-- All that a transfer with a local destination has left moves, the granules' bits are set, and it is done. -/
theorem moveSome_moveEnds_local (other : q.isDrain = false) (dest : q.dsh = false) (u : State) (ms : List Move) (ns : List Nat) :
    let x := u.moveSome k q ms
    ∃ h, h.state = .done 0 ∧ x.2.moveEnds k ch (x.1.advance ns) =
      (q.moves.foldl (fun v m => v.localFull q m.dst) (u.moveLocal q ms).1).setHead k ch h := by
  have moved : ∃ n, u.moveSome k q ms = ({ q with moved := n, seen := (u.moveLocal q ms).2 }, (u.moveLocal q ms).1) := by
    rw [Transfer.isDrain] at other
    unfold State.moveSome
    dsimp only
    split
    next kind => rw [kind] at other; cases other
    all_goals exact ⟨_, if_neg (ne_true_of_eq_false dest)⟩
  obtain ⟨n, eq⟩ := moved
  dsimp only
  rw [eq, State.moveEnds, drainDone_of_not_drain _ _ (by exact other)]
  exact ⟨_, by rfl, if_neg (ne_true_of_eq_false (by exact dest))⟩

end
end Sys2Proof.Laws

/-!
Transfers between local places at their completion (R183, R184, R192).
-/

namespace Sys2Proof.Laws

open Sys2Proof Sys2Proof.Machine

/-- The elements of a transfer have been moved (`v`), the bits of their granules are set, and the head is replaced: what is seen then. -/
theorem filled_setHead {s v : State} {k ch : Nat} (low : ch < 8) {p : Transfer} {rest : List Transfer}
    (queue : ((s.cluster k).channel ch).queue = p :: rest) (only : WritesOnly s v) (q h : Transfer) :
    let w := q.moves.foldl (fun u m => u.localFull q m.dst) v
    (((w.setHead k ch h).cluster k).channel ch).queue = h :: rest ∧ (w.setHead k ch h).byteAt = v.byteAt ∧
      ∀ c, ((w.setHead k ch h).core c).fe = (w.core c).fe := by
  have fills := fillsOnly_foldl (f := fun (u : State) (m : Move) => u.localFull q m.dst) (fun u m => localFull_only u q m.dst) q.moves v
  generalize q.moves.foldl (fun u m => u.localFull q m.dst) v = w at fills ⊢
  have same : w.cluster k = v.cluster k := by rw [State.cluster, fills.clusters, State.cluster]
  refine ⟨queue_setHead low (q := p) ?_ h, (byteAt_setHead low w k h).trans fills.bytes, fun c => congrArg Core.fe (core_setHead low w k h c)⟩
  rw [same, only.channel, queue]

section
variable (s : State) (k : Nat) (q : Transfer) (ms : List Move)

/-- Between local places only the routes to the elements' sides can be lost. -/
theorem sideLost_nil : s.sideLost k q [] ms = (q.localDies ms).any fun d => s.cutOff (k / 32) d := Bool.false_or _

theorem sideHeld_nil : s.sideHeld k q [] ms = (((q.localDies ms).any fun d => s.routeHeld (k / 32) d || s.dieInReset d) ||
    (q.localCores ms).any fun c => clusterOf c != k && s.fenced c) := congrArg (· || _) (Bool.false_or _)

/-- Every local side of the elements left is reached, by a route that is not held, on a die that is not in reset, and behind no fence. -/
structure WayFree (s : State) (k : Nat) (q : Transfer) : Prop where
  dies : ∀ d ∈ q.localDies (restOf q), s.cutOff (k / 32) d = false ∧ s.routeHeld (k / 32) d = false ∧ (s.die d).resetEnd ≤ s.now
  cores : ∀ c ∈ q.localCores (restOf q), clusterOf c = k ∨ s.fenced c = false

variable {s k q} (free : WayFree s k q)
include free

theorem WayFree.reached : s.sideLost k q [] (restOf q) = false := by
  rw [sideLost_nil, List.any_eq_false]
  exact fun d member => ne_true_of_eq_false (free.dies d member).1

theorem WayFree.open_ : s.sideHeld k q [] (restOf q) = false := by
  rw [sideHeld_nil, Bool.or_eq_false_iff, List.any_eq_false, List.any_eq_false]
  constructor
  · intro d member
    obtain ⟨-, open_, awake⟩ := free.dies d member
    simp [open_, State.dieInReset, awake]
  · intro c member
    rcases free.cores c member with own | open_
    · simp [own]
    · simp [open_]

end

/-- The elements that a transfer between local places has left, in place one after the other. -/
def movedLocal (s : State) (q : Transfer) : State := (restOf q).foldl (fun u m => u.localPut q m.dst (localSource u q m)) s

section
variable {s : State} {k ch : Nat} (low : ch < 8) {q : Transfer} {rest : List Transfer}
  (queue : ((s.cluster k).channel ch).queue = q :: rest)

variable (chain : ((s.cluster k).channel ch).chain = none)
include low queue chain

theorem exec_transferComplete_running (state : q.state = .running) :
    exec (.transferComplete k ch) s = .next (s.runHead k ch q .all) := by
  show execTransferComplete k ch s = _
  simp only [execTransferComplete, headOf_of_queue low queue chain, state]

variable (state : q.state = .running) (source : q.ssh = false) (dest : q.dsh = false)
include state source dest

/-- Without a route to a local side of an element left a transfer ends with LINK. -/
theorem exec_transferComplete_link (other : q.isDrain = false) (lost : ∃ d ∈ q.localDies (restOf q), s.cutOff (k / 32) d = true) :
    exec (.transferComplete k ch) s = .next (s.setHead k ch { q with shadow := [], got := [], state := .done 5 }) := by
  have side : s.sideLost k q [] (restOf q) = true := by
    rw [sideLost_nil]
    exact List.any_eq_true.mpr lost
  have fails : s.runHead k ch q .all = s.failHead k ch { q with moved := q.moved, shadow := [], got := [] } 5 := by
    unfold State.runHead
    refine (if_neg (by rw [source]; exact Bool.false_ne_true)).trans ?_
    rw [accesses_of_local source dest]
    refine (if_pos side).trans ?_
    rw [dest]
    rfl
  rw [exec_transferComplete_running low queue chain state, fails, failHead_of_not_drain _ _ _ (by exact other)]

/-- A transfer between local places moves what it has left. -/
theorem exec_transferComplete_local (other : q.isDrain = false) (free : WayFree s k q) : ∃ h, h.state = .done 0 ∧
    exec (.transferComplete k ch) s = .next ((q.moves.foldl (fun u m => u.localFull q m.dst) (movedLocal s q)).setHead k ch h) := by
  have pages : pagesLeft s k q = (.ok, q, s) := by
    rw [pagesLeft, accesses_of_local source dest]
    rfl
  have nothing := reserved_of_local s dest
  have none : q.accesses (restOf q) = [] := accesses_of_local source dest _
  have all := runHead_all s k ch q (.inl source) pages (by rw [none]; exact free.reached) (by rw [none]; exact free.open_)
    (by rw [State.poisonedSource, source]; rfl) (fun some => absurd nothing some) (fun shared => absurd shared (ne_true_of_eq_false source))
  rw [nothing, List.append_nil] at all
  obtain ⟨h, done, eq⟩ := moveSome_moveEnds_local (k := k) (ch := ch) other dest s (restOf q) (q.left.map (·.2))
  refine ⟨h, done, ?_⟩
  rw [exec_transferComplete_running low queue chain state, movedLocal, ← moveLocal_of_local source, ← eq]
  exact congrArg _ all

/-- What is seen of a transfer between local places that is complete: it is done, its bytes are in place, and of the bits of full/empty those are
set that `sets` names of its elements. -/
theorem exec_transferComplete_local_seen (other : q.isDrain = false) (free : WayFree s k q) : ∃ t, exec (.transferComplete k ch) s = .next t ∧
    ((t.cluster k).channel ch).queue.map (fun x => x.state) = .done 0 :: rest.map (fun x => x.state) ∧ t.byteAt = (movedLocal s q).byteAt ∧
    ((∀ c, s.outRegion c q.launch = none) → ∀ (d g : Nat) (sets : Move → Prop), (∀ (u : State) (m : Move),
      (∀ c, u.outRegion c q.launch = none) → (((u.localFull q m.dst).core d).fe.getLsbD g = true ↔ (u.core d).fe.getLsbD g = true ∨ sets m)) →
      ((t.core d).fe.getLsbD g = true ↔ (s.core d).fe.getLsbD g = true ∨ ∃ m ∈ q.moves, sets m)) := by
  obtain ⟨h, done, next⟩ := exec_transferComplete_local low queue chain state source dest other free
  have only : WritesOnly s (movedLocal s q) :=
    writesOnly_foldl (f := fun (u : State) (m : Move) => u.localPut q m.dst (localSource u q m)) (fun u m => localPut_only u q m.dst _) _ s
  obtain ⟨head, bytes, fe⟩ := filled_setHead low queue only q h
  refine ⟨_, next, ?_, bytes, fun inside d g sets bit => ?_⟩
  · rw [head, List.map_cons, done]
  · rw [fe, fe_foldl (f := fun (u : State) (m : Move) => u.localFull q m.dst) (fun u m => localFull_only u q m.dst) bit q.moves
      (only.inside inside), only.fe]

end
end Sys2Proof.Laws

/-!
Elements of a shared source (R186): each is what stands at the home of its page, however the granules read so far are kept.
-/

namespace Sys2Proof.Laws

open Sys2Proof Sys2Proof.Machine

/-! ## Bytes of a granule at its home -/

theorem es_cases (h : Shape) : h.es = 1 ∨ h.es = 2 ∨ h.es = 4 := by
  unfold Shape.es
  split
  · exact .inr (.inr rfl)
  · exact .inr (.inr rfl)
  · exact .inr (.inr rfl)
  · exact .inr (.inl rfl)
  · exact .inr (.inl rfl)
  · exact .inr (.inl rfl)
  · exact .inl rfl

/-- An aligned element lies in one granule. -/
theorem aligned_in_granule (h : Shape) {a : Nat} (aligned : a % h.es = 0) : a % 16 + h.es ≤ 16 := by
  rcases es_cases h with one | two | four
  · omega
  · rw [two] at aligned; omega
  · rw [four] at aligned; omega

/-- A home keeps an address's place in its granule. -/
theorem key_mod_16 (e : TlbEntry) (a : Nat) : e.key a % 16 = a % 16 := by
  have page : 16 ∣ 2 ^ (16 + pageShift e.size) := Dvd.dvd.trans (by decide : 16 ∣ 2 ^ 16) (Nat.pow_dvd_pow 2 (Nat.le_add_right ..))
  have within := Nat.mod_mod_of_dvd a page
  unfold TlbEntry.key
  omega

/-- The bytes of a word taken from the granule that holds it. -/
theorem leBytes_granule (m : Mem) {key n : Nat} (inside : key % 16 + n ≤ 16) :
    leBytes (m.readLE (key / 16 * 16) 16 128 >>> (8 * (key % 16))) n = (List.range n).map fun j => m.read (key + j) := by
  refine List.ext_getElem (by rw [leBytes_length, List.length_map, List.length_range]) fun j left right => ?_
  have less : j < n := by rwa [leBytes_length] at left
  have place : (m.readLE (key / 16 * 16) 16 128 >>> (8 * (key % 16))).extractLsb' (8 * j) 8 =
      (m.readLE (key / 16 * 16) 16 128).extractLsb' (8 * (key % 16 + j)) 8 := by
    refine BitVec.eq_of_getLsbD_eq fun i _ => ?_
    simp only [BitVec.getLsbD_extractLsb', BitVec.getLsbD_ushiftRight, Nat.mul_add, Nat.add_assoc]
  rw [getElem_leBytes, place, extractLsb'_readLE m _ (by omega) (by omega), List.getElem_map, List.getElem_range]
  exact congrArg m.read (by omega)

/-! ## What is read -/

/-- The granules kept are those at the homes. -/
def SeenAtHome (home : Mem) (seen : PMap (BitVec 128)) : Prop :=
  ∀ g, PMap.get seen g (home.readLE (g * 16) 16 128) = home.readLE (g * 16) 16 128

theorem seenAtHome_put {home : Mem} {seen : PMap (BitVec 128)} (at_ : SeenAtHome home seen) (g : Nat) :
    SeenAtHome home (PMap.put seen g (home.readLE (g * 16) 16 128)) := by
  intro d
  by_cases here : d = g
  · rw [here, PMap.get_put_same]
  · rw [PMap.get_put_other _ here, at_ d]

/-- What an element of a shared source receives, of a transfer `q` with the translations of `t`: the bytes at the home of its page, or zero
bytes. -/
def sharedSource (home : Mem) (now : Nat) (q t : Transfer) (m : Move) : List Byte :=
  (m.src.map fun a => match t.entry now (if q.code then .codeLoad else .copyRead) a with
    | some e => (List.range q.shape.es).map fun j => home.read (e.key a.toNat + j)
    | none => List.replicate q.shape.es 0).getD (List.replicate q.shape.es 0)

section
variable {t : Transfer} (shared : t.ssh = true)
include shared

theorem srcBytes_of_shared (s : State) {m : Move} (aligned : ∀ a, m.src = some a → a.toNat % t.shape.es = 0) {seen : PMap (BitVec 128)}
    (at_ : SeenAtHome s.home seen) :
    (s.srcBytes t m.src seen).1 = sharedSource s.home s.now t t m ∧ SeenAtHome s.home (s.srcBytes t m.src seen).2 := by
  unfold State.srcBytes sharedSource
  cases source : m.src with
  | none => exact ⟨rfl, at_⟩
  | some a =>
    simp only [shared, if_true, Option.map_some, Option.getD_some]
    cases t.entry s.now (if t.code then .codeLoad else .copyRead) a with
    | none => exact ⟨rfl, at_⟩
    | some e =>
      have inside : e.key a.toNat % 16 + t.shape.es ≤ 16 := key_mod_16 e a.toNat ▸ aligned_in_granule t.shape (aligned a source)
      dsimp only
      rw [at_]
      exact ⟨leBytes_granule s.home inside, seenAtHome_put at_ _⟩

/-- A shared source's elements in place, one after the other. -/
theorem moveLocal_of_shared (s : State) {ms : List Move} (aligned : ∀ m ∈ ms, ∀ a, m.src = some a → a.toNat % t.shape.es = 0)
    (at_ : SeenAtHome s.home t.seen) :
    (s.moveLocal t ms).1 = ms.foldl (fun u m => u.localPut t m.dst (sharedSource s.home s.now t t m)) s := by
  have from_ (x : State × PMap (BitVec 128)) (home : x.1.home = s.home) (now : x.1.now = s.now) (at_ : SeenAtHome s.home x.2) :
      (ms.foldl (moveOne t) x).1 = ms.foldl (fun u m => u.localPut t m.dst (sharedSource s.home s.now t t m)) x.1 := by
    induction ms generalizing x with
    | nil => rfl
    | cons m ms later =>
      obtain ⟨bytes, kept⟩ := srcBytes_of_shared shared x.1 (aligned m List.mem_cons_self) (home ▸ at_)
      have only := localPut_only x.1 t m.dst (x.1.srcBytes t m.src x.2).1
      rw [List.foldl_cons, later (fun n member => aligned n (List.mem_cons_of_mem m member)) (moveOne t x m) (only.home.trans home)
        (only.now.trans now) (home ▸ kept), List.foldl_cons, moveOne, bytes, home, now]
  exact from_ (s, t.seen) rfl rfl at_

end

theorem aligned_of_shapeOk {q : Transfer} {ms : List Move} (ok : q.shapeOk ms = true) :
    ∀ m ∈ ms, ∀ a, m.src = some a → a.toNat % q.shape.es = 0 := by
  intro m member a source
  rw [Transfer.shapeOk, Bool.and_eq_true, List.all_eq_true] at ok
  have one := ok.2 m member
  rw [source] at one
  simpa using (Bool.and_eq_true_iff.mp one).2

theorem mem_moves_of_restOf {q : Transfer} {m : Move} (member : m ∈ restOf q) : m ∈ q.moves := by
  obtain ⟨x, left, rfl⟩ := List.mem_map.mp member
  exact List.fst_mem_of_mem_zipIdx (List.mem_of_mem_filter left)

end Sys2Proof.Laws

/-!
The shadow of a transfer with a shared destination (R185): granules with the bytes of its elements, the later in the walk winning.
-/

namespace Sys2Proof.Laws

open Sys2Proof Sys2Proof.Machine

/-! ## Granules with masks and data -/

/-- A granule with the bytes of it that are written, as a shadow is gathered. -/
abbrev Gathered := BitVec 44 × BitVec 16 × BitVec 128

/-- A granule's byte at an offset, where its mask names it. -/
def Gathered.byte (e : Gathered) (j : Nat) : Option Byte := if e.2.1.getLsbD j then some (e.2.2.extractLsb' (8 * j) 8) else none

/-- The byte at an address that a list of granules holds. -/
def heldAt : List Gathered → Nat → Option Byte
  | [], _ => none
  | e :: l, x => if e.1.toNat = x / 16 then e.byte (x % 16) else heldAt l x

theorem heldAt_cons (e : Gathered) (l : List Gathered) (x : Nat) :
    heldAt (e :: l) x = if e.1.toNat = x / 16 then e.byte (x % 16) else heldAt l x := rfl

section
variable (a : Nat) (b : Byte)

theorem getLsbD_oneByte {j : Nat} (inside : j < 16) : (BitVec.twoPow 16 (a % 16)).getLsbD j = decide (j = a % 16) := by
  rw [BitVec.getLsbD_twoPow, Bool.eq_iff_iff]
  simp only [Bool.and_eq_true, decide_eq_true_eq]
  omega

theorem extractLsb'_oneByte : (b.setWidth 128 <<< (8 * (a % 16))).extractLsb' (8 * (a % 16)) 8 = b := by
  refine BitVec.eq_of_getLsbD_eq fun i low => ?_
  rw [BitVec.getLsbD_extractLsb', BitVec.getLsbD_shiftLeft, BitVec.getLsbD_setWidth, Nat.add_sub_cancel_left]
  simp only [low, decide_true, Bool.true_and, show 8 * (a % 16) + i < 128 by omega, show i < 128 by omega, Nat.not_lt.mpr (Nat.le_add_right ..),
    decide_false, Bool.not_false]

theorem byte_one (g : BitVec 44) {j : Nat} (inside : j < 16) :
    Gathered.byte (g, BitVec.twoPow 16 (a % 16), b.setWidth 128 <<< (8 * (a % 16))) j = if j = a % 16 then some b else none := by
  rw [Gathered.byte, getLsbD_oneByte a inside]
  by_cases here : j = a % 16
  · simp [here, extractLsb'_oneByte]
  · simp [here]

/-- A granule that takes in a byte. -/
theorem byte_take (g : BitVec 44) (m : BitVec 16) (d : BitVec 128) {j : Nat} (inside : j < 16) :
    Gathered.byte (g, m ||| BitVec.twoPow 16 (a % 16), maskMerge d (b.setWidth 128 <<< (8 * (a % 16))) (BitVec.twoPow 16 (a % 16))) j =
      if j = a % 16 then some b else Gathered.byte (g, m, d) j := by
  rw [Gathered.byte, Gathered.byte, BitVec.getLsbD_or, maskMerge_byte _ _ _ inside, getLsbD_oneByte a inside]
  by_cases here : j = a % 16
  · simp [here, extractLsb'_oneByte]
  · simp [here]

variable {a} (low : a < 2 ^ 48)
include low

theorem toNat_granuleOf : (BitVec.ofNat 44 (a / 16)).toNat = a / 16 := by
  rw [BitVec.toNat_ofNat]
  exact Nat.mod_eq_of_lt (by omega)

/-- What a list of granules holds after a byte is put. -/
theorem heldAt_putShadow (l : List Gathered) (x : Nat) : heldAt (putShadow a b l) x = if x = a then some b else heldAt l x := by
  have offset : x % 16 < 16 := Nat.mod_lt x (by decide)
  have same : x = a ↔ a / 16 = x / 16 ∧ x % 16 = a % 16 := by omega
  induction l with
  | nil =>
    rw [putShadow, heldAt_cons, byte_one a b _ offset, toNat_granuleOf low]
    by_cases granule : a / 16 = x / 16
    · simp [same, granule, heldAt]
    · simp [same, granule, heldAt]
  | cons e l later =>
    obtain ⟨g, m, d⟩ := e
    rw [putShadow]
    split
    next here =>
      rw [heldAt_cons, heldAt_cons, byte_take a b g m d offset]
      by_cases granule : a / 16 = x / 16
      · simp [same, granule, here]
      · simp [same, granule, here]
    next other =>
      rw [heldAt_cons, heldAt_cons, later]
      by_cases granule : g.toNat = x / 16
      · have apart : x ≠ a := fun eq => other (eq ▸ granule)
        simp [apart, granule]
      · simp [granule]

/-- The granules of a list with a byte put: a new one goes to the end. -/
theorem granules_putShadow (l : List Gathered) : ∃ new : List (BitVec 44), (putShadow a b l).map (·.1) = l.map (·.1) ++ new ∧
    (new = [] ∨ new = [BitVec.ofNat 44 (a / 16)] ∧ BitVec.ofNat 44 (a / 16) ∉ l.map (·.1)) := by
  induction l with
  | nil => exact ⟨[BitVec.ofNat 44 (a / 16)], rfl, .inr ⟨rfl, List.not_mem_nil⟩⟩
  | cons e l later =>
    obtain ⟨g, m, d⟩ := e
    rw [putShadow]
    split
    next => exact ⟨[], by simp, .inl rfl⟩
    next other =>
      obtain ⟨new, eq, how⟩ := later
      refine ⟨new, congrArg (g :: ·) eq, how.imp_right fun ⟨one, absent⟩ => ⟨one, ?_⟩⟩
      rintro (_ | ⟨_, member⟩)
      · exact other (toNat_granuleOf low)
      · exact absent member

theorem nodup_putShadow {l : List Gathered} (nodup : (l.map (·.1)).Nodup) : ((putShadow a b l).map (·.1)).Nodup := by
  obtain ⟨new, eq, how⟩ := granules_putShadow b low l
  rw [eq]
  rcases how with rfl | ⟨rfl, absent⟩
  · rwa [List.append_nil]
  · exact List.nodup_append_comm.mp (List.nodup_cons.mpr ⟨absent, nodup⟩)

end

/-- What a list of granules holds it holds in one of them. -/
theorem exists_of_heldAt {l : List Gathered} {x : Nat} {b : Byte} (held : heldAt l x = some b) :
    ∃ e ∈ l, e.1.toNat = x / 16 ∧ e.byte (x % 16) = some b := by
  induction l with
  | nil => cases held
  | cons e l later =>
    rw [heldAt_cons] at held
    split at held
    next here => exact ⟨e, List.mem_cons_self, here, held⟩
    next =>
      obtain ⟨e', member, found⟩ := later held
      exact ⟨e', List.mem_cons_of_mem e member, found⟩

/-- With no granule twice, a list holds at an address what the granule in it holds. -/
theorem heldAt_of_mem {l : List Gathered} (nodup : (l.map (·.1)).Nodup) {e : Gathered} (member : e ∈ l) {x : Nat}
    (here : e.1.toNat = x / 16) : heldAt l x = e.byte (x % 16) := by
  induction l with
  | nil => cases member
  | cons e' l later =>
    obtain ⟨absent, nodup⟩ := List.nodup_cons.mp nodup
    rw [heldAt_cons]
    rcases List.mem_cons.mp member with rfl | member
    · exact if_pos here
    · have apart : e'.1.toNat ≠ x / 16 := fun first =>
        absent (List.mem_map.mpr ⟨e, member, BitVec.eq_of_toNat_eq (here.trans first.symm)⟩)
      rw [if_neg apart]
      exact later nodup member

/-! ## Elements -/

/-- An element put: its bytes at its address and after. -/
def putElement (l : List Gathered) (v : W64 × List Byte) : List Gathered :=
  v.2.zipIdx.foldl (fun l x => putShadow (v.1.toNat + x.2) x.1 l) l

/-- An element that writes the byte at an address. -/
def writesAt (x : Nat) (v : W64 × List Byte) : Bool := decide (v.1.toNat ≤ x) && decide (x < v.1.toNat + v.2.length)

theorem putBytes_spec (l : List Gathered) (a : W64) (bs : List Byte) (n : Nat) (fits : a.toNat + n + bs.length ≤ 2 ^ 48) :
    (∀ x, heldAt ((bs.zipIdx n).foldl (fun l x => putShadow (a.toNat + x.2) x.1 l) l) x =
      if a.toNat + n ≤ x ∧ x < a.toNat + n + bs.length then bs[x - (a.toNat + n)]? else heldAt l x) ∧
    ((l.map (·.1)).Nodup → (((bs.zipIdx n).foldl (fun l x => putShadow (a.toNat + x.2) x.1 l) l).map (·.1)).Nodup) := by
  induction bs generalizing l n with
  | nil =>
    refine ⟨fun x => (if_neg ?_).symm, id⟩
    rw [List.length_nil]
    omega
  | cons b bs later =>
    rw [List.length_cons] at fits
    have low : a.toNat + n < 2 ^ 48 := by omega
    obtain ⟨held, nodup⟩ := later (putShadow (a.toNat + n) b l) (n + 1) (by omega)
    refine ⟨fun x => (held x).trans ?_, fun start => nodup (nodup_putShadow b low start)⟩
    rw [heldAt_putShadow b low, List.length_cons]
    rcases Nat.lt_trichotomy x (a.toNat + n) with before | rfl | after
    · rw [if_neg (by omega), if_neg (by omega), if_neg (by omega)]
    · rw [if_neg (by omega), if_pos rfl, if_pos (by omega), Nat.sub_self, List.getElem?_cons_zero]
    · obtain ⟨j, rfl⟩ : ∃ j, x = a.toNat + n + (j + 1) := ⟨x - (a.toNat + n) - 1, by omega⟩
      rw [if_neg (show ¬a.toNat + n + (j + 1) = a.toNat + n by omega), Nat.add_sub_cancel_left, List.getElem?_cons_succ,
        show a.toNat + n + (j + 1) - (a.toNat + (n + 1)) = j by omega]
      exact if_congr (by omega) rfl rfl

theorem putElement_spec (l : List Gathered) {v : W64 × List Byte} (fits : v.1.toNat + v.2.length ≤ 2 ^ 48) :
    (∀ x, heldAt (putElement l v) x = if writesAt x v then v.2[x - v.1.toNat]? else heldAt l x) ∧
      ((l.map (·.1)).Nodup → ((putElement l v).map (·.1)).Nodup) := by
  simpa [putElement, writesAt] using putBytes_spec l v.1 v.2 0 fits

/-- The later of two elements that write a byte wins. -/
theorem heldAt_elements {vs : Vals} (fit : ∀ v ∈ vs, v.1.toNat + v.2.length ≤ 2 ^ 48) :
    (∀ x, heldAt (vs.foldl putElement []) x = (vs.reverse.find? (writesAt x)).bind fun v => v.2[x - v.1.toNat]?) ∧
      ((vs.foldl putElement []).map (·.1)).Nodup := by
  induction vs using List.reverseRecOn with
  | nil => exact ⟨fun _ => rfl, List.nodup_nil⟩
  | append_singleton vs v earlier =>
    obtain ⟨held, nodup⟩ := earlier fun w member => fit w (List.mem_append_left _ member)
    obtain ⟨put, kept⟩ := putElement_spec (vs.foldl putElement []) (fit v List.mem_concat_self)
    rw [List.foldl_append, List.foldl_cons, List.foldl_nil]
    refine ⟨fun x => ?_, kept nodup⟩
    rw [put, held, List.reverse_append, List.reverse_singleton, List.singleton_append, List.find?_cons]
    cases writesAt x v <;> rfl

theorem shadowOf_plain (s : State) {t : Transfer} (plain : t.kind = .plain) (vs : Vals) :
    s.shadowOf t vs = (vs.foldl putElement []).map fun e => s.shadowRec t 0 e.1 e.2.1 e.2.2 := by
  unfold State.shadowOf
  rw [plain]
  rfl

/-- The shadow of a plain transfer holds the bytes of its elements and no other. -/
theorem shadowCovers_shadowOf (s : State) {t : Transfer} (plain : t.kind = .plain) {vs : Vals}
    (fit : ∀ v ∈ vs, v.1.toNat + v.2.length ≤ 2 ^ 48) : ShadowCovers vs (s.shadowOf t vs) := by
  obtain ⟨held, nodup⟩ := heldAt_elements fit
  rw [shadowOf_plain s plain]
  intro x
  have at_ := held x
  dsimp only
  split
  next none =>
    rw [show vs.reverse.find? (writesAt x) = Option.none from none] at at_
    rintro - r member ⟨gran, mask⟩
    obtain ⟨e, inside, rfl⟩ := List.mem_map.mp member
    rw [heldAt_of_mem nodup inside gran, Gathered.byte, if_pos (show e.2.1.getLsbD (x % 16) = true from mask)] at at_
    cases at_
  next v some =>
    have writes : writesAt x v = true := List.find?_some some
    rw [show vs.reverse.find? (writesAt x) = Option.some v from some, Option.bind_some] at at_
    obtain ⟨from_, below⟩ : v.1.toNat ≤ x ∧ x < v.1.toNat + v.2.length := by simpa [writesAt] using writes
    obtain ⟨b, found⟩ : ∃ b, v.2[x - v.1.toNat]? = Option.some b := ⟨_, List.getElem?_eq_getElem (by omega)⟩
    obtain ⟨e, member, gran, byte⟩ := exists_of_heldAt (at_.trans found)
    obtain ⟨mask, data⟩ := Option.ite_none_right_eq_some.mp byte
    exact ⟨_, List.mem_map_of_mem member, ⟨gran, mask⟩, rfl, found.trans data.symm⟩

end Sys2Proof.Laws

/-!
Transfers with a shared side at their completion (R183, R185, R186).
-/

namespace Sys2Proof.Laws

open Sys2Proof Sys2Proof.Machine

theorem readList_of_local (s : State) {t : Transfer} (source : t.ssh = false) (ms : List Move) :
    (s.readList t ms).1 = ms.map fun m => (m.dst, localSource s t m) := by
  have one (m : Move) (seen : PMap (BitVec 128)) : s.srcBytes t m.src seen = (localSource s t m, seen) := by
    rw [localSource]
    cases m.src with
    | none => rfl
    | some a => exact if_neg (ne_true_of_eq_false source)
  have from_ (x : Vals × PMap (BitVec 128)) : (ms.foldl (fun x m =>
      (x.1 ++ [(m.dst, (s.srcBytes t m.src x.2).1)], (s.srcBytes t m.src x.2).2)) x).1 = x.1 ++ ms.map fun m => (m.dst, localSource s t m) := by
    induction ms generalizing x with
    | nil => exact (List.append_nil _).symm
    | cons m ms later => rw [List.foldl_cons, later, one, List.map_cons, List.append_assoc, List.singleton_append]
  exact from_ ([], t.seen)

theorem translatesOnly_foldl {α : Type} {f : State → α → State}
    (one : ∀ s t a, TranslatesOnly s t → TranslatesOnly (f s a) (f t a)) (l : List α) {s t : State} (only : TranslatesOnly s t) : TranslatesOnly (l.foldl f s) (l.foldl f t) := by
  induction l generalizing s t with
  | nil => exact only
  | cons a l later => exact later (one s t a only)

/-- All that a transfer with a shared destination has left is read, and its shadow holds it. -/
theorem moveSome_moveEnds_shared {k ch : Nat} {q : Transfer} (plain : q.kind = .plain) (source : q.ssh = false) (dest : q.dsh = true) (u : State)
    (ms : List Move) (ns : List Nat) : let x := u.moveSome k q ms
    let vals := q.got ++ ms.map fun m => (m.dst, localSource u q m)
    ∃ h, h.state = .done (if q.defer then 1 else 0) ∧ ((∀ v ∈ vals, v.1.toNat + v.2.length ≤ 2 ^ 48) → ShadowCovers vals h.shadow) ∧
      x.2.moveEnds k ch (x.1.advance ns) = u.setHead k ch h := by
  have read := readList_of_local u source ms
  have moved : ∃ n seen homes, u.moveSome k q ms =
      ({ q with moved := n, got := q.got ++ ms.map fun m => (m.dst, localSource u q m), seen := seen, homes := homes }, u) := by
    unfold State.moveSome
    simp only [plain]
    refine ⟨q.moved + 1 * (ms.length * q.shape.es), (u.readList q ms).2, u.homesOf q (u.readList q ms).1, (if_pos dest).trans ?_⟩
    rw [read]
  obtain ⟨n, seen, homes, eq⟩ := moved
  dsimp only
  rw [eq, State.moveEnds, drainDone_of_not_drain _ _ (isDrain_of_plain (by exact plain))]
  exact ⟨_, by rfl, shadowCovers_shadowOf u (by exact plain), if_pos (by exact dest)⟩

section
variable {s : State} {k ch : Nat} (low : ch < 8) {q : Transfer} {rest : List Transfer}
  (queue : ((s.cluster k).channel ch).queue = q :: rest) (chain : ((s.cluster k).channel ch).chain = none)
  (state : q.state = .running) (plain : q.kind = .plain) {t : Transfer} {u : State} (pages : pagesLeft s k q = (.ok, t, u))
  (reached : u.sideLost k t (q.accesses (restOf q)) (restOf q) = false) (open_ : u.sideHeld k t (q.accesses (restOf q)) (restOf q) = false)
include low queue chain state plain pages reached open_

/-- A transfer with a shared source and a local destination moves what it has left. -/
theorem exec_transferComplete_shared (source : q.ssh = true) (dest : q.dsh = false) (due : q.after ≤ s.now) (fresh : q.seen = [])
    (aligned : q.shapeOk q.moves = true) (caught : HomesCaughtUp s) (sound : s.poison = []) : ∃ v, exec (.transferComplete k ch) s = .next v ∧
      ((v.cluster k).channel ch).queue.map (fun x => x.state) = .done 0 :: rest.map (fun x => x.state) ∧
      v.byteAt = ((restOf q).foldl (fun w m => w.opmWrite q.core q.launch q.origin m.dst (sharedSource s.home s.now q t m)) s).byteAt := by
  obtain ⟨⟨l', rfl⟩, only⟩ := pagesLeft_spec pages
  have clean : u.poisonedSource { q with trans := l' } (restOf q) = none :=
    if_pos (by rw [only.poison, sound, List.isEmpty_nil, Bool.or_true])
  have nothing := reserved_of_local u (t := { q with trans := l' }) dest
  have all := runHead_all s k ch q (.inr due) pages reached open_ clean (fun some => absurd nothing some)
    (fun _ => by rw [HomesCaughtUp, only.pubs]; exact caught)
  rw [nothing, List.append_nil] at all
  obtain ⟨h, done, eq⟩ := moveSome_moveEnds_local (k := k) (ch := ch) (q := { q with trans := l' }) (isDrain_of_plain plain) dest u (restOf q)
    (q.left.map (·.2))
  have moved := moveLocal_of_shared (t := { q with trans := l' }) source u (ms := restOf q)
    (fun m member => aligned_of_shapeOk aligned m (mem_moves_of_restOf member)) (by rw [fresh]; exact fun _ => rfl)
  have put (v : State) (m : Move) (bs : List Byte) : v.localPut { q with trans := l' } m.dst bs = v.opmWrite q.core q.launch q.origin m.dst bs := by
    rw [State.localPut]
    simp only [plain]
  simp only [put, only.home, only.behind.now] at moved
  have same := translatesOnly_foldl (fun (a b : State) (m : Move) (ab : TranslatesOnly a b) =>
    ab.opmWrite q.core q.launch q.origin m.dst (sharedSource s.home s.now q { q with trans := l' } m)) (restOf q) only
  have queue' : ((u.cluster k).channel ch).queue = q :: rest := by rw [only.channel, queue]
  obtain ⟨head, bytes, -⟩ := filled_setHead low queue' (moveLocal_only u { q with trans := l' } (restOf q)) { q with trans := l' } h
  refine ⟨_, (exec_transferComplete_running low queue chain state).trans (congrArg _ (all.trans eq)), ?_, ?_⟩
  · rw [head, List.map_cons, done]
  · rw [bytes, moved]
    exact same.byteAt

/-- A transfer with a local source and a shared destination has its shadow. -/
theorem exec_transferComplete_shadow (source : q.ssh = false) (dest : q.dsh = true)
    (room : q.shadow = [] → ∀ g < 4,
      u.poolUsed g + granulesAt (u.shadowOf t (q.moves.map fun m => (m.dst, List.replicate q.shape.es 0))) g ≤ u.poolSize g) :
    let vals := q.got ++ (restOf q).map fun m => (m.dst, localSource s q m)
    (∀ v ∈ vals, v.1.toNat + v.2.length ≤ 2 ^ 48) → ∃ v h, exec (.transferComplete k ch) s = .next v ∧ v.byteAt = s.byteAt ∧
      ((v.cluster k).channel ch).queue = h :: rest ∧ h.state = .done (if q.defer then 1 else 0) ∧ ShadowCovers vals h.shadow := by
  intro vals fit
  obtain ⟨⟨l', rfl⟩, only⟩ := pagesLeft_spec pages
  have clean : u.poisonedSource { q with trans := l' } (restOf q) = none := if_pos (by rw [source]; rfl)
  have fits (some : reserved u { q with trans := l' } ≠ []) : ∀ g < 4,
      u.poolUsed g + granulesAt (reserved u { q with trans := l' }) g ≤ u.poolSize g := by
    rw [reserved] at some ⊢
    split at some
    next begins =>
      rw [if_pos begins]
      exact room (List.isEmpty_iff.mp (Bool.and_eq_true_iff.mp begins).2)
    next => exact absurd rfl some
  have all := runHead_all s k ch q (.inl source) pages reached open_ clean fits (fun shared => absurd shared (ne_true_of_eq_false source))
  obtain ⟨h, done, covers, eq⟩ := moveSome_moveEnds_shared (k := k) (ch := ch)
    (q := { q with trans := l', shadow := q.shadow ++ reserved u { q with trans := l' } }) plain source dest u (restOf q) (q.left.map (·.2))
  refine ⟨_, h, (exec_transferComplete_running low queue chain state).trans (congrArg _ (all.trans eq)),
    (byteAt_setHead low u k h).trans only.byteAt, queue_setHead low (by rw [only.channel, queue]) h, done, ?_⟩
  have values : q.got ++ (restOf q).map (fun m => (m.dst, localSource u q m)) = vals := by
    refine congrArg (q.got ++ ·) (List.map_congr_left fun m _ => ?_)
    simp only [localSource, only.opmRead]
  rw [← values] at fit ⊢
  exact covers fit

end
end Sys2Proof.Laws

/-!
A finished transfer (R187, R188, R190, R193): its slot, or its publication.
-/

namespace Sys2Proof.Laws

open Sys2Proof Sys2Proof.Machine

/-! ## Slots (R188) -/

section
variable (tag : W32) (ch status : Nat)

theorem getLsbD_slotWord (i : Nat) : (slotWord tag ch status).getLsbD i =
    if i < 8 then (BitVec.ofNat 8 status).getLsbD i else if i - 8 < 16 then (0#16).getLsbD (i - 8)
    else if i - 8 - 16 < 3 then (BitVec.ofNat 3 ch).getLsbD (i - 8 - 16) else if i - 8 - 16 - 3 < 5 then (0#5).getLsbD (i - 8 - 16 - 3)
    else tag.getLsbD (i - 8 - 16 - 3 - 5) := by
  refine BitVec.getLsbD_append.trans (if_congr .rfl rfl ?_)
  refine BitVec.getLsbD_append.trans (if_congr .rfl rfl ?_)
  exact BitVec.getLsbD_append.trans (if_congr .rfl rfl BitVec.getLsbD_append)

theorem slotWord_tag : (slotWord tag ch status).extractLsb' 32 32 = tag := by
  refine BitVec.eq_of_getLsbD_eq fun i low => ?_
  rw [BitVec.getLsbD_extractLsb', getLsbD_slotWord, if_neg (by omega), if_neg (by omega), if_neg (by omega), if_neg (by omega), decide_eq_true low,
    Bool.true_and, show 32 + i - 8 - 16 - 3 - 5 = i by omega]

theorem slotWord_channel : (slotWord tag ch status).extractLsb' 24 3 = BitVec.ofNat 3 ch := by
  refine BitVec.eq_of_getLsbD_eq fun i low => ?_
  rw [BitVec.getLsbD_extractLsb', getLsbD_slotWord, if_neg (by omega), if_neg (by omega), if_pos (by omega), decide_eq_true low,
    Bool.true_and, show 24 + i - 8 - 16 = i by omega]

theorem slotWord_status : (slotWord tag ch status).extractLsb' 0 8 = BitVec.ofNat 8 status := by
  refine BitVec.eq_of_getLsbD_eq fun i low => ?_
  rw [BitVec.getLsbD_extractLsb', getLsbD_slotWord, if_pos (by omega), decide_eq_true low, Bool.true_and, Nat.zero_add]

end

theorem updImage_clusters (s : State) (c n : Nat) (f : Ctx → Ctx) : (s.updImage c n f).clusters = s.clusters := by
  unfold State.updImage State.updCtx
  split
  · dsimp only
    split_ifs
    · rfl
    · rfl
    · rfl
  · rfl

theorem cluster_updImage (s : State) (c n : Nat) (f : Ctx → Ctx) (k : Nat) : (s.updImage c n f).cluster k = s.cluster k := by
  rw [State.cluster, updImage_clusters, State.cluster]

/-- A cluster whose ring has its next slot written. -/
def slotPut (x : Cluster) (ring : Nat) (w : W64 × W64) : Cluster :=
  { x with rings := PMap.put x.rings ring { x.ring ring with
      slots := PMap.put (x.ring ring).slots ((x.ring ring).wp.toNat % (x.ring ring).size) w, wp := (x.ring ring).wp + 1 } }

theorem ring_slotPut (x : Cluster) (ring : Nat) (w : W64 × W64) : let r := x.ring ring
    ((slotPut x ring w).ring ring).wp = r.wp + 1 ∧ PMap.find? ((slotPut x ring w).ring ring).slots (r.wp.toNat % r.size) = some w := by
  have at_ : (slotPut x ring w).ring ring = { x.ring ring with
      slots := PMap.put (x.ring ring).slots ((x.ring ring).wp.toNat % (x.ring ring).size) w, wp := (x.ring ring).wp + 1 } :=
    PMap.get_put_same ..
  dsimp only
  rw [at_]
  exact ⟨rfl, PMap.find?_put_same _ _ _⟩

/-- A slot written to a ring that has one to write. -/
theorem putSlot_spec (s : State) (k ring : Nat) (w0 w1 : W64) (size : ((s.cluster k).ring ring).size ≠ 0) :
    (s.putSlot k ring w0 w1).byteAt = s.byteAt ∧ (s.putSlot k ring w0 w1).cluster k = slotPut (s.cluster k) ring (w0, w1) := by
  unfold State.putSlot
  rw [if_neg size]
  dsimp only
  split
  · rw [byteAt_updImage, cluster_updImage]
    exact ⟨byteAt_setCluster s rfl, cluster_setCluster_same ..⟩
  · exact ⟨byteAt_setCluster s rfl, cluster_setCluster_same ..⟩

theorem size_ne_zero_of_slotFree {x : Cluster} {ring : Nat} (free : x.slotFree ring = true) : (x.ring ring).size ≠ 0 := by
  have := of_decide_eq_true free
  omega

/-! ## A transfer finishes -/

section
variable {s : State} {k ch : Nat} (low : ch < 8) {q : Transfer}

/-- A transfer's place in its channel is free, and its number is the completed one; a deferred shadow is kept. -/
def leftQueue (x : Cluster) (ch : Nat) (q : Transfer) (status : Nat) : Cluster :=
  let c := x.channel ch
  let y := x.setChannel ch { c with queue := c.queue.drop 1, doneNo := max c.doneNo q.no }
  if status = 1 then { y with deferred := y.deferred ++ [⟨q.ring, q.core, q.launch, q.shadow⟩] } else y

theorem rings_setChannel (x : Cluster) (ch : Nat) (c : Channel) : (x.setChannel ch c).rings = x.rings := by
  unfold Cluster.setChannel
  split <;> rfl

theorem rings_leftQueue (x : Cluster) (ch : Nat) (q : Transfer) (status : Nat) : (leftQueue x ch q status).rings = x.rings := by
  unfold leftQueue
  split
  · exact rings_setChannel ..
  · exact rings_setChannel ..

theorem ring_leftQueue (x : Cluster) (ch : Nat) (q : Transfer) (status ring : Nat) : (leftQueue x ch q status).ring ring = x.ring ring := by
  rw [Cluster.ring, rings_leftQueue, Cluster.ring]

theorem memories_leftQueue (x : Cluster) (ch : Nat) (q : Transfer) (status : Nat) : memories (leftQueue x ch q status) = memories x := by
  unfold leftQueue
  split
  · exact memories_setChannel ..
  · exact memories_setChannel ..

include low in
theorem channel_leftQueue (x : Cluster) (q : Transfer) (status : Nat) : (leftQueue x ch q status).channel ch =
    { x.channel ch with queue := (x.channel ch).queue.drop 1, doneNo := max (x.channel ch).doneNo q.no } := by
  unfold leftQueue
  split
  · exact channel_setChannel_same _ low _
  · exact channel_setChannel_same _ low _

/-- A finished transfer takes the next slot of its ring. -/
theorem finishSlot_spec (size : ((s.cluster k).ring q.ring).size ≠ 0) (status : Nat) :
    (s.finishSlot k ch q status).byteAt = s.byteAt ∧ (s.finishSlot k ch q status).cluster k =
      slotPut (leftQueue (s.cluster k) ch q status) q.ring (slotWord q.tag ch status, BitVec.ofNat 64 q.no) := by
  obtain ⟨bytes, cluster⟩ := putSlot_spec (s.setCluster k (leftQueue (s.cluster k) ch q status)) k q.ring (slotWord q.tag ch status)
    (BitVec.ofNat 64 q.no) (by rwa [cluster_setCluster_same, ring_leftQueue])
  rw [byteAt_setCluster s (memories_leftQueue ..)] at bytes
  rw [cluster_setCluster_same] at cluster
  have charged (u : State) :
      (if u.isAdmitted q.launch then u.updLaunch q.launch fun l => { l with bytes := l.bytes + q.moved } else u).byteAt = u.byteAt ∧
      (if u.isAdmitted q.launch then u.updLaunch q.launch fun l => { l with bytes := l.bytes + q.moved } else u).cluster k = u.cluster k := by
    obtain ⟨l, eq⟩ := updLaunch_eq (s := u) q.launch fun l => { l with bytes := l.bytes + q.moved }
    rw [eq]
    split
    · exact ⟨rfl, rfl⟩
    · exact ⟨rfl, rfl⟩
  obtain ⟨bytes', cluster'⟩ := charged ((s.setCluster k (leftQueue (s.cluster k) ch q status)).putSlot k q.ring (slotWord q.tag ch status)
    (BitVec.ofNat 64 q.no))
  exact ⟨bytes'.trans bytes, cluster'.trans cluster⟩

variable {rest : List Transfer} (queue : ((s.cluster k).channel ch).queue = q :: rest) (chain : ((s.cluster k).channel ch).chain = none)
  {n : Nat} (state : q.state = .done n) (unpublished : q.pub = none) (free : (s.cluster k).slotFree q.ring = true)
include low queue chain state unpublished free

theorem exec_transferComplete_done : exec (.transferComplete k ch) s = .next (s.finishHead k ch q n) := by
  show execTransferComplete k ch s = _
  simp only [execTransferComplete, headOf_of_queue low queue chain, state, unpublished, free, if_neg (Nat.ne_of_lt low), if_true]

variable (own : q.chainRec = none)
include own

/-- Without a shadow to publish a finished transfer takes its slot. -/
theorem exec_transferComplete_slot (nothing : n ≠ 0 ∨ q.shadow = []) :
    exec (.transferComplete k ch) s = .next (s.finishSlot k ch q n) := by
  rw [exec_transferComplete_done low queue chain state unpublished free]
  unfold State.finishHead
  simp only [own]
  refine congrArg _ (if_pos ?_)
  rcases nothing with other | none
  · rw [if_neg other]; rfl
  · rw [none, ite_self]; rfl

theorem exec_transferComplete_publishes (ok : n = 0) (shadow : q.shadow ≠ []) : exec (.transferComplete k ch) s =
    .next ((s.publish (copySource k) false .dev none q.core q.launch true true q.shadow (some s.now)).setHead k ch { q with pub := some s.ids }) := by
  rw [exec_transferComplete_done low queue chain state unpublished free]
  unfold State.finishHead
  simp only [own]
  rw [if_pos ok]
  exact congrArg _ (if_neg (mt List.isEmpty_iff.mp shadow))

end
end Sys2Proof.Laws

/-!
Transfers (R176, R178, R182–R186, R188): obligation O31.
-/

namespace Sys2Proof.Laws

open Sys2Proof Sys2Proof.Machine

section
variable {q : Transfer} (plain : q.kind = .plain)
include plain

theorem localPut_of_plain (s : State) (a : W64) (bs : List Byte) : s.localPut q a bs = s.opmWrite q.core q.launch q.origin a bs := by
  rw [State.localPut]
  simp only [plain]

/-- The granules of a plain transfer's local elements. -/
theorem fe_localFull_of_plain (d : Nat) {g : Nat} (low : g < 16384) (s : State) (m : Move) (inside : ∀ c, s.outRegion c q.launch = none) :
    ((s.localFull q m.dst).core d).fe.getLsbD g = true ↔ (s.core d).fe.getLsbD g = true ∨
      (opmType m.dst = 0 ∧ opmCore m.dst = d ∧ ∃ j < q.shape.es, (ulmByte q.core q.origin m.dst + j) / 16 = g) := by
  have form : s.localFull q m.dst = s.opmFull q.core q.launch q.origin m.dst q.shape.es := by
    rw [State.localFull]
    simp only [plain]
  rw [form, State.opmFull]
  split
  next here =>
    rw [fe_ulmFill (inside _) _ _ _ low]
    simp only [here, true_and, eq_comm]
  next other => simp [other]

end

/-- Settles O31: the walk; a transfer's checks at its start; what it moves at its completion, by where its sides are; its slot or its publication. -/
theorem transfers : Obligations.Transfers := by
  unfold Obligations.Transfers
  intro chan zeros
  refine ⟨fun q k i plain => ?walk, fun s k ch q rest queue chain plain => ?_⟩
  case walk =>
    intro ds zip soff dense inbox
    have in_ (i : List Nat) : q.shape.inbox i = true ↔ inbox i := inbox_iff q.shape i
    have offset : q.shape.soff i = soff := soff_eq_sum q.shape i
    refine ⟨indices_getElem?_eq_some_iff ds i k, length_moves_gathered plain, idx_moves_sublist plain, fun m member dest => ?_, fun at_ =>
      ⟨fun source => ⟨fun inside => ?_, fun outside => ?_⟩, fun dest inside => ?_⟩⟩
    · obtain ⟨i, k, -, inside, rfl⟩ := (mem_moves_scattered plain dest).mp member
      exact (in_ i).mp inside
    · rw [moves_getElem?_gathered plain source at_, gathered, if_pos ((in_ i).mpr inside), offset]
    · rw [moves_getElem?_gathered plain source at_, gathered, if_neg (mt (in_ i).mp outside)]
    · exact (mem_moves_scattered plain dest).mpr ⟨i, k, at_, (in_ i).mpr inside, by rw [scattered, offset]⟩
  intro ends
  have low : ch.val < 8 := ch.isLt
  have other := isDrain_of_plain plain
  have put (u : State) (only : TranslatesOnly s u) (h : Transfer) :
      SameMemory s (u.setHead k ch.val h) ∧ (chan (u.setHead k ch.val h) k ch).queue = h :: rest :=
    ⟨sameMemory_of_byteAt ((byteAt_setHead low u k h).trans only.byteAt),
      queue_setHead low ((congrArg Channel.queue (only.channel k ch.val)).trans queue) h⟩
  refine ⟨fun state => ?start, fun ms y state left asked ok due reached open_ => ?shared, fun state source dest shadow got lost => ?link,
    fun state source dest dies cores => ?near, fun n state unpublished own free => ?done⟩
  case start =>
    have fails {u : State} (only : TranslatesOnly s u) (n : Nat) : SameMemory s (u.failHead k ch.val q n) ∧
        (chan (u.failHead k ch.val q n) k ch).queue = { q with state := .done n } :: rest := by
      rw [failHead_of_not_drain u k ch.val other]
      exact put u only _
    refine ⟨fun bad => ⟨_, exec_transferStart_misshapen low queue chain state bad, fails (.refl s) 3⟩,
      fun shape aligned outside => ⟨_, exec_transferStart_outside low queue chain state shape aligned outside, fails (.refl s) 4⟩,
      fun shape aligned inside source dest =>
        ⟨_, exec_transferStart_local low queue chain state shape aligned inside source dest, put s (.refl s) _⟩,
      fun shape aligned inside => ?_⟩
    have only := pages_only s k q (q.accesses q.moves)
    obtain ⟨denied, waiting, over_, fits⟩ := exec_transferStart_checked low queue chain state shape aligned inside
    exact ⟨fun is => ⟨_, denied is, fails only 2⟩, fun is => ⟨_, waiting is, put _ only _⟩,
      fun is not => ⟨_, over_ is not, fails only 7⟩, fun is fit => ⟨_, fits is fit, put _ only _⟩⟩
  case shared =>
    subst left asked
    have pages : pagesLeft s k q = (.ok, (s.pages k q (q.accesses (restOf q))).2) := Prod.ext ok rfl
    refine ⟨fun source dest fresh aligned caught sound => ?_, fun source dest fit room => ?_⟩
    · obtain ⟨t, next, states, bytes⟩ :=
        exec_transferComplete_shared low queue chain state plain pages reached open_ source dest due fresh aligned caught sound
      exact ⟨t, next, states, congrFun bytes⟩
    · obtain ⟨t, h, next, bytes, head, done, covers⟩ :=
        exec_transferComplete_shadow low queue chain state plain pages reached open_ source dest room fit
      exact ⟨t, h, next, sameMemory_of_byteAt bytes, head, done, covers⟩
  case link =>
    have form : ({ q with shadow := [], got := [], state := .done 5 } : Transfer) = { q with state := .done 5 } := by rw [← shadow, ← got]
    exact ⟨_, exec_transferComplete_link low queue chain state source dest other lost, form ▸ put s (.refl s) _⟩
  case near =>
    obtain ⟨t, next, states, bytes, bits⟩ := exec_transferComplete_local_seen low queue chain state source dest other ⟨dies, cores⟩
    refine ⟨t, next, fun inside c g bound => bits inside c g _ (fe_localFull_of_plain plain c bound), states, fun p => ?_⟩
    rw [bytes]
    refine congrArg (fun f : State → Move → State => ((restOf q).foldl f s).byteAt p) (funext fun u => funext fun m => ?_)
    rw [localPut_of_plain plain, localSource]
    cases m.src <;> rfl
  case done =>
    have size := size_ne_zero_of_slotFree free
    refine ⟨fun nothing => ?_, fun ok shadow => ?_⟩
    · obtain ⟨bytes, cluster⟩ := finishSlot_spec (ch := ch.val) size n
      have channel := (congrArg (Cluster.channel · ch.val) cluster).trans (channel_leftQueue low (s.cluster k) q n)
      obtain ⟨next, slot⟩ := ring_slotPut (leftQueue (s.cluster k) ch.val q n) q.ring (slotWord q.tag ch.val n, BitVec.ofNat 64 q.no)
      rw [ring_leftQueue, ← cluster] at next slot
      refine ⟨_, slotWord q.tag ch.val n, exec_transferComplete_slot low queue chain state unpublished free own nothing, sameMemory_of_byteAt bytes,
        ?_, (congrArg Channel.doneNo channel :), next, slot, slotWord_tag .., slotWord_channel .., slotWord_status ..⟩
      exact (congrArg Channel.queue channel :).trans (congrArg (List.drop 1) queue)
    · have only := exec_transferComplete_publishes low queue chain state unpublished free own ok shadow
      refine ⟨_, _, only, ?_, pubs_setHead low _ k _, rfl, rfl, rfl, rfl, rfl, ?_⟩
      · exact sameMemory_of_byteAt (byteAt_setHead low _ k _)
      · exact queue_setHead low (s := s.publish (copySource k) false .dev none q.core q.launch true true q.shadow (some s.now)) queue _

end Sys2Proof.Laws

/-!
Chained copies (R191): the record at the head of a chain.
-/

namespace Sys2Proof.Laws

open Sys2Proof Sys2Proof.Machine

theorem ring_setChain (s : State) (k ch : Nat) (h : Option Chain) (ring : Nat) :
    ((s.setChain k ch h).cluster k).ring ring = (s.cluster k).ring ring := by
  rw [State.setChain, cluster_setCluster_same, Cluster.ring, rings_setChannel, Cluster.ring]

section
variable {s : State} {k ch : Nat} {h : Chain} (chain : ((s.cluster k).channel ch).chain = some h)
  (queue : ((s.cluster k).channel ch).queue = [])
include chain queue

theorem exec_chainRecordFetch_eq : exec (.chainRecordFetch k ch) s =
    if h.failed then .next (s.chainSlot k ch h)
    else match h.head with
      | none => .next (s.setChain k ch none)
      | some a => match s.chainRead k ch h a 64 64 with
        | (.waiting, s) => .next s
        | (.consumed key, s) => .next (s.consumeLine (baseCore k) key)
        | (.refused, s) => .next (s.setChain k ch (some { h with failed := true, started := true }))
        | (.bytes bs, s) =>
          let r := BitVec.ofNat 512 (leNat bs)
          if !r.getLsbD 159 then .next (s.setChain k ch none) else .next (s.chainTake k ch h a r) := by
  show execChainRecordFetch k ch s = _
  unfold execChainRecordFetch
  dsimp only
  rw [chain]
  exact (if_neg (by rw [queue]; simp)).trans rfl

/-- A chain that could not go on ends with its DENY slot, once its ring has room. -/
theorem exec_chainRecordFetch_failed (failed : h.failed = true) (ring : s.ringOk k h.ring = true) (free : (s.cluster k).slotFree h.ring = true) :
    exec (.chainRecordFetch k ch) s = .next ((s.putSlot k h.ring (slotWord 0xFFFFFFFF ch 2) (s.freeWord 2)).setChain k ch none) := by
  rw [exec_chainRecordFetch_eq chain queue, if_pos failed, State.chainSlot, ring]
  exact congrArg _ (if_pos free)

variable (sound : h.failed = false)
include sound

theorem exec_chainRecordFetch_ends (empty : h.head = none) : exec (.chainRecordFetch k ch) s = .next (s.setChain k ch none) := by
  rw [exec_chainRecordFetch_eq chain queue, if_neg (ne_true_of_eq_false sound), empty]

variable {a : W64} (head : h.head = some a)
include head

theorem exec_chainRecordFetch_refused (refused : s.chainRead k ch h a 64 64 = (.refused, s)) :
    exec (.chainRecordFetch k ch) s = .next (s.setChain k ch (some { h with failed := true, started := true })) := by
  rw [exec_chainRecordFetch_eq chain queue, if_neg (ne_true_of_eq_false sound), head]
  dsimp only
  rw [refused]

theorem exec_chainRecordFetch_read {bs : List Byte} (read : s.chainRead k ch h a 64 64 = (.bytes bs, s)) :
    exec (.chainRecordFetch k ch) s = if (BitVec.ofNat 512 (leNat bs)).getLsbD 159 then .next (s.chainTake k ch h a (BitVec.ofNat 512 (leNat bs)))
      else .next (s.setChain k ch none) := by
  rw [exec_chainRecordFetch_eq chain queue, if_neg (ne_true_of_eq_false sound), head]
  dsimp only
  rw [read]
  dsimp only
  cases (BitVec.ofNat 512 (leNat bs)).getLsbD 159 with
  | true => rfl
  | false => rfl

end

section
variable {s : State} {k ch : Nat} {h : Chain} (own : h.sh = false) {a : W64} {n align : Nat}
include own

/-- A chain in local memory reads what stands at an address that it may use. -/
theorem chainRead_local (aligned : a.toNat % align = 0) (inside : s.chainLocal k h a n = true) :
    s.chainRead k ch h a n align = (.bytes (s.opmRead h.core h.launch h.origin a n), s) := by
  rw [State.chainRead, own, inside]
  exact if_neg (not_not_intro aligned)

theorem chainRead_refused (bad : a.toNat % align ≠ 0 ∨ s.chainLocal k h a n = false) : s.chainRead k ch h a n align = (.refused, s) := by
  rw [State.chainRead]
  split
  · rfl
  next aligned =>
    rw [own, bad.resolve_left aligned]
    rfl

/-- The transfer of a chain's record, with its shape record, before its channel numbers it. -/
def recordTransfer (s : State) (ch : Nat) (h : Chain) (a : W64) (r : BitVec 512) (shape : BitVec 768) : Transfer :=
  { s.chainUser ch h with
    ssh := r.getLsbD 128, dsh := r.getLsbD 129, dstr := r.getLsbD 130, defer := r.getLsbD 131, code := r.getLsbD 132, src := r.extractLsb' 0 64,
    dst := r.extractLsb' 64 64, shape := shapeOf shape, ch := ch, ring := (r.extractLsb' 144 6).toNat, tag := r.extractLsb' 160 32,
    chainRec := some (a, h.sh) }

/-- A chain that goes on to its next record. -/
def chainNext (h : Chain) (r : BitVec 512) : Chain :=
  { h with head := if r.extractLsb' 256 64 = 0 then none else some (r.extractLsb' 256 64), started := true }

/-- A record that a CPY could name is queued at the front of its channel. -/
theorem chainTake_local {r : BitVec 512} (ring : s.ringOk k (r.extractLsb' 144 6).toNat = true) (defer : r.getLsbD 131 = false)
    (code : r.getLsbD 132 = false) (aligned : (r.extractLsb' 192 64).toNat % 16 = 0) (inside : s.chainLocal k h (r.extractLsb' 192 64) 96 = true) :
    s.chainTake k ch h a r = ((s.enqueueCopy k (recordTransfer s ch h a r (BitVec.ofNat 768 (leNat
      (s.opmRead h.core h.launch h.origin (r.extractLsb' 192 64) 96)))) true).2).setChain k ch (some (chainNext h r)) := by
  unfold State.chainTake
  simp only [ring, defer, code, Bool.not_true, Bool.false_and, Bool.or_false, Bool.false_eq_true, if_false, chainRead_local own aligned inside]
  rw [recordTransfer, defer, code]
  rfl

end
end Sys2Proof.Laws

/-!
Multicast copies (R184, R192), and obligation O32.
-/

namespace Sys2Proof.Laws

open Sys2Proof Sys2Proof.Machine

/-! ## A running multicast (R184, R192) -/

section
variable {q : Transfer} {rect : W64} {off : W32} (multicast : q.kind = .multicast rect off)
include multicast

theorem localPut_of_multicast (s : State) (a : W64) (bs : List Byte) :
    s.localPut q a bs = (rectOf rect).cores.foldl (fun u c => u.ulmWrite c q.launch (q.origin + a.toNat) bs) s := by
  rw [State.localPut]
  simp only [multicast]

/-- The granules of a multicast's elements, in the region of each receiver. -/
theorem fe_localFull_of_multicast (d : Nat) {g : Nat} (low : g < 16384) (s : State) (m : Move) (inside : ∀ c, s.outRegion c q.launch = none) :
    ((s.localFull q m.dst).core d).fe.getLsbD g = true ↔ (s.core d).fe.getLsbD g = true ∨
      (d ∈ (rectOf rect).cores ∧ ∃ j < q.shape.es, (q.origin + m.dst.toNat + j) / 16 = g) := by
  have form : s.localFull q m.dst = (rectOf rect).cores.foldl (fun u c => u.ulmFill c q.launch (q.origin + m.dst.toNat) q.shape.es) s := by
    rw [State.localFull]
    simp only [multicast]
  rw [form]
  refine (fe_foldl (f := fun (u : State) (c : Nat) => u.ulmFill c q.launch (q.origin + m.dst.toNat) q.shape.es) (fun u c => ulmFill_only ..)
    (fun u c inside => fe_ulmFill (inside c) _ _ d low) _ inside).trans (or_congr .rfl ?_)
  exact ⟨fun ⟨_, member, here, touched⟩ => ⟨here ▸ member, touched⟩, fun ⟨member, touched⟩ => ⟨d, member, rfl, touched⟩⟩

end

/-! ## The tree's grant (R192) -/

section
variable (s : State) (core launch : Nat) (n : Fin 11) (m : Multicast)

/-- A context with a buffer-free flag cleared. -/
def flagCleared (flag : BitVec 2) (y : Ctx) : Ctx := { y with bufFree := y.bufFree &&& ~~~BitVec.twoPow 4 flag.toNat }

/-- The state with a flag cleared in every context of a launch in a rectangle. -/
def flagsCleared (s : State) (launch : Nat) (m : Multicast) : State :=
  (rectOf m.rect).cores.foldl (fun u c => u.updCtx c launch (flagCleared m.flag)) s

theorem flagsCleared_byteAt : (flagsCleared s launch m).byteAt = s.byteAt := by
  unfold flagsCleared
  induction (rectOf m.rect).cores generalizing s with
  | nil => rfl
  | cons c cs later => exact (later _).trans (byteAt_updCtx _)

theorem updCtx_clusters (c : Nat) (f : Ctx → Ctx) : (s.updCtx c launch f).clusters = s.clusters := by
  obtain ⟨k, ⟨eq, -⟩ | eq⟩ := updCtx_eq (s := s) (c := c) (n := launch) f
  · rw [eq]; rfl
  · rw [eq]

theorem flagsCleared_clusters : (flagsCleared s launch m).clusters = s.clusters := by
  unfold flagsCleared
  induction (rectOf m.rect).cores generalizing s with
  | nil => rfl
  | cons c cs later => exact (later _).trans (updCtx_clusters ..)

/-- Of a running context only the flags change. -/
theorem run_updCtx_flag (c d : Nat) (flag : BitVec 2) :
    ∃ f, ((s.updCtx c launch (flagCleared flag)).core d).run = { (s.core d).run with bufFree := f } := by
  by_cases here : d = c
  · subst here
    cases run : (s.core d).run.of launch with
    | true =>
      rw [updCtx_of_run _ run, core_setCore_same]
      exact ⟨_, rfl⟩
    | false =>
      cases shadow : (s.core d).shadow.of launch with
      | true =>
        rw [updCtx_of_shadow _ run shadow, core_setCore_same]
        exact ⟨_, rfl⟩
      | false =>
        rw [updCtx_of_neither _ run shadow]
        exact ⟨_, rfl⟩
  · rw [core_updCtx_other _ here]
    exact ⟨_, rfl⟩

theorem run_flagsCleared (d : Nat) : ∃ f, ((flagsCleared s launch m).core d).run = { (s.core d).run with bufFree := f } := by
  unfold flagsCleared
  induction (rectOf m.rect).cores generalizing s with
  | nil => exact ⟨_, rfl⟩
  | cons c cs later =>
    obtain ⟨f, eq⟩ := run_updCtx_flag s launch c d m.flag
    obtain ⟨g, eq'⟩ := later (s.updCtx c launch (flagCleared m.flag))
    exact ⟨g, eq'.trans (congrArg (fun x : Ctx => { x with bufFree := g }) eq)⟩

/-- Where every context of the rectangle had the flag, each is there without it. -/
theorem ctxOf_flagsCleared {s : State} {launch : Nat} (all : s.allFree launch m.flag m.rect = true) {d : Nat} (member : d ∈ (rectOf m.rect).cores) :
    ∃ y, (flagsCleared s launch m).ctxOf d launch = some y ∧ y.bufFree.getLsbD m.flag.toNat = false := by
  have resident := List.all_eq_true.mp all d member
  cases before : s.ctxOf d launch with
  | none => rw [before] at resident; cases resident
  | some x =>
    have idem (_ : Nat) (x : Ctx) : flagCleared m.flag (flagCleared m.flag x) = flagCleared m.flag x := by
      unfold flagCleared
      dsimp only
      rw [BitVec.and_assoc, BitVec.and_self]
    refine ⟨flagCleared m.flag x, ?_, by simp [flagCleared, BitVec.getLsbD_twoPow]⟩
    exact foldl_idempotent (read := fun u c => u.ctxOf c launch) (upd := fun u c => u.updCtx c launch (flagCleared m.flag))
      (f := fun _ => flagCleared m.flag) (fun _ _ _ other => ctxOf_updCtx_other _ other)
      (fun _ _ _ there => ctxOf_updCtx_same (f := flagCleared m.flag) (fun _ => rfl) there) idem member before

end

section
variable {s : State} {c : Nat} {n : Fin 11} {len : Nat} {rd : SReg} {m : Multicast}

/-- The transfer of a CPYM, before its channel numbers it. -/
def mcastTransfer (s : State) (c : Nat) (x : Ctx) (m : Multicast) : Transfer :=
  s.transfer x c m.ssh false m.dstr false false m.src (m.off.setWidth 64) m.shape m.ch.toNat m.ring.toNat m.off (.multicast m.rect m.off)

/-- A granted CPYM: its thread goes on with the transfer's number. -/
def goesOn (n : Fin 11) (len : Nat) (rd : SReg) (no : Nat) (y : Ctx) : Ctx := y.setThread n (((y.thread n).setReg rd (BitVec.ofNat 64 no)).past len)

/-- The queued transfer of a granted CPYM. -/
def mcastQueued (s : State) (c : Nat) (m : Multicast) : Transfer :=
  { mcastTransfer (flagsCleared s (s.core c).run.launch m) c (s.core c).run m with no := ((s.cluster (clusterOf c)).channel m.ch.toNat).lastNo + 1 }

/-- The state after a CPYM is granted: the flags cleared, its transfer queued, its thread going on. -/
def mcastGranted (s : State) (c : Nat) (n : Fin 11) (len : Nat) (rd : SReg) (m : Multicast) : State :=
  let u := flagsCleared s (s.core c).run.launch m
  ((u.enqueueCopy (clusterOf c) (mcastTransfer u c (s.core c).run m) false).2).updCtx c (s.core c).run.launch
    (goesOn n len rd (((s.cluster (clusterOf c)).channel m.ch.toNat).lastNo + 1))

theorem cluster_flagsCleared (s : State) (launch : Nat) (m : Multicast) (k : Nat) : (flagsCleared s launch m).cluster k = s.cluster k := by
  rw [State.cluster, flagsCleared_clusters, State.cluster]

theorem exec_multicastGrant (stall : ((s.core c).run.thread n).stall = some ⟨len, rd, .mcast m⟩)
    (first : s.mcastAhead c n.val (s.core c).run.launch m = false) (all : s.allFree (s.core c).run.launch m.flag m.rect = true)
    (room : ((s.cluster (clusterOf c)).channel m.ch.toNat).queue.length < 16) :
    exec (.multicastGrant c n.val) s = .next (mcastGranted s c n len rd m) := by
  show execMulticastGrant c n.val s = _
  have place : s.roomOn (clusterOf c) m.ch.toNat = true := decide_eq_true room
  simp only [execMulticastGrant, thrOf_val, stall, first, all, place, Bool.not_true, Bool.or_false, Bool.false_eq_true, if_false]
  rw [mcastGranted, ← cluster_flagsCleared s (s.core c).run.launch m]
  rfl

theorem mcastGranted_byteAt : (mcastGranted s c n len rd m).byteAt = s.byteAt :=
  (byteAt_updCtx _).trans ((byteAt_enqueueCopy ..).trans (flagsCleared_byteAt ..))

theorem queue_mcastGranted : (((mcastGranted s c n len rd m).cluster (clusterOf c)).channel m.ch.toNat).queue =
    ((s.cluster (clusterOf c)).channel m.ch.toNat).queue ++ [mcastQueued s c m] := by
  have queue := channel_enqueueCopy (flagsCleared s (s.core c).run.launch m) (clusterOf c)
    (mcastTransfer (flagsCleared s (s.core c).run.launch m) c (s.core c).run m) false m.ch.isLt
  rw [mcastGranted, State.cluster, updCtx_clusters]
  refine (congrArg Channel.queue queue).trans ?_
  rw [cluster_flagsCleared]
  rfl

theorem ctxOf_mcastGranted (all : s.allFree (s.core c).run.launch m.flag m.rect = true) {d : Nat} (member : d ∈ (rectOf m.rect).cores) {y : Ctx}
    (at_ : (mcastGranted s c n len rd m).ctxOf d (s.core c).run.launch = some y) : y.bufFree.getLsbD m.flag.toNat = false := by
  obtain ⟨z, there, off⟩ := ctxOf_flagsCleared m all member
  have queued : ((flagsCleared s (s.core c).run.launch m).enqueueCopy (clusterOf c) (mcastTransfer (flagsCleared s (s.core c).run.launch m) c
      (s.core c).run m) false).2.ctxOf d (s.core c).run.launch = some z := (ctxOf_of_core (by rfl) _).trans there
  rw [mcastGranted] at at_
  by_cases here : d = c
  · subst here
    obtain rfl := Option.some.inj ((ctxOf_updCtx_same (f := goesOn n len rd _) (fun _ => rfl) queued).symm.trans at_)
    exact off
  · obtain rfl := Option.some.inj (queued.symm.trans ((ctxOf_updCtx_other _ here).symm.trans at_))
    exact off

theorem thread_mcastGranted (resident : (s.core c).run.resident = true) : ((mcastGranted s c n len rd m).core c).run.thread n =
    (((s.core c).run.thread n).setReg rd (BitVec.ofNat 64 (mcastQueued s c m).no)).past len := by
  obtain ⟨f, run⟩ := run_flagsCleared s (s.core c).run.launch m c
  have running : (((flagsCleared s (s.core c).run.launch m).enqueueCopy (clusterOf c) (mcastTransfer (flagsCleared s (s.core c).run.launch m) c
      (s.core c).run m) false).2.core c).run.of (s.core c).run.launch = true := by
    show ((flagsCleared s (s.core c).run.launch m).core c).run.of (s.core c).run.launch = true
    rw [run]
    simp [Ctx.of, resident]
  rw [mcastGranted, updCtx_of_run _ running, core_setCore_same]
  show (goesOn n len rd _ ((flagsCleared s (s.core c).run.launch m).core c).run).thread n = _
  rw [run, goesOn, thread_setThread_same]
  rfl

end

/-- Settles O32: the next record of a chain, case by case; a multicast's elements in every region of its rectangle; the tree's grant. -/
theorem chainsAndMulticast : Obligations.ChainsAndMulticast := by
  unfold Obligations.ChainsAndMulticast
  intro chan
  refine ⟨fun s k ch h runs empty => ?chain, fun s k ch q rest rect off queue chain multicast state source dest => ?multicast,
    fun s c n len rd m => ?grant⟩
  case chain =>
    intro i chain
    have low : ch.val < 8 := ch.isLt
    have given {u : State} {c : Option Chain} (next : exec i s = .next (u.setChain k ch.val c)) (bytes : u.byteAt = s.byteAt) :
        chain (u.setChain k ch.val c) c :=
      ⟨next, sameMemory_of_byteAt ((byteAt_setChain ..).trans bytes), congrArg Channel.chain (channel_setChain u k low c)⟩
    refine ⟨fun sound none => ⟨_, given (exec_chainRecordFetch_ends runs empty sound none) rfl⟩, fun failed free bound => ?_,
      fun a sound head own => ⟨fun bad => ⟨_, given (exec_chainRecordFetch_refused runs empty sound head (chainRead_refused own bad)) rfl⟩,
        fun aligned inside => ?_⟩⟩
    · have size := size_ne_zero_of_slotFree free
      obtain ⟨bytes, cluster⟩ := putSlot_spec s k h.ring (slotWord 0xFFFFFFFF ch.val 2) (s.freeWord 2) size
      obtain ⟨next, slot⟩ := ring_slotPut (s.cluster k) h.ring (slotWord 0xFFFFFFFF ch.val 2, s.freeWord 2)
      have taken := given (exec_chainRecordFetch_failed runs empty failed ((ringOk_iff ..).mpr ⟨bound, size⟩) free) bytes
      refine ⟨_, _, s.freeWord 2, taken, ?_, ?_, slotWord_tag .., slotWord_channel .., slotWord_status ..⟩
      · rw [ring_setChain, cluster, next]
      · rw [ring_setChain, cluster, slot]
    · intro r shape next
      have read := exec_chainRecordFetch_read runs empty sound head (chainRead_local own aligned inside)
      refine ⟨fun other => ⟨_, given (read.trans (if_neg (ne_true_of_eq_false other))) rfl⟩, fun owned ring defer code aligned inside => ?_⟩
      have takes := (read.trans (if_pos owned)).trans (congrArg _ (chainTake_local own ring defer code aligned inside))
      have queue := channel_enqueueCopy s k (recordTransfer s ch.val h a r (BitVec.ofNat 768 (leNat
        (s.opmRead h.core h.launch h.origin shape 96)))) true low
      refine ⟨_, { recordTransfer s ch.val h a r (BitVec.ofNat 768 (leNat (s.opmRead h.core h.launch h.origin shape 96))) with
        no := (chan s k ch).lastNo + 1 }, given takes (byteAt_enqueueCopy ..), ?_, rfl, rfl, rfl, rfl, rfl, rfl, rfl, rfl, rfl, rfl⟩
      refine (congrArg Channel.queue (channel_setChain _ k low _)).trans ((congrArg Channel.queue queue).trans ?_)
      exact congrArg (_ :: ·) empty
  case multicast =>
    intro cs dies cores
    have low : ch.val < 8 := ch.isLt
    have other : q.isDrain = false := by rw [Transfer.isDrain, multicast]
    obtain ⟨t, next, states, bytes, bits⟩ := exec_transferComplete_local_seen low queue chain state source dest other ⟨dies, cores⟩
    refine ⟨t, next, states, fun p => ?_, fun inside c g bound => ?_⟩
    · rw [bytes]
      refine congrArg (fun f : State → Move → State => ((restOf q).foldl f s).byteAt p) (funext fun u => funext fun m => ?_)
      rw [localPut_of_multicast multicast, localSource]
      cases m.src <;> rfl
    · refine (bits inside c g _ (fe_localFull_of_multicast multicast c bound)).trans (or_congr .rfl ?_)
      exact ⟨fun ⟨m, member, here, touched⟩ => ⟨here, m, member, touched⟩, fun ⟨here, m, member, touched⟩ => ⟨m, member, here, touched⟩⟩
  case grant =>
    intro x k resident stall first all room
    exact ⟨_, mcastQueued s c m, exec_multicastGrant stall first all room, sameMemory_of_byteAt mcastGranted_byteAt,
      fun d member y at_ => ctxOf_mcastGranted all member at_, queue_mcastGranted, rfl, rfl, rfl, rfl, rfl, rfl, rfl, thread_mcastGranted resident⟩

end Sys2Proof.Laws
